-- ==== Sys2Proof/Word.lean ====
section
/-!
DEFINITION. The plain value types of the IG940 model: bytes and register words, and sparse tables, which are lists of
(key, value) pairs with strictly rising keys and no entry equal to what an unlisted key reads as.
-/
namespace Sys2Proof

/-- A byte. -/
abbrev Byte := BitVec 8

/-- A 32-bit word, little-endian in memory (R4). -/
abbrev Word := BitVec 32

/-- A 64-bit word. -/
abbrev Word64 := BitVec 64

/-- A sparse table: keys strictly rising, no entry that an unlisted key already reads as. -/
abbrev Table (α : Type) := List (Nat × α)

end Sys2Proof
end

