-- ==== Sys2Proof/Syntax.lean ====
section
/-!
DEFINITION. The commands of the IG940: one constructor of Instr for each row of spec/opcode_table.json, with the
operands the row's command carries, and the plain data those operands are made of.
-/
namespace Sys2Proof

/-- The nine strap bits of a strap-reading die (R16, R17): site ID, role code, variant code. -/
structure Straps where
  site : BitVec 3 := 0
  role : BitVec 2 := 0
  variant : BitVec 4 := 0
  deriving DecidableEq, Repr

/-- The settings of a CAN controller (R333, R336): the bit rates of its arbitration and data phase, the sample point (in tenths of a
percent) and synchronisation jump width (in time quanta) of each, and the transmitter delay compensation offset (in ns). -/
structure CanTiming where
  arbRate : Nat := 0
  arbSample : Nat := 0
  arbSjw : Nat := 0
  dataRate : Nat := 0
  dataSample : Nat := 0
  dataSjw : Nat := 0
  tdc : Nat := 0
  deriving DecidableEq, Repr

/-- What the checks of R53 find in a firmware image: whether the signature verifies against the fused key, the
security version, the Eztos or Uathal revisions it supports, the (DIE_TYPE, REVISION)
pairs it recognises (R40), the lowest island B security version that it lists (R437), and for a Uathal image whether SFD_CAN runs
CAN FD, and its settings (R336). -/
structure FwImage where
  sigOk : Bool := false
  version : Nat := 0
  revisions : List Byte := []
  recognised : List (Nat × Byte) := []
  minB : Nat := 0
  sfdCanFd : Bool := false
  sfdCan : CanTiming := {}
  deriving DecidableEq, Repr

/-- An image slot of a boot flash with its slot record (R55): a write count and its bitwise complement. -/
structure FwSlot where
  image : FwImage := {}
  count : BitVec 32 := 0
  compl : BitVec 32 := 0
  deriving DecidableEq, Repr

/-- What the Uathal die finds at its own power-on: its straps, its 32-byte identity record, its boot flash where it
was programmed from outside, the groups that its start-up injection test fails, and the pairing key in its fuses (R16, R19, R434-R436,
R447). -/
structure SfdInputs where
  straps : Straps := {}
  ident : List Byte := []
  flash : Option (List FwSlot) := none
  testFail : BitVec 64 := 0
  pairKey : List Byte := []
  deriving DecidableEq, Repr

/-- What the host sets in the endpoint's configuration space when it enumerates it (R69, R72): log2 of the size of BAR2, and the
maximum payload and read request sizes in bytes. -/
structure HostSetup where
  winLog2 : Nat := 28
  maxPayload : Nat := 512
  maxReadReq : Nat := 4096
  deriving DecidableEq, Repr

/-- What the dies of the package find at reset release (R16, R19): the straps and the 32-byte identity records of the
Eztos die and of CD0-CD3, the identity records of MD0-MD3, and the groups that island A's start-up injection test
and guard and deadline timer tests fail (R447, R462); the boot flash where it was programmed from outside; and the 16-byte descriptor
of the partner die (vendor ID, device ID, revision, signature); the pairing key in the Eztos fuses (R436); and what the arrays of the memory dies will be found to hold: words
(by number) that ECC corrects (1) or finds uncorrectable (2) when a command that carries no outcome of its own next reads them
(R304, R305). -/
structure PkgInputs where
  enum : HostSetup := {}
  iodStraps : Straps := {}
  iodIdent : List Byte := []
  cdStraps : List Straps := []
  cdIdent : List (List Byte) := []
  mdIdent : List (List Byte) := []
  flash : Option (List FwSlot) := none
  testFail : BitVec 64 := 0
  timersOk : Bool := true
  partner : List Byte := []
  pairKey : List Byte := []
  arrayErrs : List (Nat × Nat) := []
  deriving DecidableEq, Repr

/-- What comparator slot `slot` of group `group` showed in an injection test (R445), where it is not a flag of the inverted pattern that
the fault collector recorded: the mismatches flagged in it, as groups with their syndromes, and whether the collector recorded them. -/
structure CmpSeen where
  group : Nat
  slot : Nat
  flags : List (Nat × Nat)
  recorded : Bool := true
  deriving DecidableEq, Repr

/-- The 32 bytes of a waggle message (R29). -/
abbrev WaggleMsg := List Byte

/-- The end of a link at which a message arrives: the follower's or the leader's. -/
structure LinkEnd where
  link : Nat
  toFollower : Bool
  deriving DecidableEq, Repr

/-- A ramp limiter's estimate of a die's power, and of the part of it that is best-effort duty, in mW (R63, R64). -/
structure DieEstimate where
  mw : Nat
  be : Nat
  deriving DecidableEq, Repr

/-- A job that starts, by its key, with its estimated power in mW on the dies CD0-CD3 (R64). -/
structure JobBegin where
  job : Nat
  est : List Nat
  deriving DecidableEq, Repr

/-- The end of a forager's DRAM transfer; `bad` are the byte offsets in it of the 64-bit words that read with a double-bit error
(R178). -/
structure XferEnd where
  forager : Nat
  bad : List Nat
  deriving DecidableEq, Repr

/-- The end of a forager's scratchpad operation; `ue` says that its reads met a double-bit error (R178). -/
structure OpEnd where
  forager : Nat
  ue : Bool
  deriving DecidableEq, Repr

/-- The end of a CAN message's reception: how many of the receive buffers the firmware emptied since the last, and how many ns ago the
sample point of its start-of-frame bit was (R336, R351). -/
structure CanArrival where
  taken : Nat
  ago : Nat := 0
  deriving DecidableEq, Repr

/-- The end of a CAN frame's transmission: the port, and how many ns ago the sample point of its start-of-frame bit was (R351). -/
structure CanEnd where
  port : Nat
  ago : Nat := 0
  deriving DecidableEq, Repr

/-- The start of a PWM output's period; `sub` is the sub-tick part of its capture in tenths of ns, which come in steps of 3.2 ns
(R351, R352). -/
structure PwmStart where
  out : Nat
  sub : Nat
  deriving DecidableEq, Repr

/-- A JOIN_DONE message, and whether island B reports its PLL locked with it (R436, R66). -/
structure JoinReport where
  msg : List Byte
  lock : Bool
  deriving DecidableEq, Repr

/-- Where a scheduled read delivers its row or word (R129, R135, R138): an input buffer of a set of cells, a row of
their shadow tiles, 32 of the 64 weight scales of a shadow tile, the 32 input scales of a buffer, or 8 lanes of a
vector register. -/
inductive RdDst where
  | input (cells : BitVec 8) (buf : Nat)
  | weights (cells : BitVec 8) (row : Nat)
  | wscales (cells : BitVec 8) (half : Nat)
  | iscales (cells : BitVec 8) (buf : Nat)
  | vreg (r : Nat) (pos : Nat)
  deriving DecidableEq, Repr

/-- What a scheduled write stores: a 32-byte word of a vector register, 8 lanes from lane 8 × `pos` (R139), or a whole row.  Spec/
names no engine that makes a wide write: its row comes with the operation (DESIGN CHOICE; log entry 108). -/
inductive WrSrc where
  | vreg (r : Nat) (pos : Nat)
  | row (bytes : List Byte)
  deriving DecidableEq, Repr

/-- A conversion of the vector engine (R159, R168): the format code (8: INT32 of a drained entry), `n` values; the register and byte
position of the packed elements, and of the block scales in MXFP4; the register and first lane of the FP32 values. -/
structure Conv where
  fmt : Nat
  n : Nat
  reg : Nat
  pos : Nat
  sreg : Nat := 0
  spos : Nat := 0
  vreg : Nat
  lane : Nat := 0
  deriving DecidableEq, Repr

/-- The vector engine's FP32 operations (R132, R165, R166). -/
inductive VOp where
  | add | sub | mul | fma | max | min | lt | le | eq | recip | sqrt | exp2 | exp
  deriving DecidableEq, Repr

/-- What an identity read returns (R21). -/
inductive IdSrc where
  | word (n : Nat)
  | jobIndex
  | argument (n : Nat)
  deriving DecidableEq, Repr

/-- A forager DRAM transfer (R141, R180, R184).  Its descriptor encoding is the toolkit's; these are the effects it
names: the direction, the memory object and offset, the comb and scratchpad address, the size in bytes, the
CONSUMERS of a MARK (0: none), whether source slots are released, another label that it names (R280), its HINT (R294) and its
DEADLINE, where it gives one (R317). -/
structure DramXfer where
  toSpad : Bool
  obj : Nat
  off : Nat
  comb : Nat
  spad : Nat
  size : Nat
  mark : Nat := 0
  release : Bool := false
  label : Option Nat := none
  hint : Nat := 0
  deadline : Option Nat := none
  deriving DecidableEq, Repr

/-- A forager descriptor: a scratchpad operation of R192 (32 bytes) or a DRAM transfer. -/
inductive Desc where
  | op (bytes : List Byte)
  | dram (x : DramXfer)
  deriving DecidableEq, Repr

/-- What a WEMIT carries (R202). -/
structure Wemit where
  group : Nat
  buf : Nat
  cells : BitVec 8
  n : Nat
  nch : Nat
  xb : Int
  xin : Int
  stride : Nat
  width : Nat
  pad : Nat
  rowpad : Bool
  eb : Nat
  deriving DecidableEq, Repr

/-- A scheduled operation of a bundle (R132, R201, R188).  The binary encoding of bundles is the toolkit's (R134);
this is what each operation says.  `err` on a read: 0 none, 1 a corrected ECC error in its row, 2 an uncorrectable
one (R178). -/
inductive BOp where
  | read (wide : Bool) (addr : Nat) (dst : RdDst) (release : Bool) (err : Nat)
  | write (addr : Nat) (src : WrSrc) (mark : Nat)
  | swap (cell : Nat)
  | stream (cell fmt wfmt bank entry buf vec : Nat) (acc : Bool)
  | drain (cell bank entry reg half : Nat)
  | vector (op : VOp) (a b c dst : Nat)
  | toFp32 (c : Conv)
  | fromFp32 (c : Conv)
  | identity (src : IdSrc) (dst : Nat)
  | descriptor (f : Nat) (d : Desc)
  | wload (addr line half : Nat) (release : Bool) (err : Nat)
  | wemit (w : Wemit)
  | cacheRead (wide : Bool) (addr : Nat) (dst : RdDst) (err : Nat)
  | cacheWrite (addr : Nat) (src : WrSrc)
  | tileStart (table : Nat) (index : Nat)
  | tileEnd
  | attnStart (table : Nat) (index : Nat)
  | attnEnd
  deriving DecidableEq, Repr

/-- A request to device memory as its requester makes it (R293): KIND 0 read, 1 write, 2 atomic larger-of; the address and the
number of its words; of a write the byte enables, the data and the poison of each word; HINT (R294); the label that its
record or descriptor names, whether it is for a honey page (R315), and the deadline that a forager transfer or an engine
supplies (R317); its SOURCE (R308). -/
structure DramReq where
  kind : Nat
  addr : Nat
  words : Nat
  mask : List (BitVec 64) := []
  data : List Byte := []
  hint : Nat := 0
  label : Nat := 0
  honey : Bool := false
  deadline : Option Nat := none
  poison : List Bool := []
  source : Nat
  deriving DecidableEq, Repr

/-- A CAN or CAN FD frame (R333, R336). -/
structure CanFrame where
  id : Nat := 0
  ide : Bool := false
  fdf : Bool := false
  brs : Bool := false
  data : List Byte := []
  deriving DecidableEq, Repr

/-- A CSI-2 packet (R333, R334): virtual channel, data type, the 16 bits of a short packet's data field, a long packet's payload,
its header (0 sound, 1 a single-bit error, 2 uncorrectable) and whether its payload fails CRC. -/
structure CsiPacket where
  vc : Nat
  dtype : Nat
  word : Nat := 0
  payload : List Byte := []
  header : Nat := 0
  crcBad : Bool := false
  deriving DecidableEq, Repr

/-- A sensor that the firmware configuration lists (R339): KIND 4 or 5, its port reference and KEY. -/
structure CfgSensor where
  kind : Nat
  port : Nat
  key : Nat
  deriving DecidableEq, Repr

/-- An ISOBUS port of the firmware configuration (R346). -/
structure CfgIsobus where
  port : Nat
  name : Nat
  selfConfig : Bool
  addr : Nat
  deriving DecidableEq, Repr

/-- A stretch of DRAM that the firmware's memory plan reserves (R287, R325): base, size and partition ID 17-20. -/
structure CfgRange where
  base : Nat
  size : Nat
  partition : Nat
  hostVisible : Bool := false
  deriving DecidableEq, Repr

/-- The firmware's configuration, which spec/ leaves to it: the Hive Interface version and build, ISHARE and the
memory plan (R287), the honey pages of each home (R228), the largest window (R95), the sensors and CAN modes it
configures (R336, R339, R346), the PWM periods in steps of 3.2 ns, the Ethernet ports that run at 25 Gb/s and those of them with
RS-FEC, the polarity and direction (1 output) of the GPIO, the mode of each SPI port and the bit rate of each GNSS UART (R333), and
the storage ports that hold an SSD (R71, R479). -/
structure FwConfig where
  major : Nat := 1
  minor : Nat := 0
  build : Nat := 0
  ishare : Nat := 4
  ranges : List CfgRange := []
  poolPages : List Nat := []
  winMax : Nat := 28
  sensors : List CfgSensor := []
  isobus : List CfgIsobus := []
  canFd : BitVec 8 := 0
  canTiming : List CanTiming := []
  spiSelects : List Nat := []
  pwmPeriod : List Nat := []
  gpioPol : BitVec 32 := 0
  gpioOut : BitVec 32 := 0
  eth25 : BitVec 12 := 0
  ethFec : BitVec 12 := 0
  spiMode : List Nat := []
  uartBaud : List Nat := []
  ssd : BitVec 2 := 0
  deriving DecidableEq, Repr


/-- What particle strikes have done to a copy of a configuration record since it was last read (R453): its island (0 A, 1 B),
index and copy, the bytes that it now reads as, and whether every word reads without an uncorrectable error. -/
structure Upset where
  island : Nat
  index : Nat
  copy : Nat
  bytes : List Byte
  intact : Bool
  deriving DecidableEq, Repr

/-- The commands and events of spec/opcode_table.json, one constructor per row.  The table gives its rows no bits and
no operands; the operands are what the rule of the row needs from outside the block. -/
inductive Instr where
  /-- POWER_ON (R52): SYS_PWROK rises and the whole device, island B included, goes through a cold reset. -/
  | powerOn (p : PkgInputs) (b : Option SfdInputs)
  /-- PERST (R48): The host asserts PERST# and every die except Uathal takes a warm reset. -/
  | perst (p : PkgInputs)
  /-- HOT_RESET (R48): A PCIe in-band hot reset warm-resets every die except Uathal. -/
  | hotReset (p : PkgInputs)
  /-- FUNCTION_LEVEL_RESET (R48): An FLR of the endpoint function warm-resets every die except Uathal. -/
  | functionLevelReset (p : PkgInputs)
  /-- ISLAND_B_POWER_ON (R520): SFD_PWROK rises and island B takes its own power-on reset. -/
  | islandBPowerOn (b : SfdInputs)
  /-- SYS_PWROK_LOSS (R521): SYS_PWROK falls and every die except Uathal is held in reset. -/
  | sysPwrokLoss
  /-- FIRMWARE_VERIFIED (R54): The boot ROM finishes reading and checking the flash slots, then accepts a slot or halts with a boot error. -/
  | firmwareVerified
  /-- MAILBOX_READY (R52): The firmware sets MBX_CTRL.READY and posts the boot-time events once waggle on links 0–3 has ended. -/
  | mailboxReady (cfg : FwConfig)
  /-- MEMORY_TRAINING_DONE (R301): Full training of a pair's Mimider interface ends, and the pair either passes or is excluded. -/
  | memoryTrainingDone (d : Nat) (lanes : List Nat) (ue : Option Nat)
  /-- SHORT_RETRAIN_DONE (R303): The warm-reset short retrain of a pair ends, and WARM_TRAIN is written once all included pairs have ended. -/
  | shortRetrainDone (d : Nat) (eyesOk readBackOk : Bool)
  /-- COMB_RELEASE (R26): Once training, the island B join and every ring link have settled, the combs are released. -/
  | combRelease
  /-- ISLAND_B_READY (R434): Island B has accepted a firmware slot, passed its injection test and is ready to join. -/
  | islandBReady
  /-- WAGGLE_HELLO (R30): A follower receives HELLO and answers with IDENT and OFFER. -/
  | waggleHello (link : Nat) (msg : WaggleMsg) (rate lanes : Nat)
  /-- WAGGLE_IDENT (R18): The leader receives IDENT and checks the follower's straps, identity or partner signature. -/
  | waggleIdent (link : Nat) (msg : WaggleMsg) (sigOk : Bool)
  /-- WAGGLE_OFFER (R33): The leader receives OFFER and selects the rate, modules and capabilities in a SELECT. -/
  | waggleOffer (link : Nat) (msg : WaggleMsg)
  /-- WAGGLE_SELECT (R30): The follower receives SELECT, answers with CONFIRM and begins mainband training. -/
  | waggleSelect (link : Nat) (msg : WaggleMsg)
  /-- WAGGLE_CONFIRM (R30): The leader receives CONFIRM, the echo of its SELECT. -/
  | waggleConfirm (link : Nat) (msg : WaggleMsg)
  /-- MAINBAND_TRAINING_DONE (R33): A follower's mainband training attempt ends, and the follower sends TRAINED. -/
  | mainbandTrainingDone (link result : Nat) (mods : BitVec 4)
  /-- WAGGLE_TRAINED (R33): The leader receives TRAINED and steps the rate down, sends DONE or excludes the die, or records a ring-link outcome. -/
  | waggleTrained (at_ : LinkEnd) (msg : WaggleMsg)
  /-- WAGGLE_DONE (R34): A follower echoes DONE, or the leader receives the echo and the die reaches DONE. -/
  | waggleDone (link : Nat) (toFollower : Bool) (msg : WaggleMsg)
  /-- WAGGLE_REJECT (R34): A follower receives REJECT and holds its combs and Mimider die in reset. -/
  | waggleReject (link : Nat) (msg : WaggleMsg)
  /-- WAGGLE_NAK (R31): A NAK is received and the sender retransmits the message at once. -/
  | waggleNak (link : Nat) (toFollower : Bool) (msg : WaggleMsg)
  /-- WAGGLE_REPLY_TIMEOUT (R32): 200 µs pass without a valid reply, and the leader retransmits or excludes the follower. -/
  | waggleReplyTimeout (link : Nat)
  /-- WAGGLE_DONE_TIMEOUT (R34): A follower on link 0–3 or link 9 has not reached DONE within 20 ms of its HELLO and is excluded. -/
  | waggleDoneTimeout (link : Nat)
  /-- RING_LINK_TIMEOUT (R35): A ring link has not reached DONE within 40 ms and is marked DOWN. -/
  | ringLinkTimeout (link : Nat)
  /-- LINK_UNCORRECTABLE_ERROR (R43): A lateral link detects an error that retry cannot correct, and hardware retrains it. -/
  | linkUncorrectableError (link : Nat)
  /-- LINK_RETRAIN_DONE (R43): An in-service retrain succeeds within 1 ms, and traffic resumes with RETRAINED set. -/
  | linkRetrainDone (link : Nat)
  /-- LINK_RETRAIN_TIMEOUT (R43): An in-service retrain fails, and modules are disabled, the link goes DOWN or the die pair is excluded. -/
  | linkRetrainTimeout (link : Nat) (back : BitVec 4)
  /-- RURAD_PLL_LOCK_LOSS (R46): A Rurad root PLL loses lock and its combs stop. -/
  | ruradPllLockLoss (d : Nat)
  /-- RURAD_LOCK_LOSS_CONFIRM (R46): The reference has run for 2 µs after a Rurad loss of lock, and the die pair is excluded. -/
  | ruradLockLossConfirm (d : Nat)
  /-- EZTOS_PLL_LOCK_LOSS (R46): The Eztos root PLL loses lock, and island A switches to its backup clock and sends the loops safe. -/
  | eztosPllLockLoss
  /-- REFERENCE_LOSS (R46): The Eztos die detects loss of the 100 MHz reference and the whole device takes the Eztos path. -/
  | referenceLoss (lost : BitVec 5)
  /-- HEARTBEAT_SEND (R47): An island's 1 kHz timer sends a heartbeat to the other island over link 8. -/
  | heartbeatSend (fromA lock : Bool)
  /-- HEARTBEAT_RECEIVE (R47): An island receives a heartbeat and times its period against its own clock. -/
  | heartbeatReceive (atA lock : Bool) (period : Nat)
  /-- HEARTBEAT_MISSING (R47): A heartbeat period passes without a heartbeat, which counts towards a clock fault of the sending die. -/
  | heartbeatMissing (atA : Bool)
  /-- HIF_HEARTBEAT_TICK (R79): Every 1 ms the firmware increments HIF_HEARTBEAT.COUNT. -/
  | hifHeartbeatTick
  /-- AVS_MONITOR (R57): Every 100 µs a Rurad die reads its critical-path monitors and computes the lowest voltage with margin. -/
  | avsMonitor (d mv : Nat)
  /-- AVS_STEP (R57): Every 10 µs the AVSBus master moves a compute rail 5 mV towards its target. -/
  | avsStep (d : Nat)
  /-- AVSBUS_NO_ACK (R58): The power stage fails to acknowledge an AVSBus write, and after three failures AVS_FAULT is set. -/
  | avsbusNoAck (d : Nat)
  /-- COMB_CLOCK_GATE (R59): A comb that has been idle for 256 CCLK cycles is clock-gated. -/
  | combClockGate (g : Nat)
  /-- DIE_STANDBY_ENTER (R61): No colony has held a comb on a die for IDLE_MS, and the die enters Die standby. -/
  | dieStandbyEnter (d : Nat)
  /-- DIE_STANDBY_EXIT_DONE (R59): A die leaving Die standby has its combs usable again. -/
  | dieStandbyExitDone (d : Nat)
  /-- D3HOT_ENTRY (R60): The device enters Low power: engines stop, loops go safe and queued work is held. -/
  | d3hotEntry
  /-- D0_ENTRY (R59): The device leaves Low power, and held work resumes. -/
  | d0Entry
  /-- RAMP_ESTIMATE (R63): Every 1 µs the ramp limiter estimates die power and gates comb issue or runs filler. -/
  | rampEstimate (die : Nat) (e : DieEstimate)
  /-- WINDOW_READ (R75): A host read through BAR2 reaches device DRAM, or is refused or returns poisoned data. -/
  | windowRead (x n : Nat)
  /-- WINDOW_WRITE (R75): A host write through BAR2 is written to device DRAM or dropped. -/
  | windowWrite (x : Nat) (bytes : List Byte)
  /-- REGISTER_WRITE (R6): A host write reaches a register that has no row of its own and applies its access code. -/
  | registerWrite (off : Nat) (bytes : List Byte)
  /-- RC_READ (R6): A read of an RC field returns its value and clears the field. -/
  | rcRead (off : Nat)
  /-- REG64_LOW_READ (R10): A 32-bit read of the low half of a 64-bit register latches the high half. -/
  | reg64LowRead (off : Nat)
  /-- REG64_HIGH_READ (R10): A 32-bit read of the high half returns the latched value, or the current value if the latch is empty, and empties the latch. -/
  | reg64HighRead (off : Nat)
  /-- REG64_LOW_WRITE (R10): A 32-bit write of the low half of a 64-bit register is held. -/
  | reg64LowWrite (off : Nat) (v : Word)
  /-- REG64_HIGH_WRITE (R10): A 32-bit write of the high half takes effect together with any held low half. -/
  | reg64HighWrite (off : Nat) (v : Word)
  /-- INVALID_REGISTER_ACCESS (R533): A misaligned or wrong-size BAR0 access completes without effect and sets ACC_ERR. -/
  | invalidRegisterAccess (off size : Nat)
  /-- MBX_REQ_WRITE (R83): A host write to MBX_REQ is stored, or is discarded outside IDLE. -/
  | mbxReqWrite (m off : Nat) (bs : List Byte)
  /-- MBX_DOORBELL_REFUSED (R83): A mailbox doorbell arrives outside IDLE or while READY is 0, has no effect and sets DB_LOST. -/
  | mbxDoorbellRefused (m : Nat)
  /-- MBX_ACK (R83): A write to MBX_ACK releases a DONE mailbox back to IDLE. -/
  | mbxAck (m : Nat)
  /-- MBX_CANCEL (R83): A write to MBX_CANCEL cancels a BUSY request, which reaches DONE within 1 ms. -/
  | mbxCancel (m : Nat)
  /-- HELLO (R93): The HELLO command negotiates the Hive Interface version and opens a session. -/
  | hello (m : Nat)
  /-- GET_INFO (R95): The GET_INFO command returns queue, colony, comb, DRAM, window and honey-pool counts. -/
  | getInfo (m : Nat)
  /-- MEM_ALLOC (R289): The MEM_ALLOC command allocates a zeroed memory object in a partition. -/
  | memAlloc (m base : Nat)
  /-- MEM_FREE (R291): The MEM_FREE command frees an object, changes its range to partition 31 and starts clearing it. -/
  | memFree (m : Nat)
  /-- MEMORY_CLEAR_DONE (R291): Maintenance-class clearing of a freed range ends, and the range returns to the free pool. -/
  | memoryClearDone (n : Nat)
  /-- MEM_INFO (R292): The MEM_INFO command returns an object's address, size, region and partition. -/
  | memInfo (m : Nat)
  /-- COLONY_CREATE (R265): The COLONY_CREATE command creates a colony and chooses its reserved combs. -/
  | colonyCreate (m : Nat)
  /-- COLONY_RESERVATION_COMPLETE (R267): Every chosen comb of an LC colony has joined the reservation, and COMMAND_DONE follows. -/
  | colonyReservationComplete (c : Nat)
  /-- COLONY_DESTROY (R268): The COLONY_DESTROY command destroys an unused colony and frees its resources. -/
  | colonyDestroy (m : Nat)
  /-- QUEUE_CREATE (R108): The QUEUE_CREATE command creates a queue of one engine class and assigns it a doorbell slot. -/
  | queueCreate (m : Nat)
  /-- QUEUE_DESTROY (R110): The QUEUE_DESTROY command stops a queue's doorbells and flushes the lists it has not finished. -/
  | queueDestroy (m : Nat)
  /-- QUEUE_DESTROY_DONE (R110): The last completion record of a destroyed queue is visible, its slot is freed and COMMAND_DONE follows. -/
  | queueDestroyDone (d : Nat)
  /-- FUNC_REINIT (R103): The FUNC_REINIT command aborts an engine class's lists, resets its engines and empties its queues. -/
  | funcReinit (m : Nat)
  /-- POWER_POLICY (R61): The POWER_POLICY command permits or forbids Die standby and sets IDLE_MS. -/
  | powerPolicy (m : Nat)
  /-- SAFETY_TEST_INJECTION (R448): A SAFETY_TEST with TEST 1 requests comparator injection tests on the named islands. -/
  | safetyTestInjection (m : Nat)
  /-- SAFETY_TEST_VOTE (R448): A SAFETY_TEST with TEST 2 requests a vote of every configuration record. -/
  | safetyTestVote (m : Nat)
  /-- LEDGER_READ (R494): The LEDGER_READ command returns the thermal-cycle ledger of every domain. -/
  | ledgerRead (m : Nat)
  /-- LOG_READ (R480): The LOG_READ command starts copying records of the event log or the safety log into a memory object. -/
  | logRead (m : Nat)
  /-- LOG_READ_DONE (R480): The log copy ends and COMMAND_DONE follows. -/
  | logReadDone (n : Nat)
  /-- FW_SLOT_WRITE (R55): The FW_SLOT_WRITE command checks an image and starts writing it into a boot-flash slot. -/
  | fwSlotWrite (m : Nat) (image : FwImage)
  /-- FW_SLOT_WRITE_DONE (R55): Programming and read-back of the slot end, the slot record is written or the slot erased, and COMMAND_DONE follows. -/
  | fwSlotWriteDone (ok : Bool)
  /-- FW_ROLLBACK_ADVANCE (R56): The FW_ROLLBACK_ADVANCE command starts blowing anti-rollback fuses up to VERSION. -/
  | fwRollbackAdvance (m : Nat)
  /-- FW_ROLLBACK_ADVANCE_DONE (R56): The anti-rollback fuses read VERSION and COMMAND_DONE follows. -/
  | fwRollbackAdvanceDone
  /-- MSIX_UNMASK (R96): The host unmasks an MSI-X vector, and a pending message is sent. -/
  | msixUnmask (v : Nat)
  /-- FW_FATAL (R102): The firmware stops serving the Hive Interface, and FW_FATAL is set and signalled. -/
  | fwFatal (fault : Word) (written : Bool)
  /-- EVT_ENABLE (R98): A write that sets EVT_CTRL.ENABLE from 0 resets HEAD, TAIL and PHASE, or sets CFG_ERR. -/
  | evtEnable (v : Word)
  /-- EVT_TAIL_WRITE (R98): A write of EVT_TAIL consumes event records and frees ring room. -/
  | evtTailWrite (v : Word)
  /-- EVENT_RING_WRITE (R98): The device writes a buffered or new event record once the ring has room. -/
  | eventRingWrite
  /-- EVENT_COALESCE_EXPIRY (R98): The coalescing delay ends, and one MSI-X message covers every record written since the last message. -/
  | eventCoalesceExpiry
  /-- QUEUE_DOORBELL (R112): A write of HIF_QTAIL submits a command list, or is refused with DB_ERR or DB_REFUSED. -/
  | queueDoorbell (d : Nat) (tail : BitVec 16)
  /-- QUEUE_RESUME (R118): HIF_QCTL.RESUME takes a HALTED queue out of HALTED. -/
  | queueResume (d : Nat)
  /-- QUEUE_FLUSH (R118): HIF_QCTL.FLUSH discards every submitted list of a queue. -/
  | queueFlush (d : Nat)
  /-- CQTAIL_WRITE (R127): A write of HIF_CQTAIL consumes completion records and releases a queue held for ring room. -/
  | cqtailWrite (d : Nat) (tail : BitVec 16)
  /-- RECORD_START (R115): A queue fetches and validates its next command record and starts it. -/
  | recordStart (d : Nat)
  /-- NOP (R114): A NOP record completes with no effect. -/
  | nop (d : Nat)
  /-- SIGNAL (R120): A SIGNAL record raises a fence atomically to the larger of its value and VALUE. -/
  | signal (d : Nat)
  /-- WAIT (R120): A WAIT record arms a wait on a fence, or completes at once when the target is already met. -/
  | wait (d : Nat)
  /-- WAIT_RELEASE (R120): A write brings a fence to an armed WAIT's target, and the WAIT completes. -/
  | waitRelease (d : Nat)
  /-- WAIT_TIMEOUT (R120): A WAIT's TIMEOUT passes without its target being met, and it faults with E_TIMEOUT. -/
  | waitTimeout (d : Nat)
  /-- TIMESTAMP (R114): A TIMESTAMP record writes the time-base value to a fence location. -/
  | timestamp (d : Nat)
  /-- FG_COPY (R123): An FG_COPY record starts copying between memory objects on a free comb's foragers. -/
  | fgCopy (d : Nat)
  /-- FG_FILL (R123): An FG_FILL record starts writing a pattern over a range on a free comb's foragers. -/
  | fgFill (d : Nat)
  /-- FORAGER_RECORD_DONE (R123): A forager record's last write is visible, and its completion follows. -/
  | foragerRecordDone (k : Nat)
  /-- FORAGER_BUDGET_EXPIRY (R123): A forager record runs past its budget and faults with E_BUDGET. -/
  | foragerBudgetExpiry (k : Nat)
  /-- JOB_RUN (R272): A JOB_RUN record is validated and enters its colony's ready list. -/
  | jobRun (d compiled mode : Nat)
  /-- JOB_ASSIGN (R278): The scheduler assigns free combs to the head of a ready list, and the switch begins. -/
  | jobAssign (c : Nat)
  /-- JOB_START (R273): The last comb of a job ends its switch, and every comb issues s0 with the budget count starting; `est` is the
  job's estimated power in mW on the dies CD0-CD3 (R64). -/
  | jobStart (x : JobBegin)
  /-- JOB_END (R273): Every comb of a job has issued its last bundle with transfers and cache write-back complete. -/
  | jobEnd (k : Nat)
  /-- JOB_SAVE_DONE (R275): The SAVE entries of an ended job are written, and its completion record follows. -/
  | jobSaveDone (k : Nat)
  /-- JOB_BUDGET_EXPIRY (R273): A job's budget count reaches BUDGET before the job ends, and it faults with E_BUDGET. -/
  | jobBudgetExpiry (k : Nat)
  /-- JOB_RELEASE (R274): A faulted job's combs are stopped and released within t_stop. -/
  | jobRelease (k : Nat)
  /-- BE_AGEING_EXPIRY (R278): A best-effort head has waited 20 ms and now blocks other best-effort starts. -/
  | beAgeingExpiry (c : Nat)
  /-- BUNDLE_ISSUE (R131): The comb sequencer checks the bundle of schedule cycle s and issues it, or holds the comb. -/
  | bundleIssue (g : Nat) (ops : List BOp) (last : Bool)
  /-- SLOTWAIT_EXPIRY (R146): A scheduled slot access has been held for 65,536 cycles, and the job faults with E_SLOTWAIT. -/
  | slotwaitExpiry (g : Nat)
  /-- FORAGER_SLOT_ADMIT (R184): A waiting forager transfer's slot check passes, and its data cycles begin. -/
  | foragerSlotAdmit (g : Nat) (f : Nat)
  /-- FORAGER_SLOTWAIT_EXPIRY (R184): A forager has waited on a slot for 65,536 cycles, and the job faults with E_SLOTWAIT. -/
  | foragerSlotwaitExpiry (g : Nat) (f : Nat)
  /-- FORAGER_TRANSFER_DONE (R180): A forager DRAM transfer completes and applies MARK or RELEASE to its slots. -/
  | foragerTransferDone (g : Nat) (x : XferEnd)
  /-- ALLOCATOR_SERVE (R234): The allocator serves the pending request it picks, with a free page or by eviction, or returns no page. -/
  | allocatorServe
  /-- SP_FILL (R193): A forager takes an SP_FILL descriptor and starts filling scratchpad words. -/
  | spFill (g : Nat) (f : Nat)
  /-- SP_COPY (R193): A forager takes an SP_COPY descriptor and starts copying in the scratchpad. -/
  | spCopy (g : Nat) (f : Nat)
  /-- CACHE_WB (R193): A forager takes a CACHE_WB descriptor and writes back dirty sectors. -/
  | cacheWb (g : Nat) (f : Nat)
  /-- CACHE_INV (R193): A forager takes a CACHE_INV descriptor and invalidates cached lines. -/
  | cacheInv (g : Nat) (f : Nat)
  /-- CACHE_WBINV (R193): A forager takes a CACHE_WBINV descriptor and writes back, then invalidates, lines. -/
  | cacheWbinv (g : Nat) (f : Nat)
  /-- SCRATCHPAD_OP_DONE (R195): A scratchpad operation's last data cycle ends, and its completion effects commit. -/
  | scratchpadOpDone (g : Nat) (x : OpEnd)
  /-- CACHE_FILL_DONE (R188): A cache line fill completes, and the CACHE_MISS hold can end. -/
  | cacheFillDone (g : Nat)
  /-- SCRATCHPAD_ECC_WRITEBACK (R178): A corrected row is written back in a bank cycle free of scheduled accesses. -/
  | scratchpadEccWriteback (g : Nat)
  /-- COMB_DEBUG_HALT (R153): A write of HALT = 1 to CMB_DBG activates the DEBUG cause, or sets REFUSED on a latency-critical comb. -/
  | combDebugHalt (g : Nat)
  /-- COMB_DEBUG_RELEASE (R153): A write of HALT = 0 to CMB_DBG releases the DEBUG cause. -/
  | combDebugRelease (g : Nat)
  /-- COMB_DEBUG_STEP (R153): CMB_DBG.STEP gives a halted comb one advance cycle. -/
  | combDebugStep (g : Nat)
  /-- COMB_CLEAR_COUNTERS (R151): CMB_CTL.CLR_CNT clears a comb's hold and ECC counters. -/
  | combClearCounters (g : Nat)
  /-- SCRATCHPAD_DEBUG_READ (R197): CMB_SPD_ADDR.GO starts a debug read of one scratchpad word. -/
  | scratchpadDebugRead (word : Nat)
  /-- SCRATCHPAD_DEBUG_READ_DONE (R197): A bank serves the debug read, and DATA0–7 fill with BUSY clearing. -/
  | scratchpadDebugReadDone (ue : Bool)
  /-- SEQ_JOIN (R249): A SEQ_JOIN record creates a sequence, sharing a parent's pages where named. -/
  | seqJoin (d : Nat)
  /-- SEQ_FINISH (R247): A SEQ_FINISH record finishes a sequence and releases its pages. -/
  | seqFinish (d : Nat)
  /-- SEQ_CTL_PIN (R247): SEQ_CTL PIN pins a sequence and its pages. -/
  | seqCtlPin (d : Nat)
  /-- SEQ_CTL_UNPIN (R247): SEQ_CTL UNPIN unpins a sequence and its pages. -/
  | seqCtlUnpin (d : Nat)
  /-- SEQ_CTL_HOLD (R247): SEQ_CTL HOLD moves an ACTIVE sequence to HELD. -/
  | seqCtlHold (d : Nat)
  /-- SEQ_CTL_RELEASE (R247): SEQ_CTL RELEASE moves a HELD sequence back to ACTIVE. -/
  | seqCtlRelease (d : Nat)
  /-- SEQ_CTL_RESUME (R247): SEQ_CTL RESUME moves a PARKED sequence back to ACTIVE. -/
  | seqCtlResume (d : Nat)
  /-- STEP_RUN (R253): A STEP_RUN record is validated and starts building the work list alongside the job's switch. -/
  | stepRun (d compiled mode : Nat)
  /-- STEP_BUILD_DONE (R260): The hardware and firmware parts of the work list are written, and the step's job becomes ready or completes empty. -/
  | stepBuildDone (k : Nat)
  /-- DRAM_REQUEST (R293): A request reaches a DRAM controller, is partition-checked and queued or refused. -/
  | dramRequest (r : DramReq)
  /-- DRAM_CHANNEL_ISSUE (R297): A channel picks and serves its next request by drain mode, rank, age and row hits, updating credits. -/
  | dramChannelIssue (d : Nat) (ch : Nat) (errs : List Nat)
  /-- REFRESH_DUE (R299): A bank's refresh interval passes and its refresh debt rises, possibly forcing a burst. -/
  | refreshDue (d : Nat) (ch : Nat) (b : Nat)
  /-- MIMIDER_SENSOR_READ (R298): Every 100 µs the controller reads the Mimider sensors and enters or leaves the hot interval. -/
  | mimiderSensorRead (d : Nat) (temps : List Int)
  /-- ROW_IDLE_CLOSE (R294): An AUTO row with no request for 20 ns closes. -/
  | rowIdleClose (d : Nat) (ch : Nat) (b : Nat)
  /-- COMMAND_PARITY_FAILURE (R307): The Mimider die reports a command parity failure, and the command's requests fail. -/
  | commandParityFailure (d : Nat) (ch : Nat) (what : Nat) (place : Nat)
  /-- PATROL_SCRUB (R308): The patrol scrubber reads its next word and corrects or poisons it. -/
  | patrolScrub (d : Nat) (err : Nat)
  /-- CSI_PACKET (R334): A CSI-2 packet is received, checked and delivered into the current frame. -/
  | csiPacket (n : Nat) (p : CsiPacket) (drained : Nat)
  /-- CSI_STOP_STATE (R339): A camera receiver's lanes enter D-PHY stop state. -/
  | csiStopState (n : Nat)
  /-- ETH_FRAME_RECEIVE (R335): An Ethernet frame is received and routed to the time service or a registry entry, or dropped. -/
  | ethFrameReceive (n : Nat) (f : List Byte) (fcsOk : Bool) (sub : Nat) (drained : Nat)
  /-- ETH_LINK_UP (R339): An Ethernet port's link comes up. -/
  | ethLinkUp (n : Nat)
  /-- ETH_LINK_DOWN (R339): An Ethernet port's link goes down. -/
  | ethLinkDown (n : Nat)
  /-- PORT_DETACH (R339): A silence, link-down or stop-state interval passes and the registry entries concerned detach. -/
  | portDetach (e : Nat) (reason : Nat)
  /-- CAN_MESSAGE_RECEIVE (R336): A CAN FD message is received and goes to ISOBUS handling, control loops or the firmware. -/
  | canMessageReceive (p : Nat) (f : CanFrame) (a : CanArrival)
  /-- CAN_FRAME_SENT (R336): A transmit buffer's frame wins arbitration and has been sent. -/
  | canFrameSent (e : CanEnd)
  /-- ISOBUS_CLAIM_SETTLED (R346): 250 ms after an uncontested address claim, the firmware may send other messages. -/
  | isobusClaimSettled (p : Nat)
  /-- SPI_TRANSFER (R413): A scheduled SPI transfer to an IMU completes. -/
  | spiTransfer (n : Nat) (cs : Nat) (dur : Nat) (data : List Byte)
  /-- SPI_DATA_READY (R351): An SPI data-ready edge is captured. -/
  | spiDataReady (n : Nat)
  /-- GPIO_EDGE (R351): A GPIO input edge is captured. -/
  | gpioEdge (n : Nat) (rising : Bool)
  /-- PPS_EDGE (R350): A PPS edge is captured and may discipline the time base. -/
  | ppsEdge (falling : Bool) (tod : Option Nat) (rate : Int) (adj : Int) (step : Bool)
  /-- PPS_MISSING (R350): 1.1 s pass without a PPS edge, and PPS_MISSING is set. -/
  | ppsMissing
  /-- GNSS_UART_BYTE (R350): A GNSS UART byte is received and time-stamped. -/
  | gnssUartByte (n : Nat) (b : Byte)
  /-- REGISTRY_READ (R345): REGISTRY READ writes all 64 registry entries into a memory object. -/
  | registryRead (d : Nat)
  /-- REGISTRY_BIND (R345): REGISTRY BIND binds an entry to a SENSOR_ID. -/
  | registryBind (d : Nat)
  /-- REGISTRY_UNBIND (R345): REGISTRY UNBIND clears an entry's binding. -/
  | registryUnbind (d : Nat)
  /-- SYNC_MESSAGE (R348): A usable Sync updates the servo's offset and ADJ and moves the time-base state. -/
  | syncMessage (n : Nat) (gm : Nat) (offset : Int) (pdelay : Nat) (rate : Int) (adj : Int) (step : Bool)
  /-- SYNC_TIMEOUT (R348): Three sync intervals pass without a usable Sync, and the time base enters HOLDOVER. -/
  | syncTimeout
  /-- HOLDOVER_EXPIRY (R348): ESTERR exceeds HOLD_LIMIT, and the time base enters UNSYNC. -/
  | holdoverExpiry
  /-- SYNC_TRANSMIT (R350): As grandmaster, the device sends Sync on its ports. -/
  | syncTransmit
  /-- TIM_CFG_WRITE (R354): A write of TIM_CFG takes effect at the next sync interval and may move the time-base state. -/
  | timCfgWrite (v : Word)
  /-- LIDAR_PACKET (R357): A lidar packet completes in the fusion intake, and its points are decoded, timed and binned. -/
  | lidarPacket
  /-- CAMERA_FRAME (R358): A camera frame completes in the fusion intake and is stored. -/
  | cameraFrame
  /-- INSTANT_CLOSE (R355): Instant k closes at C_k, and its content is fixed for processing. -/
  | instantClose (refine : List Word) (corners : List Nat)
  /-- FUSION_OUTPUT_DONE (R377): A collected instant's tensors are visible, its header is written with OUT_TIME and its completion follows. -/
  | fusionOutputDone
  /-- FUSE_COLLECT (R376): A FUSE_COLLECT record waits to collect the next instant that closes. -/
  | fuseCollect (d : Nat)
  /-- FUSE_CONFIG (R373): A FUSE_CONFIG record sets the instant and grid parameters and discards the open instants. -/
  | fuseConfig (d : Nat)
  /-- CALIB_LOAD (R363): CALIB_LOAD in load mode loads a sensor calibration into a slot. -/
  | calibLoad (d : Nat)
  /-- CALIB_REMOVE (R363): CALIB_LOAD in remove mode frees a sensor's calibration slot. -/
  | calibRemove (d : Nat)
  /-- PLAN (R394): A PLAN record is validated and waits for the search engine. -/
  | plan (d : Nat)
  /-- PLAN_START (R395): A PLAN takes the search engine and pins the current bank. -/
  | planStart
  /-- PLAN_SEARCH_END (R404): The search ends, the current bank is pinned, and candidates are re-validated or the stop trajectory is chosen. -/
  | planSearchEnd (waves : Nat) (fits : List (Option (List (List Word)))) (stop : List (List Word))
  /-- PLAN_OUTPUT_DONE (R403): The trajectory samples and header are visible, the handoff takes place and the completion follows. -/
  | planOutputDone
  /-- OCC_LOAD (R385): An OCC_LOAD record starts loading occupancy into the standby bank once any pin ends. -/
  | occLoad (d : Nat)
  /-- OCC_LOAD_DONE (R387): An occupancy load completes and, with COMMIT, makes its bank current. -/
  | occLoadDone
  /-- LIB_LOAD (R389): A LIB_LOAD record starts loading a primitive library when no PLAN runs. -/
  | libLoad (d : Nat)
  /-- LIB_LOAD_DONE (R389): A library load completes, or fails and keeps the previous library. -/
  | libLoadDone
  /-- LOOP_SET (R410): A LOOP_SET record configures a disabled loop from its loop object. -/
  | loopSet (d : Nat)
  /-- LOOP_ENABLE (R412): LOOP_CTL ENABLE enables the masked loops with I = 0. -/
  | loopEnable (d : Nat)
  /-- LOOP_DISABLE (R412): LOOP_CTL DISABLE sends SAFE once and stops the masked loops. -/
  | loopDisable (d : Nat)
  /-- LOOP_RESET_I (R412): LOOP_CTL RESET_I sets the masked loops' integral to 0. -/
  | loopResetI (d : Nat)
  /-- TRAJ_LOAD (R414): A TRAJ_LOAD record delivers a trajectory to a context. -/
  | trajLoad (d : Nat)
  /-- LOOP_PERIOD_TRIGGER (R415): A loop's PERIOD passes, and it is triggered by a newer or kept sample. -/
  | loopPeriodTrigger (n : Nat)
  /-- LOOP_EVALUATION (R416): The control engine evaluates a triggered loop and sends its output to the sink. -/
  | loopEvaluation
  /-- CV_CONFIG (R424): CV_CONFIG loads CRC parameters into a shared unit and resets its running value. -/
  | cvConfig (d : Nat)
  /-- CV_RUN (R425): CV_RUN starts computing a check value over memory-object data. -/
  | cvRun (d : Nat)
  /-- CV_RUN_DONE (R425): A CV_RUN's input is consumed, and the check value is written with FINAL. -/
  | cvRunDone (d : Nat)
  /-- CV_SAVE (R427): CV_SAVE writes a unit's state to memory. -/
  | cvSave (d : Nat)
  /-- CV_RESTORE (R427): CV_RESTORE loads a unit's state from memory. -/
  | cvRestore (d : Nat)
  /-- CV_CHAN_VERIFY (R428): CV_CHAN with MODE 1 arms a sensor channel on a registry entry. -/
  | cvChanVerify (d : Nat)
  /-- CV_CHAN_OFF (R428): CV_CHAN with MODE 0 disarms a sensor channel. -/
  | cvChanOff (d : Nat)
  /-- JOIN_HELLO (R436): Island B receives JOIN_HELLO and answers with JOIN_RESP. -/
  | joinHello (msg nb crc : List Byte)
  /-- JOIN_RESP (R437): Island A receives JOIN_RESP, checks it and sends JOIN_CONFIRM or fails the join. -/
  | joinResp (msg crc : List Byte)
  /-- JOIN_CONFIRM (R436): Island B receives JOIN_CONFIRM, verifies MAC_A and sends JOIN_DONE. -/
  | joinConfirm (msg crc : List Byte)
  /-- JOIN_DONE (R436): Island A receives JOIN_DONE, sets ISLAND_B and starts heartbeats. -/
  | joinDone (x : JoinReport)
  /-- JOIN_HELLO_RETRY (R437): The join retry interval passes, and island A resends JOIN_HELLO with a new nonce. -/
  | joinHelloRetry
  /-- JOIN_TIMEOUT (R437): No valid JOIN_RESP arrives within 500 ms, and the join fails. -/
  | joinTimeout
  /-- ISLAND_FAULT_MESSAGE (R438): An island receives the other island's fault message and treats it as lost. -/
  | islandFaultMessage (atA : Bool)
  /-- COMPARE_MISMATCH (R442): A comparator flags a lock-step mismatch, and the fault collector halts the pair and reacts. -/
  | compareMismatch (atA : Bool) (group syndrome : Nat)
  /-- ISLAND_MEMORY_UE (R441): An uncorrectable island memory read makes the fault collector react with MEM_UE. -/
  | islandMemoryUe (atA : Bool)
  /-- ISLAND_MEMORY_SCRUB (R441): The island memory scrubber reads and corrects words. -/
  | islandMemoryScrub (atA : Bool) (n : Nat)
  /-- COMPARATOR_TEST_RUN (R445): An island pauses its pair and runs the injection test over all 64 compare groups. -/
  | comparatorTestRun (atA : Bool) (seen : List CmpSeen) (pause : Nat)
  /-- CMP_TEST_OVERDUE (R447): An island's operating time since its last passed test reaches 8 h, or another hour, and the event is posted. -/
  | cmpTestOverdue (atA : Bool)
  /-- DEBUG_ENABLE (R450): A verified debug certificate enables island debug and commands the controlled stop. -/
  | debugEnable (atA certOk : Bool)
  /-- DEBUG_HALT (R451): A debugger halts the island pair, replayed to the checker core. -/
  | debugHalt (atA : Bool)
  /-- DEBUG_RESUME (R451): A debugger resumes the island pair. -/
  | debugResume (atA : Bool)
  /-- DEBUG_SINGLE_STEP (R451): A debugger single-steps the island pair. -/
  | debugSingleStep (atA : Bool)
  /-- DEBUG_BREAKPOINT_SET (R451): A debugger sets a breakpoint, replayed to both cores. -/
  | debugBreakpointSet (atA : Bool) (addr : Nat)
  /-- DEBUG_REGISTER_READ (R451): A debugger reads a core register from the main core. -/
  | debugRegisterRead (atA : Bool) (r : Nat)
  /-- DEBUG_REGISTER_WRITE (R451): A debugger writes a core register of both cores. -/
  | debugRegisterWrite (atA : Bool) (r : Nat) (v : Word64)
  /-- DEBUG_MEMORY_READ (R451): A debugger reads island shared memory outside the pair. -/
  | debugMemoryRead (atA : Bool) (addr n : Nat)
  /-- DEBUG_MEMORY_WRITE (R451): A debugger writes island shared memory outside the pair. -/
  | debugMemoryWrite (atA : Bool) (addr : Nat) (bs : List Byte)
  /-- CONFIG_VOTE_SCRUB (R454): Every 100 ms each configuration record is voted. -/
  | configVoteScrub (upsets : List Upset)
  /-- CONFIG_RECORD_WRITE (R459): GRD_CFG_CTL.WRITE validates a configuration record and starts writing its three copies. -/
  | configRecordWrite
  /-- CONFIG_RECORD_WRITE_DONE (R459): The three copies are written, BUSY clears and the record applies. -/
  | configRecordWriteDone
  /-- CONFIG_RECORD_READ (R459): GRD_CFG_CTL.READ returns the voted record in DATA0–15. -/
  | configRecordRead
  /-- GUARD_EXPIRY (R461): MAX passes without a kick, and the guard expires. -/
  | guardExpiry (g : Nat)
  /-- DEADLINE_MISS (R464): An open interval's end passes, and it is reported as a miss. -/
  | deadlineMiss (d : Nat)
  /-- CHECKER_SUMMARY_COPY (R467): Island A copies a side's summary, decides the frame and writes the verdict fences. -/
  | checkerSummaryCopy (c : Nat)
  /-- CHECKER_LAG_EXPIRY (R467): LAG passes without the other side's summary, and the frame is undecided. -/
  | checkerLagExpiry (c : Nat)
  /-- FUNCTION_RESTART_RESUME (R474): The restarted function's records are voted, its queues leave RESET and FUNC_RESTART is posted. -/
  | functionRestartResume (n : Nat)
  /-- RESTART_OVERRUN (R476): Island B sees no FUNC_RESTART within 50 µs and commands the controlled stop. -/
  | restartOverrun (n : Nat)
  /-- STOP_FRAME_REPEAT (R478): A stop frame's REPEAT period passes, and the frame is sent again. -/
  | stopFrameRepeat (inA : Bool) (index : Nat)
  /-- SENSOR_SAMPLE (R485): Every 100 µs each temperature sensor is sampled and checked for failure. -/
  | sensorSample (die : Nat) (temps : List Int)
  /-- UATHAL_SENSOR_REPORT (R485): Island B's Uathal sensor readings arrive over link 8. -/
  | uathalSensorReport (temps : List Int) (failed : List Nat)
  /-- THERMAL_FORECAST (R487): Every 100 µs each domain's hot spot is forecast 5 ms ahead. -/
  | thermalForecast (power : List Nat)
  /-- DUTY_REVIEW (R489): Every 1 ms the thermal manager adjusts best-effort duty and posts warnings. -/
  | dutyReview (rise : BitVec 4) (fill : List Nat)
  /-- SUSTAINED_WINDOW (R492): A 200 ms window ends, S updates, swing limiting acts and the ledger advances. -/
  | sustainedWindow
  /-- RTH_WINDOW (R496): A 10 s window ends and may give an R_est estimate or cooling degradation. -/
  | rthWindow (avg lo hi : Nat) (powers : List Nat)
  /-- COOLANT_STALE (R496): 10 s pass without a THM_COOLANT write, and the value is marked stale. -/
  | coolantStale
  /-- COOLANT_WRITE (R496): The host writes THM_COOLANT, which refreshes the coolant temperature and clears COOLANT_STALE. -/
  | coolantWrite (v : Word)
  /-- THERMAL_LIMITS_WRITE (R499): A write of THM_LIMITS is applied only when its limits are ordered and in range. -/
  | thermalLimitsWrite (v : Word)
  /-- THERMAL_CTL_WRITE (R499): A write of THM_CTL sets SWING_EN and RISE, ignoring an out-of-range RISE. -/
  | thermalCtlWrite (v : Word)
  /-- SWARM_PORT_ENABLE (R503): SWM_CTL enables a swarm port, which begins training. -/
  | swarmPortEnable (n : Nat)
  /-- SWARM_PORT_DISABLE (R508): SWM_CTL disables a swarm port, which goes DOWN. -/
  | swarmPortDisable (n : Nat)
  /-- SWARM_ID_WRITE (R509): A write of SWM_ID or SWM_SWARM is applied only while no port is enabled. -/
  | swarmIdWrite (swarm : Bool) (v : Word)
  /-- SWARM_TRAINING_DONE (R500): A swarm port's link training ends, and both ends send HELLO. -/
  | swarmTrainingDone (n : Nat) (slow : Bool)
  /-- SWARM_HELLO (R503): A swarm HELLO is received and the end decides to REJECT or to proceed to DONE. -/
  | swarmHello (n : Nat) (f : List Byte)
  /-- SWARM_DONE (R503): A swarm DONE or its echo is received, and the port becomes JOINED. -/
  | swarmDone (n : Nat) (f : List Byte)
  /-- SWARM_REJECT (R503): A swarm REJECT is received, and the port stays idle. -/
  | swarmReject (n : Nat) (f : List Byte)
  /-- SWARM_REQUEST_FLIT (R506): A request flit arrives and is forwarded or applied to an export. -/
  | swarmRequestFlit (n : Nat) (f : List Byte)
  /-- SWARM_RESPONSE_FLIT (R505): A response flit arrives and completes a swarm write or signal. -/
  | swarmResponseFlit (n : Nat) (f : List Byte)
  /-- SWARM_ACK_FLIT (R502): An acknowledge flit arrives and the sender replays from the next flit. -/
  | swarmAckFlit (n : Nat) (f : List Byte)
  /-- SWARM_ADVERTISEMENT (R504): An adjacency advertisement arrives, is forwarded, and routes are recomputed. -/
  | swarmAdvertisement (n : Nat) (f : List Byte)
  /-- SWARM_ADVERTISE_TIMER (R504): Every 100 ms a joined device sends its advertisement. -/
  | swarmAdvertiseTimer
  /-- SWARM_RETRAIN_DONE (R502): A swarm port's retraining succeeds within 50 ms, and traffic resumes. -/
  | swarmRetrainDone (n : Nat)
  /-- SWARM_RETRAIN_TIMEOUT (R502): A swarm port's retraining fails, and the port goes DOWN. -/
  | swarmRetrainTimeout (n : Nat)
  /-- SWARM_SILENCE (R508): No flit arrives for 1 ms, and the port goes DOWN. -/
  | swarmSilence (n : Nat)
  /-- SWARM_COPY (R505): A SWARM_COPY record starts pushing writes into a remote export. -/
  | swarmCopy (d : Nat)
  /-- SWARM_SIGNAL (R505): A SWARM_SIGNAL record raises a remote fence. -/
  | swarmSignal (d : Nat)
  /-- SWARM_EXPORT_ENABLE (R506): A write of SWM_EXP_CTL enables an export, or refuses it and sets ERR. -/
  | swarmExportEnable (v : Word)
  /-- BWR_CLEAR (R332): BWR_CTL.CLR clears every bandwidth counter. -/
  | bwrClear
  /-- IMASK_WRITE (R538): A write of HIF_IMASK sets the masks and sends vector 17 for an unmasked cause that is set. -/
  | imaskWrite (v : Word)
  /-- AER_ERROR (R538): An AER error is logged, sets its HIF_ICAUSE bit and may send vector 17. -/
  | aerError (kind : Nat)
  /-- PERST_DEASSERT (R51): The host deasserts PERST#, the PCIe link trains and the endpoint must answer configuration requests within 100 ms. -/
  | perstDeassert (width rate : Nat)
  /-- PWM_PERIOD_START (R418): A PWM output starts a new period, takes up the latched duty and captures the time base. -/
  | pwmPeriodStart (p : PwmStart)
  /-- VDD_SFD_LOSS (R521): VDD_SFD leaves regulation and island B stops until its supply returns. -/
  | vddSfdLoss
  deriving DecidableEq, Repr

end Sys2Proof
end

