-- ==== Sys2Proof/Decode.lean ====
section
/-!
DEFINITION. The command that a word spells by the bits of spec/opcode_table.json.
-/
namespace Sys2Proof

/-- The command that a word of `nbits` bits spells.  No row of spec/opcode_table.json gives bits (every "fields" list is empty and
no row has a mask or a pattern), so no word spells a command: commands reach the block as register accesses, messages and events. -/
def decodeTableWord (_nbits _w : Nat) : Option Instr := none

end Sys2Proof
end

