-- ==== Sys2Proof/Config.lean ====
section
/-!
DEFINITION. The free values of the model: what spec/ leaves open and the machine nevertheless produces.  Each is a
constant with no body, so nothing can be proved of the value itself.
-/
namespace Sys2Proof

/-- The n-th free byte that the machine draws: a byte whose content spec/ calls undefined (R49, R116, R148). -/
opaque Config.freeByte : Nat → Byte

/-- The n-th free 32-bit word that the machine draws. -/
opaque Config.freeWord : Nat → Word

/-- The n-th free natural number that the machine draws: a choice of the firmware that spec/ does not fix. -/
opaque Config.freeNat : Nat → Nat

/-- Which of the FP32 values within the error bound of R166 a special-function unit returns: by unit (0 reciprocal,
1 square root, 2 2^x, 3 e^x) and operand. -/
opaque Config.sfuPick : Nat → Word → Nat

/-- The byte at a scratchpad address of a comb whose content spec/ calls undefined (R148, R173): by comb, by how often
its scratchpad became undefined, and by address. -/
opaque Config.spadByte : Nat → Nat → Nat → Byte

/-- Which of the two FP32 values that enclose it an engine returns for a sine, a cosine or an angle: by function (0 sine, 1 cosine of the
fusion engine, 2 its angle of a rotation, 4 sine, 5 cosine of the motion planner) and operand.  spec/ gives no rule for their rounding
(R364, R367, R395, R400). -/
opaque Config.trigPick : Nat → Word → Nat

/-- Which of the candidates of equal overlap a level of the registration takes: by instant and level (R366). -/
opaque Config.levelPick : Nat → Nat → Nat

/-- The quality of an instant that has no echo to register, or none to register with: by instant (R366). -/
opaque Config.noQuality : Nat → Word

/-- A core register of an island's pair as its firmware left it (R451): by the halt and by register number. -/
opaque Config.coreReg : Nat → Nat → Word64

/-- A byte of an island's shared memory as its firmware left it (R451): by the halt and by address. -/
opaque Config.islandByte : Nat → Nat → Byte

/-- The number of signals of a compare group of a lock-step pair, of which spec/ fixes only some (R444). -/
opaque Config.groupSignals : Nat → Nat

/-- Whether the ramp limiter, while it gates a comb or holds best-effort duty back, holds the comb in a cycle (R64): by comb and wall
cycle.  Spec/ does not say in which cycles the limiter gates issue. -/
opaque Config.rampGate : Nat → Nat → Bool

/-- The RC model of a thermal domain, whose coefficients are fixed in production and which spec/ does not give (R487): the hot spot 5 ms
ahead in 1/16 °C, from the present readings, the power in mW and the coolant inlet temperature in 1/16 °C. -/
opaque Config.rcModel : Nat → List Int → Nat → Int → BitVec 16

/-- The PCI-SIG vendor ID in the endpoint's configuration space (R69): spec/ gives no number, and no command of the table reads it. -/
opaque Config.vendorId : BitVec 16

end Sys2Proof
end

