-- ==== Sys2Proof/Machine/Float.lean ====
section
/-!
DEFINITION. The number formats of spec/06: layouts and special values (R155-R158), exact dyadic values and their
rounding, FP32 arithmetic (R165), the special-function units (R166) and the conversions (R167-R169).
-/
namespace Sys2Proof.Machine

/-- A value of a floating-point format: NaN, an infinity, or (-1)^neg × m × 2^e (m = 0 is a signed zero). -/
inductive FVal where
  | nan
  | inf (neg : Bool)
  | fin (neg : Bool) (m : Nat) (e : Int)
  deriving DecidableEq, Repr

/-- What the top exponent field of a format encodes (R156). -/
inductive Top where
  | ieee      -- infinity and NaN
  | nanOnly   -- finite but for mantissa all ones, which is NaN (E4M3)
  | finite    -- finite (E2M1)
  deriving DecidableEq, Repr

/-- A floating-point format (R156). -/
structure Fmt where
  eb : Nat
  mb : Nat
  bias : Nat
  top : Top
  deriving DecidableEq, Repr

def fE2M1 : Fmt := ⟨2, 1, 1, .finite⟩
def fE4M3 : Fmt := ⟨4, 3, 7, .nanOnly⟩
def fE5M2 : Fmt := ⟨5, 2, 15, .ieee⟩
def fFP16 : Fmt := ⟨5, 10, 15, .ieee⟩
def fBF16 : Fmt := ⟨8, 7, 127, .ieee⟩
def fFP32 : Fmt := ⟨8, 23, 127, .ieee⟩

/-- The value that an encoding denotes (R156). -/
def Fmt.decode (f : Fmt) (x : Nat) : FVal :=
  let m := x % 2 ^ f.mb
  let e := x / 2 ^ f.mb % 2 ^ f.eb
  let neg := decide (x / 2 ^ (f.mb + f.eb) % 2 = 1)
  let emin : Int := 1 - f.bias - f.mb
  if e = 0 then .fin neg m emin
  else if e = 2 ^ f.eb - 1 ∧ f.top = .ieee then (if m = 0 then .inf neg else .nan)
  else if e = 2 ^ f.eb - 1 ∧ f.top = .nanOnly ∧ m = 2 ^ f.mb - 1 then .nan
  else .fin neg (2 ^ f.mb + m) (emin + e - 1)

/-- `m / 2^k` rounded to an integer, half to even. -/
def rneShift (m k : Nat) : Nat :=
  let q := m / 2 ^ k
  let r := m % 2 ^ k
  if 2 * r < 2 ^ k then q else if 2 ^ k < 2 * r then q + 1 else q + q % 2

/-- `m × 2^e` rounded once, half to even, to the format's mantissa with the exponent unbounded upwards and gradual
underflow (R167): the rounded mantissa and its exponent. -/
def Fmt.round (f : Fmt) (m : Nat) (e : Int) : Nat × Int :=
  let q : Int := max (Nat.log2 m + e - f.mb) (1 - f.bias - f.mb)
  if q ≤ e then (m * 2 ^ (e - q).toNat, q) else (rneShift m (q - e).toNat, q)

/-- The largest exponent field of a finite value, and the largest mantissa field there. -/
def Fmt.maxFields (f : Fmt) : Nat × Nat :=
  match f.top with
  | .ieee => (2 ^ f.eb - 2, 2 ^ f.mb - 1)
  | .nanOnly => (2 ^ f.eb - 1, 2 ^ f.mb - 2)
  | .finite => (2 ^ f.eb - 1, 2 ^ f.mb - 1)

/-- The fields of a rounded value: exponent field (unbounded) and mantissa field. -/
def Fmt.fields (f : Fmt) (r : Nat × Int) : Nat × Nat :=
  if r.1 < 2 ^ f.mb then (0, r.1)
  else if 2 ^ (f.mb + 1) ≤ r.1 then ((r.2 + 1 + f.bias + f.mb).toNat, r.1 / 2 - 2 ^ f.mb)
  else ((r.2 + f.bias + f.mb).toNat, r.1 - 2 ^ f.mb)

/-- The encoding of a sign and the two fields. -/
def Fmt.pack (f : Fmt) (neg : Bool) (x : Nat × Nat) : Nat :=
  (if neg then 2 ^ (f.mb + f.eb) else 0) + x.1 * 2 ^ f.mb + x.2

/-- The canonical NaN of a format (R156); a format with none gives 0. -/
def Fmt.canonNaN (f : Fmt) : Nat :=
  match f.top with
  | .ieee => if f.mb = 2 then 0x7F else (2 ^ f.eb - 1) * 2 ^ f.mb + 2 ^ (f.mb - 1)
  | .nanOnly => 0x7F
  | .finite => 0

/-- Infinity of a sign, or the largest finite value where the format has none (R156, R168). -/
def Fmt.infOf (f : Fmt) (neg : Bool) : Nat :=
  match f.top with
  | .ieee => f.pack neg (2 ^ f.eb - 1, 0)
  | _ => f.pack neg f.maxFields

/-- Whether fields lie beyond the largest finite value. -/
def Fmt.overflows (f : Fmt) (x : Nat × Nat) : Bool :=
  decide (f.maxFields.1 < x.1 ∨ (x.1 = f.maxFields.1 ∧ f.maxFields.2 < x.2))

/-- Encoding by arithmetic: rounded once; beyond the largest finite value an infinity (R163, R165). -/
def Fmt.encode (f : Fmt) : FVal → Nat
  | .nan => f.canonNaN
  | .inf n => f.infOf n
  | .fin n m e =>
    let x := f.fields (f.round m e)
    if f.overflows x then f.infOf n else f.pack n x

/-- Encoding by conversion: rounded once; beyond the largest finite value that value, with the sign (R167, R168). -/
def Fmt.convert (f : Fmt) : FVal → Nat
  | .nan => f.canonNaN
  | .inf n => f.infOf n
  | .fin n m e =>
    let x := f.fields (f.round m e)
    if f.overflows x then f.pack n f.maxFields else f.pack n x

/-- The dyadic number of a finite value as an integer at exponent `e`, which must not exceed its own. -/
def dyadicAt (n : Bool) (m : Nat) (e' e : Int) : Int :=
  let x : Int := (m * 2 ^ (e' - e).toNat : Nat)
  if n then -x else x

/-- A value from an integer at an exponent; a zero takes the sign given. -/
def ofDyadic (x : Int) (e : Int) (zeroNeg : Bool) : FVal :=
  if x = 0 then .fin zeroNeg 0 0 else .fin (decide (x < 0)) x.natAbs e

/-- The exact sum of two values (R163, R165); an exact zero is -0 only from two -0. -/
def FVal.add : FVal → FVal → FVal
  | .nan, _ => .nan
  | _, .nan => .nan
  | .inf a, .inf b => if a = b then .inf a else .nan
  | .inf a, _ => .inf a
  | _, .inf b => .inf b
  | .fin n1 m1 e1, .fin n2 m2 e2 =>
    let e := min e1 e2
    ofDyadic (dyadicAt n1 m1 e1 e + dyadicAt n2 m2 e2 e) e (n1 && n2 && m1 == 0 && m2 == 0)

/-- The value with its sign inverted. -/
def FVal.neg : FVal → FVal
  | .nan => .nan
  | .inf a => .inf !a
  | .fin n m e => .fin (!n) m e

/-- The magnitude. -/
def FVal.abs : FVal → FVal
  | .nan => .nan
  | .inf _ => .inf false
  | .fin _ m e => .fin false m e

/-- The exact product (R163, R165). -/
def FVal.mul : FVal → FVal → FVal
  | .nan, _ => .nan
  | _, .nan => .nan
  | .inf a, .inf b => .inf (a != b)
  | .inf a, .fin n m _ => if m = 0 then .nan else .inf (a != n)
  | .fin n m _, .inf b => if m = 0 then .nan else .inf (n != b)
  | .fin n1 m1 e1, .fin n2 m2 e2 => .fin (n1 != n2) (m1 * m2) (e1 + e2)

/-- Whether a value lies below another: false for a NaN; -0 equals +0 (R165). -/
def FVal.lt : FVal → FVal → Bool
  | .nan, _ => false
  | _, .nan => false
  | .inf a, .inf b => a && !b
  | .inf a, _ => a
  | _, .inf b => !b
  | .fin n1 m1 e1, .fin n2 m2 e2 =>
    let e := min e1 e2
    decide (dyadicAt n1 m1 e1 e < dyadicAt n2 m2 e2 e)

/-- Equality of values: false for a NaN (R165). -/
def FVal.eqv : FVal → FVal → Bool
  | .nan, _ => false
  | _, .nan => false
  | a, b => !(a.lt b) && !(b.lt a)

/-- A value at most another: false for a NaN (R165). -/
def FVal.le (a b : FVal) : Bool := a.lt b || a.eqv b

/-- The larger-of with -0 below +0; a NaN yields the other operand (R165). -/
def FVal.max : FVal → FVal → FVal
  | .nan, b => b
  | a, .nan => a
  | .fin n1 0 e1, .fin n2 0 _ => .fin (n1 && n2) 0 e1
  | a, b => if a.lt b then b else a

/-- The smaller-of with -0 below +0; a NaN yields the other operand (R165). -/
def FVal.min : FVal → FVal → FVal
  | .nan, b => b
  | a, .nan => a
  | .fin n1 0 e1, .fin n2 0 _ => .fin (n1 || n2) 0 e1
  | a, b => if b.lt a then b else a

/-- The value rounded to an integer, half to even (R167). -/
def FVal.toIntRne : FVal → Int
  | .fin n m e =>
    let x : Nat := if 0 ≤ e then m * 2 ^ e.toNat else rneShift m (-e).toNat
    if n then -(x : Int) else x
  | _ => 0

/-- Conversion to an integer in `[lo, hi]`: infinities clamp, NaN gives 0 (R167, R168). -/
def FVal.toIntClamp (v : FVal) (lo hi : Int) : Int :=
  match v with
  | .nan => 0
  | .inf n => if n then lo else hi
  | .fin _ _ _ => Max.max lo (Min.min hi v.toIntRne)

/-- The largest integer not above a finite value. -/
def FVal.floor : FVal → Int
  | .fin n m e =>
    if 0 ≤ e then (if n then -((m * 2 ^ e.toNat : Nat) : Int) else (m * 2 ^ e.toNat : Nat))
    else if n then -(((m + 2 ^ (-e).toNat - 1) / 2 ^ (-e).toNat : Nat) : Int) else ((m / 2 ^ (-e).toNat : Nat) : Int)
  | _ => 0

/-- Whether a value is finite. -/
def FVal.isFin : FVal → Bool
  | .fin _ _ _ => true
  | _ => false

/-- Whether a value is an exact zero. -/
def FVal.isZero : FVal → Bool
  | .fin _ 0 _ => true
  | _ => false

/-! ## FP32 -/

/-- The value of an FP32 word. -/
def f32 (x : Word) : FVal := fFP32.decode x.toNat

/-- A value rounded to FP32 (R165). -/
def toF32 (v : FVal) : Word := BitVec.ofNat 32 (fFP32.encode v)

def fadd (a b : Word) : Word := toF32 ((f32 a).add (f32 b))
def fsub (a b : Word) : Word := toF32 ((f32 a).add (f32 b).neg)
def fmul (a b : Word) : Word := toF32 ((f32 a).mul (f32 b))

/-- The fused multiply-add a × b + c, rounded once (R165). -/
def ffma (a b c : Word) : Word := toF32 (((f32 a).mul (f32 b)).add (f32 c))
def fmax (a b : Word) : Word := toF32 ((f32 a).max (f32 b))
def fmin (a b : Word) : Word := toF32 ((f32 a).min (f32 b))
def flt (a b : Word) : Bool := (f32 a).lt (f32 b)
def fle (a b : Word) : Bool := (f32 a).le (f32 b)
def feq (a b : Word) : Bool := (f32 a).eqv (f32 b)
def fabs (a : Word) : Word := toF32 (f32 a).abs
def fneg (a : Word) : Word := toF32 (f32 a).neg

/-- An integer as FP32, rounded half to even (R168). -/
def f32OfInt (x : Int) : Word := toF32 (ofDyadic x 0 false)

/-- Whether an FP32 word is finite. -/
def ffinite (a : Word) : Bool := (f32 a).isFin

/-! ## Special-function units (R166) -/

/-- The FP32 number that a unit returns among those from `lo` half ulps to `hi` ulps, an ulp being 2^q, the spacing at the exact
result (R166). -/
def ulpPick (op : Nat) (x : Word) (neg : Bool) (lo hi : Nat) (q : Int) : Word :=
  toF32 (.fin neg (lo + Config.sfuPick op x % (2 * hi - lo + 1)) (q - 1))

/-- The least number within `u` ulps of an exact result above `k` and below `k + 1` ulps, in half ulps: below a power of two the
numbers lie half an ulp apart, and one more is within the bound where the result lies at or below `k` + 1/2. -/
def lowEnd (k u : Nat) (low : Bool) (q : Int) : Nat :=
  2 * (k + 1 - u) - (if low = true ∧ k + 1 - u ≤ 2 ^ 23 ∧ -149 < q then 1 else 0)

/-- The FP32 number that a unit of 1 ulp returns for an exact result at or above `k` and below `k + 1` ulps; `exact` when it is `k`
itself, `low` when it is at most `k` + 1/2. -/
def ulpOne (op : Nat) (x : Word) (neg : Bool) (k : Nat) (exact low : Bool) (q : Int) : Word :=
  ulpPick op x neg (if exact then 2 * (k - 1) else lowEnd k 1 low q) (k + 1) q

/-- 1 / x by the reciprocal unit: within one ulp of the exact value, with the special values of R166.  Where 1 / x lies beyond the largest
finite value (a subnormal x below about 2^-128), the table names no result and an infinity of its sign is taken (DESIGN CHOICE; log
entry 136). -/
def frecip (x : Word) : Word :=
  match f32 x with
  | .nan => toF32 .nan
  | .inf n => toF32 (.fin n 0 0)
  | .fin n 0 _ => toF32 (.inf n)
  | .fin n m e =>
    if (FVal.fin false 1 126).lt (.fin false m e) then toF32 (.fin n 0 0)
    else
      -- 1 / (m 2^e) = 2^(-e) / m; the ulp is 2^q with 2^23 ≤ result / 2^q < 2^24
      let l := Nat.log2 m
      let q : Int := Max.max (-e - l - (if m = 2 ^ l then 0 else 1) - 23) (-149)
      let num := 2 ^ (-e - q).toNat
      ulpOne 0 x n (num / m) (num % m == 0) (decide (2 * (num % m) ≤ m)) q

/-- √x by the square-root unit: within one ulp of the exact value, with the special values of R166. -/
def fsqrt (x : Word) : Word :=
  match f32 x with
  | .nan => toF32 .nan
  | .inf n => if n then toF32 .nan else toF32 (.inf false)
  | .fin n 0 _ => toF32 (.fin n 0 0)
  | .fin n m e =>
    if n then toF32 .nan
    else
      -- scale so that the root has 24 bits: m' = m 2^k with e - k even and 2^46 ≤ m' < 2^48
      let l := Nat.log2 m
      let k0 := 46 - l
      let k := if (e - k0) % 2 = 0 then k0 else k0 + 1
      let m' := m * 2 ^ k
      let r := Nat.sqrt m'
      ulpOne 1 x false r (r * r == m') (decide (m' ≤ r * r + r)) ((e - k) / 2)

/-- ln 2 and log2 e in units of 2^-128, rounded down. -/
def ln2Bits : Nat := 235865763225513294137944142764154484399
def log2eBits : Nat := 490923683258796565746369346286093237521

/-- The terms `t` × y^k / ((n + 1) … (n + k)) of the exponential series, all in units of 2^-128, summed from k = 0. -/
def expSum (y : Nat) : Nat → Nat → Nat → Nat
  | 0, _, _ => 0
  | fuel + 1, n, t => t + expSum y fuel (n + 1) (t * y / ((n + 1) * 2 ^ 128))

/-- 2^z for z in units of 2^-128, within `u` ulps (R166): the exact result lies between the `k`-th and the next ulp, which the series
gives to far below one ulp. -/
def exp2Near (op : Nat) (x : Word) (u : Nat) (z : Int) : Word :=
  let i := z / (2 ^ 128 : Nat)
  let h := expSum ((z % (2 ^ 128 : Nat)).toNat * ln2Bits / 2 ^ 128) 40 0 (2 ^ 128) / 2 ^ 104
  ulpPick op x false (lowEnd (h / 2) u (h % 2 == 0) (i - 23)) (h / 2 + u) (i - 23)

/-- 2^x by the exponent unit: exact for integer x, flushed below -126, with the special values of R166; elsewhere
any value within its error bound of 2 ulp. -/
def fexp2 (x : Word) : Word :=
  match f32 x with
  | .nan => toF32 .nan
  | .inf n => if n then 0 else toF32 (.inf false)
  | .fin n m e =>
    let v := FVal.fin n m e
    if !(v.lt (.fin false 128 0)) then toF32 (.inf false)
    else if v.lt (.fin true 126 0) then 0
    else if v.eqv (ofDyadic v.floor 0 false) then toF32 (.fin false 1 v.floor)
    else exp2Near 2 x 2 (v.mul (.fin false 1 128)).floor

/-- e^x by the exponent unit: e^0 = 1, flushed below -87.33, infinite above 88.72 (R166); elsewhere any value within its
error bound of 3 ulp.  The two limits are compared exactly, as hundredths. -/
def fexp (x : Word) : Word :=
  match f32 x with
  | .nan => toF32 .nan
  | .inf n => if n then 0 else toF32 (.inf false)
  | .fin n m e =>
    let v := FVal.fin n m e
    let h := v.mul (.fin false 100 0)
    if v.isZero then toF32 (.fin false 1 0)
    else if (FVal.fin false 8872 0).lt h then toF32 (.inf false)
    else if h.lt (.fin true 8733 0) then 0
    else exp2Near 3 x 3 ((v.mul (.fin false 1 128)).floor * (log2eBits : Nat) / (2 ^ 128 : Nat))

/-- a / b where the device divides: the product with the reciprocal unit's 1 / b (R166, R416). -/
def fdiv (a b : Word) : Word := fmul a (frecip b)

/-! ## Sines, cosines and angles (R364, R367, R395, R400; log entry 145) -/

/-- π in units of 2^-320, rounded down. -/
def piBits : Int := 6710401180212168915155840974220003240804194089427148950727106424351713218671805380099500388914039

/-- The terms of the sine series from `t`, each -y² / (k (k + 1)) of the one before, in units of 2^-320. -/
def sinSum (y : Int) : Nat → Int → Int → Int
  | 0, _, _ => 0
  | fuel + 1, k, t => t + sinSum y fuel (k + 2) (-(t * y / 2 ^ 320 * y / (k * (k + 1) * 2 ^ 320)))

/-- The sine of an angle, both in units of 2^-320. -/
def sinFix (z : Int) : Int :=
  let r := z % (2 * piBits)
  let y := if piBits < r then r - 2 * piBits else r
  sinSum y 60 2 y

/-- The cosine. -/
def cosFix (z : Int) : Int := sinFix (z + piBits / 2)

/-- The FP32 value that an engine returns for a value in units of 2^-320: one of the two that enclose it. -/
def nearFix (op : Nat) (x : Word) (v : Int) : Word :=
  let n := v.natAbs
  let q : Int := max ((Nat.log2 n : Int) - 343) (-149)
  let u := 2 ^ (q + 320).toNat
  toF32 (.fin (decide (v < 0)) (n / u + if n % u = 0 then 0 else Config.trigPick op x % 2) q)

/-- A finite FP32 value in units of 2^-320. -/
def toFix (x : Word) : Int := match f32 x with
  | .fin n m e => (if n then -1 else 1) * ((m * 2 ^ (e + 320).toNat : Nat) : Int)
  | _ => 0

/-- The sine and cosine of an FP32 angle by function `op` and `op` + 1. -/
def fsin (op : Nat) (x : Word) : Word := if ffinite x then nearFix op x (sinFix (toFix x)) else toF32 .nan
def fcos (op : Nat) (x : Word) : Word := if ffinite x then nearFix (op + 1) x (cosFix (toFix x)) else toF32 .nan

/-- The angle from 0 to π whose direction has height `n` > 0 and width `w`, by halving: in units of 2^-320. -/
def arcFix (n w : Int) : Nat → Int → Int → Int
  | 0, lo, _ => lo
  | fuel + 1, lo, hi =>
    let m := (lo + hi) / 2
    if 0 ≤ cosFix m * n - sinFix m * w then arcFix n w fuel m hi else arcFix n w fuel lo m

/-- The angle of a rotation whose half has sine `n` > 0 and cosine `w`. -/
def farc (op : Nat) (n w : Word) : Word := nearFix op n (2 * arcFix (toFix n) (toFix w) 321 0 piBits)

/-! ## Conversions (R155, R168, R169) -/

/-- A two's complement integer of `w` bits. -/
def sintOf (w x : Nat) : Int := if x % 2 ^ w < 2 ^ (w - 1) then (x % 2 ^ w : Nat) else (x % 2 ^ w : Nat) - (2 ^ w : Nat)

/-- An integer as `w`-bit two's complement. -/
def sintTo (w : Nat) (x : Int) : Nat := (x % (2 ^ w : Nat)).toNat

/-- The floating-point format of a code of R155, where it is one. -/
def fmtOf (code : Nat) : Option Fmt :=
  if code = 3 then some fE4M3 else if code = 4 then some fE5M2 else if code = 5 then some fFP16
  else if code = 6 then some fBF16 else if code = 7 then some fFP32 else if code = 2 then some fE2M1 else none

/-- The bits of an element of a format code (R155). -/
def elemBits (code : Nat) : Nat :=
  if code = 0 ∨ code = 2 then 4 else if code = 1 ∨ code = 3 ∨ code = 4 then 8
  else if code = 5 ∨ code = 6 then 16 else 32

/-- The scale of an MXFP4 block: NaN for 0xFF, else 2^(X - 127) (R156, R159). -/
def e8m0 (x : Nat) : FVal := if x = 0xFF then .nan else .fin false 1 ((x : Int) - 127)

/-- The value of an element of a format code; an MXFP4 element takes its block's scale (R155, R159). -/
def elemVal (code x scale : Nat) : FVal :=
  if code = 0 then ofDyadic (sintOf 4 x) 0 false
  else if code = 1 then ofDyadic (sintOf 8 x) 0 false
  else if code = 2 then (fE2M1.decode x).mul (e8m0 scale)
  else match fmtOf code with
    | some f => f.decode x
    | none => .nan

/-- Conversion of an element to FP32 (R168). -/
def convToF32 (code x scale : Nat) : Word := toF32 (elemVal code x scale)

/-- Conversion of FP32 to an element of a format code other than MXFP4 (R167, R168). -/
def convFromF32 (code : Nat) (x : Word) : Nat :=
  if code = 0 then sintTo 4 ((f32 x).toIntClamp (-8) 7)
  else if code = 1 then sintTo 8 ((f32 x).toIntClamp (-128) 127)
  else match fmtOf code with
    | some f => f.convert (f32 x)
    | none => 0

/-- The exponent of the block scale that a largest magnitude selects (R169). -/
def mxExponent : FVal → Int
  | .inf _ => 127
  | .nan => 127
  | .fin _ 0 _ => -127
  | .fin _ m e => Max.max (-127) (Min.min 127 ((Nat.log2 m : Int) + e - 2))

/-- The larger magnitude of two (R169): an infinity counts as larger than every finite value. -/
def maxAbs (vs : List FVal) : FVal := vs.foldl (fun a v => a.max v.abs) (.fin false 0 0)

/-- Conversion of 32 FP32 values to one MXFP4 block: the scale byte and the elements (R169). -/
def toMx (vs : List Word) : Nat × List Nat :=
  let xs := vs.map f32
  if xs.any (· == .nan) then (0xFF, xs.map fun _ => 0)
  else
    let e := mxExponent (maxAbs xs)
    ((e + 127).toNat, xs.map fun v =>
      match v with
      | .inf n => if n then 0xF else 0x7
      | v => fE2M1.convert (v.mul (.fin false 1 (-e))))

end Sys2Proof.Machine
end

