-- ==== Sys2Proof/Machine/RegMap.lean ====
section
/-!
DEFINITION. The host-visible register map of BAR0: one row per register with its offset, its copies, its width, its
reset value and its fields with their access codes (spec/25_register_reference.md R532-R543 and the register tables of
the chapters they index), and a name for every field.  Reserved bits are in no field.
-/
namespace Sys2Proof.Machine

/-- The access codes of R6. -/
inductive Acc where
  | ro | rw | wo | w1c | rc | rwl
  deriving DecidableEq, Repr

/-- A field of a register: the register's BAR0 offset (of copy 0), the lowest bit, the width, and how far apart the
register's copies are. -/
structure Fld where
  off : Nat
  lo : Nat
  w : Nat
  stride : Nat
  deriving DecidableEq, Repr

/-- The same field of copy `i` of the register. -/
def Fld.idx (f : Fld) (i : Nat) : Fld := { f with off := f.off + f.stride * i }

/-- The same field in bank `b`: a register that a SEL field indexes has one bank per index, 2^22 apart (BAR0 is 4 MiB). -/
def Fld.bank (f : Fld) (b : Nat) : Fld := { f with off := f.off + 0x400000 * b }

/-- Bit `n` of the field, as a field of width 1. -/
def Fld.bit (f : Fld) (n : Nat) : Fld := { f with lo := f.lo + n, w := 1 }

/-- One row of the register map: `count` copies `stride` bytes apart from offset `off`. -/
structure RegDesc where
  off : Nat
  stride : Nat
  count : Nat
  wide : Bool
  reset : Nat
  fields : List (Nat × Nat × Acc)
  deriving DecidableEq, Repr

/-- HIF_STATUS, BAR0 offset 0x000000, 32 bits (R77). -/
def HIF_STATUS : RegDesc :=
  ⟨0x0, 0x0, 1, false, 0x0, [(0, 1, .w1c), (1, 1, .w1c), (2, 1, .ro), (3, 1, .ro)]⟩
/-- HIF_STATUS.WIN_ERR, bits [0:0], W1C (R77). -/
abbrev HIF_STATUS_WIN_ERR : Fld := ⟨0x0, 0, 1, 0x0⟩
/-- HIF_STATUS.WIN_POISON, bits [1:1], W1C (R77). -/
abbrev HIF_STATUS_WIN_POISON : Fld := ⟨0x0, 1, 1, 0x0⟩
/-- HIF_STATUS.FW_FATAL, bits [2:2], RO (R77). -/
abbrev HIF_STATUS_FW_FATAL : Fld := ⟨0x0, 2, 1, 0x0⟩
/-- HIF_STATUS.DOWNTRAINED, bits [3:3], RO (R77). -/
abbrev HIF_STATUS_DOWNTRAINED : Fld := ⟨0x0, 3, 1, 0x0⟩

/-- HIF_WIN_BASE, BAR0 offset 0x000008, 64 bits (R78). -/
def HIF_WIN_BASE : RegDesc :=
  ⟨0x8, 0x0, 1, true, 0x0, [(28, 8, .rw)]⟩
/-- HIF_WIN_BASE.BASE, bits [35:28], RW (R78). -/
abbrev HIF_WIN_BASE_BASE : Fld := ⟨0x8, 28, 8, 0x0⟩

/-- HIF_HEARTBEAT, BAR0 offset 0x000010, 32 bits (R79). -/
def HIF_HEARTBEAT : RegDesc :=
  ⟨0x10, 0x0, 1, false, 0x0, [(0, 32, .ro)]⟩
/-- HIF_HEARTBEAT.COUNT, bits [31:0], RO (R79). -/
abbrev HIF_HEARTBEAT_COUNT : Fld := ⟨0x10, 0, 32, 0x0⟩

/-- HIF_IDSUM, BAR0 offset 0x000018, 64 bits (R535 (computed)). -/
def HIF_IDSUM : RegDesc :=
  ⟨0x18, 0x0, 1, true, 0x0, [(0, 64, .ro)]⟩
/-- HIF_IDSUM.ALL, bits [63:0], RO (R535). -/
abbrev HIF_IDSUM_ALL : Fld := ⟨0x18, 0, 64, 0x0⟩

/-- HIF_GSTATUS, BAR0 offset 0x000020, 32 bits (R536 (bits [15:3] computed)). -/
def HIF_GSTATUS : RegDesc :=
  ⟨0x20, 0x0, 1, false, 0x0, [(0, 1, .ro), (1, 1, .w1c), (2, 1, .w1c), (3, 13, .ro)]⟩
/-- HIF_GSTATUS.BOOT_LOCK, bits [0:0], RO (R536). -/
abbrev HIF_GSTATUS_BOOT_LOCK : Fld := ⟨0x20, 0, 1, 0x0⟩
/-- HIF_GSTATUS.LOCK_VIOL, bits [1:1], W1C (R536). -/
abbrev HIF_GSTATUS_LOCK_VIOL : Fld := ⟨0x20, 1, 1, 0x0⟩
/-- HIF_GSTATUS.ACC_ERR, bits [2:2], W1C (R536). -/
abbrev HIF_GSTATUS_ACC_ERR : Fld := ⟨0x20, 2, 1, 0x0⟩
/-- HIF_GSTATUS.MIRROR, bits [15:3], RO (R536). -/
abbrev HIF_GSTATUS_MIRROR : Fld := ⟨0x20, 3, 13, 0x0⟩

/-- HIF_ICAUSE, BAR0 offset 0x000024, 32 bits (R537). -/
def HIF_ICAUSE : RegDesc :=
  ⟨0x24, 0x0, 1, false, 0x0, [(0, 1, .ro), (1, 1, .w1c), (2, 1, .w1c), (3, 1, .w1c)]⟩
/-- HIF_ICAUSE.FW_FATAL, bits [0:0], RO (R537). -/
abbrev HIF_ICAUSE_FW_FATAL : Fld := ⟨0x24, 0, 1, 0x0⟩
/-- HIF_ICAUSE.AER_COR, bits [1:1], W1C (R537). -/
abbrev HIF_ICAUSE_AER_COR : Fld := ⟨0x24, 1, 1, 0x0⟩
/-- HIF_ICAUSE.AER_NONFATAL, bits [2:2], W1C (R537). -/
abbrev HIF_ICAUSE_AER_NONFATAL : Fld := ⟨0x24, 2, 1, 0x0⟩
/-- HIF_ICAUSE.AER_FATAL, bits [3:3], W1C (R537). -/
abbrev HIF_ICAUSE_AER_FATAL : Fld := ⟨0x24, 3, 1, 0x0⟩

/-- HIF_IMASK, BAR0 offset 0x000028, 32 bits (R537). -/
def HIF_IMASK : RegDesc :=
  ⟨0x28, 0x0, 1, false, 0x0, [(1, 3, .rw)]⟩
/-- HIF_IMASK.MASK, bits [3:1], RW (R537). -/
abbrev HIF_IMASK_MASK : Fld := ⟨0x28, 1, 3, 0x0⟩

/-- HIF_LOCKCFG, BAR0 offset 0x00002C, 32 bits (R540). -/
def HIF_LOCKCFG : RegDesc :=
  ⟨0x2C, 0x0, 1, false, 0x0, [(0, 1, .rwl), (1, 1, .rwl)]⟩
/-- HIF_LOCKCFG.ISL_DBG_DENY, bits [0:0], RWL (R540). -/
abbrev HIF_LOCKCFG_ISL_DBG_DENY : Fld := ⟨0x2C, 0, 1, 0x0⟩
/-- HIF_LOCKCFG.CMB_HALT_DENY, bits [1:1], RWL (R540). -/
abbrev HIF_LOCKCFG_CMB_HALT_DENY : Fld := ⟨0x2C, 1, 1, 0x0⟩

/-- HIF_IPEND, BAR0 offset 0x000030, 64 bits (R539 (computed)). -/
def HIF_IPEND : RegDesc :=
  ⟨0x30, 0x0, 1, true, 0x0, [(0, 64, .ro)]⟩
/-- HIF_IPEND.ALL, bits [63:0], RO (R539). -/
abbrev HIF_IPEND_ALL : Fld := ⟨0x30, 0, 64, 0x0⟩

/-- HIF_QTAIL, BAR0 offset 0x001000, 32 bits, copies 0x20 apart: 128 (R111). -/
def HIF_QTAIL : RegDesc :=
  ⟨0x1000, 0x20, 128, false, 0x0, [(0, 16, .rw)]⟩
/-- HIF_QTAIL.INDEX, bits [15:0], RW (R111). -/
abbrev HIF_QTAIL_INDEX : Fld := ⟨0x1000, 0, 16, 0x20⟩

/-- HIF_QHEAD, BAR0 offset 0x001004, 32 bits, copies 0x20 apart: 128 (R111). -/
def HIF_QHEAD : RegDesc :=
  ⟨0x1004, 0x20, 128, false, 0x0, [(0, 16, .ro)]⟩
/-- HIF_QHEAD.INDEX, bits [15:0], RO (R111). -/
abbrev HIF_QHEAD_INDEX : Fld := ⟨0x1004, 0, 16, 0x20⟩

/-- HIF_CQTAIL, BAR0 offset 0x001008, 32 bits, copies 0x20 apart: 128 (R111). -/
def HIF_CQTAIL : RegDesc :=
  ⟨0x1008, 0x20, 128, false, 0x0, [(0, 16, .rw)]⟩
/-- HIF_CQTAIL.INDEX, bits [15:0], RW (R111). -/
abbrev HIF_CQTAIL_INDEX : Fld := ⟨0x1008, 0, 16, 0x20⟩

/-- HIF_CQHEAD, BAR0 offset 0x00100C, 32 bits, copies 0x20 apart: 128 (R111). -/
def HIF_CQHEAD : RegDesc :=
  ⟨0x100C, 0x20, 128, false, 0x0, [(0, 16, .ro), (16, 1, .ro)]⟩
/-- HIF_CQHEAD.INDEX, bits [15:0], RO (R111). -/
abbrev HIF_CQHEAD_INDEX : Fld := ⟨0x100C, 0, 16, 0x20⟩
/-- HIF_CQHEAD.PHASE, bits [16:16], RO (R111). -/
abbrev HIF_CQHEAD_PHASE : Fld := ⟨0x100C, 16, 1, 0x20⟩

/-- HIF_QSTAT, BAR0 offset 0x001010, 32 bits, copies 0x20 apart: 128 (R111). -/
def HIF_QSTAT : RegDesc :=
  ⟨0x1010, 0x20, 128, false, 0x0, [(0, 2, .ro), (2, 1, .w1c), (3, 1, .w1c), (4, 1, .ro), (5, 1, .ro), (16, 16, .ro)]⟩
/-- HIF_QSTAT.STATE, bits [1:0], RO (R111). -/
abbrev HIF_QSTAT_STATE : Fld := ⟨0x1010, 0, 2, 0x20⟩
/-- HIF_QSTAT.DB_ERR, bits [2:2], W1C (R111). -/
abbrev HIF_QSTAT_DB_ERR : Fld := ⟨0x1010, 2, 1, 0x20⟩
/-- HIF_QSTAT.DB_REFUSED, bits [3:3], W1C (R111). -/
abbrev HIF_QSTAT_DB_REFUSED : Fld := ⟨0x1010, 3, 1, 0x20⟩
/-- HIF_QSTAT.CQ_FULL, bits [4:4], RO (R111). -/
abbrev HIF_QSTAT_CQ_FULL : Fld := ⟨0x1010, 4, 1, 0x20⟩
/-- HIF_QSTAT.WAITING, bits [5:5], RO (R111). -/
abbrev HIF_QSTAT_WAITING : Fld := ⟨0x1010, 5, 1, 0x20⟩
/-- HIF_QSTAT.EXPECT_SEQ, bits [31:16], RO (R111). -/
abbrev HIF_QSTAT_EXPECT_SEQ : Fld := ⟨0x1010, 16, 16, 0x20⟩

/-- HIF_QCTL, BAR0 offset 0x001014, 32 bits, copies 0x20 apart: 128 (R111). -/
def HIF_QCTL : RegDesc :=
  ⟨0x1014, 0x20, 128, false, 0x0, [(0, 1, .wo), (1, 1, .wo)]⟩
/-- HIF_QCTL.RESUME, bits [0:0], WO (R111). -/
abbrev HIF_QCTL_RESUME : Fld := ⟨0x1014, 0, 1, 0x20⟩
/-- HIF_QCTL.FLUSH, bits [1:1], WO (R111). -/
abbrev HIF_QCTL_FLUSH : Fld := ⟨0x1014, 1, 1, 0x20⟩

/-- MBX_CTRL, BAR0 offset 0x020000, 32 bits (R81). -/
def MBX_CTRL : RegDesc :=
  ⟨0x20000, 0x0, 1, false, 0x0, [(0, 1, .ro), (8, 8, .ro), (16, 8, .ro)]⟩
/-- MBX_CTRL.READY, bits [0:0], RO (R81). -/
abbrev MBX_CTRL_READY : Fld := ⟨0x20000, 0, 1, 0x0⟩
/-- MBX_CTRL.HIF_MINOR, bits [15:8], RO (R81). -/
abbrev MBX_CTRL_HIF_MINOR : Fld := ⟨0x20000, 8, 8, 0x0⟩
/-- MBX_CTRL.HIF_MAJOR, bits [23:16], RO (R81). -/
abbrev MBX_CTRL_HIF_MAJOR : Fld := ⟨0x20000, 16, 8, 0x0⟩

/-- MBX_DB, BAR0 offset 0x021200, 32 bits, copies 0x1000 apart: 16 (R80). -/
def MBX_DB : RegDesc :=
  ⟨0x21200, 0x1000, 16, false, 0x0, [(0, 1, .wo)]⟩
/-- MBX_DB.POST, bits [0:0], WO (R80). -/
abbrev MBX_DB_POST : Fld := ⟨0x21200, 0, 1, 0x1000⟩

/-- MBX_STAT, BAR0 offset 0x021204, 32 bits, copies 0x1000 apart: 16 (R82). -/
def MBX_STAT : RegDesc :=
  ⟨0x21204, 0x1000, 16, false, 0x0, [(0, 2, .ro), (2, 1, .w1c), (3, 1, .w1c), (16, 16, .ro)]⟩
/-- MBX_STAT.STATE, bits [1:0], RO (R82). -/
abbrev MBX_STAT_STATE : Fld := ⟨0x21204, 0, 2, 0x1000⟩
/-- MBX_STAT.DB_LOST, bits [2:2], W1C (R82). -/
abbrev MBX_STAT_DB_LOST : Fld := ⟨0x21204, 2, 1, 0x1000⟩
/-- MBX_STAT.REQ_DISCARD, bits [3:3], W1C (R82). -/
abbrev MBX_STAT_REQ_DISCARD : Fld := ⟨0x21204, 3, 1, 0x1000⟩
/-- MBX_STAT.TAG, bits [31:16], RO (R82). -/
abbrev MBX_STAT_TAG : Fld := ⟨0x21204, 16, 16, 0x1000⟩

/-- MBX_ACK, BAR0 offset 0x021208, 32 bits, copies 0x1000 apart: 16 (R80). -/
def MBX_ACK : RegDesc :=
  ⟨0x21208, 0x1000, 16, false, 0x0, [(0, 1, .wo)]⟩
/-- MBX_ACK.RELEASE, bits [0:0], WO (R80). -/
abbrev MBX_ACK_RELEASE : Fld := ⟨0x21208, 0, 1, 0x1000⟩

/-- MBX_CANCEL, BAR0 offset 0x02120C, 32 bits, copies 0x1000 apart: 16 (R80). -/
def MBX_CANCEL : RegDesc :=
  ⟨0x2120C, 0x1000, 16, false, 0x0, [(0, 1, .wo)]⟩
/-- MBX_CANCEL.CANCEL, bits [0:0], WO (R80). -/
abbrev MBX_CANCEL_CANCEL : Fld := ⟨0x2120C, 0, 1, 0x1000⟩

/-- IDN_PKG, BAR0 offset 0x040000, 32 bits (R22). -/
def IDN_PKG : RegDesc :=
  ⟨0x40000, 0x0, 1, false, 0x0, [(0, 4, .ro), (8, 7, .ro), (16, 1, .ro), (17, 1, .ro), (18, 1, .ro)]⟩
/-- IDN_PKG.VARIANT, bits [3:0], RO (R22). -/
abbrev IDN_PKG_VARIANT : Fld := ⟨0x40000, 0, 4, 0x0⟩
/-- IDN_PKG.INCLUDED, bits [14:8], RO (R22). -/
abbrev IDN_PKG_INCLUDED : Fld := ⟨0x40000, 8, 7, 0x0⟩
/-- IDN_PKG.REDUCED, bits [16:16], RO (R22). -/
abbrev IDN_PKG_REDUCED : Fld := ⟨0x40000, 16, 1, 0x0⟩
/-- IDN_PKG.BASELINE_ANY, bits [17:17], RO (R22). -/
abbrev IDN_PKG_BASELINE_ANY : Fld := ⟨0x40000, 17, 1, 0x0⟩
/-- IDN_PKG.MIXED_REV, bits [18:18], RO (R22). -/
abbrev IDN_PKG_MIXED_REV : Fld := ⟨0x40000, 18, 1, 0x0⟩

/-- IDN_BOOT, BAR0 offset 0x040004, 32 bits (R23). -/
def IDN_BOOT : RegDesc :=
  ⟨0x40004, 0x0, 1, false, 0x0, [(0, 4, .ro), (8, 8, .ro), (16, 1, .ro)]⟩
/-- IDN_BOOT.STAGE, bits [3:0], RO (R23). -/
abbrev IDN_BOOT_STAGE : Fld := ⟨0x40004, 0, 4, 0x0⟩
/-- IDN_BOOT.ERROR, bits [15:8], RO (R23). -/
abbrev IDN_BOOT_ERROR : Fld := ⟨0x40004, 8, 8, 0x0⟩
/-- IDN_BOOT.ISLAND_B, bits [16:16], RO (R23). -/
abbrev IDN_BOOT_ISLAND_B : Fld := ⟨0x40004, 16, 1, 0x0⟩

/-- IDN_CAP_PKG, BAR0 offset 0x040008, 32 bits (R23). -/
def IDN_CAP_PKG : RegDesc :=
  ⟨0x40008, 0x0, 1, false, 0x0, [(0, 32, .ro)]⟩
/-- IDN_CAP_PKG.WORD, bits [31:0], RO (R23). -/
abbrev IDN_CAP_PKG_WORD : Fld := ⟨0x40008, 0, 32, 0x0⟩

/-- IDN_DIE, BAR0 offset 0x040040, 64 bits, copies 0x8 apart: 11 (R24). -/
def IDN_DIE : RegDesc :=
  ⟨0x40040, 0x8, 11, true, 0x0, [(0, 4, .ro), (4, 8, .ro), (12, 1, .ro), (13, 1, .ro), (14, 1, .ro), (15, 1, .ro), (16, 8, .ro), (24, 8, .ro), (32, 5, .ro), (40, 24, .ro)]⟩
/-- IDN_DIE.TYPE, bits [3:0], RO (R24). -/
abbrev IDN_DIE_TYPE : Fld := ⟨0x40040, 0, 4, 0x8⟩
/-- IDN_DIE.REV, bits [11:4], RO (R24). -/
abbrev IDN_DIE_REV : Fld := ⟨0x40040, 4, 8, 0x8⟩
/-- IDN_DIE.VALID, bits [12:12], RO (R24). -/
abbrev IDN_DIE_VALID : Fld := ⟨0x40040, 12, 1, 0x8⟩
/-- IDN_DIE.BASELINE, bits [13:13], RO (R24). -/
abbrev IDN_DIE_BASELINE : Fld := ⟨0x40040, 13, 1, 0x8⟩
/-- IDN_DIE.FUSE_ERR, bits [14:14], RO (R24). -/
abbrev IDN_DIE_FUSE_ERR : Fld := ⟨0x40040, 14, 1, 0x8⟩
/-- IDN_DIE.EXCLUDED, bits [15:15], RO (R24). -/
abbrev IDN_DIE_EXCLUDED : Fld := ⟨0x40040, 15, 1, 0x8⟩
/-- IDN_DIE.DIE_X, bits [23:16], RO (R24). -/
abbrev IDN_DIE_DIE_X : Fld := ⟨0x40040, 16, 8, 0x8⟩
/-- IDN_DIE.DIE_Y, bits [31:24], RO (R24). -/
abbrev IDN_DIE_DIE_Y : Fld := ⟨0x40040, 24, 8, 0x8⟩
/-- IDN_DIE.WAFER, bits [36:32], RO (R24). -/
abbrev IDN_DIE_WAFER : Fld := ⟨0x40040, 32, 5, 0x8⟩
/-- IDN_DIE.LOT, bits [63:40], RO (R24). -/
abbrev IDN_DIE_LOT : Fld := ⟨0x40040, 40, 24, 0x8⟩

/-- IDN_LINK, BAR0 offset 0x0400A0, 32 bits, copies 0x4 apart: 10 (R25). -/
def IDN_LINK : RegDesc :=
  ⟨0x400A0, 0x4, 10, false, 0x400, [(0, 3, .ro), (4, 4, .ro), (8, 1, .ro), (9, 1, .ro), (10, 1, .ro), (11, 1, .w1c), (12, 8, .ro)]⟩
/-- IDN_LINK.RATE, bits [2:0], RO (R25). -/
abbrev IDN_LINK_RATE : Fld := ⟨0x400A0, 0, 3, 0x4⟩
/-- IDN_LINK.MOD_UP, bits [7:4], RO (R25). -/
abbrev IDN_LINK_MOD_UP : Fld := ⟨0x400A0, 4, 4, 0x4⟩
/-- IDN_LINK.REPAIR2, bits [8:8], RO (R25). -/
abbrev IDN_LINK_REPAIR2 : Fld := ⟨0x400A0, 8, 1, 0x4⟩
/-- IDN_LINK.DEGRADED, bits [9:9], RO (R25). -/
abbrev IDN_LINK_DEGRADED : Fld := ⟨0x400A0, 9, 1, 0x4⟩
/-- IDN_LINK.DOWN, bits [10:10], RO (R25). -/
abbrev IDN_LINK_DOWN : Fld := ⟨0x400A0, 10, 1, 0x4⟩
/-- IDN_LINK.RETRAINED, bits [11:11], W1C (R25). -/
abbrev IDN_LINK_RETRAINED : Fld := ⟨0x400A0, 11, 1, 0x4⟩
/-- IDN_LINK.RETRAIN_COUNT, bits [19:12], RO (R25). -/
abbrev IDN_LINK_RETRAIN_COUNT : Fld := ⟨0x400A0, 12, 8, 0x4⟩

/-- PWR_STATUS, BAR0 offset 0x041000, 32 bits (R66). -/
def PWR_STATUS : RegDesc :=
  ⟨0x41000, 0x0, 1, false, 0x0, [(0, 4, .ro), (4, 1, .ro), (5, 1, .ro), (8, 1, .ro), (12, 4, .ro), (16, 4, .ro), (20, 1, .ro), (21, 1, .ro)]⟩
/-- PWR_STATUS.PLL_LOCK_CD, bits [3:0], RO (R66). -/
abbrev PWR_STATUS_PLL_LOCK_CD : Fld := ⟨0x41000, 0, 4, 0x0⟩
/-- PWR_STATUS.PLL_LOCK_IOD, bits [4:4], RO (R66). -/
abbrev PWR_STATUS_PLL_LOCK_IOD : Fld := ⟨0x41000, 4, 1, 0x0⟩
/-- PWR_STATUS.PLL_LOCK_SFD, bits [5:5], RO (R66). -/
abbrev PWR_STATUS_PLL_LOCK_SFD : Fld := ⟨0x41000, 5, 1, 0x0⟩
/-- PWR_STATUS.LOW_POWER, bits [8:8], RO (R66). -/
abbrev PWR_STATUS_LOW_POWER : Fld := ⟨0x41000, 8, 1, 0x0⟩
/-- PWR_STATUS.STANDBY, bits [15:12], RO (R66). -/
abbrev PWR_STATUS_STANDBY : Fld := ⟨0x41000, 12, 4, 0x0⟩
/-- PWR_STATUS.RAMP_ACTIVE, bits [19:16], RO (R66). -/
abbrev PWR_STATUS_RAMP_ACTIVE : Fld := ⟨0x41000, 16, 4, 0x0⟩
/-- PWR_STATUS.RAMP_ACTIVE_IOD, bits [20:20], RO (R66). -/
abbrev PWR_STATUS_RAMP_ACTIVE_IOD : Fld := ⟨0x41000, 20, 1, 0x0⟩
/-- PWR_STATUS.HB_FAULT, bits [21:21], RO (R66). -/
abbrev PWR_STATUS_HB_FAULT : Fld := ⟨0x41000, 21, 1, 0x0⟩

/-- PWR_RSTCAUSE, BAR0 offset 0x041004, 32 bits (R67). -/
def PWR_RSTCAUSE : RegDesc :=
  ⟨0x41004, 0x0, 1, false, 0x1, [(0, 1, .w1c), (1, 1, .w1c), (2, 1, .w1c), (3, 1, .w1c), (4, 1, .w1c), (5, 1, .ro)]⟩
/-- PWR_RSTCAUSE.POWER_ON, bits [0:0], W1C (R67). -/
abbrev PWR_RSTCAUSE_POWER_ON : Fld := ⟨0x41004, 0, 1, 0x0⟩
/-- PWR_RSTCAUSE.PERST, bits [1:1], W1C (R67). -/
abbrev PWR_RSTCAUSE_PERST : Fld := ⟨0x41004, 1, 1, 0x0⟩
/-- PWR_RSTCAUSE.HOT_RESET, bits [2:2], W1C (R67). -/
abbrev PWR_RSTCAUSE_HOT_RESET : Fld := ⟨0x41004, 2, 1, 0x0⟩
/-- PWR_RSTCAUSE.FLR, bits [3:3], W1C (R67). -/
abbrev PWR_RSTCAUSE_FLR : Fld := ⟨0x41004, 3, 1, 0x0⟩
/-- PWR_RSTCAUSE.PLL_LOSS, bits [4:4], W1C (R67). -/
abbrev PWR_RSTCAUSE_PLL_LOSS : Fld := ⟨0x41004, 4, 1, 0x0⟩
/-- PWR_RSTCAUSE.WARM_TRAIN, bits [5:5], RO (R67). -/
abbrev PWR_RSTCAUSE_WARM_TRAIN : Fld := ⟨0x41004, 5, 1, 0x0⟩

/-- PWR_VDD, BAR0 offset 0x041010, 32 bits, copies 0x4 apart: 4 (R68). -/
def PWR_VDD : RegDesc :=
  ⟨0x41010, 0x4, 4, false, 0xBBAEE, [(0, 10, .ro), (10, 10, .ro), (20, 1, .ro), (21, 1, .w1c)]⟩
/-- PWR_VDD.VSET, bits [9:0], RO (R68). -/
abbrev PWR_VDD_VSET : Fld := ⟨0x41010, 0, 10, 0x4⟩
/-- PWR_VDD.VMAX_SEEN, bits [19:10], RO (R68). -/
abbrev PWR_VDD_VMAX_SEEN : Fld := ⟨0x41010, 10, 10, 0x4⟩
/-- PWR_VDD.HEADROOM_LOW, bits [20:20], RO (R68). -/
abbrev PWR_VDD_HEADROOM_LOW : Fld := ⟨0x41010, 20, 1, 0x4⟩
/-- PWR_VDD.AVS_FAULT, bits [21:21], W1C (R68). -/
abbrev PWR_VDD_AVS_FAULT : Fld := ⟨0x41010, 21, 1, 0x4⟩

/-- EVT_BASE, BAR0 offset 0x042000, 64 bits (R97). -/
def EVT_BASE : RegDesc :=
  ⟨0x42000, 0x0, 1, true, 0x0, [(12, 52, .rw)]⟩
/-- EVT_BASE.ADDR, bits [63:12], RW (R97). -/
abbrev EVT_BASE_ADDR : Fld := ⟨0x42000, 12, 52, 0x0⟩

/-- EVT_SIZE, BAR0 offset 0x042008, 32 bits (R97). -/
def EVT_SIZE : RegDesc :=
  ⟨0x42008, 0x0, 1, false, 0x0, [(0, 5, .rw)]⟩
/-- EVT_SIZE.LOG2N, bits [4:0], RW (R97). -/
abbrev EVT_SIZE_LOG2N : Fld := ⟨0x42008, 0, 5, 0x0⟩

/-- EVT_CTRL, BAR0 offset 0x04200C, 32 bits (R97). -/
def EVT_CTRL : RegDesc :=
  ⟨0x4200C, 0x0, 1, false, 0x0, [(0, 1, .rw), (1, 1, .ro), (8, 8, .rw)]⟩
/-- EVT_CTRL.ENABLE, bits [0:0], RW (R97). -/
abbrev EVT_CTRL_ENABLE : Fld := ⟨0x4200C, 0, 1, 0x0⟩
/-- EVT_CTRL.CFG_ERR, bits [1:1], RO (R97). -/
abbrev EVT_CTRL_CFG_ERR : Fld := ⟨0x4200C, 1, 1, 0x0⟩
/-- EVT_CTRL.COALESCE, bits [15:8], RW (R97). -/
abbrev EVT_CTRL_COALESCE : Fld := ⟨0x4200C, 8, 8, 0x0⟩

/-- EVT_HEAD, BAR0 offset 0x042010, 32 bits (R97). -/
def EVT_HEAD : RegDesc :=
  ⟨0x42010, 0x0, 1, false, 0x10000, [(0, 16, .ro), (16, 1, .ro)]⟩
/-- EVT_HEAD.INDEX, bits [15:0], RO (R97). -/
abbrev EVT_HEAD_INDEX : Fld := ⟨0x42010, 0, 16, 0x0⟩
/-- EVT_HEAD.PHASE, bits [16:16], RO (R97). -/
abbrev EVT_HEAD_PHASE : Fld := ⟨0x42010, 16, 1, 0x0⟩

/-- EVT_TAIL, BAR0 offset 0x042014, 32 bits (R97). -/
def EVT_TAIL : RegDesc :=
  ⟨0x42014, 0x0, 1, false, 0x0, [(0, 16, .rw)]⟩
/-- EVT_TAIL.INDEX, bits [15:0], RW (R97). -/
abbrev EVT_TAIL_INDEX : Fld := ⟨0x42014, 0, 16, 0x0⟩

/-- EVT_DROPPED, BAR0 offset 0x042018, 32 bits (R97). -/
def EVT_DROPPED : RegDesc :=
  ⟨0x42018, 0x0, 1, false, 0x0, [(0, 32, .rc)]⟩
/-- EVT_DROPPED.COUNT, bits [31:0], RC (R97). -/
abbrev EVT_DROPPED_COUNT : Fld := ⟨0x42018, 0, 32, 0x0⟩

/-- TIM_NOW, BAR0 offset 0x043000, 64 bits (R353). -/
def TIM_NOW : RegDesc :=
  ⟨0x43000, 0x0, 1, true, 0x0, [(0, 64, .ro)]⟩
/-- TIM_NOW.NS, bits [63:0], RO (R353). -/
abbrev TIM_NOW_NS : Fld := ⟨0x43000, 0, 64, 0x0⟩

/-- TIM_FRAC, BAR0 offset 0x043008, 32 bits (R353). -/
def TIM_FRAC : RegDesc :=
  ⟨0x43008, 0x0, 1, false, 0x0, [(0, 32, .ro)]⟩
/-- TIM_FRAC.FRAC, bits [31:0], RO (R353). -/
abbrev TIM_FRAC_FRAC : Fld := ⟨0x43008, 0, 32, 0x0⟩

/-- TIM_STATUS, BAR0 offset 0x04300C, 32 bits (R353). -/
def TIM_STATUS : RegDesc :=
  ⟨0x4300C, 0x0, 1, false, 0x0, [(0, 3, .ro), (3, 2, .ro), (5, 4, .ro), (9, 1, .ro), (10, 1, .ro), (11, 1, .ro), (12, 1, .w1c), (13, 1, .w1c), (14, 1, .w1c)]⟩
/-- TIM_STATUS.STATE, bits [2:0], RO (R353). -/
abbrev TIM_STATUS_STATE : Fld := ⟨0x4300C, 0, 3, 0x0⟩
/-- TIM_STATUS.SOURCE, bits [4:3], RO (R353). -/
abbrev TIM_STATUS_SOURCE : Fld := ⟨0x4300C, 3, 2, 0x0⟩
/-- TIM_STATUS.PORT, bits [8:5], RO (R353). -/
abbrev TIM_STATUS_PORT : Fld := ⟨0x4300C, 5, 4, 0x0⟩
/-- TIM_STATUS.GM, bits [9:9], RO (R353). -/
abbrev TIM_STATUS_GM : Fld := ⟨0x4300C, 9, 1, 0x0⟩
/-- TIM_STATUS.STEPPED, bits [10:10], RO (R353). -/
abbrev TIM_STATUS_STEPPED : Fld := ⟨0x4300C, 10, 1, 0x0⟩
/-- TIM_STATUS.SLEW, bits [11:11], RO (R353). -/
abbrev TIM_STATUS_SLEW : Fld := ⟨0x4300C, 11, 1, 0x0⟩
/-- TIM_STATUS.LOST, bits [12:12], W1C (R353). -/
abbrev TIM_STATUS_LOST : Fld := ⟨0x4300C, 12, 1, 0x0⟩
/-- TIM_STATUS.UNSYNC_SEEN, bits [13:13], W1C (R353). -/
abbrev TIM_STATUS_UNSYNC_SEEN : Fld := ⟨0x4300C, 13, 1, 0x0⟩
/-- TIM_STATUS.PPS_MISSING, bits [14:14], W1C (R353). -/
abbrev TIM_STATUS_PPS_MISSING : Fld := ⟨0x4300C, 14, 1, 0x0⟩

/-- TIM_CFG, BAR0 offset 0x043010, 32 bits (R353). -/
def TIM_CFG : RegDesc :=
  ⟨0x43010, 0x0, 1, false, 0xF8000001, [(0, 2, .rw), (2, 1, .rw), (3, 1, .rw), (4, 7, .rw), (11, 1, .rw), (12, 12, .rw), (24, 8, .rw)]⟩
/-- TIM_CFG.SRC, bits [1:0], RW (R353). -/
abbrev TIM_CFG_SRC : Fld := ⟨0x43010, 0, 2, 0x0⟩
/-- TIM_CFG.GNSS_FALLBACK, bits [2:2], RW (R353). -/
abbrev TIM_CFG_GNSS_FALLBACK : Fld := ⟨0x43010, 2, 1, 0x0⟩
/-- TIM_CFG.GM_CAPABLE, bits [3:3], RW (R353). -/
abbrev TIM_CFG_GM_CAPABLE : Fld := ⟨0x43010, 3, 1, 0x0⟩
/-- TIM_CFG.DOMAIN, bits [10:4], RW (R353). -/
abbrev TIM_CFG_DOMAIN : Fld := ⟨0x43010, 4, 7, 0x0⟩
/-- TIM_CFG.PPS_POL, bits [11:11], RW (R353). -/
abbrev TIM_CFG_PPS_POL : Fld := ⟨0x43010, 11, 1, 0x0⟩
/-- TIM_CFG.PORTS, bits [23:12], RW (R353). -/
abbrev TIM_CFG_PORTS : Fld := ⟨0x43010, 12, 12, 0x0⟩
/-- TIM_CFG.PRIORITY1, bits [31:24], RW (R353). -/
abbrev TIM_CFG_PRIORITY1 : Fld := ⟨0x43010, 24, 8, 0x0⟩

/-- TIM_ADJ, BAR0 offset 0x043014, 32 bits (R353). -/
def TIM_ADJ : RegDesc :=
  ⟨0x43014, 0x0, 1, false, 0x0, [(0, 32, .ro)]⟩
/-- TIM_ADJ.ADJ, bits [31:0], RO (R353). -/
abbrev TIM_ADJ_ADJ : Fld := ⟨0x43014, 0, 32, 0x0⟩

/-- TIM_OFFSET, BAR0 offset 0x043018, 32 bits (R353). -/
def TIM_OFFSET : RegDesc :=
  ⟨0x43018, 0x0, 1, false, 0x0, [(0, 32, .ro)]⟩
/-- TIM_OFFSET.NS, bits [31:0], RO (R353). -/
abbrev TIM_OFFSET_NS : Fld := ⟨0x43018, 0, 32, 0x0⟩

/-- TIM_PDELAY, BAR0 offset 0x04301C, 32 bits (R353). -/
def TIM_PDELAY : RegDesc :=
  ⟨0x4301C, 0x0, 1, false, 0x0, [(0, 32, .ro)]⟩
/-- TIM_PDELAY.NS, bits [31:0], RO (R353). -/
abbrev TIM_PDELAY_NS : Fld := ⟨0x4301C, 0, 32, 0x0⟩

/-- TIM_HOLD, BAR0 offset 0x043020, 32 bits (R353). -/
def TIM_HOLD : RegDesc :=
  ⟨0x43020, 0x0, 1, false, 0x6403E8, [(0, 16, .rw), (16, 16, .rw)]⟩
/-- TIM_HOLD.LIMIT, bits [15:0], RW (R353). -/
abbrev TIM_HOLD_LIMIT : Fld := ⟨0x43020, 0, 16, 0x0⟩
/-- TIM_HOLD.DRIFT, bits [31:16], RW (R353). -/
abbrev TIM_HOLD_DRIFT : Fld := ⟨0x43020, 16, 16, 0x0⟩

/-- TIM_ESTERR, BAR0 offset 0x043024, 32 bits (R353). -/
def TIM_ESTERR : RegDesc :=
  ⟨0x43024, 0x0, 1, false, 0x0, [(0, 32, .ro)]⟩
/-- TIM_ESTERR.NS, bits [31:0], RO (R353). -/
abbrev TIM_ESTERR_NS : Fld := ⟨0x43024, 0, 32, 0x0⟩

/-- TIM_PPS, BAR0 offset 0x043028, 64 bits (R353). -/
def TIM_PPS : RegDesc :=
  ⟨0x43028, 0x0, 1, true, 0x0, [(0, 64, .ro)]⟩
/-- TIM_PPS.NS, bits [63:0], RO (R353). -/
abbrev TIM_PPS_NS : Fld := ⟨0x43028, 0, 64, 0x0⟩

/-- TIM_PHYDLY, BAR0 offset 0x043040, 32 bits, copies 0x4 apart: 12 (R353). -/
def TIM_PHYDLY : RegDesc :=
  ⟨0x43040, 0x4, 12, false, 0x0, [(0, 16, .rw), (16, 16, .rw)]⟩
/-- TIM_PHYDLY.RX, bits [15:0], RW (R353). -/
abbrev TIM_PHYDLY_RX : Fld := ⟨0x43040, 0, 16, 0x4⟩
/-- TIM_PHYDLY.TX, bits [31:16], RW (R353). -/
abbrev TIM_PHYDLY_TX : Fld := ⟨0x43040, 16, 16, 0x4⟩

/-- THM_STATUS, BAR0 offset 0x044000, 32 bits (R498). -/
def THM_STATUS : RegDesc :=
  ⟨0x44000, 0x0, 1, false, 0x2000, [(0, 6, .ro), (6, 6, .ro), (12, 1, .w1c), (13, 1, .ro), (14, 1, .ro)]⟩
/-- THM_STATUS.WARN, bits [5:0], RO (R498). -/
abbrev THM_STATUS_WARN : Fld := ⟨0x44000, 0, 6, 0x0⟩
/-- THM_STATUS.OVER, bits [11:6], RO (R498). -/
abbrev THM_STATUS_OVER : Fld := ⟨0x44000, 6, 6, 0x0⟩
/-- THM_STATUS.COOL_DEG, bits [12:12], W1C (R498). -/
abbrev THM_STATUS_COOL_DEG : Fld := ⟨0x44000, 12, 1, 0x0⟩
/-- THM_STATUS.COOLANT_STALE, bits [13:13], RO (R498). -/
abbrev THM_STATUS_COOLANT_STALE : Fld := ⟨0x44000, 13, 1, 0x0⟩
/-- THM_STATUS.BASE_LEARNT, bits [14:14], RO (R498). -/
abbrev THM_STATUS_BASE_LEARNT : Fld := ⟨0x44000, 14, 1, 0x0⟩

/-- THM_CTL, BAR0 offset 0x044004, 32 bits (R498). -/
def THM_CTL : RegDesc :=
  ⟨0x44004, 0x0, 1, false, 0x1401, [(0, 1, .rw), (8, 8, .rw)]⟩
/-- THM_CTL.SWING_EN, bits [0:0], RW (R498). -/
abbrev THM_CTL_SWING_EN : Fld := ⟨0x44004, 0, 1, 0x0⟩
/-- THM_CTL.RISE, bits [15:8], RW (R498). -/
abbrev THM_CTL_RISE : Fld := ⟨0x44004, 8, 8, 0x0⟩

/-- THM_LIMITS, BAR0 offset 0x044008, 32 bits (R498). -/
def THM_LIMITS : RegDesc :=
  ⟨0x44008, 0x0, 1, false, 0x6964, [(0, 8, .rw), (8, 8, .rw)]⟩
/-- THM_LIMITS.T_WARN, bits [7:0], RW (R498). -/
abbrev THM_LIMITS_T_WARN : Fld := ⟨0x44008, 0, 8, 0x0⟩
/-- THM_LIMITS.T_THROTTLE, bits [15:8], RW (R498). -/
abbrev THM_LIMITS_T_THROTTLE : Fld := ⟨0x44008, 8, 8, 0x0⟩

/-- THM_SEL, BAR0 offset 0x04400C, 32 bits (R498). -/
def THM_SEL : RegDesc :=
  ⟨0x4400C, 0x0, 1, false, 0x0, [(0, 9, .rw)]⟩
/-- THM_SEL.SENSOR, bits [8:0], RW (R498). -/
abbrev THM_SEL_SENSOR : Fld := ⟨0x4400C, 0, 9, 0x0⟩

/-- THM_SENSOR, BAR0 offset 0x044010, 32 bits (R498 (banked by THM_SEL.SENSOR)). -/
def THM_SENSOR : RegDesc :=
  ⟨0x44010, 0x0, 1, false, 0x0, [(0, 16, .ro), (16, 1, .ro), (17, 1, .ro)]⟩
/-- THM_SENSOR.TEMP, bits [15:0], RO (R498). -/
abbrev THM_SENSOR_TEMP : Fld := ⟨0x44010, 0, 16, 0x0⟩
/-- THM_SENSOR.VALID, bits [16:16], RO (R498). -/
abbrev THM_SENSOR_VALID : Fld := ⟨0x44010, 16, 1, 0x0⟩
/-- THM_SENSOR.FAILED, bits [17:17], RO (R498). -/
abbrev THM_SENSOR_FAILED : Fld := ⟨0x44010, 17, 1, 0x0⟩

/-- THM_COOLANT, BAR0 offset 0x044014, 32 bits (R498). -/
def THM_COOLANT : RegDesc :=
  ⟨0x44014, 0x0, 1, false, 0x190, [(0, 16, .rw)]⟩
/-- THM_COOLANT.TEMP, bits [15:0], RW (R498). -/
abbrev THM_COOLANT_TEMP : Fld := ⟨0x44014, 0, 16, 0x0⟩

/-- THM_RTH, BAR0 offset 0x044018, 32 bits (R498). -/
def THM_RTH : RegDesc :=
  ⟨0x44018, 0x0, 1, false, 0x0, [(0, 16, .ro), (16, 16, .ro)]⟩
/-- THM_RTH.RTH, bits [15:0], RO (R498). -/
abbrev THM_RTH_RTH : Fld := ⟨0x44018, 0, 16, 0x0⟩
/-- THM_RTH.WINDOWS, bits [31:16], RO (R498). -/
abbrev THM_RTH_WINDOWS : Fld := ⟨0x44018, 16, 16, 0x0⟩

/-- THM_RTH_BASE, BAR0 offset 0x04401C, 32 bits (R498). -/
def THM_RTH_BASE : RegDesc :=
  ⟨0x4401C, 0x0, 1, false, 0x0, [(0, 16, .rw)]⟩
/-- THM_RTH_BASE.BASE, bits [15:0], RW (R498). -/
abbrev THM_RTH_BASE_BASE : Fld := ⟨0x4401C, 0, 16, 0x0⟩

/-- THM_THROTTLE, BAR0 offset 0x044020, 32 bits (R498). -/
def THM_THROTTLE : RegDesc :=
  ⟨0x44020, 0x0, 1, false, 0x0, [(0, 32, .rc)]⟩
/-- THM_THROTTLE.COUNT, bits [31:0], RC (R498). -/
abbrev THM_THROTTLE_COUNT : Fld := ⟨0x44020, 0, 32, 0x0⟩

/-- THM_DIE, BAR0 offset 0x044040, 64 bits, copies 0x8 apart: 6 (R498). -/
def THM_DIE : RegDesc :=
  ⟨0x44040, 0x8, 6, true, 0x8000000000000, [(0, 16, .ro), (16, 16, .ro), (32, 16, .ro), (48, 4, .ro), (52, 1, .ro), (53, 9, .ro), (62, 1, .w1c)]⟩
/-- THM_DIE.HOT, bits [15:0], RO (R498). -/
abbrev THM_DIE_HOT : Fld := ⟨0x44040, 0, 16, 0x8⟩
/-- THM_DIE.FORECAST, bits [31:16], RO (R498). -/
abbrev THM_DIE_FORECAST : Fld := ⟨0x44040, 16, 16, 0x8⟩
/-- THM_DIE.S, bits [47:32], RO (R498). -/
abbrev THM_DIE_S : Fld := ⟨0x44040, 32, 16, 0x8⟩
/-- THM_DIE.DUTY, bits [51:48], RO (R498). -/
abbrev THM_DIE_DUTY : Fld := ⟨0x44040, 48, 4, 0x8⟩
/-- THM_DIE.SCHED, bits [52:52], RO (R498). -/
abbrev THM_DIE_SCHED : Fld := ⟨0x44040, 52, 1, 0x8⟩
/-- THM_DIE.HOT_IDX, bits [61:53], RO (R498). -/
abbrev THM_DIE_HOT_IDX : Fld := ⟨0x44040, 53, 9, 0x8⟩
/-- THM_DIE.SWING, bits [62:62], W1C (R498). -/
abbrev THM_DIE_SWING : Fld := ⟨0x44040, 62, 1, 0x8⟩

/-- SAF_ISL_STATUS, BAR0 offset 0x045000, 32 bits (R455). -/
def SAF_ISL_STATUS : RegDesc :=
  ⟨0x45000, 0x0, 1, false, 0x0, [(0, 1, .ro), (1, 1, .ro), (2, 1, .ro), (3, 1, .ro), (4, 1, .ro), (5, 1, .ro), (6, 1, .ro), (7, 1, .ro), (8, 1, .ro), (9, 1, .ro), (10, 1, .ro), (12, 4, .ro)]⟩
/-- SAF_ISL_STATUS.A_RUN, bits [0:0], RO (R455). -/
abbrev SAF_ISL_STATUS_A_RUN : Fld := ⟨0x45000, 0, 1, 0x0⟩
/-- SAF_ISL_STATUS.A_HALTED, bits [1:1], RO (R455). -/
abbrev SAF_ISL_STATUS_A_HALTED : Fld := ⟨0x45000, 1, 1, 0x0⟩
/-- SAF_ISL_STATUS.B_JOINED, bits [2:2], RO (R455). -/
abbrev SAF_ISL_STATUS_B_JOINED : Fld := ⟨0x45000, 2, 1, 0x0⟩
/-- SAF_ISL_STATUS.B_HALTED, bits [3:3], RO (R455). -/
abbrev SAF_ISL_STATUS_B_HALTED : Fld := ⟨0x45000, 3, 1, 0x0⟩
/-- SAF_ISL_STATUS.STOP_A, bits [4:4], RO (R455). -/
abbrev SAF_ISL_STATUS_STOP_A : Fld := ⟨0x45000, 4, 1, 0x0⟩
/-- SAF_ISL_STATUS.STOP_B, bits [5:5], RO (R455). -/
abbrev SAF_ISL_STATUS_STOP_B : Fld := ⟨0x45000, 5, 1, 0x0⟩
/-- SAF_ISL_STATUS.DBG_A, bits [6:6], RO (R455). -/
abbrev SAF_ISL_STATUS_DBG_A : Fld := ⟨0x45000, 6, 1, 0x0⟩
/-- SAF_ISL_STATUS.DBG_B, bits [7:7], RO (R455). -/
abbrev SAF_ISL_STATUS_DBG_B : Fld := ⟨0x45000, 7, 1, 0x0⟩
/-- SAF_ISL_STATUS.OVERDUE_A, bits [8:8], RO (R455). -/
abbrev SAF_ISL_STATUS_OVERDUE_A : Fld := ⟨0x45000, 8, 1, 0x0⟩
/-- SAF_ISL_STATUS.OVERDUE_B, bits [9:9], RO (R455). -/
abbrev SAF_ISL_STATUS_OVERDUE_B : Fld := ⟨0x45000, 9, 1, 0x0⟩
/-- SAF_ISL_STATUS.TEST_BUSY, bits [10:10], RO (R455). -/
abbrev SAF_ISL_STATUS_TEST_BUSY : Fld := ⟨0x45000, 10, 1, 0x0⟩
/-- SAF_ISL_STATUS.JOIN_ERR, bits [15:12], RO (R455). -/
abbrev SAF_ISL_STATUS_JOIN_ERR : Fld := ⟨0x45000, 12, 4, 0x0⟩

/-- SAF_FAULT, BAR0 offset 0x045004, 32 bits (R455). -/
def SAF_FAULT : RegDesc :=
  ⟨0x45004, 0x0, 1, false, 0x0, [(0, 6, .ro), (6, 1, .ro), (7, 2, .ro), (9, 1, .ro)]⟩
/-- SAF_FAULT.GROUP, bits [5:0], RO (R455). -/
abbrev SAF_FAULT_GROUP : Fld := ⟨0x45004, 0, 6, 0x0⟩
/-- SAF_FAULT.ISLAND, bits [6:6], RO (R455). -/
abbrev SAF_FAULT_ISLAND : Fld := ⟨0x45004, 6, 1, 0x0⟩
/-- SAF_FAULT.CAUSE, bits [8:7], RO (R455). -/
abbrev SAF_FAULT_CAUSE : Fld := ⟨0x45004, 7, 2, 0x0⟩
/-- SAF_FAULT.VALID, bits [9:9], RO (R455). -/
abbrev SAF_FAULT_VALID : Fld := ⟨0x45004, 9, 1, 0x0⟩

/-- SAF_CMP_AGE, BAR0 offset 0x045008, 32 bits, copies 0x4 apart: 2 (R455 (A, then B)). -/
def SAF_CMP_AGE : RegDesc :=
  ⟨0x45008, 0x4, 2, false, 0x0, [(0, 32, .ro)]⟩
/-- SAF_CMP_AGE.SECONDS, bits [31:0], RO (R455). -/
abbrev SAF_CMP_AGE_SECONDS : Fld := ⟨0x45008, 0, 32, 0x4⟩

/-- SAF_CMP_FAIL, BAR0 offset 0x045010, 64 bits, copies 0x8 apart: 2 (R455 (A, then B)). -/
def SAF_CMP_FAIL : RegDesc :=
  ⟨0x45010, 0x8, 2, true, 0x0, [(0, 64, .ro)]⟩
/-- SAF_CMP_FAIL.GROUPS, bits [63:0], RO (R455). -/
abbrev SAF_CMP_FAIL_GROUPS : Fld := ⟨0x45010, 0, 64, 0x8⟩

/-- SAF_CMP_TIME, BAR0 offset 0x045020, 64 bits, copies 0x8 apart: 2 (R455 (A, then B)). -/
def SAF_CMP_TIME : RegDesc :=
  ⟨0x45020, 0x8, 2, true, 0x0, [(0, 64, .ro)]⟩
/-- SAF_CMP_TIME.NS, bits [63:0], RO (R455). -/
abbrev SAF_CMP_TIME_NS : Fld := ⟨0x45020, 0, 64, 0x8⟩

/-- SAF_MEM, BAR0 offset 0x045030, 32 bits (R455). -/
def SAF_MEM : RegDesc :=
  ⟨0x45030, 0x0, 1, false, 0x0, [(0, 16, .ro), (16, 16, .ro)]⟩
/-- SAF_MEM.CE_A, bits [15:0], RO (R455). -/
abbrev SAF_MEM_CE_A : Fld := ⟨0x45030, 0, 16, 0x0⟩
/-- SAF_MEM.CE_B, bits [31:16], RO (R455). -/
abbrev SAF_MEM_CE_B : Fld := ⟨0x45030, 16, 16, 0x0⟩

/-- SAF_CFG, BAR0 offset 0x045034, 32 bits (R455). -/
def SAF_CFG : RegDesc :=
  ⟨0x45034, 0x0, 1, false, 0x0, [(0, 16, .rc), (16, 16, .rc)]⟩
/-- SAF_CFG.MAJORITY, bits [15:0], RC (R455). -/
abbrev SAF_CFG_MAJORITY : Fld := ⟨0x45034, 0, 16, 0x0⟩
/-- SAF_CFG.FAIL, bits [31:16], RC (R455). -/
abbrev SAF_CFG_FAIL : Fld := ⟨0x45034, 16, 16, 0x0⟩

/-- SAF_FAULT_SYN, BAR0 offset 0x045038, 32 bits (R455). -/
def SAF_FAULT_SYN : RegDesc :=
  ⟨0x45038, 0x0, 1, false, 0x0, [(0, 32, .ro)]⟩
/-- SAF_FAULT_SYN.SYNDROME, bits [31:0], RO (R455). -/
abbrev SAF_FAULT_SYN_SYNDROME : Fld := ⟨0x45038, 0, 32, 0x0⟩

/-- GRD_STATUS, BAR0 offset 0x046000, 32 bits (R483). -/
def GRD_STATUS : RegDesc :=
  ⟨0x46000, 0x0, 1, false, 0x0, [(0, 6, .ro), (8, 6, .ro), (14, 1, .ro), (15, 1, .ro)]⟩
/-- GRD_STATUS.DEGRADED, bits [5:0], RO (R483). -/
abbrev GRD_STATUS_DEGRADED : Fld := ⟨0x46000, 0, 6, 0x0⟩
/-- GRD_STATUS.REFUSED, bits [13:8], RO (R483). -/
abbrev GRD_STATUS_REFUSED : Fld := ⟨0x46000, 8, 6, 0x0⟩
/-- GRD_STATUS.LAPSE, bits [14:14], RO (R483). -/
abbrev GRD_STATUS_LAPSE : Fld := ⟨0x46000, 14, 1, 0x0⟩
/-- GRD_STATUS.RESTARTING, bits [15:15], RO (R483). -/
abbrev GRD_STATUS_RESTARTING : Fld := ⟨0x46000, 15, 1, 0x0⟩

/-- GRD_CFG_SEL, BAR0 offset 0x046004, 32 bits (R483). -/
def GRD_CFG_SEL : RegDesc :=
  ⟨0x46004, 0x0, 1, false, 0x0, [(0, 7, .rw), (7, 1, .rw)]⟩
/-- GRD_CFG_SEL.INDEX, bits [6:0], RW (R483). -/
abbrev GRD_CFG_SEL_INDEX : Fld := ⟨0x46004, 0, 7, 0x0⟩
/-- GRD_CFG_SEL.ISLAND, bits [7:7], RW (R483). -/
abbrev GRD_CFG_SEL_ISLAND : Fld := ⟨0x46004, 7, 1, 0x0⟩

/-- GRD_CFG_CTL, BAR0 offset 0x046008, 32 bits (R483). -/
def GRD_CFG_CTL : RegDesc :=
  ⟨0x46008, 0x0, 1, false, 0x0, [(0, 1, .wo), (1, 1, .wo), (2, 1, .ro), (3, 2, .ro), (5, 3, .ro)]⟩
/-- GRD_CFG_CTL.WRITE, bits [0:0], WO (R483). -/
abbrev GRD_CFG_CTL_WRITE : Fld := ⟨0x46008, 0, 1, 0x0⟩
/-- GRD_CFG_CTL.READ, bits [1:1], WO (R483). -/
abbrev GRD_CFG_CTL_READ : Fld := ⟨0x46008, 1, 1, 0x0⟩
/-- GRD_CFG_CTL.BUSY, bits [2:2], RO (R483). -/
abbrev GRD_CFG_CTL_BUSY : Fld := ⟨0x46008, 2, 1, 0x0⟩
/-- GRD_CFG_CTL.RESULT, bits [4:3], RO (R483). -/
abbrev GRD_CFG_CTL_RESULT : Fld := ⟨0x46008, 3, 2, 0x0⟩
/-- GRD_CFG_CTL.INTACT, bits [7:5], RO (R483). -/
abbrev GRD_CFG_CTL_INTACT : Fld := ⟨0x46008, 5, 3, 0x0⟩

/-- GRD_SEL, BAR0 offset 0x04600C, 32 bits (R483). -/
def GRD_SEL : RegDesc :=
  ⟨0x4600C, 0x0, 1, false, 0x0, [(0, 6, .rw)]⟩
/-- GRD_SEL.INDEX, bits [5:0], RW (R483). -/
abbrev GRD_SEL_INDEX : Fld := ⟨0x4600C, 0, 6, 0x0⟩

/-- GRD_EXPIRED, BAR0 offset 0x046010, 64 bits (R483). -/
def GRD_EXPIRED : RegDesc :=
  ⟨0x46010, 0x0, 1, true, 0x0, [(0, 64, .w1c)]⟩
/-- GRD_EXPIRED.GUARDS, bits [63:0], W1C (R483). -/
abbrev GRD_EXPIRED_GUARDS : Fld := ⟨0x46010, 0, 64, 0x0⟩

/-- GRD_LAST, BAR0 offset 0x046018, 64 bits (R483 (banked by GRD_SEL.INDEX)). -/
def GRD_LAST : RegDesc :=
  ⟨0x46018, 0x0, 1, true, 0x0, [(0, 64, .ro)]⟩
/-- GRD_LAST.NS, bits [63:0], RO (R483). -/
abbrev GRD_LAST_NS : Fld := ⟨0x46018, 0, 64, 0x0⟩

/-- GRD_DLMISS, BAR0 offset 0x046020, 32 bits (R483). -/
def GRD_DLMISS : RegDesc :=
  ⟨0x46020, 0x0, 1, false, 0x0, [(0, 16, .w1c), (16, 16, .rc)]⟩
/-- GRD_DLMISS.MISSED, bits [15:0], W1C (R483). -/
abbrev GRD_DLMISS_MISSED : Fld := ⟨0x46020, 0, 16, 0x0⟩
/-- GRD_DLMISS.ORPHAN, bits [31:16], RC (R483). -/
abbrev GRD_DLMISS_ORPHAN : Fld := ⟨0x46020, 16, 16, 0x0⟩

/-- GRD_CHK, BAR0 offset 0x046024, 32 bits (R483 (banked by GRD_SEL.INDEX[2:0])). -/
def GRD_CHK : RegDesc :=
  ⟨0x46024, 0x0, 1, false, 0x0, [(0, 16, .ro), (16, 5, .ro)]⟩
/-- GRD_CHK.HIST, bits [15:0], RO (R483). -/
abbrev GRD_CHK_HIST : Fld := ⟨0x46024, 0, 16, 0x0⟩
/-- GRD_CHK.COUNT, bits [20:16], RO (R483). -/
abbrev GRD_CHK_COUNT : Fld := ⟨0x46024, 16, 5, 0x0⟩

/-- GRD_LAPSE, BAR0 offset 0x046028, 32 bits (R483). -/
def GRD_LAPSE : RegDesc :=
  ⟨0x46028, 0x0, 1, false, 0x0, [(0, 8, .ro)]⟩
/-- GRD_LAPSE.RECORDS, bits [7:0], RO (R483). -/
abbrev GRD_LAPSE_RECORDS : Fld := ⟨0x46028, 0, 8, 0x0⟩

/-- GRD_RESTARTS, BAR0 offset 0x04602C, 32 bits (R483). -/
def GRD_RESTARTS : RegDesc :=
  ⟨0x4602C, 0x0, 1, false, 0x0, [(0, 32, .rc)]⟩
/-- GRD_RESTARTS.COUNT, bits [31:0], RC (R483). -/
abbrev GRD_RESTARTS_COUNT : Fld := ⟨0x4602C, 0, 32, 0x0⟩

/-- GRD_CFG_DATA, BAR0 offset 0x046040, 32 bits, copies 0x4 apart: 16 (R483). -/
def GRD_CFG_DATA : RegDesc :=
  ⟨0x46040, 0x4, 16, false, 0x0, [(0, 32, .rw)]⟩
/-- GRD_CFG_DATA.DATA, bits [31:0], RW (R483). -/
abbrev GRD_CFG_DATA_DATA : Fld := ⟨0x46040, 0, 32, 0x4⟩

/-- CRC_ARMED, BAR0 offset 0x047000, 32 bits (R432). -/
def CRC_ARMED : RegDesc :=
  ⟨0x47000, 0x0, 1, false, 0x0, [(0, 16, .ro)]⟩
/-- CRC_ARMED.CHANNELS, bits [15:0], RO (R432). -/
abbrev CRC_ARMED_CHANNELS : Fld := ⟨0x47000, 0, 16, 0x0⟩

/-- CRC_LOST, BAR0 offset 0x047004, 32 bits (R432). -/
def CRC_LOST : RegDesc :=
  ⟨0x47004, 0x0, 1, false, 0x0, [(0, 16, .w1c)]⟩
/-- CRC_LOST.CHANNELS, bits [15:0], W1C (R432). -/
abbrev CRC_LOST_CHANNELS : Fld := ⟨0x47004, 0, 16, 0x0⟩

/-- CRC_CH_SEL, BAR0 offset 0x047008, 32 bits (R432). -/
def CRC_CH_SEL : RegDesc :=
  ⟨0x47008, 0x0, 1, false, 0x0, [(0, 4, .rw)]⟩
/-- CRC_CH_SEL.CHAN, bits [3:0], RW (R432). -/
abbrev CRC_CH_SEL_CHAN : Fld := ⟨0x47008, 0, 4, 0x0⟩

/-- CRC_CH_CFG, BAR0 offset 0x04700C, 32 bits (R432 (banked by CRC_CH_SEL.CHAN)). -/
def CRC_CH_CFG : RegDesc :=
  ⟨0x4700C, 0x0, 1, false, 0x0, [(0, 6, .ro), (6, 1, .ro), (8, 7, .ro)]⟩
/-- CRC_CH_CFG.INDEX, bits [5:0], RO (R432). -/
abbrev CRC_CH_CFG_INDEX : Fld := ⟨0x4700C, 0, 6, 0x0⟩
/-- CRC_CH_CFG.ARMED, bits [6:6], RO (R432). -/
abbrev CRC_CH_CFG_ARMED : Fld := ⟨0x4700C, 6, 1, 0x0⟩
/-- CRC_CH_CFG.WIDTH, bits [14:8], RO (R432). -/
abbrev CRC_CH_CFG_WIDTH : Fld := ⟨0x4700C, 8, 7, 0x0⟩

/-- CRC_CH_PASS, BAR0 offset 0x047010, 32 bits (R432 (banked by CRC_CH_SEL.CHAN)). -/
def CRC_CH_PASS : RegDesc :=
  ⟨0x47010, 0x0, 1, false, 0x0, [(0, 32, .rc)]⟩
/-- CRC_CH_PASS.COUNT, bits [31:0], RC (R432). -/
abbrev CRC_CH_PASS_COUNT : Fld := ⟨0x47010, 0, 32, 0x0⟩

/-- CRC_CH_FAIL, BAR0 offset 0x047014, 32 bits (R432 (banked by CRC_CH_SEL.CHAN)). -/
def CRC_CH_FAIL : RegDesc :=
  ⟨0x47014, 0x0, 1, false, 0x0, [(0, 32, .rc)]⟩
/-- CRC_CH_FAIL.COUNT, bits [31:0], RC (R432). -/
abbrev CRC_CH_FAIL_COUNT : Fld := ⟨0x47014, 0, 32, 0x0⟩

/-- CRC_UNIT_VAL, BAR0 offset 0x047020, 64 bits, copies 0x8 apart: 4 (R432). -/
def CRC_UNIT_VAL : RegDesc :=
  ⟨0x47020, 0x8, 4, true, 0x0, [(0, 64, .ro)]⟩
/-- CRC_UNIT_VAL.CRC, bits [63:0], RO (R432). -/
abbrev CRC_UNIT_VAL_CRC : Fld := ⟨0x47020, 0, 64, 0x8⟩

/-- CRC_UNIT_VALID, BAR0 offset 0x047040, 32 bits (R432). -/
def CRC_UNIT_VALID : RegDesc :=
  ⟨0x47040, 0x0, 1, false, 0x0, [(0, 4, .ro)]⟩
/-- CRC_UNIT_VALID.UNITS, bits [3:0], RO (R432). -/
abbrev CRC_UNIT_VALID_UNITS : Fld := ⟨0x47040, 0, 4, 0x0⟩

/-- CTL_ENABLED, BAR0 offset 0x048000, 32 bits (R420). -/
def CTL_ENABLED : RegDesc :=
  ⟨0x48000, 0x0, 1, false, 0x0, [(0, 32, .ro)]⟩
/-- CTL_ENABLED.LOOPS, bits [31:0], RO (R420). -/
abbrev CTL_ENABLED_LOOPS : Fld := ⟨0x48000, 0, 32, 0x0⟩

/-- CTL_SAFE, BAR0 offset 0x048004, 32 bits (R420). -/
def CTL_SAFE : RegDesc :=
  ⟨0x48004, 0x0, 1, false, 0x0, [(0, 32, .w1c)]⟩
/-- CTL_SAFE.LOOPS, bits [31:0], W1C (R420). -/
abbrev CTL_SAFE_LOOPS : Fld := ⟨0x48004, 0, 32, 0x0⟩

/-- CTL_SEL, BAR0 offset 0x048008, 32 bits (R420). -/
def CTL_SEL : RegDesc :=
  ⟨0x48008, 0x0, 1, false, 0x0, [(0, 5, .rw)]⟩
/-- CTL_SEL.LOOP, bits [4:0], RW (R420). -/
abbrev CTL_SEL_LOOP : Fld := ⟨0x48008, 0, 5, 0x0⟩

/-- CTL_LOOP, BAR0 offset 0x04800C, 32 bits (R420 (banked by CTL_SEL.LOOP)). -/
def CTL_LOOP : RegDesc :=
  ⟨0x4800C, 0x0, 1, false, 0x0, [(0, 2, .ro), (2, 1, .ro)]⟩
/-- CTL_LOOP.STATE, bits [1:0], RO (R420). -/
abbrev CTL_LOOP_STATE : Fld := ⟨0x4800C, 0, 2, 0x0⟩
/-- CTL_LOOP.SAT, bits [2:2], RO (R420). -/
abbrev CTL_LOOP_SAT : Fld := ⟨0x4800C, 2, 1, 0x0⟩

/-- CTL_OUT, BAR0 offset 0x048010, 32 bits (R420 (banked by CTL_SEL.LOOP)). -/
def CTL_OUT : RegDesc :=
  ⟨0x48010, 0x0, 1, false, 0x0, [(0, 32, .ro)]⟩
/-- CTL_OUT.U, bits [31:0], RO (R420). -/
abbrev CTL_OUT_U : Fld := ⟨0x48010, 0, 32, 0x0⟩

/-- CTL_INTEG, BAR0 offset 0x048014, 32 bits (R420 (banked by CTL_SEL.LOOP)). -/
def CTL_INTEG : RegDesc :=
  ⟨0x48014, 0x0, 1, false, 0x0, [(0, 32, .ro)]⟩
/-- CTL_INTEG.I, bits [31:0], RO (R420). -/
abbrev CTL_INTEG_I : Fld := ⟨0x48014, 0, 32, 0x0⟩

/-- CTL_MAXLAT, BAR0 offset 0x048018, 32 bits (R420 (banked by CTL_SEL.LOOP)). -/
def CTL_MAXLAT : RegDesc :=
  ⟨0x48018, 0x0, 1, false, 0x0, [(0, 32, .rc)]⟩
/-- CTL_MAXLAT.NS, bits [31:0], RC (R420). -/
abbrev CTL_MAXLAT_NS : Fld := ⟨0x48018, 0, 32, 0x0⟩

/-- CTL_EVALS, BAR0 offset 0x04801C, 32 bits (R420 (banked by CTL_SEL.LOOP)). -/
def CTL_EVALS : RegDesc :=
  ⟨0x4801C, 0x0, 1, false, 0x0, [(0, 32, .rc)]⟩
/-- CTL_EVALS.COUNT, bits [31:0], RC (R420). -/
abbrev CTL_EVALS_COUNT : Fld := ⟨0x4801C, 0, 32, 0x0⟩

/-- CTL_OVERRUN, BAR0 offset 0x048020, 32 bits (R420 (banked by CTL_SEL.LOOP)). -/
def CTL_OVERRUN : RegDesc :=
  ⟨0x48020, 0x0, 1, false, 0x0, [(0, 32, .rc)]⟩
/-- CTL_OVERRUN.COUNT, bits [31:0], RC (R420). -/
abbrev CTL_OVERRUN_COUNT : Fld := ⟨0x48020, 0, 32, 0x0⟩

/-- CTL_SATCNT, BAR0 offset 0x048024, 32 bits (R420 (banked by CTL_SEL.LOOP)). -/
def CTL_SATCNT : RegDesc :=
  ⟨0x48024, 0x0, 1, false, 0x0, [(0, 32, .rc)]⟩
/-- CTL_SATCNT.COUNT, bits [31:0], RC (R420). -/
abbrev CTL_SATCNT_COUNT : Fld := ⟨0x48024, 0, 32, 0x0⟩

/-- CTL_TXREPL, BAR0 offset 0x048028, 32 bits (R420 (banked by CTL_SEL.LOOP)). -/
def CTL_TXREPL : RegDesc :=
  ⟨0x48028, 0x0, 1, false, 0x0, [(0, 32, .rc)]⟩
/-- CTL_TXREPL.COUNT, bits [31:0], RC (R420). -/
abbrev CTL_TXREPL_COUNT : Fld := ⟨0x48028, 0, 32, 0x0⟩

/-- FUS_STATUS, BAR0 offset 0x049000, 32 bits (R380). -/
def FUS_STATUS : RegDesc :=
  ⟨0x49000, 0x0, 1, false, 0x190, [(0, 1, .ro), (1, 1, .ro), (2, 1, .w1c), (3, 7, .ro)]⟩
/-- FUS_STATUS.EGO_DEGRADED, bits [0:0], RO (R380). -/
abbrev FUS_STATUS_EGO_DEGRADED : Fld := ⟨0x49000, 0, 1, 0x0⟩
/-- FUS_STATUS.OVERFLOW, bits [1:1], RO (R380). -/
abbrev FUS_STATUS_OVERFLOW : Fld := ⟨0x49000, 1, 1, 0x0⟩
/-- FUS_STATUS.STEP_SEEN, bits [2:2], W1C (R380). -/
abbrev FUS_STATUS_STEP_SEEN : Fld := ⟨0x49000, 2, 1, 0x0⟩
/-- FUS_STATUS.PERIOD, bits [9:3], RO (R380). -/
abbrev FUS_STATUS_PERIOD : Fld := ⟨0x49000, 3, 7, 0x0⟩

/-- FUS_INSTANT, BAR0 offset 0x049008, 64 bits (R380). -/
def FUS_INSTANT : RegDesc :=
  ⟨0x49008, 0x0, 1, true, 0x0, [(0, 64, .ro)]⟩
/-- FUS_INSTANT.K, bits [63:0], RO (R380). -/
abbrev FUS_INSTANT_K : Fld := ⟨0x49008, 0, 64, 0x0⟩

/-- FUS_NPTS, BAR0 offset 0x049010, 32 bits (R380). -/
def FUS_NPTS : RegDesc :=
  ⟨0x49010, 0x0, 1, false, 0x0, [(0, 32, .ro)]⟩
/-- FUS_NPTS.COUNT, bits [31:0], RO (R380). -/
abbrev FUS_NPTS_COUNT : Fld := ⟨0x49010, 0, 32, 0x0⟩

/-- FUS_UNCOLLECTED, BAR0 offset 0x049014, 32 bits (R380). -/
def FUS_UNCOLLECTED : RegDesc :=
  ⟨0x49014, 0x0, 1, false, 0x0, [(0, 32, .rc)]⟩
/-- FUS_UNCOLLECTED.COUNT, bits [31:0], RC (R380). -/
abbrev FUS_UNCOLLECTED_COUNT : Fld := ⟨0x49014, 0, 32, 0x0⟩

/-- FUS_CONTRA, BAR0 offset 0x049018, 32 bits (R380). -/
def FUS_CONTRA : RegDesc :=
  ⟨0x49018, 0x0, 1, false, 0x0, [(0, 32, .ro)]⟩
/-- FUS_CONTRA.COUNT, bits [31:0], RO (R380). -/
abbrev FUS_CONTRA_COUNT : Fld := ⟨0x49018, 0, 32, 0x0⟩

/-- FUS_SEL, BAR0 offset 0x04901C, 32 bits (R380 (SENSOR_ID computed)). -/
def FUS_SEL : RegDesc :=
  ⟨0x4901C, 0x0, 1, false, 0x0, [(0, 5, .rw), (16, 16, .ro)]⟩
/-- FUS_SEL.SLOT, bits [4:0], RW (R380). -/
abbrev FUS_SEL_SLOT : Fld := ⟨0x4901C, 0, 5, 0x0⟩
/-- FUS_SEL.SENSOR_ID, bits [31:16], RO (R380). -/
abbrev FUS_SEL_SENSOR_ID : Fld := ⟨0x4901C, 16, 16, 0x0⟩

/-- FUS_SENS_LATE, BAR0 offset 0x049020, 32 bits (R380 (banked by FUS_SEL.SLOT)). -/
def FUS_SENS_LATE : RegDesc :=
  ⟨0x49020, 0x0, 1, false, 0x0, [(0, 32, .rc)]⟩
/-- FUS_SENS_LATE.COUNT, bits [31:0], RC (R380). -/
abbrev FUS_SENS_LATE_COUNT : Fld := ⟨0x49020, 0, 32, 0x0⟩

/-- FUS_SENS_EARLY, BAR0 offset 0x049024, 32 bits (R380 (banked by FUS_SEL.SLOT)). -/
def FUS_SENS_EARLY : RegDesc :=
  ⟨0x49024, 0x0, 1, false, 0x0, [(0, 32, .rc)]⟩
/-- FUS_SENS_EARLY.COUNT, bits [31:0], RC (R380). -/
abbrev FUS_SENS_EARLY_COUNT : Fld := ⟨0x49024, 0, 32, 0x0⟩

/-- FUS_SENS_DROP, BAR0 offset 0x049028, 32 bits (R380 (banked by FUS_SEL.SLOT)). -/
def FUS_SENS_DROP : RegDesc :=
  ⟨0x49028, 0x0, 1, false, 0x0, [(0, 32, .rc)]⟩
/-- FUS_SENS_DROP.COUNT, bits [31:0], RC (R380). -/
abbrev FUS_SENS_DROP_COUNT : Fld := ⟨0x49028, 0, 32, 0x0⟩

/-- FUS_SENS_BAD, BAR0 offset 0x04902C, 32 bits (R380 (banked by FUS_SEL.SLOT)). -/
def FUS_SENS_BAD : RegDesc :=
  ⟨0x4902C, 0x0, 1, false, 0x0, [(0, 32, .rc)]⟩
/-- FUS_SENS_BAD.COUNT, bits [31:0], RC (R380). -/
abbrev FUS_SENS_BAD_COUNT : Fld := ⟨0x4902C, 0, 32, 0x0⟩

/-- PLN_STATUS, BAR0 offset 0x04A000, 32 bits (R405). -/
def PLN_STATUS : RegDesc :=
  ⟨0x4A000, 0x0, 1, false, 0x3, [(0, 2, .ro), (2, 2, .ro), (4, 1, .ro), (5, 1, .ro), (6, 1, .ro)]⟩
/-- PLN_STATUS.CUR, bits [1:0], RO (R405). -/
abbrev PLN_STATUS_CUR : Fld := ⟨0x4A000, 0, 2, 0x0⟩
/-- PLN_STATUS.PINNED, bits [3:2], RO (R405). -/
abbrev PLN_STATUS_PINNED : Fld := ⟨0x4A000, 2, 2, 0x0⟩
/-- PLN_STATUS.SEARCH, bits [4:4], RO (R405). -/
abbrev PLN_STATUS_SEARCH : Fld := ⟨0x4A000, 4, 1, 0x0⟩
/-- PLN_STATUS.LOADING, bits [5:5], RO (R405). -/
abbrev PLN_STATUS_LOADING : Fld := ⟨0x4A000, 5, 1, 0x0⟩
/-- PLN_STATUS.LIB_VALID, bits [6:6], RO (R405). -/
abbrev PLN_STATUS_LIB_VALID : Fld := ⟨0x4A000, 6, 1, 0x0⟩

/-- PLN_LIB, BAR0 offset 0x04A004, 32 bits (R405). -/
def PLN_LIB : RegDesc :=
  ⟨0x4A004, 0x0, 1, false, 0x0, [(0, 32, .ro)]⟩
/-- PLN_LIB.LIB_ID, bits [31:0], RO (R405). -/
abbrev PLN_LIB_LIB_ID : Fld := ⟨0x4A004, 0, 32, 0x0⟩

/-- PLN_T0, BAR0 offset 0x04A008, 64 bits, copies 0x8 apart: 2 (R405). -/
def PLN_T0 : RegDesc :=
  ⟨0x4A008, 0x8, 2, true, 0x0, [(0, 64, .ro)]⟩
/-- PLN_T0.T0, bits [63:0], RO (R405). -/
abbrev PLN_T0_T0 : Fld := ⟨0x4A008, 0, 64, 0x8⟩

/-- PLN_LAST, BAR0 offset 0x04A018, 32 bits (R405). -/
def PLN_LAST : RegDesc :=
  ⟨0x4A018, 0x0, 1, false, 0x0, [(0, 32, .ro)]⟩
/-- PLN_LAST.DETAIL, bits [31:0], RO (R405). -/
abbrev PLN_LAST_DETAIL : Fld := ⟨0x4A018, 0, 32, 0x0⟩

/-- PLN_PLANS, BAR0 offset 0x04A01C, 32 bits (R405). -/
def PLN_PLANS : RegDesc :=
  ⟨0x4A01C, 0x0, 1, false, 0x0, [(0, 32, .rc)]⟩
/-- PLN_PLANS.COUNT, bits [31:0], RC (R405). -/
abbrev PLN_PLANS_COUNT : Fld := ⟨0x4A01C, 0, 32, 0x0⟩

/-- PLN_STOPS, BAR0 offset 0x04A020, 32 bits (R405). -/
def PLN_STOPS : RegDesc :=
  ⟨0x4A020, 0x0, 1, false, 0x0, [(0, 32, .rc)]⟩
/-- PLN_STOPS.COUNT, bits [31:0], RC (R405). -/
abbrev PLN_STOPS_COUNT : Fld := ⟨0x4A020, 0, 32, 0x0⟩

/-- PLN_REJECT, BAR0 offset 0x04A024, 32 bits (R405). -/
def PLN_REJECT : RegDesc :=
  ⟨0x4A024, 0x0, 1, false, 0x0, [(0, 32, .rc)]⟩
/-- PLN_REJECT.COUNT, bits [31:0], RC (R405). -/
abbrev PLN_REJECT_COUNT : Fld := ⟨0x4A024, 0, 32, 0x0⟩

/-- PLN_MAXT, BAR0 offset 0x04A028, 32 bits (R405). -/
def PLN_MAXT : RegDesc :=
  ⟨0x4A028, 0x0, 1, false, 0x0, [(0, 32, .rc)]⟩
/-- PLN_MAXT.TICKS, bits [31:0], RC (R405). -/
abbrev PLN_MAXT_TICKS : Fld := ⟨0x4A028, 0, 32, 0x0⟩

/-- BWR_SEL, BAR0 offset 0x04B000, 32 bits (R331). -/
def BWR_SEL : RegDesc :=
  ⟨0x4B000, 0x0, 1, false, 0x0, [(0, 5, .rw), (8, 4, .rw), (12, 1, .rw), (16, 5, .rw)]⟩
/-- BWR_SEL.POINT, bits [4:0], RW (R331). -/
abbrev BWR_SEL_POINT : Fld := ⟨0x4B000, 0, 5, 0x0⟩
/-- BWR_SEL.COLONY, bits [11:8], RW (R331). -/
abbrev BWR_SEL_COLONY : Fld := ⟨0x4B000, 8, 4, 0x0⟩
/-- BWR_SEL.SYS, bits [12:12], RW (R331). -/
abbrev BWR_SEL_SYS : Fld := ⟨0x4B000, 12, 1, 0x0⟩
/-- BWR_SEL.CHANNEL, bits [20:16], RW (R331). -/
abbrev BWR_SEL_CHANNEL : Fld := ⟨0x4B000, 16, 5, 0x0⟩

/-- BWR_CTL, BAR0 offset 0x04B004, 32 bits (R331). -/
def BWR_CTL : RegDesc :=
  ⟨0x4B004, 0x0, 1, false, 0x0, [(0, 1, .wo)]⟩
/-- BWR_CTL.CLR, bits [0:0], WO (R331). -/
abbrev BWR_CTL_CLR : Fld := ⟨0x4B004, 0, 1, 0x0⟩

/-- BWR_SHARE, BAR0 offset 0x04B008, 32 bits (R331 (computed)). -/
def BWR_SHARE : RegDesc :=
  ⟨0x4B008, 0x0, 1, false, 0x0, [(0, 10, .ro)]⟩
/-- BWR_SHARE.SHARE, bits [9:0], RO (R331). -/
abbrev BWR_SHARE_SHARE : Fld := ⟨0x4B008, 0, 10, 0x0⟩

/-- BWR_CLASS, BAR0 offset 0x04B010, 64 bits, copies 0x8 apart: 4 (R331 (banked by point)). -/
def BWR_CLASS : RegDesc :=
  ⟨0x4B010, 0x8, 4, true, 0x0, [(0, 48, .ro)]⟩
/-- BWR_CLASS.BYTES, bits [47:0], RO (R331). -/
abbrev BWR_CLASS_BYTES : Fld := ⟨0x4B010, 0, 48, 0x8⟩

/-- BWR_COL_BYTES, BAR0 offset 0x04B030, 64 bits (R331 (banked by point and colony or system pool)). -/
def BWR_COL_BYTES : RegDesc :=
  ⟨0x4B030, 0x0, 1, true, 0x0, [(0, 48, .ro)]⟩
/-- BWR_COL_BYTES.BYTES, bits [47:0], RO (R331). -/
abbrev BWR_COL_BYTES_BYTES : Fld := ⟨0x4B030, 0, 48, 0x0⟩

/-- BWR_COL_EXCESS, BAR0 offset 0x04B038, 64 bits (R331 (banked by point and colony or system pool)). -/
def BWR_COL_EXCESS : RegDesc :=
  ⟨0x4B038, 0x0, 1, true, 0x0, [(0, 48, .ro)]⟩
/-- BWR_COL_EXCESS.BYTES, bits [47:0], RO (R331). -/
abbrev BWR_COL_EXCESS_BYTES : Fld := ⟨0x4B038, 0, 48, 0x0⟩

/-- BWR_CREDIT, BAR0 offset 0x04B040, 32 bits (R331 (computed)). -/
def BWR_CREDIT : RegDesc :=
  ⟨0x4B040, 0x0, 1, false, 0x0, [(0, 32, .ro)]⟩
/-- BWR_CREDIT.CREDIT, bits [31:0], RO (R331). -/
abbrev BWR_CREDIT_CREDIT : Fld := ⟨0x4B040, 0, 32, 0x0⟩

/-- BWR_DLMISS, BAR0 offset 0x04B044, 32 bits (R331 (banked by point and colony)). -/
def BWR_DLMISS : RegDesc :=
  ⟨0x4B044, 0x0, 1, false, 0x0, [(0, 32, .rc)]⟩
/-- BWR_DLMISS.COUNT, bits [31:0], RC (R331). -/
abbrev BWR_DLMISS_COUNT : Fld := ⟨0x4B044, 0, 32, 0x0⟩

/-- BWR_PVIOL, BAR0 offset 0x04B048, 32 bits (R331). -/
def BWR_PVIOL : RegDesc :=
  ⟨0x4B048, 0x0, 1, false, 0x0, [(0, 32, .rc)]⟩
/-- BWR_PVIOL.COUNT, bits [31:0], RC (R331). -/
abbrev BWR_PVIOL_COUNT : Fld := ⟨0x4B048, 0, 32, 0x0⟩

/-- SWM_ID, BAR0 offset 0x04C000, 32 bits (R509). -/
def SWM_ID : RegDesc :=
  ⟨0x4C000, 0x0, 1, false, 0x0, [(0, 7, .rw)]⟩
/-- SWM_ID.DEV_NUM, bits [6:0], RW (R509). -/
abbrev SWM_ID_DEV_NUM : Fld := ⟨0x4C000, 0, 7, 0x0⟩

/-- SWM_SWARM, BAR0 offset 0x04C004, 32 bits (R509). -/
def SWM_SWARM : RegDesc :=
  ⟨0x4C004, 0x0, 1, false, 0x0, [(0, 32, .rw)]⟩
/-- SWM_SWARM.SWARM_ID, bits [31:0], RW (R509). -/
abbrev SWM_SWARM_SWARM_ID : Fld := ⟨0x4C004, 0, 32, 0x0⟩

/-- SWM_CTL, BAR0 offset 0x04C008, 32 bits (R509). -/
def SWM_CTL : RegDesc :=
  ⟨0x4C008, 0x0, 1, false, 0x0, [(0, 4, .rw)]⟩
/-- SWM_CTL.ENABLE, bits [3:0], RW (R509). -/
abbrev SWM_CTL_ENABLE : Fld := ⟨0x4C008, 0, 4, 0x0⟩

/-- SWM_PORT, BAR0 offset 0x04C010, 32 bits, copies 0x4 apart: 4 (R509). -/
def SWM_PORT : RegDesc :=
  ⟨0x4C010, 0x4, 4, false, 0x0, [(0, 3, .ro), (3, 1, .ro), (4, 7, .ro), (11, 8, .ro), (19, 8, .ro), (27, 1, .w1c)]⟩
/-- SWM_PORT.STATE, bits [2:0], RO (R509). -/
abbrev SWM_PORT_STATE : Fld := ⟨0x4C010, 0, 3, 0x4⟩
/-- SWM_PORT.SLOW, bits [3:3], RO (R509). -/
abbrev SWM_PORT_SLOW : Fld := ⟨0x4C010, 3, 1, 0x4⟩
/-- SWM_PORT.PEER, bits [10:4], RO (R509). -/
abbrev SWM_PORT_PEER : Fld := ⟨0x4C010, 4, 7, 0x4⟩
/-- SWM_PORT.REASON, bits [18:11], RO (R509). -/
abbrev SWM_PORT_REASON : Fld := ⟨0x4C010, 11, 8, 0x4⟩
/-- SWM_PORT.RETRAINS, bits [26:19], RO (R509). -/
abbrev SWM_PORT_RETRAINS : Fld := ⟨0x4C010, 19, 8, 0x4⟩
/-- SWM_PORT.CHANGED, bits [27:27], W1C (R509). -/
abbrev SWM_PORT_CHANGED : Fld := ⟨0x4C010, 27, 1, 0x4⟩

/-- SWM_REACH, BAR0 offset 0x04C020, 64 bits, copies 0x8 apart: 2 (R509 (LO, then HI)). -/
def SWM_REACH : RegDesc :=
  ⟨0x4C020, 0x8, 2, true, 0x0, [(0, 64, .ro)]⟩
/-- SWM_REACH.DEVICES, bits [63:0], RO (R509). -/
abbrev SWM_REACH_DEVICES : Fld := ⟨0x4C020, 0, 64, 0x8⟩

/-- SWM_EXP_SEL, BAR0 offset 0x04C030, 32 bits (R509). -/
def SWM_EXP_SEL : RegDesc :=
  ⟨0x4C030, 0x0, 1, false, 0x0, [(0, 6, .rw)]⟩
/-- SWM_EXP_SEL.INDEX, bits [5:0], RW (R509). -/
abbrev SWM_EXP_SEL_INDEX : Fld := ⟨0x4C030, 0, 6, 0x0⟩

/-- SWM_EXP_OBJ, BAR0 offset 0x04C034, 32 bits (R509 (banked by SWM_EXP_SEL.INDEX)). -/
def SWM_EXP_OBJ : RegDesc :=
  ⟨0x4C034, 0x0, 1, false, 0x0, [(0, 32, .rw)]⟩
/-- SWM_EXP_OBJ.OBJ, bits [31:0], RW (R509). -/
abbrev SWM_EXP_OBJ_OBJ : Fld := ⟨0x4C034, 0, 32, 0x0⟩

/-- SWM_EXP_CTL, BAR0 offset 0x04C038, 32 bits (R509 (banked by SWM_EXP_SEL.INDEX)). -/
def SWM_EXP_CTL : RegDesc :=
  ⟨0x4C038, 0x0, 1, false, 0x0, [(0, 1, .rw), (1, 4, .rw), (5, 1, .ro)]⟩
/-- SWM_EXP_CTL.ENABLE, bits [0:0], RW (R509). -/
abbrev SWM_EXP_CTL_ENABLE : Fld := ⟨0x4C038, 0, 1, 0x0⟩
/-- SWM_EXP_CTL.LABEL, bits [4:1], RW (R509). -/
abbrev SWM_EXP_CTL_LABEL : Fld := ⟨0x4C038, 1, 4, 0x0⟩
/-- SWM_EXP_CTL.ERR, bits [5:5], RO (R509). -/
abbrev SWM_EXP_CTL_ERR : Fld := ⟨0x4C038, 5, 1, 0x0⟩

/-- SWM_REPLAY, BAR0 offset 0x04C040, 32 bits (R509). -/
def SWM_REPLAY : RegDesc :=
  ⟨0x4C040, 0x0, 1, false, 0x0, [(0, 32, .rc)]⟩
/-- SWM_REPLAY.COUNT, bits [31:0], RC (R509). -/
abbrev SWM_REPLAY_COUNT : Fld := ⟨0x4C040, 0, 32, 0x0⟩

/-- SWM_DROP, BAR0 offset 0x04C044, 32 bits (R509). -/
def SWM_DROP : RegDesc :=
  ⟨0x4C044, 0x0, 1, false, 0x0, [(0, 32, .rc)]⟩
/-- SWM_DROP.COUNT, bits [31:0], RC (R509). -/
abbrev SWM_DROP_COUNT : Fld := ⟨0x4C044, 0, 32, 0x0⟩

/-- SWM_REJ, BAR0 offset 0x04C048, 32 bits (R509). -/
def SWM_REJ : RegDesc :=
  ⟨0x4C048, 0x0, 1, false, 0x0, [(0, 32, .rc)]⟩
/-- SWM_REJ.COUNT, bits [31:0], RC (R509). -/
abbrev SWM_REJ_COUNT : Fld := ⟨0x4C048, 0, 32, 0x0⟩

/-- DMC_STATUS, BAR0 offset 0x050000, 32 bits, copies 0x1000 apart: 4 (R309). -/
def DMC_STATUS : RegDesc :=
  ⟨0x50000, 0x1000, 4, false, 0x0, [(0, 1, .ro), (1, 1, .ro), (2, 1, .ro), (3, 1, .ro), (4, 1, .ro), (5, 1, .ro), (8, 8, .ro), (16, 5, .ro)]⟩
/-- DMC_STATUS.TRAINED, bits [0:0], RO (R309). -/
abbrev DMC_STATUS_TRAINED : Fld := ⟨0x50000, 0, 1, 0x1000⟩
/-- DMC_STATUS.WARM, bits [1:1], RO (R309). -/
abbrev DMC_STATUS_WARM : Fld := ⟨0x50000, 1, 1, 0x1000⟩
/-- DMC_STATUS.BASELINE, bits [2:2], RO (R309). -/
abbrev DMC_STATUS_BASELINE : Fld := ⟨0x50000, 2, 1, 0x1000⟩
/-- DMC_STATUS.HOT, bits [3:3], RO (R309). -/
abbrev DMC_STATUS_HOT : Fld := ⟨0x50000, 3, 1, 0x1000⟩
/-- DMC_STATUS.SELF_REFRESH, bits [4:4], RO (R309). -/
abbrev DMC_STATUS_SELF_REFRESH : Fld := ⟨0x50000, 4, 1, 0x1000⟩
/-- DMC_STATUS.EXCLUDED, bits [5:5], RO (R309). -/
abbrev DMC_STATUS_EXCLUDED : Fld := ⟨0x50000, 5, 1, 0x1000⟩
/-- DMC_STATUS.TEMP_MAX, bits [15:8], RO (R309). -/
abbrev DMC_STATUS_TEMP_MAX : Fld := ⟨0x50000, 8, 8, 0x1000⟩
/-- DMC_STATUS.FAIL_CH, bits [20:16], RO (R309). -/
abbrev DMC_STATUS_FAIL_CH : Fld := ⟨0x50000, 16, 5, 0x1000⟩

/-- DMC_CE, BAR0 offset 0x050008, 64 bits, copies 0x1000 apart: 4 (R311). -/
def DMC_CE : RegDesc :=
  ⟨0x50008, 0x1000, 4, true, 0x0, [(0, 48, .ro)]⟩
/-- DMC_CE.COUNT, bits [47:0], RO (R311). -/
abbrev DMC_CE_COUNT : Fld := ⟨0x50008, 0, 48, 0x1000⟩

/-- DMC_UE, BAR0 offset 0x050010, 32 bits, copies 0x1000 apart: 4 (R311). -/
def DMC_UE : RegDesc :=
  ⟨0x50010, 0x1000, 4, false, 0x0, [(0, 16, .ro)]⟩
/-- DMC_UE.COUNT, bits [15:0], RO (R311). -/
abbrev DMC_UE_COUNT : Fld := ⟨0x50010, 0, 16, 0x1000⟩

/-- DMC_REF, BAR0 offset 0x050014, 32 bits, copies 0x1000 apart: 4 (R311). -/
def DMC_REF : RegDesc :=
  ⟨0x50014, 0x1000, 4, false, 0x0, [(0, 4, .ro), (16, 16, .ro)]⟩
/-- DMC_REF.MAX_DEBT, bits [3:0], RO (R311). -/
abbrev DMC_REF_MAX_DEBT : Fld := ⟨0x50014, 0, 4, 0x1000⟩
/-- DMC_REF.BURSTS, bits [31:16], RO (R311). -/
abbrev DMC_REF_BURSTS : Fld := ⟨0x50014, 16, 16, 0x1000⟩

/-- DMC_WDRAIN, BAR0 offset 0x050018, 32 bits, copies 0x1000 apart: 4 (R311). -/
def DMC_WDRAIN : RegDesc :=
  ⟨0x50018, 0x1000, 4, false, 0x0, [(0, 32, .ro)]⟩
/-- DMC_WDRAIN.COUNT, bits [31:0], RO (R311). -/
abbrev DMC_WDRAIN_COUNT : Fld := ⟨0x50018, 0, 32, 0x1000⟩

/-- DMC_LOG_CTL, BAR0 offset 0x05001C, 32 bits, copies 0x1000 apart: 4 (R311). -/
def DMC_LOG_CTL : RegDesc :=
  ⟨0x5001C, 0x1000, 4, false, 0x0, [(0, 6, .ro), (6, 1, .w1c), (8, 6, .rw)]⟩
/-- DMC_LOG_CTL.HEAD, bits [5:0], RO (R311). -/
abbrev DMC_LOG_CTL_HEAD : Fld := ⟨0x5001C, 0, 6, 0x1000⟩
/-- DMC_LOG_CTL.WRAPPED, bits [6:6], W1C (R311). -/
abbrev DMC_LOG_CTL_WRAPPED : Fld := ⟨0x5001C, 6, 1, 0x1000⟩
/-- DMC_LOG_CTL.SEL, bits [13:8], RW (R311). -/
abbrev DMC_LOG_CTL_SEL : Fld := ⟨0x5001C, 8, 6, 0x1000⟩

/-- DMC_LOG0, BAR0 offset 0x050020, 32 bits, copies 0x1000 apart: 4 (R312 (banked by SEL)). -/
def DMC_LOG0 : RegDesc :=
  ⟨0x50020, 0x1000, 4, false, 0x0, [(0, 32, .ro)]⟩
/-- DMC_LOG0.DATA, bits [31:0], RO (R312). -/
abbrev DMC_LOG0_DATA : Fld := ⟨0x50020, 0, 32, 0x1000⟩

/-- DMC_LOG1, BAR0 offset 0x050024, 32 bits, copies 0x1000 apart: 4 (R312 (banked by SEL)). -/
def DMC_LOG1 : RegDesc :=
  ⟨0x50024, 0x1000, 4, false, 0x0, [(0, 32, .ro)]⟩
/-- DMC_LOG1.DATA, bits [31:0], RO (R312). -/
abbrev DMC_LOG1_DATA : Fld := ⟨0x50024, 0, 32, 0x1000⟩

/-- DMC_LOG2, BAR0 offset 0x050028, 32 bits, copies 0x1000 apart: 4 (R312 (banked by SEL)). -/
def DMC_LOG2 : RegDesc :=
  ⟨0x50028, 0x1000, 4, false, 0x0, [(0, 32, .ro)]⟩
/-- DMC_LOG2.DATA, bits [31:0], RO (R312). -/
abbrev DMC_LOG2_DATA : Fld := ⟨0x50028, 0, 32, 0x1000⟩

/-- DMC_LOG3, BAR0 offset 0x05002C, 32 bits, copies 0x1000 apart: 4 (R312 (banked by SEL)). -/
def DMC_LOG3 : RegDesc :=
  ⟨0x5002C, 0x1000, 4, false, 0x0, [(0, 32, .ro)]⟩
/-- DMC_LOG3.DATA, bits [31:0], RO (R312). -/
abbrev DMC_LOG3_DATA : Fld := ⟨0x5002C, 0, 32, 0x1000⟩

/-- DMC_LOG4, BAR0 offset 0x050030, 32 bits, copies 0x1000 apart: 4 (R312 (banked by SEL)). -/
def DMC_LOG4 : RegDesc :=
  ⟨0x50030, 0x1000, 4, false, 0x0, [(0, 32, .ro)]⟩
/-- DMC_LOG4.DATA, bits [31:0], RO (R312). -/
abbrev DMC_LOG4_DATA : Fld := ⟨0x50030, 0, 32, 0x1000⟩

/-- DMC_LOG5, BAR0 offset 0x050034, 32 bits, copies 0x1000 apart: 4 (R312 (banked by SEL)). -/
def DMC_LOG5 : RegDesc :=
  ⟨0x50034, 0x1000, 4, false, 0x0, [(0, 32, .ro)]⟩
/-- DMC_LOG5.DATA, bits [31:0], RO (R312). -/
abbrev DMC_LOG5_DATA : Fld := ⟨0x50034, 0, 32, 0x1000⟩

/-- DMC_LOG6, BAR0 offset 0x050038, 32 bits, copies 0x1000 apart: 4 (R312 (banked by SEL)). -/
def DMC_LOG6 : RegDesc :=
  ⟨0x50038, 0x1000, 4, false, 0x0, [(0, 32, .ro)]⟩
/-- DMC_LOG6.DATA, bits [31:0], RO (R312). -/
abbrev DMC_LOG6_DATA : Fld := ⟨0x50038, 0, 32, 0x1000⟩

/-- DMC_LOG7, BAR0 offset 0x05003C, 32 bits, copies 0x1000 apart: 4 (R312 (banked by SEL)). -/
def DMC_LOG7 : RegDesc :=
  ⟨0x5003C, 0x1000, 4, false, 0x0, [(0, 32, .ro)]⟩
/-- DMC_LOG7.DATA, bits [31:0], RO (R312). -/
abbrev DMC_LOG7_DATA : Fld := ⟨0x5003C, 0, 32, 0x1000⟩

/-- DMC_TRAIN, BAR0 offset 0x050040, 32 bits, copies 0x1000 apart: 4 (R313). -/
def DMC_TRAIN : RegDesc :=
  ⟨0x50040, 0x1000, 4, false, 0x0, [(0, 8, .ro), (8, 5, .ro), (16, 4, .ro)]⟩
/-- DMC_TRAIN.REPAIRED, bits [7:0], RO (R313). -/
abbrev DMC_TRAIN_REPAIRED : Fld := ⟨0x50040, 0, 8, 0x1000⟩
/-- DMC_TRAIN.WORST_CH, bits [12:8], RO (R313). -/
abbrev DMC_TRAIN_WORST_CH : Fld := ⟨0x50040, 8, 5, 0x1000⟩
/-- DMC_TRAIN.WORST_REPAIRS, bits [19:16], RO (R313). -/
abbrev DMC_TRAIN_WORST_REPAIRS : Fld := ⟨0x50040, 16, 4, 0x1000⟩

/-- DMC_MAP, BAR0 offset 0x054000, 32 bits (R314). -/
def DMC_MAP : RegDesc :=
  ⟨0x54000, 0x0, 1, false, 0x0, [(0, 5, .ro), (8, 1, .ro)]⟩
/-- DMC_MAP.ISHARE, bits [4:0], RO (R314). -/
abbrev DMC_MAP_ISHARE : Fld := ⟨0x54000, 0, 5, 0x0⟩
/-- DMC_MAP.AFFINE_ONLY, bits [8:8], RO (R314). -/
abbrev DMC_MAP_AFFINE_ONLY : Fld := ⟨0x54000, 8, 1, 0x0⟩

/-- CMB_STATE, BAR0 offset 0x058000, 32 bits, copies 0x100 apart: 64 (R150). -/
def CMB_STATE : RegDesc :=
  ⟨0x58000, 0x100, 64, false, 0x0, [(0, 3, .ro), (8, 9, .ro), (20, 4, .ro), (24, 1, .ro), (25, 1, .ro)]⟩
/-- CMB_STATE.STATE, bits [2:0], RO (R150). -/
abbrev CMB_STATE_STATE : Fld := ⟨0x58000, 0, 3, 0x100⟩
/-- CMB_STATE.CAUSES, bits [16:8], RO (R150). -/
abbrev CMB_STATE_CAUSES : Fld := ⟨0x58000, 8, 9, 0x100⟩
/-- CMB_STATE.COLONY, bits [23:20], RO (R150). -/
abbrev CMB_STATE_COLONY : Fld := ⟨0x58000, 20, 4, 0x100⟩
/-- CMB_STATE.COLONY_VALID, bits [24:24], RO (R150). -/
abbrev CMB_STATE_COLONY_VALID : Fld := ⟨0x58000, 24, 1, 0x100⟩
/-- CMB_STATE.LC, bits [25:25], RO (R150). -/
abbrev CMB_STATE_LC : Fld := ⟨0x58000, 25, 1, 0x100⟩

/-- CMB_CTL, BAR0 offset 0x058004, 32 bits, copies 0x100 apart: 64 (R151). -/
def CMB_CTL : RegDesc :=
  ⟨0x58004, 0x100, 64, false, 0x0, [(0, 1, .wo)]⟩
/-- CMB_CTL.CLR_CNT, bits [0:0], WO (R151). -/
abbrev CMB_CTL_CLR_CNT : Fld := ⟨0x58004, 0, 1, 0x100⟩

/-- CMB_SCHED, BAR0 offset 0x058008, 64 bits, copies 0x100 apart: 64 (R151). -/
def CMB_SCHED : RegDesc :=
  ⟨0x58008, 0x100, 64, true, 0x0, [(0, 48, .ro)]⟩
/-- CMB_SCHED.COUNT, bits [47:0], RO (R151). -/
abbrev CMB_SCHED_COUNT : Fld := ⟨0x58008, 0, 48, 0x100⟩

/-- CMB_WALL, BAR0 offset 0x058010, 64 bits, copies 0x100 apart: 64 (R151). -/
def CMB_WALL : RegDesc :=
  ⟨0x58010, 0x100, 64, true, 0x0, [(0, 48, .ro)]⟩
/-- CMB_WALL.COUNT, bits [47:0], RO (R151). -/
abbrev CMB_WALL_COUNT : Fld := ⟨0x58010, 0, 48, 0x100⟩

/-- CMB_HOLD_TOTAL, BAR0 offset 0x058018, 64 bits, copies 0x100 apart: 64 (R151). -/
def CMB_HOLD_TOTAL : RegDesc :=
  ⟨0x58018, 0x100, 64, true, 0x0, [(0, 48, .ro)]⟩
/-- CMB_HOLD_TOTAL.COUNT, bits [47:0], RO (R151). -/
abbrev CMB_HOLD_TOTAL_COUNT : Fld := ⟨0x58018, 0, 48, 0x100⟩

/-- CMB_HOLD0, BAR0 offset 0x058020, 64 bits, copies 0x100 apart: 64 (R151). -/
def CMB_HOLD0 : RegDesc :=
  ⟨0x58020, 0x100, 64, true, 0x0, [(0, 48, .ro)]⟩
/-- CMB_HOLD0.COUNT, bits [47:0], RO (R151). -/
abbrev CMB_HOLD0_COUNT : Fld := ⟨0x58020, 0, 48, 0x100⟩

/-- CMB_HOLD1, BAR0 offset 0x058028, 64 bits, copies 0x100 apart: 64 (R151). -/
def CMB_HOLD1 : RegDesc :=
  ⟨0x58028, 0x100, 64, true, 0x0, [(0, 48, .ro)]⟩
/-- CMB_HOLD1.COUNT, bits [47:0], RO (R151). -/
abbrev CMB_HOLD1_COUNT : Fld := ⟨0x58028, 0, 48, 0x100⟩

/-- CMB_HOLD2, BAR0 offset 0x058030, 64 bits, copies 0x100 apart: 64 (R151). -/
def CMB_HOLD2 : RegDesc :=
  ⟨0x58030, 0x100, 64, true, 0x0, [(0, 48, .ro)]⟩
/-- CMB_HOLD2.COUNT, bits [47:0], RO (R151). -/
abbrev CMB_HOLD2_COUNT : Fld := ⟨0x58030, 0, 48, 0x100⟩

/-- CMB_HOLD3, BAR0 offset 0x058038, 64 bits, copies 0x100 apart: 64 (R151). -/
def CMB_HOLD3 : RegDesc :=
  ⟨0x58038, 0x100, 64, true, 0x0, [(0, 48, .ro)]⟩
/-- CMB_HOLD3.COUNT, bits [47:0], RO (R151). -/
abbrev CMB_HOLD3_COUNT : Fld := ⟨0x58038, 0, 48, 0x100⟩

/-- CMB_HOLD4, BAR0 offset 0x058040, 64 bits, copies 0x100 apart: 64 (R151). -/
def CMB_HOLD4 : RegDesc :=
  ⟨0x58040, 0x100, 64, true, 0x0, [(0, 48, .ro)]⟩
/-- CMB_HOLD4.COUNT, bits [47:0], RO (R151). -/
abbrev CMB_HOLD4_COUNT : Fld := ⟨0x58040, 0, 48, 0x100⟩

/-- CMB_HOLD5, BAR0 offset 0x058048, 64 bits, copies 0x100 apart: 64 (R151). -/
def CMB_HOLD5 : RegDesc :=
  ⟨0x58048, 0x100, 64, true, 0x0, [(0, 48, .ro)]⟩
/-- CMB_HOLD5.COUNT, bits [47:0], RO (R151). -/
abbrev CMB_HOLD5_COUNT : Fld := ⟨0x58048, 0, 48, 0x100⟩

/-- CMB_HOLD6, BAR0 offset 0x058050, 64 bits, copies 0x100 apart: 64 (R151). -/
def CMB_HOLD6 : RegDesc :=
  ⟨0x58050, 0x100, 64, true, 0x0, [(0, 48, .ro)]⟩
/-- CMB_HOLD6.COUNT, bits [47:0], RO (R151). -/
abbrev CMB_HOLD6_COUNT : Fld := ⟨0x58050, 0, 48, 0x100⟩

/-- CMB_HOLD7, BAR0 offset 0x058058, 64 bits, copies 0x100 apart: 64 (R151). -/
def CMB_HOLD7 : RegDesc :=
  ⟨0x58058, 0x100, 64, true, 0x0, [(0, 48, .ro)]⟩
/-- CMB_HOLD7.COUNT, bits [47:0], RO (R151). -/
abbrev CMB_HOLD7_COUNT : Fld := ⟨0x58058, 0, 48, 0x100⟩

/-- CMB_HOLD8, BAR0 offset 0x058060, 64 bits, copies 0x100 apart: 64 (R151). -/
def CMB_HOLD8 : RegDesc :=
  ⟨0x58060, 0x100, 64, true, 0x0, [(0, 48, .ro)]⟩
/-- CMB_HOLD8.COUNT, bits [47:0], RO (R151). -/
abbrev CMB_HOLD8_COUNT : Fld := ⟨0x58060, 0, 48, 0x100⟩

/-- CMB_SLOTWAIT, BAR0 offset 0x058070, 64 bits, copies 0x100 apart: 64 (R152). -/
def CMB_SLOTWAIT : RegDesc :=
  ⟨0x58070, 0x100, 64, true, 0x0, [(0, 11, .ro), (11, 1, .ro), (12, 1, .ro), (16, 48, .ro)]⟩
/-- CMB_SLOTWAIT.SLOT, bits [10:0], RO (R152). -/
abbrev CMB_SLOTWAIT_SLOT : Fld := ⟨0x58070, 0, 11, 0x100⟩
/-- CMB_SLOTWAIT.WRITE, bits [11:11], RO (R152). -/
abbrev CMB_SLOTWAIT_WRITE : Fld := ⟨0x58070, 11, 1, 0x100⟩
/-- CMB_SLOTWAIT.VALID, bits [12:12], RO (R152). -/
abbrev CMB_SLOTWAIT_VALID : Fld := ⟨0x58070, 12, 1, 0x100⟩
/-- CMB_SLOTWAIT.SCHED, bits [63:16], RO (R152). -/
abbrev CMB_SLOTWAIT_SCHED : Fld := ⟨0x58070, 16, 48, 0x100⟩

/-- CMB_ECC_ROWS, BAR0 offset 0x058078, 32 bits, copies 0x100 apart: 64 (R151). -/
def CMB_ECC_ROWS : RegDesc :=
  ⟨0x58078, 0x100, 64, false, 0x0, [(0, 32, .ro)]⟩
/-- CMB_ECC_ROWS.COUNT, bits [31:0], RO (R151). -/
abbrev CMB_ECC_ROWS_COUNT : Fld := ⟨0x58078, 0, 32, 0x100⟩

/-- CMB_DBG, BAR0 offset 0x0580F0, 32 bits, copies 0x100 apart: 64 (R153). -/
def CMB_DBG : RegDesc :=
  ⟨0x580F0, 0x100, 64, false, 0x0, [(0, 1, .rw), (1, 1, .wo), (2, 1, .w1c), (3, 1, .ro)]⟩
/-- CMB_DBG.HALT, bits [0:0], RW (R153). -/
abbrev CMB_DBG_HALT : Fld := ⟨0x580F0, 0, 1, 0x100⟩
/-- CMB_DBG.STEP, bits [1:1], WO (R153). -/
abbrev CMB_DBG_STEP : Fld := ⟨0x580F0, 1, 1, 0x100⟩
/-- CMB_DBG.REFUSED, bits [2:2], W1C (R153). -/
abbrev CMB_DBG_REFUSED : Fld := ⟨0x580F0, 2, 1, 0x100⟩
/-- CMB_DBG.HALTED, bits [3:3], RO (R153). -/
abbrev CMB_DBG_HALTED : Fld := ⟨0x580F0, 3, 1, 0x100⟩

/-- CMB_SPD_SEL, BAR0 offset 0x05C000, 32 bits (R196). -/
def CMB_SPD_SEL : RegDesc :=
  ⟨0x5C000, 0x0, 1, false, 0x0, [(0, 6, .rw)]⟩
/-- CMB_SPD_SEL.COMB, bits [5:0], RW (R196). -/
abbrev CMB_SPD_SEL_COMB : Fld := ⟨0x5C000, 0, 6, 0x0⟩

/-- CMB_SPD_ADDR, BAR0 offset 0x05C004, 32 bits (R196). -/
def CMB_SPD_ADDR : RegDesc :=
  ⟨0x5C004, 0x0, 1, false, 0x0, [(5, 18, .rw), (23, 1, .wo), (24, 1, .ro), (25, 1, .w1c)]⟩
/-- CMB_SPD_ADDR.ADDR, bits [22:5], RW (R196). -/
abbrev CMB_SPD_ADDR_ADDR : Fld := ⟨0x5C004, 5, 18, 0x0⟩
/-- CMB_SPD_ADDR.GO, bits [23:23], WO (R196). -/
abbrev CMB_SPD_ADDR_GO : Fld := ⟨0x5C004, 23, 1, 0x0⟩
/-- CMB_SPD_ADDR.BUSY, bits [24:24], RO (R196). -/
abbrev CMB_SPD_ADDR_BUSY : Fld := ⟨0x5C004, 24, 1, 0x0⟩
/-- CMB_SPD_ADDR.UE, bits [25:25], W1C (R196). -/
abbrev CMB_SPD_ADDR_UE : Fld := ⟨0x5C004, 25, 1, 0x0⟩

/-- CMB_SPD_SLOT, BAR0 offset 0x05C008, 32 bits (R196 (STATE and COUNT computed)). -/
def CMB_SPD_SLOT : RegDesc :=
  ⟨0x5C008, 0x0, 1, false, 0x0, [(0, 11, .rw), (12, 2, .ro), (14, 4, .ro)]⟩
/-- CMB_SPD_SLOT.SLOT, bits [10:0], RW (R196). -/
abbrev CMB_SPD_SLOT_SLOT : Fld := ⟨0x5C008, 0, 11, 0x0⟩
/-- CMB_SPD_SLOT.STATE, bits [13:12], RO (R196). -/
abbrev CMB_SPD_SLOT_STATE : Fld := ⟨0x5C008, 12, 2, 0x0⟩
/-- CMB_SPD_SLOT.COUNT, bits [17:14], RO (R196). -/
abbrev CMB_SPD_SLOT_COUNT : Fld := ⟨0x5C008, 14, 4, 0x0⟩

/-- CMB_SPD_CACHE, BAR0 offset 0x05C00C, 32 bits (R196 (computed)). -/
def CMB_SPD_CACHE : RegDesc :=
  ⟨0x5C00C, 0x0, 1, false, 0x0, [(0, 2, .ro)]⟩
/-- CMB_SPD_CACHE.MODE, bits [1:0], RO (R196). -/
abbrev CMB_SPD_CACHE_MODE : Fld := ⟨0x5C00C, 0, 2, 0x0⟩

/-- CMB_SPD_HIT, BAR0 offset 0x05C010, 64 bits (R196 (banked by CMB_SPD_SEL.COMB)). -/
def CMB_SPD_HIT : RegDesc :=
  ⟨0x5C010, 0x0, 1, true, 0x0, [(0, 48, .ro)]⟩
/-- CMB_SPD_HIT.COUNT, bits [47:0], RO (R196). -/
abbrev CMB_SPD_HIT_COUNT : Fld := ⟨0x5C010, 0, 48, 0x0⟩

/-- CMB_SPD_MISS, BAR0 offset 0x05C018, 64 bits (R196 (banked by CMB_SPD_SEL.COMB)). -/
def CMB_SPD_MISS : RegDesc :=
  ⟨0x5C018, 0x0, 1, true, 0x0, [(0, 48, .ro)]⟩
/-- CMB_SPD_MISS.COUNT, bits [47:0], RO (R196). -/
abbrev CMB_SPD_MISS_COUNT : Fld := ⟨0x5C018, 0, 48, 0x0⟩

/-- CMB_SPD_DATA, BAR0 offset 0x05C020, 32 bits, copies 0x4 apart: 8 (R196). -/
def CMB_SPD_DATA : RegDesc :=
  ⟨0x5C020, 0x4, 8, false, 0x0, [(0, 32, .ro)]⟩
/-- CMB_SPD_DATA.DATA, bits [31:0], RO (R196). -/
abbrev CMB_SPD_DATA_DATA : Fld := ⟨0x5C020, 0, 32, 0x4⟩

/-- CMB_BROOD_USE, BAR0 offset 0x05C100, 32 bits (R261 (computed)). -/
def CMB_BROOD_USE : RegDesc :=
  ⟨0x5C100, 0x0, 1, false, 0x0, [(0, 13, .ro), (16, 13, .ro)]⟩
/-- CMB_BROOD_USE.USED, bits [12:0], RO (R261). -/
abbrev CMB_BROOD_USE_USED : Fld := ⟨0x5C100, 0, 13, 0x0⟩
/-- CMB_BROOD_USE.PARKED, bits [28:16], RO (R261). -/
abbrev CMB_BROOD_USE_PARKED : Fld := ⟨0x5C100, 16, 13, 0x0⟩

/-- CMB_BROOD_FW, BAR0 offset 0x05C104, 32 bits (R261 (computed)). -/
def CMB_BROOD_FW : RegDesc :=
  ⟨0x5C104, 0x0, 1, false, 0x0, [(0, 15, .ro)]⟩
/-- CMB_BROOD_FW.COUNT, bits [14:0], RO (R261). -/
abbrev CMB_BROOD_FW_COUNT : Fld := ⟨0x5C104, 0, 15, 0x0⟩

/-- CMB_BROOD_PARKS, BAR0 offset 0x05C108, 32 bits (R261). -/
def CMB_BROOD_PARKS : RegDesc :=
  ⟨0x5C108, 0x0, 1, false, 0x0, [(0, 32, .rc)]⟩
/-- CMB_BROOD_PARKS.COUNT, bits [31:0], RC (R261). -/
abbrev CMB_BROOD_PARKS_COUNT : Fld := ⟨0x5C108, 0, 32, 0x0⟩

/-- CMB_BROOD_PROMOTED, BAR0 offset 0x05C10C, 32 bits (R261). -/
def CMB_BROOD_PROMOTED : RegDesc :=
  ⟨0x5C10C, 0x0, 1, false, 0x0, [(0, 32, .rc)]⟩
/-- CMB_BROOD_PROMOTED.COUNT, bits [31:0], RC (R261). -/
abbrev CMB_BROOD_PROMOTED_COUNT : Fld := ⟨0x5C10C, 0, 32, 0x0⟩

/-- CMB_BROOD_SEL, BAR0 offset 0x05C110, 32 bits (R261). -/
def CMB_BROOD_SEL : RegDesc :=
  ⟨0x5C110, 0x0, 1, false, 0x0, [(0, 12, .rw)]⟩
/-- CMB_BROOD_SEL.INDEX, bits [11:0], RW (R261). -/
abbrev CMB_BROOD_SEL_INDEX : Fld := ⟨0x5C110, 0, 12, 0x0⟩

/-- CMB_BROOD_DATA, BAR0 offset 0x05C120, 32 bits, copies 0x4 apart: 12 (R261 (computed)). -/
def CMB_BROOD_DATA : RegDesc :=
  ⟨0x5C120, 0x4, 12, false, 0x0, [(0, 32, .ro)]⟩
/-- CMB_BROOD_DATA.DATA, bits [31:0], RO (R261). -/
abbrev CMB_BROOD_DATA_DATA : Fld := ⟨0x5C120, 0, 32, 0x4⟩

/-- CMB_COL_SEL, BAR0 offset 0x05C200, 32 bits (R282). -/
def CMB_COL_SEL : RegDesc :=
  ⟨0x5C200, 0x0, 1, false, 0x0, [(0, 4, .rw)]⟩
/-- CMB_COL_SEL.COLONY, bits [3:0], RW (R282). -/
abbrev CMB_COL_SEL_COLONY : Fld := ⟨0x5C200, 0, 4, 0x0⟩

/-- CMB_COL_STAT, BAR0 offset 0x05C204, 32 bits (R282 (computed)). -/
def CMB_COL_STAT : RegDesc :=
  ⟨0x5C204, 0x0, 1, false, 0x0, [(0, 1, .ro), (1, 1, .ro), (2, 7, .ro), (9, 7, .ro), (16, 7, .ro)]⟩
/-- CMB_COL_STAT.VALID, bits [0:0], RO (R282). -/
abbrev CMB_COL_STAT_VALID : Fld := ⟨0x5C204, 0, 1, 0x0⟩
/-- CMB_COL_STAT.LC, bits [1:1], RO (R282). -/
abbrev CMB_COL_STAT_LC : Fld := ⟨0x5C204, 1, 1, 0x0⟩
/-- CMB_COL_STAT.NCOMB, bits [8:2], RO (R282). -/
abbrev CMB_COL_STAT_NCOMB : Fld := ⟨0x5C204, 2, 7, 0x0⟩
/-- CMB_COL_STAT.INUSE, bits [15:9], RO (R282). -/
abbrev CMB_COL_STAT_INUSE : Fld := ⟨0x5C204, 9, 7, 0x0⟩
/-- CMB_COL_STAT.READY, bits [22:16], RO (R282). -/
abbrev CMB_COL_STAT_READY : Fld := ⟨0x5C204, 16, 7, 0x0⟩

/-- CMB_COL_JOBS, BAR0 offset 0x05C208, 32 bits (R282 (banked by CMB_COL_SEL.COLONY)). -/
def CMB_COL_JOBS : RegDesc :=
  ⟨0x5C208, 0x0, 1, false, 0x0, [(0, 32, .rc)]⟩
/-- CMB_COL_JOBS.COUNT, bits [31:0], RC (R282). -/
abbrev CMB_COL_JOBS_COUNT : Fld := ⟨0x5C208, 0, 32, 0x0⟩

/-- CMB_COL_BUDGET, BAR0 offset 0x05C20C, 32 bits (R282 (banked by CMB_COL_SEL.COLONY)). -/
def CMB_COL_BUDGET : RegDesc :=
  ⟨0x5C20C, 0x0, 1, false, 0x0, [(0, 32, .rc)]⟩
/-- CMB_COL_BUDGET.COUNT, bits [31:0], RC (R282). -/
abbrev CMB_COL_BUDGET_COUNT : Fld := ⟨0x5C20C, 0, 32, 0x0⟩

/-- CMB_COL_MAXWAIT, BAR0 offset 0x05C210, 32 bits (R282 (banked by CMB_COL_SEL.COLONY)). -/
def CMB_COL_MAXWAIT : RegDesc :=
  ⟨0x5C210, 0x0, 1, false, 0x0, [(0, 32, .rc)]⟩
/-- CMB_COL_MAXWAIT.TICKS, bits [31:0], RC (R282). -/
abbrev CMB_COL_MAXWAIT_TICKS : Fld := ⟨0x5C210, 0, 32, 0x0⟩

/-- CMB_COL_MAXSW, BAR0 offset 0x05C214, 32 bits (R282 (banked by CMB_COL_SEL.COLONY)). -/
def CMB_COL_MAXSW : RegDesc :=
  ⟨0x5C214, 0x0, 1, false, 0x0, [(0, 32, .rc)]⟩
/-- CMB_COL_MAXSW.TICKS, bits [31:0], RC (R282). -/
abbrev CMB_COL_MAXSW_TICKS : Fld := ⟨0x5C214, 0, 32, 0x0⟩

/-- Rows 0 on of the register map (R541-R543). -/
def regRows0 : List RegDesc :=
  [HIF_STATUS, HIF_WIN_BASE, HIF_HEARTBEAT, HIF_IDSUM, HIF_GSTATUS, HIF_ICAUSE, HIF_IMASK, HIF_LOCKCFG, HIF_IPEND, HIF_QTAIL, HIF_QHEAD, HIF_CQTAIL, HIF_CQHEAD, HIF_QSTAT, HIF_QCTL, MBX_CTRL, MBX_DB, MBX_STAT, MBX_ACK, MBX_CANCEL, IDN_PKG, IDN_BOOT, IDN_CAP_PKG, IDN_DIE]

/-- Rows 24 on of the register map (R541-R543). -/
def regRows1 : List RegDesc :=
  [IDN_LINK, PWR_STATUS, PWR_RSTCAUSE, PWR_VDD, EVT_BASE, EVT_SIZE, EVT_CTRL, EVT_HEAD, EVT_TAIL, EVT_DROPPED, TIM_NOW, TIM_FRAC, TIM_STATUS, TIM_CFG, TIM_ADJ, TIM_OFFSET, TIM_PDELAY, TIM_HOLD, TIM_ESTERR, TIM_PPS, TIM_PHYDLY, THM_STATUS, THM_CTL, THM_LIMITS]

/-- Rows 48 on of the register map (R541-R543). -/
def regRows2 : List RegDesc :=
  [THM_SEL, THM_SENSOR, THM_COOLANT, THM_RTH, THM_RTH_BASE, THM_THROTTLE, THM_DIE, SAF_ISL_STATUS, SAF_FAULT, SAF_CMP_AGE, SAF_CMP_FAIL, SAF_CMP_TIME, SAF_MEM, SAF_CFG, SAF_FAULT_SYN, GRD_STATUS, GRD_CFG_SEL, GRD_CFG_CTL, GRD_SEL, GRD_EXPIRED, GRD_LAST, GRD_DLMISS, GRD_CHK, GRD_LAPSE]

/-- Rows 72 on of the register map (R541-R543). -/
def regRows3 : List RegDesc :=
  [GRD_RESTARTS, GRD_CFG_DATA, CRC_ARMED, CRC_LOST, CRC_CH_SEL, CRC_CH_CFG, CRC_CH_PASS, CRC_CH_FAIL, CRC_UNIT_VAL, CRC_UNIT_VALID, CTL_ENABLED, CTL_SAFE, CTL_SEL, CTL_LOOP, CTL_OUT, CTL_INTEG, CTL_MAXLAT, CTL_EVALS, CTL_OVERRUN, CTL_SATCNT, CTL_TXREPL, FUS_STATUS, FUS_INSTANT, FUS_NPTS]

/-- Rows 96 on of the register map (R541-R543). -/
def regRows4 : List RegDesc :=
  [FUS_UNCOLLECTED, FUS_CONTRA, FUS_SEL, FUS_SENS_LATE, FUS_SENS_EARLY, FUS_SENS_DROP, FUS_SENS_BAD, PLN_STATUS, PLN_LIB, PLN_T0, PLN_LAST, PLN_PLANS, PLN_STOPS, PLN_REJECT, PLN_MAXT, BWR_SEL, BWR_CTL, BWR_SHARE, BWR_CLASS, BWR_COL_BYTES, BWR_COL_EXCESS, BWR_CREDIT, BWR_DLMISS, BWR_PVIOL]

/-- Rows 120 on of the register map (R541-R543). -/
def regRows5 : List RegDesc :=
  [SWM_ID, SWM_SWARM, SWM_CTL, SWM_PORT, SWM_REACH, SWM_EXP_SEL, SWM_EXP_OBJ, SWM_EXP_CTL, SWM_REPLAY, SWM_DROP, SWM_REJ, DMC_STATUS, DMC_CE, DMC_UE, DMC_REF, DMC_WDRAIN, DMC_LOG_CTL, DMC_LOG0, DMC_LOG1, DMC_LOG2, DMC_LOG3, DMC_LOG4, DMC_LOG5, DMC_LOG6]

/-- Rows 144 on of the register map (R541-R543). -/
def regRows6 : List RegDesc :=
  [DMC_LOG7, DMC_TRAIN, DMC_MAP, CMB_STATE, CMB_CTL, CMB_SCHED, CMB_WALL, CMB_HOLD_TOTAL, CMB_HOLD0, CMB_HOLD1, CMB_HOLD2, CMB_HOLD3, CMB_HOLD4, CMB_HOLD5, CMB_HOLD6, CMB_HOLD7, CMB_HOLD8, CMB_SLOTWAIT, CMB_ECC_ROWS, CMB_DBG, CMB_SPD_SEL, CMB_SPD_ADDR, CMB_SPD_SLOT, CMB_SPD_CACHE]

/-- Rows 168 on of the register map (R541-R543). -/
def regRows7 : List RegDesc :=
  [CMB_SPD_HIT, CMB_SPD_MISS, CMB_SPD_DATA, CMB_BROOD_USE, CMB_BROOD_FW, CMB_BROOD_PARKS, CMB_BROOD_PROMOTED, CMB_BROOD_SEL, CMB_BROOD_DATA, CMB_COL_SEL, CMB_COL_STAT, CMB_COL_JOBS, CMB_COL_BUDGET, CMB_COL_MAXWAIT, CMB_COL_MAXSW]

/-- The register map: every host-visible register of R541, R542 and R543 except the two 256-byte buffers of each
mailbox (MBX_REQ, MBX_RSP), which the mailbox holds. -/
def regMap : List RegDesc :=
  regRows0 ++ regRows1 ++ regRows2 ++ regRows3 ++ regRows4 ++ regRows5 ++ regRows6 ++ regRows7

/-- The registers whose reset value is not 0 (R541-R543), by offset: what the register file holds after a device
reset.  IDN_PKG.VARIANT, a strap, is written at strap sampling (R16, R22). -/
def resetRegs : Table Word64 :=
  [(0x0400A0, 0x400#64) /- IDN_LINK -/,
   (0x0400A4, 0x400#64) /- IDN_LINK -/,
   (0x0400A8, 0x400#64) /- IDN_LINK -/,
   (0x0400AC, 0x400#64) /- IDN_LINK -/,
   (0x0400B0, 0x400#64) /- IDN_LINK -/,
   (0x0400B4, 0x400#64) /- IDN_LINK -/,
   (0x0400B8, 0x400#64) /- IDN_LINK -/,
   (0x0400BC, 0x400#64) /- IDN_LINK -/,
   (0x0400C0, 0x400#64) /- IDN_LINK -/,
   (0x0400C4, 0x400#64) /- IDN_LINK -/,
   (0x041004, 0x1#64) /- PWR_RSTCAUSE -/,
   (0x041010, 0xBBAEE#64) /- PWR_VDD -/,
   (0x041014, 0xBBAEE#64) /- PWR_VDD -/,
   (0x041018, 0xBBAEE#64) /- PWR_VDD -/,
   (0x04101C, 0xBBAEE#64) /- PWR_VDD -/,
   (0x042010, 0x10000#64) /- EVT_HEAD -/,
   (0x043010, 0xF8000001#64) /- TIM_CFG -/,
   (0x043020, 0x6403E8#64) /- TIM_HOLD -/,
   (0x044000, 0x2000#64) /- THM_STATUS -/,
   (0x044004, 0x1401#64) /- THM_CTL -/,
   (0x044008, 0x6964#64) /- THM_LIMITS -/,
   (0x044014, 0x190#64) /- THM_COOLANT -/,
   (0x044040, 0x8000000000000#64) /- THM_DIE -/,
   (0x044048, 0x8000000000000#64) /- THM_DIE -/,
   (0x044050, 0x8000000000000#64) /- THM_DIE -/,
   (0x044058, 0x8000000000000#64) /- THM_DIE -/,
   (0x044060, 0x8000000000000#64) /- THM_DIE -/,
   (0x044068, 0x8000000000000#64) /- THM_DIE -/,
   (0x049000, 0x190#64) /- FUS_STATUS -/,
   (0x04A000, 0x3#64) /- PLN_STATUS -/]

/-- The copy of a row that holds BAR0 offset `off` (of a 32-bit word), if it is one of the row's. -/
def RegDesc.copyAt (d : RegDesc) (off : Nat) : Option Nat :=
  let size := if d.wide then 8 else 4
  if off < d.off then none
  else if d.count = 1 then (if off - d.off < size then some 0 else none)
  else if (off - d.off) % d.stride < size ∧ (off - d.off) / d.stride < d.count then
    some ((off - d.off) / d.stride)
  else none

/-- The row and the copy that BAR0 offset `off` lies in. -/
def findRegIn : List RegDesc → Nat → Option (RegDesc × Nat)
  | [], _ => none
  | d :: ds, off =>
    match d.copyAt off with
    | some i => some (d, i)
    | none => findRegIn ds off

/-- The register that BAR0 offset `off` lies in (R532: none means a reserved offset). -/
def findReg (off : Nat) : Option (RegDesc × Nat) := findRegIn regMap off

/-- The offset of copy `i` of a row. -/
def RegDesc.offAt (d : RegDesc) (i : Nat) : Nat := d.off + d.stride * i

end Sys2Proof.Machine
end

