-- ==== Sys2Proof/Machine/State.lean ====
section
/-!
DEFINITION. The state of the IG940 block as plain data: what each chapter of spec/ gives the machine, the register
file, DRAM, and the queue of commands that wait; the reasons a step can stop; the state after reset.
-/
namespace Sys2Proof.Machine

/-! ## Package, waggle, boot (spec/01, spec/02) -/

/-- Where the leader of a waggle link stands (R30-R35). -/
inductive WagPhase where
  | idle | hello | offer | select | training | done | complete | failed
  deriving DecidableEq, Repr

/-- One waggle link, both ends: the leader's outstanding request (R31, R32), what it selected (R33) and its REJECT; of a ring link,
its leader's report with whether its echo came, and what the Eztos die echoed and recorded (R35); and the follower's last answered
SEQ with its reply, its failed lanes, its training and its DONE (R31, R34, R37). -/
structure WagLink where
  phase : WagPhase := .idle
  seq : Byte := 0
  request : WaggleMsg := []
  retrans : Nat := 0
  sentAt : Nat := 0
  helloAt : Nat := 0
  rate : Nat := 0
  mods : BitVec 4 := 0
  cap : BitVec 32 := 0
  offer : BitVec 32 := 0
  fails : Nat := 0
  reject : WaggleMsg := []
  report : WaggleMsg := []
  reported : Bool := false
  echo : WaggleMsg := []
  recorded : Bool := false
  folSeq : Option Byte := none
  folReply : List WaggleMsg := []
  folLanes : Nat := 0
  folCap : BitVec 32 := 0
  folRate : Nat := 0
  folMods : BitVec 4 := 0
  folTraining : Bool := false
  folDone : Bool := false
  folFails : Nat := 0
  folRejected : Bool := false
  deriving DecidableEq, Repr

/-- A waggle message in flight: the link, the direction and the bytes (R29, R30). -/
structure WagSent where
  link : Nat
  toFollower : Bool
  bytes : WaggleMsg
  deriving DecidableEq, Repr

/-- A FW_SLOT_WRITE under way (R55). -/
structure FwWrite where
  mbx : Nat
  tag : BitVec 16
  target : Bool
  slot : Nat
  image : FwImage
  deriving DecidableEq, Repr

/-- A FW_ROLLBACK_ADVANCE under way (R56). -/
structure FwAdvance where
  mbx : Nat
  tag : BitVec 16
  target : Bool
  version : Nat
  deriving DecidableEq, Repr

/-- An access of the host to device memory that waits (R43, R324). -/
structure WinAccess where
  addr : Nat
  size : Nat
  bytes : Option (List Byte) := none
  deriving DecidableEq, Repr

/-- The package, its boot and its links (R13-R56); `watch` is a mark of the model's own: whether an access that a command makes was
found to wait, none outside such a command (`State.unlessStalled`); `winHeld` are the host's accesses that wait. -/
structure Package where
  inputs : PkgInputs := {}
  sfd : SfdInputs := {}
  rejectReason : Table Nat := []
  links : Table WagLink := []
  wagSent : List WagSent := []
  partnerDesc : List Byte := []
  partnerAdmitted : Bool := false
  retraining : BitVec 10 := 0
  retrainAt : Table Nat := []
  iodFlash : List FwSlot := []
  sfdFlash : List FwSlot := []
  iodFuse : Nat := 0
  sfdFuse : Nat := 0
  iodSlot : Option Nat := none
  sfdSlot : Option Nat := none
  iodImage : FwImage := {}
  sfdImage : FwImage := {}
  fwWrite : Option FwWrite := none
  fwAdvance : Option FwAdvance := none
  epoch : Byte := 0
  heldInReset : Bool := false
  perstLow : Bool := false
  endpointUp : Bool := false
  pcieWidth : Nat := 0
  pcieRate : Nat := 0
  sfdPowered : Bool := false
  iodTestFail : BitVec 64 := 0
  iodTimersOk : Bool := true
  warmReset : Bool := false
  shortTrainEnded : BitVec 4 := 0
  shortTrainPassed : BitVec 4 := 0
  trained : BitVec 4 := 0
  lanes : Table (Option (List Nat)) := []
  pllLossSeen : Bool := false
  watch : Option Bool := none
  winHeld : List WinAccess := []
  deriving DecidableEq, Repr

/-- Clocks and power (R44-R68): the PLL and heartbeat monitors, the AVS masters, the power policy and the ramp
limiters (0-3 the pairs, 4 the Eztos die; powers in mW): whether one gates issue, also of latency-critical combs, or fills, the combs
that run filler, the best-effort duty of the last estimate and how much of it is held back (R64). -/
structure Power where
  onBackup : Bool := false
  refLost : Bool := false
  enginesHeld : Bool := false
  cdLossAt : Table (Option Nat) := []
  hbDevA : Nat := 0
  hbDevB : Nat := 0
  hbSent : List (Bool × Bool) := []
  avsTarget : Table Nat := []
  avsNak : Table Nat := []
  standbyOk : Bool := false
  idleMs : Nat := 0
  standbyExitAt : Table (Option Nat) := []
  rampAvg : Table (Option Nat) := []
  rampSum : Table Nat := []
  rampCnt : Table Nat := []
  gating : BitVec 5 := 0
  lcGate : BitVec 5 := 0
  filling : BitVec 5 := 0
  filler : BitVec 64 := 0
  beDuty : Table Nat := []
  shed : Table Nat := []
  deriving DecidableEq, Repr

/-! ## Host attachment and the Hive Interface (spec/03) -/

/-- Memory: (address, byte) pairs in canonical form, addresses strictly rising and no byte 0 listed. -/
abbrev Memory := List Host.Cell

/-- A response that a mailbox remembers (R85). -/
structure Remembered where
  tag : BitVec 16
  cmd : BitVec 16
  bytes : List Byte
  deriving DecidableEq, Repr

/-- A mailbox (R80-R86): MBX_REQ, the copy of the request taken at the doorbell, MBX_RSP, the open session and the
remembered responses, newest first.  MBX_STAT is in the register file. -/
structure Mailbox where
  req : List Byte := []
  copy : List Byte := []
  rsp : List Byte := []
  session : Option (BitVec 32) := none
  remembered : List Remembered := []
  deriving DecidableEq, Repr

/-- What the host's last read returned (R6, R75). -/
inductive HostRead where
  | none
  | data (bytes : List Byte)
  | poisoned (bytes : List Byte)
  | unsupportedRequest
  | completerAbort
  deriving DecidableEq, Repr

/-- An event record without its PHASE, which the ring write supplies (R100). -/
structure EventRec where
  code : Nat
  source : Nat
  severity : Nat
  seq : Nat
  time : Nat
  object : Nat
  status : Nat
  detail : List Byte
  deriving DecidableEq, Repr

/-- The host attachment: mailboxes, 64-bit read latches and write holds (R10), the endpoint's device ID, class code, sizes and BAR2
(R69, R72), MSI-X (R96; `msixTable` holds the first 12 bytes of an entry, its mask bit stands in `msixMask`), the event buffer (R98,
R99) and what the device has written to host memory. -/
structure Hif where
  mbx : Table Mailbox := []
  latch : Table (Option (BitVec 32)) := []
  hold : Table (Option (BitVec 32)) := []
  hostRead : HostRead := .none
  winLog2 : Nat := 28
  deviceId : Nat := 0
  classCode : Nat := 0x120000
  maxPayload : Nat := 512
  maxReadReq : Nat := 4096
  msixTable : Table Nat := []
  msixEnable : Bool := false
  msixMask : BitVec 64 := 0xFFFF_FFFF_FFFF_FFFF
  msixPend : BitVec 64 := 0
  msixSent : List Nat := []
  hostMem : Memory := []
  evtBuf : List EventRec := []
  evtLog : List EventRec := []
  evtSeq : Nat := 0
  evtDrops : Nat := 0
  evtDelay : Option Nat := none
  fwStopped : Bool := false
  deriving DecidableEq, Repr

/-! ## Queues and command lists (spec/04) -/

/-- How a record ended: status, FIELD, DETAIL, FAULT, when (R124), for a record that ends a list by discard the SKIPPED it carries,
whether a completion record is written whatever COMPL says (R402), and whether its list ended with an earlier record (R103). -/
structure RecEnd where
  status : Nat
  field : Nat := 0xFFFF
  detail : Nat := 0
  fault : Bool := false
  discard : Option Nat := none
  force : Bool := false
  time : Nat := 0
  noLast : Bool := false
  deriving DecidableEq, Repr

/-- Where a record stands: fetched and through checks 1-8 of R115; started; ended, with its completion not yet
written (R126). -/
inductive RecPhase where
  | fetched
  | running
  | ended (e : RecEnd)
  deriving DecidableEq, Repr

/-- A record in progress (R113, R115-R118); `table` is the camera table that a FUSE_COLLECT read at its checks (R374, R375). -/
structure Rec where
  seq : Nat
  list : Nat
  bytes : List Byte
  phase : RecPhase := .fetched
  startAt : Nat := 0
  met : Bool := false
  comb : Option Nat := none
  startNs : Nat := 0
  table : List Byte := []
  deriving DecidableEq, Repr

/-- A submitted command list (R112): its units of the ring, how many the device has fetched, the EXPECT_SEQ at its
first record, when that record started (R464), whether a record of it has faulted (R117), and its fetched records that will not be
executed (R117, R118). -/
structure SubList where
  id : Nat
  start : Nat
  units : Nat
  fetched : Nat := 0
  firstSeq : Option Nat := none
  began : Option Nat := none
  faulted : Option Nat := none
  cut : List Rec := []
  deriving DecidableEq, Repr

/-- A list that ended, as the islands see it (R461, R464, R467, R471, R479): its queue's slot, whether its last completion carries
FAULT and which STATUS, and when its first record started. -/
structure ListEnd where
  slot : Nat
  fault : Bool
  status : Nat := 0
  began : Option Nat
  deriving DecidableEq, Repr

/-- A QUEUE_DESTROY under way (R110): its mailbox and TAG, when it came, and whether it has answered with ACCEPTED. -/
structure Leaving where
  mbx : Nat
  tag : BitVec 16
  since : Nat
  accepted : Bool := false
  deriving DecidableEq, Repr

/-- A queue on a doorbell slot (R106-R110).  Its slot registers are in the register file. -/
structure Queue where
  live : Bool := false
  cls : Nat := 0
  log2n : Nat := 0
  vector : Nat := 0xFF
  noHalt : Bool := false
  colony : Option Nat := none
  ring : Nat := 0
  labelMask : BitVec 16 := 0
  cqAddr : Nat := 0
  cqLog2n : Nat := 0
  lists : List SubList := []
  nextList : Nat := 0
  recs : List Rec := []
  flushing : Bool := false
  destroying : Option Leaving := none
  deriving DecidableEq, Repr

/-- A memory object (R288-R292): its device physical address, size, partition (its colony), region and whether it
is host-visible. -/
structure MemObj where
  live : Bool := false
  addr : Nat := 0
  size : Nat := 0
  partition : Nat := 0
  region : Nat := 0
  hostVisible : Bool := false
  deriving DecidableEq, Repr

/-! ## Combs: engines, holds, scratchpad, slots, cache, window store (spec/05, spec/06, spec/07, spec/08) -/

/-- A slot (R179): STATE 0 EMPTY, 1 FULL, 2 STATIC, and COUNT. -/
structure Slot where
  state : Nat := 0
  count : Nat := 0
  deriving DecidableEq, Repr

/-- A change of a slot (R180): releases, or a MARK with CONSUMERS. -/
inductive SlotChange where
  | release (slot : Nat)
  | mark (slot : Nat) (consumers : Nat)
  deriving DecidableEq, Repr

/-- A cell (R135-R138): active and shadow tile (bytes 0-2,047 the elements, 2,048-2,111 the weight scales), the input
buffers (bytes 512 b + n the elements of buffer b, 1,024 + 32 b + n its scales), and the accumulators
((bank × 32 + entry) × 64 + column). -/
structure Cell where
  active : Memory := []
  shadow : Memory := []
  input : Memory := []
  acc : Table Word := []
  deriving DecidableEq, Repr

/-- An effect in a comb's pipeline (R132), which takes place at the end of its schedule cycle. -/
inductive PipeEff where
  | input (cells : BitVec 8) (off : Nat) (bytes : List Byte)
  | emit (cells : BitVec 8) (off : Nat) (bytes : List Byte)
  | shadow (cells : BitVec 8) (off : Nat) (bytes : List Byte)
  | line (off : Nat) (bytes : List Byte)
  | accum (cell : Nat) (entry : Nat) (isInt acc : Bool) (v : List FVal)
  | vreg (lane : Nat) (words : List Word)
  | vbytes (off : Nat) (bytes : List Byte)
  | store (addr : Nat) (bytes : List Byte)
  | cstore (line addr : Nat) (bytes : List Byte)
  | slot (c : SlotChange)
  | ecc (row : Nat) (fatal : Bool)
  deriving DecidableEq, Repr

/-- What a forager executes (R184, R192, R195): the descriptor, the schedule cycle of its issue, and how many of its
slots, in the order of their first access, are admitted, and for how many CCLK cycles the next has waited. -/
structure Xfer where
  desc : Desc
  sched : Nat
  admitted : Nat := 0
  waited : Nat := 0
  deriving DecidableEq, Repr

/-- A forager (R141): its queue of descriptors with their issue cycles, what it executes, and how many entries it freed
that the sequencer does not see yet (R143). -/
structure Forager where
  queue : List (Desc × Nat) := []
  cur : Option Xfer := none
  freed : Nat := 0
  deriving DecidableEq, Repr

/-- A cache line (R187-R189): its DRAM address, dirty sectors and poison. -/
structure Line where
  valid : Bool := false
  addr : Nat := 0
  dirty : BitVec 16 := 0
  poison : Bool := false
  deriving DecidableEq, Repr

/-- A line in the write-back buffer (R188). -/
structure WriteBack where
  addr : Nat
  dirty : BitVec 16
  poison : Bool
  bytes : List Byte
  deriving DecidableEq, Repr

/-- The region of a layer, inclusive bounds clipped to its image (R213). -/
structure Region where
  x0 : Nat
  x1 : Nat
  y0 : Nat
  y1 : Nat
  deriving DecidableEq, Repr

/-- A tile in work (R216-R218): its record, its chain of layer entries, and the regions of R213, the input first. -/
structure Tile where
  record : List Byte
  layers : List (List Byte)
  regions : List Region
  deriving DecidableEq, Repr

/-- An attention descriptor in work (R222, R232, R233, R240): its record and place, the pages it opened by logical
page, the list entries it masks, the allocations it waits for and the pages allocated for it, and its STATUS. -/
structure Attn where
  record : List Byte
  table : Nat
  index : Nat
  opened : List (Nat × Nat) := []
  wanted : Nat := 0
  got : List (Nat × Nat) := []
  status : Nat := 0
  deriving DecidableEq, Repr

/-- A comb (R129-R198).  The hold counters, schedule and wall counts and CMB_STATE are in the register file; `slots`
is the state of the slots and `seen` the state as the sequencer's check sees it: a change by a non-scheduled access
reaches it one wall cycle later (R144, R181).  A byte of `spad` that is not listed is undefined, and reads as a free
value of `spadSeed` (R148, R173), unless `spadZero`: then it was cleared (R475) and reads 0.  `wrote` are the 32-byte words that
its job wrote (R148); `marked` and `lateMarked` the slots that a scheduled and a non-scheduled MARK reached in the last wall cycle,
and `deferred` the MARKs that apply in the next (R183).  `leftOpen` are the pages of attention descriptors that the program left
unended (R232). -/
structure Comb where
  job : Option Nat := none
  rank : Nat := 0
  spad : Table (Option Byte) := []
  spadSeed : Nat := 0
  spadZero : Bool := false
  slots : Table Slot := []
  seen : Table Slot := []
  cells : Table Cell := []
  vregs : Table Word := []
  lines : Memory := []
  pipe : List (Nat × PipeEff) := []
  held : Option (List BOp × Bool) := none
  lastIssued : Bool := false
  stepReq : Bool := false
  wait : Nat := 0
  eccLeft : Nat := 0
  bankLeft : Nat := 0
  eccRows : List Nat := []
  foragers : Table Forager := []
  cacheMode : Nat := 0
  tags : Table Line := []
  plru : Table (BitVec 7) := []
  writeBacks : List WriteBack := []
  fill : Option (Nat × Nat) := none
  fillLag : Bool := false
  missed : List Nat := []
  tile : Option Tile := none
  attn : Option Attn := none
  leftOpen : List Nat := []
  idleAt : Nat := 0
  wrote : List Nat := []
  marked : List Nat := []
  lateMarked : List Nat := []
  deferred : List SlotChange := []
  deriving DecidableEq, Repr

/-! ## Honey pages, sequences (spec/09, spec/10) -/

/-- A honey map entry (R229): STATE 0 FREE, 1 IN_USE, 2 FREEING; a page retired by poison (R306); whether the allocation of the page
after it cleared its LAST (R234, R240); from when a released page is free, in units of 1.6 ns (R260); and when it was
freed or entered its bucket, in the map's own order (R234, R237). -/
structure Honey where
  state : Nat := 0
  pin : Bool := false
  last : Bool := false
  colony : Nat := 0
  refcnt : Nat := 0
  score : Nat := 0
  owner : Nat := 0
  use : Nat := 0
  lpage : Nat := 0
  group : Nat := 0
  gen : Nat := 0
  fmt : Nat := 0
  dcode : Nat := 0
  retired : Bool := false
  cleared : Bool := false
  freeAt : Nat := 0
  stamp : Nat := 0
  deriving DecidableEq, Repr

/-- An allocation request that waits (R233): the comb that sent it, its job, whether the job is a step and the item
index, and the logical page. -/
structure AllocReq where
  comb : Nat
  job : Nat
  step : Bool
  item : Option Nat
  lpage : Nat
  deriving DecidableEq, Repr

/-- The honey map, its order counter, when the last page awaiting release is released (R260), and the pending requests in order of
arrival (R228, R233). -/
structure HoneyMap where
  pages : Table Honey := []
  clock : Nat := 1
  releaseAt : Nat := 0
  reqs : List AllocReq := []
  deriving DecidableEq, Repr

/-- A sequence (R246): STATE 0 FREE, 1 ACTIVE, 2 PARKED, 3 HELD.  `fwOnly` marks a sequence joined with FW_MANAGED. -/
structure Seq where
  state : Nat := 0
  pin : Bool := false
  colony : Nat := 0
  kvFmt : Nat := 0
  dcode : Nat := 0
  parkWhy : Nat := 0
  g : Nat := 0
  owner : Nat := 0
  list : Nat := 0
  listOff : Nat := 0
  npos : Nat := 0
  limit : Nat := 0
  pend : Nat := 0
  lastStep : Nat := 0
  joinSeq : Nat := 0
  user : Nat := 0
  fwOnly : Bool := false
  deriving DecidableEq, Repr

/-- The step of a colony (R251-R258): its step number S; the job, work list and item owners (with NNEW) of the step
that runs, how many of them are firmware items; the SEQ_FINISH and SEQ_CTL records that wait for its update; and when the update of the last step ended. -/
structure Step where
  s : Nat := 0
  job : Option Nat := none
  wl : Nat × Nat := (0, 0)
  items : List (Nat × Nat) := []
  nfw : Nat := 0
  deferred : List (Nat × Nat × Nat × Nat) := []
  endedAt : Nat := 0
  deriving DecidableEq, Repr

/-- The brood table (index 0-4,095), the firmware table (0-16,383), the counters of R244 and the colonies' steps. -/
structure Brood where
  table : Table Seq := []
  fw : Table Seq := []
  nextOwner : Nat := 1
  joinSeq : Nat := 0
  steps : Table Step := []
  deriving DecidableEq, Repr

/-! ## Colonies and jobs (spec/11) -/

/-- A colony (R263-R268): its class, its declared NCOMB, labels, class map, share, AVOID, honey reserve and quota (in
4 KiB units), the combs its LC reservation chose and those of them that have not yet joined, and the mailbox request
that waits for the reservation (R267). -/
structure Colony where
  live : Bool := false
  lc : Bool := false
  ncomb : Nat := 0
  labels : BitVec 16 := 0
  classMap : BitVec 32 := 0
  share : Nat := 0
  avoid : Option Nat := none
  honeyReserve : Nat := 0
  quota : Nat := 0
  quotaUsed : Nat := 0
  guarantee : Nat := 0
  reserved : List Nat := []
  joining : List Nat := []
  waiter : Option (Nat × BitVec 16) := none
  accepted : Bool := false
  deriving DecidableEq, Repr

/-- Where a job stands (R273-R278). -/
inductive JobPhase where
  | building | ready | switching | running | saving | releasing
  deriving DecidableEq, Repr

/-- A live-state entry (R271). -/
structure LiveEntry where
  kind : Nat
  count : Nat
  comb : Nat
  slot : Nat
  nslot : Nat
  obj : Nat
  off : Nat
  reservedOk : Bool
  deriving DecidableEq, Repr

/-- A job, or a forager record in a ready list (R123, R270-R278), keyed by doorbell slot × 65,536 + SEQ: among its times, when its
record passed validation, when the switch of each of its combs began and how long it takes (R276). -/
structure Job where
  live : Bool := false
  slot : Nat := 0
  seq : Nat := 0
  colony : Option Nat := none
  ncomb : Nat := 0
  budget : Nat := 0
  label : Nat := 0
  phase : JobPhase := .ready
  combs : List Nat := []
  readyAt : Nat := 0
  bornAt : Nat := 0
  assignedAt : Nat := 0
  startAt : Nat := 0
  switchAt : List Nat := []
  switchLen : List Nat := []
  faultAt : Nat := 0
  count : Nat := 0
  cacheMode : Nat := 0
  entries : List LiveEntry := []
  opens : List (List (BitVec 32)) := []
  saveStat : Nat := 0
  args : List Byte := []
  forager : Bool := false
  step : Bool := false
  fails : List (Nat × Nat) := []
  deriving DecidableEq, Repr

/-! ## DRAM controllers and bandwidth (spec/12, spec/13) -/

/-- How a request completed: its source, the status and data it got, and which of its words are marked poisoned (R293-R307). -/
structure DramResp where
  source : Nat
  addr : Nat
  status : Nat
  data : List Byte
  poison : List Bool := []
  deriving DecidableEq, Repr

/-- A request on its way with the identity that the network interface gave it (R293, R315): the colony of its label, its class,
the tick at which it entered its present point and the order of its entry into a queue; for a read the data that its words
hold, and word by word whether it was poisoned before the request took effect (R295, R296). -/
structure ChanReq where
  req : DramReq
  colony : Nat := 0
  cls : Nat := 0
  arrival : Nat := 0
  ord : Nat := 0
  data : List Byte := []
  was : List Bool := []
  deriving DecidableEq, Repr

/-- What waits at a point of the on-package network (R43, R297, R318, R324): a request, or the response of one on its way back;
`place` is the port direction that it waits for (4-23, as R332 numbers them), or 24 + 32 d + c before the full queue of
channel c of pair d; `path` are the port directions that follow. -/
structure NetMsg where
  req : ChanReq
  place : Nat
  path : List Nat := []
  resp : Option DramResp := none
  deriving DecidableEq, Repr

/-- A bank of a channel: the open row with its policy and last use, and its refresh state (R294, R299). -/
structure Bank where
  row : Option Nat := none
  policy : Nat := 0
  lastUse : Nat := 0
  due : Nat := 0
  debt : Nat := 0
  deriving DecidableEq, Repr

/-- A channel: its queues, oldest first, drain mode, banks, and the time of its last command parity failure (R283,
R297, R307). -/
structure Chan where
  reads : List ChanReq := []
  writes : List ChanReq := []
  drain : Bool := false
  banks : Table Bank := []
  parityAt : Option Nat := none
  deriving DecidableEq, Repr

/-- A DRAM controller (R298, R308): channels, consecutive cool readings and the scrub pointer (64-byte words). -/
structure Dmc where
  chans : Table Chan := []
  cool : Nat := 0
  scrub : Nat := 0
  deriving DecidableEq, Repr

/-- A range of the partition table (R325): device addresses base to base + size - 1. -/
structure PRange where
  base : Nat
  size : Nat
  partition : Nat
  hostVisible : Bool
  deriving DecidableEq, Repr

/-- The partition-violation filter of one SOURCE (R328): the time of its last event and the failures since. -/
structure PViol where
  lastAt : Nat := 0
  seen : Bool := false
  suppressed : Nat := 0
  deriving DecidableEq, Repr

/-- The DRAM side: controllers, responses, the partition table, freed ranges not yet cleared, credits in thousandths
of a word by point (channel c of pair d is 32 d + c, port direction p is 128 + p) × 17 + colony (16 the system pool),
the round-robin turn of the system labels by point, the bytes of BWR_CLASS by POINT × 4 + class and of BWR_COL_BYTES and
BWR_COL_EXCESS by POINT × 17 + colony (R332), what waits in the network, the order of the next queue entry, and the
firmware's memory plan (R287). -/
structure Mem where
  dmc : Table Dmc := []
  resps : List DramResp := []
  ranges : List PRange := []
  clearing : List (Nat × Nat) := []
  credit : Table Int := []
  turn : Table Nat := []
  clsBytes : Table Nat := []
  colBytes : Table Nat := []
  excess : Table Nat := []
  waiting : List NetMsg := []
  reqOrd : Nat := 0
  pviol : Table PViol := []
  poolPages : Table Nat := []
  dramUnits : Nat := 0
  winMax : Nat := 28
  partner : List PRange := []
  deriving DecidableEq, Repr

/-! ## Ports, sensor registry, time base (spec/14) -/

/-- A registry entry (R338): STATE 0 FREE, 1 ATTACHED, 2 DETACHED. -/
structure RegEntry where
  state : Nat := 0
  bound : Bool := false
  enable : Bool := false
  kind : Nat := 0
  addr : Nat := 0
  port : Nat := 0
  key : Nat := 0
  sensorId : Nat := 0
  gen : Nat := 0
  time : Nat := 0
  frames : Nat := 0
  drops : Nat := 0
  deriving DecidableEq, Repr

/-- A camera frame in reception on a receiver and virtual channel (R334, R351): with the registry entry and its GEN when it
began (R343), its embedded data and its generic short packets (R333). -/
structure CsiFrame where
  isOpen : Bool := false
  entry : Option Nat := none
  gen : Nat := 0
  start : Nat := 0
  lines : Nat := 0
  dtype : Nat := 0
  bad : Bool := false
  cut : Bool := false
  lineStarts : List Nat := []
  bytes : List Byte := []
  embLines : Nat := 0
  embedded : List Byte := []
  shorts : List (Nat × Nat) := []
  deriving DecidableEq, Repr

/-- The ISO 11783 control function of an ISOBUS port (R346): its NAME, its address, when it claimed it, whether it
may send, whether it gave up, and the other NAMEs it knows with their addresses. -/
structure Isobus where
  on : Bool := false
  name : Nat := 0
  selfConfig : Bool := false
  addr : Nat := 254
  claimAt : Nat := 0
  settled : Bool := false
  silent : Bool := false
  others : List (Nat × Nat) := []
  deriving DecidableEq, Repr

/-- A PWM output: period in PCLK steps, the duty that runs, the duty latched for the next period, and the capture of
the start of the period in which the last new duty took effect (R333, R351, R418). -/
structure Pwm where
  period : Nat := 0
  duty : Word := 0
  latched : Option Word := none
  capture : Nat := 0
  deriving DecidableEq, Repr

/-- The ports (R333-R336, R339-R346, R351).  CAN buffers are keyed port × 32 + buffer, camera frames receiver × 16 +
virtual channel; the captures of time messages and PWM periods are in tenths of ns. -/
structure Ports where
  cfg : FwConfig := {}
  registry : Table RegEntry := []
  lastItem : Table Nat := []
  csi : Table CsiFrame := []
  csiFill : Table Nat := []
  csiHdrErr : Table Nat := []
  csiStop : Table (Option Nat) := []
  ethUp : Table (Option Nat) := []
  ethDown : Table (Option Nat) := []
  ethFill : Table Nat := []
  ethDrops : Table Nat := []
  timeMsgs : List (Nat × List Byte × Nat) := []
  canRx : Table (List CanFrame) := []
  canTx : Table (Option CanFrame) := []
  canDrops : Table Nat := []
  canSent : List (Nat × CanFrame) := []
  canRxCapture : Table Nat := []
  canTxCapture : Table Nat := []
  isobus : Table Isobus := []
  spiCapture : Table Nat := []
  drdyCapture : Table Nat := []
  gpioEdges : Table (List Nat) := []
  gnssBytes : Table (List (Nat × Byte)) := []
  pwm : Table Pwm := []
  deriving DecidableEq, Repr

/-- The time servo (R348-R350, R354): consecutive updates within 100 ns, the last ADJ values (newest first), the
servo's rate estimate, whether LOCKED has been reached, the last offset, when HOLDOVER began, and when Sync was last
used and PPS last seen; TIM_CFG as it is in effect; the grandmaster that was last heard; Sync messages sent, with their captures in
tenths of ns; and whether the last time-of-day sentence of a GNSS receiver was valid. -/
structure Servo where
  good : Nat := 0
  adjs : List Int := []
  rate : Int := 0
  everLocked : Bool := false
  lastOffset : Int := 0
  holdAt : Nat := 0
  ppsAt : Option Nat := none
  cfg : Nat := 0xF8000001
  gm : Option Nat := none
  syncSent : List (Nat × Nat) := []
  todOk : Bool := false
  deriving DecidableEq, Repr

/-! ## Fusion engine (spec/15) -/

/-- An item of nectar on its way into the engine's intake (R342, R343, R357): the SENSOR_ID and KIND of its registry entry, its
capture with the part of it below 1 ns in tenths, BAD, the CSI-2 data type, its bytes, a frame's embedded data, and from when its
check is complete (R430). -/
structure Nectar where
  sensor : Nat := 0
  kind : Nat := 0
  capture : Nat
  bad : Bool := false
  dtype : Nat := 0
  bytes : List Byte := []
  sub : Nat := 0
  embedded : List Byte := []
  due : Nat := 0
  deriving DecidableEq, Repr

/-- A lidar packet kept for the open instants (R357, R363): its calibration slot, capture, arrival and bytes.  Its points are
decoded at a close, by the calibration that holds then. -/
structure Packet where
  slot : Nat
  capture : Nat
  arrival : Nat
  bytes : List Byte
  deriving DecidableEq, Repr

/-- A lidar return of an instant (R356, R364, R365): calibration slot, sample time, channel, azimuth, both
echoes and the dust likelihood. -/
structure Point where
  slot : Nat
  t : Int
  ch : Nat
  az : Nat
  r1 : Word
  i1 : Nat
  r2 : Word
  i2 : Nat
  dust : Word
  deriving DecidableEq, Repr

/-- A stored camera frame (R356, R358): slot, frame-start capture, arrival, BAD and pixels.  Its mid-exposure time follows from the
calibration that an instant uses (R363). -/
structure Frame where
  slot : Nat
  start : Nat
  arrival : Nat
  bad : Bool
  bytes : List Byte
  deriving DecidableEq, Repr

/-- The motion of an instant (R366, R367): the pose as QW..TZ, the quality Q, EGO_INIT and EGO_DEGRADED, and how many corners the tracker
followed in each camera (R379). -/
structure Motion where
  pose : List Word := []
  q : Word := 0
  init : Bool := true
  degraded : Bool := false
  tracks : List Nat := []
  deriving DecidableEq, Repr

/-- An instant closed and fixed for processing (R355, R376). -/
structure Closed where
  k : Nat
  closeAt : Nat
  points : List Point
  frames : List (Nat × Frame)
  motion : Motion
  overflow : Bool
  late : Table Nat
  drop : Table Nat
  calibs : Table (List Byte)
  collectors : List (Nat × Nat)
  deriving DecidableEq, Repr

/-- The fusion engine (R355-R381): its parameters, calibrations by slot, the nectar on its way in, what the open instants hold, the per-slot
LATE and DROP counts since the last close, the motion of the last instant and its surface echoes at its T_k (R366), and the instant in
processing. -/
structure Fusion where
  period : Nat := 50
  nMin : Nat := 3
  occHi : Nat := 179
  freeLo : Nat := 77
  holdoff : Nat := 5000
  z0 : Int := -200
  calibs : Table (List Byte) := []
  calibRef : Table (Nat × Nat) := []
  packets : List Packet := []
  frames : List Frame := []
  arriving : List Nectar := []
  intake : List (Nat × Nat) := []
  late : Table Nat := []
  drop : Table Nat := []
  motion : Motion := {}
  freshMotion : Bool := true
  scan : List (Word × Word × Word) := []
  overflow : Bool := false
  nextClose : Option Nat := none
  closed : Option Closed := none
  deriving DecidableEq, Repr

/-! ## Motion planner (spec/16) -/

/-- The result of a search and what it writes (R400-R403). -/
structure PlanOut where
  samples : List (List Word) := []
  cand : Nat := 0xF
  found : Nat := 0
  stop : Bool := true
  stopBlocked : Bool := false
  noOcc : Bool := false
  noPrev : Bool := false
  timeout : Bool := false
  cost : Nat := 0
  expanded : Nat := 0
  t0 : Nat := 0
  deriving DecidableEq, Repr

/-- What a search knows of a reached lattice state (R395). -/
structure Node where
  g : Nat := 0xFFFFFF
  t : Nat := 0
  k : Nat := 0
  a : Nat := 0
  parent : Option (Nat × Nat) := none
  deriving DecidableEq, Repr

/-- A search: the state table, the buckets as (bucket, state), the candidates, and the states expanded. -/
structure Search where
  tab : Table Node := []
  buckets : List (Nat × Nat) := []
  cand : List Nat := []
  expanded : Nat := 0
  deriving DecidableEq, Repr

/-- A PLAN that holds the search engine (R395, R388): its record, its start, the bank it pinned, and after the search
its output. -/
structure PlanRun where
  slot : Nat
  seq : Nat
  startAt : Nat
  bank : Option Nat
  out : Option PlanOut := none
  deriving DecidableEq, Repr

/-- A record that holds the load engine (R385, R388, R389); `bank` for an OCC_LOAD. -/
structure LoadRun where
  slot : Nat
  seq : Nat
  lib : Bool
  bank : Nat
  deriving DecidableEq, Repr

/-- The motion planner: the two banks, the library as loaded with the object it came from, the trajectory last
written for each context (as the bytes of R403), the state table, buckets and candidates of the last search (R382), and the holders of
the two engines. -/
structure Planner where
  bank0 : Memory := []
  bank1 : Memory := []
  lib : List Byte := []
  libRef : Option (Nat × Nat) := none
  traj : Table (List Byte) := []
  work : Search := {}
  run : Option PlanRun := none
  load : Option LoadRun := none
  deriving DecidableEq, Repr

/-! ## Control engine and check-value units (spec/17, spec/18) -/

/-- A value sampled at a port with its sample time in time-base ns and the tick it became usable (R413). -/
structure Sample where
  value : Word
  time : Nat
  at_ : Nat
  deriving DecidableEq, Repr

/-- A control loop (R407-R418): its loop object, the newest sample and the last one used, whether a sample is kept (R415),
the newest CAN setpoint, when it last triggered, when the trigger that waits for evaluation took place, and the sample it
picked.  The integral, the last output and the loop's state are in the register file. -/
structure Loop where
  obj : List Byte := []
  ref : Nat × Nat := (0, 0)
  newest : Option Sample := none
  used : Option Sample := none
  kept : Bool := false
  setpoint : Option Word := none
  lastTrig : Option Nat := none
  triggered : Option Nat := none
  pick : Option Sample := none
  ePrev : Word := 0
  yPrev : Nat := 0
  first : Bool := true
  mirrorI : Word := 0
  deriving DecidableEq, Repr

/-- The control engine: the loops and the trajectory of each context, as the bytes of R403 (none: empty). -/
structure Control where
  loops : Table Loop := []
  traj : Table (List Byte) := []
  resume : BitVec 32 := 0
  deriving DecidableEq, Repr

/-- A shared check-value unit (R421-R427): its parameter block; the running value and VALID are registers. -/
structure CvUnit where
  params : Option (List Byte) := none
  deriving DecidableEq, Repr

/-- A sensor channel (R428-R431). -/
structure CvChan where
  armed : Bool := false
  index : Nat := 0
  skip : Nat := 0
  params : List Byte := []
  gen : Nat := 0
  deriving DecidableEq, Repr

/-- The check-value units and channels, and the slot whose queue a unit serves; when each channel last changed, in ns, and what it
was before (R431). -/
structure CheckValue where
  units : Table CvUnit := []
  binding : Table (Option Nat) := []
  chans : Table CvChan := []
  changed : Table Nat := []
  was : Table CvChan := []
  deriving DecidableEq, Repr

/-! ## Safety islands and monitoring (spec/19, spec/20) -/

/-- One copy of a configuration record (R452, R453): its 64 bytes and whether every word reads without an uncorrectable
error. -/
structure RecCopy where
  bytes : List Byte
  intact : Bool
  deriving DecidableEq, Repr

/-- The join of island B (R436-R438): whether island B is ready, whether attempts go on or have ended, when the first
and the last JOIN_HELLO went, whether a JOIN_CONFIRM is out, the current nonces with island A's earlier ones, the Eztos word that island B
was told, the messages sent on link 8 (to island B, bytes), and whether link 8 was lost in service (R43). -/
structure Join where
  ready : Bool := false
  trying : Bool := false
  barred : Bool := false
  service : Bool := false
  firstAt : Option Nat := none
  lastAt : Nat := 0
  confirmSent : Bool := false
  na : List Byte := []
  nb : List Byte := []
  bNa : List Byte := []
  olds : List (List Byte) := []
  bWord : List Byte := []
  lost : Bool := false
  sent : List (Bool × List Byte) := []
  jobsHeld : Bool := false
  deriving DecidableEq, Repr

/-- A guard (R461): whether it is armed and the tick of its last kick. -/
structure Guard where
  armed : Bool := false
  last : Nat := 0
  deriving DecidableEq, Repr

/-- A summary that a checker holds: its frame, its values, and when it was copied (R467). -/
structure Summary where
  frame : Nat
  vals : List Word
  copiedAt : Nat
  deriving DecidableEq, Repr

/-- A checker (R467-R469): the summaries that each side holds, oldest first, and the last frame decided.  Its HIST is in the register file; `due` are the sides whose queue completed a list and whose
summary is not copied yet. -/
structure Checker where
  p : List Summary := []
  s : List Summary := []
  last : Option Nat := none
  dueP : Bool := false
  dueS : Bool := false
  deriving DecidableEq, Repr

/-- A golden record (R471, R472): kicks since counting began, a due run with the kicks it waited, the next list, frames
counted, whether a released list runs, and consecutive mismatches. -/
structure Golden where
  kicks : Nat := 0
  waiting : Option Nat := none
  g : Nat := 0
  frames : Nat := 0
  bad : Nat := 0
  deriving DecidableEq, Repr

/-- A function restart under way (R473-R476): the class and, for tensor, the colonies; what found it, and t0. -/
structure Restart where
  cls : Nat
  colonies : List Nat
  kind : Nat
  index : Nat
  t0 : Nat
  deriving DecidableEq, Repr

/-- A record of the safety log (R479). -/
structure SafRec where
  kind : Nat
  action : Nat
  index : Nat
  seq : Nat
  time : Nat
  value : Nat
  status : Nat
  deriving DecidableEq, Repr

/-- A lock-step pair as a debugger sees it (R439, R451): whether it halted it, the core registers and the shared memory (R433,
R441) as the debugger has written them since the halt (what it has not written is a free value of `seed`), the breakpoints and
the last debug response; its operating ticks since its last passed test and the seconds it last reported as overdue (R447); the
cause of its stop, its last test's failing groups, whether island B refuses debug certificates (R540), and what it holds itself of stop, halt, debug and corrected words: the bits of SAF_ISL_STATUS and SAF_MEM show
those of island B only as far as it reports them (R455);
the first fault that its collector recorded, as cause, group and syndrome (R442); whether island A has recorded the end of its last test;
and of island B its copies of the reports of island A (R435). -/
structure Island where
  debugHalted : Bool := false
  coreRegs : Table (Option Word64) := []
  breakpoints : List Nat := []
  sram : Table (Option Byte) := []
  seed : Nat := 0
  response : List Byte := []
  ageTicks : Nat := 0
  posted : Nat := 0
  stopCause : Nat := 0
  testFail : BitVec 64 := 0
  testBad : Bool := false
  stop : Bool := false
  halted : Bool := false
  debug : Bool := false
  debugDeny : Bool := false
  ce : Nat := 0
  fault : Option (Nat × Nat × Nat) := none
  testTold : Bool := false
  reports : List SafRec := []
  deriving DecidableEq, Repr

/-- A SAFETY_TEST under way (R448). -/
structure SafTest where
  mbx : Nat
  tag : BitVec 16
  islands : BitVec 2
  deriving DecidableEq, Repr

/-- A GRD_CFG write under way (R459). -/
structure CfgWrite where
  island : Nat
  index : Nat
  bytes : List Byte
  deriving DecidableEq, Repr

/-- A LOG_READ under way (R480). -/
structure LogRead where
  mbx : Nat
  tag : BitVec 16
  addr : Nat
  bytes : List Byte
  deriving DecidableEq, Repr

/-- The safety side.  Configuration copies are keyed island × 128 + index; `inForce` holds the records as loaded at
their last passed vote; `held` are record writes that wait for the end of a restart; `sfdCan` and the CAN buffers take
the stop frames; `frameAt` is when each stop frame was last sent; `stg` is the copy of the log on the SSDs of STG0 and STG1 (R333, R479);
`restartCopies` are the restarts of which island B holds a copy and has seen no end (R435, R476). -/
structure Safety where
  islA : Island := {}
  islB : Island := {}
  join : Join := {}
  copies : Table (List RecCopy) := []
  inForce : Table (List Byte) := []
  write : Option CfgWrite := none
  held : List CfgWrite := []
  test : Option SafTest := none
  logReads : List LogRead := []
  guards : Table Guard := []
  deadlines : Table (List Nat) := []
  checkers : Table Checker := []
  golden : Table Golden := []
  restarts : List Restart := []
  restartCopies : List Restart := []
  log : List SafRec := []
  logSeq : Nat := 0
  frameAt : Table (Option Nat) := []
  sfdCan : List CanFrame := []
  stg : Table (List SafRec) := []
  deriving DecidableEq, Repr

/-! ## Thermal management (spec/21) -/

/-- A thermal domain (R487-R493): the sums of its window, the filler power of R492 that runs on its idle combs in mW, its ledger
(`partialWin` while the present window began before the ledger did), since when its forecast has stood at T_THROTTLE or above with
nothing left to relieve it and whether KIND 3 has told so, and its warnings. -/
structure Domain where
  winSum : Int := 0
  winCnt : Nat := 0
  hasS : Bool := false
  filler : Nat := 0
  partialWin : Bool := false
  started : Bool := false
  up : Option Bool := none
  half10 : Nat := 0
  half20 : Nat := 0
  half40 : Nat := 0
  half60 : Nat := 0
  hotMs : Nat := 0
  peak : Option Int := none
  lastTp : Int := 0
  ext : Int := 0
  stuckAt : Option Nat := none
  stuckTold : Bool := false
  warnedAt : Table (Option Nat) := []
  deriving DecidableEq, Repr

/-- The thermal manager (R485-R497): consecutive outlier and 120 °C readings of each sensor, the THERMTRIP_N pin, the
domains, the domains as they stood at the last window boundary (R494), island B's latest samples (R485), when THM_COOLANT was written, the R_est windows (BASE learning sum and count, windows above the threshold),
whether the present 10 s window is
spoilt, the operating ticks that LEDGER_READ reports, until when every domain uses the scheduled source (R488), and the limits of
THM_LIMITS in force since the last review (R489). -/
structure Thermal where
  outlier : Table Nat := []
  trip : Table Nat := []
  tripped : Bool := false
  doms : Table Domain := []
  ledger : Table Domain := []
  uathal : List Int := []
  coolantAt : Option Nat := none
  learnSum : Nat := 0
  learnCnt : Nat := 0
  overCnt : Nat := 0
  spoilt : Bool := true
  opTicks : Nat := 0
  schedUntil : Nat := 0
  warn : Nat := 0x64
  throttle : Nat := 0x69
  deriving DecidableEq, Repr

/-! ## Swarm links (spec/22) -/

/-- A flit in a port's replay buffer (R502). -/
structure SentFlit where
  seq : Nat
  bytes : List Byte
  deriving DecidableEq, Repr

/-- A flit that waits for a place in a replay buffer (R502). -/
structure HeldFlit where
  type : Nat
  hops : Nat
  dst : Nat
  src : Nat
  payload : List Byte
  deriving DecidableEq, Repr

/-- A swarm port (R500-R504): link sequence numbers, whether it discards flits until the expected one, the replay buffer, the oldest SEQ
that the peer has not acknowledged, the flits that wait for a place in the buffer, the
flit that is being replayed and how often, the peer that its HELLO named (device number, Eztos IDN_DIE word), whether HELLO and
DONE were sent, the last waggle message sent (TYPE, SEQ, payload), when, and how often it was retransmitted (R32), retraining and since when,
and when the last flit arrived.  Its STATE, PEER, REASON and RETRAINS are in the
register file. -/
structure SwPort where
  txSeq : Nat := 0
  rxNext : Nat := 0
  discarding : Bool := false
  replay : List SentFlit := []
  unacked : Nat := 0
  held : List HeldFlit := []
  replayFrom : Option Nat := none
  replays : Nat := 0
  peer : Option (Nat × Nat) := none
  helloSent : Bool := false
  doneSent : Bool := false
  lastWag : Option (Nat × Nat × List Byte) := none
  wagAt : Nat := 0
  tries : Nat := 0
  retraining : Bool := false
  retrainAt : Nat := 0
  lastFlit : Nat := 0
  deriving DecidableEq, Repr

/-- What a device has advertised (R504): the number of its newest advertisement, its Eztos IDN_DIE word and its JOINED ports with
their peers. -/
structure Advert where
  present : Bool := false
  seq : Nat := 0
  die : Nat := 0
  peers : List (Nat × Nat) := []
  deriving DecidableEq, Repr

/-- A SWARM_COPY or SWARM_SIGNAL in flight (R505, R508): its queue and SEQ, its device, the tags not yet answered, and the route
of its requests as (device, port, next device). -/
structure SwOut where
  slot : Nat
  seq : Nat
  dev : Nat
  tags : List Nat
  path : List (Nat × Nat × Nat)
  deriving DecidableEq, Repr

/-- The swarm side: ports, adverts by device number, records in flight, the next request tag, the number of the
last advertisement, and the flits sent (port, bytes).
The exports are in the register file, one bank per export (R506). -/
structure Swarm where
  ports : Table SwPort := []
  adverts : Table Advert := []
  outs : List SwOut := []
  nextTag : Nat := 0
  advSeq : Nat := 0
  sent : List (Nat × List Byte) := []
  deriving DecidableEq, Repr

/-! ## The machine -/

/-- Why the machine stops with a fault.  No command of the table stops it: the one constructor is never raised.
Safe: nothing is claimed of a stopped machine. -/
inductive Fault where
  /-- Raised by no meaning; kept so that the type has an inhabitant. Safe. -/
  | stopped
  deriving DecidableEq, Repr

/-- Why a command has no meaning. -/
inductive Refusal where
  /-- Raised by Dispatch.lean for a command that is not modelled yet. Safe: no next state is claimed. -/
  | notModelled (mnemonic : String)
  deriving DecidableEq, Repr

/-- The whole machine.
`regs`: the host-visible register file, values by BAR0 offset + 2^22 × bank (an unlisted register holds 0).
`tclk`: TCLK ticks of 8 ns since reset (R5). `free`: the counter that free values are drawn with.
`pending`: the commands that wait, first in, first out. -/
structure State where
  pending : List Instr := []
  tclk : Nat := 0
  free : Nat := 0
  regs : Table Word64 := resetRegs
  pkg : Package := {}
  pwr : Power := {}
  hif : Hif := {}
  queues : Table Queue := []
  objs : Table MemObj := []
  listEnds : List ListEnd := []
  listStarts : List (Nat × Nat) := []
  dram : Memory := []
  poison : List Nat := []
  combs : Table Comb := []
  spdRead : Option (Nat × Nat) := none
  honey : HoneyMap := {}
  brood : Brood := {}
  colonies : Table Colony := []
  jobs : Table Job := []
  unsaved : Table Nat := []
  mem : Mem := {}
  ports : Ports := {}
  servo : Servo := {}
  fus : Fusion := {}
  pln : Planner := {}
  ctl : Control := {}
  cv : CheckValue := {}
  saf : Safety := {}
  thm : Thermal := {}
  swm : Swarm := {}
  deriving DecidableEq, Repr

/-- The machine right after reset: every register at its reset value (R11), and every field the spec gives no reset
value at the value the assumption log names. -/
def State.reset : State := {}

/-- What a meaning answers. -/
abbrev Out := Host.Outcome State Fault Refusal

end Sys2Proof.Machine
end

