-- ==== Sys2Proof/Machine/Ops.lean ====
section
/-!
DEFINITION. The named operations that every meaning is written with: sparse tables, bytes and little-endian words,
CRC-16, register fields, time, free values, DRAM with poison, memory objects and handles, MSI-X, events.
-/
namespace Sys2Proof.Machine

/-! ## Sparse tables -/

/-- What a table holds at key `k`; `d` where nothing is listed. -/
def tget {α : Type} (d : α) : Table α → Nat → α
  | [], _ => d
  | (k', v) :: r, k => if k' = k then v else tget d r k

/-- The table with `v` at key `k`, in canonical form: keys rising, no entry equal to `d`. -/
def tset {α : Type} [DecidableEq α] (d : α) : Table α → Nat → α → Table α
  | [], k, v => if v = d then [] else [(k, v)]
  | (k', w) :: r, k, v =>
    if k < k' then (if v = d then (k', w) :: r else (k, v) :: (k', w) :: r)
    else if k = k' then (if v = d then r else (k, v) :: r)
    else (k', w) :: tset d r k v

/-- The table with the entry at `k` changed by `f`. -/
def tmod {α : Type} [DecidableEq α] (d : α) (t : Table α) (k : Nat) (f : α → α) : Table α :=
  tset d t k (f (tget d t k))

/-- The table with every listed entry changed by `f`. -/
def tmap {α : Type} (f : α → α) : Table α → Table α
  | [] => []
  | (k, v) :: r => (k, f v) :: tmap f r

/-- A key below every key of the table. -/
def keysAbove {α : Type} (k : Nat) : Table α → Bool
  | [] => true
  | (k', _) :: _ => decide (k < k')

/-- The canonical form: keys strictly rising, and no entry equal to `d`. -/
def twf {α : Type} [DecidableEq α] (d : α) : Table α → Bool
  | [] => true
  | (k, v) :: r => decide (v ≠ d) && keysAbove k r && twf d r

/-- The keys of a table's entries that satisfy `p`. -/
def tkeys {α : Type} (t : Table α) (p : Nat → α → Bool) : List Nat :=
  (t.filter fun e => p e.1 e.2).map (·.1)

/-! ## Lists and bytes -/

/-- The list with element `n` changed by `f`; unchanged where it has no element `n`. -/
def modNth {α : Type} (f : α → α) : Nat → List α → List α
  | _, [] => []
  | 0, x :: xs => f x :: xs
  | n + 1, x :: xs => x :: modNth f n xs

/-- `n` bytes of `x`, little-endian (R4). -/
def leBytes : Nat → Nat → List Byte
  | 0, _ => []
  | n + 1, x => BitVec.ofNat 8 x :: leBytes n (x / 256)

/-- The number that bytes spell, little-endian (R4). -/
def leNat : List Byte → Nat
  | [] => 0
  | b :: bs => b.toNat + 256 * leNat bs

/-- The number in bytes `off` to `off + n - 1` of a record or message (R4); bytes beyond its end count as 0. -/
def field (bs : List Byte) (off n : Nat) : Nat := leNat ((bs.drop off).take n)

/-- Bits `[lo + w - 1 : lo]` of a number. -/
def bitsOf (x lo w : Nat) : Nat := x / 2 ^ lo % 2 ^ w

/-- Whether every byte of a stretch is 0. -/
def allZero (bs : List Byte) (off n : Nat) : Bool := ((bs.drop off).take n).all (· == 0)

/-- A list of bytes cut or zero-padded to `n`. -/
def padTo (n : Nat) (bs : List Byte) : List Byte := bs.take n ++ List.replicate (n - bs.length) 0

/-- The bytes of `bs` replaced from offset `off` by `new`. -/
def patch (bs : List Byte) (off : Nat) (new : List Byte) : List Byte :=
  bs.take off ++ new ++ bs.drop (off + new.length)

/-- `x` as a 32-bit two's complement number. -/
def toS32 (x : Nat) : Int := if x % 2 ^ 32 < 2 ^ 31 then (x % 2 ^ 32 : Nat) else (x % 2 ^ 32 : Nat) - 2 ^ 32

/-- `x` as a 16-bit two's complement number. -/
def toS16 (x : Nat) : Int := if x % 2 ^ 16 < 2 ^ 15 then (x % 2 ^ 16 : Nat) else (x % 2 ^ 16 : Nat) - 2 ^ 16

/-- An integer in `w`-bit two's complement. -/
def ofInt (w : Nat) (x : Int) : Nat := (x % (2 ^ w : Nat)).toNat

/-- Rounding up a quotient. -/
def ceilDiv (a b : Nat) : Nat := (a + b - 1) / b

/-- One bit step of the CRC of R19. -/
def crcBit (c : BitVec 16) : BitVec 16 := if c.msb then (c <<< 1) ^^^ 0x1021#16 else c <<< 1

/-- One byte step of the CRC of R19. -/
def crcByte (c : BitVec 16) (b : Byte) : BitVec 16 :=
  crcBit (crcBit (crcBit (crcBit (crcBit (crcBit (crcBit (crcBit (c ^^^ (b.zeroExtend 16 <<< 8)))))))))

/-- CRC-16, polynomial 0x1021, initial value 0xFFFF, no reflection, no final XOR (R19). -/
def crc16 (bs : List Byte) : BitVec 16 := bs.foldl crcByte 0xFFFF#16

/-! ## Register fields -/

/-- The mask of bits `[lo + w - 1 : lo]`. -/
def bitMask (lo w : Nat) : Word64 := BitVec.ofNat 64 (2 ^ w - 1) <<< lo

/-- Bits `[lo + w - 1 : lo]` of a register. -/
def getBits (v : Word64) (lo w : Nat) : Nat := (v.extractLsb' lo w).toNat

/-- A register with bits `[lo + w - 1 : lo]` set to `x` (cut to the field). -/
def setBits (v : Word64) (lo w x : Nat) : Word64 :=
  (v &&& ~~~(bitMask lo w)) ||| ((BitVec.ofNat 64 (x % 2 ^ w)) <<< lo)

/-- What the register file holds at a key. -/
def State.reg (s : State) (off : Nat) : Word64 := tget 0 s.regs off

/-- The state with the register at a key replaced. -/
def State.setReg (s : State) (off : Nat) (v : Word64) : State := { s with regs := tset 0 s.regs off v }

/-- The value of a field. -/
def State.rd (s : State) (f : Fld) : Nat := getBits (s.reg f.off) f.lo f.w

/-- The state with a field set. -/
def State.wr (s : State) (f : Fld) (x : Nat) : State := s.setReg f.off (setBits (s.reg f.off) f.lo f.w x)

/-- Whether a field is not 0. -/
def State.on (s : State) (f : Fld) : Bool := decide (s.rd f ≠ 0)

/-- A field set to 1 or 0. -/
def State.wrB (s : State) (f : Fld) (b : Bool) : State := s.wr f (if b then 1 else 0)

/-- A counter field raised by `n`, saturating. -/
def State.inc (s : State) (f : Fld) (n : Nat := 1) : State := s.wr f (min (s.rd f + n) (2 ^ f.w - 1))

/-- A field raised to the larger of its value and `x`, saturating. -/
def State.raise (s : State) (f : Fld) (x : Nat) : State := s.wr f (min (max (s.rd f) x) (2 ^ f.w - 1))

/-! ## Time -/

/-- Time-base nanoseconds (R347). -/
def State.now (s : State) : Nat := s.rd TIM_NOW_NS

/-- What one TCLK tick adds to the 96-bit time base: 8 × 2^32 + ADJ (R347). -/
def State.tickInc (s : State) : Int := 8 * 2 ^ 32 + toS32 (s.rd TIM_ADJ_ADJ)

/-- The 96-bit time base as one number of 2^-32 ns. -/
def State.time96 (s : State) : Nat := s.now * 2 ^ 32 + s.rd TIM_FRAC_FRAC

/-- The state with the time base set to `t` units of 2^-32 ns. -/
def State.setTime96 (s : State) (t : Nat) : State :=
  (s.wr TIM_NOW_NS (t / 2 ^ 32)).wr TIM_FRAC_FRAC t

/-- Whether a comb of the job is halted under DEBUG (R153, R273). -/
def State.jobHalted (s : State) (j : Job) : Bool := j.combs.any fun g => s.on (CMB_DBG_HALTED.idx g)

/-- A running job's budget count over `n` ticks: it pauses while a comb of the job is halted under DEBUG (R273). -/
def State.countJob (s : State) (n : Nat) (j : Job) : Job :=
  if j.phase = .running ∧ s.jobHalted j = false then { j with count := j.count + n } else j

/-- The operating time of the islands over `n` ticks: it counts in the Active state (R447, R59). -/
def State.ageIslands (s : State) (n : Nat) : Safety :=
  if s.rd IDN_BOOT_STAGE = 6 ∧ s.on PWR_STATUS_LOW_POWER = false then
    { s.saf with islA := { s.saf.islA with ageTicks := s.saf.islA.ageTicks + n },
                 islB := { s.saf.islB with ageTicks := s.saf.islB.ageTicks + n } }
  else s.saf

/-- The operating time that LEDGER_READ reports, over `n` ticks (R447, R494). -/
def State.ageThermal (s : State) (n : Nat) : Thermal :=
  if s.rd IDN_BOOT_STAGE = 6 ∧ s.on PWR_STATUS_LOW_POWER = false then { s.thm with opTicks := s.thm.opTicks + n } else s.thm

/-- `n` TCLK ticks pass: the tick counter, the time base while the Eztos root PLL is locked (R347), the budget
counts of running jobs (R273) and the operating times (R447, R494). -/
def State.elapse (s : State) (n : Nat) : State :=
  let s1 := { s with tclk := s.tclk + n, jobs := tmap (s.countJob n) s.jobs, saf := s.ageIslands n, thm := s.ageThermal n }
  if s1.on PWR_STATUS_PLL_LOCK_IOD then
    s1.setTime96 ((((s1.time96 : Nat) : Int) + n * s1.tickInc) % (2 ^ 96 : Nat)).toNat
  else s1

/-- Time passes until tick `t`; nothing passes when it is already reached. -/
def State.waitTo (s : State) (t : Nat) : State := if s.tclk < t then s.elapse (t - s.tclk) else s

/-! ## Free values -/

/-- The state after drawing `n` free values. -/
def State.draw (s : State) (n : Nat) : State := { s with free := s.free + n }

/-- `n` free bytes, the next to be drawn. -/
def State.freeBytes (s : State) : Nat → List Byte
  | 0 => []
  | n + 1 => Config.freeByte s.free :: (s.draw 1).freeBytes n

/-! ## DRAM -/

/-- The byte at a device physical address; an unlisted one reads 0. -/
def memGet (m : Memory) (a : Nat) : Byte := tget 0 m a

/-- Memory with one byte written. -/
def memSet (m : Memory) (a : Nat) (b : Byte) : Memory := tset 0 m a b

/-- The canonical form of memory: addresses strictly rising, no byte 0 listed. -/
def Memory.wf (m : Memory) : Bool := twf (0 : Byte) m

/-- `n` bytes from address `a`. -/
def memRead (m : Memory) (a : Nat) : Nat → List Byte
  | 0 => []
  | n + 1 => memGet m a :: memRead m (a + 1) n

/-- Memory with bytes written from address `a`. -/
def memWrite (m : Memory) (a : Nat) : List Byte → Memory
  | [] => m
  | b :: bs => memWrite (memSet m a b) (a + 1) bs

/-- The boundary between the die-affine and the interleaved region in each die's range (R286). -/
def State.affineTop (s : State) : Nat := (16 - s.rd DMC_MAP_ISHARE) * 2 ^ 30

/-- The memory die and the die-local offset that a device address selects (R286). -/
def State.dieOffset (s : State) (a : Nat) : Nat × Nat :=
  let d := a / 2 ^ 34 % 4
  let q := a % 2 ^ 34
  let b := s.affineTop
  if q < b then (d, q)
  else
    let l := d * (s.rd DMC_MAP_ISHARE * 2 ^ 30) + (q - b)
    (l / 4096 % 4, b + l / 16384 * 4096 + l % 4096)

/-- Whether the pair that holds a device address is excluded (R14). -/
def State.addrExcluded (s : State) (a : Nat) : Bool := s.on (DMC_STATUS_EXCLUDED.idx (s.dieOffset a).1)

/-- Whether a 64-byte word holds poison (R305). -/
def State.isPoisoned (s : State) (w : Nat) : Bool := s.poison.contains w

/-- A word number added to a rising list. -/
def insertWord (w : Nat) : List Nat → List Nat
  | [] => [w]
  | x :: xs => if w < x then w :: x :: xs else if w = x then x :: xs else x :: insertWord w xs

/-- A 64-byte word stored poisoned (R305). -/
def State.poisonWord (s : State) (w : Nat) : State := { s with poison := insertWord w s.poison }

/-- Whether one of the words that `n` bytes from `a` touch is poisoned. -/
def State.rangePoisoned (s : State) (a n : Nat) : Bool :=
  s.poison.any fun w => decide (a / 64 ≤ w ∧ w * 64 < a + n)

/-- One byte stored; a write into a poisoned word zeroes the word's other bytes and clears the poison (R296). -/
def State.pokeByte (s : State) (a : Nat) (b : Byte) : State :=
  if s.isPoisoned (a / 64) then
    { s with dram := memSet (memWrite s.dram (a / 64 * 64) (List.replicate 64 0)) a b,
             poison := s.poison.filter (· ≠ a / 64) }
  else { s with dram := memSet s.dram a b }

/-- A stretch of DRAM set to zeros. -/
def State.zeroRange (s : State) (a n : Nat) : State :=
  { s with dram := s.dram.filter fun e => !decide (a ≤ e.1 ∧ e.1 < a + n)
           poison := s.poison.filter fun w => !decide (a ≤ w * 64 ∧ w * 64 < a + n) }

/-- Bytes stored from device address `a`. -/
def State.pokeBytes (s : State) (a : Nat) : List Byte → State
  | [] => s
  | b :: bs => (s.pokeByte a b).pokeBytes (a + 1) bs

/-- The object with an index, where it is live. -/
def State.obj (s : State) (i : Nat) : Option MemObj :=
  let o := tget ({} : MemObj) s.objs i
  if o.live then some o else none

/-- The queue on a slot. -/
def State.queue (s : State) (d : Nat) : Queue := tget ({} : Queue) s.queues d

/-- The state with a slot's queue replaced. -/
def State.setQueue (s : State) (d : Nat) (q : Queue) : State := { s with queues := tset {} s.queues d q }

/-- A handle of a kind (R90): KIND, current EPOCH, INDEX. -/
def State.handle (s : State) (kind i : Nat) : Nat := i % 2 ^ 20 + s.pkg.epoch.toNat * 2 ^ 20 + kind * 2 ^ 28

/-- The index in a handle of a kind and of the current epoch (R90). -/
def State.handleIdx (s : State) (kind h : Nat) : Option Nat :=
  if bitsOf h 28 4 = kind ∧ bitsOf h 20 8 = s.pkg.epoch.toNat then some (h % 2 ^ 20) else none

/-- The live memory object that a handle names (R90). -/
def State.objOf (s : State) (h : Nat) : Option MemObj :=
  match s.handleIdx 1 h with
  | some i => s.obj i
  | none => none

/-- The colony with an index. -/
def State.colony (s : State) (c : Nat) : Colony := tget ({} : Colony) s.colonies c

/-- The state with a colony replaced. -/
def State.setColony (s : State) (c : Nat) (x : Colony) : State := { s with colonies := tset {} s.colonies c x }

/-- The live colony that a handle names (R90, R263). -/
def State.colonyOf (s : State) (h : Nat) : Option Nat :=
  match s.handleIdx 2 h with
  | some i => if (s.colony i).live then some i else none
  | none => none

/-- Whether the fence of an armed WAIT record has reached its target (R119, R120). A poisoned fence never has. -/
def State.fenceMet (s : State) (r : List Byte) : Bool :=
  match s.objOf (field r 16 4) with
  | none => false
  | some o =>
    let a := o.addr + field r 24 8
    !s.isPoisoned (a / 64) && decide (field r 32 8 ≤ leNat (memRead s.dram a 8))

/-- An armed WAIT whose target a write has met keeps that (R120): later writes do not undo it. -/
def State.markRec (s : State) (r : Rec) : Rec :=
  if r.phase = .running ∧ field r.bytes 0 1 = 2 ∧ s.fenceMet r.bytes = true then { r with met := true } else r

/-- After a write, every armed WAIT is compared with its fence (R120). -/
def State.markWaits (s : State) : State :=
  { s with queues := tmap (fun q => { q with recs := q.recs.map s.markRec }) s.queues }

/-- Bytes written to device memory, whoever writes; armed WAITs are compared after it (R120, R295). -/
def State.memStore (s : State) (a : Nat) (bs : List Byte) : State := (s.pokeBytes a bs).markWaits

/-- Reading `n` bytes at a device address: E_LINK for an excluded pair, E_POISON for a poisoned word, else the data
(R305, R306, R116). -/
def State.memLoad (s : State) (a n : Nat) : Nat × List Byte :=
  if s.addrExcluded a then (0x202, List.replicate n 0)
  else if s.rangePoisoned a n then (0x200, memRead s.dram a n)
  else (0, memRead s.dram a n)

/-- The status of reading `n` bytes at a device address, without the data. -/
def State.memStatus (s : State) (a n : Nat) : Nat :=
  if s.addrExcluded a then 0x202 else if s.rangePoisoned a n then 0x200 else 0

/-- What the host's last read returned. -/
def State.hostGets (s : State) (r : HostRead) : State := { s with hif := { s.hif with hostRead := r } }

/-! ## Status codes (R128) -/

abbrev E_LEN : Nat := 0x0001
abbrev E_RANGE : Nat := 0x0002
abbrev E_NOCMD : Nat := 0x0003
abbrev E_OPCODE : Nat := 0x0004
abbrev E_FLAGS : Nat := 0x0005
abbrev E_RESERVED : Nat := 0x0006
abbrev E_HANDLE : Nat := 0x0007
abbrev E_PERM : Nat := 0x0008
abbrev E_NOSESSION : Nat := 0x0009
abbrev E_VERSION : Nat := 0x000A
abbrev E_NORES : Nat := 0x000B
abbrev E_BUSY : Nat := 0x000C
abbrev E_CANCELLED : Nat := 0x000D
abbrev E_ABORT : Nat := 0x000E
abbrev E_SEQ : Nat := 0x000F
abbrev E_LABEL : Nat := 0x0010
abbrev E_ALIGN : Nat := 0x0011
abbrev E_TIMEOUT : Nat := 0x0012
abbrev E_FORMAT : Nat := 0x0013
abbrev E_SIGNATURE : Nat := 0x0014
abbrev E_INTERNAL : Nat := 0x00FF
abbrev E_SHAPE : Nat := 0x0100
abbrev E_BUDGET : Nat := 0x0101
abbrev E_SLOTWAIT : Nat := 0x0102
abbrev E_NOPAGE : Nat := 0x0103
abbrev E_RESTART : Nat := 0x0104
abbrev E_DEGRADED : Nat := 0x0105
abbrev E_CALIB : Nat := 0x0106
abbrev E_STOPPATH : Nat := 0x0107
abbrev E_POISON : Nat := 0x0200
abbrev E_PARTITION : Nat := 0x0201
abbrev E_LINK : Nat := 0x0202
abbrev E_CFGVOTE : Nat := 0x0300

/-! ## MSI-X and host memory (R76, R96) -/

/-- A message of vector `v`: sent when MSI-X is enabled and the vector is not masked, else its pending bit is set (R96).  One that is due
while MSI-X is not enabled stays pending until its own vector is unmasked (DESIGN CHOICE; log entry 137). -/
def State.msix (s : State) (v : Nat) : State :=
  if s.hif.msixEnable ∧ s.hif.msixMask.getLsbD v = false then
    { s with hif := { s.hif with msixSent := s.hif.msixSent ++ [v] } }
  else { s with hif := { s.hif with msixPend := s.hif.msixPend ||| (1 <<< v) } }

/-- Bytes written to host memory. -/
def State.hostWrite (s : State) (a : Nat) (bs : List Byte) : State :=
  { s with hif := { s.hif with hostMem := memWrite s.hif.hostMem a bs } }

/-! ## Events (R98-R102) -/

/-- The severity of an event code (R101). -/
def evtSeverity (code : Nat) : Nat :=
  if code = 0x32 ∨ code = 0x31 ∨ code = 0x51 ∨ code = 0x56 ∨ code = 0x60 ∨ code = 0x61 ∨ code = 0xFE then 2
  else if code = 0x52 ∨ code = 0xFF then 3
  else if code = 2 ∨ code = 3 ∨ code = 0x11 ∨ code = 0x20 then 0
  else 1

/-- The events in the buffer that count against its 512 places: one OVERFLOW record has a place of its own (R99). -/
def evtUsed (b : List EventRec) : Nat := b.length - (if b.any (·.code == 1) then 1 else 0)

/-- The newest `n` of a log (R479). -/
def lastN {α : Type} (n : Nat) (l : List α) : List α := l.drop (l.length - n)

/-- An event arises: it takes the next sequence number, goes to the event log (R479), and waits in the buffer or is
dropped and counted (R99). -/
def State.event (s : State) (code source object status : Nat) (detail : List Byte) : State :=
  let h := s.hif
  let r : EventRec := ⟨code, source, evtSeverity code, h.evtSeq, s.now, object, status, padTo 10 detail⟩
  let h' := { h with evtSeq := (h.evtSeq + 1) % 2 ^ 32, evtLog := lastN 65536 (h.evtLog ++ [r]) }
  if evtUsed h.evtBuf < 512 then { s with hif := { h' with evtBuf := h.evtBuf ++ [r] } }
  else { s with hif := { h' with evtDrops := h.evtDrops + 1 } }.inc EVT_DROPPED_COUNT

/-- The sequence number of the next event (R99). -/
def State.nextEvtSeq (s : State) : Nat := s.hif.evtSeq

/-- COMMAND_DONE for a long mailbox command (R84, R102). -/
def State.commandDone (s : State) (m : Nat) (tag : BitVec 16) (status : Nat) : State :=
  s.event 2 0x1F m status (leBytes 2 tag.toNat)

/-! ## The thermal domains (R492, R493) -/

/-- The thermal manager changed; a domain changed. -/
def State.modThm (s : State) (f : Thermal → Thermal) : State := { s with thm := f s.thm }
def State.modDom (s : State) (e : Nat) (f : Domain → Domain) : State := s.modThm fun t => { t with doms := tmod {} t.doms e f }

/-- A domain's window is given up (R492, R493). -/
def State.dropWindow (s : State) (e : Nat) : State := s.modDom e fun d => { d with winSum := 0, winCnt := 0 }

/-- The present window began before the ledger of a domain runs (R493): comb release, the join of island B. -/
def State.partWindow (s : State) (e : Nat) : State := s.modDom e fun d => { d with partialWin := true }

end Sys2Proof.Machine
end

