-- ==== Sys2Proof/Machine/Network.lean ====
section
/-!
DEFINITION. Requests on their way (R285, R286, R294, R297, R315-R324, R330, R332): who makes a request, the route between the
dies and its port directions, credits and ranks at the channels and port directions, the choice among requests that wait, and
what a transfer counts at each point on its way.
-/
namespace Sys2Proof.Machine

/-! ## Who makes a request (R308, R315-R317) -/

/-- Who makes a request (R308, R315): its label (0x00-0x0F a colony's, else a system label), the colony that holds it,
HONEY, its SOURCE code, the deadline that it supplies where its class is LC-deadline (R317), and its HINT (R294). -/
structure Who where
  label : Nat
  colony : Nat := 0
  honey : Bool := false
  source : Nat
  deadline : Nat := 1024
  hint : Nat := 0
  deriving DecidableEq, Repr

def hostWho : Who := ⟨0x10, 0, false, 0x40, 1024, 0⟩
def firmwareWho : Who := ⟨0x11, 0, false, 0x41, 1024, 0⟩
def partnerWho : Who := ⟨0x12, 0, false, 0x48, 1024, 0⟩
def maintWho : Who := ⟨0x13, 0, false, 0x47, 1024, 0⟩
def honeyMapWho : Who := ⟨0x14, 0, false, 0x42, 1024, 0⟩

/-- The patrol scrubber's reads carry HINT CLOSE (R294, R308). -/
def scrubWho : Who := { maintWho with hint := 2 }

/-- The live colony that holds a task label (R266, R316). -/
def State.labelColony (s : State) (t : Nat) : Option Nat :=
  (List.range 16).find? fun c => (s.colony c).live && (s.colony c).labels.getLsbD t

/-- The regulation class of a requester's label (R316): 0 LC-deadline, 1 LC, 2 BE, 3 maintenance. -/
def State.whoClass (s : State) (w : Who) : Nat :=
  if w.label < 16 then bitsOf (s.colony w.colony).classMap.toNat (2 * w.label) 2
  else if w.label = 0x10 ∨ w.label = 0x12 then 2
  else if w.label = 0x13 then 3
  else 1

/-- Whose credit a requester spends: its colony's, or the system pool's, 16 (R320, R321). -/
def poolOf (label colony : Nat) : Nat := if 16 ≤ label then 16 else colony

/-! ## Places in a memory die (R285, R286) -/

/-- The fields of a die-local offset: channel, bank, row, burst in row, word in burst (R285). -/
def offCh (o : Nat) : Nat := bitsOf o 9 5
def offBank (o : Nat) : Nat := bitsOf o 17 4 ^^^ bitsOf o 21 4
def offRow (o : Nat) : Nat := bitsOf o 21 13
def offBurst (o : Nat) : Nat := bitsOf o 14 3
def offWord (o : Nat) : Nat := bitsOf o 6 3

/-- The device address of a die-local offset (R286). -/
def State.addrOf (s : State) (d o : Nat) : Nat :=
  let b := s.affineTop
  if o < b then d * 2 ^ 34 + o
  else
    let x := s.rd DMC_MAP_ISHARE * 2 ^ 30
    let l := (o - b) / 4096 * 16384 + d * 4096 + o % 4096
    l / x * 2 ^ 34 + b + l % x

/-- The pieces of `n` bytes from address `a` that lie each within one 512-byte burst, as the network interface splits a transfer
(R293): address and bytes. -/
def burstPieces (a n : Nat) : List (Nat × Nat) :=
  if n = 0 then []
  else (List.range ((a % 512 + n + 511) / 512)).map fun i =>
    let lo := max a (a / 512 * 512 + 512 * i)
    (lo, min (a + n) (a / 512 * 512 + 512 * (i + 1)) - lo)

/-- The 64-byte words that `n` bytes from `a` touch. -/
def touchedWords (a n : Nat) : Nat := if n = 0 then 0 else (a + n - 1) / 64 - a / 64 + 1

/-! ## Controllers -/

def State.dmc (s : State) (d : Nat) : Dmc := tget ({} : Dmc) s.mem.dmc d
def State.setDmc (s : State) (d : Nat) (x : Dmc) : State := { s with mem := { s.mem with dmc := tset {} s.mem.dmc d x } }
def State.chan (s : State) (d c : Nat) : Chan := tget ({} : Chan) (s.dmc d).chans c
def State.setChan (s : State) (d c : Nat) (x : Chan) : State :=
  let m := s.dmc d
  s.setDmc d { m with chans := tset {} m.chans c x }
def Chan.bank (c : Chan) (b : Nat) : Bank := tget ({} : Bank) c.banks b
def Chan.setBank (c : Chan) (b : Nat) (x : Bank) : Chan := { c with banks := tset {} c.banks b x }

/-! ## Routes (R15, R35, R43; log entry 94) -/

/-- A port direction (R332): of link `k`, `dir` 0 from its first-named end to the second. -/
def portDir (k dir : Nat) : Nat := 4 + 2 * k + dir

/-- The other direction of the same port. -/
def portBack (p : Nat) : Nat := if p % 2 = 0 then p + 1 else p - 1

/-- The link of a port direction. -/
def portLink (p : Nat) : Nat := (p - 4) / 2

/-- Whether a ring link carries traffic: it is not DOWN, and both of its dies are included. -/
def State.ringLive (s : State) (k : Nat) : Bool :=
  !(s.on (IDN_LINK_DOWN.idx k)) && s.on (IDN_PKG_INCLUDED.bit (k - 4)) && s.on (IDN_PKG_INCLUDED.bit ((k - 3) % 4))

/-- The route from compute die `a` to compute die `b`: the ring's link or two links upwards where they are live, else through the
Eztos die (R15, R35). -/
def State.ringRoute (s : State) (a b : Nat) : List Nat :=
  let via := [portDir a 1, portDir b 0]
  if a = b then []
  else if b = (a + 1) % 4 then (if s.ringLive (4 + a) then [portDir (4 + a) 0] else via)
  else if a = (b + 1) % 4 then (if s.ringLive (4 + b) then [portDir (4 + b) 1] else via)
  else if s.ringLive (4 + a) ∧ s.ringLive (4 + (a + 1) % 4) = true then [portDir (4 + a) 0, portDir (4 + (a + 1) % 4) 0]
  else via

/-- The port directions from die `x` to the controller of pair `d`: dies 0-3 are the compute dies, 4 the Eztos die, 6 the
partner die. -/
def State.routeTo (s : State) (x d : Nat) : List Nat :=
  if x < 4 then s.ringRoute x d
  else if x = 6 then [portDir 9 1, portDir d 0]
  else [portDir d 0]

/-- The die on which a requester of pair `d` stands (R308): a comb's die, the pair's own die for the scrubber, the partner die,
else the Eztos die. -/
def sourceDie (source d : Nat) : Nat :=
  if source < 64 then source / 16 else if source = 0x47 then d else if source = 0x48 then 6 else 4

/-- The route of a requester to the controller of pair `d`. -/
def State.dieRoute (s : State) (source d : Nat) : List Nat := s.routeTo (sourceDie source d) d

/-- The way back of a route. -/
def routeBack (l : List Nat) : List Nat := (l.map portBack).reverse

/-! ## Credits and ranks (R320-R323) -/

/-- The credit key of an arbitration point for a colony (16: the system pool). -/
def creditKey (point col : Nat) : Nat := point * 17 + col

/-- The arbitration point of a port direction. -/
def portPoint (p : Nat) : Nat := 128 + p

/-- A credit, in thousandths of a word. -/
def State.credit (s : State) (point col : Nat) : Int := tget 0 s.mem.credit (creditKey point col)

/-- SHARE of a colony, and of the system pool (R320). -/
def State.shareOf (s : State) (col : Nat) : Nat :=
  if col < 16 then (if (s.colony col).live then (s.colony col).share else 0)
  else 1000 - ((List.range 16).map fun c => if (s.colony c).live then (s.colony c).share else 0).sum

/-- A credit within ±256,000 (R320). -/
def clampCredit (v : Int) : Int := max (-256000) (min 256000 v)

/-- `n` words transferred at a point to `col`: every credit accrues, the served one pays, all within ±256,000 (R320).  Each
credit moves by the same amount with every word, so the clamp acts once as it would word by word. -/
def State.transferWords (s : State) (point col n : Nat) : State :=
  let t := (List.range 17).foldl (fun (t : Table Int) c =>
    tset 0 t (creditKey point c)
      (clampCredit (tget 0 t (creditKey point c) + n * s.shareOf c - (if c = col then 1000 * n else 0)))) s.mem.credit
  { s with mem := { s.mem with credit := t } }

/-- A colony's credits start at 0 (R320). -/
def State.clearCredits (s : State) (col : Nat) : State :=
  { s with mem := { s.mem with credit := s.mem.credit.filter fun e => e.1 % 17 != col } }

/-- Whether a request of class `cls` whose deadline lies `left` ticks ahead is urgent at a point (R323). -/
def State.urgentAt (s : State) (point cls col left : Nat) : Bool :=
  decide (cls = 0 ∧ left ≤ 64 ∧ -256000 < s.credit point col)

/-- The rank of a request (R323). -/
def State.rankAt (s : State) (point cls col left : Nat) : Nat :=
  if s.urgentAt point cls col left then 0 else if 0 < s.credit point col then cls + 1 else 5

/-- A saturating 48-bit count. -/
def addCount (t : Table Nat) (k n : Nat) : Table Nat := tset 0 t k (min (tget 0 t k + n) (2 ^ 48 - 1))

/-- The counters of a transfer at POINT `bwr` (R332). -/
def State.countTransfer (s : State) (bwr cls col words rank : Nat) : State :=
  let m := s.mem
  { s with mem := { m with
      clsBytes := addCount m.clsBytes (4 * bwr + cls) (64 * words)
      colBytes := addCount m.colBytes (17 * bwr + col) (64 * words)
      excess := if rank = 5 then addCount m.excess (17 * bwr + col) (64 * words) else m.excess } }

/-- `words` words of a request pass a point: rank, credits and counters (R320, R332). -/
def State.carry (s : State) (point bwr cls col left words : Nat) : State :=
  let k := s.rankAt point cls col left
  (s.transferWords point col words).countTransfer bwr cls col words k

/-- The system label served last at a point (R321). -/
def State.noteTurn (s : State) (point label : Nat) : State :=
  if 16 ≤ label then { s with mem := { s.mem with turn := tset 0 s.mem.turn point (label - 16) } } else s

/-- `words` words of a request pass a port direction. -/
def State.cross (s : State) (cls col left label words p : Nat) : State :=
  (s.carry (portPoint p) p cls col left words).noteTurn (portPoint p) label

/-! ## Choosing among what waits (R297, R321, R323, R324) -/

/-- Lexicographic order of keys. -/
def keyLt : List Nat → List Nat → Bool
  | [], _ => false
  | _ :: _, [] => false
  | a :: as, b :: bs => if a < b then true else if b < a then false else keyLt as bs

/-- The label whose turn it is among system labels that wait (R321). -/
def turnLabel (last : Nat) (labels : List Nat) : Option Nat :=
  ((List.range 16).map fun i => 16 + (last + 1 + i) % 16).find? fun l => labels.contains l

/-- The element of a list with the smallest key, the first among equals. -/
def leastBy {α : Type} (key : α → List Nat) (l : List α) : Option α :=
  l.foldl (fun b r => match b with
    | none => some r
    | some x => if keyLt (key r) (key x) then some r else some x) none

/-- What a point serves next of what waits: the lowest rank, and in it the first class (R323); among requests of these the system
labels take turns (R321), and `key` decides the rest (log entry 95). -/
def choose {α : Type} (rank cls label : α → Nat) (key : α → List Nat) (last : Nat) (l : List α) : Option α :=
  match leastBy (fun r => [rank r, cls r]) l with
  | none => none
  | some x =>
    let top := l.filter fun r => rank r == rank x && cls r == cls x
    let turn := turnLabel last ((top.filter fun r => decide (16 ≤ label r)).map label)
    leastBy key (top.filter fun r => decide (label r < 16) || turn == some (label r))

/-- The absolute deadline of a request at its point (R317, R318): a class other than LC-deadline carries 0xFFFF. -/
def absDeadline (r : ChanReq) : Nat := r.arrival + r.req.deadline.getD 0xFFFF

/-- Whose credit a request spends. -/
def reqCol (r : ChanReq) : Nat := poolOf r.req.label r.colony

/-- Whether a request is urgent now (R323). -/
def State.urgent (s : State) (point : Nat) (r : ChanReq) : Bool := s.urgentAt point r.cls (reqCol r) (absDeadline r - s.tclk)

/-- The rank of a request now (R323). -/
def State.rank (s : State) (point : Nat) (r : ChanReq) : Nat := s.rankAt point r.cls (reqCol r) (absDeadline r - s.tclk)

/-- Whether a request hits the open row of its bank. -/
def State.rowHit (s : State) (d c : Nat) (r : ChanReq) : Bool :=
  let o := (s.dieOffset r.req.addr).2
  ((s.chan d c).bank (offBank o)).row == some (offRow o)

/-- The order at a channel within a rank (R297, R323), smaller first: within ranks 0 and 1 the deadline, row hits and age; within
rank 5 the class; then what is over 4 µs old, row hits and age. -/
def State.issueKey (s : State) (d c : Nat) (r : ChanReq) : List Nat :=
  let k := s.rank (32 * d + c) r
  let hit := if s.rowHit d c r then 0 else 1
  if k ≤ 1 then [absDeadline r, hit, r.ord]
  else [if k = 5 then r.cls else 0, if r.arrival + 500 < s.tclk then 0 else 1, hit, r.ord]

/-- The request of a list that channel `c` of pair `d` serves next. -/
def State.pickReq (s : State) (d c : Nat) (l : List ChanReq) : Option ChanReq :=
  choose (s.rank (32 * d + c)) (·.cls) (fun r => r.req.label) (s.issueKey d c) (tget 0 s.mem.turn (32 * d + c)) l

/-- Whether two requests share a 64-byte word. -/
def shareWord (a b : DramReq) : Bool :=
  decide (a.addr / 64 < b.addr / 64 + b.words ∧ b.addr / 64 < a.addr / 64 + a.words)

/-- Whether a queued write can issue: requests to a word take effect in the order in which they came (R295). -/
def Chan.mayWrite (x : Chan) (r : ChanReq) : Bool :=
  (x.reads ++ x.writes).all fun q => !(decide (q.ord < r.ord) && shareWord q.req r.req)

/-- The request that a channel serves next among those that satisfy `p`, and whether it is a read (R297). -/
def State.nextWhere (s : State) (d c : Nat) (p : ChanReq → Bool) : Option (Bool × ChanReq) :=
  let x := s.chan d c
  let rd := x.reads.filter p
  let wrs := (x.writes.filter p).filter x.mayWrite
  let asRead (l : List ChanReq) : Option (Bool × ChanReq) := (s.pickReq d c l).map fun r => (true, r)
  let asWrite : Option (Bool × ChanReq) := (s.pickReq d c wrs).map fun r => (false, r)
  if x.drain ∧ wrs ≠ [] then
    let hot := rd.filter (s.urgent (32 * d + c))
    if hot ≠ [] then asRead hot else asWrite
  else if rd ≠ [] then asRead rd
  else asWrite

/-- The request that a channel serves next (R297). -/
def State.nextReq (s : State) (d c : Nat) : Option (Bool × ChanReq) := s.nextWhere d c fun _ => true

/-! ## Rows (R294) -/

/-- The row of a bank after an access with a page policy (R294): CLOSE closes it unless the next request chosen for the bank hits
it. -/
def State.afterAccess (s : State) (d c o hint : Nat) : State :=
  let x := s.chan d c
  let b := offBank o
  let k := { x.bank b with row := some (offRow o), policy := if hint = 3 then 0 else hint, lastUse := s.tclk }
  let s1 := s.setChan d c (x.setBank b k)
  let hits : Bool := match s1.nextWhere d c fun q => offBank (s.dieOffset q.req.addr).2 == b with
    | some (_, q) => offRow (s.dieOffset q.req.addr).2 == offRow o
    | none => false
  if hint = 2 ∧ hits = false then s.setChan d c (x.setBank b { k with row := none }) else s1

/-! ## What an access passes on its way (R317, R318, R320, R332) -/

/-- Whether nothing that a command's accesses could meet makes them wait: no link retrains, no channel's queue holds a request, and no
access of the host waits. -/
def State.unhindered (s : State) : Bool :=
  s.pkg.retraining == 0 && s.pkg.winHeld == []
    && s.mem.dmc.all fun e => e.2.chans.all fun c => c.2.reads == [] && c.2.writes == []

/-- Whether `n` bytes from `a` touch a word that `m` bytes from `b` touch. -/
def wordsMeet (a n b m : Nat) : Bool := decide (a / 64 * 64 < b + m ∧ b / 64 * 64 < a + n)

/-- Whether an access within a burst has to wait: a link of its way retrains (R43), its channel holds a request of lower rank (R322,
R323) or a write to one of its words (R295), or the host's earlier write to one of them waits (R76). -/
def State.accessWaits (s : State) (way : List Nat) (d c rank a n : Nat) : Bool :=
  let x := s.chan d c
  (way.any fun p => s.pkg.retraining.getLsbD (portLink p))
    || ((x.reads ++ if x.drain then x.writes else []).any fun q => decide (s.rank (32 * d + c) q < rank))
    || (x.writes.any fun q => wordsMeet a n (q.req.addr / 64 * 64) (64 * q.req.words))
    || s.pkg.winHeld.any fun w => w.bytes.isSome && wordsMeet a n w.addr w.size

/-- One access within a burst, served as it is made: its payload passes the port directions between the requester and the
controller, to it for a write and back for a read, and the channel; the bank's row follows (log entry 21).  One that has to wait is
noted where the command that makes it is watched (log entry 94). -/
def State.passBurst (s : State) (w : Who) (isWrite : Bool) (a n : Nat) : State :=
  let d := (s.dieOffset a).1
  let o := (s.dieOffset a).2
  let way := s.dieRoute w.source d
  let cls := s.whoClass w
  let col := poolOf w.label w.colony
  let left := if cls = 0 then w.deadline else 0xFFFF
  let words := touchedWords a n
  if s.pkg.watch.isSome ∧ s.accessWaits way d (offCh o) (s.rankAt (32 * d + offCh o) cls col left) a n = true then
    { s with pkg := { s.pkg with watch := some true } }
  else
    let s1 := (if isWrite then way else routeBack way).foldl (fun s p => s.cross cls col left w.label words p) s
    ((s1.carry (32 * d + offCh o) d cls col left words).noteTurn (32 * d + offCh o) w.label).afterAccess d (offCh o) o w.hint

/-- A command watched for accesses that wait: its outcome is seen with the mark set aside. -/
def State.watched (s : State) : State := { s with pkg := { s.pkg with watch := some false } }
def State.unwatched (s : State) : State := { s with pkg := { s.pkg with watch := none } }

/-- A command whose accesses to device memory wait has not come to its end: it has no effect yet, and comes again (R43, R322, R324;
log entry 94). -/
def State.unlessStalled (s : State) (act : State → Out) : Out :=
  if s.unhindered then act s
  else match act s.watched with
    | .next t => if t.pkg.watch = some true then .next s else .next t.unwatched
    | o => o

end Sys2Proof.Machine
end

