-- ==== Sys2Proof/Machine/Operands.lean ====
section
/-!
DEFINITION. Reading requests and records: the fields each layout of spec/ names, the reserved bits they leave, and the
mailbox request and response forms (R87, R88, R113).
-/
namespace Sys2Proof.Machine

/-- A layout: the fields a record or message has, as (byte offset, lowest bit, width in bits). -/
abbrev Layout := List (Nat × Nat × Nat)

/-- The bits that a layout's fields cover, as a mask over the little-endian number the bytes spell. -/
def layoutMask (l : Layout) : Nat := l.foldl (fun m f => m ||| ((2 ^ f.2.2 - 1) * 2 ^ (8 * f.1 + f.2.1))) 0

/-- The bits set outside a layout's fields: the reserved bits that are not 0 (R9; log entry 7). -/
def reservedBits (l : Layout) (bs : List Byte) : Nat :=
  leNat bs ^^^ (leNat bs &&& layoutMask l)

/-- Whether every reserved bit is 0. -/
def reservedOk (l : Layout) (bs : List Byte) : Bool := reservedBits l bs == 0

/-- The offset of the layout field that covers a bit of byte `i`, if one does. -/
def coverOff (l : Layout) (i : Nat) : Option Nat :=
  (l.find? fun f => decide (f.1 + f.2.1 / 8 ≤ i ∧ i ≤ f.1 + (f.2.1 + f.2.2 - 1) / 8)).map (·.1)

/-- The first byte of the run of wholly reserved bytes that byte `i` stands in. -/
def runStart (l : Layout) : Nat → Nat
  | 0 => 0
  | i + 1 => if coverOff l i = none then runStart l i else i + 1

/-- The index of the first byte of `bs` that is not 0. -/
def firstNonzero : List Byte → Nat → Nat
  | [], i => i
  | b :: bs, i => if b = 0 then firstNonzero bs (i + 1) else i

/-- FIELD for a reserved field that is not 0 (R124): the offset of the reserved field. -/
def reservedField (l : Layout) (bs : List Byte) : Nat :=
  let i := firstNonzero (leBytes bs.length (reservedBits l bs)) 0
  match coverOff l i with
  | some o => o
  | none => runStart l i

/-! ## Scheduled operations (R129-R141, R173, R180, R201, R202): the engines, registers and positions that they can name -/

/-- A wide read fills an input buffer or a row of a tile; a narrow one scales or 8 lanes of a vector register (R129, R135, R139). -/
def rdDstOk (wide : Bool) : RdDst → Bool
  | .input _ b => wide && decide (b < 2)
  | .weights _ r => wide && decide (r < 4)
  | .wscales _ h => !wide && decide (h < 2)
  | .iscales _ b => !wide && decide (b < 2)
  | .vreg r p => !wide && decide (r < 32 ∧ p < 16)

/-- A narrow word of a vector register, or a whole row (R139, R175). -/
def wrSrcOk : WrSrc → Bool
  | .vreg r p => decide (r < 32 ∧ p < 16)
  | .row bs => decide (bs.length = 512)

/-- A conversion of whole blocks and whole bytes within its registers (R139, R158, R159). -/
def convOk (c : Conv) : Bool :=
  decide ((c.fmt ≤ 6 ∨ c.fmt = 8) ∧ 1 ≤ c.n ∧ c.reg < 32 ∧ c.vreg < 32 ∧ c.sreg < 32 ∧ c.lane + c.n ≤ 128 ∧ c.n * elemBits c.fmt % 8 = 0
    ∧ 8 * c.pos + c.n * elemBits c.fmt ≤ 4096 ∧ (c.fmt = 2 → c.n % 32 = 0 ∧ c.spos + c.n / 32 ≤ 512))

/-- A forager descriptor names a scratchpad operation of 32 bytes (R192), or a transfer of a comb (R141, R180, R280, R294, R317). -/
def descOk : Desc → Bool
  | .op bs => decide (bs.length = 32)
  | .dram t => decide (t.comb < 64 ∧ t.spad < 2 ^ 23 ∧ t.mark ≤ 15 ∧ t.label.getD 0 < 16 ∧ t.hint < 4 ∧ t.deadline.getD 0 < 65536)

/-- A WEMIT's group, buffer and counts (R201, R202). -/
def wemitOk (w : Wemit) : Bool :=
  decide (w.group < 4 ∧ w.buf < 2 ∧ 1 ≤ w.n ∧ w.n * w.eb ≤ 32 ∧ 1 ≤ w.nch ∧ w.nch ≤ 16 ∧ (w.eb = 1 ∨ w.eb = 2))

/-- Whether an operation names engines, registers and positions that a comb has. -/
def bopOk : BOp → Bool
  | .read w a dst _ e => rdDstOk w dst && decide (a < 2 ^ 23 ∧ e ≤ 2)
  | .write a src mark => wrSrcOk src && decide (a < 2 ^ 23 ∧ mark ≤ 15)
  | .swap i => decide (i < 8)
  | .stream i f wf bank entry buf vec _ =>
    decide (i < 8 ∧ f < 8 ∧ wf < 8 ∧ bank < 2 ∧ entry < 32 ∧ buf < 2 ∧ vec * (if elemBits f = 16 then 2 else 1) < 32)
  | .drain i bank entry r half => decide (i < 8 ∧ bank < 2 ∧ entry < 32 ∧ r < 32 ∧ half < 2)
  | .vector _ a b c dst => decide (a < 32 ∧ b < 32 ∧ c < 32 ∧ dst < 32)
  | .toFp32 c => convOk c
  | .fromFp32 c => convOk c && decide (c.fmt ≠ 8)
  | .identity src dst => decide (dst < 32) && (match src with
    | .word n => decide (n < 2)
    | .jobIndex => true
    | .argument n => decide (n < 32))
  | .descriptor f d => decide (f < 2) && descOk d
  | .wload a l h _ e => decide (a < 2 ^ 23 ∧ l < 64 ∧ h < 2 ∧ e ≤ 2)
  | .wemit w => wemitOk w
  | .cacheRead w a dst e => rdDstOk w dst && decide (a < 2 ^ 48 ∧ e ≤ 2)
  | .cacheWrite a src => wrSrcOk src && decide (a < 2 ^ 48)
  | .tileStart h i => decide (h < 2 ^ 32 ∧ i < 2 ^ 32)
  | .tileEnd => true
  | .attnStart h i => decide (h < 2 ^ 32 ∧ i < 2 ^ 32)
  | .attnEnd => true

/-- The header of a command record (R113). -/
def recHeader : Layout :=
  [(0, 0, 8), (1, 0, 1), (1, 1, 1), (1, 2, 1), (2, 0, 8), (3, 0, 4), (4, 0, 16), (8, 0, 64)]

/-- The payload fields of JOB_RUN and of the job part of STEP_RUN (R270). -/
def jobPayload : Layout :=
  [(16, 0, 32), (20, 0, 32), (24, 0, 32), (28, 0, 32), (32, 0, 20), (32, 20, 7), (36, 0, 32), (40, 0, 32),
   (44, 0, 12), (46, 0, 11), (48, 0, 32), (52, 0, 32)]

/-- The payload fields of every assigned opcode (R114, R119, R121, R248, R252, R270, R344, R360, R373, R374, R385,
R389, R393, R409, R424, R425, R428, R505). NOP ignores its payload. -/
def recPayload (op : Nat) : Layout :=
  if op = 0x00 then [(16, 0, 8 * 16256)]
  else if op = 0x01 ∨ op = 0x02 ∨ op = 0x03 then [(16, 0, 32), (24, 0, 64), (32, 0, 64), (40, 0, 32)]
  else if op = 0x10 then jobPayload
  else if op = 0x20 then
    [(16, 0, 32), (20, 0, 32), (24, 0, 12), (26, 0, 3), (26, 3, 2), (26, 5, 1), (26, 6, 1), (26, 7, 1), (28, 0, 24),
     (32, 0, 32), (36, 0, 32), (40, 0, 32), (44, 0, 32)]
  else if op = 0x21 then [(16, 0, 24)]
  else if op = 0x22 then [(16, 0, 24), (20, 0, 8)]
  else if op = 0x23 then
    jobPayload ++ [(64, 0, 32), (68, 0, 32), (72, 0, 11), (74, 0, 11), (76, 0, 16), (78, 0, 7)]
  else if op = 0x30 ∨ op = 0x31 then
    [(16, 0, 32), (20, 0, 32), (24, 0, 64), (32, 0, 64), (40, 0, 32), (44, 0, 2), (46, 0, 16), (48, 0, 64)]
  else if op = 0x3E then [(16, 0, 7), (17, 0, 6), (20, 0, 32), (24, 0, 64), (32, 0, 64), (40, 0, 32)]
  else if op = 0x3F then [(16, 0, 7), (17, 0, 6), (32, 0, 64), (40, 0, 64)]
  else if op = 0x40 then
    [(16, 0, 32), (20, 0, 32), (24, 0, 32), (28, 0, 32), (32, 0, 32), (36, 0, 32), (40, 0, 5), (42, 0, 16)]
  else if op = 0x41 then [(16, 0, 1), (18, 0, 16), (20, 0, 32), (24, 0, 32)]
  else if op = 0x42 then [(16, 0, 8), (17, 0, 8), (18, 0, 8), (19, 0, 8), (20, 0, 32), (24, 0, 16)]
  else if op = 0x4F then
    [(16, 0, 2), (16, 2, 1), (17, 0, 6), (18, 0, 16), (20, 0, 16), (24, 0, 32), (28, 0, 32)]
  else if op = 0x50 then
    [(16, 0, 2), (16, 2, 1), (17, 0, 8), (18, 0, 1), (19, 0, 8), (20, 0, 16), (24, 0, 32), (28, 0, 32), (32, 0, 64),
     (40, 0, 192), (64, 0, 192), (88, 0, 192), (112, 0, 32), (116, 0, 32), (120, 0, 32)]
  else if op = 0x51 then
    [(16, 0, 2), (16, 2, 1), (16, 3, 1), (17, 0, 5), (18, 0, 5), (20, 0, 32), (24, 0, 32), (32, 0, 64)]
  else if op = 0x52 then [(16, 0, 32), (20, 0, 32)]
  else if op = 0x60 then [(16, 0, 5), (20, 0, 32), (24, 0, 32)]
  else if op = 0x61 then [(16, 0, 32), (20, 0, 2)]
  else if op = 0x62 then [(16, 0, 2), (20, 0, 32), (24, 0, 32)]
  else if op = 0x70 then [(16, 0, 7), (16, 7, 1), (17, 0, 1), (17, 1, 1), (24, 0, 64), (32, 0, 64), (40, 0, 64)]
  else if op = 0x71 then [(16, 0, 1), (16, 1, 1), (20, 0, 32), (24, 0, 64), (32, 0, 32), (36, 0, 32), (40, 0, 64)]
  else if op = 0x72 ∨ op = 0x73 then [(16, 0, 32), (20, 0, 32)]
  else if op = 0x74 then
    [(16, 0, 4), (16, 4, 2), (17, 0, 6), (18, 0, 16), (20, 0, 16), (24, 0, 7), (24, 7, 1), (25, 0, 1), (25, 1, 1),
     (32, 0, 64), (40, 0, 64), (48, 0, 64)]
  else []

/-- The layout of a record by its opcode. -/
def recLayout (op : Nat) : Layout := recHeader ++ recPayload op

/-- The engine class of an assigned opcode (none: generic, valid on every queue) with its least and greatest LEN
(R114). -/
def opInfo (op : Nat) : Option (Option Nat × Nat × Nat) :=
  if op = 0x00 then some (none, 1, 254)
  else if op = 0x01 ∨ op = 0x02 ∨ op = 0x03 then some (none, 1, 1)
  else if op = 0x10 ∨ op = 0x20 ∨ op = 0x21 ∨ op = 0x22 then some (some 0, 1, 1)
  else if op = 0x23 then some (some 0, 2, 2)
  else if op = 0x30 ∨ op = 0x31 ∨ op = 0x3E ∨ op = 0x3F then some (some 1, 1, 1)
  else if op = 0x40 ∨ op = 0x41 ∨ op = 0x42 ∨ op = 0x4F then some (some 2, 1, 1)
  else if op = 0x50 then some (some 3, 2, 2)
  else if op = 0x51 ∨ op = 0x52 then some (some 3, 1, 1)
  else if op = 0x60 ∨ op = 0x61 ∨ op = 0x62 then some (some 4, 1, 1)
  else if op = 0x70 ∨ op = 0x71 ∨ op = 0x72 ∨ op = 0x73 ∨ op = 0x74 then some (some 5, 1, 1)
  else none

/-- The opcode of a record. -/
def Rec.op (r : Rec) : Nat := field r.bytes 0 1

/-- A flag of byte 1 of a record header: 0 BARRIER, 1 COMPL, 2 IRQ (R113). -/
def Rec.flag (r : Rec) (n : Nat) : Bool := decide (bitsOf (field r.bytes 1 1) n 1 = 1)

/-- The task label of a record. -/
def Rec.label (r : Rec) : Nat := bitsOf (field r.bytes 3 1) 0 4

end Sys2Proof.Machine
end

