-- ==== Sys2Proof/Machine/Queue.lean ====
section
/-!
DEFINITION. The queue engine of spec/04: fetching and validating records (R115), ending them, writing completion
records in SEQ order (R124-R127), ending lists, discarding them (R117, R118).
-/
namespace Sys2Proof.Machine

/-- The states of HIF_QSTAT.STATE (R111). -/
abbrev qIdle : Nat := 0
abbrev qRunning : Nat := 1
abbrev qHalted : Nat := 2
abbrev qReset : Nat := 3

/-- How many records of a queue of a class can be in progress (R106). -/
def execWidth (cls : Nat) : Nat := if cls = 1 then 4 else 1

/-- The queues of each class that the device offers (R106). -/
def classCount (cls : Nat) : Nat :=
  if cls = 0 then 64 else if cls = 1 then 32 else if cls = 4 then 2 else if cls ≤ 5 then 4 else 0

/-- The device address of the command ring of a queue. -/
def State.ringAddr (s : State) (q : Queue) : Nat :=
  match s.obj q.ring with
  | some o => o.addr
  | none => 0

/-- `n` ring units from unit `u`, which do not cross the end of the ring. -/
def State.ringUnits (s : State) (q : Queue) (u n : Nat) : List Byte :=
  memRead s.dram (s.ringAddr q + 64 * u) (64 * n)

/-- The records in `left` units of a ring from unit `u`, counted by their LEN fields; a LEN of 0 or 0xFF counts as one
unit (log entry 8). -/
def State.countRecs (s : State) (q : Queue) : Nat → Nat → Nat → Nat
  | 0, _, _ => 0
  | fuel + 1, u, left =>
    if left = 0 then 0
    else
      let len := (memGet s.dram (s.ringAddr q + 64 * (u % 2 ^ q.log2n) + 2)).toNat
      let n := if len = 0 ∨ len = 0xFF then 1 else len
      1 + s.countRecs q fuel (u + n) (left - n)

/-- The key of a record's job. -/
def jobKey (d seq : Nat) : Nat := d * 65536 + seq

/-- Whether a record has not started: it is fetched, or it waits in a ready list (R117, R118, R277; log entry 107).  A step has
started with its build. -/
def State.notStarted (s : State) (d : Nat) (r : Rec) : Bool :=
  let j := tget ({} : Job) s.jobs (jobKey d r.seq)
  decide (r.phase = .fetched) || (decide (r.phase = .running) && j.live && decide (j.phase = .ready) && !j.step)

/-- The records of a list that the device has not fetched. -/
def State.unfetched (s : State) (q : Queue) (l : SubList) : Nat :=
  s.countRecs q (l.units - l.fetched) (l.start + l.fetched) (l.units - l.fetched)

/-- Whether a list starts no further record: all of it is fetched, or a record of it faulted (R117). -/
def SubList.isOver (l : SubList) : Bool := decide (l.units ≤ l.fetched) || l.faulted.isSome

/-- Whether a list ends with the last of its records to end: it starts no further one, and none of it was cut before a fault, whose
discard record would end it (R117, R118). -/
def SubList.endsWithLast (l : SubList) : Bool := l.isOver && (l.faulted.isSome || l.cut.isEmpty)

/-- Whether a record has ended and waits for its completion to be written. -/
def Rec.isEnded (r : Rec) : Bool :=
  match r.phase with
  | .ended _ => true
  | _ => false

/-- The list with an id. -/
def Queue.listOf (q : Queue) (i : Nat) : Option SubList := q.lists.find? (·.id == i)

/-- Whether the completion ring of a slot has room for a record (R98, R125). -/
def State.cqRoom (s : State) (d : Nat) (q : Queue) : Bool :=
  decide ((s.rd (HIF_CQHEAD_INDEX.idx d) + 1) % 2 ^ q.cqLog2n ≠ s.rd (HIF_CQTAIL_INDEX.idx d))

/-- The 32 bytes of a completion record (R124). -/
def State.cqBytes (s : State) (d : Nat) (r : Rec) (e : RecEnd) (last : Bool) (skipped : Nat) : List Byte :=
  leBytes 2 r.seq ++ leBytes 2 e.status ++ [BitVec.ofNat 8 r.op]
    ++ [BitVec.ofNat 8 (s.rd (HIF_CQHEAD_PHASE.idx d) + (if last then 2 else 0) + (if e.fault then 4 else 0))]
    ++ leBytes 2 skipped ++ leBytes 8 e.time ++ leBytes 2 e.field ++ [0, 0] ++ leBytes 4 e.detail
    ++ padTo 8 ((r.bytes.drop 8).take 8)

/-- A completion record written at HIF_CQHEAD; the head advances, inverting PHASE on the wrap; the queue's vector is
sent when IRQ is set or the record faulted (R98, R125, R126). -/
def State.putCompletion (s : State) (d : Nat) (q : Queue) (r : Rec) (e : RecEnd) (last : Bool) (skipped : Nat)
    (began : Option Nat) : State :=
  let h := s.rd (HIF_CQHEAD_INDEX.idx d)
  let s1 := s.hostWrite (q.cqAddr + 32 * h) (s.cqBytes d r e last skipped)
  let wrap := decide (h + 1 = 2 ^ q.cqLog2n)
  let s2 := s1.wr (HIF_CQHEAD_INDEX.idx d) (if wrap then 0 else h + 1)
  let s3 := if wrap then s2.wr (HIF_CQHEAD_PHASE.idx d) (1 - s2.rd (HIF_CQHEAD_PHASE.idx d)) else s2
  let s4 := if (r.flag 2 ∨ e.fault = true) ∧ q.vector ≠ 0xFF then s3.msix q.vector else s3
  if last then { s4 with listEnds := s4.listEnds ++ [{ slot := d, fault := e.fault, status := e.status, began := began }] } else s4

/-- A list ends (R117): HEAD moves past it unless the device already fetches a later one (R111), EXPECT_SEQ past its records that were
not fetched, and a RUNNING queue halts, goes on or goes IDLE (R118). -/
def State.endList (s : State) (d : Nat) (l : SubList) (skipped : Nat) : State :=
  let q := s.queue d
  let q' := { q with lists := q.lists.filter (·.id ≠ l.id) }
  let s1 := s.setQueue d q'
  let s2 := if q'.lists.any (·.fetched != 0) then s1 else s1.wr (HIF_QHEAD_INDEX.idx d) ((l.start + l.units) % 2 ^ q.log2n)
  let s3 := s2.wr (HIF_QSTAT_EXPECT_SEQ.idx d) (s2.rd (HIF_QSTAT_EXPECT_SEQ.idx d) + skipped)
  if s3.rd (HIF_QSTAT_STATE.idx d) ≠ qRunning then s3
  else
    match l.faulted with
    | some st =>
      if st ≠ E_RESTART ∧ q.noHalt = false then s3.wr (HIF_QSTAT_STATE.idx d) qHalted
      else s3.wr (HIF_QSTAT_STATE.idx d) (if q'.lists = [] then qIdle else qRunning)
    | none => s3.wr (HIF_QSTAT_STATE.idx d) (if q'.lists = [] then qIdle else qRunning)

/-- The discard record of a list (R118): E_ABORT with LAST, for its first record that did not start; SKIPPED counts
the records after it. -/
def State.discardRec (s : State) (q : Queue) (expect : Nat) (l : SubList) : Rec :=
  let n := l.cut.length + s.unfetched q l
  let e : RecPhase := .ended { status := E_ABORT, discard := some (n - 1), time := s.now }
  match l.cut with
  | r :: _ => { r with phase := e }
  | [] => { seq := expect, list := l.id, bytes := s.ringUnits q ((l.start + l.fetched) % 2 ^ q.log2n) 1, phase := e }

/-- The discard records of lists, in order, from EXPECT_SEQ `expect`, with the EXPECT_SEQ that follows them; a list with
every record started has nothing to discard. -/
def State.discards (s : State) (q : Queue) : Nat → List SubList → List Rec × Nat
  | expect, [] => ([], expect)
  | expect, l :: ls =>
    let (rs, after) := s.discards q ((expect + s.unfetched q l) % 65536) ls
    if l.cut.length + s.unfetched q l = 0 then (rs, after) else (s.discardRec q expect l :: rs, after)

/-- Records that have not started taken out of a queue and counted to their lists (R117, R118): those that `sel` picks. -/
def State.cutRecs (s : State) (d : Nat) (sel : Rec → Bool) : State :=
  let q := s.queue d
  let out (r : Rec) : Bool := s.notStarted d r && sel r
  let gone := q.recs.filter out
  let s1 := s.setQueue d { q with
    recs := q.recs.filter (fun r => !out r)
    lists := q.lists.map fun l => { l with cut := l.cut ++ gone.filter (·.list == l.id) } }
  { s1 with jobs := gone.foldl (fun t r => tset {} t (jobKey d r.seq) {}) s1.jobs }

/-- Every submitted list discarded (R118): HEAD moves to TAIL, EXPECT_SEQ past every discarded record, and the queue
is IDLE. -/
def State.discardLists (s : State) (d : Nat) : State :=
  let q := s.queue d
  let (rs, seq) := s.discards q (s.rd (HIF_QSTAT_EXPECT_SEQ.idx d)) q.lists
  let s1 := s.setQueue d { q with lists := [], recs := q.recs ++ rs, flushing := false }
  let s2 := s1.wr (HIF_QSTAT_EXPECT_SEQ.idx d) seq
  let s3 := s2.wr (HIF_QHEAD_INDEX.idx d) (s2.rd (HIF_QTAIL_INDEX.idx d))
  if s3.rd (HIF_QSTAT_STATE.idx d) = qReset then s3 else s3.wr (HIF_QSTAT_STATE.idx d) qIdle

/-- The front ended record of a queue retired: its completion record written where one is due and the ring has room,
its list ended where it was the last (R117, R125-R127).  None when nothing can be retired. -/
def State.retireOne (s : State) (d : Nat) : Option State :=
  let q := s.queue d
  match q.recs with
  | [] => none
  | r :: rest =>
    match r.phase with
    | .ended e =>
      let l := q.listOf r.list
      let listOver := match l with
        | some l => l.endsWithLast
        | none => true
      let last := !e.noLast && (e.discard.isSome || (listOver && !(rest.any (·.list == r.list))))
      let left := match l with
        | some l => if last && l.faulted.isSome then s.unfetched q l else 0
        | none => 0
      let skipped := match e.discard, l with
        | some n, _ => n
        | none, some l => if last then left + l.cut.length else 0
        | none, none => 0
      if r.flag 1 || e.fault || e.force || last then
        if s.cqRoom d q then
          let s1 := (s.setQueue d { q with recs := rest }).putCompletion d q r e last skipped (l.elim none (·.began))
          let s2 := s1.wr (HIF_QSTAT_CQ_FULL.idx d) 0
          match e.discard, l with
          | none, some l => some (if last then s2.endList d l left else s2)
          | _, _ => some s2
        else some (s.wr (HIF_QSTAT_CQ_FULL.idx d) 1)
      else some (s.setQueue d { q with recs := rest })
    | _ => none

/-- Ended records retired in SEQ order until one cannot be (R126, R127). -/
def State.retireLoop (d : Nat) : Nat → State → State
  | 0, s => s
  | n + 1, s =>
    match s.retireOne d with
    | none => s
    | some s' => if s'.on (HIF_QSTAT_CQ_FULL.idx d) then s' else retireLoop d n s'

/-- Ended records retired; then a FLUSH that waited for the records in progress and their completion records takes effect (R118). -/
def State.retire (s : State) (d : Nat) : State :=
  let s1 := retireLoop d ((s.queue d).recs.length) s
  let q := s1.queue d
  if q.flushing ∧ q.recs.isEmpty then
    let s2 := s1.discardLists d
    retireLoop d ((s2.queue d).recs.length) s2
  else s1

/-- The list of a faulted record ends with it (R117); a status that halts stands over E_RESTART. -/
def SubList.fault (l : SubList) (st : Nat) : SubList :=
  { l with faulted := match l.faulted with
      | some x => if x = E_RESTART then some st else some x
      | none => some st }

/-- The records of a list of records that follow the one with SEQ `seq` that has not retired, in the same list (R117). -/
def followers (rs : List Rec) (seq list : Nat) : List Rec := ((rs.dropWhile fun x => x.seq != seq).drop 1).filter (·.list == list)

/-- A record of a queue ends; a fault ends its list: the records after it that have not started are not executed (R117). -/
def State.endRec (s : State) (d seq : Nat) (e : RecEnd) : State :=
  let q := s.queue d
  match q.recs.find? (fun x => x.seq == seq && !x.isEnded) with
  | none => s
  | some r =>
    let recs := q.recs.map fun x => if x.seq = seq ∧ x.isEnded = false then { x with phase := .ended { e with time := s.now } } else x
    let lists := if e.fault then q.lists.map fun l => if l.id = r.list then l.fault e.status else l else q.lists
    let s1 := s.setQueue d { q with recs := recs, lists := lists }
    let s2 := if r.op = 2 then s1.wr (HIF_QSTAT_WAITING.idx d) 0 else s1
    let s3 := if e.fault then s2.cutRecs d fun x => (followers recs seq r.list).contains x else s2
    s3.retire d

/-- A record completes without fault. -/
def State.completeRec (s : State) (d seq detail : Nat) : State := s.endRec d seq { status := 0, detail := detail }

/-- A record completes with a status that is no fault, with a completion record even when COMPL is clear (R402). -/
def State.statusRec (s : State) (d seq status detail : Nat) : State :=
  s.endRec d seq { status := status, detail := detail, force := true }

/-- A record faults (R116, R117). -/
def State.faultRec (s : State) (d seq status : Nat) (fld : Nat := 0xFFFF) (detail : Nat := 0) : State :=
  s.endRec d seq { status := status, field := fld, detail := detail, fault := true }

/-- The first record of a queue that is through checks 1-8 and has not started, with opcode `op`. -/
def State.fetchedRec (s : State) (d op : Nat) : Option Rec :=
  (s.queue d).recs.find? fun r => decide (r.phase = .fetched ∧ r.op = op)

/-- The first running record of a queue with opcode `op`. -/
def State.runningRec (s : State) (d op : Nat) : Option Rec :=
  (s.queue d).recs.find? fun r => decide (r.phase = .running ∧ r.op = op)

/-- A record replaced by what `f` makes of it. -/
def State.modRec (s : State) (d seq : Nat) (f : Rec → Rec) : State :=
  let q := s.queue d
  s.setQueue d { q with recs := q.recs.map fun x => if x.seq = seq ∧ x.isEnded = false then f x else x }

/-- A record starts: it is through its checks and runs; the first record of a list starts the list (R464). -/
def State.runRec (s : State) (d seq : Nat) : State :=
  let s1 := s.modRec d seq fun r => { r with phase := .running, startAt := s.tclk, startNs := s.now }
  let q := s1.queue d
  match q.recs.find? (fun r => r.seq == seq && !r.isEnded) with
  | none => s1
  | some r =>
    match q.listOf r.list with
    | none => s1
    | some l =>
      if l.firstSeq = some seq ∧ l.began = none then
        let ls := q.lists.map fun x => if x.id = l.id then { x with began := some s.tclk } else x
        { s1.setQueue d { q with lists := ls } with listStarts := s1.listStarts ++ [(d, s.tclk)] }
      else s1

/-- Check 10 of R115: the class is not degraded, nor refused by a vote of its records (R454). -/
def State.classOk (s : State) (cls : Nat) : Bool :=
  !(s.on (GRD_STATUS_DEGRADED.bit cls)) && !(s.on (GRD_STATUS_REFUSED.bit cls))

/-- What checks 1-8 of R115 find first in a fetched record: a status and the FIELD. -/
def headerCheck (q : Queue) (expect : Nat) (l : SubList) (bs : List Byte) : Option (Nat × Nat) :=
  let op := field bs 0 1
  let len := field bs 2 1
  let at0 := (l.start + l.fetched) % 2 ^ q.log2n
  if field bs 4 2 ≠ expect then some (E_SEQ, 4)
  else if len = 0 ∨ len = 0xFF then some (E_LEN, 2)
  else if l.units < l.fetched + len ∨ 2 ^ q.log2n < at0 + len then some (E_RANGE, 2)
  else
    match opInfo op with
    | none => some (E_OPCODE, 0)
    | some (c, lo, hi) =>
      if c ≠ none ∧ c ≠ some q.cls then some (E_OPCODE, 0)
      else if !(reservedOk (recLayout op) bs) then some (E_RESERVED, reservedField (recLayout op) bs)
      else if (op = 1 ∨ op = 3) ∧ field bs 40 4 ≠ 0 then some (E_RESERVED, 40)
      else if bitsOf (field bs 1 1) 2 1 = 1 ∧ bitsOf (field bs 1 1) 1 1 = 0 then some (E_FLAGS, 1)
      else if q.labelMask.getLsbD (bitsOf (field bs 3 1) 0 4) = false then some (E_LABEL, 3)
      else if len < lo ∨ hi < len then some (E_LEN, 2)
      else none

/-- The list whose record a queue fetches next: the first that is not over, when no earlier list has a fault whose
records have not all ended (R117). -/
def nextList : List SubList → Option SubList
  | [] => none
  | l :: ls => if l.faulted.isSome then none else if l.units ≤ l.fetched then nextList ls else some l

/-- Whether a record must start alone: BARRIER, or an opcode that acts with it (R113, R114, R120, R505). -/
def needsBarrier (bs : List Byte) : Bool :=
  decide (bitsOf (field bs 1 1) 0 1 = 1 ∨ field bs 0 1 = 1 ∨ field bs 0 1 = 3 ∨ field bs 0 1 = 0x3F)

/-- Whether a queue can fetch a record now (R106, R118, R120, R127): live, RUNNING, not held for ring room or by a
WAIT, below its execution width, the device not in Low power (R60) and the engines not held (R46). -/
def State.canFetch (s : State) (d : Nat) : Bool :=
  let q := s.queue d
  q.live && decide (s.rd (HIF_QSTAT_STATE.idx d) = qRunning) && !s.on (HIF_QSTAT_CQ_FULL.idx d)
    && !q.flushing && q.destroying.isNone && decide ((q.recs.filter fun r => !r.isEnded).length < execWidth q.cls)
    && !(q.recs.any fun r => decide (r.op = 2) && !r.isEnded) && !s.on PWR_STATUS_LOW_POWER && !s.pwr.enginesHeld

/-- The unit at which a queue fetches the next record of a list, and how many it takes (log entry 8). -/
def State.nextUnits (s : State) (q : Queue) (l : SubList) : Nat × Nat :=
  let u := (l.start + l.fetched) % 2 ^ q.log2n
  let len := field (s.ringUnits q u 1) 2 1
  (u, if len = 0 ∨ len = 0xFF ∨ l.units < l.fetched + len ∨ 2 ^ q.log2n < u + len then 1 else len)

/-- The record that a queue fetches now: its list, its first unit and its units; none while it must start alone and others have not
ended (R113). -/
def State.nextFetch (s : State) (d : Nat) : Option (SubList × Nat × Nat) :=
  let q := s.queue d
  match nextList q.lists with
  | none => none
  | some l =>
    let x := s.nextUnits q l
    if needsBarrier (s.ringUnits q x.1 1) && !(q.recs.all Rec.isEnded) then none else some (l, x)

/-- A queue fetches its next record and applies checks 1-8 of R115: the record starts on its way, or faults
(R115, R116).  One EXPECT_SEQ is consumed either way (R117).  How many units a record takes whose units read poisoned, or whose LEN
overruns the list or the ring, spec/ does not say: the LEN byte read counts for the first, one unit for the second.  Nor does it say
what the completion of a poisoned record holds: OPCODE, USER, COMPL and IRQ, and the BARRIER that holds its fetch, are those of the
bytes read (DESIGN CHOICE; log entry 8). -/
def State.fetchRecord (s : State) (d : Nat) : State :=
  let q := s.queue d
  match s.nextFetch d with
  | none => s
  | some (l, u, n) =>
    let bs := s.ringUnits q u n
    let expect := s.rd (HIF_QSTAT_EXPECT_SEQ.idx d)
    let l' := { l with fetched := l.fetched + n, firstSeq := some (l.firstSeq.getD expect) }
    let r : Rec := { seq := expect, list := l.id, bytes := bs, startAt := s.tclk }
    let q' := { q with lists := q.lists.map (fun x => if x.id = l.id then l' else x), recs := q.recs ++ [r] }
    let s1 := (s.setQueue d q').wr (HIF_QSTAT_EXPECT_SEQ.idx d) (expect + 1)
    let s2 := s1.wr (HIF_QHEAD_INDEX.idx d) ((u + n) % 2 ^ q.log2n)
    if s.addrExcluded (s.ringAddr q + 64 * u) then s2.faultRec d expect E_LINK
    else if s.rangePoisoned (s.ringAddr q + 64 * u) (64 * n) then s2.faultRec d expect E_POISON
    else
      match headerCheck q expect l bs with
      | some (st, f) => s2.faultRec d expect st f
      | none => s2

/-- What FUNC_REINIT makes of the records of a queue, in SEQ order (R103, R126): each list completes with E_ABORT at its first
unfinished record; a list with none left ends with its last record. -/
def State.abortRecs (s : State) (q : Queue) : List Rec → List Nat → List Rec
  | [], _ => []
  | r :: rs, seen =>
    let l := q.listOf r.list
    let left := match l with
      | some l => s.unfetched q l + l.cut.length
      | none => 0
    let isLast := match l with
      | some l => l.endsWithLast
      | none => true
    match r.phase with
    | .ended e =>
      let e' := if seen.contains r.list then { e with noLast := true }
        else if isLast && e.discard.isNone && !(rs.any (·.list == r.list)) then { e with discard := some left } else e
      { r with phase := .ended e' } :: s.abortRecs q rs seen
    | _ =>
      if seen.contains r.list then s.abortRecs q rs seen
      else
        let n := (rs.filter fun x => x.list == r.list && !x.isEnded).length
        { r with phase := .ended { status := E_ABORT, discard := some (n + left), time := s.now } } :: s.abortRecs q rs (r.list :: seen)

/-- Every list of a queue completes with E_ABORT at its first unfinished record, and the queue is empty with EXPECT_SEQ
0 (R103, R118). -/
def State.abortQueue (s : State) (d : Nat) : State :=
  let q := s.queue d
  let rest := q.lists.filter fun l => !(q.recs.any fun r => r.list == l.id && !r.isEnded) && !l.endsWithLast
  let ds := (s.discards q (s.rd (HIF_QSTAT_EXPECT_SEQ.idx d)) q.lists).1.filter fun r => rest.any (·.id == r.list)
  let s1 := s.setQueue d { q with lists := [], recs := s.abortRecs q q.recs [] ++ ds, flushing := false }
  let s2 := (s1.wr (HIF_QSTAT_EXPECT_SEQ.idx d) 0).wr (HIF_QSTAT_WAITING.idx d) 0
  let s3 := s2.wr (HIF_QHEAD_INDEX.idx d) (s2.rd (HIF_QTAIL_INDEX.idx d))
  let s4 := retireLoop d ((s3.queue d).recs.length) s3
  s4.wr (HIF_QSTAT_STATE.idx d) qIdle

/-! ## What may start (R113, R117, R118, R127, R277) -/

/-- Whether a queue may start a record: it is RUNNING and not being flushed, and no list before the record's has faulted. -/
def State.mayBegin (s : State) (d : Nat) (r : Rec) : Bool :=
  let q := s.queue d
  decide (s.rd (HIF_QSTAT_STATE.idx d) = qRunning) && !q.flushing && q.destroying.isNone
    && !((q.lists.takeWhile (·.id != r.list)).any (·.faulted.isSome))

end Sys2Proof.Machine
end

