-- ==== Sys2Proof/Machine/Access.lean ====
section
/-!
DEFINITION. Reaching device memory on behalf of a requester: the partition check and its report (R315-R316,
R325-R328), ECC and poison, and lost links (R304-R306, R202), memory-object ranges, and the record access of the engines.
-/
namespace Sys2Proof.Machine

/-- The range of the partition table that holds an address (R325). -/
def State.rangeAt (s : State) (a : Nat) : Option PRange :=
  s.mem.ranges.find? fun r => decide (r.base ≤ a ∧ a < r.base + r.size)

/-- The partition ID of an address: 31 where no range holds it (R326). -/
def State.partitionAt (s : State) (a : Nat) : Nat :=
  match s.rangeAt a with
  | some r => r.partition
  | none => 31

/-- The table of R326: whether a requester reaches a partition. -/
def mayReach (w : Who) (part : Nat) (hostVisible : Bool) : Bool :=
  let isColony := decide (w.label < 16)
  let fw := decide (w.label = 0x11)
  let maint := decide (w.label = 0x13)
  let host := decide (w.label = 0x10) && hostVisible
  if part ≤ 15 then (isColony && w.colony == part) || fw || maint || host
  else if part = 16 then isColony || fw || maint || host
  else if part = 17 then (isColony && w.honey) || decide (w.label = 0x14) || fw || maint
  else if part = 18 then fw || maint
  else if part = 19 then decide (w.label = 0x14) || fw || maint
  else if part = 20 then decide (w.label = 0x12) || fw || maint || host
  else maint

/-- Whether a requester may reach an address (R326). -/
def State.allowed (s : State) (w : Who) (a : Nat) : Bool :=
  match s.rangeAt a with
  | some r => mayReach w r.partition r.hostVisible
  | none => mayReach w 31 false

/-- Whether a colony may reach an object (R122, R272). -/
def colonyReaches (c : Nat) (o : MemObj) : Bool := decide (o.partition = c ∨ o.partition = 16)

/-- A request that failed the partition check (R328): counted, with an event for the first failure of its SOURCE in each
1 ms; ADDR is that of its first 64-byte word. -/
def State.violation (s : State) (w : Who) (a kind : Nat) : State :=
  let v := tget ({} : PViol) s.mem.pviol w.source
  let s1 := s.inc BWR_PVIOL_COUNT
  if v.seen ∧ s.tclk < v.lastAt + 125000 then
    { s1 with mem := { s1.mem with
        pviol := tset {} s1.mem.pviol w.source { v with suppressed := v.suppressed + 1 } } }
  else
    let d := leBytes 6 (a / 64 * 64) ++ [BitVec.ofNat 8 w.source, BitVec.ofNat 8 (w.label + 32 * kind),
      BitVec.ofNat 8 (s.partitionAt a), BitVec.ofNat 8 (min 255 v.suppressed)]
    let s2 := { s1 with mem := { s1.mem with
        pviol := tset {} s1.mem.pviol w.source { lastAt := s.tclk, seen := true, suppressed := 0 } } }
    s2.event 0x61 0x16 (if w.label < 16 then s.handle 2 w.colony else 0) E_PARTITION d

/-! ## The error log (R309, R310) -/

/-- A log entry with its DRAM_UE event. `o` is the die-local offset of the first word affected. -/
def State.logDram (s : State) (d kind o words addr label colony source requests : Nat) : State :=
  let h := s.rd (DMC_LOG_CTL_HEAD.idx d)
  let place := decide (kind ≠ 7)
  let bank := if place then offBank o else 0
  let row := if place then offRow o else 0
  let low := if kind = 5 ∨ kind = 7 then 0 else offBurst o + 8 * offWord o
  let e := leBytes 1 kind ++ leBytes 1 (offCh o) ++ leBytes 1 bank ++ [0] ++ leBytes 2 row ++ leBytes 1 low ++ leBytes 1 words
    ++ leBytes 8 s.now ++ leBytes 6 addr ++ leBytes 1 (label + 16 * colony) ++ leBytes 1 source ++ leBytes 2 requests ++ [0, 0]
    ++ leBytes 4 s.nextEvtSeq
  let s1 := (List.range 8).foldl (fun s n =>
    s.wr (({ DMC_LOG0_DATA with off := DMC_LOG0_DATA.off + 4 * n }.idx d).bank h) (field e (4 * n) 4)) s
  let s2 := (s1.inc (DMC_UE_COUNT.idx d)).wr (DMC_LOG_CTL_HEAD.idx d) ((h + 1) % 64)
  let s3 := if h = 63 then s2.wr (DMC_LOG_CTL_WRAPPED.idx d) 1 else s2
  s3.event 0x60 0x16 (d + 4 * offCh o + 128 * bank + 2048 * row) (if kind = 7 then 0 else E_POISON)
    (leBytes 6 addr ++ leBytes 1 kind ++ leBytes 1 (label + 16 * colony) ++ leBytes 1 source ++ leBytes 1 h)

/-! ## Accesses (R293, R305, R306, R327): each request of a transfer lies within one burst and is checked for itself -/

/-- The words of a range in which ECC finds an error when they are next read, with what it finds (R304, R305; log entry 127): none in a
word that stored data marks poisoned. -/
def State.arrayFinds (s : State) (a n : Nat) : List (Nat × Nat) :=
  s.pkg.inputs.arrayErrs.filter fun e => wordsMeet a n (64 * e.1) 64 && !s.isPoisoned e.1

/-- One word of the array read: an error corrected and counted, or an uncorrectable one stored poisoned and logged with `kind`
(R304, R305, R309). -/
def State.findWord (s0 : State) (w : Who) (kind : Nat) (e : Nat × Nat) : State :=
  let p := s0.pkg.inputs
  let s := { s0 with pkg := { s0.pkg with inputs := { p with arrayErrs := p.arrayErrs.erase e } } }
  let d := (s.dieOffset (64 * e.1)).1
  let sys := decide (16 ≤ w.label)
  if e.2 = 1 then s.inc (DMC_CE_COUNT.idx d)
  else (s.poisonWord e.1).logDram d kind (s.dieOffset (64 * e.1)).2 1 (64 * e.1) (if sys then 0 else w.label) (if sys then 0 else w.colony)
    w.source 1

/-- What ECC finds as a transfer reads the array (R304, R305): in the requests of it that reach one. -/
def State.findSpan (s : State) (w : Who) (a n : Nat) : State :=
  if s.pkg.inputs.arrayErrs = [] then s
  else (burstPieces a n).foldl (fun s e =>
    if s.allowed w e.1 = true ∧ s.addrExcluded e.1 = false then
      (s.arrayFinds e.1 e.2).foldl (fun s x => s.findWord w 1 x) s
    else s) s

/-- The words that a write stores in part and whose merge finds them uncorrectable (R296). -/
def State.mergeFinds (s : State) (a n : Nat) : List (Nat × Nat) :=
  (s.arrayFinds a n).filter fun e => !decide (a ≤ 64 * e.1 ∧ 64 * e.1 + 64 ≤ a + n)

/-- The status of one request: the partition check, an excluded pair, poison that a read finds, or a merge. -/
def State.burstStatus (s : State) (w : Who) (isWrite : Bool) (a n : Nat) : Nat :=
  if s.allowed w a = false then E_PARTITION
  else if isWrite then
    (if s.addrExcluded a then E_LINK else if (s.mergeFinds a n).any fun e => e.2 == 2 then E_POISON else 0)
  else s.memStatus a n

/-- What one request leaves beside memory: a violation reported, or its passage (R320, R328, R332). -/
def State.passRequest (s : State) (w : Who) (isWrite : Bool) (a n : Nat) : State :=
  if s.allowed w a = false then s.violation w a (if isWrite then 1 else 0)
  else if s.addrExcluded a then s
  else s.passBurst w isWrite a n

/-- The first status other than 0 among the requests of a transfer. -/
def State.spanStatus (s : State) (w : Who) (isWrite : Bool) (a n : Nat) : Nat :=
  (((burstPieces a n).map fun e => s.burstStatus w isWrite e.1 e.2).find? (· != 0)).getD 0

/-- The requests of a transfer, one after another. -/
def State.passSpan (s : State) (w : Who) (isWrite : Bool) (a n : Nat) : State :=
  (burstPieces a n).foldl (fun s e => s.passRequest w isWrite e.1 e.2) s

/-- The data of a read: a request that fails its check, or whose pair is excluded, returns none, which reads as 0 here. -/
def State.spanData (s : State) (w : Who) (a n : Nat) : List Byte :=
  (burstPieces a n).flatMap fun e =>
    if s.allowed w e.1 = false ∨ s.addrExcluded e.1 = true then List.replicate e.2 0 else memRead s.dram e.1 e.2

/-- A read by a requester: the state (violations and passage), the status and the data (R327, R305, R116). -/
def State.devLoad (s : State) (w : Who) (a n : Nat) : State × Nat × List Byte :=
  let s1 := s.findSpan w a n
  (s1.passSpan w false a n, s1.spanStatus w false a n, s1.spanData w a n)

/-- The bytes of a write that pass their checks are stored; the others are discarded (R327) or lost with their pair.  A word that is
stored in part is read first, and stays poisoned where that finds it uncorrectable (R296). -/
def State.storeSpan (s : State) (w : Who) (a : Nat) (bs : List Byte) : State :=
  (burstPieces a bs.length).foldl (fun s e =>
    let s1 := s.passRequest w true e.1 e.2
    let st := s.burstStatus w true e.1 e.2
    if st = 0 ∨ st = E_POISON then
      (s.mergeFinds e.1 e.2).foldl (fun s x => s.findWord w 6 x) (s1.pokeBytes e.1 ((bs.drop (e.1 - a)).take e.2))
    else s1) s

/-- A write by a requester: the state and the status (R327); a write to an excluded pair is lost with E_LINK. -/
def State.devStore (s : State) (w : Who) (a : Nat) (bs : List Byte) : State × Nat :=
  ((s.storeSpan w a bs).markWaits, s.spanStatus w true a bs.length)

/-- Whether `n` bytes at `off` lie within an object (R12). -/
def MemObj.fits (o : MemObj) (off n : Nat) : Bool := decide (off + n ≤ o.size)

/-- Whether a handle names a memory object and `n` bytes at `off` lie within it. -/
def State.objFits (s : State) (h off n : Nat) : Bool :=
  match s.objOf h with
  | some o => o.fits off n
  | none => false

/-- The address of offset `off` in the object that a handle names, or named before it was freed (R291, R329); one beyond DRAM,
where nothing is in reach, for a handle that never named one. -/
def State.objAddr (s : State) (h off : Nat) : Nat :=
  match s.handleIdx 1 h with
  | some i =>
    let o := tget ({} : MemObj) s.objs i
    if o.size = 0 then 2 ^ 36 + off else o.addr + off
  | none => 2 ^ 36 + off

/-- Reading an object by handle. -/
def State.objLoad (s : State) (w : Who) (h off n : Nat) : State × Nat × List Byte := s.devLoad w (s.objAddr h off) n

/-- Writing an object by handle. -/
def State.objStore (s : State) (w : Who) (h off : Nat) (bs : List Byte) : State × Nat :=
  s.devStore w (s.objAddr h off) bs

/-- The status of reading objects by handle, without the data: the first that fails of a list of ranges (handle, offset,
bytes). -/
def State.objsStatus (s : State) (w : Who) : List (Nat × Nat × Nat) → State × Nat
  | [] => (s, 0)
  | (h, off, n) :: r =>
    let (s1, st, _) := s.devLoad w (s.objAddr h off) n
    if st ≠ 0 then (s1, st) else s1.objsStatus w r

/-- A stretch of memory takes undefined content (R116): free bytes. -/
def State.undefine (s : State) (a n : Nat) : State := (s.memStore a (s.freeBytes n)).draw n

/-- The colony of a record's requests: the queue's, or the one that holds the label (R280, R316). -/
def State.recColony (s : State) (d : Nat) (r : Rec) : Nat :=
  match (s.queue d).colony with
  | some c => c
  | none => (s.labelColony r.label).getD 0

/-- The requester of a record (R280, R308). -/
def State.recWho (s : State) (d : Nat) (r : Rec) (source : Nat) : Who :=
  { label := r.label, colony := s.recColony d r, source := source }

/-- The first failure of checks that each give a status (or none): 0 when all pass. -/
def firstFail : List (Bool × Nat) → Nat
  | [] => 0
  | (ok, st) :: r => if ok then firstFail r else st

/-- Check 10 of R115 for a class: E_CFGVOTE when a vote refused it, E_DEGRADED when it is degraded (R454). -/
def State.check10 (s : State) (cls : Nat) : Nat :=
  if s.on (GRD_STATUS_REFUSED.bit cls) then E_CFGVOTE
  else if s.on (GRD_STATUS_DEGRADED.bit cls) then E_DEGRADED
  else 0

/-- The first failure of checks that each give a status and the FIELD it is reported at (R124): (0, 0xFFFF) when all
pass. -/
def firstField : List (Bool × Nat × Nat) → Nat × Nat
  | [] => (0, 0xFFFF)
  | (ok, st, f) :: r => if ok then firstField r else (st, f)

/-- What checks 9 and 10 of R115 give: the opcode's own failure, else that of the class. -/
def State.checks (s : State) (cls : Nat) (r : Nat × Nat) : Nat × Nat :=
  if r.1 ≠ 0 then r else (s.check10 cls, 0xFFFF)

end Sys2Proof.Machine
end

