-- ==== Sys2Proof/Machine/Control.lean ====
section
/-!
DEFINITION. The control engine: loop descriptors (R407, R408), samples (R413, R415), trajectories (R414), the evaluation
(R416), going safe (R417, R60) and the sinks (R418).
-/
namespace Sys2Proof.Machine

/-! ## Loops and their descriptors (R407, R408) -/

/-- Loop `n`. -/
def State.loop (s : State) (n : Nat) : Loop := tget ({} : Loop) s.ctl.loops n

/-- The state with loop `n` replaced. -/
def State.setLoop (s : State) (n : Nat) (l : Loop) : State :=
  { s with ctl := { s.ctl with loops := tset {} s.ctl.loops n l } }

/-- Whether a loop has been configured (R410). -/
def Loop.configured (l : Loop) : Bool := !l.obj.isEmpty

def Loop.fbKind (l : Loop) : Nat := bitsOf (field l.obj 0 1) 0 2
def Loop.spKind (l : Loop) : Nat := bitsOf (field l.obj 0 1) 2 2
def Loop.sinkPwm (l : Loop) : Bool := bitsOf (field l.obj 0 1) 4 1 == 1
def Loop.onSample (l : Loop) : Bool := bitsOf (field l.obj 0 1) 5 1 == 1
def Loop.tField (l : Loop) : Nat := bitsOf (field l.obj 1 1) 0 3
def Loop.ctx (l : Loop) : Nat := bitsOf (field l.obj 1 1) 3 2
def Loop.dlen (l : Loop) : Nat := bitsOf (field l.obj 2 1) 0 7
def Loop.period (l : Loop) : Nat := field l.obj 4 4
def Loop.stale (l : Loop) : Nat := field l.obj 8 4
def Loop.lookahead (l : Loop) : Nat := field l.obj 12 4

/-- The FP32 word at an offset of the loop object. -/
def Loop.f (l : Loop) (off : Nat) : Word := BitVec.ofNat 32 (field l.obj off 4)

/-- The offsets of the feedback, setpoint and sink signal blocks. -/
abbrev fbOff : Nat := 16
abbrev spOff : Nat := 32
abbrev snkOff : Nat := 72

/-- The fields of a signal block (R407) at `b`. -/
def sigPort (o : List Byte) (b : Nat) : Nat := field o b 2
def sigByte (o : List Byte) (b : Nat) : Nat := field o (b + 2) 1
def sigWidthCode (o : List Byte) (b : Nat) : Nat := bitsOf (field o (b + 3) 1) 0 2
def sigSigned (o : List Byte) (b : Nat) : Bool := bitsOf (field o (b + 3) 1) 2 1 == 1
def sigBuf (o : List Byte) (b : Nat) : Nat := bitsOf (field o (b + 3) 1) 3 3
def sigId (o : List Byte) (b : Nat) : Nat := bitsOf (field o (b + 4) 4) 0 29
def sigIde (o : List Byte) (b : Nat) : Bool := bitsOf (field o (b + 4) 4) 29 1 == 1

/-- The bytes of a signal. -/
def sigBytes (o : List Byte) (b : Nat) : Nat := 2 ^ sigWidthCode o b

/-- A value through SCALE and OFFSET of a signal block (R408, R418). -/
def sigScale (o : List Byte) (b : Nat) (x : Word) : Word :=
  fadd (fmul x (BitVec.ofNat 32 (field o (b + 8) 4))) (BitVec.ofNat 32 (field o (b + 12) 4))

/-- The raw value that data carries for a signal, as FP32; none where the data is too short (R413). -/
def sigRaw (o : List Byte) (b : Nat) (data : List Byte) : Option Word :=
  let n := sigBytes o b
  if data.length < sigByte o b + n then none
  else
    let x := field data (sigByte o b) n
    some (f32OfInt (if sigSigned o b then sintOf (8 * n) x else (x : Int)))

/-- The state codes of CTL_LOOP.STATE (R420). -/
abbrev loopDisabled : Nat := 1
abbrev loopEnabled : Nat := 2
abbrev loopSafe : Nat := 3

/-- Whether loop `n` is enabled. -/
def State.loopOn (s : State) (n : Nat) : Bool := s.on (CTL_ENABLED_LOOPS.bit n)

/-! ## Samples (R413, R415) -/

/-- A feedback sample reaches a loop: it is the newest; with TRIG 1 on an enabled loop it triggers it, or is kept until
PERIOD has passed, a kept one being replaced and counted (R415). -/
def State.feedSample (s : State) (n : Nat) (v : Word) (t : Nat) : State :=
  let l := s.loop n
  let x : Sample := { value := v, time := t, at_ := s.tclk }
  let l1 := { l with newest := some x }
  if l.onSample && s.loopOn n then
    let free := match l.lastTrig with
      | none => true
      | some k => decide (k + l.period ≤ s.tclk)
    if free && l.triggered.isNone then
      let s1 := s.setLoop n { l1 with triggered := some s.tclk, lastTrig := some s.tclk, pick := some x, kept := false }
      if l.kept then s1.inc (CTL_OVERRUN_COUNT.bank n) else s1
    else if l.kept then (s.setLoop n l1).inc (CTL_OVERRUN_COUNT.bank n)
    else s.setLoop n { l1 with kept := true }
  else s.setLoop n l1

/-- A source's data offered to one loop as feedback (R413). -/
def State.offerFeedback (s : State) (kind port id : Nat) (ide : Bool) (data : List Byte) (t : Nat) (n : Nat) : State :=
  let l := s.loop n
  if l.configured ∧ l.fbKind = kind ∧ sigPort l.obj fbOff = port
      ∧ (if kind = 2 then sigId l.obj fbOff % 4 = id else sigId l.obj fbOff = id ∧ sigIde l.obj fbOff = ide) then
    match sigRaw l.obj fbOff data with
    | some raw => s.feedSample n (sigScale l.obj fbOff raw) t
    | none => s.inc (CTL_OVERRUN_COUNT.bank n)
  else s

/-- A received CAN message offered to one loop as setpoint (R413). -/
def State.offerSetpoint (s : State) (port id : Nat) (ide : Bool) (data : List Byte) (n : Nat) : State :=
  let l := s.loop n
  if l.configured ∧ l.spKind = 2 ∧ sigPort l.obj spOff = port ∧ sigId l.obj spOff = id ∧ sigIde l.obj spOff = ide then
    match sigRaw l.obj spOff data with
    | some raw => s.setLoop n { l with setpoint := some (sigScale l.obj spOff raw) }
    | none => s.inc (CTL_OVERRUN_COUNT.bank n)
  else s

/-- A received CAN message offered to every loop, before and independently of the registry (R413). -/
def State.controlCan (s : State) (port id : Nat) (ide : Bool) (data : List Byte) (t : Nat) : State :=
  (List.range 32).foldl (fun s n => (s.offerSetpoint port id ide data n).offerFeedback 1 port id ide data t n) s

/-- An SPI transfer offered to every loop (R413). -/
def State.controlSpi (s : State) (port cs : Nat) (data : List Byte) (t : Nat) : State :=
  (List.range 32).foldl (fun s n => s.offerFeedback 2 port cs false data t n) s

/-- A GPIO period of `ns` between two edges offered to every loop: 10^9 / ns (R408, R413). -/
def State.controlGpio (s : State) (port ns t : Nat) : State :=
  (List.range 32).foldl (fun s n =>
    let l := s.loop n
    if l.configured ∧ l.fbKind = 3 ∧ sigPort l.obj fbOff = port then
      s.feedSample n (sigScale l.obj fbOff (fdiv (f32OfInt 1000000000) (f32OfInt ns))) t
    else s) s

/-! ## Trajectories (R403, R414) -/

/-- NSAMP, and field `f` of sample `i`, of a trajectory in the layout of R403. -/
def trajN (t : List Byte) : Nat := field t 24 2
def trajF (t : List Byte) (i f : Nat) : Word := BitVec.ofNat 32 (field t (64 + 32 * i + 4 * f) 4)

abbrev f32Pi : Word := 0x40490FDB
abbrev f32TwoPi : Word := 0x40C90FDB

/-- The difference of two headings along the shorter arc (R414). -/
def shortArc (d : Word) : Word :=
  if flt f32Pi d then fsub d f32TwoPi else if flt d (fneg f32Pi) then fadd d f32TwoPi else d

/-- Field `f` of a trajectory at time `t`: linear interpolation in time, HEAD along the shorter arc, held beyond both
ends (R414; the order of its FP32 operations is log entry 49). -/
def trajAt (tr : List Byte) (f t : Nat) : Word :=
  let n := trajN tr
  let t0 := field tr 8 8
  if t ≤ t0 then trajF tr 0 f
  else
    let i := (t - t0) / 20000000
    if n ≤ i + 1 then trajF tr (n - 1) f
    else
      let a := trajF tr i f
      let d := fsub (trajF tr (i + 1) f) a
      let d' := if f = 2 then shortArc d else d
      fadd a (fmul (fdiv (f32OfInt ((t - t0) % 20000000 : Nat)) (f32OfInt 20000000)) d')

/-- The trajectory that a context holds in the control engine; empty where it holds none. -/
def State.ctxTraj (s : State) (c : Nat) : List Byte := tget ([] : List Byte) s.ctl.traj c

/-- A trajectory delivered to a context (R414). -/
def State.deliverTraj (s : State) (c : Nat) (bs : List Byte) : State :=
  { s with ctl := { s.ctl with traj := tset [] s.ctl.traj c bs } }

/-! ## Sinks (R418) -/

/-- Whether the control engine is between steps 1 and 6 of a restart (R475). -/
def State.controlHeld (s : State) : Bool := s.saf.restarts.any fun r => r.cls == 4

/-- Whether a CAN port carries a frame: one of CAN FD only where the configuration runs CAN FD, and not on an ISOBUS (R336, R346). -/
def State.canCarries (s : State) (port : Nat) (f : CanFrame) : Bool :=
  !f.fdf || (s.ports.cfg.canFd.getLsbD port && !(tget ({} : Isobus) s.ports.isobus port).on)

/-- A frame placed in a CAN transmit buffer; a frame still unsent there is replaced (R418, R336).  One that the port does not carry is
not sent: spec/ does not say what becomes of it (DESIGN CHOICE; log entry 142). -/
def State.putCan (s : State) (port buf : Nat) (f : CanFrame) : State :=
  if s.canCarries port f = false then s
  else { s with ports := { s.ports with canTx := tset none s.ports.canTx (port * 32 + buf) (some f) } }

/-- The integer that a CAN sink carries for `u` (R418, R167). -/
def sinkInt (o : List Byte) (u : Word) : Nat :=
  let w := 8 * sigBytes o snkOff
  let v := f32 (sigScale o snkOff u)
  if sigSigned o snkOff then ofInt w (v.toIntClamp (-(2 ^ (w - 1) : Nat)) ((2 ^ (w - 1) : Nat) - 1))
  else ofInt w (v.toIntClamp 0 ((2 ^ w : Nat) - 1))

/-- The frame that a CAN sink sends for `u` (R418). -/
def sinkFrame (o : List Byte) (u : Word) : CanFrame :=
  { id := sigId o snkOff, ide := sigIde o snkOff, fdf := bitsOf (field o 2 1) 7 1 == 1,
    brs := bitsOf (field o 3 1) 0 1 == 1,
    data := (patch ((o.drop 128).take 64) (sigByte o snkOff) (leBytes (sigBytes o snkOff) (sinkInt o u))).take
      (bitsOf (field o 2 1) 0 7) }

/-- An output sent to a loop's sink: a CAN frame in transmit buffer 24 + BUF, or a PWM duty for the next period
(R418). -/
def State.sendOut (s : State) (n : Nat) (u : Word) : State :=
  let o := (s.loop n).obj
  let i := sigPort o snkOff % 256
  if (s.loop n).sinkPwm then
    let d := fmin (fmax (sigScale o snkOff u) 0) 0x3F800000
    { s with ports := { s.ports with pwm := tmod {} s.ports.pwm i fun p => { p with latched := some d } } }
  else
    let b := 24 + sigBuf o snkOff
    let s1 := if (tget none s.ports.canTx (i * 32 + b)).isSome then s.inc (CTL_TXREPL_COUNT.bank n) else s
    s1.putCan i b (sinkFrame o u)

/-! ## Going safe (R417, R60) -/

/-- LOOP_SAFE for a mask of loops (R102). -/
def State.loopSafeEvent (s : State) (mask cause : Nat) : State :=
  s.event 0x32 4 mask 0 [BitVec.ofNat 8 cause]

/-- A loop stops: disabled, with no trigger waiting. -/
def State.stopLoop (s : State) (n st : Nat) : State :=
  ((s.setLoop n { s.loop n with triggered := none, pick := none, kept := false }).wr (CTL_ENABLED_LOOPS.bit n) 0).wr
    (CTL_LOOP_STATE.bank n) st

/-- A loop goes safe (R417): SAFE to its sink, disabled, its CTL_SAFE bit set, LOOP_SAFE posted. -/
def State.goSafe (s : State) (n cause : Nat) : State :=
  ((((s.sendOut n ((s.loop n).f 64)).stopLoop n loopSafe).wr (CTL_SAFE_LOOPS.bit n) 1)).loopSafeEvent (2 ^ n) cause

/-- The enabled loops. -/
def State.enabledLoops (s : State) : List Nat := (List.range 32).filter s.loopOn

/-- Whether the engine's outputs wait for the end of a restart, whose last step sends them (R475, R476); a halted island A and a lost
clock wait for nothing (R442, R46). -/
def State.safeWaits (s : State) : Bool := s.controlHeld && !(s.on SAF_ISL_STATUS_A_HALTED) && !s.pwr.enginesHeld

/-- Every enabled loop sent to its safe value and disabled, with one LOOP_SAFE for them (R60, R103, R438, R442, R478, R46;
log entry 48); during a control restart its step 6 does so (R476). -/
def State.safeAll (s : State) (cause : Nat) : State :=
  let ns := s.enabledLoops
  if ns = [] ∨ s.safeWaits = true then s
  else (ns.foldl (fun s n => (s.sendOut n ((s.loop n).f 64)).stopLoop n loopDisabled) s).loopSafeEvent
    ((ns.map fun n => 2 ^ n).sum) cause

/-! ## The evaluation (R416) -/

/-- E_j and G_j of the gain table. -/
def Loop.e (l : Loop) (j : Nat) : Word := l.f (192 + 8 * j)
def Loop.g (l : Loop) (j : Nat) : Word := l.f (196 + 8 * j)

/-- The segment of the gain table that holds `e`: the largest j < `n` with E_j ≤ e. -/
def Loop.segment (l : Loop) (e : Word) : Nat → Nat
  | 0 => 0
  | j + 1 => if fle (l.e j) e then j else l.segment e j

/-- The gain at error `e` (R416). -/
def Loop.gain (l : Loop) (e : Word) : Word :=
  if flt e (l.e 0) then l.g 0
  else if fle (l.e 63) e then l.g 63
  else
    let j := l.segment e 63
    fadd (l.g j) (fmul (fdiv (fsub e (l.e j)) (fsub (l.e (j + 1)) (l.e j))) (fsub (l.g (j + 1)) (l.g j)))

/-- 10^-9 in FP32. -/
abbrev f32Nano : Word := 0x3089705F

/-- The setpoint of an evaluation with feedback time `t`; none where it is missing (R408, R414, R416). -/
def State.setpointAt (s : State) (l : Loop) (t : Nat) : Option Word :=
  if l.spKind = 0 then some (l.f 32)
  else if l.spKind = 1 then
    let tr := s.ctxTraj l.ctx
    if tr = [] then none else some (sigScale l.obj spOff (trajAt tr l.tField (t + l.lookahead)))
  else l.setpoint

/-- The loop's latency from its trigger to the sink, kept as a maximum in ns (R419, R420). -/
def State.noteLatency (s : State) (n t0 : Nat) : State := s.raise (CTL_MAXLAT_NS.bank n) ((s.tclk - t0) * 8)

/-- One evaluation of loop `n` on sample `y`, triggered at tick `t0` (R416). -/
def State.evalLoop (s : State) (n : Nat) (y : Sample) (t0 : Nat) : State :=
  let l := s.loop n
  let s1 := (s.setLoop n { l with triggered := none, pick := none, used := some y }).inc (CTL_EVALS_COUNT.bank n)
  if y.time + 8 * l.stale < s.now then s1.goSafe n 1
  else
    match s.setpointAt l y.time with
    | none => s1.goSafe n 1
    | some r =>
      let i := BitVec.ofNat 32 (s.rd (CTL_INTEG_I.bank n))
      let e := fsub r y.value
      let g := l.gain e
      let dt := fmul (f32OfInt ((y.time : Int) - l.yPrev)) f32Nano
      let d := if l.first then 0 else fdiv (fmul (l.f 52) (fsub e l.ePrev)) dt
      let v := fadd (fadd (fadd (l.f 68) (fmul g e)) i) d
      let u := fmin (fmax v (l.f 56)) (l.f 60)
      let sat := !(feq u v)
      let i' := if !sat && !l.first then fadd i (fmul (fmul (l.f 48) e) dt) else i
      if !(ffinite r && ffinite y.value && ffinite v && ffinite i') then s1.goSafe n 2
      else
        let l2 := { s1.loop n with ePrev := e, yPrev := y.time, first := false, mirrorI := i' }
        let s2 := ((s1.setLoop n l2).wr (CTL_INTEG_I.bank n) i'.toNat).wr (CTL_OUT_U.bank n) u.toNat
        let s3 := s2.wrB (CTL_LOOP_SAT.bank n) sat
        let s4 := if sat then s3.inc (CTL_SATCNT_COUNT.bank n) else s3
        (s4.sendOut n u).noteLatency n t0

/-- The triggered loop that is evaluated next: in order of trigger tick, ties to the lower index (R415). -/
def State.nextTriggered (s : State) : Option (Nat × Nat) :=
  (List.range 32).foldl (fun best n =>
    match (s.loop n).triggered with
    | none => best
    | some t => match best with
      | some (b, t') => if t < t' then some (n, t) else some (b, t')
      | none => some (n, t)) none

/-- The engine evaluates its next triggered loop; none triggered, or the engine held or stopped by a vote, leaves it as it is (R415,
R454, R475). -/
def State.evalNext (s : State) : State :=
  if s.controlHeld || s.pwr.enginesHeld || s.on PWR_STATUS_LOW_POWER || s.on (GRD_STATUS_REFUSED.bit 4) then s
  else
    match s.nextTriggered with
    | none => s
    | some (n, t0) =>
      match (s.loop n).pick with
      | none => s
      | some y => s.evalLoop n y t0

/-- A periodic trigger of loop `n` (R415): it comes PERIOD after ENABLE or the last one; with TRIG 0 it triggers when a
sample newer than the last one used exists, with TRIG 1 when a sample was kept. -/
def State.periodTrigger (s : State) (n : Nat) : State :=
  let l := s.loop n
  if !(s.loopOn n) then s
  else
    match l.lastTrig with
    | none => s
    | some k =>
      if l.onSample then
        if l.kept then
          let s1 := s.waitTo (k + l.period)
          s1.setLoop n { s1.loop n with kept := false, triggered := some s1.tclk, lastTrig := some s1.tclk, pick := l.newest }
        else s
      else
        let s1 := s.waitTo (k + l.period)
        let l1 := { s1.loop n with lastTrig := some (k + l.period) }
        if l.newest.isSome && l.newest != l.used then
          s1.setLoop n { l1 with triggered := some s1.tclk, pick := l1.newest }
        else s1.setLoop n l1

/-- A control restart leaves its loops to resume (R475): those that were enabled resume with no derivative and the
mirrored I, with the descriptors of their last LOOP_SET objects. -/
def State.reloadLoop (s : State) (n : Nat) : State :=
  let l := s.loop n
  if !l.configured then s
  else
    match s.obj l.ref.1 with
    | none => s
    | some o =>
      let (s1, st, bs) := s.devLoad { firmwareWho with source := 0x45 } (o.addr + l.ref.2) 704
      if st = 0 then s1.setLoop n { s1.loop n with obj := bs } else s1

/-- The reset of the control engine: descriptors reloaded, no sample, trigger or derivative history; the newest CAN setpoint stays, as after
ENABLE (R475). -/
def State.resetControl (s : State) : State :=
  (List.range 32).foldl (fun s n =>
    let s1 := s.reloadLoop n
    let l := s1.loop n
    let s2 := s1.setLoop n { l with newest := none, used := none, kept := false, triggered := none,
                                    pick := none, ePrev := 0, yPrev := 0, first := true }
    s2.wr (CTL_INTEG_I.bank n) l.mirrorI.toNat) s

end Sys2Proof.Machine
end

