-- ==== Sys2Proof/Machine/CheckValue.lean ====
section
/-!
DEFINITION. Check values: parameter blocks and the computation (R422, R423), the shared units (R426, R427), and the sensor channels as
the ports use them (R428-R431).
-/
namespace Sys2Proof.Machine

/-! ## Parameters and arithmetic (R422, R423) -/

/-- The fields of a parameter block. -/
def cvWidth (p : List Byte) : Nat := bitsOf (field p 0 1) 0 7
def cvRefIn (p : List Byte) : Bool := bitsOf (field p 0 1) 7 1 == 1
def cvRefOut (p : List Byte) : Bool := bitsOf (field p 1 1) 0 1 == 1
def cvBig (p : List Byte) : Bool := bitsOf (field p 1 1) 1 1 == 1
def cvPoly (p : List Byte) : Word64 := BitVec.ofNat 64 (field p 8 8)
def cvInit (p : List Byte) : Word64 := BitVec.ofNat 64 (field p 16 8)
def cvXor (p : List Byte) : Word64 := BitVec.ofNat 64 (field p 24 8)

/-- The check value's length C in bytes (R422). -/
def cvLen (p : List Byte) : Nat := ceilDiv (cvWidth p) 8

/-- Whether a parameter block meets R422. -/
def cvParamsOk (p : List Byte) : Bool :=
  let w := cvWidth p
  decide (8 ≤ w ∧ w ≤ 64) && decide (field p 8 8 < 2 ^ w ∧ field p 16 8 < 2 ^ w ∧ field p 24 8 < 2 ^ w)

/-- The mask of the register. -/
def cvMask (w : Nat) : Word64 := bitMask 0 w

/-- One bit step of the register (R423). -/
def cvBit (w : Nat) (poly crc : Word64) : Word64 :=
  let sh := crc <<< 1
  (if crc.getLsbD (w - 1) then sh ^^^ poly else sh) &&& cvMask w

/-- `n` bit steps. -/
def cvBits (w : Nat) (poly : Word64) : Nat → Word64 → Word64
  | 0, crc => crc
  | n + 1, crc => cvBits w poly n (cvBit w poly crc)

/-- A register reversed over its width. -/
def cvReverse (w : Nat) (x : Word64) : Word64 :=
  (List.range w).foldl (fun a i => a ||| (if x.getLsbD i then 1#64 <<< (w - 1 - i) else 0)) 0

/-- One input byte (R423). -/
def cvByte (p : List Byte) (crc : Word64) (b : Byte) : Word64 :=
  let x : Word64 := b.setWidth 64
  let x := if cvRefIn p then cvReverse 8 x else x
  cvBits (cvWidth p) (cvPoly p) 8 (crc ^^^ (x <<< (cvWidth p - 8)))

/-- The running value after more input (R423). -/
def cvRun (p : List Byte) (crc : Word64) (bs : List Byte) : Word64 := bs.foldl (cvByte p) crc

/-- The check value of a running value (R423). -/
def cvValue (p : List Byte) (crc : Word64) : Word64 :=
  (if cvRefOut p then cvReverse (cvWidth p) crc else crc) ^^^ cvXor p

/-! ## Shared units (R421, R426, R427) -/

/-- The unit that serves a queue (R421). -/
def State.cvUnitOf (s : State) (d : Nat) : Option Nat :=
  (List.range 4).find? fun u => tget (none : Option Nat) s.cv.binding u == some d

/-- A check-value queue is bound to the lowest free unit (R421; log entry 90). -/
def State.cvBind (s : State) (d : Nat) : State :=
  match (List.range 4).find? fun u => (tget (none : Option Nat) s.cv.binding u).isNone with
  | some u => { s with cv := { s.cv with binding := tset none s.cv.binding u (some d) } }
  | none => s

/-- The unit of a queue that is gone is free. -/
def State.cvUnbind (s : State) (d : Nat) : State :=
  { s with cv := { s.cv with binding := s.cv.binding.filter fun e => e.2 ≠ some d } }

/-- The parameters of a unit, where it holds some. -/
def State.cvParams (s : State) (u : Nat) : Option (List Byte) := (tget ({} : CvUnit) s.cv.units u).params

/-- A unit with parameters, a running value and whether it is valid. -/
def State.setCvUnit (s : State) (u : Nat) (p : Option (List Byte)) (crc : Word64) (valid : Bool) : State :=
  ({ s with cv := { s.cv with units := tset {} s.cv.units u { params := p } } }.wr (CRC_UNIT_VAL_CRC.idx u) crc.toNat).wrB
    (CRC_UNIT_VALID_UNITS.bit u) valid

/-- A unit's running value lost: undefined and not valid (R427). -/
def State.cvLose (s : State) (u : Nat) : State :=
  let v : Word64 := (Config.freeWord s.free) ++ (Config.freeWord (s.free + 1))
  (s.setCvUnit u (s.cvParams u) v false).draw 2

/-! ## Sensor channels (R428-R431) -/

/-- A channel. -/
def State.cvChan (s : State) (n : Nat) : CvChan := tget ({} : CvChan) s.cv.chans n

/-- The state with a channel replaced, and what the registers show of it. -/
def State.setCvChan (s : State) (n : Nat) (c : CvChan) : State :=
  let s1 := { s with cv := { s.cv with
    chans := tset {} s.cv.chans n c, changed := tset 0 s.cv.changed n s.now, was := tset {} s.cv.was n (s.cvChan n) } }
  (((s1.wrB (CRC_ARMED_CHANNELS.bit n) c.armed).wr (CRC_CH_CFG_INDEX.bank n) c.index).wrB (CRC_CH_CFG_ARMED.bank n) c.armed).wr
    (CRC_CH_CFG_WIDTH.bank n) (cvWidth c.params)

/-- The armed channel of a registry entry. -/
def State.chanOf (s : State) (e : Nat) : Option Nat := (List.range 16).find? fun n => (s.cvChan n).armed && (s.cvChan n).index == e

/-- Whether an item passes a channel's check (R429). -/
def CvChan.passes (c : CvChan) (item : List Byte) : Bool :=
  let n := cvLen c.params
  if item.length < c.skip + n + 1 then false
  else
    let range := (item.take (item.length - n)).drop c.skip
    let tail := item.drop (item.length - n)
    let stored := leNat (if cvBig c.params then tail.reverse else tail)
    (cvValue c.params (cvRun c.params (cvInit c.params) range)).toNat == stored

/-- A channel as it was for an item that began at `t` ns: a CV_CHAN applies from the first item that begins after it (R431). -/
def State.chanAt (s : State) (t n : Nat) : CvChan :=
  if t ≤ tget 0 s.cv.changed n then tget {} s.cv.was n else s.cvChan n

/-- An item of an entry that began at `t` ns checked by its channel, and counted (R429-R431): whether it passed; without a channel it
does.  The begin of a camera packet or an Ethernet frame is no operand of its command: it meets the configuration of its end (DESIGN
CHOICE; log entry 140). -/
def State.checkItem (s : State) (e : Nat) (item : List Byte) (t : Nat) : State × Bool :=
  match (List.range 16).find? fun n => (s.chanAt t n).armed && (s.chanAt t n).index == e with
  | none => (s, true)
  | some n =>
    if (s.chanAt t n).passes item then (s.inc (CRC_CH_PASS_COUNT.bank n), true) else (s.inc (CRC_CH_FAIL_COUNT.bank n), false)

/-- An attach gives an entry to another partner: its channel disarms and is LOST (R431). -/
def State.loseChan (s : State) (e : Nat) : State :=
  match s.chanOf e with
  | none => s
  | some n => (s.setCvChan n {}).wr (CRC_LOST_CHANNELS.bit n) 1

end Sys2Proof.Machine
end

