-- ==== Sys2Proof/Machine/Honey.lean ====
section
/-!
DEFINITION. Honey pages and sequences: geometry (R219, R228), page lists (R231), open and close (R232), allocation,
reserves and eviction (R234, R237-R240), finishing and sharing (R239, R249), score writes (R236).
-/
namespace Sys2Proof.Machine

/-- The head dimension of a DCODE (R219). -/
def headDim (dcode : Nat) : Nat := 64 * 2 ^ dcode

/-- The element size of a KV format (R219). -/
def kvBytes (fmt : Nat) : Nat := if fmt = 5 ∨ fmt = 6 then 2 else 1

/-- Positions per page, T (R219). -/
def pageT (fmt dcode : Nat) : Nat := 8192 / (headDim dcode * kvBytes fmt)

/-- The home of a page (R228). -/
def pageHome (n : Nat) : Nat := n / 2 ^ 19 % 4

/-- The pages of a home's pool; none on an excluded pair (R228). -/
def State.poolSize (s : State) (h : Nat) : Nat :=
  if s.on (DMC_STATUS_EXCLUDED.idx h) then 0 else tget 0 s.mem.poolPages h

/-- The pages of all pools, as GET_INFO reports them (R95, R228). -/
def State.honeyTotal (s : State) : Nat := ((List.range 4).map s.poolSize).sum

/-- Where a home's pool lies: its range of partition 17 (R228, R326). -/
def State.poolBase (s : State) (h : Nat) : Nat :=
  match s.mem.ranges.find? fun r => decide (r.partition = 17 ∧ r.base / 2 ^ 34 = h) with
  | some r => r.base
  | none => h * 2 ^ 34

/-- The device address of a page (R219, R228). -/
def State.pageAddr (s : State) (n : Nat) : Nat := s.poolBase (pageHome n) + n % 2 ^ 19 * 16384

/-- The honey map entry of a page. -/
def State.page (s : State) (n : Nat) : Honey := tget ({} : Honey) s.honey.pages n

/-- Whether a page exists: below its home's pool size, which is 0 on an excluded die (R228). -/
def State.pageExists (s : State) (n : Nat) : Bool := decide (n % 2 ^ 19 < s.poolSize (pageHome n))

/-- Where the map's words of a page lie: 24 bytes per page in the range of partition 19 (R228; log entry 40). -/
def State.mapAddr (s : State) (n : Nat) : Option Nat :=
  (s.mem.ranges.find? fun r => decide (r.partition = 19)).map fun r => r.base + 24 * n

/-- Whether the map's words of a page are poisoned (R306). -/
def State.mapPoisoned (s : State) (n : Nat) : Bool :=
  match s.mapAddr n with
  | some a => s.rangePoisoned a 24
  | none => false

/-- The 16 bytes of a honey map entry (R229). -/
def Honey.bytes (p : Honey) : List Byte :=
  leBytes 1 (p.state % 4 + 4 * p.pin.toNat + 8 * p.last.toNat + 16 * (p.colony % 16)) ++ leBytes 1 p.refcnt ++ leBytes 2 p.score
    ++ leBytes 3 p.owner ++ leBytes 1 p.use ++ leBytes 2 p.lpage ++ leBytes 2 (p.group % 4096)
    ++ leBytes 4 (p.gen % 512 + 512 * (p.fmt % 8) + 4096 * (p.dcode % 4))

/-- A honey map entry replaced, in the map and in its words in DRAM (R229); poisoned words, which stay as they are, retire the page
until the next device reset (R306). -/
def State.setPage (s : State) (n : Nat) (p : Honey) : State :=
  let q := { p with retired := p.retired || s.mapPoisoned n }
  let s1 := { s with honey := { s.honey with pages := tset {} s.honey.pages n q } }
  match s.mapAddr n with
  | some a => if q.retired then s1 else (s1.passSpan honeyMapWho true a 16).pokeBytes a q.bytes
  | none => s1

/-- The map's order counter advances (R234, R237). -/
def State.honeyTick (s : State) : State := { s with honey := { s.honey with clock := s.honey.clock + 1 } }


/-- The map's words of a page read (R230, R304, R315; log entry 120). -/
def State.readMap (s : State) (n : Nat) : State :=
  match s.mapAddr n with
  | some a => (s.devLoad honeyMapWho a 24).1
  | none => s

/-- A map entry as the map or the allocator reads it: poisoned words retire the page (R306). -/
def State.touchPage (s : State) (n : Nat) : State :=
  let s1 := s.readMap n
  if s1.mapPoisoned n then s1.setPage n (s1.page n) else s1

/-- A page of a finished or parked sequence that awaits its release (R260 step 6); `freeAt` counts units of 1.6 ns. -/
def Honey.awaits (p : Honey) (tclk : Nat) : Bool := decide (5 * tclk < p.freeAt)

/-! ## Page lists (R231) -/

/-- The device address of entry `i` of a sequence's page list. -/
def State.listAddr (s : State) (q : Seq) (i : Nat) : Nat := s.objAddr q.list (q.listOff + 4 * i)

/-- Entry `i` of a page list, as a number. -/
def State.listEntry (s : State) (q : Seq) (i : Nat) : Nat := leNat (memRead s.dram (s.listAddr q i) 4)

/-- `n` entries of a page list from entry `i` on read, by a requester (R280, R320). -/
def State.readEntries (s : State) (w : Who) (q : Seq) (i n : Nat) : State := s.passSpan w false (s.listAddr q i) (4 * n)

/-- Entry `i` of a page list written, by a requester (R280). -/
def State.setListEntry (s : State) (w : Who) (q : Seq) (i v : Nat) : State := (s.devStore w (s.listAddr q i) (leBytes 4 v)).1

/-- The requester of what the allocator and the brood table write for a colony under a label: list entries, zero fills and items
(R280, R308; log entry 116). -/
def allocWho (label colony : Nat) : Who := { label := label, colony := colony, honey := true, source := 0x42 }

/-- PAGE of a list entry. -/
def entryPage (e : Nat) : Nat := bitsOf e 0 21
/-- GEN of a list entry. -/
def entryGen (e : Nat) : Nat := bitsOf e 21 9
/-- EVICTED of a list entry. -/
def entryEvicted (e : Nat) : Bool := bitsOf e 30 1 == 1
/-- VALID of a list entry. -/
def entryValid (e : Nat) : Bool := bitsOf e 31 1 == 1

/-- The entries of a sequence's list: ⌈LIMIT / T⌉ × G (R249). -/
def Seq.entries (q : Seq) : Nat := ceilDiv q.limit (pageT q.kvFmt q.dcode) * q.g

/-! ## Sequences -/

/-- A live sequence by OWNER: whether the firmware table holds it, its index and itself (R244, R245). -/
def State.seqOf (s : State) (owner : Nat) : Option (Bool × Nat × Seq) :=
  match s.brood.table.find? fun e => decide (e.2.state ≠ 0 ∧ e.2.owner = owner) with
  | some (i, q) => some (false, i, q)
  | none =>
    match s.brood.fw.find? fun e => decide (e.2.state ≠ 0 ∧ e.2.owner = owner) with
    | some (i, q) => some (true, i, q)
    | none => none

/-- The state with a sequence replaced. -/
def State.setSeq (s : State) (fw : Bool) (i : Nat) (q : Seq) : State :=
  if fw then { s with brood := { s.brood with fw := tset {} s.brood.fw i q } }
  else { s with brood := { s.brood with table := tset {} s.brood.table i q } }

/-! ## Free, close, open -/

/-- A page becomes FREE: it keeps GEN and takes SCORE 0 (R239). -/
def State.freePage (s : State) (n : Nat) : State :=
  let p := s.page n
  (s.setPage n { p with state := 0, score := 0, refcnt := 0, pin := false, last := false,
                        stamp := s.honey.clock }).honeyTick

/-- REFCNT falls by 1; at 0 the page becomes FREE, or FREEING while it is open (R239). -/
def State.unrefPage (s : State) (n : Nat) : State :=
  let p := s.page n
  if p.state ≠ 1 then s
  else if 1 < p.refcnt then s.setPage n { p with refcnt := p.refcnt - 1 }
  else if p.use = 0 then s.freePage n
  else s.setPage n { p with refcnt := 0, state := 2 }

/-- A close: USE falls by 1, and a FREEING page with no open left becomes FREE (R232, R239). -/
def State.closePage (s : State) (n : Nat) : State :=
  let p := s.page n
  let u := p.use - 1
  let s1 := s.setPage n { p with use := u }
  if p.state = 2 ∧ u = 0 then s1.freePage n else s1

/-- What an open finds (R232). -/
inductive OpenResult where
  | opened
  | masked
  | partition
  deriving DecidableEq, Repr

/-- An open of the page that a list entry names, for a job of a colony (R232; log entry 41). -/
def State.openPage (s0 : State) (e fmt dcode colony : Nat) : State × OpenResult :=
  let n := entryPage e
  let s := if entryValid e then s0.touchPage n else s0
  let p := s.page n
  if !(entryValid e) ∨ s.pageExists n = false ∨ p.retired ∨ p.state ≠ 1 ∨ p.gen ≠ entryGen e ∨ p.fmt ≠ fmt ∨ p.dcode ≠ dcode then
    (s, .masked)
  else if p.colony ≠ colony then (s, .partition)
  else (s.setPage n { p with use := min 255 (p.use + 1) }, .opened)

/-- Pages closed, one close each. -/
def State.closePages (s : State) (ns : List Nat) : State := ns.foldl State.closePage s

/-! ## Allocation and eviction -/

/-- The free page count F (R234): neither a retired page nor one that awaits its release (R260) is free. -/
def State.freeCount (s : State) : Nat :=
  s.honeyTotal - (s.honey.pages.filter fun e =>
    (e.2.state != 0 || e.2.retired || e.2.awaits s.tclk) && s.pageExists e.1).length

/-- The pages that a colony holds, H_c (R234). -/
def State.heldPages (s : State) (c : Nat) : Nat :=
  (s.honey.pages.filter fun e => decide (e.2.state ≠ 0 ∧ e.2.colony = c) && s.pageExists e.1).length

/-- The unmet reserves of the other colonies, U (R234). -/
def State.unmetReserves (s : State) (c : Nat) : Nat :=
  ((List.range 16).map fun c' =>
    if c' ≠ c ∧ (s.colony c').live then (s.colony c').honeyReserve - s.heldPages c' else 0).sum

/-- The lowest number from `n` to `n + fuel - 1` that is not among rising keys. -/
def firstGap : Nat → Nat → List Nat → Option Nat
  | 0, _, _ => none
  | _ + 1, n, [] => some n
  | fuel + 1, n, k :: ks =>
    if k < n then firstGap (fuel + 1) n ks else if k = n then firstGap fuel (n + 1) ks else some n

/-- The entry with the smallest stamp. -/
def oldest : List (Nat × Honey) → Option Nat
  | [] => none
  | e :: es =>
    some (es.foldl (fun (b : Nat × Honey) x => if x.2.stamp < b.2.stamp then x else b) e).1

/-- The free page of a home that was freed earliest; a page never used counts as freed before every other
(R234; log entry 42). -/
def State.freeOn (s : State) (h : Nat) : Option Nat :=
  let keys := s.honey.pages.map (·.1)
  match firstGap (s.poolSize h) (h * 2 ^ 19) (keys.filter fun k => decide (h * 2 ^ 19 ≤ k)) with
  | some n => some n
  | none => oldest (s.honey.pages.filter fun e =>
      decide (e.2.state = 0 ∧ pageHome e.1 = h) && s.pageExists e.1 && !e.2.retired && !(e.2.awaits s.tclk))

/-- The homes in the order in which the allocator looks at them: the comb's, then increasing modulo 4 (R234). -/
def homeOrder (h : Nat) : List Nat := [h % 4, (h + 1) % 4, (h + 2) % 4, (h + 3) % 4]

/-- The free page that the allocator takes for a comb on home `h`. -/
def State.takeFree (s : State) (h : Nat) : Option Nat := (homeOrder h).findSome? s.freeOn

/-- Whether a page is an eviction candidate of a colony (R237). -/
def State.evictable (s : State) (c n : Nat) (p : Honey) : Bool :=
  decide (p.state = 1 ∧ p.pin = false ∧ p.last = false ∧ p.refcnt = 1 ∧ p.use = 0 ∧ p.colony = c)
    && !p.retired && s.pageExists n

/-- The page that the allocator evicts for a colony, asked from home `h` (R237). -/
def State.victim (s : State) (c h : Nat) : Option Nat :=
  let cands := s.honey.pages.filter fun e => s.evictable c e.1 e.2
  match (List.range 16).find? fun b => cands.any fun e => decide (e.2.score / 4096 = b) with
  | none => none
  | some b => (homeOrder h).findSome? fun h' =>
      oldest (cands.filter fun e => decide (e.2.score / 4096 = b ∧ pageHome e.1 = h'))

/-- Whether a sequence's list holds a page (R231, R238): the entry of its logical page and group names it with its GEN. -/
def State.lists (s : State) (n : Nat) (p : Honey) (q : Seq) : Bool :=
  let i := p.lpage * q.g + p.group
  let e := s.listEntry q i
  decide (q.state ≠ 0 ∧ q.colony = p.colony ∧ i < q.entries ∧ entryPage e = n ∧ entryGen e = p.gen) && entryValid e

/-- Eviction: the entry of the list that holds the victim, its owner's or that of the last sharer of its prefix, is written VALID 0,
EVICTED 1, PAGE unchanged (R238). -/
def State.evict (s : State) (w : Who) (n : Nat) : State :=
  let p := s.page n
  match (s.brood.table ++ s.brood.fw).find? fun e => s.lists n p e.2 with
  | none => s
  | some (_, q) =>
    let i := p.lpage * q.g + p.group
    (s.readEntries w q i 1).setListEntry w q i (s.listEntry q i % 2 ^ 30 + 2 ^ 30)

/-- The page of logical page `lp` − 1 of a group that a sequence's list names, where there is one (R234). -/
def State.pageBefore (s : State) (q : Seq) (lp g : Nat) : Option Nat :=
  let e := s.listEntry q ((lp - 1) * q.g + g)
  let p := s.page (entryPage e)
  if 0 < lp ∧ entryValid e = true ∧ p.state = 1 ∧ p.gen = entryGen e then some (entryPage e) else none

/-- An allocation completes on page `n` for logical page `lp` of group `g` of a sequence (R234, R221): the entry, LAST
of the page before it, the zero fill and the list entry. -/
def State.grantPage (s0 : State) (w : Who) (n : Nat) (q : Seq) (lp g : Nat) : State :=
  let s := s0.readEntries w q ((lp - 1) * q.g + g) (min lp 1)
  let gen := ((s.page n).gen + 1) % 512
  let prev := s.pageBefore q lp g
  let s1 := (s.setPage n { state := 1, pin := q.pin, last := true, colony := q.colony, refcnt := 1, score := 0xFFFF,
                           owner := q.owner, use := 0, lpage := lp % 65536, group := g, gen := gen, fmt := q.kvFmt,
                           dcode := q.dcode,
                           stamp := s.honey.clock }).honeyTick
  let s2 := (s1.devStore w (s1.pageAddr n) (List.replicate 16384 0)).1
  let s3 := match prev with
    | some m => s2.setPage m { s2.page m with last := false, cleared := (s2.page m).last }
    | none => s2
  s3.setListEntry w q (lp * q.g + g) (n % 2 ^ 21 + gen * 2 ^ 21 + 2 ^ 31)

/-- The page that the allocator takes and whether it is a victim (R234, R237); a page whose map words read poisoned is retired, and
the next one taken (R306). -/
def State.choosePage (s : State) (c home : Nat) : Nat → State × Option (Bool × Nat)
  | 0 => (s, none)
  | fuel + 1 =>
    let free := if s.unmetReserves c < s.freeCount then s.takeFree home else none
    let pick := match free with
      | some n => some (false, n)
      | none => (s.victim c home).map fun n => (true, n)
    match pick with
    | none => (s, none)
    | some (v, n) =>
      let s1 := s.touchPage n
      if s1.mapPoisoned n then s1.choosePage c home fuel else (s1, some (v, n))

/-- The allocator serves a request: the page it takes, or none (R234, R237, R240).  A poisoned word, or one in which
ECC finds an error, holds words of at most 4 pages, each of which is retired at most once. -/
def State.allocate (s : State) (w : Who) (q : Seq) (home lp g : Nat) : State × Option Nat :=
  match s.choosePage q.colony home (4 * (s.poison.length + s.pkg.inputs.arrayErrs.length) + 1) with
  | (s1, some (false, n)) => (s1.grantPage w n q lp g, some n)
  | (s1, some (true, n)) => ((s1.evict w n).grantPage w n q lp g, some n)
  | (s1, none) => (s1, none)

/-- The page of entry `i` of a list is returned FREE and its entry written VALID 0; where its allocation cleared LAST on the page
before it, that page takes LAST again, so that every page of the sequence stays unchanged (R240, R257): also where the page itself
was evicted since. -/
def State.returnPage (s0 : State) (w : Who) (q : Seq) (i : Nat) : State :=
  let s := s0.readEntries w q i 1
  let e := s.listEntry q i
  let n := entryPage e
  let s1 := if entryValid e = true ∧ (s.page n).gen = entryGen e then s.unrefPage n else s
  let s2 := match s.pageBefore q (i / q.g) (i % q.g) with
    | some m => if (s1.page m).cleared then s1.setPage m { s1.page m with last := true, cleared := false } else s1
    | none => s1
  s2.setListEntry w q i (e % 2 ^ 31)

/-- The pages of a list at logical pages `i` with i × T ≥ `npos` are returned FREE, and their entries written VALID 0
(R240, R257, R258). -/
def State.returnFrom (s : State) (w : Who) (q : Seq) (npos : Nat) : State :=
  let t := pageT q.kvFmt q.dcode
  (List.range q.entries).foldl (fun s i =>
    let e := s.listEntry q i
    if npos ≤ i / q.g * t ∧ (entryValid e = true ∨ entryEvicted e = true) then s.returnPage w q i else s) s

/-- A sequence finishes: its entry becomes FREE, every page of its list is released and every list entry written
VALID 0 (R239, R247). -/
def State.finishSeq (s : State) (w : Who) (fw : Bool) (i : Nat) (q : Seq) : State :=
  let s1 := (List.range q.entries).foldl (fun s i =>
    let e := s.listEntry q i
    if entryValid e then
      let p := s.page (entryPage e)
      let s' := if p.gen = entryGen e then s.unrefPage (entryPage e) else s
      s'.setListEntry w q i (e % 2 ^ 31)
    else s) (s.readEntries w q 0 q.entries)
  s1.setSeq fw i {}

/-- The pages that a step's update freed are released one per 12.8 ns after it, in the order in which they were freed, and are not
free before (R260 step 6); `old` is the state before the update. -/
def State.stageRelease (s old : State) : State :=
  let freed := s.honey.pages.filter fun e => e.2.state == 0 && (old.page e.1).state != 0
  (freed.mergeSort fun a b => a.2.stamp ≤ b.2.stamp).foldl (fun s e =>
    let at' := max s.honey.releaseAt (5 * s.tclk) + 8
    let s1 := s.setPage e.1 { e.2 with freeAt := at' }
    { s1 with honey := { s1.honey with releaseAt := at' } }) s

/-- PIN set or cleared, in the entry and at the home of every page that the sequence owns (R235, R247). -/
def State.pinSeq (s : State) (fw : Bool) (i : Nat) (q : Seq) (pin : Bool) : State :=
  let s1 := s.setSeq fw i { q with pin := pin }
  (s1.honey.pages.filter fun e => decide (e.2.owner = q.owner ∧ e.2.state ≠ 0)).foldl
    (fun s e => s.setPage e.1 { e.2 with pin := pin }) s1

/-- A score write at a page's home (R236): dropped when GEN differs; a change of bucket enters the new one. -/
def State.scorePage (s : State) (n gen w16 : Nat) : State :=
  let p := s.page n
  if p.state ≠ 1 ∨ p.gen ≠ gen then s
  else
    let sc := max (min 0xFFFF w16) (p.score / 2)
    if sc / 4096 = p.score / 4096 then s.setPage n { p with score := sc }
    else (s.setPage n { p with score := sc, stamp := s.honey.clock }).honeyTick

/-- The shared prefix of a SEQ_JOIN, entry by entry: REFCNT rises where the entry passes; a failure undoes the rises
already made (R249 check 7). -/
def State.sharePages (s : State) (q : Seq) : Nat → List Nat → State × Nat
  | 0, _ => (s, 0)
  | n + 1, done =>
    let i := done.length
    let e := s.listEntry q i
    let p := s.page (entryPage e)
    let undo (st : Nat) : State × Nat :=
      (done.foldl (fun s m => s.setPage m { s.page m with refcnt := (s.page m).refcnt - 1 }) s, st)
    if !(entryValid e) ∨ s.pageExists (entryPage e) = false ∨ p.state ≠ 1 ∨ p.gen ≠ entryGen e ∨ p.colony ≠ q.colony then
      undo E_RANGE
    else if 255 ≤ p.refcnt then undo E_NORES
    else (s.setPage (entryPage e) { p with refcnt := p.refcnt + 1 }).sharePages q n (entryPage e :: done)

end Sys2Proof.Machine
end

