-- ==== Sys2Proof/Machine/Comb.lean ====
section
/-!
DEFINITION. The comb: scratchpad mapping and slots (R173-R183), cells and vector engine (R135-R139, R160-R169),
window store (R201-R203), pipeline effects (R132), holds (R142-R145) and the cache (R186-R191).
-/
namespace Sys2Proof.Machine

/-- A comb by global index. -/
def State.comb (s : State) (g : Nat) : Comb := tget ({} : Comb) s.combs g

/-- The state with a comb replaced. -/
def State.setComb (s : State) (g : Nat) (c : Comb) : State := { s with combs := tset {} s.combs g c }

/-- The state with a comb changed. -/
def State.modComb (s : State) (g : Nat) (f : Comb → Comb) : State := s.setComb g (f (s.comb g))

/-! ## Scratchpad (R173, R174) -/

/-- The slot of a scratchpad address. -/
def slotOf (a : Nat) : Nat := a / 4096 % 2048

/-- The bank of a scratchpad address: A[13:9] XOR A[18:14] (R174). -/
def bankOf (a : Nat) : Nat := (a / 512 % 32) ^^^ (a / 16384 % 32)

/-- The first address of the cache region of a CACHE_MODE, the end of what slots may use (R186). -/
def cacheBase (mode : Nat) : Nat := if mode = 1 then 0x600000 else if mode = 2 then 0x400000 else 0x800000

/-- A byte of a comb's scratchpad; a byte of undefined content is a free value, one not written since
a clear is 0. -/
def Comb.byte (c : Comb) (g a : Nat) : Byte :=
  match tget none c.spad a with
  | some b => b
  | none => if c.spadZero then 0 else Config.spadByte g c.spadSeed a

/-- `n` bytes of a comb's scratchpad. -/
def Comb.bytes (c : Comb) (g a : Nat) : Nat → List Byte
  | 0 => []
  | n + 1 => c.byte g a :: c.bytes g (a + 1) n

/-- Bytes stored in a comb's scratchpad. -/
def spadWrite (t : Table (Option Byte)) (a : Nat) : List Byte → Table (Option Byte)
  | [] => t
  | b :: bs => spadWrite (tset none t a (some b)) (a + 1) bs

/-- A list of 32-byte words with those of `n` bytes from `a`. -/
def touchWords (l : List Nat) (a n : Nat) : List Nat :=
  if n = 0 then l else (List.range ((a + n - 1) / 32 + 1 - a / 32)).foldl (fun l i => insertWord (a / 32 + i) l) l

/-- Bytes that a job writes into its comb's scratchpad. -/
def Comb.putSpad (c : Comb) (a : Nat) (bs : List Byte) : Comb :=
  { c with spad := spadWrite c.spad a bs, wrote := touchWords c.wrote a bs.length }

/-- The scratchpad content that the job wrote becomes undefined (R148). -/
def Comb.undefineSpad (c : Comb) (g : Nat) : Comb :=
  { c with spadSeed := c.spadSeed + 1, wrote := [],
           spad := c.wrote.foldl (fun t w => spadWrite t (32 * w)
             ((List.range 32).map fun i => Config.spadByte g (c.spadSeed + 1) (32 * w + i))) c.spad }

/-- Every slot EMPTY (R180, R185). -/
def Comb.resetSlots (c : Comb) : Comb := { c with slots := [], seen := [], marked := [], lateMarked := [], deferred := [] }

/-- The scratchpad cleared, and its slots reset (R475). -/
def Comb.clearSpad (c : Comb) : Comb := { c.resetSlots with spad := [], spadZero := true, wrote := [] }

/-! ## Slots (R179-R183) -/

/-- The table of R180 for one change of a slot. -/
def slotChange (t : Table Slot) : SlotChange → Table Slot
  | .release n =>
    let x := tget {} t n
    if x.state = 1 then tset {} t n (if 1 < x.count then { x with count := x.count - 1 } else {}) else t
  | .mark n k =>
    let x := tget {} t n
    if x.state = 2 then t else tset {} t n { state := 1, count := k }

def SlotChange.slot : SlotChange → Nat
  | .release n => n
  | .mark n _ => n

def SlotChange.isMark : SlotChange → Bool
  | .release _ => false
  | .mark _ _ => true

/-- A MARK in a wall cycle (R183): one scheduled and one non-scheduled (`late`) MARK of a slot apply, a further one in the next. -/
def Comb.markSlot (late : Bool) (c : Comb) (x : SlotChange) : Comb :=
  if (if late then c.lateMarked else c.marked).contains x.slot then { c with deferred := c.deferred ++ [x] }
  else
    { c with slots := slotChange c.slots x, marked := if late then c.marked else c.marked ++ [x.slot],
             lateMarked := if late then c.lateMarked ++ [x.slot] else c.lateMarked }

/-- The changes by scheduled accesses that take effect in one cycle (R180, R183): every release before every MARK. -/
def Comb.schedChanges (c : Comb) (xs : List SlotChange) : Comb :=
  (xs.filter SlotChange.isMark).foldl (Comb.markSlot false)
    { c with slots := (xs.filter fun x => !x.isMark).foldl slotChange c.slots }

/-- A change by a forager or scratchpad operation at the end of the last wall cycle: a release goes before the MARKs of its cycle,
which set COUNT after it (R183); the sequencer sees it one wall cycle later (R144, R181).  A comb whose last bundle has issued, or
that runs no job, has no cycles that the model counts: there each change comes in a cycle of its own. -/
def Comb.lateChange (c : Comb) (x : SlotChange) : Comb :=
  if c.lastIssued = true ∨ c.job = none then { c with slots := slotChange c.slots x }
  else if x.isMark then c.markSlot true x
  else if c.marked.contains x.slot ∨ c.lateMarked.contains x.slot = true then c
  else { c with slots := slotChange c.slots x }

/-- A slot as the foragers' and scratchpad operations' checks see it. -/
def Comb.slot (c : Comb) (n : Nat) : Slot := tget {} c.slots n

/-- The slots that `n` bytes from a scratchpad address touch. -/
def slotsTouched (a n : Nat) : List Nat :=
  (List.range ((a + n - 1) / 4096 + 1 - a / 4096)).map (· + a / 4096)

/-! ## Cells (R135-R138, R160-R164) -/

/-- The bits of an element in a cell's buffers by format code (R155). -/
def cellElem (m : Memory) (base code i : Nat) : Nat :=
  if elemBits code = 4 then bitsOf (memGet m (base + i / 2)).toNat (4 * (i % 2)) 4
  else if elemBits code = 8 then (memGet m (base + i)).toNat
  else leNat (memRead m (base + 2 * i) 2)

/-- The elements of one input vector: 32 of 4 bits, else 16 (R135). -/
def vecElems (code : Nat) : Nat := if elemBits code = 4 then 32 else 16

/-- The bytes of one input vector in an input row (R135). -/
def vecBytes (code : Nat) : Nat := if elemBits code = 16 then 32 else 16

/-- The leading-bit exponent of a finite nonzero value. -/
def FVal.lead : FVal → Option Int
  | .fin _ m e => if m = 0 then none else some ((Nat.log2 m : Int) + e)
  | _ => none

/-- A value with every bit below 2^q dropped, towards zero (R161). -/
def FVal.truncAt (q : Int) : FVal → FVal
  | .fin n m e => if q ≤ e then .fin n m e else .fin n (m / 2 ^ (q - e).toNat) q
  | v => v

/-- The sum of values, exactly; of none, +0. -/
def exactSum : List FVal → FVal
  | [] => .fin false 0 0
  | v :: vs => vs.foldl FVal.add v

/-- The largest leading-bit exponent among values. -/
def maxLead (vs : List FVal) : Option Int :=
  vs.foldl (fun a v => match a, v.lead with
    | none, x => x
    | a, none => a
    | some x, some y => some (max x y)) none

/-- The vector sum V of one output column (R161): exact, but in FP16 and BF16 each product loses what lies more than 48
places below the leading bit of the largest. -/
def vectorSum (code : Nat) (ps : List FVal) : FVal :=
  if code = 5 ∨ code = 6 then
    match maxLead ps with
    | some l => exactSum (ps.map (FVal.truncAt (l - 48)))
    | none => exactSum ps
  else exactSum ps

/-- The value of an element as a cell consumes it, without its block scale. -/
def cellVal (code x : Nat) : FVal :=
  if code = 2 then fE2M1.decode x else elemVal code x 0x7F

/-- The vector sums of the 64 columns for vector `v` of input buffer `b` against the active tile (R160, R161). -/
def Cell.sums (c : Cell) (code wcode b v : Nat) : List FVal :=
  let n := vecElems code
  let xs := (List.range n).map fun i => cellVal code (cellElem c.input (512 * b + vecBytes code * v) code i)
  (List.range 64).map fun col =>
    let ps := xs.zipIdx.map fun (x, r) => x.mul (cellVal wcode (cellElem c.active 0 wcode (64 * r + col)))
    let v0 := vectorSum code ps
    if code = 2 then
      (v0.mul (e8m0 (memGet c.input (1024 + 32 * b + v)).toNat)).mul (e8m0 (memGet c.active (2048 + col)).toNat)
    else v0

/-- The integer a finite value denotes, where it is one. -/
def FVal.toInt (v : FVal) : Int := v.toIntClamp (-(2 ^ 62)) (2 ^ 62)

/-- An accumulator after one vector sum (R162, R163). -/
def accumulate (isInt acc : Bool) (old : Word) (v : FVal) : Word :=
  if isInt then
    let x := (if acc then old.toInt else 0) + v.toInt
    BitVec.ofInt 32 (max (-(2 ^ 31)) (min (2 ^ 31 - 1) x))
  else toF32 (if acc then (f32 old).add v else v)

/-- Values stored in a table from a key. -/
def putWords (t : Table Word) (k : Nat) : List Word → Table Word
  | [] => t
  | w :: ws => putWords (tset 0 t k w) (k + 1) ws

/-- An accumulator entry updated column by column; `k` is its first key. -/
def accumEntry (isInt acc : Bool) (t : Table Word) (k : Nat) : List FVal → Table Word
  | [] => t
  | v :: vs => accumEntry isInt acc (tset 0 t k (accumulate isInt acc (tget 0 t k) v)) (k + 1) vs

/-- The cells of a mask. -/
def cellsOf (m : BitVec 8) : List Nat := (List.range 8).filter fun i => m.getLsbD i

/-- Bytes stored in the vector registers, from byte `off` of the first. -/
def putBytes (t : Table Word) (off : Nat) : List Byte → Table Word
  | [] => t
  | b :: bs =>
    let k := 8 * (off % 4)
    putBytes (tset 0 t (off / 4) ((tget 0 t (off / 4) &&& ~~~(0xFF#32 <<< k)) ||| (b.setWidth 32 <<< k))) (off + 1) bs

/-- Every cell of a mask changed. -/
def Comb.modCells (c : Comb) (m : BitVec 8) (f : Cell → Cell) : Comb :=
  { c with cells := (cellsOf m).foldl (fun t i => tmod {} t i f) c.cells }

/-! ## Pipeline effects (R132) -/

/-- Whether an effect is a WEMIT's, which stands over a read that lands in the same cycle (R203). -/
def PipeEff.isEmit : PipeEff → Bool
  | .emit _ _ _ => true
  | _ => false

/-- Whether bytes are a whole row. -/
def isRow (bs : List Byte) : Bool := decide (bs.length = 512)

/-- The bits of the dirty sectors that a cache write touches. -/
def sectorBits (wide : Bool) (a : Nat) : BitVec 16 := if wide then 0xFFFF else 1#16 <<< (a % 512 / 32)

/-- The scratchpad row of a line (R187). -/
def lineRow (mode k : Nat) : Nat := cacheBase mode + k * 512

/-- A write of DRAM address `a` commits in line `k` (R132, R178, R188, R189): its sectors are dirty, a whole row clears its poison, and
the row's pending write-back of a correction is dropped.  A line that has been invalidated since takes nothing. -/
def Comb.storeLine (c : Comb) (k a : Nat) (bs : List Byte) : Comb :=
  let l := tget ({} : Line) c.tags k
  if l.valid ∧ l.addr = a / 512 * 512 then
    { c with tags := tset {} c.tags k { l with dirty := l.dirty ||| sectorBits (isRow bs) a, poison := l.poison && !(isRow bs) },
             eccRows := c.eccRows.filter (· ≠ lineRow c.cacheMode k / 512) }.putSpad
      (lineRow c.cacheMode k + a % 512) bs
  else c

/-- One effect takes place.  Corrected ECC rows owe 2 frozen cycles and a write-back (R143, R178); a committed write
drops the write-back of its row. -/
def Comb.take (c : Comb) : PipeEff → Comb
  | .input m off bs => c.modCells m fun x => { x with input := memWrite x.input off bs }
  | .emit m off bs => c.modCells m fun x => { x with input := memWrite x.input off bs }
  | .shadow m off bs => c.modCells m fun x => { x with shadow := memWrite x.shadow off bs }
  | .line off bs => { c with lines := memWrite c.lines off bs }
  | .accum cell k isInt acc v =>
    { c with cells := tmod {} c.cells cell fun x => { x with acc := accumEntry isInt acc x.acc k v } }
  | .vreg lane ws => { c with vregs := putWords c.vregs lane ws }
  | .vbytes off bs => { c with vregs := putBytes c.vregs off bs }
  | .store a bs => { c.putSpad a bs with eccRows := c.eccRows.filter (· ≠ a / 512) }
  | .cstore k a bs => c.storeLine k a bs
  | .slot _ => c
  | .ecc row fatal =>
    if fatal then c else { c with eccLeft := c.eccLeft + 2, eccRows := insertWord row c.eccRows }

/-- The slot change of an effect. -/
def PipeEff.change : PipeEff → Option SlotChange
  | .slot x => some x
  | _ => none

/-- The effects that an advance cycle ends with, in order; WEMIT data last (R203). -/
def Comb.takeAll (c : Comb) (es : List PipeEff) : Comb :=
  let c1 := ((es.filter fun e => !e.isEmit).foldl Comb.take c).schedChanges (es.filterMap PipeEff.change)
  (es.filter PipeEff.isEmit).foldl Comb.take c1

/-- The effects due by schedule cycle `x`, taken. -/
def Comb.advancePipe (c : Comb) (x : Nat) : Comb :=
  let due := (c.pipe.filter fun e => decide (e.1 ≤ x)).map (·.2)
  { c with pipe := c.pipe.filter fun e => decide (x < e.1) }.takeAll due

/-- The end of a wall cycle: the effects due by schedule cycle `due` in an advance cycle, then the MARKs deferred from the cycle
before (R183); the sequencer's view takes the changes of non-scheduled accesses, and forager entries freed and fills done are seen
(R143, R144). -/
def Comb.endCycle (c : Comb) (due : Option Nat) : Comb :=
  let c0 := { c with marked := [], lateMarked := [], deferred := [] }
  let c1 := match due with
    | some x => c0.advancePipe x
    | none => c0
  let c2 := c.deferred.foldl (Comb.markSlot true) c1
  { c2 with seen := c2.slots, fillLag := false, foragers := tmap (fun f => { f with freed := 0 }) c2.foragers }

/-- The whole pipeline drained after the last bundle, in the order of the schedule (R131, R141). -/
def Comb.drainPipe : Nat → Comb → Comb
  | 0, c => c
  | n + 1, c =>
    match c.pipe with
    | [] => c
    | e :: es => drainPipe n (c.endCycle (some (es.foldl (fun m x => min m x.1) e.1)))

/-- Whether an effect is an ECC error of a row: an uncorrectable one, or a corrected one. -/
def isEcc (fatal : Bool) : PipeEff → Bool
  | .ecc _ f => f == fatal
  | _ => false

/-- The number of corrected rows among effects. -/
def eccCount (es : List (Nat × PipeEff)) (x : Nat) : Nat := (es.filter fun e => isEcc false e.2 && decide (e.1 ≤ x)).length

/-- Whether an uncorrectable row is due (R178). -/
def eccFatal (es : List (Nat × PipeEff)) (x : Nat) : Bool := es.any fun e => isEcc true e.2 && decide (e.1 ≤ x)

/-! ## Vector engine (R139, R165-R169) -/

/-- A vector register, 128 lanes. -/
def Comb.vreg (c : Comb) (r : Nat) : List Word := (List.range 128).map fun i => tget 0 c.vregs (128 * r + i)

/-- The 512 bytes of a vector register. -/
def Comb.vregBytes (c : Comb) (r : Nat) : List Byte := (c.vreg r).flatMap fun w => leBytes 4 w.toNat

/-- Words from bytes, four bytes each. -/
def wordsOf : Nat → List Byte → List Word
  | 0, _ => []
  | n + 1, bs => BitVec.ofNat 32 (leNat (bs.take 4)) :: wordsOf n (bs.drop 4)

/-- 1.0 where a relation holds, +0 where not: what a compare leaves in a lane (log entry 30). -/
def laneBool (b : Bool) : Word := if b then 0x3F800000 else 0

/-- One lane of a vector operation. -/
def laneOp (op : VOp) (a b c : Word) : Word :=
  match op with
  | .add => fadd a b
  | .sub => fsub a b
  | .mul => fmul a b
  | .fma => ffma a b c
  | .max => fmax a b
  | .min => fmin a b
  | .lt => laneBool (flt a b)
  | .le => laneBool (fle a b)
  | .eq => laneBool (feq a b)
  | .recip => frecip a
  | .sqrt => fsqrt a
  | .exp2 => fexp2 a
  | .exp => fexp a

/-- The schedule cycles after which a vector operation's result is usable (R132).  It names none for a minimum or maximum, which take
those of a compare (DESIGN CHOICE; log entry 134). -/
def vopOffset : VOp → Nat
  | .recip => 10
  | .sqrt => 12
  | .exp2 => 12
  | .exp => 12
  | _ => 4

/-- Lane by lane over three registers. -/
def lanes3 (op : VOp) : List Word → List Word → List Word → List Word
  | a :: as, b :: bs, c :: cs => laneOp op a b c :: lanes3 op as bs cs
  | _, _, _ => []

/-- Conversion of `n` packed elements to FP32 lanes (R159, R168): element `i` of an MXFP4 array takes scale `i / 32` of the array of
scales; code 8 takes drained INT32 values. -/
def lanesToFp32 (fmt n : Nat) (elems scales : List Byte) : List Word :=
  let m : Memory := memWrite [] 0 elems
  if fmt = 8 then (wordsOf n elems).map fun w => f32OfInt w.toInt
  else (List.range n).map fun i => convToF32 fmt (cellElem m 0 fmt i) (scales.getD (i / 32) 0).toNat

/-- Two 4-bit elements packed per byte (R158). -/
def packNibbles : List Nat → List Byte
  | a :: b :: r => BitVec.ofNat 8 (a % 16 + 16 * (b % 16)) :: packNibbles r
  | [a] => [BitVec.ofNat 8 (a % 16)]
  | [] => []

/-- The MXFP4 blocks of FP32 lanes (R169). -/
def mxBlocks : Nat → List Word → List (Nat × List Nat)
  | 0, _ => []
  | n + 1, ws => toMx (ws.take 32) :: mxBlocks n (ws.drop 32)

/-- Conversion of FP32 lanes to packed elements and, in MXFP4, block scales (R159, R167-R169). -/
def lanesFromFp32 (fmt : Nat) (ws : List Word) : List Byte × List Byte :=
  if fmt = 2 then
    let bs := mxBlocks (ws.length / 32) ws
    (bs.flatMap fun b => packNibbles b.2, bs.map fun b => BitVec.ofNat 8 b.1)
  else if fmt = 0 then (packNibbles (ws.map (convFromF32 0)), [])
  else (ws.flatMap fun w => leBytes (elemBits fmt / 8) (convFromF32 fmt w), [])

/-! ## Window store (R201-R203) -/

/-- Bytes of vector `j` that a WEMIT assembles (R202). -/
def wemitElem (lines : Memory) (w : Wemit) (j i : Nat) : List Byte :=
  let x : Int := w.xin + j * w.stride
  if w.nch ≤ i then leBytes w.eb 0
  else if w.rowpad ∨ x < 0 ∨ (w.width : Int) ≤ x then leBytes w.eb w.pad
  else memRead lines ((16 * w.group + i) * 1024 + ((x - w.xb) * w.eb).toNat) w.eb

/-- Whether a WEMIT needs a line position outside 0 to 1,023 (R202). -/
def wemitOut (w : Wemit) : Bool :=
  (List.range w.n).any fun j =>
    let x : Int := w.xin + j * w.stride
    let p := (x - w.xb) * w.eb
    !(w.rowpad || decide (x < 0) || decide ((w.width : Int) ≤ x)) && decide (0 < w.nch) &&
      (decide (p < 0) || decide (1024 < p + w.eb))

/-- The bytes that a WEMIT writes into an input buffer. -/
def wemitBytes (lines : Memory) (w : Wemit) : List Byte :=
  (List.range w.n).flatMap fun j => (List.range 16).flatMap fun i => wemitElem lines w j i

/-! ## Cache (R187-R191) -/

/-- The sets of a cache mode (R187). -/
def cacheSets (mode : Nat) : Nat := if mode = 1 then 512 else 1024

/-- The set of a DRAM address. -/
def cacheSet (mode a : Nat) : Nat := a / 512 % cacheSets mode

/-- The key set × 8 + way of the line that holds a DRAM address. -/
def Comb.findLine (c : Comb) (a : Nat) : Option Nat :=
  let st := cacheSet c.cacheMode a
  ((List.range 8).map (8 * st + ·)).find? fun k =>
    let l := tget ({} : Line) c.tags k
    l.valid && l.addr == a / 512 * 512

/-- The way that tree pseudo-LRU names: bit 0 the root, 1-2 its children, 3-6 theirs; a bit of 0 leads to the lower
half (R187; log entry 31). -/
def plruWay (t : BitVec 7) : Nat :=
  let b0 := if t.getLsbD 0 then 1 else 0
  let b1 := if t.getLsbD (1 + b0) then 1 else 0
  let b2 := if t.getLsbD (3 + 2 * b0 + b1) then 1 else 0
  4 * b0 + 2 * b1 + b2

/-- The tree after a use of a way: every bit on its path points away from it. -/
def plruTouch (t : BitVec 7) (w : Nat) : BitVec 7 :=
  let b0 := w / 4 % 2
  let b1 := w / 2 % 2
  let b2 := w % 2
  let put (t : BitVec 7) (i b : Nat) : BitVec 7 := if b = 0 then t ||| (1#7 <<< i) else t &&& ~~~(1#7 <<< i)
  put (put (put t 0 b0) (1 + b0) b1) (3 + 2 * b0 + b1) b2

/-- The line that a miss of an address replaces: the lowest invalid way, else the pseudo-LRU way. -/
def Comb.victimLine (c : Comb) (a : Nat) : Nat :=
  let st := cacheSet c.cacheMode a
  match (List.range 8).find? fun w => !(tget ({} : Line) c.tags (8 * st + w)).valid with
  | some w => 8 * st + w
  | none => 8 * st + plruWay (tget 0 c.plru st)

/-- A use of a line. -/
def Comb.touchLine (c : Comb) (k : Nat) : Comb :=
  { c with plru := tset 0 c.plru (k / 8) (plruTouch (tget 0 c.plru (k / 8)) (k % 8)) }

/-- Whether an effect is a write to line `k`. -/
def PipeEff.toLine (k : Nat) : PipeEff → Bool
  | .cstore j _ _ => j == k
  | _ => false

/-- The writes to a line that have issued and not committed yet commit, in their order. -/
def Comb.commitLine (c : Comb) (k : Nat) : Comb :=
  (c.pipe.filter fun e => e.2.toLine k).foldl (fun c e => c.take e.2) { c with pipe := c.pipe.filter fun e => !e.2.toLine k }

/-- A line leaves the cache, with what has been written to it; a dirty one moves to the write-back buffer (R188). -/
def Comb.dropLine (c0 : Comb) (g k : Nat) : Comb :=
  let c := c0.commitLine k
  let l := tget ({} : Line) c.tags k
  let wb := if l.valid ∧ (l.dirty ≠ 0 ∨ l.poison = true) ∧ l.dirty ≠ 0 then
      [⟨l.addr, l.dirty, l.poison, c.bytes g (lineRow c.cacheMode k) 512⟩] else []
  { c with tags := tset {} c.tags k {}, writeBacks := c.writeBacks ++ wb }

/-- Whether replacing a line needs room in a full write-back buffer of 4 lines (R188). -/
def Comb.wbBlocked (c : Comb) (k : Nat) : Bool :=
  let l := tget ({} : Line) c.tags k
  l.valid && decide (l.dirty ≠ 0) && decide (4 ≤ c.writeBacks.length)

/-- The requester of a comb's job (R280, R308). -/
def State.combWho (s : State) (g : Nat) : Who :=
  match (s.comb g).job with
  | none => { label := 0, source := g }
  | some k =>
    let j := tget ({} : Job) s.jobs k
    { label := j.label, colony := j.colony.getD ((s.labelColony j.label).getD 0), source := g }

/-- The 64-byte words of a line with a dirty sector. -/
def dirtyWords (d : BitVec 16) : Nat := ((List.range 8).filter fun i => d.getLsbD (2 * i) || d.getLsbD (2 * i + 1)).length

/-- A line written back by one request (R188, R189, R327): its dirty sectors go to DRAM, poisoned where the line is; the status of
one that fails. -/
def State.writeBackLine (s : State) (who : Who) (w : WriteBack) : State × Nat :=
  let st := s.burstStatus who true w.addr 512
  if w.dirty = 0 then (s, 0)
  else if st = E_PARTITION then (s.violation who w.addr 1, st)
  else if st ≠ 0 then (s, st)
  else
    let s1 := (List.range 16).foldl (fun s i =>
      if w.dirty.getLsbD i then
        let s' := s.pokeBytes (w.addr + 32 * i) ((w.bytes.drop (32 * i)).take 32)
        if w.poison then s'.poisonWord ((w.addr + 32 * i) / 64) else s'
      else s) (s.passBurst who true w.addr (64 * dirtyWords w.dirty))
    (s1.markWaits, 0)

/-- Lines written back one after another: the first status that is not 0. -/
def State.writeBackAll (s : State) (who : Who) : List WriteBack → State × Nat
  | [] => (s, 0)
  | w :: ws =>
    let (s1, st) := s.writeBackLine who w
    let (s2, st2) := s1.writeBackAll who ws
    (s2, if st ≠ 0 then st else st2)

/-- The write-back buffer of a comb emptied into DRAM. -/
def State.drainWriteBacks (s : State) (g : Nat) : State × Nat :=
  let r := s.writeBackAll (s.combWho g) (s.comb g).writeBacks
  (r.1.modComb g fun c => { c with writeBacks := [] }, r.2)

/-- The write-back of a cached line. -/
def Comb.writeBackOf (c : Comb) (g k : Nat) : WriteBack :=
  let l := tget ({} : Line) c.tags k
  ⟨l.addr, if l.valid then l.dirty else 0, l.poison, c.bytes g (lineRow c.cacheMode k) 512⟩

/-- Cached lines written back: their dirty sectors go to DRAM and they become clean (R193). -/
def State.cleanLines (s : State) (g : Nat) (ks : List Nat) : State × Nat :=
  let r := s.writeBackAll (s.combWho g) (ks.map ((s.comb g).writeBackOf g))
  (r.1.modComb g fun c => { c with tags := ks.foldl (fun t k => tset {} t k { tget {} t k with dirty := 0 }) c.tags }, r.2)

/-- Every dirty sector of a comb written back and every line dropped (R191). -/
def State.flushCache (s : State) (g : Nat) : State × Nat :=
  let (s1, st) := s.drainWriteBacks g
  let (s2, st2) := s1.cleanLines g ((s1.comb g).tags.map (·.1))
  (s2.modComb g fun c => { c with tags := [], plru := [], fill := none }, if st ≠ 0 then st else st2)

end Sys2Proof.Machine
end

