-- ==== Sys2Proof/Machine/Tile.lean ====
section
/-!
DEFINITION. Sliding-window operators: tile records and layer chains (R216-R218), output sizes and regions (R207,
R213), and the values of convolution, pooling and resampling layers (R199-R212).
-/
namespace Sys2Proof.Machine

/-- The fields of a tile command record (R216). -/
def tileLayout : Layout :=
  [(0, 0, 8), (1, 0, 4), (4, 0, 32), (8, 0, 32), (12, 0, 32), (16, 0, 64), (24, 0, 64), (32, 0, 32), (36, 0, 32),
   (40, 0, 16), (42, 0, 16), (44, 0, 16), (46, 0, 16), (48, 0, 16), (50, 0, 16), (52, 0, 16)]

/-- The fields of a layer entry (R217). -/
def layerLayout : Layout :=
  [(0, 0, 4), (0, 4, 3), (1, 0, 3), (1, 3, 3), (1, 6, 2), (2, 0, 4), (2, 4, 4), (3, 0, 4), (3, 4, 4), (4, 0, 4),
   (4, 4, 4), (5, 0, 7), (6, 0, 7), (7, 0, 3), (8, 0, 16), (10, 0, 16), (12, 0, 16), (14, 0, 16), (16, 0, 32),
   (20, 0, 32)]

/-- A layer entry, read (R217). -/
structure Layer where
  op : Nat
  act : Nat
  inFmt : Nat
  outFmt : Nat
  padMode : Nat
  kh : Nat
  kw : Nat
  sh : Nat
  sw : Nat
  dh : Nat
  dw : Nat
  ph : Nat
  pw : Nat
  wFmt : Nat
  cin : Nat
  cout : Nat
  groups : Nat
  padValue : Nat
  wOff : Nat
  sbOff : Nat
  deriving DecidableEq, Repr

/-- The fields of a layer entry's 32 bytes. -/
def Layer.ofBytes (b : List Byte) : Layer :=
  let f (off n lo w : Nat) := bitsOf (field b off n) lo w
  { op := f 0 1 0 4, act := f 0 1 4 3, inFmt := f 1 1 0 3, outFmt := f 1 1 3 3, padMode := f 1 1 6 2,
    kh := f 2 1 0 4, kw := f 2 1 4 4, sh := f 3 1 0 4, sw := f 3 1 4 4, dh := f 4 1 0 4, dw := f 4 1 4 4,
    ph := f 5 1 0 7, pw := f 6 1 0 7, wFmt := f 7 1 0 3, cin := field b 8 2, cout := field b 10 2,
    groups := field b 12 2, padValue := field b 14 2, wOff := field b 16 4, sbOff := field b 20 4 }

/-- Upsampling (R211). -/
def Layer.isUp (l : Layer) : Bool := decide (l.op = 5 ∨ l.op = 6)

/-- The output size of one dimension (R207, R211); 0 where the window does not fit. -/
def outSize (up : Bool) (h k s d p : Nat) : Nat :=
  if up then h * s
  else if h + 2 * p < d * (k - 1) + 1 then 0
  else (h + 2 * p - d * (k - 1) - 1) / s + 1

/-- The output height and width of a layer. -/
def Layer.outHW (l : Layer) (hw : Nat × Nat) : Nat × Nat :=
  (outSize l.isUp hw.1 l.kh l.sh l.dh l.ph, outSize l.isUp hw.2 l.kw l.sw l.dw l.pw)

/-- The sizes along a chain: the input image first. -/
def chainSizes (hw : Nat × Nat) : List Layer → List (Nat × Nat)
  | [] => [hw]
  | l :: ls => hw :: chainSizes (l.outHW hw) ls

/-! ## Weight tiles (R205, R206) -/

def Layer.cinG (l : Layer) : Nat := l.cin / l.groups
def Layer.coutG (l : Layer) : Nat := l.cout / l.groups

/-- Whether the layer's groups pack into tiles (R205). -/
def Layer.packed (l : Layer) : Bool := decide (l.cinG ≤ 16 ∧ l.coutG ≤ 64)

/-- Groups per packed tile (R205). -/
def Layer.perTile (l : Layer) : Nat := min (16 / l.cinG) (64 / l.coutG)

/-- Input blocks of an output block. -/
def Layer.inBlocks (l : Layer) : Nat := if l.packed then 1 else ceilDiv l.cinG 16

/-- Output blocks of a layer. -/
def Layer.outBlocks (l : Layer) : Nat :=
  if l.packed then ceilDiv l.groups l.perTile else l.groups * ceilDiv l.coutG 64

/-- The bytes of a weight tile (R206). -/
def Layer.tileBytes (l : Layer) : Nat := if elemBits l.wFmt = 16 then 2048 else 1024

/-- The bytes of a layer's weight tiles. -/
def Layer.weightBytes (l : Layer) : Nat := l.outBlocks * l.kh * l.kw * l.inBlocks * l.tileBytes

/-- The output block and the tile column of an output channel (R205). -/
def Layer.outPlace (l : Layer) (co : Nat) : Nat × Nat :=
  let g := co / l.coutG
  let r := co % l.coutG
  if l.packed then (g / l.perTile, g % l.perTile * l.coutG + r)
  else (g * ceilDiv l.coutG 64 + r / 64, r % 64)

/-- The first input channel and the channel count of input block `ib` of an output block (R205). -/
def Layer.inPlace (l : Layer) (ob ib : Nat) : Nat × Nat :=
  if l.packed then
    (ob * l.perTile * l.cinG, min l.perTile (l.groups - ob * l.perTile) * l.cinG)
  else
    let g := ob / ceilDiv l.coutG 64
    (g * l.cinG + 16 * ib, min 16 (l.cinG - 16 * ib))

/-- Where a weight tile starts: by output block, then ky, then kx, then input block (R206). -/
def Layer.tileOff (l : Layer) (ob ky kx ib : Nat) : Nat :=
  l.wOff + (((ob * l.kh + ky) * l.kw + kx) * l.inBlocks + ib) * l.tileBytes

/-! ## Values -/

/-- A tensor's elements as raw encodings: channel, row, column. -/
abbrev Tensor := Nat → Nat → Nat → Nat

/-- A pad element's encoding (R208). -/
def Layer.pad (l : Layer) : Nat := if l.padMode = 0 then 0 else l.padValue % 2 ^ elemBits l.inFmt

/-- The element of an input tensor at signed row and column, padded outside the image (R202, R208). -/
def Layer.get (l : Layer) (hw : Nat × Nat) (t : Tensor) (c : Nat) (y x : Int) : Nat :=
  if y < 0 ∨ x < 0 ∨ (hw.1 : Int) ≤ y ∨ (hw.2 : Int) ≤ x then l.pad
  else t c y.toNat x.toNat % 2 ^ elemBits l.inFmt

/-- The taps of a convolution in the order of the accumulation: ky, input block, kx.  spec/08 gives that order for 8-bit formats; for the
16-bit ones R172 leaves it to the placement, and the same order is taken (DESIGN CHOICE; log entry 135). -/
def Layer.taps (l : Layer) : List (Nat × Nat × Nat) :=
  (List.range l.kh).flatMap fun ky => (List.range l.inBlocks).flatMap fun ib => (List.range l.kw).map fun kx =>
    (ky, ib, kx)

/-- The accumulator of output channel `co` at an output pixel: ZERO on the first tap, ACC after it (R161-R163). -/
def Layer.accAt (l : Layer) (w : Memory) (hw : Nat × Nat) (t : Tensor) (co oy ox : Nat) : Word :=
  let (ob, col) := l.outPlace co
  let isInt := decide (l.inFmt = 1)
  let one (a : Option Word) (tap : Nat × Nat × Nat) : Option Word :=
    let (ky, ib, kx) := tap
    let (c0, nch) := l.inPlace ob ib
    let y : Int := (oy * l.sh : Nat) - (l.ph : Int) + (ky * l.dh : Nat)
    let x : Int := (ox * l.sw : Nat) - (l.pw : Int) + (kx * l.dw : Nat)
    let ps := (List.range 16).map fun i =>
      let e := if i < nch then l.get hw t (c0 + i) y x else 0
      (cellVal l.inFmt e).mul (cellVal l.wFmt (cellElem w (l.tileOff ob ky kx ib) l.wFmt (64 * i + col)))
    some (accumulate isInt a.isSome (a.getD 0) (vectorSum l.inFmt ps))
  (l.taps.foldl one none).getD 0

/-- ReLU and SiLU (R212, R217). -/
def actOf (act : Nat) (x : Word) : Word :=
  if act = 1 then fmax x 0
  else if act = 2 then fmul x (frecip (fadd 0x3F800000 (fexp (fneg x))))
  else x

/-- A convolution's output value (R212): `w` is the CHAIN object's content. -/
def Layer.convAt (l : Layer) (w : Memory) (hw : Nat × Nat) (t : Tensor) (co oy ox : Nat) : Nat :=
  let a := l.accAt w hw t co oy ox
  let x := if l.inFmt = 1 then f32OfInt a.toInt else a
  let scale := BitVec.ofNat 32 (leNat (memRead w (l.sbOff + 4 * co) 4))
  let bias := BitVec.ofNat 32 (leNat (memRead w (l.sbOff + 4 * (l.cout + co)) 4))
  convFromF32 l.outFmt (actOf l.act (fadd (fmul x scale) bias))

/-- The correctly rounded FP32 value of 1 / n (R210). -/
def recipNat (n : Nat) : Word :=
  toF32 (.fin false (2 ^ 80 / n * 2 + (if 2 ^ 80 % n = 0 then 0 else 1)) (-81))

/-- The positions of a pooling window, rows first. -/
def Layer.window (l : Layer) (oy ox : Nat) : List (Int × Int) :=
  (List.range l.kh).flatMap fun ky => (List.range l.kw).map fun kx =>
    (((oy * l.sh : Nat) : Int) - l.ph + (ky * l.dh : Nat), ((ox * l.sw : Nat) : Int) - l.pw + (kx * l.dw : Nat))

/-- Whether a position lies inside the image. -/
def inImage (hw : Nat × Nat) (p : Int × Int) : Bool :=
  decide (0 ≤ p.1 ∧ 0 ≤ p.2 ∧ p.1 < (hw.1 : Int) ∧ p.2 < (hw.2 : Int))

/-- A pooling layer's output value (R210). -/
def Layer.poolAt (l : Layer) (hw : Nat × Nat) (t : Tensor) (c oy ox : Nat) : Nat :=
  let ps := l.window oy ox
  let inside := ps.filter (inImage hw)
  let v (p : Int × Int) : Word := convToF32 l.inFmt (l.get hw t c p.1 p.2) 0
  let r : Word :=
    if l.op = 3 then fmul ((ps.map v).foldl fadd 0) (recipNat (l.kh * l.kw))
    else
      match inside with
      | [] => 0
      | p :: rest =>
        if l.op = 2 then (rest.map v).foldl fmax (fmax (v p) (v p))
        else fmul ((inside.map v).foldl fadd 0) (recipNat inside.length)
  convFromF32 l.outFmt r

/-- The source of an upsampled position: the lower input and t as a fraction of 2f (R211). -/
def upSource (f x : Nat) (n : Nat) : Nat × Nat :=
  let u : Int := (2 * x + 1 : Nat) - (f : Int)
  let top := 2 * f * (n - 1)
  let u' := min (max u 0).toNat top
  (u' / (2 * f), u' % (2 * f))

/-- The FP32 weight t of a fraction `r / 2f`, exact for f of 2 and 4 (R211). -/
def upWeight (f r : Nat) : Word := toF32 (.fin false r (if f = 2 then -2 else -3))

/-- A blend with weights 1 - t and t: one fused multiply-add (R211; log entry 32). -/
def blend (t a b : Word) : Word := ffma t b (fmul (fsub 0x3F800000 t) a)

/-- An upsampling layer's output value (R211). -/
def Layer.upAt (l : Layer) (hw : Nat × Nat) (t : Tensor) (c oy ox : Nat) : Nat :=
  let v (y x : Nat) : Word := convToF32 l.inFmt (l.get hw t c y x) 0
  let r : Word :=
    if l.op = 5 then v (oy / l.sh) (ox / l.sw)
    else
      let (y0, ty) := upSource l.sh oy hw.1
      let (x0, tx) := upSource l.sw ox hw.2
      let y1 := min (y0 + 1) (hw.1 - 1)
      let x1 := min (x0 + 1) (hw.2 - 1)
      let wx := upWeight l.sw tx
      blend (upWeight l.sh ty) (blend wx (v y0 x0) (v y0 x1)) (blend wx (v y1 x0) (v y1 x1))
  convFromF32 l.outFmt r

/-- A layer's output tensor. -/
def Layer.out (l : Layer) (w : Memory) (hw : Nat × Nat) (t : Tensor) : Tensor := fun c y x =>
  if l.op = 1 then l.convAt w hw t c y x
  else if l.isUp then l.upAt hw t c y x
  else l.poolAt hw t c y x

/-- A chain's output tensor with its size. -/
def chainOut (w : Memory) : List Layer → Nat × Nat → Tensor → Tensor × (Nat × Nat)
  | [], hw, t => (t, hw)
  | l :: ls, hw, t => chainOut w ls (l.outHW hw) (l.out w hw t)

/-! ## Validation (R218) -/

/-- The first layer of a chain that fails a check. -/
def layerFail (p : Layer → Bool) (ls : List Layer) : Option Nat :=
  (ls.zipIdx.find? fun e => !(p e.1)).map (·.2)

/-- A field that is neither 0 nor all ones (R12). -/
def sized (w x : Nat) : Bool := decide (x ≠ 0 ∧ x ≠ 2 ^ w - 1)

/-- Fields that a layer must leave 0 (R217). -/
def Layer.unusedOk (l : Layer) : Bool :=
  decide (l.op = 1 ∨ (l.act = 0 ∧ l.wFmt = 0 ∧ l.wOff = 0 ∧ l.sbOff = 0))

/-- Formats of a layer (R200, R217, R160). -/
def Layer.formatsOk (l : Layer) (last : Bool) : Bool :=
  let f (x : Nat) := decide (x = 1 ∨ x = 3 ∨ x = 4 ∨ x = 5 ∨ x = 6)
  f l.inFmt && (f l.outFmt || (last && l.outFmt == 7)) &&
    (l.op != 1 || l.wFmt == l.inFmt || (l.inFmt == 3 && l.wFmt == 4) || (l.inFmt == 4 && l.wFmt == 3))

/-- Ranges of a layer on its own (R217, R218 check 7). -/
def Layer.rangesOk (l : Layer) (last : Bool) (chainSize : Nat) : Bool :=
  let r (x : Nat) := decide (1 ≤ x ∧ x ≤ 14)
  r l.sh && r l.sw && r l.dh && r l.dw && decide (l.act ≤ 2) && decide (l.padMode ≤ 1)
    && decide (l.cin % l.groups = 0) && decide (l.cout % l.groups = 0)
    && (l.op == 1 || (l.cout == l.cin && l.groups == l.cin))
    && (!l.isUp || (last && l.kh == 1 && l.kw == 1 && l.dh == 1 && l.dw == 1 && l.ph == 0 && l.pw == 0
        && (l.sh == 2 || l.sh == 4) && (l.sw == 2 || l.sw == 4)))
    && (l.op != 1 || (decide (l.wOff + l.weightBytes ≤ chainSize) && decide (l.sbOff + 8 * l.cout ≤ chainSize)))

/-- The checks of R218 on a tile record and its chain: the status of the first failure and the layer it concerns
(0 for the record); 0 when all pass.  `ls` are the chain's entries as bytes. -/
def State.tileCheck (s : State) (rec : List Byte) (lbs : List (List Byte)) : Nat × Nat :=
  let ls := lbs.map Layer.ofBytes
  let n := bitsOf (field rec 1 1) 0 4
  let iw := field rec 40 2
  let ih := field rec 42 2
  let inRs := field rec 32 4
  let outRs := field rec 36 4
  let sizes := chainSizes (ih, iw) ls
  let fin := sizes.getLastD (0, 0)
  let lastIdx := ls.length - 1
  let chainSize := ((s.objOf (field rec 4 4)).map (·.size)).getD 0
  let lf (p : Layer → Nat → Bool) : Option Nat := (ls.zipIdx.find? fun e => !(p e.1 e.2)).map (·.2)
  let first (recOk : Bool) (l : Option Nat) (st : Nat) : Option (Nat × Nat) :=
    if !recOk then some (st, 0) else l.map fun i => (st, i)
  let sizeFail := ((sizes.drop 1).zipIdx.find? fun e => decide (e.1.1 = 0 ∨ e.1.2 = 0)).map (·.2)
  let inL := ls.headD (Layer.ofBytes [])
  let outL := ls.getLastD (Layer.ofBytes [])
  let ebIn := elemBits inL.inFmt / 8
  let ebOut := elemBits outL.outFmt / 8
  let rangeRec := decide (iw * ebIn ≤ inRs) && decide (fin.2 * ebOut ≤ outRs)
    && decide (field rec 44 2 + field rec 48 2 ≤ fin.2) && decide (field rec 46 2 + field rec 50 2 ≤ fin.1)
    && s.objFits (field rec 4 4) 0 (32 * n)
    && s.objFits (field rec 8 4) (field rec 16 8) ((inL.cin * ih - 1) * inRs + iw * ebIn)
    && s.objFits (field rec 12 4) (field rec 24 8) ((outL.cout * fin.1 - 1) * outRs + fin.2 * ebOut)
  let order : List (Option (Nat × Nat)) :=
    [ first (field rec 0 1 == 1) (lf fun l _ => decide (1 ≤ l.op ∧ l.op ≤ 6)) E_OPCODE,
      first (reservedOk tileLayout rec)
        (((lbs.zipIdx.find? fun e => !(reservedOk layerLayout e.1 && (Layer.ofBytes e.1).unusedOk)).map (·.2)))
        E_RESERVED,
      first (sized 4 n && sized 16 iw && sized 16 ih && sized 16 (field rec 48 2) && sized 16 (field rec 50 2))
        (lf fun l _ => sized 4 l.kh && sized 4 l.kw && sized 16 l.cin && sized 16 l.cout && sized 16 l.groups) E_LEN,
      first true (lf fun l i => l.formatsOk (i == lastIdx)) E_FORMAT,
      first (decide (inRs % 64 = 0 ∧ outRs % 64 = 0)) (lf fun l _ => decide (l.wOff % 64 = 0 ∧ l.sbOff % 4 = 0)) E_ALIGN,
      first true sizeFail E_SHAPE,
      first (decide (n ≤ 8)) (lf fun l i => l.rangesOk (i == lastIdx) chainSize
        && (i == 0 || l.cin == (ls.getD (i - 1) (Layer.ofBytes [])).cout)) E_RANGE,
      first rangeRec none E_RANGE ]
  (order.findSome? id).getD (0, 0)

/-! ## Regions (R213) -/

/-- A range of one dimension that an output range needs, clipped to `n` positions; (1, 0) is empty. -/
def needRange (n : Nat) (lo hi : Int) : Nat × Nat :=
  if hi < 0 ∨ (n : Int) ≤ lo then (1, 0) else ((max lo 0).toNat, (min hi ((n : Int) - 1)).toNat)

/-- The input range of a layer for an output range in one dimension (R213). -/
def backRange (l : Layer) (n k s d p : Nat) (r : Nat × Nat) : Nat × Nat :=
  if r.2 < r.1 then (1, 0)
  else if l.op = 5 then needRange n (r.1 / s : Nat) (r.2 / s : Nat)
  else if l.op = 6 then needRange n (upSource s r.1 n).1 ((upSource s r.2 n).1 + 1 : Nat)
  else needRange n ((r.1 * s : Nat) - (p : Int)) ((r.2 * s : Nat) - (p : Int) + (d * (k - 1) : Nat))

/-- The regions of a chain, the input region first, for a region of the final output. -/
def chainRegions (final : Region) : List (Layer × (Nat × Nat)) → List Region
  | [] => [final]
  | (l, hw) :: rest =>
    match chainRegions final rest with
    | [] => [final]
    | r :: rs =>
      let x := backRange l hw.2 l.kw l.sw l.dw l.pw (r.x0, r.x1)
      let y := backRange l hw.1 l.kh l.sh l.dh l.ph (r.y0, r.y1)
      { x0 := x.1, x1 := x.2, y0 := y.1, y1 := y.2 } :: r :: rs

/-- A tile that passed its checks, with its regions. -/
def mkTile (rec : List Byte) (lbs : List (List Byte)) : Tile :=
  let ls := lbs.map Layer.ofBytes
  let sizes := chainSizes (field rec 42 2, field rec 40 2) ls
  let final : Region :=
    { x0 := field rec 44 2, x1 := field rec 44 2 + field rec 48 2 - 1,
      y0 := field rec 46 2, y1 := field rec 46 2 + field rec 50 2 - 1 }
  { record := rec, layers := lbs, regions := chainRegions final (ls.zip sizes) }

/-! ## Output -/

/-- The bytes of an object as memory from offset 0. -/
def State.objMemory (s : State) (h : Nat) : Memory :=
  match s.objOf h with
  | some o => memWrite [] 0 (memRead s.dram o.addr o.size)
  | none => []

/-- The input tensor of a tile (R199, R216). -/
def State.tileInput (s : State) (rec : List Byte) (eb : Nat) : Tensor := fun c y x =>
  leNat (memRead s.dram (s.objAddr (field rec 8 4)
    (field rec 16 8 + (c * field rec 42 2 + y) * field rec 32 4 + x * eb)) eb)

/-- The output rows of a tile: address and bytes (R199, R215, R216). -/
def State.tileRows (s : State) (t : Tile) : List (Nat × List Byte) :=
  let rec_ := t.record
  let ls := t.layers.map Layer.ofBytes
  let inL := ls.headD (Layer.ofBytes [])
  let outL := ls.getLastD (Layer.ofBytes [])
  let ebOut := elemBits outL.outFmt / 8
  let (out, hw) := chainOut (s.objMemory (field rec_ 4 4)) ls (field rec_ 42 2, field rec_ 40 2)
    (s.tileInput rec_ (elemBits inL.inFmt / 8))
  let base := s.objAddr (field rec_ 12 4) (field rec_ 24 8)
  (List.range outL.cout).flatMap fun c => (List.range (field rec_ 50 2)).map fun r =>
    let y := field rec_ 46 2 + r
    let x0 := field rec_ 44 2
    (base + (c * hw.1 + y) * field rec_ 36 4 + x0 * ebOut,
     (List.range (field rec_ 48 2)).flatMap fun i => leBytes ebOut (out c y (x0 + i)))

/-- What a layer reads of the CHAIN object: offset and bytes. -/
def Layer.chainReads (l : Layer) : List (Nat × Nat) :=
  if l.op = 1 then [(l.wOff, l.weightBytes), (l.sbOff, 8 * l.cout)] else []

/-- Whether the windows of the outputs `r` of one dimension use the input position `v` (R209): a filter of size `k`, stride `s`,
dilation `d` and padding `p`. -/
def windowUses (k s d p : Nat) (r : Nat × Nat) (v : Nat) : Bool :=
  (List.range k).any fun i =>
    let u := v + p - i * d
    decide (i * d ≤ v + p ∧ u % s = 0 ∧ r.1 ≤ u / s ∧ u / s ≤ r.2)

/-- The parts of an input row that are read: its 512-byte segments, from the region's first pixel, of which a window uses some pixel
(R209): byte offset in the row's part of the region, and bytes. -/
def Layer.rowReads (l : Layer) (eb : Nat) (out x : Nat × Nat) : List (Nat × Nat) :=
  let n := (x.2 + 1 - x.1) * eb
  (List.range (ceilDiv n 512)).filterMap fun i =>
    if l.isUp || (List.range (512 / eb)).any (fun j =>
        decide (x.1 + 512 / eb * i + j ≤ x.2) && windowUses l.kw l.sw l.dw l.pw out (x.1 + 512 / eb * i + j)) then
      some (512 * i, min 512 (n - 512 * i))
    else none

/-- What a tile reads of memory objects: its layers' weights, scales and biases, and the rows and row segments of its input region
that a window uses (R209, R213). -/
def Tile.reads (t : Tile) : List (Nat × Nat × Nat) :=
  let rec_ := t.record
  let ls := t.layers.map Layer.ofBytes
  let inL := ls.headD (Layer.ofBytes [])
  let eb := elemBits inL.inFmt / 8
  let r := t.regions.headD ⟨1, 0, 1, 0⟩
  let o := (t.regions.drop 1).headD ⟨1, 0, 1, 0⟩
  let rows := (List.range (r.y1 + 1 - r.y0)).filter fun y =>
    inL.isUp || windowUses inL.kh inL.sh inL.dh inL.ph (o.y0, o.y1) (r.y0 + y)
  (ls.flatMap fun l => l.chainReads.map fun e => (field rec_ 4 4, e.1, e.2)) ++
    (if r.x1 < r.x0 then [] else (List.range inL.cin).flatMap fun c => rows.flatMap fun y =>
      (inL.rowReads eb (o.x0, o.x1) (r.x0, r.x1)).map fun e =>
        (field rec_ 8 4, field rec_ 16 8 + (c * field rec_ 42 2 + r.y0 + y) * field rec_ 32 4 + r.x0 * eb + e.1, e.2))

end Sys2Proof.Machine
end

