-- ==== Sys2Proof/Machine/Attn.lean ====
section
/-!
DEFINITION. Attention: the descriptor and its checks (R222, R223), page opens and appends (R232, R233, R240), online
softmax (R224-R227), page scores (R236) and the backward pass (R242, R243).
-/
namespace Sys2Proof.Machine

/-- The fields of an attention descriptor (R222, R242). -/
def attnLayout : Layout :=
  [(0, 0, 8), (1, 0, 3), (1, 3, 3), (1, 6, 2), (2, 0, 7), (3, 0, 6), (3, 6, 1), (4, 0, 1), (4, 1, 1), (4, 2, 1),
   (5, 0, 7), (6, 0, 12), (8, 0, 12), (10, 0, 16), (12, 0, 24), (16, 0, 32), (20, 0, 32), (24, 0, 32), (28, 0, 32),
   (32, 0, 32), (36, 0, 32), (40, 0, 32), (44, 0, 32), (48, 0, 32), (52, 0, 32), (56, 0, 32)]

/-- An attention descriptor, read. -/
structure AttnDesc where
  kind : Nat
  fmt : Nat
  outFmt : Nat
  dcode : Nat
  nq : Nat
  rpp : Nat
  causal : Bool
  append : Bool
  stats : Bool
  score : Bool
  nnew : Nat
  group : Nat
  g : Nat
  status : Nat
  owner : Nat
  list : Nat
  listOff : Nat
  npos : Nat
  qpos : Nat
  tau : Word
  qObj : Nat
  qOff : Nat
  oObj : Nat
  oOff : Nat
  sObj : Nat
  sOff : Nat
  deriving DecidableEq, Repr

/-- The fields of a descriptor's 64 bytes; offsets in bytes. -/
def AttnDesc.ofBytes (b : List Byte) : AttnDesc :=
  let f (off lo w : Nat) := bitsOf (field b off 1) lo w
  { kind := f 0 0 8, fmt := f 1 0 3, outFmt := f 1 3 3, dcode := f 1 6 2, nq := f 2 0 7, rpp := f 3 0 6,
    causal := f 3 6 1 == 1, append := f 4 0 1 == 1, stats := f 4 1 1 == 1, score := f 4 2 1 == 1, nnew := f 5 0 7,
    group := bitsOf (field b 6 2) 0 12, g := bitsOf (field b 8 2) 0 12, status := field b 10 2,
    owner := field b 12 3, list := field b 16 4, listOff := field b 20 4, npos := field b 24 4, qpos := field b 28 4,
    tau := BitVec.ofNat 32 (field b 32 4), qObj := field b 36 4, qOff := 64 * field b 40 4,
    oObj := field b 44 4, oOff := 64 * field b 48 4, sObj := field b 52 4, sOff := 64 * field b 56 4 }

def AttnDesc.dim (a : AttnDesc) : Nat := headDim a.dcode
def AttnDesc.t (a : AttnDesc) : Nat := pageT a.fmt a.dcode
def AttnDesc.eb (a : AttnDesc) : Nat := kvBytes a.fmt
def AttnDesc.outEb (a : AttnDesc) : Nat := elemBits a.outFmt / 8

/-- The positions that a step attends: NPOS + NNEW. -/
def AttnDesc.len (a : AttnDesc) : Nat := a.npos + a.nnew

/-- The logical pages that hold `n` positions. -/
def AttnDesc.pages (a : AttnDesc) (n : Nat) : Nat := ceilDiv n a.t

/-- The bytes read at Q_OBJ (R222, R242). -/
def AttnDesc.qBytes (a : AttnDesc) : Nat :=
  if a.kind = 3 then a.nq * a.dim * (a.eb + 4 + 2) else (a.nq + 2 * a.nnew) * a.dim * a.eb

/-- The bytes written at O_OBJ (R222, R242). -/
def AttnDesc.oBytes (a : AttnDesc) : Nat :=
  if a.kind = 3 then (a.nq + 2 * a.npos) * a.dim * 4 else a.nq * a.dim * a.outEb

/-- The sequence that a descriptor describes: its own list and formats, with the PIN of the live sequence (R234). -/
def State.attnSeq (s : State) (a : AttnDesc) (colony : Nat) : Seq :=
  { state := 1, pin := (match s.seqOf a.owner with
      | some (_, _, q) => q.pin
      | none => false),
    colony := colony, kvFmt := a.fmt, dcode := a.dcode, g := a.g, owner := a.owner, list := a.list,
    listOff := a.listOff, npos := a.npos, limit := a.len }

/-- The checks of R223 on a descriptor, in order: 0 when all pass.  What R242 adds for KIND 0x03 fails as E_FORMAT for
OUT_FMT and as E_RANGE for the flags (log entry 43). -/
def State.attnCheck (s : State) (bs : List Byte) : Nat :=
  let a := AttnDesc.ofBytes bs
  let bwd := decide (a.kind = 3)
  firstFail
    [ (decide (a.kind = 2 ∨ a.kind = 3), E_OPCODE),
      (reservedOk attnLayout bs && decide (a.status = 0) && (a.stats || a.sObj == 0), E_RESERVED),
      (sized 7 a.nq && sized 6 a.rpp && sized 12 a.g && decide (a.nnew ≠ 127), E_LEN),
      (decide (3 ≤ a.fmt ∧ a.fmt ≤ 6 ∧ 3 ≤ a.outFmt ∧ a.outFmt ≤ 7) && (!bwd || a.outFmt == 7), E_FORMAT),
      (decide (a.listOff % 4 = 0), E_ALIGN),
      (decide (a.dcode ≤ 2 ∧ a.nq ≤ 64 ∧ a.nq % a.rpp = 0 ∧ a.group < a.g ∧ a.nnew ≤ 64) && (a.append == decide (a.nnew ≠ 0))
        && (!bwd || (!a.append && !a.score && a.stats))
        && s.objFits a.list a.listOff (4 * (a.pages a.len * a.g))
        && s.objFits a.qObj a.qOff a.qBytes && s.objFits a.oObj a.oOff a.oBytes
        && (!a.stats || s.objFits a.sObj a.sOff (8 * a.nq)), E_RANGE) ]

/-- The opens of the logical pages `n - 1` down to 0 of a descriptor's group (R232): the pages opened, and whether a
page of another colony was met. -/
def State.attnOpens (s : State) (a : AttnDesc) (q : Seq) : Nat → State × List (Nat × Nat) × Bool
  | 0 => (s, [], false)
  | n + 1 =>
    let (s1, ps, bad) := s.attnOpens a q n
    if bad then (s1, ps, true)
    else
      let e := s1.listEntry q (n * q.g + a.group)
      match s1.openPage e a.fmt a.dcode q.colony with
      | (s2, .opened) => (s2, ps ++ [(n, entryPage e)], false)
      | (s2, .masked) => (s2, ps, false)
      | (s2, .partition) => (s2, ps, true)

/-- The logical pages that an append begins (R233): one for each new position p with p mod T = 0. -/
def AttnDesc.newPages (a : AttnDesc) : List Nat :=
  ((List.range a.nnew).map (a.npos + ·)).filterMap fun p => if p % a.t = 0 then some (p / a.t) else none

/-- The place of a sequence in the work list of the colony's running step (R233). -/
def State.stepItem (s : State) (colony owner : Nat) : Option Nat :=
  ((tget ({} : Step) s.brood.steps colony).items.zipIdx.find? fun e => e.1.1 == owner).map (·.2)

/-- A descriptor that a program leaves unended when it starts the next: its pages stay open until the job closes them (R232). -/
def State.leaveAttn (s : State) (g : Nat) : State :=
  s.modComb g fun c => { c with
    leftOpen := c.leftOpen ++ c.attn.elim [] fun x => x.opened.map (·.2) }

/-- A program starts a descriptor (R222, R223, R232, R233): it is read and validated, its pages are opened, and the pages
an append needs are requested.  The status that faults the job, 0 for none. -/
def State.attnStart (s : State) (g table index : Nat) : State × Nat :=
  let who := s.combWho g
  if !(s.objFits table (64 * index) 64) then (s, E_RANGE)
  else
    let (s1, st, bs) := s.objLoad who table (64 * index) 64
    if st ≠ 0 then (s1, st)
    else
      let chk := s1.attnCheck bs
      if chk ≠ 0 then (s1, chk)
      else
        let a := AttnDesc.ofBytes bs
        let (sL, stL) := s1.objsStatus who [(a.list, a.listOff, 4 * (a.pages a.len * a.g))]
        if stL ≠ 0 then (sL, stL) else
        let q := sL.attnSeq a who.colony
        let (s2, opened, bad) := sL.attnOpens a q (a.pages a.npos)
        let wants := if a.append ∧ bad = false then a.newPages else []
        let k := (s2.comb g).job.getD 0
        let isStep := (tget ({} : Job) s2.jobs k).step
        let item := if isStep then s2.stepItem who.colony a.owner else none
        let reqs := wants.map fun lp => AllocReq.mk g k isStep item lp
        let s3 := { s2 with honey := { s2.honey with reqs := (s2.honey.reqs.filter fun (r : AllocReq) => decide (r.comb ≠ g)) ++ reqs } }
        let x : Attn := { record := bs, table := table, index := index, opened := opened, wanted := wants.length,
                          status := if bad then E_PARTITION else 0 }
        ((s3.leaveAttn g).modComb g fun c => { c with attn := some x }, 0)

/-- An allocation of a descriptor returns no page (R240): STATUS E_NOPAGE, its other requests end, and the pages it got
are returned FREE with their list entries VALID 0. -/
def State.attnNoPage (s : State) (g : Nat) : State :=
  match (s.comb g).attn with
  | none => s
  | some x =>
    let a := AttnDesc.ofBytes x.record
    let q := s.attnSeq a (s.combWho g).colony
    let w := { s.combWho g with honey := true, source := 0x42 }
    let s1 := x.got.foldl (fun s (e : Nat × Nat) => s.returnPage w q (e.1 * q.g + a.group)) s
    let s2 := { s1 with honey := { s1.honey with reqs := s1.honey.reqs.filter fun r => r.comb ≠ g } }
    s2.modComb g fun c => { c with attn := some { x with got := [], wanted := 0, status := E_NOPAGE } }

/-! ## Page contents (R220) -/

/-- The offset of K(t, d) in a page. -/
def kOffset (tt eb t d : Nat) : Nat := (d / 16 * tt + t) * 16 * eb + d % 16 * eb

/-- The offset of V(t, d) in a page. -/
def vOffset (dim eb t d : Nat) : Nat := 8192 + (t / 16 * dim + d) * 16 * eb + t % 16 * eb

/-- The requester of a comb's gathers and appends (R280, R315, R326). -/
def State.honeyWho (s : State) (g : Nat) : Who := { s.combWho g with honey := true }

/-- The row of K or V elements of position `p`; zeros where no opened page holds it (R232).  Which 4 slots of the scratchpad a gather
or its zero fill takes, no descriptor says: the model holds the page's elements here and marks no slot (DESIGN CHOICE; log
entry 130). -/
def State.kvRow (s : State) (a : AttnDesc) (opened : List (Nat × Nat)) (isV : Bool) (p : Nat) : List Nat :=
  match opened.find? fun e => e.1 == p / a.t with
  | none => List.replicate a.dim 0
  | some (_, n) => (List.range a.dim).map fun d =>
      leNat (memRead s.dram (s.pageAddr n +
        (if isV then vOffset a.dim a.eb (p % a.t) d else kOffset a.t a.eb (p % a.t) d)) a.eb)

/-- The gathers of the pages that a descriptor opened, and the first status that fails (R232, R280, R305, R116). -/
def State.gatherPages (s : State) (w : Who) : List (Nat × Nat) → State × Nat
  | [] => (s, 0)
  | (_, n) :: r =>
    let (s1, st, _) := s.devLoad w (s.pageAddr n) 16384
    if st ≠ 0 then (s1, st) else s1.gatherPages w r

/-- A row of `dim` elements of `eb` bytes in bytes, from byte `off`. -/
def elemRow (bs : List Byte) (off eb dim : Nat) : List Nat := (List.range dim).map fun d => field bs (off + d * eb) eb

/-- The elements of an appended position stored in its page (R220, R233), each a masked write; the first status that fails. -/
def State.storeKV (s : State) (w : Who) (a : AttnDesc) (n t : Nat) (ks vs : List Nat) : State × Nat :=
  let put (isV : Bool) (x : State × Nat) (e : Nat × Nat) : State × Nat :=
    let off := if isV then vOffset a.dim a.eb t e.2 else kOffset a.t a.eb t e.2
    let r := x.1.devStore w (x.1.pageAddr n + off) (leBytes a.eb e.1)
    (r.1, if x.2 ≠ 0 then x.2 else r.2)
  vs.zipIdx.foldl (put true) (ks.zipIdx.foldl (put false) (s, 0))

/-! ## Online softmax (R224, R225) -/

/-- A cell product in 16-element vectors: ZERO for the first, ACC after it (R161, R163). -/
def cellDot (code : Nat) : Nat → Option Word → List (FVal × FVal) → Word
  | 0, acc, _ => acc.getD 0
  | n + 1, acc, ps =>
    if ps = [] then acc.getD 0
    else
      let v := vectorSum code ((ps.take 16).map fun e => e.1.mul e.2)
      cellDot code n (some (accumulate false acc.isSome (acc.getD 0) v)) (ps.drop 16)

/-- A cell product of two rows of elements. -/
def rowDot (ca cb : Nat) (xs ys : List Nat) : Word :=
  cellDot ca xs.length none ((xs.zip ys).map fun e => (cellVal ca e.1, cellVal cb e.2))

/-- The FP32 minus infinity. -/
abbrev negInf : Word := 0xFF800000

/-- A key position as a block sees it: whether it takes part, its logical page, and its K and V rows. -/
structure Key where
  valid : Bool
  lpage : Nat
  k : List Nat
  v : List Nat
  deriving DecidableEq, Repr

/-- The running state of a query row: m, l, O, and the share of each logical page in l. -/
structure QRow where
  m : Word := negInf
  l : Word := 0
  o : List Word
  pages : List (Nat × Word) := []
  deriving DecidableEq, Repr

/-- The scaled and masked score of a key (R224, R225). -/
def keyScore (a : AttnDesc) (q : List Nat) (k : Key) : Word :=
  if k.valid then fmul a.tau (rowDot a.fmt a.fmt k.k q) else negInf

/-- The share of a logical page: the probabilities of its keys added to what earlier blocks left (R236; log entry
44). -/
def addShare (aa : Word) (ps : List (Key × Nat)) (fmt : Nat) (x : Nat × Word) : Nat × Word :=
  let mine := (ps.filter fun e => e.1.lpage == x.1).map fun e => convToF32 fmt e.2 0
  (x.1, ffma aa x.2 (mine.foldl fadd 0))

/-- One block of 64 keys folded into a query row (R225). -/
def blockStep (a : AttnDesc) (q : List Nat) (r : QRow) (keys : List Key) : QRow :=
  let ss := keys.map (keyScore a q)
  let mb := match ss with
    | [] => negInf
    | x :: xs => xs.foldl fmax x
  let mn := fmax r.m mb
  if mn = negInf ∧ ss.all (fun x => x == negInf) then r
  else
    let aa := fexp (fsub r.m mn)
    let ps := ss.map fun x => if x = negInf then 0 else convFromF32 a.fmt (fexp (fsub x mn))
    let lb := (ps.map fun p => convToF32 a.fmt p 0).foldl fadd 0
    let ob := (List.range a.dim).map fun d => rowDot a.fmt a.fmt ps (keys.map fun k => k.v.getD d 0)
    { m := mn, l := ffma aa r.l lb, o := (r.o.zip ob).map fun e => ffma aa e.1 e.2,
      pages := r.pages.map (addShare aa (keys.zip ps) a.fmt) }

/-- A list cut into blocks of 64. -/
def blocks64 {α : Type} : Nat → List α → List (List α)
  | 0, _ => []
  | n + 1, l => if l.isEmpty then [] else l.take 64 :: blocks64 n (l.drop 64)

/-- A query row through all blocks. -/
def queryRow (a : AttnDesc) (q : List Nat) (keys : List Key) (lpages : List Nat) : QRow :=
  (blocks64 (keys.length + 1) keys).foldl (blockStep a q)
    { o := List.replicate a.dim 0, pages := lpages.map fun n => (n, 0) }

/-- The output elements of a query row (R225, R226). -/
def QRow.out (a : AttnDesc) (r : QRow) : List Byte :=
  let rr := if r.l = 0 then 0 else frecip r.l
  r.o.flatMap fun x => leBytes a.outEb (convFromF32 a.outFmt (fmul x rr))

/-- The keys as query row `r` sees them (R224), padded to whole blocks with positions that do not take part. -/
def State.attnKeys (s : State) (a : AttnDesc) (opened : List (Nat × Nat)) (r : Nat) : List Key :=
  (List.range (ceilDiv a.len 64 * 64)).map fun p =>
    { valid := decide (p < a.len) && (opened.any fun e => e.1 == p / a.t)
        && (!a.causal || decide (p ≤ a.qpos + r / a.rpp)),
      lpage := p / a.t,
      k := s.kvRow a opened false p,
      v := s.kvRow a opened true p }

/-- ⌊65,536 × w⌋ of R236, capped at 0xFFFF; a share that is no number gives a free value (log entry 44). -/
def State.scoreOf (s : State) (w : Word) : Nat :=
  if ffinite w then min 0xFFFF ((f32 w).mul (.fin false 65536 0)).floor.toNat
  else Config.freeNat s.free % 65536

/-- The score writes at the end of a descriptor (R236). -/
def State.scoreWrites (s : State) (q : Seq) (group : Nat) (opened : List (Nat × Nat)) (rows : List QRow) : State :=
  opened.foldl (fun s (e : Nat × Nat) =>
    let ws := rows.map fun r =>
      s.scoreOf (match r.pages.find? fun x => x.1 == e.1 with
        | some x => if r.l = 0 then 0 else fmul x.2 (frecip r.l)
        | none => 0)
    let entry := s.listEntry q (e.1 * q.g + group)
    (s.scorePage e.2 (entryGen entry) (ws.foldl max 0)).draw 1) s

/-- The forward step (R225-R227, R236): the new positions appended, the output and statistics written, the scores
updated.  The status that faults the job. -/
def State.attnForward (s : State) (g : Nat) (a : AttnDesc) (q : Seq) (opened : List (Nat × Nat)) : State × Nat :=
  let who := s.combWho g
  let (s1, st, qb) := s.objLoad who a.qObj a.qOff a.qBytes
  if st ≠ 0 then (s1, st)
  else
    let row (i : Nat) : List Nat := elemRow qb (i * a.dim * a.eb) a.eb a.dim
    let (s2, stK) := (List.range a.nnew).foldl (fun (x : State × Nat) i =>
      match opened.find? fun e => e.1 == (a.npos + i) / a.t with
      | some (_, n) =>
        let r := x.1.storeKV (x.1.honeyWho g) a n ((a.npos + i) % a.t) (row (a.nq + i)) (row (a.nq + a.nnew + i))
        (r.1, if x.2 ≠ 0 then x.2 else r.2)
      | none => x) (s1, 0)
    if stK ≠ 0 then (s2, stK) else
    let rows := (List.range a.nq).map fun r => queryRow a (row r) (s2.attnKeys a opened r) (opened.map (·.1))
    let (s3, st3) := s2.objStore who a.oObj a.oOff (rows.flatMap (QRow.out a))
    if st3 ≠ 0 then (s3, st3)
    else
      let (s4, st4) := if a.stats then
          s3.objStore who a.sObj a.sOff (rows.flatMap fun r => leBytes 4 r.m.toNat ++ leBytes 4 r.l.toNat)
        else (s3, 0)
      if st4 ≠ 0 then (s4, st4)
      else (if a.score then s4.scoreWrites q a.group opened rows else s4, 0)

/-! ## Backward pass (R242, R243) -/

/-- What the backward pass knows of a query row: q, dO, D_r, and for every position P and dS; `dead` is a row with l = +0, which
gives zero gradients. -/
structure BRow where
  q : List Nat
  dout : List Nat
  p : List Word
  ds : List Word
  dead : Bool := false
  deriving DecidableEq, Repr

/-- A row of FP32 values added to another, scaled by TAU where asked (R243; log entry 45). -/
def addScaled (tau : Option Word) (old new : List Word) : List Word :=
  (old.zip new).map fun e => fadd e.1 (match tau with
    | some t => fmul t e.2
    | none => e.2)

/-- A row of KV elements converted to the cells' gradient format (R243). -/
def gradConv (fmt code : Nat) (xs : List Nat) : List Nat := xs.map fun x => convFromF32 code (convToF32 fmt x 0)

/-- A query row of the backward pass. -/
def backRow (a : AttnDesc) (code : Nat) (keys : List Key) (q o dout : List Nat) (m l : Word) : BRow :=
  let dr := (dout.zip o).foldl
    (fun acc e => fadd acc (fmul (convToF32 code e.1 0) (BitVec.ofNat 32 e.2))) 0
  let ps := keys.map fun k =>
    if k.valid = false then 0 else fmul (fexp (fsub (keyScore a q k) m)) (frecip l)
  let ds := (keys.zip ps).map fun e =>
    if e.1.valid then fmul e.2 (fsub (rowDot code code dout (gradConv a.fmt code e.1.v)) dr) else 0
  if l = 0 then
    { q := q.map fun _ => 0, dout := dout.map fun _ => 0, p := keys.map fun _ => 0, ds := keys.map fun _ => 0, dead := true }
  else { q := q, dout := dout, p := ps, ds := ds }

/-- dQ of a row: the blocks in order; zeros for a dead one. -/
def backQ (a : AttnDesc) (code : Nat) (r : BRow) (keys : List Key) : List Word :=
  if r.dead then List.replicate a.dim 0 else
  (blocks64 (keys.length + 1) (keys.zip r.ds)).foldl (fun acc b =>
    addScaled (some a.tau) acc ((List.range a.dim).map fun d =>
      rowDot code code (b.map fun e => convFromF32 code e.2)
        (gradConv a.fmt code (b.map fun e => e.1.k.getD d 0)))) (List.replicate a.dim 0)

/-- dK and dV of a position. -/
def backKV (a : AttnDesc) (code : Nat) (rows : List BRow) (p : Nat) : List Word × List Word :=
  let zero := List.replicate a.dim (0 : Word)
  let ds := rows.map fun r => convFromF32 code (r.ds.getD p 0)
  let ps := rows.map fun r => convFromF32 code (r.p.getD p 0)
  (addScaled (some a.tau) zero ((List.range a.dim).map fun d =>
      rowDot code code ds (gradConv a.fmt code (rows.map fun r => r.q.getD d 0))),
   addScaled none zero ((List.range a.dim).map fun d =>
      rowDot code code ps (rows.map fun r => r.dout.getD d 0)))

/-- The backward step (R242, R243).  The status that faults the job. -/
def State.attnBackward (s : State) (g : Nat) (a : AttnDesc) (opened : List (Nat × Nat)) : State × Nat :=
  let who := s.combWho g
  let code := if a.fmt = 5 then 5 else 6
  let (s1, st, qb) := s.objLoad who a.qObj a.qOff a.qBytes
  if st ≠ 0 then (s1, st)
  else
    let (s2, st2, sb) := s1.objLoad who a.sObj a.sOff (8 * a.nq)
    if st2 ≠ 0 then (s2, st2)
    else
      let oBase := a.nq * a.dim * a.eb
      let dBase := oBase + a.nq * a.dim * 4
      let rows := (List.range a.nq).map fun r =>
        backRow a code (s2.attnKeys a opened r) (elemRow qb (r * a.dim * a.eb) a.eb a.dim)
          (elemRow qb (oBase + r * a.dim * 4) 4 a.dim) (elemRow qb (dBase + r * a.dim * 2) 2 a.dim)
          (BitVec.ofNat 32 (field sb (8 * r) 4)) (BitVec.ofNat 32 (field sb (8 * r + 4) 4))
      let dq := rows.zipIdx.flatMap fun e => backQ a code e.1 (s2.attnKeys a opened e.2)
      let live (p : Nat) : Bool := (List.range a.nq).any fun r => ((s2.attnKeys a opened r).getD p ⟨false, 0, [], []⟩).valid
      let zero := List.replicate a.dim (0 : Word)
      let kv := (List.range a.npos).map fun p => if live p then backKV a code rows p else (zero, zero)
      let words := dq ++ kv.flatMap (·.1) ++ kv.flatMap (·.2)
      s2.objStore who a.oObj a.oOff (words.flatMap fun w => leBytes 4 w.toNat)

/-! ## The end of a descriptor -/

/-- Whether a descriptor still waits for a page (R233). -/
def Attn.waits (x : Attn) : Bool := decide (x.got.length < x.wanted)

/-- A descriptor ends: the pages its append got are opened (R232), the step or pass runs unless STATUS says otherwise
(R232, R240), STATUS is written, and every page is closed.  The status that faults the job. -/
def State.attnEnd (s : State) (g : Nat) : State × Nat :=
  match (s.comb g).attn with
  | none => (s, 0)
  | some x =>
    let a := AttnDesc.ofBytes x.record
    let who := s.combWho g
    let q := s.attnSeq a who.colony
    let (s1, opened) := x.got.foldl (fun (acc : State × List (Nat × Nat)) e =>
      match acc.1.openPage (acc.1.listEntry q (e.1 * q.g + a.group)) a.fmt a.dcode q.colony with
      | (s', .opened) => (s', acc.2 ++ [e])
      | (s', _) => (s', acc.2)) (s, x.opened)
    let (sG, stG) := if x.status ≠ 0 then (s1, 0) else s1.gatherPages (s1.honeyWho g) opened
    let (s2, st) := if x.status ≠ 0 then (s1, 0)
      else if stG ≠ 0 then (sG, stG)
      else if a.kind = 3 then sG.attnBackward g a opened
      else sG.attnForward g a q opened
    let s3 := (s2.closePages (opened.map (·.2))).modComb g fun c => { c with attn := none }
    if st ≠ 0 then (s3, st)
    else
      let (s4, st4) := s3.objStore who x.table (64 * x.index + 10) (leBytes 2 x.status)
      let k := (s4.comb g).job.getD 0
      let s5 := if x.status = 0 then s4
        else { s4 with jobs := tmod {} s4.jobs k fun j => { j with fails := j.fails ++ [(a.owner, x.status)] } }
      (s5, st4)

/-- A job ends or faults: the pages that a comb's descriptor holds open are closed and its requests end (R232). -/
def State.attnDrop (s : State) (g : Nat) : State :=
  let c := s.comb g
  let s1 := s.closePages (c.leftOpen ++ c.attn.elim [] fun x => x.opened.map (·.2))
  { s1 with honey := { s1.honey with reqs := s1.honey.reqs.filter fun r => r.comb ≠ g } }.modComb g
    fun c => { c with attn := none, leftOpen := [] }

end Sys2Proof.Machine
end

