-- ==== Sys2Proof/Machine/Jobs.lean ====
section
/-!
DEFINITION. Jobs: which combs a colony may use (R264, R267, R278, R279), validation (R272), the switch (R276), how a job
faults (R148, R274) and saves (R275), sequence updates at the end of a step (R247, R257-R259), and the safety log
(R479).
-/
namespace Sys2Proof.Machine

/-! ## The safety log (R479) -/

/-- Link 8 carries what the islands send each other: it is not retraining, and was not lost in service (R43, R433). -/
def State.link8 (s : State) : Bool := !s.pkg.retraining.getLsbD 8 && !s.saf.join.lost

/-- Whether the reports of island A reach island B over link 8 (R435). -/
def State.bHears (s : State) : Bool :=
  s.on SAF_ISL_STATUS_B_JOINED && s.link8 && s.pkg.sfdPowered && !s.saf.islB.halted && !s.saf.islB.debugHalted

/-- A record of the safety log: the ring keeps the newest 16,384, the SSDs of the storage ports take a copy, and island B gets its own
of a finding of a guard, a deadline or a checker (R435, R479). -/
def State.safLog (s : State) (kind action index value status : Nat) : State :=
  let r : SafRec := { kind := kind, action := action, index := index, seq := s.saf.logSeq, time := s.now,
                      value := value, status := status }
  let stg := ([0, 1].filter fun p => s.ports.cfg.ssd.getLsbD p).foldl (fun t p => tmod [] t p (· ++ [r])) s.saf.stg
  let b := if s.bHears ∧ kind ≤ 9 then { s.saf.islB with reports := s.saf.islB.reports ++ [r] } else s.saf.islB
  { s with saf := { s.saf with log := lastN 16384 (s.saf.log ++ [r]), logSeq := (s.saf.logSeq + 1) % 2 ^ 32, stg := stg, islB := b } }

/-! ## Combs and colonies -/

/-- The power side changed. -/
def State.modPwr (s : State) (f : Power → Power) : State := { s with pwr := f s.pwr }

/-- The job with a key. -/
def State.job (s : State) (k : Nat) : Job := tget ({} : Job) s.jobs k

/-- The state with a job replaced. -/
def State.setJob (s : State) (k : Nat) (j : Job) : State := { s with jobs := tset {} s.jobs k j }

/-- The combs of included compute dies (R264). -/
def State.combIncluded (s : State) (g : Nat) : Bool := decide (g < 64) && !(s.on (DMC_STATUS_EXCLUDED.idx (g / 16)))

/-- The combs available to colonies (R264). -/
def State.combCount (s : State) : Nat := ((List.range 64).filter s.combIncluded).length

/-- The LC colony that reserves a comb (R264). -/
def State.lcHolder (s : State) (g : Nat) : Option Nat :=
  (List.range 16).find? fun c => (s.colony c).live && (s.colony c).lc && (s.colony c).reserved.contains g

/-- The pool: every included comb that no LC colony reserves (R264). -/
def State.pool (s : State) : List Nat := (List.range 64).filter fun g => s.combIncluded g && (s.lcHolder g).isNone

/-- Whether a comb runs no job and has released any faulted job (R278). -/
def State.combFree (s : State) (g : Nat) : Bool := (s.comb g).job.isNone

/-- Whether a comb's die is in Die standby (R59). -/
def State.inStandby (s : State) (g : Nat) : Bool := s.on (PWR_STATUS_STANDBY.bit (g / 16))

/-- CMB_STATE.COLONY, COLONY_VALID and LC of a comb (R150). -/
def State.showColony (s : State) (g : Nat) (c : Option Nat) : State :=
  match c with
  | some c => ((s.wr (CMB_STATE_COLONY.idx g) c).wr (CMB_STATE_COLONY_VALID.idx g) 1).wrB (CMB_STATE_LC.idx g)
      (s.colony c).lc
  | none => ((s.wr (CMB_STATE_COLONY.idx g) 0).wr (CMB_STATE_COLONY_VALID.idx g) 0).wr (CMB_STATE_LC.idx g) 0

/-- A comb joins the reservation that chose it (R267); an LC colony's comb is never halted under DEBUG (R154). -/
def State.joinReservation (s : State) (c g : Nat) : State :=
  let x := s.colony c
  let s1 := (s.setColony c { x with joining := x.joining.filter (· ≠ g) }).showColony g (some c)
  let s2 := if s1.on (CMB_DBG_HALT.idx g) then s1.wr (CMB_DBG_REFUSED.idx g) 1 else s1
  (s2.wr (CMB_DBG_HALT.idx g) 0).wr (CMB_DBG_HALTED.idx g) 0

/-- A comb is released by its job: it goes back to the pool or to its colony, and STATE tells what it does (R150). -/
def State.freeComb (s : State) (g : Nat) (st : Nat) : State :=
  let s1 := s.modComb g fun c => { c with job := none, rank := 0, idleAt := s.tclk }
  let s2 := ((s1.wr (CMB_STATE_STATE.idx g) st).wr (CMB_STATE_CAUSES.idx g) 0).wr (CMB_DBG_HALTED.idx g) 0
  match s2.lcHolder g with
  | some c => if (s2.colony c).joining.contains g then s2.joinReservation c g else s2
  | none => s2.showColony g none

/-- The combs that a colony holds: running, switching or releasing (R282). -/
def State.inUse (s : State) (c : Nat) : Nat :=
  ((List.range 64).filter fun g => match (s.comb g).job with
    | some k => (s.job k).colony == some c
    | none => false).length

/-- The dies that combs lie on, without repeats. -/
def diesOf (gs : List Nat) : List Nat := (List.range 4).filter fun d => gs.any fun g => g / 16 == d

/-- The colonies with which a colony shares no die: the one that its AVOID names, and those whose AVOID names it (R265). -/
def State.apart (s : State) (c : Nat) : List Nat :=
  (s.colony c).avoid.toList ++ ((List.range 16).filter fun x => (s.colony x).live && (s.colony x).avoid == some c)

/-- The combs on which a colony's jobs run, switch or release. -/
def State.jobCombs (s : State) (c : Nat) : List Nat :=
  (List.range 64).filter fun g => match (s.comb g).job with
    | some k => (s.job k).colony == some c
    | none => false

/-- The dies that a colony's combs may not lie on: those that hold combs of a colony from which AVOID keeps it apart (R265). -/
def State.avoidDies (s : State) (c : Nat) : List Nat :=
  diesOf ((s.apart c).flatMap fun a => (s.colony a).reserved ++ s.jobCombs a)

/-- The combs that a ready list may use now: an LC colony its reserved combs, any other the pool, off the dies that AVOID excludes
(R265, R278, R123). -/
def State.usable (s : State) (c : Nat) : List Nat :=
  if c < 16 ∧ (s.colony c).lc = true then (s.colony c).reserved.filter s.combIncluded
  else if c < 16 then s.pool.filter fun g => !((s.avoidDies c).contains (g / 16))
  else s.pool

/-- The combs that a colony can reach at all: those of `usable`, whatever jobs of other best-effort colonies hold (R269). -/
def State.reach (s : State) (c : Nat) : List Nat :=
  if c < 16 ∧ (s.colony c).lc = true then (s.colony c).reserved.filter s.combIncluded
  else s.pool.filter fun g => !((diesOf ((s.apart c).flatMap fun a => (s.colony a).reserved)).contains (g / 16))

/-- Free combs in the order of R279: those not in Die standby before those in it, in each group the lowest indices first. -/
def State.freeOrder (s : State) (gs : List Nat) : List Nat :=
  let free := (List.range 64).filter fun g => gs.contains g && s.combFree g
  free.filter (fun g => !(s.inStandby g)) ++ free.filter s.inStandby

/-- Whether the queue of a job may begin its record (R117, R118, R277), and no vote refused its class: a refused function stays stopped
(R454, R474). -/
def State.jobMayBegin (s : State) (j : Job) : Bool :=
  match (s.queue j.slot).recs.find? fun r => r.seq == j.seq && !r.isEnded with
  | some r => s.mayBegin j.slot r && !s.on (GRD_STATUS_REFUSED.bit (s.queue j.slot).cls)
  | none => false

/-- The ready list of colony `c`; of the forager records of queues with no colony for `c` = 16 (R277, R123). -/
def State.readyList (s : State) (c : Nat) : List (Nat × Job) :=
  s.jobs.filter fun e => e.2.live && decide (e.2.phase = .ready) && (e.2.colony == (if c < 16 then some c else none))
    && s.jobMayBegin e.2

/-- Whether a ready job goes before another: the tick at which it became ready, then the lower doorbell slot (R277), then the order
of the queue. -/
def readyBefore (a b : Job) : Bool :=
  if a.readyAt ≠ b.readyAt then decide (a.readyAt < b.readyAt)
  else if a.slot ≠ b.slot then decide (a.slot < b.slot)
  else decide (32768 ≤ (a.seq + 65536 - b.seq) % 65536)

/-- The head of a ready list (R277). -/
def earliest : List (Nat × Job) → Option (Nat × Job)
  | [] => none
  | e :: es => some (es.foldl (fun b x => if readyBefore x.2 b.2 then x else b) e)

def State.head (s : State) (c : Nat) : Option (Nat × Job) := earliest (s.readyList c)

/-- The ready lists that draw on the pool: live BE colonies, and the records with no colony. -/
def State.poolLists (s : State) : List Nat :=
  ((List.range 16).filter fun c => (s.colony c).live && !(s.colony c).lc) ++ [16]

/-- What the other BE colonies are still guaranteed (R278). -/
def State.owedTo (s : State) (c : Nat) : Nat :=
  ((List.range 16).map fun c' =>
    if c' ≠ c ∧ (s.colony c').live = true ∧ (s.colony c').lc = false then (s.colony c').guarantee - s.inUse c' else 0).sum

/-- Whether enough pool combs are free for a pool head of list `c` (R278). -/
def State.poolRoom (s : State) (c n : Nat) : Bool :=
  decide (n ≤ (s.freeOrder (s.usable c)).length ∧ s.owedTo c ≤ (s.pool.filter s.combFree).length - n)

/-- The heads of the pool lists with their list. -/
def State.poolHeads (s : State) : List (Nat × Nat × Job) :=
  s.poolLists.filterMap fun c => (s.head c).map fun e => (c, e.1, e.2)

/-- Whether head `a` goes before head `b`. -/
def before (a b : Nat × Nat × Job) : Bool := readyBefore a.2.2 b.2.2

/-- The 20 ms of ageing in ticks (R278). -/
abbrev ageingTicks : Nat := 2500000

/-- Whether a pool head has waited 20 ms (R278). -/
def State.isAged (s : State) (h : Nat × Nat × Job) : Bool := decide (h.2.2.readyAt + ageingTicks ≤ s.tclk)

/-- Whether the head of pool list `c` may start now: room, no earlier head that could start, and no other list's aged
head that blocks (R278). -/
def State.poolMayStart (s : State) (c k : Nat) (j : Job) : Bool :=
  let me := (c, k, j)
  let others := s.poolHeads.filter fun h => h.1 ≠ c
  s.poolRoom c j.ncomb
    && !(others.any fun h => s.isAged h && (!(s.isAged me) || before h me))
    && (s.isAged me || !(others.any fun h => before h me && s.poolRoom h.1 h.2.2.ncomb))

/-- Whether jobs may be assigned at all: the combs are released (R26), the device is not in Low power (R60), the engines
are not held (R46), and no lost island B holds jobs back (R438). -/
def State.combsServe (s : State) : Bool :=
  decide (s.rd IDN_BOOT_STAGE = 6) && !(s.on PWR_STATUS_LOW_POWER) && !s.pwr.enginesHeld && !s.saf.join.jobsHeld

/-- Whether the combs of a die have their clock: the reference is there, and the die's PLL keeps its lock (R46). -/
def State.dieRuns (s : State) (d : Nat) : Bool := !s.pwr.refLost && tget none s.pwr.cdLossAt d == none

/-- Whether the combs of a job have their clock. -/
def State.jobClocked (s : State) (j : Job) : Bool := j.combs.all fun g => s.dieRuns (g / 16)

/-! ## Validation of JOB_RUN (R270-R272) -/

/-- Live-state entry from its 16 bytes (R271). -/
def LiveEntry.ofBytes (b : List Byte) : LiveEntry :=
  { kind := bitsOf (field b 0 1) 0 2, count := bitsOf (field b 0 1) 2 4, comb := bitsOf (field b 1 1) 0 6,
    slot := bitsOf (field b 2 2) 0 11, nslot := bitsOf (field b 4 2) 0 12, obj := field b 8 4, off := 64 * field b 12 4,
    reservedOk := Machine.reservedOk [(0, 0, 2), (0, 2, 4), (1, 0, 6), (2, 0, 11), (4, 0, 12), (8, 0, 32), (12, 0, 32)] b }

def LiveEntry.isSave (e : LiveEntry) : Bool := e.kind == 2
def LiveEntry.bytes (e : LiveEntry) : Nat := 4096 * e.nslot

/-- The live-state entries that a record names. -/
def State.liveEntries (s : State) (bs : List Byte) : List LiveEntry :=
  (List.range (bitsOf (field bs 44 2) 0 12)).map fun i =>
    LiveEntry.ofBytes (memRead s.dram (s.objAddr (field bs 36 4) (64 * field bs 40 4) + 16 * i) 16)

/-- Whether two LOAD entries of one comb share a slot. -/
def loadsClash : List LiveEntry → Bool
  | [] => false
  | e :: es => (es.any fun f => !e.isSave && !f.isSave && e.comb == f.comb &&
      decide (e.slot < f.slot + f.nslot ∧ f.slot < e.slot + e.nslot)) || loadsClash es

/-- The largest NCOMB that a colony's job may name (R272 check 5). -/
def State.ncombLimit (s : State) (c : Nat) : Nat :=
  if (s.colony c).lc then (s.colony c).ncomb else s.pool.length

/-- Whether a comb's job may reach what a handle names (R272 check 6). -/
def State.reaches (s : State) (c h : Nat) : Bool :=
  match s.objOf h with
  | some o => colonyReaches c o
  | none => true

/-- Check 9 of R115 for a JOB_RUN or the job part of a STEP_RUN (R272), for an image compiled for `compiled` combs with
CACHE_MODE `mode`.  A failure in a live-state entry is reported at LIVE (log entry 47). -/
def State.jobCheck (s : State) (c : Nat) (bs : List Byte) (compiled mode : Nat) : Nat × Nat :=
  let budget := bitsOf (field bs 32 4) 0 20
  let ncomb := bitsOf (field bs 32 4) 20 7
  let nlive := bitsOf (field bs 44 2) 0 12
  let nopen := bitsOf (field bs 46 2) 0 11
  let prog := field bs 16 4
  let args := field bs 24 4
  let live := field bs 36 4
  let open_ := field bs 48 4
  let isObj (h : Nat) : Bool := (s.objOf h).isSome
  let listOk := nlive == 0 || s.objFits live (64 * field bs 40 4) (16 * nlive)
  let es := if listOk then s.liveEntries bs else []
  firstField
    [ (nlive == 0 || !(listOk && s.rangePoisoned (s.objAddr live (64 * field bs 40 4)) (16 * nlive)), E_POISON, 36),
      (sized 20 budget && sized 7 ncomb, E_LEN, 32), (decide (nlive ≠ 4095), E_LEN, 44),
      (decide (nopen ≠ 2047), E_LEN, 46), (es.all fun e => sized 12 e.nslot, E_LEN, 36),
      (isObj prog, E_HANDLE, 16), (isObj args, E_HANDLE, 24),
      (isObj live == decide (0 < nlive), E_HANDLE, 36),
      (isObj open_ == decide (0 < nopen), E_HANDLE, 48), (es.all fun e => isObj e.obj, E_HANDLE, 36),
      (decide (field bs 52 4 % 4 = 0), E_ALIGN, 52),
      (es.all (·.reservedOk), E_RESERVED, 36),
      (decide (budget ≤ 625000 ∧ ncomb ≤ s.ncombLimit c ∧ ncomb = compiled), E_RANGE, 32),
      (decide (mode ≤ 2), E_RANGE, 16),
      (listOk && es.all (fun e => decide (e.kind ≤ 2 ∧ e.comb < ncomb)
          && (if e.kind = 0 then decide (1 ≤ e.count) else e.count == 0)
          && decide (4096 * (e.slot + e.nslot) ≤ cacheBase mode) && s.objFits e.obj e.off e.bytes)
        && !(loadsClash es), E_RANGE, 36),
      (s.objFits prog (64 * field bs 20 4) 0, E_RANGE, 20), (s.objFits args (64 * field bs 28 4) 256, E_RANGE, 28),
      (nopen == 0 || s.objFits open_ (field bs 52 4) (4 * nopen * ncomb), E_RANGE, 52),
      (s.reaches c prog, E_PARTITION, 16), (s.reaches c args, E_PARTITION, 24), (s.reaches c live, E_PARTITION, 36),
      (s.reaches c open_, E_PARTITION, 48), (es.all fun e => s.reaches c e.obj, E_PARTITION, 36) ]

/-- The job that a validated record makes (R270). -/
def State.mkJob (s : State) (d : Nat) (r : Rec) (mode : Nat) (step : Bool) : Job :=
  { live := true, slot := d, seq := r.seq, colony := some (s.recColony d r),
    ncomb := bitsOf (field r.bytes 32 4) 20 7, budget := bitsOf (field r.bytes 32 4) 0 20, label := r.label,
    phase := if step then .building else .ready, readyAt := s.tclk, bornAt := s.tclk, cacheMode := mode,
    entries := s.liveEntries r.bytes, step := step }

/-! ## The switch (R271, R276) -/

/-- Entries of an open list from its bytes (R231, R271). -/
def openEntries (b : List Byte) : List (BitVec 32) := (List.range (b.length / 4)).map fun e => BitVec.ofNat 32 (field b (4 * e) 4)

/-- Where the open-list group of comb `i` of a job lies, and its bytes (R271). -/
def State.openAddr (s : State) (bs : List Byte) (i : Nat) : Nat × Nat :=
  let n := bitsOf (field bs 46 2) 0 11
  (s.objAddr (field bs 48 4) (field bs 52 4) + 4 * n * i, 4 * n)

/-- The open-list group of comb `i` of a job, as it stands: what the switch time counts (R276). -/
def State.openGroup (s : State) (bs : List Byte) (i : Nat) : List (BitVec 32) :=
  openEntries (memRead s.dram (s.openAddr bs i).1 (s.openAddr bs i).2)

/-- The open-list entries with VALID 1. -/
def validOpens (l : List (BitVec 32)) : List (BitVec 32) := l.filter fun e => entryValid e.toNat

/-- The bytes of a job's entries of one comb, LOAD or SAVE. -/
def Job.entryBytes (j : Job) (i : Nat) (save : Bool) : Nat :=
  ((j.entries.filter fun e => e.comb == i && e.isSave == save).map LiveEntry.bytes).sum

/-- The rank of a comb in a job. -/
def Job.rankOf (j : Job) (g : Nat) : Nat := (j.combs.zipIdx.find? fun e => e.1 == g).elim 0 (·.2)

/-- What is unwritten at tick `t` of the save of a comb's previous job (R276): both foragers move 204.8 bytes per ns. -/
def State.saveLeft (s : State) (t g : Nat) : Nat :=
  match tget 0 s.unsaved g with
  | 0 => 0
  | k + 1 =>
    let j := s.job k
    j.entryBytes (j.rankOf g) true - (t - j.faultAt) * 8 * 2048 / 10

/-- The switch time of a comb in ticks, rounded up (R276). -/
def switchTicksOf (save load pages : Nat) : Nat := ceilDiv ((800 + 40 * pages) * 2048 + (save + load) * 10) (8 * 2048)

/-- When the build of a step began: with its record, once the previous step of the colony had finished its update (R253). -/
def State.buildFrom (s : State) (j : Job) : Nat := max j.bornAt (tget ({} : Step) s.brood.steps (j.colony.getD 0)).endedAt

/-- When the switch of a comb to a job begins: at its assignment; that of a step whose combs are there when its build ends began with
the build (R260, R276; log entry 110). -/
def State.switchFrom (s : State) (j : Job) (g : Nat) : Nat :=
  if j.step = true ∧ j.readyAt = s.tclk ∧ (s.comb g).idleAt ≤ s.buildFrom j then s.buildFrom j else s.tclk

/-- The switches of a job's combs begun (R276): from when, and the time that each takes. -/
def State.beginSwitch (s : State) (j : Job) : Job :=
  { j with switchAt := j.combs.map (s.switchFrom j),
           switchLen := j.combs.zipIdx.map fun e => switchTicksOf (s.saveLeft (s.switchFrom j e.1) e.1) (j.entryBytes e.2 false)
             (validOpens (j.opens.getD e.2 [])).length }

/-- The end of a job's switch: the largest over its combs (R276). -/
def Job.switchEnd (j : Job) : Nat := ((j.switchAt.zip j.switchLen).map fun e => e.1 + e.2).foldl max 0

/-- The switches of a job's combs on die `d` begin at tick `t`, when the die leaves Die standby (R59, R276). -/
def Job.restartSwitch (j : Job) (d t : Nat) : Job :=
  { j with switchAt := (j.combs.zip j.switchAt).map fun e => if e.1 / 16 = d then t else e.2 }

/-- Whether a comb switches to a job. -/
def State.switching (s : State) (g : Nat) : Bool :=
  match (s.comb g).job with
  | some k => (s.job k).phase == .switching
  | none => false

/-- A comb's SAVE entries of its previous job written (R271, R275); then the slots of one that switches are EMPTY (R180, R276). -/
def State.saveComb (s : State) (g : Nat) : State :=
  match tget 0 s.unsaved g with
  | 0 => s
  | k + 1 =>
    let j := s.job k
    let who : Who := { label := j.label, colony := j.colony.getD 0, source := g }
    let c := s.comb g
    let s1 := (j.entries.filter fun e => e.isSave && e.comb == j.rankOf g).foldl (fun s e =>
      let (s', st) := s.objStore who e.obj e.off (c.bytes g (4096 * e.slot) e.bytes)
      if st = 0 then s' else s'.setJob k { s'.job k with saveStat := st }) s
    let s2 := { s1 with unsaved := tset 0 s1.unsaved g 0 }
    if s2.switching g then s2.modComb g Comb.resetSlots else s2

/-- The slots of a LOAD entry (R185). -/
def loadSlots (t : Table Slot) (e : LiveEntry) : Table Slot :=
  (List.range e.nslot).foldl (fun t i =>
    tset {} t (e.slot + i) (if e.kind = 0 then { state := 1, count := e.count } else { state := 2, count := 0 })) t

/-- A comb set up for a job (R185, R186, R271): slots EMPTY, the cache mode, LOAD entries; the status of a load that
fails (R306). -/
def State.switchComb (s : State) (k : Nat) (j : Job) (g i : Nat) : State × Nat :=
  let who : Who := { label := j.label, colony := j.colony.getD ((s.labelColony j.label).getD 0), source := g }
  let s1 := s.modComb g fun c =>
    { c.resetSlots with
             job := some k, rank := i, pipe := [], held := none, wrote := [],
             lastIssued := false, stepReq := false, wait := 0, eccLeft := 0, bankLeft := 0, eccRows := [],
             foragers := [], cacheMode := j.cacheMode, tags := [], plru := [], writeBacks := [], fill := none,
             fillLag := false, missed := [], tile := none, attn := none, leftOpen := [] }
  (j.entries.filter fun e => !e.isSave && e.comb == i).foldl (fun (acc : State × Nat) e =>
    let (s2, st, bs) := acc.1.objLoad who e.obj e.off e.bytes
    let s3 := s2.modComb g fun c =>
      { c.putSpad (4096 * e.slot) bs with slots := loadSlots c.slots e, seen := loadSlots c.seen e }
    (s3, if acc.2 ≠ 0 then acc.2 else st)) (s1, 0)

/-- The declared opens of a comb (R232): those that succeed. -/
def State.switchOpens (s : State) (j : Job) (es : List (BitVec 32)) : State × List (BitVec 32) :=
  (validOpens es).foldl (fun (acc : State × List (BitVec 32)) e =>
    let p := acc.1.page (entryPage e.toNat)
    match acc.1.openPage e.toNat p.fmt p.dcode (j.colony.getD 0) with
    | (s', .opened) => (s', acc.2 ++ [e])
    | (s', _) => (s', acc.2)) (s, [])

/-- The open-list group of comb `i` of a job read and opened (R232, R271, R280): what opened, and the status of the read. -/
def State.openDeclared (s : State) (j : Job) (bs : List Byte) (g i : Nat) : State × Nat × List (BitVec 32) :=
  let who : Who := { label := j.label, colony := j.colony.getD 0, source := g }
  let (s1, st, b) := s.devLoad who (s.openAddr bs i).1 (s.openAddr bs i).2
  if st ≠ 0 then (s1, st, [])
  else
    let (s2, got) := s1.switchOpens j (openEntries b)
    (s2, 0, got)

/-- The declared opens of a job's combs: what each opened, and the first status that is not 0. -/
def State.openAll (s : State) (j : Job) (bs : List Byte) : State × Nat × List (List (BitVec 32)) :=
  j.combs.zipIdx.foldl (fun (acc : State × Nat × List (List (BitVec 32))) e =>
    let (s1, st, got) := acc.1.openDeclared j bs e.1 e.2
    (s1, if acc.2.1 ≠ 0 then acc.2.1 else st, acc.2.2 ++ [got])) (s, 0, [])

/-! ## Sequences at the end of a step (R247, R257-R259) -/

/-- Where item `i` of the running step's work list lies. -/
def State.itemAddr (s : State) (st : Step) (i : Nat) : Nat := s.objAddr st.wl.1 (st.wl.2 + 64 + 32 * i)

/-- SEQ_CTL and SEQ_FINISH on a live sequence (R247): the state, and the DETAIL that reports a pairing with no effect.
`op` is 0 for a finish, else OP of SEQ_CTL; `w` writes the list. -/
def State.seqOp (s : State) (w : Who) (op owner : Nat) : State × Nat :=
  match s.seqOf owner with
  | none => (s, 0)
  | some (fw, i, q) =>
    if op = 0 then (s.finishSeq w fw i q, 0)
    else if op = 1 then (s.pinSeq fw i q true, 0)
    else if op = 2 then (s.pinSeq fw i q false, 0)
    else if op = 3 ∧ q.state = 1 then (s.setSeq fw i { q with state := 3 }, 0)
    else if op = 4 ∧ q.state = 3 then (s.setSeq fw i { q with state := 1 }, 0)
    else if op = 5 ∧ q.state = 2 then (s.setSeq fw i { q with state := 1, parkWhy := 0 }, 0)
    else (s, q.state)

/-- One item of a step updated (R257, R258): `status` is the status of a faulted job, 0 for one that ended. -/
def State.updateItem (s : State) (w : Who) (st : Step) (status : Nat) (fails : List (Nat × Nat)) (i owner nnew : Nat) : State :=
  let a := s.itemAddr st i
  match s.seqOf owner with
  | none => s
  | some (fw, x, q) =>
    let mine := fails.filter fun f => f.1 == owner
    if status ≠ 0 then ((s.returnFrom w q q.npos).devStore w (a + 10) (leBytes 2 status)).1
    else if mine ≠ [] then
      let why := if mine.any (fun f => f.2 == E_NOPAGE) then E_NOPAGE else E_PARTITION
      let s1 := ((s.returnFrom w q q.npos).devStore w (a + 10) (leBytes 2 why)).1
      (s1.setSeq fw x { q with state := 2, parkWhy := if why = E_NOPAGE then 1 else 2 }).inc CMB_BROOD_PARKS_COUNT
    else
      let flags := field (memRead s.dram (a + 9) 1) 0 1
      let q' := { q with npos := q.npos + nnew, pend := q.pend - min q.pend nnew }
      let s1 := (s.devStore w (a + 10) (leBytes 2 0)).1
      if bitsOf flags 0 1 = 1 ∨ q'.npos = q.limit then
        ((s1.devStore w (a + 9) [BitVec.ofNat 8 (flags % 2 + 2)]).1).finishSeq w fw x q'
      else s1.setSeq fw x q'

/-- The oldest firmware-table sequence of a colony that may be promoted (R259). -/
def State.promotable (s : State) (c : Nat) : Option (Nat × Seq) :=
  (s.brood.fw.filter fun e => decide (e.2.state ≠ 0 ∧ e.2.colony = c) && !e.2.fwOnly).foldl
    (fun (b : Option (Nat × Seq)) x => match b with
      | none => some x
      | some y => if x.2.joinSeq < y.2.joinSeq then some x else some y) none

/-- The first free brood entry. -/
def State.freeBrood (s : State) : Option Nat := firstGap 4096 0 (s.brood.table.map (·.1))

/-- Promotion of firmware-table sequences into free brood entries, at most `n` (R259). -/
def State.promote (s : State) (c : Nat) : Nat → State
  | 0 => s
  | n + 1 =>
    match s.promotable c, s.freeBrood with
    | some (x, q), some i =>
      if i < 4096 then (((s.setSeq true x {}).setSeq false i q).inc CMB_BROOD_PROMOTED_COUNT).promote c n else s
    | _, _ => s

/-- The update of a colony's step whose job has a label (R251, R257-R260): every item in list order, then the records that waited
for it, the release of the pages that they freed, and promotion. -/
def State.stepUpdate (s : State) (c label status : Nat) (fails : List (Nat × Nat)) : State :=
  let st := tget ({} : Step) s.brood.steps c
  let w := allocWho label c
  let s1 := st.items.zipIdx.foldl (fun s e => s.updateItem w st status fails e.2 e.1.1 e.1.2) s
  let st' := { st with job := none, items := [], nfw := 0, deferred := [], endedAt := s.tclk }
  let s2 := { s1 with brood := { s1.brood with steps := tset {} s1.brood.steps c st' } }
  let s3 := st.deferred.foldl (fun s e =>
    let (s', det) := s.seqOp w e.2.2.1 e.2.2.2
    s'.completeRec e.1 e.2.1 det) s2
  (s3.stageRelease s).promote c 16

/-! ## How a job ends and faults -/

/-- Memory that a faulted job was writing takes undefined content (R116), where the job may write it. -/
def State.undefineFor (s : State) (who : Who) (a n : Nat) : State := if s.allowed who a then s.undefine a n else s

/-- The destination in DRAM of what a forager executes. -/
def State.xferDest (s : State) (x : Xfer) : List (Nat × Nat) :=
  match x.desc with
  | .dram t => if t.toSpad then [] else [(s.objAddr t.obj t.off, t.size)]
  | .op _ => []

/-- The sectors of a cached or leaving line that are dirty. -/
def dirtySectors (a : Nat) (d : BitVec 16) : List (Nat × Nat) :=
  (List.range 16).filterMap fun i => if d.getLsbD i then some (a + 32 * i, 32) else none

/-- What a comb was writing to DRAM. -/
def State.combWrites (s : State) (g : Nat) : List (Nat × Nat) :=
  let c := s.comb g
  (c.foragers.flatMap fun f => match f.2.cur with
    | some x => s.xferDest x
    | none => [])
  ++ (c.tags.flatMap fun l => if l.2.valid then dirtySectors l.2.addr l.2.dirty else [])
  ++ (c.writeBacks.flatMap fun w => dirtySectors w.addr w.dirty)

/-- A comb of a faulted job stops (R148, R191): transfers and dirty lines are discarded, what they were writing and the
scratchpad are undefined, its pages are closed, and it reads as faulted. -/
def State.stopComb (s : State) (g : Nat) : State :=
  let s1 := (s.combWrites g).foldl (fun x e => x.undefineFor (s.combWho g) e.1 e.2) s
  let s2 := (s1.attnDrop g).modComb g fun c =>
    { c.undefineSpad g with
      pipe := [], held := none, stepReq := false, wait := 0, eccLeft := 0, bankLeft := 0, eccRows := [],
      foragers := [], tags := [], plru := [], writeBacks := [], fill := none, tile := none }
  ((s2.wr (CMB_STATE_STATE.idx g) 5).wr (CMB_STATE_CAUSES.idx g) 0).wr (CMB_DBG_HALTED.idx g) 0

/-- The pages that a running job declared open closed again (R232). -/
def State.closeOpens (s : State) (j : Job) : State :=
  j.opens.flatten.foldl (fun s e => s.closePage (entryPage e.toNat)) s

/-- A job faults (R148, R274, R258): its combs stop, its step's items do not advance, its record faults, and its combs
are released within t_stop; the saves of the jobs before it on combs that still switch are written (R275).  A slot-wait or budget
fault of an LC job is reported to island A (R465). -/
def State.faultJob (s : State) (k st : Nat) (detail : Nat := 0) : State :=
  let j := s.job k
  if !j.live then s
  else
    let s0 := if j.phase = .switching then j.combs.foldl State.saveComb s else s
    let sA := j.combs.foldl State.stopComb s0
    let s1 := if j.phase = .running then sA.closeOpens j else sA
    let mine := decide ((tget ({} : Step) s.brood.steps (j.colony.getD 0)).job = some k)
    let s2 := if mine then s1.stepUpdate (j.colony.getD 0) j.label st [] else s1
    let s3 := if j.combs = [] then s2.setJob k {}
      else s2.setJob k { s2.job k with phase := .releasing, faultAt := s.tclk, opens := [] }
    let lc : Bool := match j.colony with
      | some c => (s.colony c).lc
      | none => false
    let s4 := if lc ∧ (st = E_BUDGET ∨ st = E_SLOTWAIT) then s3.safLog 10 0 0xFFFF 0 st else s3
    s4.faultRec j.slot j.seq st 0xFFFF detail

/-- A job's combs released after a fault (R274). -/
def State.releaseJob (s : State) (k : Nat) : State :=
  let j := s.job k
  (j.combs.foldl (fun s g => s.freeComb g 5) s).setJob k {}

/-- A fault of a comb's job; nothing where the comb runs none. -/
def State.faultComb (s : State) (g st : Nat) (detail : Nat := 0) : State :=
  match (s.comb g).job with
  | some k => s.faultJob k st detail
  | none => s

/-- E_SLOTWAIT on a comb (R146, R148, R152, R184): CMB_SLOTWAIT is written and the job faults. -/
def State.slotWaitFault (s : State) (g slot : Nat) (write : Bool) (sched : Nat) : State :=
  let w := if write then 1 else 0
  let s1 := ((s.wr (CMB_SLOTWAIT_SLOT.idx g) slot).wr (CMB_SLOTWAIT_WRITE.idx g) w).wr (CMB_SLOTWAIT_VALID.idx g) 1
  (s1.wr (CMB_SLOTWAIT_SCHED.idx g) sched).faultComb g E_SLOTWAIT (slot + 2048 * w)

end Sys2Proof.Machine
end

