-- ==== Sys2Proof/Machine/Bundle.lean ====
section
/-!
DEFINITION. One CCLK cycle of a comb (R131-R146, R173-R191, R201-R203): the checks of a bundle, the hold causes, the
charge of a frozen cycle, and the issue of every scheduled operation.
-/
namespace Sys2Proof.Machine

/-! ## What a bundle accesses -/

/-- The scratchpad reads of an operation: address. -/
def bopReadAt : BOp → Option Nat
  | .read _ a _ _ _ => some a
  | .wload a _ _ _ _ => some a
  | _ => none

/-- The scratchpad writes of an operation: address. -/
def bopWriteAt : BOp → Option Nat
  | .write a _ _ => some a
  | _ => none

/-- Whether a write stores a whole row. -/
def wrWide : WrSrc → Bool
  | .vreg _ _ => false
  | .row _ => true

/-- The width in bytes of a scratchpad or cache access. -/
def bopWidth : BOp → Nat
  | .read w _ _ _ _ => if w then 512 else 32
  | .write _ src _ => if wrWide src then 512 else 32
  | .wload _ _ _ _ _ => 512
  | .cacheRead w _ _ _ => if w then 512 else 32
  | .cacheWrite _ src => if wrWide src then 512 else 32
  | _ => 0

/-- The DRAM address of a cache access. -/
def bopCacheAt : BOp → Option Nat
  | .cacheRead _ a _ _ => some a
  | .cacheWrite a _ => some a
  | _ => none

/-- Whether a miss of a cache access needs a fill: any read, and a narrow write (R188). -/
def bopNeedsFill : BOp → Bool
  | .cacheRead _ _ _ _ => true
  | .cacheWrite _ src => !(wrWide src)
  | _ => false

/-- Whether a stream operation's pair of formats is accepted (R135, R160). -/
def streamOk (fmt wfmt : Nat) : Bool :=
  decide (fmt ≤ 6 ∧ (wfmt = fmt ∨ (fmt = 3 ∧ wfmt = 4) ∨ (fmt = 4 ∧ wfmt = 3)))

/-- The fault that an operation's own check finds: alignment, then range, then format (R135, R160, R175, R185, R188,
R202); 0 for none. -/
def Comb.opFault (c : Comb) (op : BOp) : Nat :=
  match op with
  | .stream _ f w _ _ _ _ _ => if streamOk f w then 0 else E_FORMAT
  | .wemit w => if wemitOut w then E_RANGE else 0
  | .cacheRead _ a _ _ => if a % (bopWidth op) ≠ 0 then E_ALIGN else if c.cacheMode = 0 then E_RANGE else 0
  | .cacheWrite a _ => if a % (bopWidth op) ≠ 0 then E_ALIGN else if c.cacheMode = 0 then E_RANGE else 0
  | .read _ a _ _ _ => if a % (bopWidth op) ≠ 0 then E_ALIGN else if cacheBase c.cacheMode ≤ a then E_RANGE else 0
  | .write a _ _ => if a % (bopWidth op) ≠ 0 then E_ALIGN else if cacheBase c.cacheMode ≤ a then E_RANGE else 0
  | .wload a _ _ _ _ => if a % 512 ≠ 0 then E_ALIGN else if cacheBase c.cacheMode ≤ a then E_RANGE else 0
  | _ => 0

/-- The first fault among a bundle's operations. -/
def Comb.bundleFault (c : Comb) (ops : List BOp) : Nat := ((ops.map c.opFault).find? (· ≠ 0)).getD 0

/-- The slots whose reads wait (R179, R182). -/
def Comb.emptySlots (c : Comb) (ops : List BOp) : List Nat :=
  (ops.filterMap bopReadAt).filterMap fun a =>
    if (tget ({} : Slot) c.seen (slotOf a)).state = 0 then some (slotOf a) else none

/-- The slots whose writes wait (R179, R182). -/
def Comb.fullSlots (c : Comb) (ops : List BOp) : List Nat :=
  (ops.filterMap bopWriteAt).filterMap fun a =>
    if (tget ({} : Slot) c.seen (slotOf a)).state = 1 then some (slotOf a) else none

/-- The DRAM addresses of a bundle's cache accesses that miss and need a fill (R188). -/
def Comb.misses (c : Comb) (ops : List BOp) : List Nat :=
  ops.filterMap fun op => match (bopCacheAt op) with
    | some a => if (bopNeedsFill op) && (c.findLine a).isNone then some a else none
    | none => none

/-- Whether an operation is a SWAP, which goes before the streams of its cycle (R132). -/
def bopIsSwap : BOp → Bool
  | .swap _ => true
  | _ => false

/-- The operations of a bundle in the order in which they go (R132, R133): SWAPs, then wide accesses, then the others. -/
def bundleOrder (ops : List BOp) : List BOp :=
  let rest := ops.filter fun o => !(bopIsSwap o)
  ops.filter bopIsSwap ++ (rest.filter fun o => bopWidth o == 512) ++ rest.filter fun o => bopWidth o != 512

/-- Whether a cache access misses. -/
def Comb.missesLine (c : Comb) (op : BOp) : Bool :=
  match bopCacheAt op with
  | some a => (c.findLine a).isNone
  | none => false

/-- The operations of a bundle in the order in which they issue: a cache access that hits goes before one that misses and replaces a
line (R188). -/
def Comb.issueOrder (c : Comb) (ops : List BOp) : List BOp :=
  ((bundleOrder ops).filter fun o => !(c.missesLine o)) ++ (bundleOrder ops).filter c.missesLine

/-- The line of a cache access; a wide write miss allocates it without a fill (R188). -/
def Comb.lineFor (c : Comb) (g a : Nat) : Comb × Nat :=
  match c.findLine a with
  | some k => (c, k)
  | none =>
    let k := c.victimLine a
    let c1 := c.dropLine g k
    ({ c1 with tags := tset {} c1.tags k { valid := true, addr := a / 512 * 512 } }, k)

/-- The cache accesses of a bundle, one after another (R174, R188): the DRAM address, whether the bundle holds for it (a miss that
needs a fill, or whose victim needs an entry of the full write-back buffer), and the bank of its line. -/
def Comb.cacheWalk (g : Nat) : Comb → List BOp → List (Nat × Bool × Nat)
  | _, [] => []
  | c, op :: ops =>
    match bopCacheAt op with
    | none => Comb.cacheWalk g c ops
    | some a =>
      if (c.findLine a).isNone && (bopNeedsFill op || c.wbBlocked (c.victimLine a)) then
        (a, true, bankOf (lineRow c.cacheMode (c.victimLine a))) :: Comb.cacheWalk g c ops
      else
        let x := c.lineFor g a
        (a, false, bankOf (lineRow c.cacheMode x.2)) :: Comb.cacheWalk g (x.1.touchLine x.2) ops

/-- The cache accesses of a bundle that the comb holds for under CACHE_MISS (R188, R198). -/
def Comb.heldMisses (c : Comb) (g : Nat) (ops : List BOp) : List Nat :=
  ((c.cacheWalk g (c.issueOrder ops)).filter (·.2.1)).map (·.1)

/-- The foragers that a bundle issues descriptors to. -/
def descTargets (ops : List BOp) : List Nat :=
  ops.filterMap fun op => match op with
    | .descriptor f _ => some f
    | _ => none

/-- Whether a descriptor issue meets a full queue, the bundle's own descriptors counted (R143). -/
def Comb.queueFull (c : Comb) (ops : List BOp) : Bool :=
  (descTargets ops).any fun f =>
    let x := tget ({} : Forager) c.foragers f
    decide (32 < x.queue.length + x.freed + (descTargets ops).count f)

/-- The banks that a bundle's scheduled accesses take (R133, R174, R188): the scratchpad's, and those of the lines. -/
def Comb.banks (c : Comb) (g : Nat) (ops : List BOp) : List Nat :=
  (ops.filterMap fun op => ((bopReadAt op).orElse fun _ => bopWriteAt op).map bankOf)
    ++ (c.cacheWalk g (c.issueOrder ops)).map (·.2.2)

/-- The frozen cycles that accesses colliding on banks cost (R133): every bank serves one access a cycle, so the banks serve theirs side by
side (DEDUCED; log entry 149). -/
def bankExtra (bs : List Nat) : Nat := (bs.map fun b => bs.count b - 1).foldl max 0

/-- Whether a bundle ends a descriptor that still waits for a page. -/
def Comb.pageWait (c : Comb) (ops : List BOp) : Bool :=
  ops.any (fun op => op == .attnEnd) && (match c.attn with
    | some x => x.waits
    | none => false)

/-! ## Hold causes (R143, R145) -/

/-- Whether a comb belongs to a latency-critical colony: one that a best-effort job still holds has not joined it (R267). -/
def State.isLc (s : State) (g : Nat) : Bool :=
  match s.lcHolder g with
  | some c => !((s.colony c).joining.contains g)
  | none => false

/-- Whether best-effort work that could be throttled runs on a die (R490). -/
def State.beOnDie (s : State) (d : Nat) : Bool :=
  (List.range 16).any fun i => !(s.isLc (16 * d + i)) && (s.comb (16 * d + i)).job.isSome

/-- Whether the ramp limiter holds a comb in this cycle (R64): a best-effort comb while its die's limiter gates issue or has shed
best-effort duty, a latency-critical one only while it gates and that duty is too small; which of those cycles it holds is free. -/
def State.rampHold (s : State) (g : Nat) : Bool :=
  let d := g / 16
  (if s.isLc g then s.pwr.gating.getLsbD d && s.pwr.lcGate.getLsbD d else s.pwr.gating.getLsbD d || tget 0 s.pwr.shed d != 0)
    && Config.rampGate g (s.rd (CMB_WALL_COUNT.idx g))

/-- Whether the thermal manager holds a comb in this cycle: 8 − d of every 8 cycles (R489). -/
def State.throttleHold (s : State) (g : Nat) : Bool :=
  !(s.isLc g) && decide (s.rd (THM_DIE_DUTY.idx (g / 16)) ≤ s.rd (CMB_WALL_COUNT.idx g) % 8)

/-- The hold causes active in a wall cycle besides DEBUG, by code (R143). -/
def State.holdCauses (s : State) (g : Nat) (ops : List BOp) : List Nat :=
  let c := s.comb g
  (if c.emptySlots ops ≠ [] ∨ c.pageWait ops = true then [0] else [])
  ++ (if c.fullSlots ops ≠ [] then [1] else [])
  ++ (if c.eccLeft ≠ 0 then [2] else [])
  ++ (if c.bankLeft ≠ 0 then [3] else [])
  ++ (if c.fill.isSome ∨ c.fillLag = true ∨ c.heldMisses g ops ≠ [] then [4] else [])
  ++ (if c.queueFull ops then [5] else [])
  ++ (if s.rampHold g then [6] else [])
  ++ (if s.throttleHold g then [7] else [])

/-- The order in which a frozen cycle is charged (R145). -/
def chargeOrder : List Nat := [8, 0, 1, 4, 5, 2, 3, 7, 6]

/-- The cause that a frozen cycle is charged to. -/
def chargedCause (cs : List Nat) : Option Nat := chargeOrder.find? cs.contains

/-- The counter of a hold cause (R149). -/
def holdFld (g n : Nat) : Fld := ({ CMB_HOLD0_COUNT with off := CMB_HOLD0_COUNT.off + 8 * n }).idx g

/-- The width of the hold counters: 48 bits with HOLD_CNT48 effective, else 32 (R151, R37). -/
def State.holdMax (s : State) : Nat := if bitsOf (s.rd IDN_CAP_PKG_WORD) 1 1 = 1 then 2 ^ 48 - 1 else 2 ^ 32 - 1

/-- A hold counter raised by `n`, saturating. -/
def State.incHold (s : State) (f : Fld) (n : Nat) : State := s.wr f (min (s.rd f + n) s.holdMax)

/-- The bits of CAUSES. -/
def causeBits (cs : List Nat) : Nat := ((List.range 9).map fun n => if cs.contains n then 2 ^ n else 0).sum

/-- The mark of a cache access that misses: one count for each held access of a bundle (R198). -/
def State.countMisses (s : State) (g : Nat) (ms : List Nat) : State :=
  let c := s.comb g
  let new := ms.filter fun a => !(c.missed.contains a)
  (s.modComb g fun c => { c with missed := c.missed ++ new }).inc (CMB_SPD_MISS_COUNT.bank g) new.length

/-- A miss starts its fill: the victim moves out, unless the write-back buffer is full (R188). -/
def Comb.startFill (c : Comb) (g : Nat) (ms : List Nat) : Comb :=
  match ms, c.fill with
  | a :: _, none =>
    let k := c.victimLine a
    if c.wbBlocked k then c else { c.dropLine g k with fill := some (a / 512 * 512, k) }
  | _, _ => c

/-- The slot that a slot-wait fault names, and whether it is a write (R182): the lowest waiting slot. -/
def Comb.waitSlot (c : Comb) (ops : List BOp) : Option (Nat × Bool) :=
  let es := c.emptySlots ops
  let fs := c.fullSlots ops
  match es ++ fs with
  | [] => none
  | x :: xs =>
    let m := xs.foldl min x
    some (m, !(es.contains m))

/-- One frozen wall cycle (R131, R142-R146). -/
def State.frozenCycle (s : State) (g : Nat) (ops : List BOp) (last : Bool) (cs : List Nat) : State :=
  let c := s.comb g
  let charged := (chargedCause cs).getD 8
  let slotHold := c.waitSlot ops
  let wait := if slotHold.isSome then (if charged = 8 then c.wait else c.wait + 1) else 0
  let s1 := s.countMisses g (c.heldMisses g ops)
  let s2 := s1.modComb g fun c =>
    { (c.startFill g (c.misses ops)).endCycle none with
      held := some (ops, last), wait := wait, eccLeft := c.eccLeft - 1, bankLeft := c.bankLeft - 1 }
  let s3 := (s2.incHold (holdFld g charged) 1).incHold (CMB_HOLD_TOTAL_COUNT.idx g) 1
  let s4 := s3.inc (CMB_WALL_COUNT.idx g)
  let s5 := s4.wr (CMB_STATE_CAUSES.idx g) (causeBits cs)
  let s6 := s5.wr (CMB_STATE_STATE.idx g) (if charged = 8 then 4 else 3)
  let s7 := s6.wrB (CMB_DBG_HALTED.idx g) (charged == 8)
  match slotHold with
  | some (n, w) => if wait = 65536 then s7.slotWaitFault g n w (s7.rd (CMB_SCHED_COUNT.idx g)) else s7
  | none => s7

/-! ## Issue (R132) -/

/-- An effect entered in a comb's pipeline, to take place before schedule cycle `due`. -/
def Comb.push (c : Comb) (due : Nat) (e : PipeEff) : Comb := { c with pipe := c.pipe ++ [(due, e)] }

/-- Where a read's bytes go. -/
def rdEff (dst : RdDst) (bs : List Byte) : PipeEff :=
  match dst with
  | .input m b => .input m (512 * b) bs
  | .weights m r => .shadow m (512 * r) bs
  | .wscales m h => .shadow m (2048 + 32 * h) bs
  | .iscales m b => .input m (1024 + 32 * b) bs
  | .vreg r p => .vreg (128 * r + 8 * p) (wordsOf (bs.length / 4) bs)

/-- A scratchpad read's side effects: its release, and its row's ECC error (R143, R178, R180). -/
def Comb.readSides (c : Comb) (x a : Nat) (release : Bool) (err : Nat) : Comb :=
  let c1 := if release then c.push (x + 2) (.slot (.release (slotOf a))) else c
  if err = 0 then c1 else c1.push (x + 3) (.ecc (a / 512) (err != 1))

/-- The bytes that a write stores. -/
def Comb.writeBytes (c : Comb) : WrSrc → List Byte
  | .vreg r p => ((c.vregBytes r).drop (32 * p)).take 32
  | .row bs => bs

/-- The two words of an identity read (R21, R270). -/
def State.identityWords (s : State) (g : Nat) (src : IdSrc) : List Word :=
  let c := s.comb g
  let j := s.job (c.job.getD 0)
  let d := g / 16
  match src with
  | .word 0 =>
    let v := s.reg (IDN_DIE_TYPE.idx d).off
    [v.setWidth 32, (v >>> 32).setWidth 32]
  | .word _ =>
    [BitVec.ofNat 32 (g + (g % 16) * 2 ^ 6 + d * 2 ^ 10 + s.rd (IDN_DIE_BASELINE.idx d) * 2 ^ 12),
     BitVec.ofNat 32 (s.rd IDN_CAP_PKG_WORD)]
  | .jobIndex => [BitVec.ofNat 32 c.rank, BitVec.ofNat 32 j.ncomb]
  | .argument n => [BitVec.ofNat 32 (field j.args (8 * n) 4), BitVec.ofNat 32 (field j.args (8 * n + 4) 4)]

/-- One operation of a bundle that issues in schedule cycle `x`, on the comb alone (R132, R137, R139, R201).  Nothing of spec/ says what a
bundle does that asks more of an engine than R132 gives it (two streams or drains of one cell, two vector operations, a stream in the
cycle after a 16-bit one, a busy unit): here every operation has its full effect (DESIGN CHOICE; log entry 131). -/
def Comb.issue (c : Comb) (g x : Nat) (ident : IdSrc → List Word) (op : BOp) : Comb :=
  match op with
  | .read w a dst rel err => (c.push (x + 3) (rdEff dst (c.bytes g a (if w then 512 else 32)))).readSides x a rel err
  | .write a src mark =>
    let c1 := c.push (x + 2) (.store a (c.writeBytes src))
    if mark = 0 then c1 else c1.push (x + 2) (.slot (.mark (slotOf a) mark))
  | .swap i => { c with cells := tmod {} c.cells i fun k => { k with active := k.shadow, shadow := k.active } }
  | .stream i f wf bank entry buf vec acc =>
    let v := (tget ({} : Cell) c.cells i).sums f wf buf vec
    c.push (if elemBits f = 16 then x + 6 else x + 5)
      (.accum i ((bank * 32 + entry) * 64) (decide (f ≤ 1)) acc v)
  | .drain i bank entry r half =>
    let t := (tget ({} : Cell) c.cells i).acc
    c.push (x + 3) (.vreg (128 * r + 64 * half) ((List.range 64).map fun n => tget 0 t ((bank * 32 + entry) * 64 + n)))
  | .vector o a b d dst => c.push (x + vopOffset o) (.vreg (128 * dst) (lanes3 o (c.vreg a) (c.vreg b) (c.vreg d)))
  | .toFp32 v => c.push (x + 3) (.vreg (128 * v.vreg + v.lane)
      (lanesToFp32 v.fmt v.n ((c.vregBytes v.reg).drop v.pos) ((c.vregBytes v.sreg).drop v.spos)))
  | .fromFp32 v =>
    let bs := lanesFromFp32 v.fmt (((c.vreg v.vreg).drop v.lane).take v.n)
    (c.push (x + 3) (.vbytes (512 * v.reg + v.pos) bs.1)).push (x + 3) (.vbytes (512 * v.sreg + v.spos) bs.2)
  | .identity src dst => c.push (x + 2) (.vreg (128 * dst) (ident src))
  | .descriptor f d => { c with foragers := tmod {} c.foragers f fun q => { q with queue := q.queue ++ [(d, x)] } }
  | .wload a l h rel err => (c.push (x + 3) (.line (1024 * l + 512 * h) (c.bytes g a 512))).readSides x a rel err
  | .wemit w => c.push (x + 2) (.emit w.cells (512 * w.buf) (wemitBytes c.lines w))
  | .cacheRead w a dst err =>
    match c.findLine a with
    | some k =>
      let row := lineRow c.cacheMode k
      ((c.touchLine k).push (x + 3) (rdEff dst (c.bytes g (row + a % 512) (if w then 512 else 32)))).readSides x row false err
    | none => c
  | .cacheWrite a src =>
    let y := c.lineFor g a
    (y.1.touchLine y.2).push (x + 2) (.cstore y.2 a (c.writeBytes src))
  | .tileStart _ _ => c
  | .tileEnd => c
  | .attnStart _ _ => c
  | .attnEnd => c

/-- Whether a bundle reads a poisoned cache line (R189). -/
def Comb.readsPoison (c : Comb) (ops : List BOp) : Bool :=
  ops.any fun op => match op with
    | .cacheRead _ a _ _ => match c.findLine a with
      | some k => (tget ({} : Line) c.tags k).poison
      | none => false
    | _ => false

/-- The cache accesses of a bundle that hit: those that did not miss before (R198). -/
def Comb.hitCount (c : Comb) (ops : List BOp) : Nat :=
  (ops.filter fun op => match (bopCacheAt op) with
    | some a => (c.findLine a).isSome && !(c.missed.contains a)
    | none => false).length

/-- A tile record and its chain, as they stand in memory: the status of the reads, the record and the entries. -/
def State.readTile (s : State) (g table index : Nat) : State × Nat × List Byte × List (List Byte) :=
  let who := s.combWho g
  if !(s.objFits table (64 * index) 64) then (s, E_RANGE, [], [])
  else
    let (s1, st, rec) := s.objLoad who table (64 * index) 64
    let n := bitsOf (field rec 1 1) 0 4
    if st ≠ 0 ∨ s1.objFits (field rec 4 4) 0 (32 * n) = false then (s1, st, rec, [])
    else
      let (s2, st2, bs) := s1.objLoad who (field rec 4 4) 0 (32 * n)
      (s2, st2, rec, (List.range n).map fun i => (bs.drop (32 * i)).take 32)

/-- A program starts a tile (R216-R218): a fault's status and DETAIL, 0 for none. -/
def State.tileStart (s : State) (g table index : Nat) : State × Nat × Nat :=
  let (s1, st, rec, lbs) := s.readTile g table index
  if st ≠ 0 then (s1, st, field rec 52 2)
  else
    let (chk, layer) := s1.tileCheck rec lbs
    if chk ≠ 0 then (s1, chk, field rec 52 2 + layer % 8 * 65536)
    else (s1.modComb g fun c => { c with tile := some (mkTile rec lbs) }, 0, 0)

/-- A tile's output written (R199, R215, R216): the status of a fault. -/
def State.tileEnd (s : State) (g : Nat) : State × Nat :=
  match (s.comb g).tile with
  | none => (s, 0)
  | some t =>
    let who := s.combWho g
    let s0 := s.modComb g fun c => { c with tile := none }
    let (s1, st) := s0.objsStatus who t.reads
    if st ≠ 0 then (s1, st)
    else (s1.tileRows t).foldl (fun (acc : State × Nat) r =>
      if acc.2 ≠ 0 then acc else acc.1.devStore who r.1 r.2) (s1, 0)

/-- One operation on the machine: tiles and attention descriptors reach DRAM, every other operation only the comb. -/
def State.issueOp (s : State) (g x : Nat) (op : BOp) : State × Nat × Nat :=
  match op with
  | .tileStart t i => s.tileStart g t i
  | .tileEnd => let r := s.tileEnd g; (r.1, r.2, 0)
  | .attnStart t i => let r := s.attnStart g t i; (r.1, r.2, i % 65536)
  | .attnEnd => let r := s.attnEnd g; (r.1, r.2, 0)
  | _ => (s.modComb g fun c => c.issue g x (s.identityWords g) op, 0, 0)

/-- The operations of a bundle in the order in which they issue, until one faults. -/
def State.issueOps (s : State) (g x : Nat) (ops : List BOp) : State × Nat × Nat :=
  ((s.comb g).issueOrder ops).foldl
    (fun (acc : State × Nat × Nat) op => if acc.2.1 ≠ 0 then acc else acc.1.issueOp g x op) (s, 0, 0)

/-- The pipeline of a comb after the last bundle (R131, R133, R141, R143): its effects in the order of the schedule, and the frozen
cycles still owed for colliding accesses and corrected rows (log entry 111); an uncorrectable row faults the job (R178). -/
def State.drainComb (s : State) (g : Nat) : State :=
  let c := s.comb g
  let n := (c.pipe.filter fun e => isEcc false e.2).length
  let s1 := (s.incHold (holdFld g 2) (c.eccLeft + 2 * n)).incHold (holdFld g 3) (c.bankLeft - c.eccLeft)
  let s2 := (s1.incHold (CMB_HOLD_TOTAL_COUNT.idx g) (max c.eccLeft c.bankLeft + 2 * n)).inc (CMB_WALL_COUNT.idx g)
    (max c.eccLeft c.bankLeft + 2 * n)
  let s3 := (s2.inc (CMB_ECC_ROWS_COUNT.idx g) n).modComb g fun c => { c.drainPipe c.pipe.length with eccLeft := 0, bankLeft := 0 }
  if c.pipe.any fun e => isEcc true e.2 then s3.faultComb g E_POISON else s3

/-- One advance cycle (R131): the bundle issues and every pipeline moves one stage; behind the last one it drains, so that the foragers
see what it changes (R181). -/
def State.advanceCycle (s : State) (g : Nat) (ops : List BOp) (last : Bool) : State :=
  let c := s.comb g
  let x := s.rd (CMB_SCHED_COUNT.idx g)
  let extra := bankExtra (c.banks g ops)
  if c.readsPoison ops then s.faultComb g E_POISON
  else
    let (s1, st, det) := (s.inc (CMB_SPD_HIT_COUNT.bank g) (c.hitCount ops)).issueOps g x ops
    if st ≠ 0 then s1.faultComb g st det
    else
      let pipe := (s1.comb g).pipe
      let s2 := s1.modComb g fun c =>
        { c.endCycle (some (x + 1)) with
          held := none, lastIssued := last, stepReq := false, wait := 0, bankLeft := extra, missed := [] }
      let s3 := (s2.inc (CMB_SCHED_COUNT.idx g)).inc (CMB_WALL_COUNT.idx g)
      let s4 := s3.inc (CMB_ECC_ROWS_COUNT.idx g) (eccCount pipe (x + 1))
      let s5 := ((s4.wr (CMB_STATE_CAUSES.idx g) 0).wr (CMB_STATE_STATE.idx g) 2).wr (CMB_DBG_HALTED.idx g) 0
      if eccFatal pipe (x + 1) then s5.faultComb g E_POISON else if last then s5.drainComb g else s5

/-- One wall cycle of a comb that runs a job: `ops` is the bundle of the current schedule cycle, `last` whether it is
the program's last; a bundle that is held is retried (R131, R142). -/
def State.combCycle (s : State) (g : Nat) (ops : List BOp) (last : Bool) : State :=
  let c := s.comb g
  let (ops, last) := c.held.getD (ops, last)
  let cs := s.holdCauses g ops
  if s.on (CMB_DBG_HALT.idx g) ∧ (c.stepReq = false ∨ cs ≠ []) then s.frozenCycle g ops last (8 :: cs)
  else
    let f := c.bundleFault ops
    if f ≠ 0 then s.faultComb g f
    else if cs ≠ [] then s.frozenCycle g ops last cs
    else s.advanceCycle g ops last

end Sys2Proof.Machine
end

