-- ==== Sys2Proof/Machine/Sched.lean ====
section
/-!
DEFINITION. The scheduler and the life of a job: assignment (R278, R279), start (R273, R276), end, saves and DETAIL
(R273, R275), budget (R273, R123), and the work list of a step (R253-R256, R260).
-/
namespace Sys2Proof.Machine

/-- The record of a job. -/
def State.jobRec (s : State) (j : Job) : List Byte :=
  (((s.queue j.slot).recs.find? fun r => r.seq == j.seq && !r.isEnded).map (·.bytes)).getD []

/-- Whether the head of list `c` is a JOB_RUN or STEP_RUN that needs more combs than its colony can reach (R269); a forager record
waits for its comb (R123). -/
def State.unreachable (s : State) (c : Nat) (j : Job) : Bool := !j.forager && decide ((s.reach c).length < j.ncomb)

/-- Whether the head of list `c` may start now (R267, R278, R123). -/
def State.mayStart (s : State) (c k : Nat) (j : Job) : Bool :=
  if c < 16 ∧ (s.colony c).lc = true then
    (s.colony c).joining.isEmpty && decide (j.ncomb ≤ (s.freeOrder (s.usable c)).length)
  else s.poolMayStart c k j

/-- A comb demanded of a die in Die standby starts that die's exit, which ends within 2 ms (R59). -/
def State.demandDie (s : State) (g : Nat) : State :=
  if s.inStandby g ∧ tget none s.pwr.standbyExitAt (g / 16) = none then
    { s with pwr := { s.pwr with standbyExitAt := tset none s.pwr.standbyExitAt (g / 16) (some (s.tclk + 250000)) } }
  else s

/-- A job assigned to combs (R276, R279): the switch begins, with every slot EMPTY where no save of the job before is left (R180). -/
def State.assignJob (s : State) (c k : Nat) (j : Job) : State :=
  let gs := (s.freeOrder (s.usable c)).take j.ncomb
  let bs := s.jobRec j
  let j1 := { j with phase := .switching, combs := gs, assignedAt := s.tclk,
                     opens := if j.forager then [] else (List.range gs.length).map (s.openGroup bs) }
  let s1 := s.setJob k (s.beginSwitch j1)
  let s2 := gs.zipIdx.foldl (fun s e =>
    let s' := (s.demandDie e.1).modComb e.1 fun x =>
      { (if tget 0 s.unsaved e.1 = 0 then x.resetSlots else x) with job := some k, rank := e.2 }
    if (s'.lcHolder e.1).isNone then s'.showColony e.1 j.colony else s') s1
  match j.colony with
  | some c => s2.raise (CMB_COL_MAXWAIT_TICKS.bank c) (s.tclk - j.readyAt)
  | none => s2

/-- Whether a job can end its switch: no comb of it is on a die in Die standby (R59). -/
def State.switchEnds (s : State) (j : Job) : Bool := j.combs.all fun g => !(s.inStandby g)

/-- A comb set running at s0 (R150, R151, R154, R198). -/
def State.startComb (s : State) (g : Nat) : State :=
  let s1 := (s.wr (CMB_SCHED_COUNT.idx g) 0).wr (CMB_WALL_COUNT.idx g) 0
  let s2 := (s1.wr (CMB_SPD_HIT_COUNT.bank g) 0).wr (CMB_SPD_MISS_COUNT.bank g) 0
  let halt := s2.on (CMB_DBG_HALT.idx g)
  ((s2.wr (CMB_STATE_STATE.idx g) (if halt then 4 else 2)).wr (CMB_STATE_CAUSES.idx g) (if halt then 256 else 0)).wrB
    (CMB_DBG_HALTED.idx g) halt

/-- RAMP_ACTIVE of a limiter (R66): it gates, holds best-effort duty back, or fills. -/
def State.showRamp (s : State) (die : Nat) : State :=
  let busy := s.pwr.gating.getLsbD die || s.pwr.filling.getLsbD die || tget 0 s.pwr.shed die != 0
  if die = 4 then s.wrB PWR_STATUS_RAMP_ACTIVE_IOD busy else s.wrB (PWR_STATUS_RAMP_ACTIVE.bit die) busy

/-- Whether an idle comb runs filler: the ramp limiter's (R64), and where that has ended the filler of its thermal domain (R492). -/
def State.fills (s : State) (g : Nat) : Bool :=
  s.pwr.filler.getLsbD g || decide ((tget ({} : Domain) s.thm.doms (g / 16)).filler ≠ 0)

/-- Whether every comb of a job on a die runs filler, which the job replaces without a ramp (R64, R492). -/
def State.onFiller (s : State) (j : Job) (d : Nat) : Bool := (j.combs.filter fun g => g / 16 == d).all s.fills

/-- A latency-critical job that starts with estimated power `mw` on a die (R64): best-effort duty there is shed by up to that power,
and the job's combs are gated only where that duty is too small. -/
def State.shedFor (s : State) (d mw : Nat) : State :=
  let left := tget 0 s.pwr.beDuty d - tget 0 s.pwr.shed d
  let bit : BitVec 5 := 1 <<< d
  (s.modPwr fun p => { p with
    shed := tset 0 p.shed d (tget 0 p.shed d + min mw left)
    gating := if left < mw then p.gating ||| bit else p.gating
    lcGate := if left < mw then p.lcGate ||| bit else p.lcGate }).showRamp d

/-- What a start of a job on its combs makes the ramp limiters do (R64); `est` is its estimated power on each die. -/
def State.rampStart (s : State) (j : Job) (est : List Nat) : State :=
  let lc := match j.colony with
    | some c => (s.colony c).lc
    | none => false
  let s1 := (diesOf j.combs).foldl (fun x d => if lc = true ∧ s.onFiller j d = false then x.shedFor d (est.getD d 0) else x) s
  s1.modPwr fun p => { p with filler := j.combs.foldl (fun f g => f &&& ~~~((1#64) <<< g)) p.filler }

/-- The combs of a job that ended run filler, and their limiters fill (R64). -/
def State.rampEnd (s : State) (gs : List Nat) : State :=
  (diesOf gs).foldl State.showRamp (s.modPwr fun p => { p with
    filler := gs.foldl (fun f g => f ||| ((1#64) <<< g)) p.filler
    filling := (diesOf gs).foldl (fun f d => f ||| ((1#5) <<< d)) p.filling })

/-- The end of a job's switch (R273, R276): leftover saves, slots, loads, opens; every comb issues s0 from this tick. -/
def State.startJob (s : State) (k : Nat) (est : List Nat) : State :=
  let j := s.job k
  let s1 := (s.waitTo j.switchEnd).rampStart j est
  let s2 := j.combs.foldl State.saveComb s1
  let (s3, st) := j.combs.zipIdx.foldl (fun (acc : State × Nat) e =>
    let (s', st') := acc.1.switchComb k j e.1 e.2
    (s', if acc.2 ≠ 0 then acc.2 else st')) (s2, 0)
  let bs := s3.jobRec j
  let who : Who := { label := j.label, colony := j.colony.getD 0, source := j.combs.headD 0 }
  let (s4, st4, args) := if j.forager then (s3, 0, []) else s3.objLoad who (field bs 24 4) (64 * field bs 28 4) 256
  let (s5, st5, opens) := if j.forager then (s4, 0, []) else s4.openAll j bs
  let s6 := j.combs.foldl State.startComb s5
  let s7 := s6.setJob k { s6.job k with phase := .running, startAt := s6.tclk, count := 0, opens := opens, args := args }
  let s8 := match j.colony with
    | some c => (s7.inc (CMB_COL_JOBS_COUNT.bank c)).raise (CMB_COL_MAXSW_TICKS.bank c) (s6.tclk - j.switchAt.foldl min j.assignedAt)
    | none => s7
  if st ≠ 0 then s8.faultJob k st else if st4 ≠ 0 then s8.faultJob k st4 else if st5 ≠ 0 then s8.faultJob k st5 else s8

/-- Whether a comb's part of a job has ended but for its cache (R141, R273). -/
def State.combEnded (s : State) (g : Nat) : Bool :=
  let c := s.comb g
  c.lastIssued && c.held.isNone && c.fill.isNone && c.foragers.all fun f => f.2.queue.isEmpty && f.2.cur.isNone

/-- Whether a comb's part of a job has ended, its cache written back (R191, R273). -/
def State.combDone (s : State) (g : Nat) : Bool :=
  let c := s.comb g
  s.combEnded g && c.writeBacks.isEmpty && c.tags.all fun l => !l.2.valid || l.2.dirty == 0

/-- The DETAIL of an E_BUDGET fault (R273). -/
def State.budgetDetail (s : State) (j : Job) : Nat :=
  match j.combs.zipIdx.find? fun (e : Nat × Nat) => !(s.combDone e.1) with
  | some (g, i) => i + (if (s.comb g).lastIssued then 64 else 0)
  | none => 64

/-- A job whose count has reached BUDGET faults with E_BUDGET (R273); a forager record's destination becomes undefined
(R123, R116). -/
def State.budgetFault (s : State) (k : Nat) : State :=
  let j := s.job k
  let s1 := match j.colony with
    | some c => s.inc (CMB_COL_BUDGET_COUNT.bank c)
    | none => s
  if j.forager then
    let bs := s.jobRec j
    let s2 := match s1.objOf (field bs 20 4) with
      | some o => s1.undefine (o.addr + field bs 32 8) (field bs 40 4)
      | none => s1
    s2.faultJob k E_BUDGET
  else s1.faultJob k E_BUDGET (s.budgetDetail j)

/-- DETAIL of a completed job (R275, R257): the count in µs rounded up, or NITEMS of a step, and the number of
descriptors whose STATUS is not 0. -/
def State.jobDetail (s : State) (j : Job) : Nat :=
  let lo := if j.step then (tget ({} : Step) s.brood.steps (j.colony.getD 0)).items.length else ceilDiv (8 * j.count) 1000
  min lo 65535 + 65536 * min j.fails.length 65535

/-- A job that ended and saved completes. -/
def State.finishJob (s : State) (k : Nat) (detail : Nat) : State :=
  let j := s.job k
  let s1 := s.setJob k {}
  if j.saveStat ≠ 0 then s1.faultRec j.slot j.seq j.saveStat else s1.completeRec j.slot j.seq detail

/-- A comb at the end of its job: cache written back, pages closed (R141, R191, R232); the status of a write-back that fails (R327). -/
def State.endComb (s : State) (g : Nat) : State × Nat :=
  let (s1, st) := s.flushCache g
  (s1.attnDrop g, st)

/-- The combs of a job at its end: the first status that is not 0. -/
def State.endCombs (s : State) (gs : List Nat) : State × Nat :=
  gs.foldl (fun (acc : State × Nat) g =>
    let (s', st) := acc.1.endComb g
    (s', if acc.2 ≠ 0 then acc.2 else st)) (s, 0)

/-- A job ends (R273, R275, R257): its combs are released, its step updated, its saves begin; or what its last reads and write-backs
met faults it. -/
def State.endJob (s : State) (k : Nat) : State :=
  let j := s.job k
  let (s0, bad) := s.endCombs j.combs
  if j.budget < j.count then s.budgetFault k
  else if bad ≠ 0 then s0.faultJob k bad
  else
    let s1 := s0.closeOpens j
    let detail := s1.jobDetail (s1.job k)
    let s2 := if j.step then s1.stepUpdate (j.colony.getD 0) j.label 0 (s1.job k).fails else s1
    let saves := j.entries.any LiveEntry.isSave
    let s3 := { s2 with unsaved := j.combs.zipIdx.foldl (fun t (e : Nat × Nat) =>
      if 0 < j.entryBytes e.2 true then tset 0 t e.1 (k + 1) else t) s2.unsaved }
    let s4 := s3.setJob k { s3.job k with phase := .saving, faultAt := s.tclk, opens := [], readyAt := detail }
    let s5 := (j.combs.foldl (fun s g => s.freeComb g 1) s4).rampEnd j.combs
    if saves then s5 else s5.finishJob k detail

/-- When the last save write of an ended job lands: each comb's two foragers move 204.8 bytes per ns (R275). -/
def Job.savedAt (j : Job) : Nat :=
  j.faultAt + ((List.range j.combs.length).map fun i => ceilDiv (j.entryBytes i true * 10) (8 * 2048)).foldl max 0

/-! ## The work list of a step (R253-R256) -/

/-- Whether sequence `a` goes before `b` in a build (R254). -/
def seqBefore (st : Nat) (a b : Seq) : Bool :=
  let age (q : Seq) : Nat := (st + 2 ^ 32 - q.lastStep) % 2 ^ 32
  if a.pin ≠ b.pin then a.pin
  else if age a ≠ age b then decide (age b < age a)
  else decide (a.joinSeq < b.joinSeq)

/-- A sequence put in its place. -/
def insertSeq (st : Nat) (x : Nat × Seq) : List (Nat × Seq) → List (Nat × Seq)
  | [] => [x]
  | y :: ys => if seqBefore st x.2 y.2 then x :: y :: ys else y :: insertSeq st x ys

/-- The ACTIVE sequences of a colony in the order of R254. -/
def sortSeqs (st : Nat) (t : Table Seq) (colony : Nat) : List (Nat × Seq) :=
  (t.filter fun e => decide (e.2.state = 1 ∧ e.2.colony = colony)).foldl (fun l e => insertSeq st e l) []

/-- The items of one part of the list (R254): sequence and NNEW, at most `n` items and `tok` positions. -/
def pickItems (chunk : Nat) : Nat → Nat → List (Nat × Seq) → List (Nat × Seq × Nat)
  | _, _, [] => []
  | n, tok, (i, q) :: es =>
    if n = 0 ∨ tok = 0 then []
    else
      let want := if 0 < q.pend then min q.pend chunk else 1
      let need := min (min want (q.limit - q.npos)) tok
      (i, q, need) :: pickItems chunk (n - 1) (tok - need) es

/-- The 32 bytes of an item (R255). -/
def itemBytes (q : Seq) (nnew : Nat) (fw : Bool) : List Byte :=
  leBytes 4 (q.owner + (if 0 < q.pend then 2 ^ 24 else 0) + (if fw then 2 ^ 25 else 0))
    ++ leBytes 4 q.npos ++ leBytes 2 nnew ++ leBytes 2 0 ++ leBytes 4 q.list ++ leBytes 4 q.listOff ++ leBytes 4 q.user
    ++ leBytes 4 (q.g + q.kvFmt * 2 ^ 12 + q.dcode * 2 ^ 15) ++ leBytes 4 q.limit

/-- The 64 bytes of a work-list header (R255). -/
def headerBytes (st nitems nfw tokens : Nat) : List Byte :=
  padTo 64 (leBytes 4 st ++ leBytes 2 nitems ++ leBytes 2 nfw ++ leBytes 4 tokens)

/-- The check 9 of a STEP_RUN beyond the job part (R253). -/
def State.stepCheck (s : State) (bs : List Byte) : Nat × Nat :=
  let maxb := bitsOf (field bs 72 2) 0 11
  let fwres := bitsOf (field bs 74 2) 0 11
  let wl := field bs 64 4
  let off := field bs 68 4
  firstField
    [ (decide (1 ≤ maxb ∧ maxb ≤ 1024), E_LEN, 72), (sized 16 (field bs 76 2), E_LEN, 76),
      (decide (1 ≤ bitsOf (field bs 78 1) 0 7 ∧ bitsOf (field bs 78 1) 0 7 ≤ 64), E_LEN, 78),
      ((s.objOf wl).isSome, E_HANDLE, 64), (decide (off % 64 = 0), E_ALIGN, 68), (decide (fwres ≤ maxb), E_RANGE, 74),
      (s.objFits wl off (64 + 32 * maxb), E_RANGE, 68) ]

/-- LAST_STEP of the sequences of a part of the list set to S (R254). -/
def State.stampItems (s : State) (fw : Bool) (st : Nat) (es : List (Nat × Seq × Nat)) : State :=
  es.foldl (fun s e => s.setSeq fw e.1 { e.2.1 with lastStep := st }) s

/-- The step of a job. -/
def State.stepOf (s : State) (c : Nat) : Step := tget ({} : Step) s.brood.steps c

/-- The state with a colony's step replaced. -/
def State.setStep (s : State) (c : Nat) (x : Step) : State :=
  { s with brood := { s.brood with steps := tset {} s.brood.steps c x } }

/-- The build of a step's work list (R253-R256): the items are written and stamped, and the job becomes ready; an empty
list completes the record at once with DETAIL 0. -/
def State.buildStep (s : State) (k : Nat) : State :=
  let j := s.job k
  let c := j.colony.getD 0
  let bs := s.jobRec j
  let st := (s.stepOf c).s
  let maxb := bitsOf (field bs 72 2) 0 11
  let fwres := bitsOf (field bs 74 2) 0 11
  let tokmax := field bs 76 2
  let chunk := bitsOf (field bs 78 1) 0 7
  let hw := pickItems chunk (maxb - fwres) tokmax (sortSeqs st s.brood.table c)
  let used := (hw.map fun e => e.2.2).sum
  let fw := if fwres = 0 then [] else pickItems chunk fwres (tokmax - used) (sortSeqs st s.brood.fw c)
  let n := hw.length + fw.length
  if n = 0 then (s.setJob k {}).completeRec j.slot j.seq 0
  else
    let tokens := used + (fw.map fun e => e.2.2).sum
    let bytes := headerBytes st n fw.length tokens ++ (hw.flatMap fun e => itemBytes e.2.1 e.2.2 false)
      ++ (fw.flatMap fun e => itemBytes e.2.1 e.2.2 true)
    let wl := (field bs 64 4, field bs 68 4)
    let (s1, stw) := s.objStore (allocWho j.label c) wl.1 wl.2 bytes
    if stw ≠ 0 then s1.faultJob k stw else
    let s2 := (s1.stampItems false st hw).stampItems true st fw
    let x := s2.stepOf c
    let s3 := s2.setStep c { x with s := (st + 1) % 2 ^ 32, job := some k, wl := wl, nfw := fw.length,
                                    items := (hw ++ fw).map fun e => (e.2.1.owner, e.2.2) }
    s3.setJob k { j with phase := .ready, readyAt := s.tclk }

/-! ## Forager records (R121-R123) -/

/-- The class of a task label for the requests of a record (R316). -/
def State.labelClass (s : State) (d : Nat) (r : Rec) : Nat := s.whoClass (s.recWho d r 0)

/-- Check 9 of R115 for FG_COPY and FG_FILL (R122). -/
def State.fgCheck (s : State) (d : Nat) (r : Rec) : Nat × Nat :=
  let b := r.bytes
  let copy := decide (r.op = 0x30)
  let src := field b 16 4
  let dst := field b 20 4
  let so := field b 24 8
  let d0 := field b 32 8
  let size := field b 40 4
  let c := s.recColony d r
  firstField
    [ (decide (size ≠ 0 ∧ size ≤ 268435456), E_LEN, 40),
      (copy || src == 0, E_RESERVED, 16), (copy || so == 0, E_RESERVED, 24),
      (field b 46 2 == 0 || s.labelClass d r == 0, E_RESERVED, 46), (!copy || field b 48 8 == 0, E_RESERVED, 48),
      (!copy || (s.objOf src).isSome, E_HANDLE, 16), ((s.objOf dst).isSome, E_HANDLE, 20),
      (copy || decide (d0 % 8 = 0), E_ALIGN, 32), (copy || decide (size % 8 = 0), E_ALIGN, 40),
      (!copy || s.objFits src so size, E_RANGE, 24), (s.objFits dst d0 size, E_RANGE, 32),
      (!(copy && src == dst && decide (so < d0 + size ∧ d0 < so + size)), E_RANGE, 32),
      (!copy || s.reaches c src, E_PARTITION, 16), (s.reaches c dst, E_PARTITION, 20) ]

/-- The budget of a forager record: 2 µs + 2 × SIZE / 204.8 GB/s (R123), in whole TCLK ticks, rounded up: spec/ does not say how it is
rounded (DESIGN CHOICE; log entry 112). -/
def fgBudget (size : Nat) : Nat := ceilDiv (2000 * 1024 + size * 10) (8 * 1024)

/-- The job that a forager record makes in its ready list (R123). -/
def State.mkForagerJob (s : State) (d : Nat) (r : Rec) : Job :=
  { live := true, slot := d, seq := r.seq, colony := (s.queue d).colony, ncomb := 1, budget := fgBudget (field r.bytes 40 4),
    label := r.label, phase := .ready, readyAt := s.tclk, forager := true }

/-- The destination words that take a byte of a poisoned source word (R123). -/
def State.poisonTargets (s : State) (src dst size : Nat) : List Nat :=
  (s.poison.filter fun w => decide (src / 64 ≤ w ∧ w * 64 < src + size)).flatMap fun w =>
    let lo := max (w * 64) src - src + dst
    let hi := min (w * 64 + 63) (src + size - 1) - src + dst
    (List.range (hi / 64 + 1 - lo / 64)).map (· + lo / 64)

/-- What a forager record moves (R123): the state and the status that faults it. -/
def State.runForager (s : State) (j : Job) : State × Nat :=
  let b := s.jobRec j
  let who : Who := { label := j.label, colony := j.colony.getD ((s.labelColony j.label).getD 0), source := j.combs.headD 0,
                     hint := bitsOf (field b 44 1) 0 2, deadline := field b 46 2 }
  let size := field b 40 4
  let da := s.objAddr (field b 20 4) (field b 32 8)
  if field b 0 1 = 0x31 then
    s.devStore who da ((List.range size).map fun i => BitVec.ofNat 8 (field b 48 8 / 256 ^ (i % 8)))
  else
    let sa := s.objAddr (field b 16 4) (field b 24 8)
    let (s1, st, bs) := s.devLoad who sa size
    if st ≠ 0 ∧ st ≠ E_POISON then (s1, st)
    else
      let (s2, st2) := s1.devStore who da bs
      if st2 ≠ 0 then (s2, st2)
      else ((s1.poisonTargets sa da size).foldl State.poisonWord s2, st)

/-- A forager record ends: its copy or fill, then its completion (R123, R116). -/
def State.endForager (s : State) (k : Nat) : State :=
  let j := s.job k
  if j.budget < j.count then s.budgetFault k
  else
    let b := s.jobRec j
    let (s1, st) := s.runForager j
    if st = 0 then ((j.combs.foldl (fun s g => s.freeComb g 1) s1).setJob k {}).completeRec j.slot j.seq 0
    else if st = E_POISON then s1.faultJob k st
    else (s1.undefine (s1.objAddr (field b 20 4) (field b 32 8)) (field b 40 4)).faultJob k st

end Sys2Proof.Machine
end

