-- ==== Sys2Proof/Machine/Engines.lean ====
section
/-!
DEFINITION. Stopping and resetting engine classes for a function restart (R474, R475) and a FUNC_REINIT (R103), the
choice of reserved combs (R267), and the exclusion of a die pair in service (R14, R43, R269).
-/
namespace Sys2Proof.Machine

/-- Every domain uses the scheduled source of the thermal forecast for the next `n` ticks (R488). -/
def State.useSched (s : State) (n : Nat) : State := { s with thm := { s.thm with schedUntil := max s.thm.schedUntil (s.tclk + n) } }

/-! ## Jobs and queues that a restart or re-initialisation ends -/

/-- The ranges of a job's SAVE entries take undefined content: they were being written when it ended (R116). -/
def State.spoilSaves (s : State) (j : Job) : State :=
  (j.entries.filter LiveEntry.isSave).foldl (fun s e =>
    s.undefineFor { label := j.label, colony := j.colony.getD 0, source := e.comb } (s.objAddr e.obj e.off) e.bytes) s

/-- A job ends with status `st`, wherever it stands: one that runs, switches or waits faults; one whose saves are being
written drops them (R103, R116, R118). -/
def State.dropJob (s : State) (st k : Nat) : State :=
  let j := s.job k
  if j.phase = .saving then
    let s1 := { s with unsaved := s.unsaved.filter fun e => e.2 ≠ k + 1 }
    ((s1.spoilSaves j).setJob k {}).faultRec j.slot j.seq st
  else if j.phase = .releasing then s
  else
    let bs := s.jobRec j
    let s1 := if j.forager ∧ j.phase = .running then
        s.undefine (s.objAddr (field bs 20 4) (field bs 32 8)) (field bs 40 4)
      else s
    s1.faultJob k st

/-- The keys of the live jobs of a doorbell slot. -/
def State.slotJobs (s : State) (d : Nat) : List Nat := tkeys s.jobs fun _ j => j.live && j.slot == d

/-- The records of a queue that wait for a step's update are no longer in its list of deferred records. -/
def State.undefer (s : State) (d : Nat) : State :=
  { s with brood := { s.brood with
      steps := tmap (fun st => { st with deferred := st.deferred.filter fun e => e.1 ≠ d }) s.brood.steps } }

/-- The requester of a FUSE_COLLECT: its writes carry its DEADLINE where its label is of class LC-deadline (R317, R374). -/
def State.collectWho (s : State) (d : Nat) (r : Rec) : Who := { s.recWho d r 0x43 with deadline := field r.bytes 42 2 }

/-- The 16-byte entries of a camera table (R374): camera, DS, object, offset and row stride. -/
def camEntries (t : List Byte) : List (List Byte) := (List.range (t.length / 16)).map fun i => (t.drop (16 * i)).take 16

/-- DS of a table entry, and the bytes of its tensor. -/
def camDs (e : List Byte) : Nat := 2 ^ bitsOf (field e 2 1) 0 2
def camBytes (cal e : List Byte) : Nat :=
  let ho := field cal 6 2 / camDs e
  (8 * ho - 1) * field e 12 4 + 2 * (field cal 4 2 / camDs e)

/-- SENSOR_ID of a calibration, and the slot that holds a sensor's (R360, R363). -/
def calSensor (c : List Byte) : Nat := field c 2 2
def calSlot (t : Table (List Byte)) (sensor : Nat) : Option Nat :=
  (t.find? fun e => calSensor e.2 == sensor).map (·.1)

/-- The outputs that a collector names take undefined content where its record may write: it ends before they are whole (R116). -/
def State.spoilOutputs (s : State) (x : Closed) (d : Nat) (r : Rec) : State :=
  let who := s.collectWho d r
  let b := r.bytes
  let cams := (camEntries r.table).map fun e =>
    (s.objAddr (field e 4 4) (64 * field e 8 4), camBytes ((calSlot x.calibs (field e 0 2)).elim [] fun j => tget [] x.calibs j) e)
  let bev := if field b 24 4 = 0 then [] else [(s.objAddr (field b 24 4) (64 * field b 28 4), 33554432)]
  (cams ++ bev ++ [(s.objAddr (field b 16 4) (64 * field b 20 4), 512)]).foldl (fun (s : State) (e : Nat × Nat) => s.undefineFor who e.1 e.2) s

/-- The trajectory object that a PLAN names takes undefined content (R116). -/
def State.spoilPlan (s : State) (d : Nat) (r : Rec) (o : PlanOut) : State :=
  s.undefineFor (s.recWho d r 0x44) (s.objAddr (field r.bytes 24 4) (64 * field r.bytes 28 4)) (64 + 32 * o.samples.length)

/-- A record of a queue that has not ended. -/
def State.openRec (s : State) (d seq : Nat) : Option Rec := (s.queue d).recs.find? fun r => r.seq == seq && !r.isEnded

/-- What the fusion engine and the planner are writing for a queue whose records end takes undefined content (R116). -/
def State.spoilPending (s : State) (d : Nat) : State :=
  let s1 := match s.pln.run with
    | some p => match p.out, s.openRec d p.seq with
      | some o, some r => if p.slot = d then s.spoilPlan d r o else s
      | _, _ => s
    | none => s
  match s1.fus.closed with
  | some x => (x.collectors.filter (·.1 == d)).foldl (fun s e => match s.openRec d e.2 with
    | some r => s.spoilOutputs x d r
    | none => s) s1
  | none => s1

/-- The work of a queue leaves the engines that hold it (R118, R474): fusion, planner and swarm. -/
def State.releaseEngines (s : State) (d : Nat) : State :=
  let s1 := { s with swm := { s.swm with outs := s.swm.outs.filter fun o => o.slot ≠ d } }
  let s2 := match s1.pln.run with
    | some r => if r.slot = d then ({ s1 with pln := { s1.pln with run := none } }.wr PLN_STATUS_SEARCH 0).wr PLN_STATUS_PINNED 0 else s1
    | none => s1
  match s2.pln.load with
  | some r => if r.slot = d then { s2 with pln := { s2.pln with load := none } }.wr PLN_STATUS_LOADING 0 else s2
  | none => s2

/-- A CV_RUN in progress on a queue loses its unit's running value (R427). -/
def State.loseRun (s : State) (d : Nat) : State :=
  match s.cvUnitOf d with
  | some u => if (s.queue d).recs.any fun r => r.op == 0x71 && decide (r.phase = .running) then s.cvLose u else s
  | none => s

/-- A queue enters RESET for a device-led restart (R118): every record in progress ends with E_RESTART; one that has not started
stays where its list goes on. -/
def State.restartQueue (s : State) (d : Nat) : State :=
  let s1 := ((((s.spoilPending d).loseRun d).wr (HIF_QSTAT_STATE.idx d) qReset).undefer d).releaseEngines d
  let live (s : State) : List Rec := (s.queue d).recs.filter fun r => !r.isEnded && !s.notStarted d r
  let mine := (live s1).map fun r => jobKey d r.seq
  let s2 := ((s1.slotJobs d).filter mine.contains).foldl (fun s k => s.dropJob E_RESTART k) s1
  ((live s2).map (·.seq)).foldl (fun s q => s.faultRec d q E_RESTART) s2

/-- A queue leaves RESET at the end of a restart (R118). -/
def State.rearmQueue (s : State) (d : Nat) : State :=
  if s.rd (HIF_QSTAT_STATE.idx d) = qReset then
    s.wr (HIF_QSTAT_STATE.idx d) (if (s.queue d).lists = [] then qIdle else qRunning)
  else s

/-- The live queues of a class; for tensor and a list of colonies, those bound to one of them (R473). -/
def State.classQueues (s : State) (cls : Nat) (cols : List Nat) : List Nat :=
  tkeys s.queues fun _ q => q.live && q.cls == cls && (cls ≠ 0 || (match q.colony with
    | some c => cols.contains c
    | none => false))

/-- A queue emptied for FUNC_REINIT (R103, R118): its lists complete with E_ABORT, its jobs end. -/
def State.reinitQueue (s : State) (d : Nat) : State :=
  let s1 := (((s.spoilPending d).abortQueue d).undefer d).releaseEngines d
  (s1.slotJobs d).foldl (fun s k => s.dropJob E_ABORT k) s1

/-! ## The reset of each class (R475, R103) -/

/-- The combs of a colony's jobs that a reset releases. -/
def State.resetJobs (s : State) (cls : Nat) (cols : List Nat) : List Nat :=
  tkeys s.jobs fun _ j => j.live && decide (j.phase = .releasing) && j.forager == decide (cls = 1)
    && (cls == 1 || cols.contains (j.colony.getD 16))

/-- Tensor (R475): the combs' slots reset and scratchpads cleared; the pages were closed when the jobs stopped. -/
def State.resetTensor (s : State) (cols : List Nat) : State :=
  let ks := s.resetJobs 0 cols
  let gs := ks.flatMap fun k => (s.job k).combs
  let held := (List.range 64).filter fun g => match s.lcHolder g with
    | some c => cols.contains c && (s.comb g).job.isNone
    | none => false
  let s1 := ks.foldl State.releaseJob s
  (gs ++ held).foldl (fun s g => s.modComb g Comb.clearSpad) s1

/-- A calibration as its object holds it now; the one held where the object no longer reads (R475). -/
def State.reloadCalib (s : State) (slot : Nat) : State :=
  match (s.fus.calibRef.find? fun e => e.1 == slot) with
  | none => s
  | some (_, i, off) =>
    match s.obj i with
    | none => s
    | some o =>
      let old := tget ([] : List Byte) s.fus.calibs slot
      let (s1, st, bs) := s.devLoad firmwareWho (o.addr + off) old.length
      if st = 0 then { s1 with fus := { s1.fus with calibs := tset [] s1.fus.calibs slot bs } } else s1

/-- Fusion (R475): engine reset, calibrations reloaded; the instant in processing stays uncollected and the next
registration sets EGO_INIT. -/
def State.resetFusion (s : State) : State :=
  let s1 := (List.range 32).foldl State.reloadCalib s
  let lost := match s1.fus.closed with
    | some c => decide (c.collectors ≠ [])
    | none => false
  let s2 := if lost then s1.inc FUS_UNCOLLECTED_COUNT else s1
  { s2 with fus := { s2.fus with closed := none, motion := {}, freshMotion := true } }

/-- FP32 word at an offset. -/
def wordAt (bs : List Byte) (off : Nat) : Word := BitVec.ofNat 32 (field bs off 4)

/-- The fields of a planner library's header (R390). -/
def libNPrim (l : List Byte) : Nat := field l 8 2
def libNRun (l : List Byte) : Nat := field l 12 4
def libBytes (l : List Byte) : Nat := 512 + 32 * libNPrim l + 4 * libNRun l

/-- The header's layout (R390). -/
def libLayout : Layout :=
  [(0, 0, 4), (4, 0, 32), (8, 0, 16), (12, 0, 32), (16, 0, 192), (40, 0, 128), (56, 0, 64), (64, 0, 8), (65, 0, 8),
   (128, 0, 1024), (256, 0, 1024)]

/-- FP32 value above 0. -/
def fpos (w : Word) : Bool := ffinite w && flt 0 w

/-- Whether a header passes the checks of its table (R390). -/
def libHeaderOk (h : List Byte) : Bool :=
  reservedOk libLayout h && bitsOf (field h 0 4) 0 4 == 3 && decide (1 ≤ libNPrim h ∧ libNPrim h ≤ 4096)
    && decide (libBytes h ≤ 16777216) && (List.range 6).all (fun i => fpos (wordAt h (16 + 4 * i)))
    && fle (wordAt h 32) (wordAt h 28) && decide (3 ≤ field h 64 1 ∧ field h 64 1 ≤ 16) && decide (field h 65 1 ≤ 16)

/-- The library reloaded from the last object that loaded successfully, under the checks of a load: one that fails them leaves the library
in place (R389). -/
def State.reloadLib (s : State) (i off : Nat) : State :=
  match s.obj i with
  | none => s
  | some o =>
    if o.size < off + 512 then s
    else
      let (s1, st, hd) := s.devLoad firmwareWho (o.addr + off) 512
      if st ≠ 0 ∨ libHeaderOk hd = false ∨ o.size < off + libBytes hd then s1
      else
        let (s2, st, bs) := s1.devLoad firmwareWho (o.addr + off + 512) (libBytes hd - 512)
        if st ≠ 0 then s2 else { s2 with pln := { s2.pln with lib := hd ++ bs } }.wr PLN_LIB_LIB_ID (field hd 4 4)

/-- Planner (R389, R475): state table cleared, library reloaded, no bank current; the trajectories stay. -/
def State.resetPlanner (s : State) : State :=
  let s1 := match s.pln.libRef with
    | none => s
    | some (i, off) => s.reloadLib i off
  let s2 := { s1 with pln := { s1.pln with run := none, load := none, work := {} } }
  (((s2.wr PLN_STATUS_CUR 3).wr PLN_STATUS_PINNED 0).wr PLN_STATUS_SEARCH 0).wr PLN_STATUS_LOADING 0

/-- Check-value (R426): the units keep their parameters, and their running values are INIT. -/
def State.resetCv (s : State) : State :=
  (List.range 4).foldl (fun s u =>
    match (tget ({} : CvUnit) s.cv.units u).params with
    | some p => (s.wr (CRC_UNIT_VAL_CRC.idx u) (field p 16 8)).wr (CRC_UNIT_VALID_UNITS.bit u) 1
    | none => s) s

/-- The engines of a class reset and reloaded from their configuration (R103, R475). -/
def State.resetClass (s : State) (cls : Nat) (cols : List Nat) : State :=
  if cls = 0 then s.resetTensor cols
  else if cls = 1 then (s.resetJobs 1 []).foldl State.releaseJob s
  else if cls = 2 then s.resetFusion
  else if cls = 3 then s.resetPlanner
  else if cls = 4 then s.resetControl
  else s.resetCv

/-! ## Reserved combs (R267, R269) -/

/-- Whether a BE job halted under DEBUG holds a comb (R267). -/
def State.debugHeld (s : State) (g : Nat) : Bool :=
  match (s.comb g).job with
  | some k => s.jobHalted (s.job k)
  | none => false

/-- Whether list `a` comes before list `b` in index order. -/
def listLt : List Nat → List Nat → Bool
  | [], _ => false
  | _, [] => false
  | a :: as, b :: bs => decide (a < b) || (a == b && listLt as bs)

/-- The choice of `n` pool combs on a set of dies: those not held by a halted job first, then the lowest indices; none
where the set has too few. -/
def State.combsOn (s : State) (ds : List Nat) (n : Nat) : Option (List Nat) :=
  let c := s.pool.filter fun g => ds.contains (g / 16)
  let o := c.filter (fun g => !(s.debugHeld g)) ++ c.filter s.debugHeld
  if o.length < n then none else some (o.take n)

/-- The better of two choices for a colony that holds `held`: fewer dies, fewer combs held by halted jobs, lower indices
(R267). -/
def State.betterCombs (s : State) (held a b : List Nat) : Bool :=
  let da := (diesOf (held ++ a)).length
  let db := (diesOf (held ++ b)).length
  let ha := (a.filter s.debugHeld).length
  let hb := (b.filter s.debugHeld).length
  if da ≠ db then decide (da < db) else if ha ≠ hb then decide (ha < hb) else listLt a b

/-- The combs that the firmware chooses for a colony that holds `held` and needs `n` more, on no die of `avoid`
(R267). -/
def State.pickCombs (s : State) (held : List Nat) (n : Nat) (avoid : List Nat) : Option (List Nat) :=
  let sets := (List.range 16).map fun m => (List.range 4).filter fun d => bitsOf m d 1 == 1 && !(avoid.contains d)
  (sets.filterMap fun ds => s.combsOn ds n).foldl (fun best x => match best with
    | none => some x
    | some b => if s.betterCombs held x b then some x else some b) none

/-- Combs reserved for a colony: free ones join at once, one that a job holds joins when the job releases it (R267). -/
def State.reserveCombs (s : State) (c : Nat) (gs : List Nat) : State :=
  let x := s.colony c
  let s1 := s.setColony c { x with reserved := x.reserved ++ gs, joining := x.joining ++ gs }
  gs.foldl (fun s g =>
    let s' := s.demandDie g
    if s'.combFree g then s'.joinReservation c g else s') s1

/-- The sum of LC reservations and BE guarantees (R264). -/
def State.combsPromised (s : State) : Nat :=
  ((List.range 16).map fun c => if (s.colony c).live then
    (if (s.colony c).lc then (s.colony c).reserved.length else (s.colony c).guarantee) else 0).sum

/-! ## Exclusion in service (R14, R43, R269) -/

/-- LC colonies take replacements for the combs they lost, in increasing index; where the pool is short they take what
it has (R269). -/
def State.replaceCombs (s : State) : State :=
  (List.range 16).foldl (fun s c =>
    let x := s.colony c
    if !x.live || !x.lc then s
    else
      let keep := x.reserved.filter s.combIncluded
      let s1 := s.setColony c { x with reserved := keep, joining := x.joining.filter s.combIncluded }
      let want := min (x.ncomb - keep.length)
        (s1.pool.filter fun g => !((s1.avoidDies c).contains (g / 16))).length
      match s1.pickCombs keep want (s1.avoidDies c) with
      | some gs => s1.reserveCombs c gs
      | none => s1) s

/-- BE guarantees lowered, in decreasing colony index, until R264 holds (R269). -/
def State.lowerGuarantees (s : State) : State :=
  (List.range 16).foldl (fun s i =>
    let c := 15 - i
    let x := s.colony c
    if x.live ∧ x.lc = false then
      s.setColony c { x with guarantee := x.guarantee - min x.guarantee (s.combsPromised - s.combCount) }
    else s) s

/-- Every request at the controller of a pair, or waiting before its queues, completes with an error (R43). -/
def State.failDramDie (s : State) (d : Nat) : State :=
  let m := s.dmc d
  let here (x : NetMsg) : Bool := decide (24 + 32 * d ≤ x.place ∧ x.place < 56 + 32 * d)
  let rs := (m.chans.flatMap fun c => c.2.reads ++ c.2.writes) ++ (s.mem.waiting.filter here).map (·.req)
  { s with mem := { s.mem with
      dmc := tset {} s.mem.dmc d { m with chans := tmap (fun c => { c with reads := [], writes := [] }) m.chans },
      waiting := s.mem.waiting.filter fun x => !here x,
      resps := s.mem.resps ++ rs.map fun q => { source := q.req.source, addr := q.req.addr, status := E_LINK, data := [] } } }

/-- The colonies that held combs on a die: reserved, or running a job there (R473). -/
def State.dieColonies (s : State) (d : Nat) : List Nat :=
  (List.range 16).filter fun c => (s.colony c).live && ((s.colony c).reserved.any (fun g => g / 16 == d)
    || (List.range 16).any fun i => match (s.comb (16 * d + i)).job with
        | some k => (s.job k).colony == some c
        | none => false)

/-- The forager records that run on the combs of a die end with E_RESTART (R269). -/
def State.dropDieForagers (s : State) (d : Nat) : State :=
  (tkeys s.jobs fun _ j => j.live && j.forager && j.combs.any fun g => g / 16 == d).foldl
    (fun s k => (s.dropJob E_RESTART k).releaseJob k) s

/-- MIXED_REV: whether the included Rurad dies differ in revision (R22). -/
def State.showMixed (s : State) : State :=
  let revs := ((List.range 4).filter fun n => s.on (IDN_PKG_INCLUDED.bit n)).map fun n => s.rd (IDN_DIE_REV.idx n)
  s.wrB IDN_PKG_MIXED_REV (revs.any fun r => r != revs.headD r)

/-- A compute die and its memory die are marked excluded (R14, R22, R43, R488).  BASELINE and BASELINE_ANY stay as they were
(DESIGN CHOICE; log entry 125). -/
def State.markExcluded (s : State) (d : Nat) : State :=
  ((((((s.wr (DMC_STATUS_EXCLUDED.idx d) 1).wr (IDN_DIE_EXCLUDED.idx d) 1).wr (IDN_DIE_EXCLUDED.idx (4 + d)) 1).wr
    (IDN_PKG_INCLUDED.bit d) 0).wr IDN_PKG_REDUCED 1).showMixed.failDramDie d).useSched 12500000

end Sys2Proof.Machine
end

