-- ==== Sys2Proof/Machine/Monitor.lean ====
section
/-!
DEFINITION. What the safety islands do: configuration records and their votes (R452-R454, R457-R458), the controlled stop
(R477, R478), function restarts (R473-R476), degradation (R469), guards (R460, R461), deadlines (R463, R464), checkers
(R466-R469) and golden frames (R470-R472), and how they act on the ends of lists.
-/
namespace Sys2Proof.Machine

/-! ## Configuration records (R457, R458) -/

/-- Whether island A's pair runs, so that it judges and acts (R435). -/
def State.islandARuns (s : State) : Bool := s.on SAF_ISL_STATUS_A_RUN && !(s.on SAF_ISL_STATUS_A_HALTED)

/-- Whether an island's pair runs: island A's shows in A_RUN, which a debug halt clears (R451, R456). -/
def State.pairRuns (s : State) (atA : Bool) : Bool :=
  if atA then s.islandARuns else s.pkg.sfdPowered && !s.saf.islB.halted && !s.saf.islB.debugHalted

/-- Whether an island's pair is compared: it runs, or a debugger holds it (R451). -/
def State.pairOn (s : State) (atA : Bool) : Bool :=
  if atA then (s.on SAF_ISL_STATUS_A_RUN || s.saf.islA.debugHalted) && !s.on SAF_ISL_STATUS_A_HALTED
  else s.pkg.sfdPowered && !s.saf.islB.halted

/-- The key of a record: island 0 A or 1 B, and index. -/
def cfgKey (island index : Nat) : Nat := island * 128 + index

/-- A record as loaded at its last passed vote; all zeros where none was (R454). -/
def State.cfgRec (s : State) (island index : Nat) : List Byte := tget [] s.saf.inForce (cfgKey island index)

/-- ENABLE and CLASS of a record (R458). -/
def cfgOn (bs : List Byte) : Bool := bitsOf (field bs 2 1) 0 1 == 1
def cfgClass (bs : List Byte) : Nat := field bs 1 1

/-- Bit 0 of byte 16: RESTART of a guard or deadline (R460, R463). -/
def cfgRestart (bs : List Byte) : Bool := bitsOf (field bs 16 1) 0 1 == 1

/-- The slot of the queue that a queue handle names (R90; INDEX is the doorbell slot, log entry 51). -/
def State.queueOf (s : State) (h : Nat) : Option Nat :=
  match s.handleIdx 3 h with
  | some d => if (s.queue d).live then some d else none
  | none => none

/-- A mask from three flags. -/
def mask3 (l : List Bool) : Nat := (l.zipIdx.map fun e => if e.1 then 2 ^ e.2 else 0).sum

/-- The majority of three copies: the bytes of a pair of intact copies that agree (R453). -/
def majority : List RecCopy → Option (List Byte)
  | [] => none
  | c :: cs => if c.intact && cs.any (fun x => x.intact && x.bytes == c.bytes) then some c.bytes else majority cs

/-- The DETAIL of a vote event (R453). -/
def voteDetail (island index intact over3 : Nat) : List Byte :=
  [BitVec.ofNat 8 island] ++ leBytes 2 index ++ [BitVec.ofNat 8 intact, BitVec.ofNat 8 over3]

/-- The engine-class handle of the function that a record belongs to, 0 for an island record (R453): the class of the
record in force, or of its first copy where none is. -/
def State.cfgOwner (s : State) (island index : Nat) : Nat :=
  let now := s.cfgRec island index
  let c := if now = [] then cfgClass (((tget [] s.saf.copies (cfgKey island index)).head?.map (·.bytes)).getD [])
    else cfgClass now
  if index < 96 ∧ c ≤ 5 then s.handle 4 c else 0

/-- Whether the three copies of a record are being written (R452). -/
def State.beingWritten (s : State) (island index : Nat) : Bool :=
  s.saf.write.any fun w => w.island == island && w.index == index

/-- A vote of one record (R453): the state and the record used; none when it is refused.  A record never written has
three equal copies of zeros; one that is being written is not voted until then, and leaves three equal copies (R452). -/
def State.voteRecord (s : State) (island index : Nat) : State × Option (List Byte) :=
  let cs := tget [] s.saf.copies (cfgKey island index)
  if cs = [] then (s, some [])
  else if s.beingWritten island index then (s, some (s.cfgRec island index))
  else
    let intact := mask3 (cs.map (·.intact))
    match majority cs with
    | some b =>
      let bad := mask3 (cs.map fun c => !c.intact || c.bytes != b)
      if bad = 0 then (s, some b)
      else
        let s1 := { s with saf := { s.saf with
            copies := tset [] s.saf.copies (cfgKey island index) (List.replicate 3 { bytes := b, intact := true }) } }
        ((s1.inc SAF_CFG_MAJORITY).event 0x55 (0x14 + island) (s.cfgOwner island index) 0
          (voteDetail island index intact bad), some b)
    | none =>
      ((s.inc SAF_CFG_FAIL).event 0x56 (0x14 + island) (s.cfgOwner island index) E_CFGVOTE
        (voteDetail island index intact 0), none)

/-- A record loaded: in force from now (R454, R459). -/
def State.loadRecord (s : State) (island index : Nat) (bs : List Byte) : State :=
  { s with saf := { s.saf with inForce := tset [] s.saf.inForce (cfgKey island index) bs } }

/-! ## The controlled stop (R477, R478) -/

/-- The frame of a stop-frame record (R477). -/
def stopFrame (bs : List Byte) : CanFrame :=
  { id := bitsOf (field bs 8 4) 0 29, ide := bitsOf (field bs 7 1) 1 1 == 1, fdf := bitsOf (field bs 6 1) 7 1 == 1,
    brs := bitsOf (field bs 7 1) 0 1 == 1, data := (bs.drop 16).take (bitsOf (field bs 6 1) 0 7) }

/-- An enabled stop frame sent: island A's through transmit buffer 16 + (index - 96) of its port (log entry 52), island
B's on SFD_CAN, which carries CAN FD only where its firmware runs it so (R336; log entry 142). -/
def State.sendStop (s : State) (island index : Nat) : State :=
  let bs := s.cfgRec island index
  if cfgOn bs then
    let s1 := { s with saf := { s.saf with frameAt := tset none s.saf.frameAt (cfgKey island index) (some s.tclk) } }
    if island = 0 then s1.putCan (field bs 4 2 % 256) (16 + (index - 96)) (stopFrame bs)
    else if (stopFrame bs).fdf = true ∧ s.pkg.sfdImage.sfdCanFd = false then s
    else { s1 with saf := { s1.saf with sfdCan := s1.saf.sfdCan ++ [stopFrame bs] } }
  else s

/-- The stop frames of an island sent at once. -/
def State.sendStops (s : State) (island : Nat) : State :=
  [96, 97, 98, 99].foldl (fun s i => s.sendStop island i) s

/-- Island A commands the controlled stop for a cause of R478; while it holds one, a further cause has no effect. -/
def State.stopA (s : State) (cause : Nat) : State :=
  if s.on SAF_ISL_STATUS_STOP_A then s
  else
    let s1 := (s.wr SAF_ISL_STATUS_STOP_A 1).sendStops 0
    let s2 := { s1 with saf := { s1.saf with islA := { s1.saf.islA with stopCause := cause } } }
    (s2.safeAll 6).event 0x52 0x14 0 0 [BitVec.ofNat 8 cause]

/-- Island B changed. -/
def State.modIslB (s : State) (f : Island → Island) : State := { s with saf := { s.saf with islB := f s.saf.islB } }

/-- Island A changed. -/
def State.modIslA (s : State) (f : Island → Island) : State := { s with saf := { s.saf with islA := f s.saf.islA } }

/-- Island B commands the controlled stop on SFD_CAN; it takes power to do so, and it is reported while island B is
joined (R455). -/
def State.stopB (s : State) (cause : Nat) : State :=
  if s.saf.islB.stop ∨ s.pkg.sfdPowered = false then s
  else
    let s1 := (s.sendStops 1).modIslB fun b => { b with stop := true, stopCause := cause }
    if s1.on SAF_ISL_STATUS_B_JOINED then
      (s1.wr SAF_ISL_STATUS_STOP_B 1).event 0x52 0x15 1 0 [BitVec.ofNat 8 cause]
    else s1

/-- Both islands stop. -/
def State.stopBoth (s : State) (cause : Nat) : State := (s.stopA cause).stopB cause

/-- Whether a class is stop-relevant in an island's record 100 (R477). -/
def State.stopRelevant (s : State) (island cls : Nat) : Bool :=
  let bs := s.cfgRec island 100
  cfgOn bs && bitsOf (field bs 4 1) cls 1 == 1

/-- STOP_LAPSE of an island's record 100. -/
def State.stopLapse (s : State) (island : Nat) : Bool :=
  let bs := s.cfgRec island 100
  cfgOn bs && bitsOf (field bs 5 1) 0 1 == 1

/-- A stop-relevant class is degraded or refused: each island judges by its own record, island B by the report that reaches it
(R435, R478). -/
def State.stopForClass (s : State) (cls : Nat) : State :=
  let s1 := if s.stopRelevant 0 cls then s.stopA 7 else s
  if s1.stopRelevant 1 cls ∧ s1.bHears then s1.stopB 7 else s1

/-- Island B's operating time since its last passed test, as last reported, kept in its register (R455). -/
def State.holdAge (s : State) : State :=
  if s.on SAF_ISL_STATUS_B_JOINED ∧ s.pkg.sfdPowered then
    s.wr (SAF_CMP_AGE_SECONDS.idx 1) (min (s.saf.islB.ageTicks / 125000000) (2 ^ 32 - 1))
  else s

/-- Island B is lost (R438): the stop, of both islands (R478), loops safe, ISLAND_B cleared, no job starts, and island A tries to join
again. -/
def State.loseIslandB (s : State) (cause : Nat) : State :=
  let s1 := (((s.holdAge).safeAll 5).stopA cause).stopB cause
  let s2 := ((((s1.dropWindow 5).wr IDN_BOOT_ISLAND_B 0).wr SAF_ISL_STATUS_B_JOINED 0).wr (IDN_PKG_INCLUDED.bit 5) 0).wr
    PWR_STATUS_PLL_LOCK_SFD 0
  { s2 with saf := { s2.saf with restartCopies := [], join := { s2.saf.join with
      jobsHeld := true, trying := true, service := true, confirmSent := false, firstAt := none, lastAt := s.tclk } } }

/-- The reaction of island A's fault collector (R442): pair halted, loops safe, the stop, the message to island B, which
treats island A as lost, and no job starts. -/
def State.reactA (s : State) : State :=
  let s1 := (s.wr SAF_ISL_STATUS_A_RUN 0).wr SAF_ISL_STATUS_A_HALTED 1
  let s2 := (s1.safeAll 5).stopA 1
  let s2 := if s2.bHears then s2.stopB 1 else s2
  { s2 with saf := { s2.saf with join := { s2.saf.join with jobsHeld := true } } }

/-- The reaction of island B's fault collector (R442, R438): pair halted, the stop on SFD_CAN, and island A treats
island B as lost. -/
def State.reactB (s : State) : State :=
  let s1 := (s.stopB 2).modIslB fun b => { b with halted := true }
  if s1.on SAF_ISL_STATUS_B_JOINED ∧ s1.link8 then
    let s2 := s1.wr SAF_ISL_STATUS_B_HALTED 1
    if s2.islandARuns then s2.loseIslandB 2 else s2
  else s1

/-- The record of an island's fault collector in SAF_FAULT and SAF_FAULT_SYN, which keep the first fault (R442). -/
def State.showFault (s : State) (island : Nat) (f : Nat × Nat × Nat) : State :=
  if s.on SAF_FAULT_VALID then s
  else
    ((((s.wr SAF_FAULT_GROUP f.2.1).wr SAF_FAULT_ISLAND island).wr SAF_FAULT_CAUSE f.1).wr SAF_FAULT_VALID 1).wr
      SAF_FAULT_SYN_SYNDROME f.2.2

/-- The first fault of an island recorded in its collector, and shown: island B's as far as link 8 brings it (R442, R455). -/
def State.recordFault (s : State) (atA : Bool) (cause group syndrome : Nat) : State :=
  let f := (cause, group, syndrome)
  if atA then
    if s.saf.islA.fault.isSome then s else (s.modIslA fun i => { i with fault := some f }).showFault 0 f
  else if s.saf.islB.fault.isSome then s
  else
    let s1 := s.modIslB fun i => { i with fault := some f }
    if s1.on SAF_ISL_STATUS_B_JOINED ∧ s1.link8 then s1.showFault 1 f else s1

/-- A refused island record (R454): the reaction of R442 for island A; island B stops and leaves the join, its pair
running. -/
def State.refuseIsland (s : State) (island : Nat) : State :=
  if island = 0 then s.reactA
  else
    let s1 := s.stopB 10
    if s1.on SAF_ISL_STATUS_B_JOINED then s1.loseIslandB 2 else s1

/-! ## Votes of a class and of everything (R454) -/

/-- The record indices of island A that belong to a class. -/
def State.classRecords (s : State) (cls : Nat) : List Nat :=
  (List.range 96).filter fun i => tget [] s.saf.copies (cfgKey 0 i) ≠ [] ∧ s.cfgOwner 0 i = s.handle 4 cls

/-- The vote of every record of a class: those that pass are loaded; whether none was refused. -/
def State.voteClass (s : State) (cls : Nat) : State × Bool :=
  (s.classRecords cls).foldl (fun (acc : State × Bool) i =>
    match acc.1.voteRecord 0 i with
    | (s', some b) => (s'.loadRecord 0 i b, acc.2)
    | (s', none) => (s', false)) (s, true)

/-- A class refused by a vote: it stays stopped, and its records fail check 10 with E_CFGVOTE (R454, R478). -/
def State.refuseClass (s : State) (cls : Nat) : State := (s.wr (GRD_STATUS_REFUSED.bit cls) 1).stopForClass cls

/-- The vote of an island's own records 96-100 (R454): whether none was refused. -/
def State.voteIsland (s : State) (island : Nat) : State × Bool :=
  [96, 97, 98, 99, 100].foldl (fun (acc : State × Bool) i =>
    match acc.1.voteRecord island i with
    | (s', some _) => (s', acc.2)
    | (s', none) => (s', false)) (s, true)

/-- The vote of every record of the islands named: a running function keeps the values it has loaded; whether each island's own
records pass (R454). -/
def State.voteAll (s : State) (islA islB : Bool) : State × Bool × Bool :=
  let s1 := if islA then (List.range 96).foldl (fun s i => (s.voteRecord 0 i).1) s else s
  let (s2, okA) := if islA then s1.voteIsland 0 else (s1, true)
  let (s3, okB) := if islB then s2.voteIsland 1 else (s2, true)
  (s3, okA, okB)

/-- The reactions to refused island records (R454). -/
def State.refuseIslands (s : State) (okA okB : Bool) : State :=
  let s1 := if okA then s else s.refuseIsland 0
  if okB then s1 else s1.refuseIsland 1

/-! ## Function restarts (R473-R476) -/

/-- A guard. -/
def State.guardOf (s : State) (g : Nat) : Guard := tget ({} : Guard) s.saf.guards g

/-- The state with a guard replaced. -/
def State.setGuard (s : State) (g : Nat) (x : Guard) : State :=
  { s with saf := { s.saf with guards := tset {} s.saf.guards g x } }

/-- Whether the restart of a class under way covers a queue. -/
def Restart.covers (r : Restart) (q : Queue) : Bool :=
  r.cls == q.cls && (r.cls != 0 || (match q.colony with
    | some c => r.colonies.contains c
    | none => false))

/-- Whether a queue's function is between steps 1 and 6 of a restart. -/
def State.restarting (s : State) (q : Queue) : Bool := s.saf.restarts.any fun r => r.covers q

/-- Whether a restart is one of the function that a guard's record belongs to: its CLASS, and for tensor the colony of its QUEUE
(R458, R461, R473). -/
def Restart.ofGuard (r : Restart) (cls : Nat) (q : Queue) : Bool :=
  r.cls == cls && (cls != 0 || (match q.colony with
    | some c => r.colonies.contains c
    | none => false))

/-- The guards of the restarted function disarm (R461, R474). -/
def State.disarmClass (s : State) (r : Restart) : State :=
  (List.range 64).foldl (fun s g =>
    let bs := s.cfgRec 0 g
    match s.queueOf (field bs 4 4) with
    | some d => if r.ofGuard (cfgClass bs) (s.queue d) then s.setGuard g { s.guardOf g with armed := false } else s
    | none => s) s

/-- What is left to restart: for tensor the colonies that no restart covers yet, for another class nothing while one
is under way (R476). -/
def State.newRestart (s : State) (cls : Nat) (cols : List Nat) : Option (List Nat) :=
  let rs := s.saf.restarts.filter fun r => r.cls == cls
  if cls = 0 then
    let left := (cols.filter fun c => !(rs.any fun r => r.colonies.contains c)).eraseDups
    if left = [] then none else some left
  else if rs = [] then some [] else none

/-- A restart commanded (R474 step 1 to 3): the function's queues enter RESET and their records end with E_RESTART, its
guards disarm; island B gets its copy of the report.  Nothing when one is under way (R476). -/
def State.startRestart (s : State) (cls : Nat) (cols : List Nat) (kind index : Nat) : State :=
  match s.newRestart cls cols with
  | none => s
  | some left =>
    let r : Restart := { cls := cls, colonies := left, kind := kind, index := index, t0 := s.tclk }
    let s1 := ((s.wr GRD_STATUS_RESTARTING 1).inc GRD_RESTARTS_COUNT)
    let s2 := { s1 with saf := { s1.saf with restarts := s1.saf.restarts ++ [r],
                                             restartCopies := s1.saf.restartCopies ++ if s1.bHears then [r] else [] } }
    (s.classQueues cls left).foldl State.restartQueue (s2.disarmClass r)

/-- Whether a finding's restart runs: ACTION 2 where it does, 0 where one is under way already (R476, R479). -/
def State.restartAction (s : State) (cls : Nat) (cols : List Nat) : Nat := if (s.newRestart cls cols).isSome then 2 else 0

/-- Whether the record write waits for the end of a restart of its function (R459). -/
def heldFor (cls : Nat) (w : CfgWrite) : Bool := decide (w.island = 0 ∧ w.index < 96) && cfgClass w.bytes == cls

/-- Whether a record of a class is being written, so that a vote of the class waits (R452). -/
def State.voteWaits (s : State) (cls : Nat) : Bool :=
  s.saf.write.any fun w => heldFor cls w || (w.island == 0 && (s.classRecords cls).contains w.index)

/-- What a record watches starts afresh when it is written (R461, R464, R467, R471). -/
def State.freshRecord (s : State) (island index : Nat) : State :=
  if island ≠ 0 then s
  else if index < 64 then s.setGuard index {}
  else if index < 80 then { s with saf := { s.saf with deadlines := tset [] s.saf.deadlines (index - 64) [] } }
  else if index < 88 then { s with saf := { s.saf with checkers := tset {} s.saf.checkers (index - 80) {} } }
  else if index < 96 then { s with saf := { s.saf with golden := tset {} s.saf.golden (index - 88) {} } }
  else s

/-- A record written: three equal copies, in force (R452, R459). -/
def State.applyRecord (s : State) (w : CfgWrite) : State :=
  let cs : List RecCopy := List.replicate 3 { bytes := w.bytes, intact := true }
  let s1 := { s with saf := { s.saf with copies := tset [] s.saf.copies (cfgKey w.island w.index) cs } }
  (s1.loadRecord w.island w.index w.bytes).freshRecord w.island w.index

/-- FUNC_RESTART (R481): the class handle, or the first colony restarted; the time from t0 in ns. -/
def State.restartEvent (s : State) (r : Restart) : State :=
  let obj := if r.cls = 0 then s.handle 2 (r.colonies.headD 0) else s.handle 4 r.cls
  s.event 0x50 0x14 obj 0 ([BitVec.ofNat 8 r.kind] ++ leBytes 2 r.index ++ leBytes 4 (8 * (s.tclk - r.t0)))

/-- Steps 4 to 6 of a restart (R474-R476): reset and reload, the vote, the held record writes, queues out of RESET, and
FUNC_RESTART; a refused function stays stopped.  A controlled stop or Low power makes a control restart send SAFE in place of resuming
(R476, R60); of the check-value units only a FUNC_REINIT sets the running values (R426). -/
def State.endRestart (s : State) (r : Restart) : State :=
  let s1 := if r.cls = 5 then s else s.resetClass r.cls r.colonies
  let (s2, ok) := s1.voteClass r.cls
  let held := s2.saf.held.filter (heldFor r.cls)
  let s3 := held.foldl State.applyRecord
    { s2 with saf := { s2.saf with held := s2.saf.held.filter fun w => !(heldFor r.cls w) } }
  let rest := s3.saf.restarts.filter (· ≠ r)
  let s4 := ({ s3 with saf := { s3.saf with restarts := rest } }.wrB GRD_STATUS_RESTARTING (decide (rest ≠ []))).useSched 1250000
  let s5 := (s4.classQueues r.cls r.colonies).foldl State.rearmQueue s4
  let s6 := if r.cls ≠ 4 then s5
    else if s5.on SAF_ISL_STATUS_STOP_A || s5.on SAF_ISL_STATUS_STOP_B then s5.safeAll 6
    else if s5.on PWR_STATUS_LOW_POWER then s5.safeAll 3 else s5
  if ok then
    { s6 with saf := { s6.saf with
        restartCopies := s6.saf.restartCopies.filter fun x => !(s6.bHears && x == r) } }.restartEvent r
  else s6.refuseClass r.cls

/-- A class declared degraded: FUNC_DEGRADED, and the stop where it is stop-relevant (R469, R472, R478, R481). -/
def State.degradeClass (s : State) (cls kind index : Nat) : State :=
  ((s.wr (GRD_STATUS_DEGRADED.bit cls) 1).event 0x51 0x14 (s.handle 4 cls) 0
    ([BitVec.ofNat 8 kind] ++ leBytes 2 index)).stopForClass cls

/-- The colony that a queue is bound to, as a list. -/
def Queue.colonies (q : Queue) : List Nat := q.colony.elim [] ([·])

/-- A die pair excluded in service (R14, R43, R269): the tensor function restarts for every colony that held combs on
it, the forager records on it end, and LC colonies take replacements. -/
def State.excludePair (s : State) (d : Nat) : State :=
  let cols := s.dieColonies d
  let s1 := (s.dropDieForagers d).safLog 12 (if cols = [] then 0 else s.restartAction 0 cols) 0xFFFF 0 0
  let s2 := if cols = [] then s1 else s1.startRestart 0 cols 12 0xFFFF
  (s2.markExcluded d).replaceCombs.lowerGuarantees

/-! ## Guards (R460, R461) -/

/-- A guard's finding: reported, disarmed, and its function restarted where RESTART is set (R461). -/
def State.guardFinding (s : State) (g kind value : Nat) : State :=
  let bs := s.cfgRec 0 g
  let cls := cfgClass bs
  let cols := match s.queueOf (field bs 4 4) with
    | some d => (s.queue d).colonies
    | none => []
  let act := if cfgRestart bs then s.restartAction cls cols else 0
  let s1 := ((s.wr (GRD_EXPIRED_GUARDS.bit g) 1).setGuard g { s.guardOf g with armed := false }).safLog kind act g value 0
  if cfgRestart bs then s1.startRestart cls cols kind g else s1

/-- A kick of a guard (R461): it arms a disarmed guard, and is checked against MIN otherwise. -/
def State.kickGuard (s : State) (g : Nat) : State :=
  let bs := s.cfgRec 0 g
  let x := s.guardOf g
  let s1 := (s.setGuard g { armed := true, last := s.tclk }).wr (GRD_LAST_NS.bank g) s.now
  if x.armed ∧ s.tclk < x.last + field bs 8 4 then s1.guardFinding g 2 (s.tclk - x.last) else s1

/-- A guard's expiry (R461): the tick after L + MAX passes with no kick. -/
def State.expireGuard (s : State) (g : Nat) : State :=
  let bs := s.cfgRec 0 g
  let x := s.guardOf g
  if cfgOn bs ∧ x.armed = true ∧ s.islandARuns = true then
    let s1 := s.waitTo (x.last + field bs 12 4 + 1)
    s1.guardFinding g 1 (s1.tclk - x.last)
  else s

/-- ENABLE cleared in all three copies of a record and in the record in force. -/
def State.disableRecord (s : State) (island index : Nat) : State :=
  let off (bs : List Byte) : List Byte := patch bs 2 [0]
  let k := cfgKey island index
  { s with saf := { s.saf with
      copies := tset [] s.saf.copies k ((tget [] s.saf.copies k).map fun c => { c with bytes := off c.bytes }),
      inForce := tset [] s.saf.inForce k (off (tget [] s.saf.inForce k)) } }

/-- The guards whose queue is gone report it once and are disabled (R461). -/
def State.guardsGone (s : State) : State :=
  (List.range 64).foldl (fun s g =>
    let bs := s.cfgRec 0 g
    if cfgOn bs ∧ s.queueOf (field bs 4 4) = none then
      (((s.wr (GRD_EXPIRED_GUARDS.bit g) 1).safLog 11 0 g 0 0).disableRecord 0 g).setGuard g {}
    else s) s

/-! ## Deadlines (R463, R464) -/

/-- A deadline's open intervals, oldest first: the ticks at which they end. -/
def State.intervals (s : State) (d : Nat) : List Nat := tget ([] : List Nat) s.saf.deadlines d

/-- The state with a deadline's intervals replaced. -/
def State.setIntervals (s : State) (d : Nat) (l : List Nat) : State :=
  { s with saf := { s.saf with deadlines := tset [] s.saf.deadlines d l } }

/-- A miss reported, and CLASS restarted where RESTART is set (R464, R473). -/
def State.missDeadline (s : State) (d : Nat) : State :=
  let bs := s.cfgRec 0 (64 + d)
  let cls := cfgClass bs
  let cols := ([field bs 4 4, field bs 8 4].filterMap s.queueOf).flatMap fun i =>
    if (s.queue i).cls = cls then (s.queue i).colonies else []
  let act := if cfgRestart bs then s.restartAction cls cols else 0
  let s1 := (s.wr (GRD_DLMISS_MISSED.bit d) 1).safLog 3 act (64 + d) (field bs 12 4) 0
  if cfgRestart bs then s1.startRestart cls cols 3 (64 + d) else s1

/-- An interval opened at tick `t`; a ninth drops the oldest as a miss (R464). -/
def State.openInterval (s : State) (d t : Nat) : State :=
  let e := t + field (s.cfgRec 0 (64 + d)) 12 4
  match s.intervals d with
  | [] => s.setIntervals d [e]
  | x :: xs =>
    if (x :: xs).length < 8 then s.setIntervals d (x :: xs ++ [e]) else (s.setIntervals d (xs ++ [e])).missDeadline d

/-- A completion closes the oldest interval; one that finds none is an orphan (R464). -/
def State.closeInterval (s : State) (d : Nat) : State :=
  match s.intervals d with
  | [] => s.inc GRD_DLMISS_ORPHAN
  | _ :: xs => s.setIntervals d xs

/-- The oldest interval of a deadline passes its end (R464). -/
def State.expireInterval (s : State) (d : Nat) : State :=
  match s.intervals d with
  | [] => s
  | x :: xs =>
    if cfgOn (s.cfgRec 0 (64 + d)) ∧ s.islandARuns = true then
      ((s.waitTo (x + 1)).setIntervals d xs).missDeadline d
    else s

/-! ## Checkers (R466-R469) -/

/-- A checker. -/
def State.checker (s : State) (c : Nat) : Checker := tget ({} : Checker) s.saf.checkers c

/-- The state with a checker replaced. -/
def State.setChecker (s : State) (c : Nat) (x : Checker) : State :=
  { s with saf := { s.saf with checkers := tset {} s.saf.checkers c x } }

/-- Whether two values agree (R467). -/
def agree (abs rel a b : Word) : Bool := fle (fabs (fsub a b)) (fadd abs (fmul rel (fmax (fabs a) (fabs b))))

/-- Whether two lists of values agree, value by value. -/
def agreeAll (abs rel : Word) (as bs : List Word) : Bool := (as.zip bs).all fun e => agree abs rel e.1 e.2

/-- A summary of `n` values as it stands in memory (R466); none where it cannot be read. -/
def State.readSummary (s : State) (h off n : Nat) : State × Option Summary :=
  if !(s.objFits h off (8 + 4 * n)) then (s, none)
  else
    let (s1, st, bs) := s.objLoad firmwareWho h off (8 + 4 * n)
    if st ≠ 0 then (s1, none)
    else (s1, some { frame := field bs 0 8, vals := wordsOf n (bs.drop 8), copiedAt := s.tclk })

/-- The verdict fences of a frame written with the firmware label (R468): VALID when it agrees, then DECIDED. -/
def State.writeVerdict (s : State) (bs : List Byte) (n : Nat) (ok : Bool) : State :=
  let a := s.objAddr (field bs 40 4) (field bs 44 4)
  if (s.objOf (field bs 40 4)).isNone then s
  else
    let s1 := if ok then (s.devStore firmwareWho a (leBytes 8 n)).1 else s
    (s1.devStore firmwareWho (a + 8) (leBytes 8 n)).1

/-- A frame is settled: the summaries up to it leave the checker. -/
def Checker.settleFrame (x : Checker) (n : Nat) : Checker :=
  { x with p := x.p.filter fun v => n < v.frame, s := x.s.filter fun v => n < v.frame, last := some n }

/-- The colonies that a checker's queues are bound to. -/
def State.checkerColonies (s : State) (bs : List Byte) : List Nat :=
  ([field bs 4 4, field bs 8 4].filterMap s.queueOf).flatMap fun d => (s.queue d).colonies

/-- A decided frame (R467-R469): the fences, the window, and the action on the disagreements in it. -/
def State.decideFrame (s : State) (c n : Nat) (ok : Bool) : State :=
  let bs := s.cfgRec 0 (80 + c)
  let s1 := (s.setChecker c ((s.checker c).settleFrame n)).writeVerdict bs n ok
  let h := (s1.rd (GRD_CHK_HIST.bank c) * 2 + (if ok then 0 else 1)) % 65536
  let k := ((List.range 16).filter fun i => bitsOf h i 1 == 1).length
  let s2 := (s1.wr (GRD_CHK_HIST.bank c) h).wr (GRD_CHK_COUNT.bank c) k
  if ok then s2
  else if k ≤ 1 then s2.safLog 4 1 (80 + c) n 0
  else if k = 2 then
    let cols := s2.checkerColonies bs
    (s2.safLog 4 (max 1 (s2.restartAction 0 cols)) (80 + c) n 0).startRestart 0 cols 4 (80 + c)
  else (s2.safLog 4 3 (80 + c) n 0).degradeClass 0 4 (80 + c)

/-- An undecided frame (R467, R468). -/
def State.undecidedFrame (s : State) (c n : Nat) : State :=
  ((s.setChecker c ((s.checker c).settleFrame n)).writeVerdict (s.cfgRec 0 (80 + c)) n false).safLog 5 1 (80 + c) n 0

/-- The earliest frame of which both sides hold a summary. -/
def Checker.ready (x : Checker) : Option (Summary × Summary) :=
  x.p.findSome? fun a => (x.s.find? fun b => b.frame == a.frame).map fun b => (a, b)

/-- A summary kept: not one of a frame that is decided already, nor a second one of a frame (R467; log entry 53). -/
def addSummary (last : Option Nat) (l : List Summary) (v : Summary) : List Summary :=
  let old := match last with
    | some n => decide (v.frame ≤ n)
    | none => false
  if old || l.any (·.frame == v.frame) then l else l ++ [v]

/-- Island A copies the due summaries of a checker and decides a frame that both sides hold (R467). -/
def State.copySummaries (s : State) (c : Nat) : State :=
  let bs := s.cfgRec 0 (80 + c)
  let x := s.checker c
  let n := bitsOf (field bs 28 4) 0 5
  if !(cfgOn bs) || !(s.islandARuns) then s
  else
    let (s1, p) := if x.dueP then s.readSummary (field bs 12 4) (64 * field bs 16 4) n else (s, none)
    let (s2, q) := if x.dueS then s1.readSummary (field bs 20 4) (64 * field bs 24 4) n else (s1, none)
    let ps := (p.map fun v => addSummary x.last x.p v).getD x.p
    let ss := (q.map fun v => addSummary x.last x.s v).getD x.s
    let x1 : Checker := { x with dueP := false, dueS := false, p := ps, s := ss }
    let s3 := s2.setChecker c x1
    match x1.ready with
    | some (a, b) => s3.decideFrame c a.frame
        (agreeAll (BitVec.ofNat 32 (field bs 32 4)) (BitVec.ofNat 32 (field bs 36 4)) a.vals b.vals)
    | none => s3

/-- The summary that has waited longest for the other side. -/
def Checker.oldest (x : Checker) : Option Summary :=
  (x.p ++ x.s).foldl (fun b v => match b with
    | none => some v
    | some w => if v.copiedAt < w.copiedAt then some v else some w) none

/-- LAG passes without the other side's summary (R467). -/
def State.expireLag (s : State) (c : Nat) : State :=
  let bs := s.cfgRec 0 (80 + c)
  if !(cfgOn bs) || !(s.islandARuns) then s
  else
    match (s.checker c).oldest with
    | none => s
    | some v => (s.waitTo (v.copiedAt + field bs 48 4)).undecidedFrame c v.frame

/-! ## Golden frames (R470-R472) -/

/-- A golden record's progress. -/
def State.goldenOf (s : State) (r : Nat) : Golden := tget ({} : Golden) s.saf.golden r

/-- The state with a golden record's progress replaced. -/
def State.setGolden (s : State) (r : Nat) (x : Golden) : State :=
  { s with saf := { s.saf with golden := tset {} s.saf.golden r x } }

/-- Whether a planner queue holds a PLAN (R471). -/
def State.planWaits (s : State) : Bool := s.queues.any fun e => e.2.live && e.2.recs.any fun r => r.op == 0x50 && !r.isEnded

/-- Idle (R471): for tensor the colony's ready list is empty and none of its combs runs a job; for planner the search
engine is free and no PLAN is ready. -/
def State.goldenIdle (s : State) (bs : List Byte) : Bool :=
  if cfgClass bs = 3 then s.pln.run.isNone && !s.planWaits
  else match (s.queueOf (field bs 8 4)).bind fun d => (s.queue d).colony with
    | none => false
    | some c => (s.readyList c).isEmpty && s.inUse c == 0

/-- A golden list released: GO is raised to its number (R471). -/
def State.releaseGolden (s : State) (r : Nat) : State :=
  let bs := s.cfgRec 0 (88 + r)
  let x := s.goldenOf r
  let s1 := s.setGolden r { x with waiting := none, g := x.g + 1 }
  if (s.objOf (field bs 20 4)).isNone then s1
  else (s1.devStore firmwareWho (s.objAddr (field bs 20 4) (field bs 24 4)) (leBytes 8 (x.g + 1))).1

/-- A golden run lapses (R471). -/
def State.lapseGolden (s : State) (r : Nat) : State :=
  let bs := s.cfgRec 0 (88 + r)
  let x := s.goldenOf r
  let stops := s.stopLapse 0 || (s.stopLapse 1 && s.bHears)
  let s1 := (s.setGolden r { x with waiting := none, kicks := 0 }).safLog 9 (if stops then 4 else 0) (88 + r) x.frames 0
  let s2 := (s1.wr (GRD_LAPSE_RECORDS.bit r) 1).wr GRD_STATUS_LAPSE 1
  let s3 := s2.event 0x53 0x14 (s.handle 4 (cfgClass bs)) 0 (leBytes 2 r ++ leBytes 8 x.frames)
  let s4 := if s3.stopLapse 0 then s3.stopA 9 else s3
  if s4.stopLapse 1 ∧ s4.bHears then s4.stopB 9 else s4

/-- A kick of TRIG_Q for a golden record (R471): the frame counts, and a due run is released, deferred or lapses.
`began` is when the list that ended started. -/
def State.kickGolden (s : State) (r : Nat) (began : Option Nat) : State :=
  let bs := s.cfgRec 0 (88 + r)
  let x := s.goldenOf r
  let due := decide (field bs 28 1 ≤ x.kicks + 1)
  let x1 := { x with frames := x.frames + 1, kicks := if due then 0 else x.kicks + 1,
                     waiting := if due ∧ x.waiting = none then some 0 else x.waiting }
  let s1 := s.setGolden r x1
  match x1.waiting with
  | none => s1
  | some w =>
    let fit := decide (field bs 36 4 + s.tclk ≤ began.getD s.tclk + field bs 32 4)
    if s1.goldenIdle bs ∧ fit = true then s1.releaseGolden r
    else if w = 3 then s1.lapseGolden r
    else (s1.setGolden r { x1 with waiting := some (w + 1) }).safLog 8 0 (88 + r) x1.frames 0

/-- A golden result (R472): a pass is logged and clears the lapse, a mismatch or a faulted list restarts CLASS, a second
consecutive mismatch degrades it; `status` is that of the faulted record (R479). -/
def State.endGolden (s : State) (r : Nat) (fault : Bool) (status : Nat) : State :=
  let bs := s.cfgRec 0 (88 + r)
  let x := s.goldenOf r
  let n := bitsOf (field bs 29 1) 0 3
  let (s1, v) := if fault then (s, none) else s.readSummary (field bs 12 4) (64 * field bs 16 4) n
  let ok := match v with
    | some v => agreeAll (BitVec.ofNat 32 (field bs 40 4)) (BitVec.ofNat 32 (field bs 44 4)) v.vals
        (wordsOf n (bs.drop 48))
    | none => false
  let cls := cfgClass bs
  if ok then
    let s2 := (s1.setGolden r { x with bad := 0 }).safLog 6 0 (88 + r) x.frames 0
    let s3 := s2.wr (GRD_LAPSE_RECORDS.bit r) 0
    s3.wrB GRD_STATUS_LAPSE (s3.on GRD_LAPSE_RECORDS)
  else
    let bad := if fault then x.bad else x.bad + 1
    let cols := match s.queueOf (field bs 8 4) with
      | some d => (s.queue d).colonies
      | none => []
    let s2 := (s1.setGolden r { x with bad := bad }).safLog 7
      (if fault = false ∧ 2 ≤ bad then 3 else s1.restartAction cls cols) (88 + r) x.frames (if fault then status else 0)
    let s3 := s2.startRestart cls cols 7 (88 + r)
    if fault = false ∧ 2 ≤ bad then s3.degradeClass cls 7 (88 + r) else s3

/-! ## What the islands do with the lists that start and end -/

/-- The first record of a list started (R464). -/
def State.onListStart (s : State) (e : Nat × Nat) : State :=
  (List.range 16).foldl (fun s d =>
    let bs := s.cfgRec 0 (64 + d)
    if cfgOn bs ∧ s.queueOf (field bs 4 4) = some e.1 then s.openInterval d e.2 else s) s

/-- A list ended without FAULT: a kick of its queue (R461, R464, R471). -/
def State.onKick (s : State) (e : ListEnd) : State :=
  let s1 := (List.range 64).foldl (fun s g =>
    let bs := s.cfgRec 0 g
    let held : Bool := s.saf.restarts.any fun r => r.ofGuard (cfgClass bs) (s.queue e.slot)
    if cfgOn bs ∧ s.queueOf (field bs 4 4) = some e.slot ∧ held = false then s.kickGuard g
    else s) s
  let s2 := (List.range 16).foldl (fun s d =>
    let bs := s.cfgRec 0 (64 + d)
    if cfgOn bs ∧ s.queueOf (field bs 8 4) = some e.slot then s.closeInterval d else s) s1
  (List.range 8).foldl (fun s r =>
    let bs := s.cfgRec 0 (88 + r)
    if cfgOn bs ∧ s.queueOf (field bs 4 4) = some e.slot then s.kickGolden r e.began else s) s2

/-- A list ended (R461, R464, R467, R471, R472). -/
def State.onListEnd (s : State) (e : ListEnd) : State :=
  let s1 := if e.fault then s else s.onKick e
  let s2 := (List.range 8).foldl (fun s c =>
    let bs := s.cfgRec 0 (80 + c)
    if cfgOn bs then
      let x := s.checker c
      s.setChecker c { x with dueP := x.dueP || s.queueOf (field bs 4 4) == some e.slot,
                              dueS := x.dueS || s.queueOf (field bs 8 4) == some e.slot }
    else s) s1
  (List.range 8).foldl (fun s r =>
    let bs := s.cfgRec 0 (88 + r)
    if cfgOn bs ∧ s.queueOf (field bs 8 4) = some e.slot then s.endGolden r e.fault e.status else s) s2

/-- The islands act on what has started and ended, until nothing is left; a halted island A sees none of it (R435). -/
def settleLoop : Nat → State → State
  | 0, s => s
  | n + 1, s =>
    match s.listStarts, s.listEnds with
    | [], [] => s
    | e :: es, _ => settleLoop n ((fun s : State => if s.islandARuns then s.onListStart e else s) { s with listStarts := es })
    | [], e :: es => settleLoop n ((fun s : State => if s.islandARuns then s.onListEnd e else s) { s with listEnds := es })

/-- The islands act on the lists that a command started and ended, and on guards whose queue is gone (R435, R461). -/
def State.settle (s : State) : State :=
  let s1 := settleLoop 1024 s
  if s1.islandARuns then s1.guardsGone else s1

/-- The end of a command that can end records: the islands act, and the machine goes on. -/
def fin (s : State) : Out := .next s.settle

end Sys2Proof.Machine
end

