-- ==== Sys2Proof/Machine/CombCmds.lean ====
section
/-!
DEFINITION. The comb's commands: bundles and slot waits (R131, R146), foragers (R184, R192-R195), the cache (R188,
R189), ECC write-back (R178), debug (R153, R197) and counters (R151).
-/
namespace Sys2Proof.Machine

/-- Whether a comb runs a job that has started, and its die has its clock (R46). -/
def State.combRuns (s : State) (g : Nat) : Bool :=
  match (s.comb g).job with
  | some k => (s.job k).phase == .running && !(s.job k).forager && s.dieRuns (g / 16)
  | none => false

/-- The held bundle's frozen cycles pass until its slot wait reaches 65,536 (R146): the first is charged as the sequencer sees the slots
now, the others as it sees them from the next cycle on (R144, R145). -/
def State.slotwaitPasses (s : State) (g : Nat) (ops : List BOp) (slot : Nat) (write : Bool) : State :=
  let c := s.comb g
  let n := 65536 - c.wait
  let a := (chargedCause (s.holdCauses g ops)).getD 0
  let b := (chargedCause ((s.modComb g fun c => c.endCycle none).holdCauses g ops)).getD 0
  let s1 := ((s.incHold (holdFld g a) 1).incHold (holdFld g b) (n - 1)).incHold (CMB_HOLD_TOTAL_COUNT.idx g) n
  let s2 := s1.inc (CMB_WALL_COUNT.idx g) n
  s2.slotWaitFault g slot write (s2.rd (CMB_SCHED_COUNT.idx g))

/-- SLOTWAIT_EXPIRY (R146): the slot access that comb `g` is held at has waited 65,536 cycles, none charged to DEBUG;
nothing where no slot access waits, or its slot is ready and only the cycle of R144 is left. -/
def execSlotwaitExpiry (g : Nat) (s : State) : Out :=
  match (s.comb g).held with
  | some (ops, _) =>
    match ((s.comb g).endCycle none).waitSlot ops with
    | some (n, w) => fin (if s.on (CMB_DBG_HALT.idx g) = true ∨ s.combRuns g = false then s else s.slotwaitPasses g ops n w)
    | none => .next s
  | none => .next s

/-! ## Foragers -/

/-- The fields of a scratchpad operation descriptor (R192). -/
structure SpOp where
  op : Nat
  mark : Bool
  release : Bool
  doneSig : Bool
  all : Bool
  consumers : Nat
  doneSlot : Nat
  dst : Nat
  src : Nat
  len : Nat
  dram : Nat
  deriving DecidableEq, Repr

/-- A descriptor's fields. -/
def SpOp.ofBytes (b : List Byte) : SpOp :=
  let f (lo : Nat) := bitsOf (field b 0 1) lo 1 == 1
  { op := bitsOf (field b 0 1) 0 4, mark := f 4, release := f 5, doneSig := f 6, all := f 7,
    consumers := bitsOf (field b 1 1) 0 4, doneSlot := bitsOf (field b 2 2) 0 11, dst := bitsOf (field b 4 4) 0 23,
    src := field b 8 4, len := bitsOf (field b 12 4) 0 20, dram := field b 16 6 }

/-- The layout of R192; SRC_PAT is an address only for SP_COPY. -/
def spLayout (op : Nat) : Layout :=
  [(0, 0, 8), (1, 0, 4), (2, 0, 11), (4, 0, 23), (8, 0, if op = 9 then 23 else 32), (12, 0, 20), (16, 0, 48)]

def SpOp.isCache (d : SpOp) : Bool := decide (10 ≤ d.op)
def SpOp.bytes (d : SpOp) : Nat := 32 * d.len

/-- The checks of R194 in order: 0 when all pass. -/
def Comb.spCheck (c : Comb) (b : List Byte) : Nat :=
  let d := SpOp.ofBytes b
  let copy := decide (d.op = 9)
  let cap := cacheBase c.cacheMode
  firstFail
    [ (decide (8 ≤ d.op ∧ d.op ≤ 12), E_OPCODE),
      (reservedOk (spLayout d.op) b && (d.mark || d.doneSig || d.consumers == 0) && (d.doneSig || d.doneSlot == 0)
        && (copy || !d.release) && (d.isCache || !d.all) && (!d.isCache || (d.dst == 0 && d.src == 0))
        && ((d.isCache && !d.all) || d.dram == 0) && (!d.all || d.len == 0), E_RESERVED),
      ((d.all && d.len == 0) || sized 20 d.len, E_LEN),
      (decide (d.dst % 32 = 0) && (!copy || decide (d.src % 32 = 0)) && decide (d.dram % 512 = 0)
        && (!d.mark || decide (d.dst % 4096 = 0 ∧ d.bytes % 4096 = 0)), E_ALIGN),
      ((d.isCache || decide (d.dst + d.bytes ≤ cap)) && (!copy || decide (d.src + d.bytes ≤ cap))
        && (!d.doneSig || decide (4096 * (d.doneSlot + 1) ≤ cap))
        && (!(d.mark || d.doneSig) || decide (1 ≤ d.consumers)), E_RANGE) ]

/-- The bytes of a range that go before its slot `n`. -/
def bytesBefore (start n : Nat) : Nat := 4096 * n - start

/-- The source and destination slots of a copy in the order of their first access, a source before a destination. -/
def mergeSlots (src dst : Nat) : List (Nat × Nat × Bool) → List (Nat × Nat × Bool) → List (Nat × Nat × Bool)
  | [], ds => ds
  | x :: xs, ds =>
    let b := bytesBefore src x.2.1
    ds.filter (fun y => decide (bytesBefore dst y.2.1 < b)) ++ x :: mergeSlots src dst xs
      (ds.filter fun y => decide (b ≤ bytesBefore dst y.2.1))

/-- The scratchpad slots that a transfer checks, in the order of their first access: comb, slot, whether for writing (R184,
R193). -/
def xferSlots (g : Nat) (d : Desc) : List (Nat × Nat × Bool) :=
  match d with
  | .dram t => (slotsTouched t.spad t.size).map fun n => (t.comb, n, t.toSpad)
  | .op b =>
    let o := SpOp.ofBytes b
    if o.isCache then []
    else mergeSlots o.src o.dst (if o.op = 9 then (slotsTouched o.src o.bytes).map fun n => (g, n, false) else [])
      ((slotsTouched o.dst o.bytes).map fun n => (g, n, true))

/-- Whether a slot's check still fails (R179): a read of an EMPTY slot, a write of a FULL one. -/
def State.slotWaits (s : State) (x : Nat × Nat × Bool) : Bool :=
  ((s.comb x.1).slot x.2.1).state == (if x.2.2 then 1 else 0)

/-- The fault that a DRAM transfer finds before it starts: its label (R280), a size of 0 (R12), its ranges, and a write into a comb
of another job (R185); 0 for none.  A scratchpad range that reaches the cache region or the end is E_RANGE, before E_PARTITION
(DESIGN CHOICE; log entry 132). -/
def State.dramCheck (s : State) (g : Nat) (t : DramXfer) : Nat :=
  let k := (s.comb g).job
  let mask := match k with
    | some k => (s.queue (s.job k).slot).labelMask
    | none => 0
  let labelOk := match t.label with
    | some l => mask.getLsbD l
    | none => true
  firstFail
    [ (labelOk, E_LABEL), (decide (0 < t.size), E_LEN), ((s.objOf t.obj).isSome, E_HANDLE),
      (s.objFits t.obj t.off t.size && decide (t.spad + t.size ≤ cacheBase (s.comb t.comb).cacheMode), E_RANGE),
      (!t.toSpad || decide ((s.comb t.comb).job = k), E_PARTITION) ]

/-- Forager `f` of comb `g`. -/
def State.forager (s : State) (g f : Nat) : Forager := tget {} (s.comb g).foragers f

/-- The state with a forager replaced. -/
def State.setForager (s : State) (g f : Nat) (x : Forager) : State :=
  s.modComb g fun c => { c with foragers := tset {} c.foragers f x }

/-- An idle forager takes the descriptor at the head of its queue: the entry frees (R143). -/
def Forager.takeHead (x : Forager) : Forager :=
  match x.queue with
  | [] => x
  | (d, sched) :: r => { queue := r, cur := some { desc := d, sched := sched }, freed := x.freed + 1 }

/-- The slots of a transfer whose checks have not passed yet: a slot once admitted stays admitted (R184). -/
def Xfer.left (g : Nat) (t : Xfer) : List (Nat × Nat × Bool) := (xferSlots g t.desc).drop t.admitted

/-- The slots of a forager's present descriptor are admitted up to the first that waits (R184). -/
def State.admitXfer (s : State) (g f : Nat) : State :=
  let x := s.forager g f
  match x.cur with
  | some t =>
    let n := ((t.left g).takeWhile fun y => !s.slotWaits y).length
    s.setForager g f { x with cur := some { t with admitted := t.admitted + n, waited := if n = 0 then t.waited else 0 } }
  | none => s

/-- The comb of a forager's present transfer waits on a slot (R184). -/
def State.xferWaits (s : State) (g : Nat) (t : Xfer) : Option (Nat × Nat × Bool) :=
  match t.left g with
  | [] => none
  | w :: _ => if s.slotWaits w then some w else none

/-- A forager's wait of `n` more CCLK cycles (R184): 65,536 consecutive ones fault the job. -/
def State.foragerWaits (s : State) (g n f : Nat) : State :=
  match (s.forager g f).cur with
  | some t =>
    match s.xferWaits g t with
    | some w =>
      if 65536 ≤ t.waited + n then s.slotWaitFault g w.2.1 w.2.2 t.sched
      else s.setForager g f { s.forager g f with cur := some { t with waited := t.waited + n } }
    | none => s
  | none => s

/-- One wall cycle of the waits of a comb's foragers. -/
def State.foragersWait (s : State) (g : Nat) : State := (s.foragerWaits g 1 0).foragerWaits g 1 1

/-- BUNDLE_ISSUE (R131): one wall cycle of comb `g` and of the waits of its foragers (R184).  `ops` is the bundle of the current
schedule cycle and `last` whether it is the program's last; while a bundle is held it is retried and the operands say nothing.  An
operation that names no engine, register or position of a comb is in no bundle (R129, R134). -/
def execBundleIssue (g : Nat) (ops : List BOp) (last : Bool) (s : State) : Out := s.unlessStalled fun s =>
  if s.combRuns g = true ∧ ((s.comb g).lastIssued = false ∨ (s.comb g).held.isSome = true) ∧ ops.all bopOk = true then
    fin ((s.combCycle g ops last).foragersWait g)
  else .next s

/-- FORAGER_SLOT_ADMIT (R184): forager `f` of comb `g` takes a DRAM transfer that heads its queue when it is idle, and
the slot checks of what it executes are made. -/
def execForagerSlotAdmit (g f : Nat) (s : State) : Out :=
  let x := s.forager g f
  if s.dieRuns (g / 16) = false then .next s else
  match x.cur, x.queue with
  | none, (.dram t, _) :: _ =>
    let st := s.dramCheck g t
    fin (if st ≠ 0 then s.faultComb g st else (s.setForager g f x.takeHead).admitXfer g f)
  | _, _ => fin (s.admitXfer g f)

/-- FORAGER_SLOTWAIT_EXPIRY (R184): forager `f` of comb `g` has waited on a slot for 65,536 CCLK cycles, of which what its wait has
not counted yet now passes, at ten cycles a tick. -/
def execForagerSlotwaitExpiry (g f : Nat) (s : State) : Out :=
  match (s.forager g f).cur with
  | some t =>
    if (s.xferWaits g t).isSome = true ∧ s.dieRuns (g / 16) = true then
      fin ((s.elapse (ceilDiv (65536 - t.waited) 10)).foragerWaits g 65536 f)
    else .next s
  | none => .next s

/-- The requester of a transfer: its comb's job, under the label, HINT and deadline that it names (R280, R294, R317). -/
def State.xferWho (s : State) (g : Nat) (t : DramXfer) : Who :=
  let w := s.combWho g
  { w with label := t.label.getD w.label, hint := t.hint, deadline := t.deadline.getD w.deadline }

/-- Marks or releases applied once to each slot that a transfer touches (R180). -/
def State.touchSlots (s : State) (g : Nat) (ns : List Nat) (ch : Nat → SlotChange) : State :=
  s.modComb g fun c => ns.foldl (fun c n => c.lateChange (ch n)) c

/-- FORAGER_TRANSFER_DONE (R180, R141, R306): the admitted DRAM transfer of a forager of comb `g` completes.  64-bit
words whose scratchpad read met a double-bit error reach DRAM poisoned, and the job faults (R178). -/
def execForagerTransferDone (g : Nat) (e : XferEnd) (s : State) : Out := s.unlessStalled fun s =>
  let x := s.forager g e.forager
  match x.cur with
  | some { desc := .dram t, sched := _, admitted := n, waited := _ } =>
    if n ≠ (xferSlots g (.dram t)).length ∨ s.dieRuns (g / 16) = false then .next s else
    let s0 := s.setForager g e.forager { x with cur := none }
    let who := s.xferWho g t
    let ns := slotsTouched t.spad t.size
    if t.toSpad then
      let (s1, st, bs) := s0.objLoad who t.obj t.off t.size
      if st ≠ 0 then fin (s1.faultComb g st)
      else
        let s2 := s1.modComb t.comb fun c => c.putSpad t.spad bs
        fin (if t.mark = 0 then s2 else s2.touchSlots t.comb ns fun n => .mark n t.mark)
    else
      let (s1, st) := s0.objStore who t.obj t.off ((s0.comb t.comb).bytes t.comb t.spad t.size)
      let hit := e.bad.filter fun b => decide (b < t.size)
      if st ≠ 0 then fin (s1.faultComb g st)
      else if hit ≠ [] then
        fin ((hit.foldl (fun s b => s.poisonWord (s.objAddr t.obj (t.off + b) / 64)) s1).faultComb g E_POISON)
      else fin (if t.release then s1.touchSlots t.comb ns SlotChange.release else s1)
  | _ => .next s

/-- Forager `f` of comb `g`, idle, takes a descriptor with operation `op` from the head of its queue, or one with an
operation that is none, after the checks of R194 (R193, R195). -/
def State.takeSpOp (s : State) (g f op : Nat) : State :=
  let x := s.forager g f
  if s.dieRuns (g / 16) = false then s else
  match x.cur, x.queue with
  | none, (.op b, _) :: _ =>
    let o := (SpOp.ofBytes b).op
    if o = op ∨ o < 8 ∨ 12 < o then
      let st := (s.comb g).spCheck b
      if st ≠ 0 then s.faultComb g st
      else (s.setForager g f x.takeHead).admitXfer g f
    else s
  | _, _ => s

/-- SP_FILL (R193). -/
def execSpFill (g f : Nat) (s : State) : Out := fin (s.takeSpOp g f 8)
/-- SP_COPY (R193). -/
def execSpCopy (g f : Nat) (s : State) : Out := fin (s.takeSpOp g f 9)
/-- CACHE_WB (R193). -/
def execCacheWb (g f : Nat) (s : State) : Out := fin (s.takeSpOp g f 10)
/-- CACHE_INV (R193). -/
def execCacheInv (g f : Nat) (s : State) : Out := fin (s.takeSpOp g f 11)
/-- CACHE_WBINV (R193). -/
def execCacheWbinv (g f : Nat) (s : State) : Out := fin (s.takeSpOp g f 12)

/-- A 32-bit pattern over `n` bytes, little-endian. -/
def patternBytes (p n : Nat) : List Byte := (List.range n).map fun i => BitVec.ofNat 8 (p / 256 ^ (i % 4))

/-- The cached lines that a cache operation names. -/
def Comb.linesOf (c : Comb) (o : SpOp) : List Nat :=
  tkeys c.tags fun _ l => l.valid && (o.all || decide (o.dram ≤ l.addr ∧ l.addr < o.dram + 512 * o.len))

/-- The effects of a scratchpad operation at its completion (R193), and the status of a write-back that fails (R327). -/
def State.doSpOp (s : State) (g : Nat) (o : SpOp) : State × Nat :=
  if o.op = 8 then (s.modComb g fun c => c.putSpad o.dst (patternBytes o.src o.bytes), 0)
  else if o.op = 9 then (s.modComb g fun c => c.putSpad o.dst (c.bytes g o.src o.bytes), 0)
  else
    let ls := (s.comb g).linesOf o
    let s0 := s.modComb g fun c => ls.foldl Comb.commitLine c
    let (s1, st) := if o.op = 11 then (s0, 0) else
      let (a, sa) := s0.drainWriteBacks g
      let (b, sb) := a.cleanLines g ls
      (b, if sa ≠ 0 then sa else sb)
    if o.op = 10 then (s1, st)
    else (s1.modComb g fun c => { c with tags := ls.foldl (fun t k => tset {} t k {}) c.tags }, st)

/-- The slot changes of a scratchpad operation at its completion (R180, R192). -/
def State.spMarks (s : State) (g : Nat) (o : SpOp) : State :=
  let s1 := if o.release then s.touchSlots g (slotsTouched o.src o.bytes) SlotChange.release else s
  let s2 := if o.mark ∧ o.isCache = false then s1.touchSlots g (slotsTouched o.dst o.bytes) fun n => .mark n o.consumers else s1
  if o.doneSig then s2.touchSlots g [o.doneSlot] fun n => .mark n o.consumers else s2

/-- SCRATCHPAD_OP_DONE (R195): the admitted scratchpad operation of a forager of comb `g` ends; a copy whose reads met a
double-bit error faults the job (R178). -/
def execScratchpadOpDone (g : Nat) (e : OpEnd) (s : State) : Out := s.unlessStalled fun s =>
  let x := s.forager g e.forager
  match x.cur with
  | some { desc := .op b, sched := _, admitted := n, waited := _ } =>
    if n ≠ (xferSlots g (.op b)).length ∨ s.dieRuns (g / 16) = false then .next s else
    let o := SpOp.ofBytes b
    let (s1, st) := (s.setForager g e.forager { x with cur := none }).doSpOp g o
    if st ≠ 0 then fin (s1.faultComb g st)
    else if e.ue = true ∧ o.op = 9 then fin (s1.faultComb g E_POISON)
    else fin (s1.spMarks g o)
  | _ => .next s

/-! ## Cache, ECC, debug -/

/-- Whether the bundle that a comb holds waits under CACHE_MISS (R143, R188). -/
def Comb.missHold (c : Comb) (g : Nat) : Bool := match c.held with
  | some (ops, _) => c.heldMisses g ops != []
  | none => false

/-- CACHE_FILL_DONE (R188, R189): the write-back buffer of comb `g` drains and the line fill that it waits for
completes; a write-back or fill that fails faults the job (R189, R327).  A bundle that waited for either issues one cycle later
(R143, R144). -/
def execCacheFillDone (g : Nat) (s : State) : Out := s.unlessStalled fun s =>
  if s.dieRuns (g / 16) = false then .next s else
  let (s1, wb) := s.drainWriteBacks g
  if wb ≠ 0 then fin (s1.faultComb g wb) else
  match (s1.comb g).fill with
  | none => .next (if (s.comb g).missHold g then s1.modComb g fun c => { c with fillLag := true } else s1)
  | some (a, k) =>
    let (s2, st, bs) := s1.devLoad (s1.combWho g) a 512
    if st ≠ 0 ∧ st ≠ E_POISON then fin (s2.faultComb g st)
    else fin (s2.modComb g fun c =>
      ({ c.putSpad (lineRow c.cacheMode k) bs with
          tags := tset {} c.tags k { valid := true, addr := a, poison := st == E_POISON }, fill := none, fillLag := true }).touchLine k)

/-- SCRATCHPAD_ECC_WRITEBACK (R178): the first corrected row of comb `g` that waits is written back. -/
def execScratchpadEccWriteback (g : Nat) (s : State) : Out :=
  fin (s.modComb g fun c => { c with eccRows := c.eccRows.drop 1 })

/-- What a write of CMB_DBG does (R153, R540): `halt`, `step` and `clear` are the bits written. HALT or STEP on an LC
comb, or under CMB_HALT_DENY, has no effect and sets REFUSED (log entry 46). -/
def State.writeDbg (s : State) (g : Nat) (halt step clear : Bool) : State :=
  if 64 ≤ g then s
  else
    let s0 := if clear then s.wr (CMB_DBG_REFUSED.idx g) 0 else s
    let refused := (halt || step) && (s0.isLc g || s0.on HIF_LOCKCFG_CMB_HALT_DENY)
    if refused then s0.wr (CMB_DBG_REFUSED.idx g) 1
    else
      let s1 := s0.wrB (CMB_DBG_HALT.idx g) halt
      let causes := s1.rd (CMB_STATE_CAUSES.idx g) % 256
      let s2 := if halt ∧ s1.combRuns g = true then
          ((s1.wr (CMB_DBG_HALTED.idx g) 1).wr (CMB_STATE_STATE.idx g) 4).wr (CMB_STATE_CAUSES.idx g) (causes + 256)
        else if halt then s1
        else if s1.on (CMB_DBG_HALTED.idx g) then
          ((s1.wr (CMB_DBG_HALTED.idx g) 0).wr (CMB_STATE_STATE.idx g) (if causes = 0 then 2 else 3)).wr (CMB_STATE_CAUSES.idx g) causes
        else s1
      if step ∧ s.on (CMB_DBG_HALTED.idx g) = true then s2.modComb g fun c => { c with stepReq := true } else s2

/-- COMB_DEBUG_HALT (R153): a write of HALT = 1 to CMB_DBG of comb `g`. -/
def execCombDebugHalt (g : Nat) (s : State) : Out := .next (s.writeDbg g true false false)

/-- COMB_DEBUG_RELEASE (R153): a write of HALT = 0. -/
def execCombDebugRelease (g : Nat) (s : State) : Out := .next (s.writeDbg g false false false)

/-- COMB_DEBUG_STEP (R153): a write of STEP = 1 with HALT kept. -/
def execCombDebugStep (g : Nat) (s : State) : Out := .next (s.writeDbg g (s.on (CMB_DBG_HALT.idx g)) true false)

/-- The counters that CLR_CNT clears (R151). -/
def State.clearHolds (s : State) (g : Nat) : State :=
  let s1 := (List.range 9).foldl (fun s n => s.wr (holdFld g n) 0) s
  (s1.wr (CMB_HOLD_TOTAL_COUNT.idx g) 0).wr (CMB_ECC_ROWS_COUNT.idx g) 0

/-- COMB_CLEAR_COUNTERS (R151): a write of CLR_CNT of comb `g`. -/
def execCombClearCounters (g : Nat) (s : State) : Out := .next (if g < 64 then s.clearHolds g else s)

/-- A write of CMB_SPD_ADDR with GO (R197): ADDR is stored, and a debug read starts unless one is in progress. -/
def State.startSpdRead (s : State) (word : Nat) : State :=
  let s1 := s.wr CMB_SPD_ADDR_ADDR word
  if s1.on CMB_SPD_ADDR_BUSY then s1
  else { (s1.wr CMB_SPD_ADDR_BUSY 1) with spdRead := some (s1.rd CMB_SPD_SEL_COMB, 32 * (word % 2 ^ 18)) }

/-- SCRATCHPAD_DEBUG_READ (R197): CMB_SPD_ADDR is written with GO and word number `word`. -/
def execScratchpadDebugRead (word : Nat) (s : State) : Out := .next (s.startSpdRead word)

/-- SCRATCHPAD_DEBUG_READ_DONE (R197): the bank serves the read; `ue` says that the word has an uncorrectable error.  A read without one
leaves UE as it is (DESIGN CHOICE; log entry 133). -/
def execScratchpadDebugReadDone (ue : Bool) (s : State) : Out :=
  match s.spdRead with
  | none => .next s
  | some (g, a) =>
    let ws := wordsOf 8 ((s.comb g).bytes g a 32)
    let s1 := ws.zipIdx.foldl (fun s e => s.wr (CMB_SPD_DATA_DATA.idx e.2) e.1.toNat) s
    .next { (s1.wr CMB_SPD_ADDR_BUSY 0).wrB CMB_SPD_ADDR_UE (s.on CMB_SPD_ADDR_UE || ue) with spdRead := none }

end Sys2Proof.Machine
end

