-- ==== Sys2Proof/Machine/Records.lean ====
section
/-!
DEFINITION. How an opcode's command runs the record that waits for it: checks 9 and 10 of R115, then the record's own
effect (R115-R117).
-/
namespace Sys2Proof.Machine

/-- Whether queued work is held: the device is in Low power (R60), or island A holds every engine (R46). -/
def State.workHeld (s : State) : Bool := s.on PWR_STATUS_LOW_POWER || s.pwr.enginesHeld

/-- Whether an earlier record of a queue waits in a ready list (records of one queue start in SEQ order). -/
def State.waitsBefore (s : State) (d : Nat) (r : Rec) : Bool :=
  ((s.queue d).recs.takeWhile (· != r)).any (s.notStarted d)

/-- The record of opcode `op` that a queue starts next, where `sel` picks it: the first fetched one, which starts only after every
earlier record; a forager record enters its ready list behind them. -/
def State.pickRec (s : State) (d op : Nat) (sel : Rec → Bool) : Option Rec :=
  if s.workHeld then none
  else
    match (s.queue d).recs.find? fun r => decide (r.phase = .fetched) with
    | none => none
    | some r =>
      if r.op = op ∧ sel r = true ∧ s.mayBegin d r = true ∧ (op = 0x30 ∨ op = 0x31 ∨ s.waitsBefore d r = false) then some r else none

/-- The requests that the checks of a record make before it starts (R115): `reads` of the record that `runOp` takes. -/
def State.checkReads (s : State) (d op : Nat) (sel : Rec → Bool) (reads : State → Rec → State) : State :=
  match s.pickRec d op sel with
  | none => s
  | some r => if s.cqRoom d (s.queue d) then reads s r else s

/-- The record of opcode `op` at queue `d` started (R115): check 9 as `check` gives it, then check 10, and, when both
pass, the record's effect.  Nothing where no such record waits; a completion ring without room holds the queue (R127). -/
def State.runOp (s : State) (d op : Nat) (sel : Rec → Bool) (check : Rec → Nat × Nat) (eff : State → Rec → State) : State :=
  match s.pickRec d op sel with
  | none => s
  | some r =>
    if s.cqRoom d (s.queue d) = false then s.wr (HIF_QSTAT_CQ_FULL.idx d) 1
    else
    let c := s.checks (s.queue d).cls (check r)
    if c.1 ≠ 0 then s.faultRec d r.seq c.1 c.2 else eff (s.runRec d r.seq) r

end Sys2Proof.Machine
end

