-- ==== Sys2Proof/Machine/ControlCmds.lean ====
section
/-!
DEFINITION. The control engine's commands: LOOP_SET, LOOP_CTL and TRAJ_LOAD (R409-R412), the periodic trigger (R415) and
the evaluation (R416).
-/
namespace Sys2Proof.Machine

/-! ## LOOP_SET (R407, R408, R410) -/

/-- The fields of a signal block at `b`. -/
def sigLayout (b : Nat) : Layout :=
  [(b, 0, 16), (b + 2, 0, 8), (b + 3, 0, 2), (b + 3, 2, 1), (b + 3, 3, 3), (b + 4, 0, 29), (b + 4, 29, 1), (b + 8, 0, 32),
   (b + 12, 0, 32)]

/-- The fields of a loop object (R407, R408); SP is a signal block only with SP_KIND 2. -/
def loopLayout (spSignal : Bool) : Layout :=
  [(0, 0, 2), (0, 2, 2), (0, 4, 1), (0, 5, 1), (1, 0, 3), (1, 3, 2), (2, 0, 7), (2, 7, 1), (3, 0, 1), (4, 0, 32),
   (8, 0, 32), (12, 0, 32)] ++ sigLayout fbOff ++ (if spSignal then sigLayout spOff else [(32, 0, 128)])
  ++ [(48, 0, 192)] ++ sigLayout snkOff ++ [(128, 0, 4608)]

/-- The payload lengths of CAN FD. -/
def isCanLen (n : Nat) : Bool := decide (n ≤ 8) || [12, 16, 20, 24, 32, 48, 64].contains n

/-- Whether a port reference names a port of a group (R337). -/
def isPort (p group count : Nat) : Bool := decide (p / 256 = group ∧ p % 256 < count)

/-- Whether a CAN port runs ISOBUS (R346). -/
def State.isIsobus (s : State) (i : Nat) : Bool := s.ports.cfg.isobus.any fun c => c.port == i

/-- Whether a signal's SCALE and OFFSET are finite. -/
def sigFinite (o : List Byte) (b : Nat) : Bool :=
  ffinite (BitVec.ofNat 32 (field o (b + 8) 4)) && ffinite (BitVec.ofNat 32 (field o (b + 12) 4))

/-- The ranges of the feedback block (R407, R410). -/
def fbOk (l : Loop) : Bool :=
  let o := l.obj
  let p := sigPort o fbOff
  let place := decide (sigWidthCode o fbOff ≤ 2 ∧ sigByte o fbOff + sigBytes o fbOff ≤ 64) && sigBuf o fbOff == 0
  let kind :=
    if l.fbKind = 1 then isPort p 3 8
    else if l.fbKind = 2 then isPort p 4 4 && decide (field o (fbOff + 4) 4 < 4)
    else isPort p 7 32 && sigByte o fbOff == 0 && field o (fbOff + 4) 4 == 0
  decide (1 ≤ l.fbKind ∧ l.fbKind ≤ 3) && place && kind && sigFinite o fbOff

/-- The ranges of the setpoint block (R408, R410). -/
def spOk (l : Loop) : Bool :=
  let o := l.obj
  if l.spKind = 0 then ffinite (l.f 32) && allZero o 36 12
  else if l.spKind = 1 then allZero o 32 8 && sigFinite o spOff
  else decide (l.spKind = 2) && isPort (sigPort o spOff) 3 8 && decide (sigWidthCode o spOff ≤ 2)
    && decide (sigByte o spOff + sigBytes o spOff ≤ 64) && sigBuf o spOff == 0 && sigFinite o spOff

/-- The ranges of the sink block (R407, R408, R410). -/
def State.snkOk (s : State) (l : Loop) : Bool :=
  let o := l.obj
  let p := sigPort o snkOff
  let fdf := bitsOf (field o 2 1) 7 1 == 1
  sigFinite o snkOff &&
    (if l.sinkPwm then isPort p 6 8 && allZero o 74 6
     else isPort p 3 8 && decide (sigWidthCode o snkOff ≤ 2) && decide (sigByte o snkOff + sigBytes o snkOff ≤ l.dlen)
       && isCanLen l.dlen && (fdf || bitsOf (field o 3 1) 0 1 == 0) && (!(s.isIsobus (p % 256)) || (!fdf && decide (l.dlen ≤ 8))))

/-- The breakpoints rise and every table entry is finite (R410). -/
def tableOk (l : Loop) : Bool :=
  (List.range 64).all fun j => ffinite (l.e j) && ffinite (l.g j) && (j == 63 || flt (l.e j) (l.e (j + 1)))

/-- The range check of a loop object (R407, R408, R410). -/
def State.loopRanges (s : State) (l : Loop) : Bool :=
  fbOk l && spOk l && s.snkOk l && decide (l.tField ≤ 5)
    && decide (6250 ≤ l.period ∧ l.period ≤ 12500000) && decide (1 ≤ l.stale ∧ l.stale ≤ 0xFFFFFFFE)
    && (if l.spKind = 1 then decide (l.lookahead ≤ 2000000000) else l.lookahead == 0)
    && [48, 52, 56, 60, 64, 68].all (fun x => ffinite (l.f x))
    && flt (l.f 56) (l.f 60) && fle (l.f 56) (l.f 64) && fle (l.f 64) (l.f 60) && tableOk l

/-- Check 9 of LOOP_SET before its object is read (R410). -/
def State.loopSetCheck (s : State) (r : Rec) : Nat × Nat :=
  let h := field r.bytes 20 4
  firstField [((s.objOf h).isSome, E_HANDLE, 20), (s.objFits h (64 * field r.bytes 24 4) 704, E_RANGE, 24)]

/-- The rest of check 9, on the loop object as read (R410; FIELD as log entry 47). -/
def State.loopObjCheck (s : State) (n : Nat) (o : List Byte) : Nat × Nat :=
  let l : Loop := { obj := o }
  firstField [(reservedOk (loopLayout (l.spKind == 2)) o, E_RESERVED, 20), (s.loopRanges l, E_RANGE, 20),
    (!(s.loopOn n), E_BUSY, 16)]

/-- LOOP_SET at queue `d`: a disabled loop configured from its object (R410, R411). -/
def State.loopSet (s : State) (d : Nat) : State :=
  match s.pickRec d 0x60 (fun _ => true) with
  | none => s
  | some r =>
    if s.cqRoom d (s.queue d) = false then s.wr (HIF_QSTAT_CQ_FULL.idx d) 1
    else
    let b := r.bytes
    let n := bitsOf (field b 16 1) 0 5
    let c := s.loopSetCheck r
    if c.1 ≠ 0 then s.faultRec d r.seq c.1 c.2
    else
      let (s1, st, o) := s.objLoad (s.recWho d r 0x45) (field b 20 4) (64 * field b 24 4) 704
      if st ≠ 0 then s1.faultRec d r.seq st
      else
        let c2 := s1.checks 4 (s1.loopObjCheck n o)
        if c2.1 ≠ 0 then s1.faultRec d r.seq c2.1 c2.2
        else
          let l : Loop := { obj := o, ref := (field b 20 4 % 2 ^ 20, 64 * field b 24 4) }
          (((s1.runRec d r.seq).setLoop n l).wr (CTL_LOOP_STATE.bank n) loopDisabled).completeRec d r.seq 0

/-- LOOP_SET (R410). -/
def execLoopSet (d : Nat) (s : State) : Out := s.unlessStalled fun s => fin (s.loopSet d)

/-! ## LOOP_CTL (R409, R412) -/

/-- OP of a LOOP_CTL record. -/
def loopOp (r : Rec) : Nat := bitsOf (field r.bytes 20 1) 0 2

/-- The loops in MASK. -/
def loopMask (r : Rec) : List Nat := (List.range 32).filter fun n => bitsOf (field r.bytes 16 4) n 1 == 1

/-- The CAN port and buffer of a loop's sink; none for a PWM sink. -/
def Loop.canSink (l : Loop) : Option (Nat × Nat) :=
  if l.sinkPwm then none else some (sigPort l.obj snkOff, sigBuf l.obj snkOff)

/-- Whether two of some loops name one CAN port and one BUF (R412). -/
def State.sinksClash (s : State) (ns : List Nat) : Bool :=
  let ks := ns.filterMap fun n => (s.loop n).canSink
  decide (ks.length ≠ ks.eraseDups.length)

/-- Check 9 of LOOP_CTL (R412). -/
def State.loopCtlCheck (s : State) (r : Rec) : Nat × Nat :=
  let ns := loopMask r
  let all := (List.range 32).filter fun n => s.loopOn n || ns.contains n
  firstField [(decide (1 ≤ loopOp r), E_RANGE, 20),
    (loopOp r != 1 || ns.all fun n => (s.loop n).configured, E_RANGE, 16),
    (loopOp r != 1 || !(s.sinksClash all), E_BUSY, 16)]

/-- Whether a LOOP_CTL record is for OP `op`; one with OP 0, which fails, is for any. -/
def loopSel (op : Nat) (r : Rec) : Bool := loopOp r == op || loopOp r == 0

/-- A loop enabled (R412, R415): I is 0, no derivative history, no sample used; a periodic loop first triggers PERIOD from
now (log entry 54). -/
def State.enableLoop (s : State) (n : Nat) : State :=
  if s.loopOn n then s
  else
    let l := s.loop n
    let l1 := { l with first := true, used := none, kept := false, triggered := none, pick := none, mirrorI := 0,
                       lastTrig := if l.onSample then none else some s.tclk }
    (((s.setLoop n l1).wr (CTL_INTEG_I.bank n) 0).wr (CTL_ENABLED_LOOPS.bit n) 1).wr (CTL_LOOP_STATE.bank n) loopEnabled

/-- A loop disabled: SAFE once to its sink, and it stops (R412). -/
def State.disableLoop (s : State) (n : Nat) : State :=
  if s.loopOn n then (s.sendOut n ((s.loop n).f 64)).stopLoop n loopDisabled else s

/-- The effect of LOOP_CTL on every loop in MASK (R412). -/
def State.loopCtl (f : State → Nat → State) (d : Nat) (s : State) (r : Rec) : State :=
  ((loopMask r).foldl f s).completeRec d r.seq 0

/-- LOOP_ENABLE (R412). -/
def execLoopEnable (d : Nat) (s : State) : Out :=
  fin (s.runOp d 0x61 (loopSel 1) s.loopCtlCheck (State.loopCtl State.enableLoop d))

/-- LOOP_DISABLE (R412). -/
def execLoopDisable (d : Nat) (s : State) : Out :=
  fin (s.runOp d 0x61 (loopSel 2) s.loopCtlCheck (State.loopCtl State.disableLoop d))

/-- LOOP_RESET_I (R412). -/
def execLoopResetI (d : Nat) (s : State) : Out :=
  fin (s.runOp d 0x61 (loopSel 3) s.loopCtlCheck (State.loopCtl (fun s n => s.wr (CTL_INTEG_I.bank n) 0) d))

/-! ## TRAJ_LOAD (R409, R410, R414) -/

/-- The header of a trajectory (R403). -/
def trajHeader : Layout :=
  [(0, 0, 64), (8, 0, 64), (16, 0, 64), (24, 0, 16), (26, 0, 4), (26, 4, 4), (27, 0, 1), (27, 1, 1), (27, 2, 1),
   (27, 3, 1), (27, 4, 1), (28, 0, 24), (32, 0, 32), (36, 0, 32)]

/-- Whether the reserved fields of a trajectory are 0. -/
def trajReservedOk (t : List Byte) : Bool :=
  reservedOk trajHeader (t.take 64) && (List.range (trajN t)).all fun i => allZero t (64 + 32 * i + 24) 8

/-- TRAJ_LOAD at queue `d`. -/
def State.trajLoad (s : State) (d : Nat) : State :=
  match s.pickRec d 0x62 (fun _ => true) with
  | none => s
  | some r =>
    if s.cqRoom d (s.queue d) = false then s.wr (HIF_QSTAT_CQ_FULL.idx d) 1
    else
    let h := field r.bytes 20 4
    let off := 64 * field r.bytes 24 4
    let who := s.recWho d r 0x45
    let c := firstField [((s.objOf h).isSome, E_HANDLE, 20), (s.objFits h off 64, E_RANGE, 24)]
    if c.1 ≠ 0 then s.faultRec d r.seq c.1 c.2
    else
      let (s1, st, hd) := s.objLoad who h off 64
      let n := trajN hd
      if st ≠ 0 then s1.faultRec d r.seq st
      else if s1.objFits h off (64 + 32 * n) = false then s1.faultRec d r.seq E_RANGE 24
      else
        let (s2, st2, rest) := s1.objLoad who h (off + 64) (32 * min n 1500)
        let t := hd ++ rest
        if st2 ≠ 0 then s2.faultRec d r.seq st2
        else
          let c2 := s2.checks 4 (firstField [(trajReservedOk t, E_RESERVED, 20),
            (decide (2 ≤ n ∧ n ≤ 1500), E_RANGE, 20)])
          if c2.1 ≠ 0 then s2.faultRec d r.seq c2.1 c2.2
          else ((s2.runRec d r.seq).deliverTraj (bitsOf (field r.bytes 16 1) 0 2) t).completeRec d r.seq 0

/-- TRAJ_LOAD (R414). -/
def execTrajLoad (d : Nat) (s : State) : Out := s.unlessStalled fun s => fin (s.trajLoad d)

/-! ## Triggers and evaluations -/

/-- LOOP_PERIOD_TRIGGER (R415): the PERIOD of loop `n` passes. -/
def execLoopPeriodTrigger (n : Nat) (s : State) : Out := .next (s.periodTrigger n)

/-- LOOP_EVALUATION (R416): the engine evaluates the loop that triggered first. -/
def execLoopEvaluation (s : State) : Out := .next s.evalNext

end Sys2Proof.Machine
end

