-- ==== Sys2Proof/Machine/Registry.lean ====
section
/-!
DEFINITION. The sensor registry (R337-R343) and the ISOBUS control functions (R346).
-/
namespace Sys2Proof.Machine

/-! ## Registry entries (R338-R341) -/

/-- A registry entry. -/
def State.entry (s : State) (e : Nat) : RegEntry := tget ({} : RegEntry) s.ports.registry e

/-- The state with a registry entry replaced. -/
def State.setEntry (s : State) (e : Nat) (r : RegEntry) : State :=
  { s with ports := { s.ports with registry := tset {} s.ports.registry e r } }

/-- The 32 bytes of a registry entry (R338); every field of a FREE one reads 0. -/
def RegEntry.toBytes (r : RegEntry) : List Byte :=
  if r.state = 0 then List.replicate 32 0
  else
    leBytes 1 (r.state + (if r.bound then 4 else 0) + (if r.enable then 8 else 0) + 16 * r.kind) ++ leBytes 1 r.addr
      ++ leBytes 2 r.port ++ leBytes 8 r.key ++ leBytes 2 r.sensorId ++ leBytes 2 r.gen ++ leBytes 8 r.time
      ++ leBytes 4 r.frames ++ leBytes 4 r.drops

/-- PORT_ATTACH or PORT_DETACH (R341). -/
def State.portEvent (s : State) (code index : Nat) (r : RegEntry) (reason status : Nat) : State :=
  s.event code 0x11 r.port status
    (leBytes 1 index ++ leBytes 1 (r.kind + 16 * reason) ++ leBytes 2 r.gen ++ leBytes 6 r.key)

/-- Whether an entry records a partner. -/
def RegEntry.isFor (r : RegEntry) (kind port key : Nat) : Bool :=
  decide (r.kind = kind ∧ r.port = port ∧ r.key = key)

/-- The ATTACHED entry of a partner. -/
def State.attached (s : State) (kind port key : Nat) : Option Nat :=
  (List.range 64).find? fun e => (s.entry e).state == 1 && (s.entry e).isFor kind port key

/-- The DETACHED, unbound entry with the oldest TIME (R340). -/
def State.oldestDetached (s : State) : Option Nat :=
  (List.range 64).foldl (fun b e =>
    let r := s.entry e
    if r.state = 2 ∧ r.bound = false then
      match b with
      | none => some e
      | some x => if r.time < (s.entry x).time then some e else b
    else b) none

/-- The entry that an attach takes, with what it keeps of it (R340). -/
def State.attachPlace (s : State) (kind port key : Nat) : Option (Nat × RegEntry) :=
  match (List.range 64).find? fun e => (s.entry e).state == 2 && (s.entry e).isFor kind port key with
  | some e => some (e, s.entry e)
  | none =>
    let place := match (List.range 64).find? fun e => (s.entry e).state == 0 with
      | some e => some e
      | none => s.oldestDetached
    match place with
    | some e => some (e, { gen := (s.entry e).gen })
    | none => none

/-- A partner attaches (R339-R341); an entry that goes to another partner loses its check-value channel (R431). -/
def State.attach (s : State) (kind port key addr : Nat) : State :=
  match s.attachPlace kind port key with
  | none => s.portEvent 0x20 0xFF { kind := kind, port := port, key := key } 0 E_NORES
  | some (e, old) =>
    let r := { old with state := 1, kind := kind, port := port, key := key, addr := addr,
                        gen := (old.gen + 1) % 65536, time := s.now }
    let s0 := if old.isFor kind port key then s else s.loseChan e
    let s1 := s0.setEntry e r
    let s2 := { s1 with ports := { s1.ports with lastItem := tset 0 s1.ports.lastItem e s.tclk } }
    s2.portEvent 0x20 e r 0 0

/-- An item of an entry dropped and counted (R342, R343). -/
def State.dropItem (s : State) (e : Nat) : State :=
  let r := s.entry e
  s.setEntry e { r with drops := min (r.drops + 1) (2 ^ 32 - 1) }

/-- A camera frame in progress on a detached entry is dropped and counted (R343). -/
def State.dropOpenFrame (s : State) (e : Nat) : State :=
  (tkeys s.ports.csi fun _ f => f.isOpen && f.entry == some e).foldl (fun s k =>
    { (s.dropItem e) with ports := { (s.dropItem e).ports with csi := tset {} (s.dropItem e).ports.csi k {} } }) s

/-- An entry detaches (R339-R341, R343). -/
def State.detach (s : State) (e reason : Nat) : State :=
  let r := s.entry e
  if r.state = 1 then
    let s1 := s.dropOpenFrame e
    let r1 := { s1.entry e with state := 2, time := s.now }
    (s1.setEntry e r1).portEvent 0x21 e r1 reason 0
  else s

/-- Every attached entry of a port, in increasing index (R339). -/
def State.detachPort (s : State) (port reason : Nat) : State :=
  (List.range 64).foldl (fun s e => if (s.entry e).port = port then s.detach e reason else s) s

/-- An item that an entry heard of at this tick. -/
def State.heard (s : State) (e : Nat) : State :=
  { s with ports := { s.ports with lastItem := tset 0 s.ports.lastItem e s.tclk } }

/-- An item delivered to the fusion engine's intake where the entry is ATTACHED, BOUND and enabled, else dropped and
counted (R342); it reaches the engine no earlier than 0.1 µs after its last byte (R430).  `x` is the item without what its entry says of
it. -/
def State.deliver (s : State) (e : Nat) (x : Nectar) : State :=
  let r := s.entry e
  if r.state = 1 ∧ r.bound = true ∧ r.enable = true then
    let s1 := s.setEntry e { r with frames := min (r.frames + 1) (2 ^ 32 - 1) }
    { s1 with fus := { s1.fus with
      arriving := s1.fus.arriving ++ [{ x with sensor := r.sensorId, kind := r.kind, due := s.now + 100 }] } }
  else s.dropItem e

/-! ## ISOBUS (R346) -/

/-- The control function of a CAN port. -/
def State.isobusOf (s : State) (p : Nat) : Isobus := tget ({} : Isobus) s.ports.isobus p

/-- The state with a control function replaced. -/
def State.setIsobus (s : State) (p : Nat) (x : Isobus) : State :=
  { s with ports := { s.ports with isobus := tset {} s.ports.isobus p x } }

/-- An Address Claimed message, PGN 60928, from address `sa`; Cannot Claim is the same from the null address 254. -/
def addressClaimed (name sa : Nat) : CanFrame :=
  { id := 6 * 2 ^ 26 + 0xEE * 2 ^ 16 + 0xFF * 2 ^ 8 + sa, ide := true, data := leBytes 8 name }

/-- The control function claims an address; its frames leave through transmit buffer 0 (log entry 55). -/
def State.isobusClaim (s : State) (p addr : Nat) : State :=
  let x := s.isobusOf p
  (s.setIsobus p { x with addr := addr, claimAt := s.tclk, settled := false }).putCan p 0
    (addressClaimed x.name addr)

/-- Cannot Claim: the control function stops sending on the port. -/
def State.isobusGiveUp (s : State) (p : Nat) : State :=
  let x := s.isobusOf p
  (s.setIsobus p { x with addr := 254, silent := true, settled := false }).putCan p 0 (addressClaimed x.name 254)

/-- The lowest free address in 128-247. -/
def Isobus.freeAddr (x : Isobus) : Option Nat :=
  ((List.range 120).map (· + 128)).find? fun a => !(x.others.any fun o => o.2 == a)

/-- Our NAME loses its address (R346). -/
def State.isobusLose (s : State) (p : Nat) : State :=
  let x := s.isobusOf p
  match if x.selfConfig then x.freeAddr else none with
  | some a => s.isobusClaim p a
  | none => s.isobusGiveUp p

/-- A partner's address noted in its control function's list and in its registry entry (R346). -/
def State.noteAddr (s : State) (p name addr : Nat) : State :=
  let x := s.isobusOf p
  let s1 := s.setIsobus p { x with others := (x.others.filter (·.1 != name)) ++ [(name, addr)] }
  match s1.attached 3 (0x300 + p) name with
  | some e => s1.setEntry e { s1.entry e with addr := addr }
  | none => s1.attach 3 (0x300 + p) name addr

/-- A partner loses its address (R339): its entry detaches with REASON 3. -/
def State.loseAddr (s : State) (p name : Nat) : State :=
  let x := s.isobusOf p
  let s1 := s.setIsobus p { x with others := x.others.filter (·.1 != name) }
  match s1.attached 3 (0x300 + p) name with
  | some e => s1.detach e 3
  | none => s1

/-- An Address Claimed from a NAME (R339, R346): the NAME of lower value keeps a contested address. -/
def State.claimHeard (s : State) (p name addr : Nat) : State :=
  if addr = 254 then s.loseAddr p name
  else
    let x := s.isobusOf p
    let s1 := s.noteAddr p name addr
    let s2 := match x.others.find? fun o => o.2 == addr && o.1 != name with
      | some (other, _) => s1.loseAddr p (max other name)
      | none => s1
    if x.silent = false ∧ x.addr = addr ∧ x.name ≠ name then
      if name < x.name then s2.isobusLose p else (s2.loseAddr p name).putCan p 0 (addressClaimed x.name x.addr)
    else s2

/-- The parts of a 29-bit ISO 11783 identifier: parameter group number (0 in its low byte for a destination-specific one),
destination and source address. -/
def isoPgn (id : Nat) : Nat :=
  let pf := bitsOf id 16 8
  bitsOf id 24 2 * 65536 + pf * 256 + (if pf < 240 then 0 else bitsOf id 8 8)

/-- The attached entries of the control functions at a source address of a CAN port (R339). -/
def State.isobusEntries (s : State) (p sa : Nat) : List Nat :=
  (List.range 64).filter fun e =>
    let r := s.entry e
    decide (r.state = 1 ∧ r.kind = 3 ∧ r.port = 0x300 + p ∧ r.addr = sa)

/-- A message on an ISOBUS port (R339, R346). -/
def State.isobusMessage (s : State) (p : Nat) (f : CanFrame) : State :=
  let x := s.isobusOf p
  let sa := f.id % 256
  let s1 := (s.isobusEntries p sa).foldl (fun s e =>
    (s.setEntry e { s.entry e with frames := min ((s.entry e).frames + 1) (2 ^ 32 - 1) }).heard e) s
  if f.ide = false then s1
  else if isoPgn f.id = 60928 then s1.claimHeard p (field f.data 0 8) sa
  else if isoPgn f.id = 59904 ∧ field f.data 0 3 = 60928 ∧ (bitsOf f.id 8 8 = 255 ∨ bitsOf f.id 8 8 = x.addr) then
    s1.putCan p 0 (addressClaimed x.name x.addr)
  else s1

/-- The ISOBUS ports and the fixed sensors of the configuration take up their work at mailbox ready (R339, R346). -/
def State.startPorts (s : State) : State :=
  let s1 := (s.ports.cfg.isobus.take 2).foldl (fun s c =>
    (s.setIsobus c.port { on := true, name := c.name, selfConfig := c.selfConfig, addr := c.addr }).isobusClaim c.port c.addr) s
  (s1.ports.cfg.sensors.filter fun c => c.kind == 4 || c.kind == 5).foldl (fun s c => s.attach c.kind c.port c.key 0) s1

end Sys2Proof.Machine
end

