-- ==== Sys2Proof/Machine/CvCmds.lean ====
section
/-!
DEFINITION. The check-value commands: CV_CONFIG, CV_RUN, CV_SAVE, CV_RESTORE and CV_CHAN (R424-R428).
-/
namespace Sys2Proof.Machine

/-! ## Checks (R426) -/

/-- The checks of a parameter block at offset `off` of a record (R422), with their fields. -/
def cvParamChecks (b : List Byte) (off : Nat) : List (Bool × Nat × Nat) :=
  let p := (b.drop off).take 32
  let w := cvWidth p
  [ (decide (8 ≤ w ∧ w ≤ 64), E_RANGE, off), (decide (field p 8 8 < 2 ^ w), E_RANGE, off + 8),
    (decide (field p 16 8 < 2 ^ w), E_RANGE, off + 16), (decide (field p 24 8 < 2 ^ w), E_RANGE, off + 24) ]

/-- The unit that serves the queue of a record; unit 0 where none is bound (a live check-value queue always has one). -/
def State.recUnit (s : State) (d : Nat) : Nat := (s.cvUnitOf d).getD 0

/-- CV_CONFIG (R424): parameters loaded, running value INIT. -/
def execCvConfig (d : Nat) (s : State) : Out :=
  fin (s.runOp d 0x70 (fun _ => true) (fun r => firstField (cvParamChecks r.bytes 16)) fun s r =>
    let p := (r.bytes.drop 16).take 32
    (s.setCvUnit (s.recUnit d) (some p) (cvInit p) true).completeRec d r.seq 0)

/-! ## CV_RUN (R425, R426) -/

/-- Whether a unit holds a running value. -/
def State.cvValid (s : State) (u : Nat) : Bool := s.on (CRC_UNIT_VALID_UNITS.bit u)

/-- Check 9 of R115 for CV_RUN (R426). -/
def State.cvRunCheck (s : State) (d : Nat) (r : Rec) : Nat × Nat :=
  let b := r.bytes
  let u := s.recUnit d
  let dst := field b 36 4
  firstField
    [ (decide (field b 32 4 ≠ 0 ∧ field b 32 4 ≠ 0xFFFFFFFF), E_LEN, 32), ((s.objOf (field b 20 4)).isSome, E_HANDLE, 20),
      (dst == 0 || (s.objOf dst).isSome, E_HANDLE, 36), (decide (field b 40 8 % 8 = 0), E_ALIGN, 40),
      ((s.cvParams u).isSome && (bitsOf (field b 16 1) 0 1 == 1 || s.cvValid u), E_RANGE, 16),
      (s.objFits (field b 20 4) (field b 24 8) (field b 32 4), E_RANGE, 24),
      (if dst = 0 then field b 40 8 == 0 else s.objFits dst (field b 40 8) 8, E_RANGE, 40) ]

/-- CV_RUN (R425): it passes its checks and reads its input. -/
def execCvRun (d : Nat) (s : State) : Out := fin (s.runOp d 0x71 (fun _ => true) (s.cvRunCheck d) fun s _ => s)

/-- A CV_RUN that faults leaves the running value undefined and not valid (R427). -/
def State.cvFault (s : State) (d u seq st : Nat) : State := (s.cvLose u).faultRec d seq st

/-- CV_RUN_DONE (R425, R427): the input is consumed; with FINAL the check value goes to DST and DETAIL. -/
def execCvRunDone (d : Nat) (s : State) : Out := s.unlessStalled fun s =>
  match s.runningRec d 0x71 with
  | none => .next s
  | some r =>
    if s.pwr.enginesHeld then .next s
    else
      let b := r.bytes
      let u := s.recUnit d
      let who := s.recWho d r 0x46
      let p := (s.cvParams u).getD []
      let start := bitsOf (field b 16 1) 0 1 == 1
      let final := bitsOf (field b 16 1) 1 1 == 1
      let (s1, st, bs) := s.objLoad who (field b 20 4) (field b 24 8) (field b 32 4)
      if st ≠ 0 then fin (s1.cvFault d u r.seq st)
      else
        let crc := cvRun p (if start then cvInit p else BitVec.ofNat 64 (s1.rd (CRC_UNIT_VAL_CRC.idx u))) bs
        let v := (cvValue p crc).toNat
        let (s2, st) := if final ∧ field b 36 4 ≠ 0 then s1.objStore who (field b 36 4) (field b 40 8) (leBytes 8 v) else (s1, 0)
        if st ≠ 0 then fin (s2.cvFault d u r.seq st)
        else fin ((s2.setCvUnit u (some p) crc true).completeRec d r.seq (if final then v % 2 ^ 32 else 0))

/-! ## CV_SAVE and CV_RESTORE (R424, R427) -/

/-- Check 9 of R115 for CV_SAVE and CV_RESTORE. -/
def State.cvStateCheck (s : State) (r : Rec) : Nat × Nat :=
  let b := r.bytes
  firstField [((s.objOf (field b 16 4)).isSome, E_HANDLE, 16), (s.objFits (field b 16 4) (64 * field b 20 4) 64, E_RANGE, 20)]

/-- The 64 bytes of a unit's state (R427); a unit without parameters has a block of zeros. -/
def State.cvState (s : State) (u : Nat) : List Byte :=
  padTo 32 ((s.cvParams u).getD []) ++ leBytes 8 (s.rd (CRC_UNIT_VAL_CRC.idx u)) ++ leBytes 1 (if s.cvValid u then 1 else 0)
    ++ List.replicate 23 0

/-- CV_SAVE (R427). -/
def execCvSave (d : Nat) (s : State) : Out := s.unlessStalled fun s =>
  fin (s.runOp d 0x72 (fun _ => true) s.cvStateCheck fun s r =>
    let b := r.bytes
    let (s1, st) := s.objStore (s.recWho d r 0x46) (field b 16 4) (64 * field b 20 4) (s.cvState (s.recUnit d))
    if st ≠ 0 then s1.faultRec d r.seq st else s1.completeRec d r.seq 0)

/-- CV_RESTORE (R427): a state that fails leaves the unit as it is. -/
def execCvRestore (d : Nat) (s : State) : Out := s.unlessStalled fun s =>
  fin (s.runOp d 0x73 (fun _ => true) s.cvStateCheck fun s r =>
    let b := r.bytes
    let (s1, st, bs) := s.objLoad (s.recWho d r 0x46) (field b 16 4) (64 * field b 20 4) 64
    if st ≠ 0 then s1.faultRec d r.seq st
    else if cvParamsOk (bs.take 32) = false ∨ 1 < field bs 40 1 then s1.faultRec d r.seq E_RANGE
    else
      (s1.setCvUnit (s1.recUnit d) (some (bs.take 32)) (BitVec.ofNat 64 (field bs 32 8)) (field bs 40 1 == 1)).completeRec d r.seq 0)

/-! ## CV_CHAN (R428) -/

/-- MODE of a CV_CHAN, and the channel. -/
def chanMode (r : Rec) : Nat := bitsOf (field r.bytes 16 1) 4 2
def chanNum (r : Rec) : Nat := bitsOf (field r.bytes 16 1) 0 4

/-- Check 9 of R115 for CV_CHAN (R428). -/
def State.chanCheck (s : State) (r : Rec) : Nat × Nat :=
  let b := r.bytes
  let e := bitsOf (field b 17 1) 0 6
  let x := s.entry e
  if chanMode r = 0 then
    firstField [(field b 17 1 == 0, E_RANGE, 17), (field b 18 2 == 0, E_RANGE, 18), (field b 20 2 == 0, E_RANGE, 20),
      (allZero b 24 32, E_RANGE, 24)]
  else
    let held := (List.range 16).any fun n => n != chanNum r && (s.cvChan n).armed && (s.cvChan n).index == e
    firstField ([ (decide (chanMode r = 1), E_RANGE, 16),
      (decide (x.state ≠ 0 ∧ (x.kind = 1 ∨ x.kind = 2 ∨ x.kind = 4)) && !held, E_RANGE, 17),
      (x.gen == field b 18 2, E_RANGE, 18) ] ++ cvParamChecks b 24)

/-- CV_CHAN with MODE 1 (R428, R431): the channel is armed; a MODE that is not assigned fails here too. -/
def execCvChanVerify (d : Nat) (s : State) : Out :=
  fin (s.runOp d 0x74 (fun r => chanMode r != 0) s.chanCheck fun s r =>
    let b := r.bytes
    (s.setCvChan (chanNum r) { armed := true, index := bitsOf (field b 17 1) 0 6, skip := field b 20 2,
                               params := (b.drop 24).take 32, gen := field b 18 2 }).completeRec d r.seq 0)

/-- CV_CHAN with MODE 0 (R428): the channel is disarmed. -/
def execCvChanOff (d : Nat) (s : State) : Out :=
  fin (s.runOp d 0x74 (fun r => chanMode r == 0) s.chanCheck fun s r => (s.setCvChan (chanNum r) {}).completeRec d r.seq 0)

end Sys2Proof.Machine
end

