-- ==== Sys2Proof/Machine/Fusion.lean ====
section
/-!
DEFINITION. The fusion engine: instants (R355-R359), calibrations (R361-R363), echoes (R364, R365), projection (R368-R370),
the grid (R371, R372) and the header (R377).
-/
namespace Sys2Proof.Machine

/-! ## Time-base instants -/

/-- The ticks until the time base reaches `ns` (R347). -/
def State.ticksTo (s : State) (ns : Nat) : Nat :=
  if ns * 2 ^ 32 ≤ s.time96 then 0 else ceilDiv (ns * 2 ^ 32 - s.time96) s.tickInc.toNat

/-- Time passes until the time base reads at least `ns`. -/
def State.waitNs (s : State) (ns : Nat) : State := s.elapse (s.ticksTo ns)

/-- The instant period P in ns, HOLDOFF in ns, T_k and C_k (R355). -/
def Fusion.p (f : Fusion) : Nat := f.period * 1000000
def Fusion.hold (f : Fusion) : Nat := f.holdoff * 1000
def Fusion.tk (f : Fusion) (k : Nat) : Nat := k * f.p
def Fusion.ck (f : Fusion) (k : Nat) : Nat := k * f.p + f.hold

/-- The instant whose window holds a time: the smallest k with t ≤ T_k (R355). -/
def Fusion.windowOf (f : Fusion) (t : Int) : Nat := (-((-t) / (f.p : Int))).toNat

/-- The first instant that has not closed at a time: an instant takes what arrives in the tick of its C_k (R355, R357). -/
def Fusion.openAt (f : Fusion) (now : Nat) : Nat := ceilDiv (now - f.hold) f.p

/-- Whether an instant is past for an item that arrives now (R357): its close time has gone by. -/
def Fusion.isPast (f : Fusion) (k now : Nat) : Bool := decide (f.ck k < now)

/-- The next instant to close. -/
def State.nextInstant (s : State) : Nat := s.fus.nextClose.getD (s.fus.openAt s.now)

/-! ## Calibrations (R361-R363) -/

/-- The kind of a calibration: 1 camera, 2 lidar. -/
def calKind (c : List Byte) : Nat := bitsOf (field c 0 1) 0 4

/-- The calibration of a slot. -/
def State.calib (s : State) (slot : Nat) : List Byte := tget ([] : List Byte) s.fus.calibs slot

/-- The fields of a camera and of a lidar calibration (R361, R362). -/
def camLayout : Layout :=
  [(0, 0, 4), (1, 0, 3), (2, 0, 16), (4, 0, 16), (6, 0, 16), (8, 0, 224), (36, 0, 128), (52, 0, 160), (72, 0, 32), (76, 0, 32),
   (80, 0, 8), (81, 0, 8), (84, 0, 64)]
def lidarLayout : Layout :=
  [(0, 0, 5), (1, 0, 8), (2, 0, 16), (8, 0, 224), (36, 0, 32), (40, 0, 32), (44, 0, 16), (46, 0, 16), (48, 0, 16), (50, 0, 16),
   (52, 0, 48), (60, 0, 64), (68, 0, 160), (96, 0, 4096)]

/-- The quaternion norm of a calibration lies within 1 ± 10^-3 (R363), by its square. -/
def quatOk (c : List Byte) : Bool :=
  let sq (off : Nat) : FVal := (f32 (wordAt c off)).mul (f32 (wordAt c off))
  let n2 := (((sq 8).add (sq 12)).add (sq 16)).add (sq 20)
  let m := n2.mul (ofDyadic 1000000 0 false)
  (ofDyadic 998001 0 false).le m && m.le (ofDyadic 1002001 0 false)

/-- The data types that a camera calibration may name (R361; codes of MIPI CSI-2, log entry 56). -/
def camTypes : List Nat := [0x1E, 0x24, 0x2A, 0x2B, 0x2C, 0x2D, 0x2E]

/-- The ranges of a camera calibration (R361, R363). -/
def camOk (c : List Byte) : Bool :=
  reservedOk camLayout c && decide (16 ≤ field c 4 2 ∧ field c 4 2 ≤ 4096 ∧ 16 ≤ field c 6 2 ∧ field c 6 2 ≤ 4096)
    && flt 0 (wordAt c 36) && flt 0 (wordAt c 40) && decide (1 ≤ field c 76 4 ∧ field c 76 4 ≤ 100000)
    && camTypes.contains (field c 80 1) && decide (1 ≤ field c 81 1 ∧ field c 81 1 ≤ 200)
    && (bitsOf (field c 1 1) 0 1 == 1 || allZero c 84 8)

/-- The ranges of a lidar calibration (R362, R363). -/
def lidarOk (c : List Byte) : Bool :=
  let nch := field c 1 1
  let hdr := field c 46 2
  let npts := field c 48 2
  let stride := field c 50 2
  let opt (off w : Nat) : Bool := field c off 1 == 0xFF || decide (field c off 1 + w ≤ stride)
  reservedOk lidarLayout c && decide (1 ≤ nch ∧ nch ≤ 128) && decide (1 ≤ field c 40 4 ∧ field c 40 4 ≤ 1000000)
    && decide (1 ≤ npts ∧ npts ≤ 1024) && decide (hdr + npts * stride ≤ 9216)
    && decide (field c 52 1 + 2 ≤ stride ∧ field c 54 1 + 1 ≤ stride ∧ field c 56 1 + 2 ≤ stride ∧ field c 57 1 + 1 ≤ stride)
    && opt 53 2 && opt 55 1 && (bitsOf (field c 0 1) 4 1 == 0 || decide (field c 44 2 + 8 ≤ hdr))
    && allZero c (96 + 4 * nch) (4 * (128 - nch))

/-- Whether a calibration is one of the sensor, as R363 asks. -/
def calOk (c : List Byte) (sensor : Nat) : Bool :=
  (calKind c == 1 && camOk c || calKind c == 2 && lidarOk c) && calSensor c == sensor && quatOk c

/-! ## Points (R356, R364, R365) -/

/-- A raw point record: position in the packet, sample time, channel, azimuth, ranges and intensities. -/
structure RawPoint where
  t : Int
  ch : Nat
  az : Nat
  u1 : Nat
  i1 : Nat
  u2 : Nat
  i2 : Nat
  deriving DecidableEq, Repr

/-- The records of a packet under a calibration (R356, R362, R364). -/
def rawPoints (c : List Byte) (capture : Nat) (f : List Byte) : List RawPoint :=
  let npts := field c 48 2
  (List.range npts).map fun i =>
    let r := f.drop (field c 46 2 + i * field c 50 2)
    let u1 := field r (field c 52 1) 2
    let i1 := field r (field c 54 1) 1
    let u2 := if field c 53 1 = 0xFF then u1 else field r (field c 53 1) 2
    let t : Int := if bitsOf (field c 0 1) 4 1 = 1 then (field f (field c 44 2) 8 : Int) + (i * field c 40 4 : Nat)
      else (capture : Int) - toS32 (field c 36 4) - ((npts - 1 - i) * field c 40 4 : Nat)
    { t := t, ch := field r (field c 57 1) 1, az := field r (field c 56 1) 2, u1 := u1, i1 := i1,
      u2 := u2, i2 := if u2 = u1 ∨ field c 55 1 = 0xFF then i1 else field r (field c 55 1) 1 }

/-- Range in metres (R364). -/
def rangeOf (c : List Byte) (u : Nat) : Word := fmul (f32OfInt u) (wordAt c 60)

/-- Whether record `b` is a neighbour of record `a` within a packet (R365): the same channel at the next azimuth present, or
an adjacent channel at the same azimuth. -/
def isNeighbour (ps : List RawPoint) (a b : RawPoint) : Bool :=
  if a.ch = b.ch then
    a.az != b.az && !(ps.any fun x => x.ch == a.ch && x.u1 != 0
      && (decide (a.az < x.az ∧ x.az < b.az) || decide (b.az < x.az ∧ x.az < a.az)))
  else a.az == b.az && (a.ch + 1 == b.ch || b.ch + 1 == a.ch)

/-- 1.0 and 4.0 in FP32. -/
def fOne : Word := 0x3F800000
def fFour : Word := 0x40800000

/-- The dust likelihood of a record (R365; log entry 58). -/
def dustOf (c : List Byte) (ps : List RawPoint) (a : RawPoint) : Word :=
  let r1 := rangeOf c a.u1
  let ns := (ps.filter fun b => b.u1 != 0 && isNeighbour ps a b).take 8
  let far := ns.filter fun b => flt fOne (fabs (fsub (rangeOf c b.u1) r1))
  let f := if ns = [] then 0 else fdiv (f32OfInt far.length) (f32OfInt ns.length)
  let g := fmin (fdiv (fsub (rangeOf c a.u2) r1) fFour) fOne
  let w1 := if a.i1 < a.i2 then wordAt c 72 else 0
  let l := fadd (fadd (fadd (wordAt c 68) w1) (fmul (wordAt c 76) g)) (fmul (wordAt c 80) f)
  fmax (fmin l fOne) 0

/-- Whether a record is a return of the sensor that is not early (R357, R364) and whose sample time lies in the window of an
instant. -/
def Fusion.keeps (f : Fusion) (c : List Byte) (p : Packet) (a : RawPoint) : Bool :=
  a.u1 != 0 && decide (a.ch < field c 1 1 ∧ -(f.p : Int) < a.t ∧ a.t ≤ (f.tk (f.windowOf p.arrival + 1) : Int))

/-- The returns of a packet that belong to instant `k`: not late, not early, with a channel of the sensor (R357, R364). -/
def Fusion.packetPoints (f : Fusion) (c : List Byte) (p : Packet) (k : Nat) : List Point :=
  let ps := rawPoints c p.capture p.bytes
  (ps.filter fun a => f.keeps c p a && f.windowOf a.t == k && decide (p.arrival ≤ f.ck k)).map fun a =>
    { slot := p.slot, t := a.t, ch := a.ch, az := a.az, r1 := rangeOf c a.u1, i1 := a.i1, r2 := rangeOf c a.u2, i2 := a.i2,
      dust := dustOf c ps a }

/-! ## Intake (R357-R359, R379) -/

/-- A slot's LATE count raised: register and header (R357, R377). -/
def State.countLate (s : State) (slot n : Nat) : State :=
  let s1 := s.inc (FUS_SENS_LATE_COUNT.bank slot) n
  { s1 with fus := { s1.fus with late := tmod 0 s1.fus.late slot (· + n) } }

/-- A slot's DROP count raised. -/
def State.countDrop (s : State) (slot n : Nat) : State :=
  let s1 := s.inc (FUS_SENS_DROP_COUNT.bank slot) n
  { s1 with fus := { s1.fus with drop := tmod 0 s1.fus.drop slot (· + n) } }

/-- The mid-exposure time of a frame under a calibration (R356), in half ns. -/
def midOf (c : List Byte) (start : Nat) : Int :=
  2 * ((start : Int) + toS32 (field c 72 4)) + ((field c 6 2 - 1) * field c 76 4 : Nat)

/-- The instant whose window holds a time in half ns (R355). -/
def Fusion.windowHalf (f : Fusion) (t : Int) : Nat := (-((-t) / (2 * f.p : Nat))).toNat

/-- The samples of the open instants discarded and counted (R359, R373); the next registration starts afresh. -/
def State.discardOpen (s : State) : State :=
  let k := s.nextInstant
  let s1 := s.fus.packets.foldl (fun s p =>
    let c := s.calib p.slot
    s.countDrop p.slot ((rawPoints c p.capture p.bytes).filter fun a =>
      s.fus.keeps c p a && decide (k ≤ s.fus.windowOf a.t ∧ p.arrival ≤ s.fus.ck (s.fus.windowOf a.t))).length) s
  let s2 := s1.fus.frames.foldl (fun s f => if k ≤ s.fus.windowHalf (midOf (s.calib f.slot) f.start) then s.countDrop f.slot 1 else s) s1
  { s2 with fus := { s2.fus with packets := [], frames := [], freshMotion := true, nextClose := none } }

/-- The samples of a calibration slot in the open instants discarded and counted, when its calibration goes (R363). -/
def State.dropSlot (s : State) (slot : Nat) : State :=
  let k := s.nextInstant
  let c := s.calib slot
  let s1 := (s.fus.packets.filter (·.slot == slot)).foldl (fun s p =>
    s.countDrop slot ((rawPoints c p.capture p.bytes).filter fun a =>
      s.fus.keeps c p a && decide (k ≤ s.fus.windowOf a.t ∧ p.arrival ≤ s.fus.ck (s.fus.windowOf a.t))).length) s
  let s2 := s1.countDrop slot (s1.fus.frames.filter fun f => f.slot == slot && decide (k ≤ s.fus.windowHalf (midOf c f.start))).length
  { s2 with fus := { s2.fus with packets := s2.fus.packets.filter (·.slot != slot), frames := s2.fus.frames.filter (·.slot != slot) } }

/-- The intake of a lidar packet (R357, R363, R364, R379). -/
def State.takePacket (s : State) (x : Nectar) : State :=
  match calSlot s.fus.calibs x.sensor with
  | none => s
  | some slot =>
    let c := s.calib slot
    if calKind c ≠ 2 ∨ x.kind ≠ 2 then s.countDrop slot 1
    else if x.bytes.length < field c 46 2 + field c 48 2 * field c 50 2 then s.countDrop slot (field c 48 2)
    else
      let ps := (rawPoints c x.capture x.bytes).filter (·.u1 != 0)
      let recent := s.fus.intake.filter fun e => decide (s.tclk < e.1 + 1250000)
      if 800000 < (recent.map (·.2)).sum + ps.length then s.countDrop slot ps.length
      else
        let f := s.fus
        let n := f.windowOf s.now
        let good := ps.filter fun a => decide (a.ch < field c 1 1)
        let late := good.filter fun a => decide (a.t ≤ -(f.p : Int)) || f.isPast (f.windowOf a.t) s.now
        let early := good.filter fun a => decide ((f.tk (n + 1) : Int) < a.t)
        let s1 := (s.countDrop slot (ps.length - good.length)).countLate slot late.length
        let s2 := s1.inc (FUS_SENS_EARLY_COUNT.bank slot) early.length
        { s2 with fus := { s2.fus with
            intake := recent ++ [(s.tclk, ps.length)], packets := s2.fus.packets ++ [⟨slot, x.capture, s.now, x.bytes⟩] } }

/-- The intake of a camera frame (R357, R358, R363). -/
def State.takeFrame (s : State) (x : Nectar) : State :=
  match calSlot s.fus.calibs x.sensor with
  | none => s
  | some slot =>
    let c := s.calib slot
    if calKind c ≠ 1 then s.countDrop slot 1
    else if x.bad then s.inc (FUS_SENS_BAD_COUNT.bank slot)
    else
      let m := midOf c x.capture
      let f := s.fus
      if 2 * (f.tk (f.windowOf s.now + 1) : Int) < m then s.inc (FUS_SENS_EARLY_COUNT.bank slot)
      else
        let s1 := if f.isPast (f.windowHalf m) s.now then s.countLate slot 1 else s
        { s1 with fus := { s1.fus with frames := s1.fus.frames ++ [⟨slot, x.capture, s.now, false, x.bytes⟩] } }

/-- The frame that a camera uses for instant `k` (R358): the latest that qualifies. -/
def Fusion.chosen (f : Fusion) (slot k : Nat) : Option Frame :=
  let c := tget ([] : List Byte) f.calibs slot
  let tk : Int := 2 * f.tk k
  let mid (x : Frame) : Int := midOf c x.start
  (f.frames.filter fun x => x.slot == slot && !x.bad && decide (tk - (field c 81 1 * 2000000 : Nat) < mid x ∧ mid x ≤ tk)
      && decide (x.arrival ≤ f.ck k)).foldl (fun b x =>
    match b with
    | none => some x
    | some y => if mid y ≤ mid x then some x else b) none

/-! ## Geometry (R360, R364, R367, R368; log entry 58) -/

abbrev V3 := Word × Word × Word

/-- Sum and difference of vectors. -/
def vadd (a b : V3) : V3 := (fadd a.1 b.1, fadd a.2.1 b.2.1, fadd a.2.2 b.2.2)
def vsub (a b : V3) : V3 := (fsub a.1 b.1, fsub a.2.1 b.2.1, fsub a.2.2 b.2.2)

/-- Cross product. -/
def vcross (a b : V3) : V3 :=
  (fsub (fmul a.2.1 b.2.2) (fmul a.2.2 b.2.1), fsub (fmul a.2.2 b.1) (fmul a.1 b.2.2), fsub (fmul a.1 b.2.1) (fmul a.2.1 b.1))

/-- A vector scaled. -/
def vscale (k : Word) (a : V3) : V3 := (fmul k a.1, fmul k a.2.1, fmul k a.2.2)

/-- A vector rotated by a unit quaternion with vector part `q` and scalar part `w`: v + w t + q × t with t = 2 (q × v). -/
def rotateBy (w : Word) (q v : V3) : V3 :=
  let t := vscale 0x40000000 (vcross q v)
  vadd (vadd v (vscale w t)) (vcross q t)

/-- The quaternion and translation of a calibration. -/
def calVec (c : List Byte) (off : Nat) : V3 := (wordAt c off, wordAt c (off + 4), wordAt c (off + 8))
def rotate (c : List Byte) (v : V3) : V3 := rotateBy (wordAt c 8) (calVec c 12) v
def rotateInverse (c : List Byte) (v : V3) : V3 :=
  let q := calVec c 12
  rotateBy (wordAt c 8) (fneg q.1, fneg q.2.1, fneg q.2.2) v

/-- An echo in the machine frame at its sample time (R364, R368). -/
def echoAt (c : List Byte) (p : Point) (r : Word) : V3 :=
  let az := fmul (f32OfInt p.az) (wordAt c 64)
  let el := wordAt c (96 + 4 * p.ch)
  let h := fmul r (fcos 0 el)
  vadd (rotate c (fmul h (fcos 0 az), fmul h (fsin 0 az), fmul r (fsin 0 el))) (calVec c 24)

/-- The pose of zero motion (R366): the unit quaternion and no translation. -/
def zeroMotion : List Word := [fOne, 0, 0, 0, 0, 0, 0]

/-- Dot product and length. -/
def vdot (a b : V3) : Word := fadd (fadd (fmul a.1 b.1) (fmul a.2.1 b.2.1)) (fmul a.2.2 b.2.2)
def vlen (a : V3) : Word := fsqrt (vdot a a)

/-- The quaternion's vector part and the translation of a pose QW..TZ. -/
def poseVec (l : List Word) (n : Nat) : V3 := ((l[n]?).getD 0, (l[n + 1]?).getD 0, (l[n + 2]?).getD 0)

/-- A point taken by a pose: rotated, then translated. -/
def poseMap (l : List Word) (v : V3) : V3 := vadd (rotateBy ((l[0]?).getD fOne) (poseVec l 1) v) (poseVec l 4)

/-- Two poses one after the other: the second first. -/
def poseMul (a b : List Word) : List Word :=
  let w := (a[0]?).getD fOne
  let w' := (b[0]?).getD fOne
  let q := poseVec a 1
  let q' := poseVec b 1
  let v := vadd (vadd (vscale w q') (vscale w' q)) (vcross q q')
  let t := poseMap a (poseVec b 4)
  [fsub (fmul w w') (vdot q q'), v.1, v.2.1, v.2.2, t.1, t.2.1, t.2.2]

/-- The part `f` of the constant twist of a pose (R367): a turn by that part of its angle about its axis, and that part of its way along
the axis; without a turn, that part of its translation. -/
def posePart (l : List Word) (f : Word) : List Word :=
  let q := poseVec l 1
  let t := poseVec l 4
  let n := vlen q
  if feq n 0 then
    let u := vscale f t
    [fOne, 0, 0, 0, u.1, u.2.1, u.2.2]
  else
    let a := vscale (fdiv fOne n) q
    let arc := fmul f (farc 2 n ((l[0]?).getD fOne))
    let half := fmul 0x3F000000 arc
    let r := vscale (fsin 0 half) a
    let along := vscale (vdot a t) a
    let side := vsub t along
    let cot := fdiv ((l[0]?).getD fOne) n
    let c := vscale 0x3F000000 (vadd side (vscale cot (vcross a side)))
    let u := vadd (vscale f along) (vsub c (rotateBy (fcos 0 half) r c))
    [fcos 0 half, r.1, r.2.1, r.2.2, u.1, u.2.1, u.2.2]

/-- A point of an instant moved from time `t` to time `t'`, in half ns, by the constant twist that takes pose `l` in a window of `p` ns
(R367): its place in the machine frame at `t'`; no motion leaves it where it is. -/
def moveBy (l : List Word) (p : Nat) (v : V3) (t t' : Int) : V3 :=
  if l = zeroMotion ∨ t = t' then v else poseMap (posePart l (fdiv (f32OfInt (t - t')) (f32OfInt (2 * p : Nat)))) v

/-- A point moved by the motion of its instant, by times in ns (R367). -/
def Closed.move (x : Closed) (p : Nat) (v : V3) (t t' : Int) : V3 := moveBy x.motion.pose p v (2 * t) (2 * t')

/-- The Brown-Conrady distortion and the intrinsics of a camera (R361, R368). -/
def distort (c : List Byte) (x y : Word) : Word × Word :=
  let r2 := fadd (fmul x x) (fmul y y)
  let rad := fadd fOne (fmul r2 (fadd (wordAt c 52) (fmul r2 (fadd (wordAt c 56) (fmul r2 (wordAt c 60))))))
  let p1 := wordAt c 64
  let p2 := wordAt c 68
  let two : Word := 0x40000000
  let xy := fmul two (fmul x y)
  let xd := fadd (fadd (fmul x rad) (fmul p1 xy)) (fmul p2 (fadd r2 (fmul two (fmul x x))))
  let yd := fadd (fadd (fmul y rad) (fmul p1 (fadd r2 (fmul two (fmul y y))))) (fmul p2 xy)
  (fadd (fmul (wordAt c 36) xd) (wordAt c 44), fadd (fmul (wordAt c 40) yd) (wordAt c 48))

/-- One pass of the projection (R368), `tr` in half ns: pixel and depth, none behind or at the lens. -/
def Closed.pass (x : Closed) (p : Nat) (cam : List Byte) (pm : V3) (t tr : Int) : Option (Word × Word × Word) :=
  let q := moveBy x.motion.pose p pm (2 * t) tr
  let pc := rotateInverse cam (vsub q (calVec cam 24))
  if flt pc.2.2 0x3DCCCCCD then none
  else
    let (u, v) := distort cam (fdiv pc.1 pc.2.2) (fdiv pc.2.1 pc.2.2)
    some (u, v, pc.2.2)

/-- The projection of an echo into a camera whose frame starts at `start` with mid-exposure `m`, in half ns (R368): the pixel and the
depth where the echo is seen. -/
def Closed.project (x : Closed) (p : Nat) (cam : List Byte) (start m : Int) (pm : V3) (t : Int) : Option (Nat × Nat × Word) :=
  match x.pass p cam pm t m with
  | none => none
  | some (_, v, _) =>
    let row : Int := start + toS32 (field cam 72 4)
      + (f32 (fmul v (f32OfInt (field cam 76 4)))).floor
    match x.pass p cam pm t (2 * row) with
    | none => none
    | some (u', v', z) =>
      let ui := (f32 u').floor
      let vi := (f32 v').floor
      if ffinite u' ∧ ffinite v' ∧ 0 ≤ ui ∧ ui < (field cam 4 2 : Nat) ∧ 0 ≤ vi ∧ vi < (field cam 6 2 : Nat) then
        some (ui.toNat, vi.toNat, z) else none

/-! ## Echoes of an instant (R365) -/

/-- An echo in work: its return, which echo it is, whether it is a dust echo, whether it follows one, and its place in the
machine frame at its sample time. -/
structure Echo where
  pt : Point
  intensity : Nat
  isDust : Bool
  afterDust : Bool
  pm : V3
  deriving DecidableEq, Repr

/-- The echoes of a return (R364, R365): the dust echo and the surfaces. -/
def Closed.echoes (x : Closed) (p : Point) : List Echo :=
  let c := tget ([] : List Byte) x.calibs p.slot
  let first := echoAt c p p.r1
  let last := echoAt c p p.r2
  if fle (wordAt c 84) p.dust then
    (if p.r2 = p.r1 then [] else [⟨p, p.i1, true, false, first⟩]) ++ [⟨p, p.i2, false, true, last⟩]
  else ⟨p, p.i1, false, false, first⟩ :: (if p.r2 = p.r1 then [] else [⟨p, p.i2, false, false, last⟩])

/-! ## The grid (R371, R372) -/

/-- Voxel coordinates of a place in the machine frame, in units of 1 / 25 voxel times 2^-160, exact (R371). -/
def fixed (v : FVal) : Int :=
  match v with
  | .fin n m e => (if n then -1 else 1) * ((m * 2 ^ (e + 160).toNat : Nat) : Int)
  | _ => 0
def unit : Int := 25 * 2 ^ 160
def gridAt (z0 : Int) (v : V3) : Int × Int × Int :=
  (125 * fixed (f32 v.1) + 256 * unit, 125 * fixed (f32 v.2.1) + 256 * unit, 100 * fixed (f32 v.2.2) - z0 * 2 ^ 160)

/-- Whether a place is finite: no voxel holds another (R371). -/
def vfinite (v : V3) : Bool := ffinite v.1 && ffinite v.2.1 && ffinite v.2.2

/-- The voxel that holds exact coordinates, where it lies in the grid: its word index (R371). -/
def voxelAt (x y z : Int) : Option Nat :=
  if 0 ≤ x ∧ x < 512 ∧ 0 ≤ y ∧ y < 512 ∧ 0 ≤ z ∧ z < 32 then some ((z.toNat * 512 + y.toNat) * 512 + x.toNat) else none

/-- How far along the way from `a` towards `a + d` the coordinate leaves its voxel `i`, as a fraction: numerator and a
positive denominator; never where it does not move. -/
def leaveAt (a d i : Int) : Option (Int × Int) :=
  if d = 0 then none else if 0 < d then some ((i + 1) * unit - a, d) else some (a - i * unit, -d)

/-- The smaller of two fractions. -/
def lesser (a b : Option (Int × Int)) : Option (Int × Int) :=
  match a, b with
  | none, b => b
  | a, none => a
  | some (n, d), some (n', d') => if n * d' ≤ n' * d then some (n, d) else some (n', d')

/-- Whether a fraction equals another. -/
def sameFrac (a b : Option (Int × Int)) : Bool :=
  match a, b with
  | some (n, d), some (n', d') => n * d' == n' * d
  | _, _ => false

/-- The voxels that the way from a surface towards the sensor crosses, the surface's own left out, at most `n` (R372). -/
def crossed (a d : Int × Int × Int) : Nat → Int × Int × Int → List (Int × Int × Int)
  | 0, _ => []
  | n + 1, (i, j, k) =>
    let lx := leaveAt a.1 d.1 i
    let ly := leaveAt a.2.1 d.2.1 j
    let lz := leaveAt a.2.2 d.2.2 k
    match lesser (lesser lx ly) lz with
    | none => []
    | some (num, den) =>
      if den ≤ num then []
      else
        let go (l : Option (Int × Int)) (x dx : Int) : Int := if sameFrac l (some (num, den)) then (if 0 < dx then x + 1 else x - 1) else x
        let v := (go lx i d.1, go ly j d.2.1, go lz k d.2.2)
        v :: crossed a d n v

/-- What a grid voxel gathers: hits and passes by stream, the highest intensity of a hit, the highest DUST, and whether a
dust echo lies in it. -/
structure Vox where
  hits : Table Nat := []
  passes : Table Nat := []
  int : Nat := 0
  dust : Nat := 0
  dusty : Bool := false
  deriving DecidableEq, Repr

/-- DUST of a likelihood: ⌊255 × L + 0.5⌋ (R371). -/
def dustByte (l : Word) : Nat := (((f32 l).mul (ofDyadic 510 0 false)).add (ofDyadic 1 0 false)).floor.toNat / 2

/-- An echo entered into the grid (R371, R372); a place that is not finite lies in no voxel. -/
def Closed.enter (x : Closed) (f : Fusion) (g : Table Vox) (e : Echo) : Table Vox :=
  let c := tget ([] : List Byte) x.calibs e.pt.slot
  let tk : Int := f.tk x.k
  let place := x.move f.p e.pm e.pt.t tk
  if vfinite place = false then g else
  let a := gridAt f.z0 place
  let here := (a.1 / unit, a.2.1 / unit, a.2.2 / unit)
  let g1 := match voxelAt here.1 here.2.1 here.2.2 with
    | none => g
    | some i =>
      tmod {} g i fun v =>
        if e.isDust then { v with dusty := true, dust := max v.dust (dustByte e.pt.dust) }
        else { v with hits := tmod 0 v.hits e.pt.slot (· + 1), int := max v.int e.intensity,
                      dust := max v.dust (dustByte e.pt.dust) }
  let from_ := x.move f.p (calVec c 24) e.pt.t tk
  if e.isDust ∨ vfinite from_ = false then g1
  else
    let o := gridAt f.z0 from_
    let d := (o.1 - a.1, o.2.1 - a.2.1, o.2.2 - a.2.2)
    (crossed a d 256 here).foldl (fun g v =>
      match voxelAt v.1 v.2.1 v.2.2 with
      | none => g
      | some i => tmod {} g i fun w => { w with passes := tmod 0 w.passes e.pt.slot (· + 1) }) g1

/-- The voxel that holds an echo at T_k (R371). -/
def Closed.voxelOf (x : Closed) (f : Fusion) (e : Echo) : Option Nat :=
  let v := x.move f.p e.pm e.pt.t (f.tk x.k : Nat)
  let a := gridAt f.z0 v
  if vfinite v then voxelAt (a.1 / unit) (a.2.1 / unit) (a.2.2 / unit) else none

/-- The grid of a closed instant: a return's rays lead to its first surface echo (R372). -/
def Closed.grid (x : Closed) (f : Fusion) : Table Vox :=
  x.points.foldl (fun g p =>
    let es := x.echoes p
    let firsts := es.filter (·.isDust) ++ (es.filter (!·.isDust)).take 1
    let seconds := (es.filter (!·.isDust)).drop 1
    let g1 := firsts.foldl (fun g e => x.enter f g e) g
    seconds.foldl (fun g e =>
      match x.voxelOf f e with
      | none => g
      | some i => tmod {} g i fun v => { v with hits := tmod 0 v.hits e.pt.slot (· + 1), int := max v.int e.intensity,
                                                dust := max v.dust (dustByte e.pt.dust) }) g1) []

/-- The streams that observe a voxel, with hits and hits + passes (R372). -/
def Vox.observers (v : Vox) (nMin : Nat) : List (Nat × Nat) :=
  ((List.range 32).map fun s => (tget 0 v.hits s, tget 0 v.hits s + tget 0 v.passes s)).filter fun x => decide (nMin ≤ x.2)

/-- CONTRA of a voxel (R372). -/
def Vox.contra (v : Vox) (f : Fusion) : Bool :=
  let o := v.observers f.nMin
  (o.any fun x => decide (f.occHi * x.2 ≤ 255 * x.1)) && (o.any fun x => decide (255 * x.1 ≤ f.freeLo * x.2))

/-- A voxel word (R371). -/
def Vox.word (v : Vox) (f : Fusion) : Nat :=
  let o := v.observers f.nMin
  let occ := o.foldl (fun b x => max b ((510 * x.1 + x.2) / (2 * x.2))) 0
  occ + 2 ^ 8 * v.int + 2 ^ 16 * v.dust + (if o = [] then 0 else 2 ^ 24) + (if v.contra f then 2 ^ 25 else 0)
    + (if v.dusty ∧ v.hits = [] then 2 ^ 26 else 0) + 2 ^ 27 * min o.length 16

/-! ## Camera tensors (R361, R369, R370) -/

/-- A RAW sample of a frame as counts (R333; the packing of MIPI CSI-2, log entry 56). -/
def rawCount (dtype w x y : Nat) (bs : List Byte) : Nat :=
  let line (bits : Nat) : Nat := ceilDiv (w * bits) 8
  let part (bits per unit : Nat) : Nat :=
    -- `per` pixels share `unit` bytes: their high bytes first, then the low bits, pixel 0 lowest
    let base := y * line bits + x / per * unit
    field bs (base + x % per) 1 * 2 ^ (bits - 8) + bitsOf (field bs (base + per) (unit - per)) (x % per * (bits - 8)) (bits - 8)
  if dtype = 0x2A then field bs (y * w + x) 1
  else if dtype = 0x2B then part 10 4 5
  else if dtype = 0x2C then part 12 2 3
  else if dtype = 0x2D then part 14 4 7
  else field bs (2 * (y * w + x)) 2

/-- The bits of a sample. -/
def rawBits (dtype : Nat) : Nat :=
  if dtype = 0x2B then 10 else if dtype = 0x2C then 12 else if dtype = 0x2D then 14 else if dtype = 0x2E then 16 else 8

/-- The colour (0 R, 1 G, 2 B) of a Bayer site (R361). -/
def bayerColour (pat x y : Nat) : Nat :=
  let s := (x + (if pat = 1 ∨ pat = 3 then 1 else 0)) % 2 + 2 * ((y + (if pat = 2 ∨ pat = 3 then 1 else 0)) % 2)
  if s = 0 then 0 else if s = 3 then 2 else 1

/-- A colour channel (0 R, 1 G, 2 B) of a pixel in 8-bit Y, Cb and Cr under ITU-R BT.601, held to 0-1 (R361, R369): black is Y 16, white
235, and the colour differences lie around 128 in 224 steps (PRESUMED; log entry 144). -/
def yuvRgb (y cb cr ch : Nat) : Word :=
  let l := fdiv (f32OfInt ((y : Int) - 16)) (f32OfInt 219)
  let b := fdiv (f32OfInt ((cb : Int) - 128)) (f32OfInt 224)
  let r := fdiv (f32OfInt ((cr : Int) - 128)) (f32OfInt 224)
  let v := if ch = 0 then fadd l (fmul 0x3FB374BC r)
    else if ch = 1 then fsub (fsub l (fmul 0x3EB032A2 b)) (fmul 0x3F36D1A3 r)
    else fadd l (fmul 0x3FE2D0E5 b)
  fmax (fmin v fOne) 0

/-- A colour channel of an RGB pixel in 0-1 (R361, R369): bilinear demosaicing is the mean of the channel's samples in the
3 × 3 neighbourhood, or the sample itself. -/
def rgbPixel (c : List Byte) (bs : List Byte) (x y ch : Nat) : Word :=
  let w := field c 4 2
  let h := field c 6 2
  let d := field c 80 1
  if d = 0x24 then fdiv (f32OfInt (field bs (3 * (y * w + x) + (2 - ch)) 1)) (f32OfInt 255)
  else if d = 0x1E then
    let b := 2 * (y * w + x / 2 * 2)
    yuvRgb (field bs (2 * (y * w + x) + 1) 1) (field bs b 1) (field bs (b + 2) 1) ch
  else
    let pat := bitsOf (field c 1 1) 1 2
    let full : Nat := 2 ^ rawBits d - 1
    let sites := if bayerColour pat x y = ch then [(x, y)]
      else ([0, 1, 2].flatMap fun i => [0, 1, 2].map fun j => (x + i, y + j)).filterMap fun q =>
        if 1 ≤ q.1 ∧ 1 ≤ q.2 ∧ q.1 ≤ w ∧ q.2 ≤ h ∧ bayerColour pat (q.1 - 1) (q.2 - 1) = ch then some (q.1 - 1, q.2 - 1) else none
    fdiv (f32OfInt ((sites.map fun q => rawCount d w q.1 q.2 bs).sum : Nat)) (f32OfInt (sites.length * full : Nat))

/-- Kelvin of a thermal pixel (R361). -/
def kelvin (c : List Byte) (bs : List Byte) (x y : Nat) : Word :=
  fadd (fmul (f32OfInt (rawCount (field c 80 1) (field c 4 2) x y bs)) (wordAt c 84)) (wordAt c 88)

/-- The pixel value of a camera in a plane: 3 THERMAL, 4-6 R, G, B; none for the planes of the other modality. -/
def pixelIn (c : List Byte) (bs : List Byte) (plane x y : Nat) : Option Word :=
  if bitsOf (field c 1 1) 0 1 = 1 then (if plane = 3 then some (kelvin c bs x y) else none)
  else if 4 ≤ plane then some (rgbPixel c bs x y (plane - 4)) else none

/-- What an output pixel keeps (R369, R370): depth, the echo and its pixel. -/
structure Kept where
  depth : Word
  echo : Echo
  deriving DecidableEq, Repr

/-- Whether an echo replaces the one that an output pixel keeps (R370): smaller DEPTH, then lower SENSOR_ID, then earlier
sample time. -/
def Closed.nearer (x : Closed) (a b : Kept) : Bool :=
  let id (k : Kept) : Nat := calSensor (tget ([] : List Byte) x.calibs k.echo.pt.slot)
  flt a.depth b.depth || (!flt b.depth a.depth && (decide (id a < id b) || (id a == id b && decide (a.echo.pt.t < b.echo.pt.t))))

/-- The frame-start time, and the mid-exposure time in half ns, by which a camera projects: its frame's, or T_k where it has none (log
entry 59). -/
def Closed.times (x : Closed) (f : Fusion) (slot : Nat) : Int × Int :=
  match x.frames.find? (·.1 == slot) with
  | some (_, fr) => (fr.start, midOf (tget ([] : List Byte) x.calibs slot) fr.start)
  | none => ((f.tk x.k : Nat), (2 * f.tk x.k : Nat))

/-- The surface echoes of an instant. -/
def Closed.surfaces (x : Closed) : List Echo := x.points.flatMap fun p => (x.echoes p).filter (!·.isDust)

/-- The kept echo of every output pixel of a camera, by y × width + x (R368, R370). -/
def Closed.zbuffer (x : Closed) (f : Fusion) (slot ds : Nat) : Table (Option Kept) :=
  let cam := tget ([] : List Byte) x.calibs slot
  let wo := field cam 4 2 / ds
  let ho := field cam 6 2 / ds
  let tm := x.times f slot
  x.surfaces.foldl (fun t e =>
    match x.project f.p cam tm.1 tm.2 e.pm e.pt.t with
    | none => t
    | some (u, v, z) =>
      if u / ds < wo ∧ v / ds < ho then
        tmod none t (v / ds * wo + u / ds) fun o =>
          match o with
          | none => some ⟨z, e⟩
          | some k => if x.nearer ⟨z, e⟩ k then some ⟨z, e⟩ else some k
      else t) []

/-- The sample of the other modality at an echo, in a plane (R368): of the camera with the lowest SENSOR_ID that sees it;
none for a camera without a frame, whose tensor carries lidar planes only (R358). -/
def Closed.crossSample (x : Closed) (f : Fusion) (slot : Nat) (e : Echo) (plane : Nat) : Option Word :=
  let mine := tget ([] : List Byte) x.calibs slot
  let seen := x.frames.filterMap fun (sl, fr) =>
    let c := tget ([] : List Byte) x.calibs sl
    if calKind c ≠ 1 ∨ bitsOf (field c 1 1) 0 1 = bitsOf (field mine 1 1) 0 1 then none
    else match x.project f.p c fr.start (midOf c fr.start) e.pm e.pt.t with
      | none => none
      | some (u, v, _) => (pixelIn c fr.bytes plane u v).map fun w => (calSensor c, w)
  if (x.frames.any (·.1 == slot)) = false then none
  else (seen.foldl (fun b y => match b with
    | none => some y
    | some z => if y.1 < z.1 then some y else b) none).map (·.2)

/-- The mean of DS × DS pixels (R369). -/
def meanPixel (c : List Byte) (bs : List Byte) (plane ds x y : Nat) : Option Word :=
  match pixelIn c bs plane (x * ds) (y * ds) with
  | none => none
  | some _ =>
    let sum := ((List.range (ds * ds)).map fun i => (pixelIn c bs plane (x * ds + i % ds) (y * ds + i / ds)).getD 0).foldl fadd 0
    some (fdiv sum (f32OfInt (ds * ds : Nat)))

/-- An FP32 value as an FP16 element. -/
def half (w : Word) : List Byte := leBytes 2 (convFromF32 5 w)

/-- Element (plane, y, x) of a camera's tensor (R369). -/
def Closed.element (x : Closed) (f : Fusion) (g : Table Vox) (slot ds : Nat) (zb : Table (Option Kept)) (plane py px : Nat) :
    List Byte :=
  let cam := tget ([] : List Byte) x.calibs slot
  let own := match x.frames.find? (·.1 == slot) with
    | some (_, fr) => meanPixel cam fr.bytes plane ds px py
    | none => none
  let kept := tget none zb (py * (field cam 4 2 / ds) + px)
  match kept with
  | none => if 3 ≤ plane ∧ plane ≤ 6 then half (own.getD 0) else [0, 0]
  | some k =>
    let e := k.echo
    let cross (p : Nat) : Option Word := x.crossSample f slot e p
    let other := if bitsOf (field cam 1 1) 0 1 = 1 then 4 else 3
    let con := match x.voxelOf f e with
      | some i => (tget ({} : Vox) g i).contra f
      | none => false
    if plane = 0 then half k.depth
    else if plane = 1 then half (fdiv (f32OfInt e.intensity) (f32OfInt 255))
    else if plane = 2 then half e.pt.dust
    else if plane = 7 then
      leBytes 2 (1 + (if e.afterDust then 2 else 0) + (if con then 4 else 0) + (if (cross other).isSome then 8 else 0))
    else
      match own with
      | some w => half w
      | none => half ((cross plane).getD 0)

/-- The rows of a camera's tensor, each with its offset (R369). -/
def Closed.tensor (x : Closed) (f : Fusion) (g : Table Vox) (slot ds rs : Nat) : List (Nat × List Byte) :=
  let cam := tget ([] : List Byte) x.calibs slot
  let wo := field cam 4 2 / ds
  let ho := field cam 6 2 / ds
  let zb := x.zbuffer f slot ds
  (List.range (8 * ho)).map fun r =>
    (r * rs, (List.range wo).flatMap fun px => x.element f g slot ds zb (r / ho) (r % ho) px)

/-! ## The header (R377) -/

/-- The number of voxels with CONTRA. -/
def contraCount (f : Fusion) (g : Table Vox) : Nat := (g.filter fun e => e.2.contra f).length

/-- The 512 bytes of a header. -/
def Closed.header (x : Closed) (f : Fusion) (g : Table Vox) (outTime : Nat) : List Byte :=
  let flags := (if x.motion.init then 1 else 0) + (if x.motion.degraded then 2 else 0) + (if x.overflow then 4 else 0)
  let slots := (List.range 32).flatMap fun j =>
    let c := tget ([] : List Byte) x.calibs j
    let noframe := calKind c == 1 && !(x.frames.any (·.1 == j))
    leBytes 2 (calSensor c) ++ leBytes 2 ((if c = [] then 0 else 1) + (if noframe then 2 else 0))
      ++ leBytes 2 (min (tget 0 x.late j) 0xFFFF) ++ leBytes 2 (min (tget 0 x.drop j) 0xFFFF)
  padTo 512 (leBytes 8 outTime ++ leBytes 8 x.k ++ leBytes 4 flags ++ leBytes 4 x.points.length
    ++ (x.motion.pose.flatMap fun w => leBytes 4 w.toNat) ++ leBytes 4 x.motion.q.toNat ++ leBytes 4 (contraCount f g)
    ++ List.replicate 4 0 ++ slots)

/-! ## Closing an instant (R355, R366, R376) -/

/-- The FUSE_COLLECT records that wait at the close of instant `k`, in doorbell-slot order (R376). -/
def State.collectors (s : State) (k : Nat) : List (Nat × Nat) :=
  (List.range 128).flatMap fun d =>
    let q := s.queue d
    if q.live then (q.recs.filter fun r => decide (r.phase = .running ∧ r.op = 0x40 ∧ r.startNs ≤ s.fus.ck k)).map fun r => (d, r.seq) else []

/-- A candidate of the registration (R366): its translation in units of 0.2 m, and yaw, roll and pitch in units of 0.125°. -/
structure RegPose where
  x : Int := 0
  y : Int := 0
  z : Int := 0
  yaw : Int := 0
  roll : Int := 0
  pitch : Int := 0
  deriving DecidableEq, Repr

/-- The turn by `n` units of 0.125° about an axis. -/
def turn (n : Int) (axis : V3) : List Word :=
  let half := fmul (f32OfInt n) 0x3A8EFA35
  let v := vscale (fsin 0 half) axis
  [fcos 0 half, v.1, v.2.1, v.2.2, 0, 0, 0]

/-- The pose of a candidate: roll about x, then pitch about y, then yaw about z, then the translation (DESIGN CHOICE; log entry 60). -/
def RegPose.pose (c : RegPose) : List Word :=
  let m (n : Int) : Word := fdiv (f32OfInt n) (f32OfInt 5)
  let r := poseMul (turn c.yaw (0, 0, fOne)) (poseMul (turn c.pitch (0, fOne, 0)) (turn c.roll (fOne, 0, 0)))
  r.take 4 ++ [m c.x, m c.y, m c.z]

/-- The multiples of `step` from -n × step to n × step. -/
def steps (n : Nat) (step : Int) : List Int := (List.range (2 * n + 1)).map fun i => ((i : Int) - n) * step

/-- The candidates of a level around a result (R366): level 0 has voxels of 0.8 m, 1 of 0.4 m, 2 of 0.2 m. -/
def RegPose.around (c : RegPose) (level : Nat) : List RegPose :=
  let u : Int := if level = 0 then 4 else if level = 1 then 2 else 1
  let wide := if level = 0 then 4 else 1
  let low := if level = 0 then 2 else 1
  (steps wide u).flatMap fun x => (steps wide u).flatMap fun y => (steps low u).flatMap fun z =>
    (steps wide u).flatMap fun yaw => (steps low u).flatMap fun roll => (steps low u).map fun pitch =>
      ⟨c.x + x, c.y + y, c.z + z, c.yaw + yaw, c.roll + roll, c.pitch + pitch⟩

/-- The voxel of 0.8 m, 0.4 m or 0.2 m that holds a finite place (R366). -/
def levelVoxel (level : Nat) (v : V3) : Int × Int × Int :=
  let cut (w : Word) : Int := 5 * 2 ^ level * fixed (f32 w) / (4 * 2 ^ 160)
  (cut v.1, cut v.2.1, cut v.2.2)

/-- The voxels that a scan occupies at a level. -/
def occupied (level : Nat) (l : List V3) : List (Int × Int × Int) := ((l.filter vfinite).map (levelVoxel level)).eraseDups

/-- The voxels occupied in both scans, the new one taken by a pose (R366). -/
def overlap (level : Nat) (old new : List V3) (pose : List Word) : Nat :=
  let o := occupied level old
  ((occupied level (new.map (poseMap pose))).filter o.contains).length

/-- The result of a level: a candidate with the greatest overlap; of several, one that spec/ does not name (log entry 60). -/
def bestAt (k level : Nat) (old new : List V3) (around : RegPose) : RegPose :=
  let l := (around.around level).map fun c => (c, overlap level old new c.pose)
  let top := (l.map (·.2)).foldl max 0
  let ties := l.filter (·.2 == top)
  ((ties[Config.levelPick k level % ties.length]?).map (·.1)).getD around

/-- The pose that the three levels find for the scan of instant `k` (R366). -/
def registerScan (k : Nat) (old new : List V3) : List Word :=
  (bestAt k 2 old new (bestAt k 1 old new (bestAt k 0 old new {}))).pose

/-- The quality of a registration (R366): the overlap at 0.2 m over the voxels that the instant occupies; not stated where it occupies
none. -/
def quality (k : Nat) (old new : List V3) (pose : List Word) : Word :=
  let n := (occupied 2 (new.map (poseMap pose))).length
  if n = 0 then Config.noQuality k else fdiv (f32OfInt (overlap 2 old new pose : Nat)) (f32OfInt n)

/-- The motion of instant `k` (R366), whose surface echoes moved by the twist of the instant before are `new`: the result of the levels,
refined where the tracker followed a corner; of a camera's corners it follows 256 (R379). -/
def Fusion.nextMotion (f : Fusion) (k : Nat) (new : List V3) (refine : List Word) (corners : List Nat) : Motion :=
  let tracks := corners.map (min · 256)
  if f.freshMotion then { pose := zeroMotion, q := Config.noQuality k, init := true, tracks := tracks }
  else
    let found := registerScan k f.scan new
    let pose := if tracks.any (0 < ·) then poseMul found refine else found
    let q := quality k f.scan new pose
    if flt q 0x3F000000 then { pose := f.motion.pose, q := q, init := false, degraded := true, tracks := tracks }
    else { pose := pose, q := q, init := false, tracks := tracks }

/-- The surface echoes of an instant in the machine frame at T_k, moved by the twist of a pose (R367). -/
def Closed.scanBy (x : Closed) (f : Fusion) (pose : List Word) : List V3 :=
  x.surfaces.map fun e => moveBy pose f.p e.pm (2 * e.pt.t) (2 * f.tk x.k : Nat)

/-- What instant `k` holds at its close (R357, R358, R379). -/
def State.closedInstant (s : State) (k : Nat) (refine : List Word) (corners : List Nat) : Closed :=
  let f := s.fus
  let all := f.packets.flatMap fun p => f.packetPoints (s.calib p.slot) p k
  let x : Closed :=
    { k := k, closeAt := s.now, points := all.take 8388608, motion := {},
      frames := (List.range 32).filterMap fun j =>
        if calKind (s.calib j) = 1 then (f.chosen j k).map fun fr => (j, fr) else none,
      overflow := decide (8388608 < all.length), late := f.late, drop := f.drop, calibs := f.calibs,
      collectors := s.collectors k }
  { x with motion := f.nextMotion k (x.scanBy f f.motion.pose) refine corners }

/-- Instant `k` closes. -/
def State.closeInstant (s : State) (k : Nat) (refine : List Word) (corners : List Nat) : State :=
  let f := s.fus
  let over8 := (f.packets.flatMap fun p => f.packetPoints (s.calib p.slot) p k).drop 8388608
  let s0 := over8.foldl (fun s p => s.countDrop p.slot 1) s
  let x := s0.closedInstant k refine corners
  let s1 := (((((s0.wr FUS_INSTANT_K k).wr FUS_NPTS_COUNT x.points.length).wr FUS_CONTRA_COUNT (contraCount f (x.grid f))).wrB
    FUS_STATUS_EGO_DEGRADED x.motion.degraded).wrB FUS_STATUS_OVERFLOW x.overflow)
  let s2 := if x.collectors = [] then s1.inc FUS_UNCOLLECTED_COUNT else s1
  let win : Int := 2 * ((f.tk k : Int) - 200000000)
  { s2 with fus := { s2.fus with
      packets := f.packets.filter (fun p => decide (k ≤ f.windowOf p.arrival)),
      frames := f.frames.filter (fun fr => decide (win < midOf (s.calib fr.slot) fr.start)),
      late := [], drop := [], motion := x.motion, scan := x.scanBy f x.motion.pose, freshMotion := false, overflow := x.overflow, nextClose := some (k + 1),
      closed := if x.collectors = [] then none else some x } }

end Sys2Proof.Machine
end

