-- ==== Sys2Proof/Machine/Window.lean ====
section
/-!
DEFINITION. The host's accesses to device memory through the DRAM window (R73-R76), and those that wait (R43, R322).
-/
namespace Sys2Proof.Machine

/-- The device address that offset `x` of BAR2 reaches (R73): BASE bits below the window size are ignored. -/
def State.winAddr (s : State) (x : Nat) : Nat :=
  let w := 2 ^ s.hif.winLog2
  s.rd HIF_WIN_BASE_BASE * 2 ^ 28 / w * w + x

/-- Whether `n` bytes at offset `x` lie within BAR2. -/
def State.inWindow (s : State) (x n : Nat) : Bool := decide (x + n ≤ 2 ^ s.hif.winLog2)

/-- Whether one of `n` bytes lies on an excluded pair (R14). -/
def State.spanExcluded (s : State) (a n : Nat) : Bool := (List.range n).any fun k => s.addrExcluded (a + k)

/-- Whether all of `n` bytes lie in objects that the host may reach (R326). -/
def State.spanVisible (s : State) (a n : Nat) : Bool := (List.range n).all fun k => s.allowed hostWho (a + k)

/-- A read of `n` bytes by the host (R75, R293, R304, R305, R327, R328). -/
def State.windowRead (s : State) (a n : Nat) : State :=
  if s.spanExcluded a n then (s.wr HIF_STATUS_WIN_ERR 1).hostGets .unsupportedRequest
  else
    let s0 := s.findSpan hostWho a n
    let s1 := s0.passSpan hostWho false a n
    if s.spanVisible a n = false then (s1.wr HIF_STATUS_WIN_ERR 1).hostGets .completerAbort
    else if s0.rangePoisoned a n then (s1.wr HIF_STATUS_WIN_POISON 1).hostGets (.poisoned (memRead s.dram a n))
    else s1.hostGets (.data (memRead s.dram a n))

/-- A write by the host (R75, R293, R327, R328). -/
def State.windowWrite (s : State) (a : Nat) (bs : List Byte) : State :=
  if s.spanExcluded a bs.length then s.wr HIF_STATUS_WIN_ERR 1
  else
    let s1 := s.passSpan hostWho true a bs.length
    if s.spanVisible a bs.length = false then s1.wr HIF_STATUS_WIN_ERR 1 else s1.memStore a bs

/-- An access of the host as it is made. -/
def State.windowAccess (s : State) (x : WinAccess) : State :=
  match x.bytes with
  | none => s.windowRead x.addr x.size
  | some bs => s.windowWrite x.addr bs

/-- An access of the host: it waits behind one that waits, and where its own requests have to wait (R43, R76, R322). -/
def State.hostAccess (s : State) (x : WinAccess) : State :=
  let hold := { s with pkg := { s.pkg with winHeld := s.pkg.winHeld ++ [x] } }
  if s.unhindered then s.windowAccess x
  else if s.pkg.winHeld ≠ [] then hold
  else
    let t := s.watched.windowAccess x
    if t.pkg.watch = some true then hold else t.unwatched

/-- The host's accesses that waited are made, in their order, as far as they can (R43, R76). -/
def State.replayHost (s : State) : State :=
  s.pkg.winHeld.foldl State.hostAccess { s with pkg := { s.pkg with winHeld := [] } }

end Sys2Proof.Machine
end

