-- ==== Sys2Proof/Machine/Traffic.lean ====
section
/-!
DEFINITION. Requests between their network interface, the links and the controllers (R41, R43, R293-R297, R303-R310, R315-R324,
R327), what waits on a link that retrains, and the loss of a link (R43).
-/
namespace Sys2Proof.Machine

/-! ## The error log of requests (R309) -/

/-- A log entry about words of a request, numbered from its first: the first of them and how many (R309). -/
def State.logReq (s : State) (d kind : Nat) (q : ChanReq) (words : List Nat) : State :=
  let sys := decide (16 ≤ q.req.label)
  let a := q.req.addr + 64 * words.headD 0
  s.logDram d kind (s.dieOffset a).2 words.length a (if sys then 0 else q.req.label) (if sys then 0 else q.colony) q.req.source 1

/-! ## Identity (R41, R280, R315-R317) -/

/-- Whether an address lies in a honey page that a successful open or an allocation of a comb names (R315). -/
def State.honeyNamed (s : State) (g a : Nat) : Bool :=
  let c := s.comb g
  (c.leftOpen ++ c.attn.elim [] fun x => (x.opened ++ x.got).map (·.2)).any fun n =>
    decide (s.pageAddr n ≤ a ∧ a < s.pageAddr n + 16384)

/-- Who the network interface says a request comes from (R315, R316): a system label by its SOURCE, else the task label that its
record or descriptor names with the colony that holds it; HONEY only for a page that an open or an allocation names; the deadline
that a comb or an engine supplies, 1,024 ticks for others (R317); the HINT that the access carries (R294). -/
def State.niWho (s : State) (r : DramReq) : Who :=
  let dl := if r.source < 64 ∨ (0x43 ≤ r.source ∧ r.source ≤ 0x46) then r.deadline.getD 1024 % 65536 else 1024
  let honey := r.honey && decide (r.source < 64) && s.honeyNamed r.source r.addr
  if r.source = 0x40 then hostWho
  else if r.source = 0x41 then firmwareWho
  else if r.source = 0x42 then honeyMapWho
  else if r.source = 0x47 then { maintWho with hint := if r.kind = 0 then 2 else r.hint % 4 }
  else if r.source = 0x48 then { partnerWho with hint := r.hint % 4 }
  else if r.source < 64 then
    let who := s.combWho r.source
    { who with label := if (s.colony who.colony).labels.getLsbD (r.label % 16) then r.label % 16 else who.label
               deadline := dl, honey := honey, hint := if honey then 2 else r.hint % 4 }
  else { label := r.label % 16, source := r.source, deadline := dl, colony := (s.labelColony (r.label % 16)).getD 0 }

/-- Whether a request can come from its SOURCE (R308, R315): a comb that runs a job, a system label's requester, or an engine or
inbound swarm traffic with a label that a colony holds. -/
def State.niSource (s : State) (r : DramReq) : Bool :=
  if r.source < 64 then (s.comb r.source).job.isSome
  else if r.source ≤ 0x42 ∨ r.source = 0x47 then true
  else if r.source = 0x48 then s.pkg.partnerAdmitted
  else decide (r.source ≤ 0x49) && (s.labelColony (r.label % 16)).isSome

/-- The request as it leaves its network interface. -/
def State.niReq (s : State) (r : DramReq) : ChanReq :=
  let w := s.niWho r
  let cls := s.whoClass w
  { req := { r with label := w.label, honey := w.honey, deadline := if cls = 0 then some w.deadline else none },
    colony := w.colony, cls := cls, arrival := s.tclk }

/-- Who a request comes from. -/
def reqWho (q : ChanReq) : Who :=
  { label := q.req.label, colony := q.colony, honey := q.req.honey, source := q.req.source, deadline := q.req.deadline.getD 1024,
    hint := q.req.hint }

/-- A request at the exit of a point: its deadline is what is left of it (R318). -/
def State.leavePoint (s : State) (q : ChanReq) : ChanReq :=
  { q with arrival := s.tclk, req := { q.req with deadline := q.req.deadline.map fun _ => absDeadline q - s.tclk } }

/-! ## The network (R15, R43, R318, R320-R324, R332) -/

/-- `words` words of a request pass port directions up to the first whose link retrains (R43): that one with what follows. -/
def State.passPorts (s : State) (q : ChanReq) (words : Nat) : List Nat → State × Option (Nat × List Nat)
  | [] => (s, none)
  | p :: ps =>
    if s.pkg.retraining.getLsbD (portLink p) then (s, some (p, ps))
    else (s.cross q.cls (reqCol q) (absDeadline q - s.tclk) q.req.label words p).passPorts q words ps

/-- Something waits at a point of the network. -/
def State.netWait (s : State) (m : NetMsg) : State := { s with mem := { s.mem with waiting := s.mem.waiting ++ [m] } }

/-- A response reaches its requester. -/
def State.dramResp (s : State) (x : DramResp) : State := { s with mem := { s.mem with resps := s.mem.resps ++ [x] } }

/-- A response on its way back: the payload of a read passes the port directions. -/
def State.sendResp (s : State) (q : ChanReq) (x : DramResp) (path : List Nat) : State :=
  match s.passPorts q (x.data.length / 64) path with
  | (s1, some (p, ps)) => s1.netWait { req := s1.leavePoint q, place := p, path := ps, resp := some x }
  | (s1, none) => s1.dramResp x

/-- A request completes at the controller of its pair, and its response goes back. -/
def State.respond (s : State) (q : ChanReq) (status : Nat) (data : List Byte) (poison : List Bool) : State :=
  let r := q.req
  s.sendResp (s.leavePoint q) { source := r.source, addr := r.addr, status := status, data := data, poison := poison }
    (routeBack (s.dieRoute r.source (s.dieOffset r.addr).1))

/-! ## Requests at a controller (R293-R296, R325-R327) -/

/-- One word of a write: enabled bytes stored, the others zeroed where the word was poisoned; a poisoned write stores the word poisoned
(R296, R305). -/
def State.writeWord (s : State) (a : Nat) (mask : BitVec 64) (data : List Byte) (poison : Bool) : State :=
  let s0 := if s.isPoisoned (a / 64) then s.zeroRange (a / 64 * 64) 64 else s
  let s1 := (List.range 64).foldl (fun s i =>
    if mask.getLsbD i then s.pokeByte (a + i) (BitVec.ofNat 8 (field data i 1)) else s) s0
  if poison then s1.poisonWord (a / 64) else s1

/-- Word `w` of a write or atomic takes effect; the atomic raises an 8-byte value to the larger of two, unless its word is
poisoned (R120, R296). -/
def State.applyAt (s : State) (r : DramReq) (w : Nat) : State :=
  if r.kind = 2 then
    let old := leNat (memRead s.dram r.addr 8)
    if s.isPoisoned (r.addr / 64) then s else s.pokeBytes r.addr (leBytes 8 (max old (field r.data 0 8)))
  else s.writeWord (r.addr / 64 * 64 + 64 * w) (r.mask.getD w 0) ((r.data.drop (64 * w)).take 64) (r.poison.getD w false)

/-- The write of a request, word by word. -/
def State.applyWrite (s : State) (r : DramReq) : State := (List.range r.words).foldl (fun s w => s.applyAt r w) s

/-- Whether word `w` of a write is read first (R296). -/
def rmwWord (r : DramReq) (w : Nat) : Bool := r.kind == 2 || (r.kind == 1 && r.mask.getD w 0 != 0xFFFF_FFFF_FFFF_FFFF)

/-- Whether a write reads a word first (R296). -/
def isRmw (r : DramReq) : Bool := (List.range r.words).any (rmwWord r)

/-- Drain mode followed (R297): it begins at 48 writes and ends at 16. -/
def State.drainMode (s : State) (d c : Nat) : State :=
  let x := s.chan d c
  if x.drain = false ∧ 48 ≤ x.writes.length then (s.setChan d c { x with drain := true }).inc (DMC_WDRAIN_COUNT.idx d)
  else if x.drain ∧ x.writes.length ≤ 16 then s.setChan d c { x with drain := false }
  else s

/-- Whether the queue that a request needs is full (R283, R297). -/
def Chan.full (x : Chan) (r : DramReq) : Bool := if r.kind = 0 then decide (64 ≤ x.reads.length) else decide (64 ≤ x.writes.length)

/-- A request enters its queue: a read takes what its words hold; a write is visible from here on and, but for an atomic, is
acknowledged (R295). -/
def State.enterQueue (s : State) (d c : Nat) (q0 : ChanReq) : State :=
  let r := q0.req
  let q := { s.leavePoint q0 with
    ord := s.mem.reqOrd, data := if r.kind = 0 then memRead s.dram (r.addr / 64 * 64) (64 * r.words) else [],
    was := (List.range r.words).map fun w => s.isPoisoned (r.addr / 64 + w) }
  let s1 := { s with mem := { s.mem with reqOrd := s.mem.reqOrd + 1 } }
  let x := s1.chan d c
  if r.kind = 0 then s1.setChan d c { x with reads := x.reads ++ [q] }
  else
    let s2 := ((s1.setChan d c { x with writes := x.writes ++ [q] }).applyWrite r).markWaits
    (if r.kind = 2 then s2 else s2.respond q 0 [] []).drainMode d c

/-- A request reaches its controller (R14, R327, R297): it is checked, refused, queued, or held before a full queue, also where an older
one to one of its words is held there (R295). -/
def State.arrive (s : State) (q : ChanReq) : State :=
  let r := q.req
  let d := (s.dieOffset r.addr).1
  let c := offCh (s.dieOffset r.addr).2
  if s.allowed (reqWho q) r.addr = false then (s.violation (reqWho q) r.addr r.kind).respond q E_PARTITION [] []
  else if s.addrExcluded r.addr then s.respond q E_LINK [] []
  else if (s.chan d c).full r ∨ (s.mem.waiting.any fun m => m.place == 24 + 32 * d + c && shareWord m.req.req r) = true then
    s.netWait { req := q, place := 24 + 32 * d + c }
  else s.enterQueue d c q

/-- A request or response goes on along its path. -/
def State.goOn (s : State) (m : NetMsg) (path : List Nat) : State :=
  match m.resp with
  | some x => s.sendResp m.req x path
  | none =>
    match s.passPorts m.req (if m.req.req.kind = 0 then 0 else m.req.req.words) path with
    | (s1, some (p, ps)) => s1.netWait { m with req := s1.leavePoint m.req, place := p, path := ps }
    | (s1, none) => s1.arrive (s1.leavePoint m.req)

/-- A message leaves the point at which it waits. -/
def State.netTake (s : State) (m : NetMsg) : State := { s with mem := { s.mem with waiting := s.mem.waiting.erase m } }

/-- The order of messages within a rank at a point (R323). -/
def State.portKey (s : State) (point : Nat) (m : NetMsg) : List Nat :=
  if s.rank point m.req ≤ 1 then [absDeadline m.req] else []

/-- The message that a point, a port direction or the way into a channel's queue, serves next (R323, R324): rank decides within each virtual channel, and the channel of the
classes LC-deadline and LC goes first where its rank allows it. -/
def State.pickMsg (s : State) (point : Nat) (l : List NetMsg) : Option NetMsg :=
  let pick (l : List NetMsg) := choose (fun m => s.rank point m.req) (·.req.cls) (fun m => m.req.req.label) (s.portKey point)
    (tget 0 s.mem.turn point) l
  match pick (l.filter fun m => decide (m.req.cls ≤ 1)), pick (l.filter fun m => decide (1 < m.req.cls)) with
  | some a, some b => if s.rank point a.req ≤ s.rank point b.req then some a else some b
  | some a, none => some a
  | none, b => b

/-- What waits for a port direction goes on, one message after another; `n` bounds them. -/
def State.drainPort (s : State) (p : Nat) : Nat → State
  | 0 => s
  | n + 1 =>
    match s.pickMsg (portPoint p) (s.mem.waiting.filter fun m => m.place == p) with
    | none => s
    | some m => ((s.netTake m).goOn m (p :: m.path)).drainPort p n

/-- Traffic resumes on a link after its retraining (R43). -/
def State.resumeLink (s : State) (k : Nat) : State :=
  ((s.drainPort (portDir k 0) s.mem.waiting.length).drainPort (portDir k 1) s.mem.waiting.length).replayHost

/-- The path of a message from the beginning, as the links now stand. -/
def State.pathOf (s : State) (m : NetMsg) : List Nat :=
  let way := s.dieRoute m.req.req.source (s.dieOffset m.req.req.addr).1
  if m.resp.isSome then routeBack way else way

/-- A link has gone DOWN (R43): what waited for a ring link goes through the Eztos die; on another link it completes with an error
response. -/
def State.failLink (s : State) (k : Nat) : State :=
  let on (m : NetMsg) : Bool := decide (m.place < 24) && (portLink m.place == k || m.path.any fun p => portLink p == k)
  let s1 := { s with mem := { s.mem with waiting := s.mem.waiting.filter fun m => !on m } }
  let s2 := (s.mem.waiting.filter on).foldl (fun s m =>
    if 4 ≤ k ∧ k ≤ 7 then s.goOn m (s.pathOf m)
    else s.dramResp { source := m.req.req.source, addr := m.req.req.addr, status := E_LINK, data := [] }) s1
  if k < 4 then s2 else s2.replayHost

/-- What may enter the queues of a channel of what waits before them (R295, R297): its queue has room, and no older one shares a word
with it. -/
def State.mayEnter (s : State) (d c : Nat) : List NetMsg :=
  let l := s.mem.waiting.filter fun m => m.place == 24 + 32 * d + c
  (l.zipIdx.filter fun e => !(s.chan d c).full e.1.req.req && (l.take e.2).all fun m => !shareWord m.req.req e.1.req.req).map (·.1)

/-- Requests that wait before a channel's queues enter them while there is room, by virtual channel and rank (R297, R324), at most `n`;
they passed their check when they came (R325, R329). -/
def State.admitSome (s : State) (d c : Nat) : Nat → State
  | 0 => s
  | n + 1 =>
    match s.pickMsg (32 * d + c) (s.mayEnter d c) with
    | none => s
    | some m => ((s.netTake m).enterQueue d c m.req).admitSome d c n

/-- A channel's queues have room again: what waits for them goes on, with the host's accesses that waited. -/
def State.admitWaiting (s : State) (d c : Nat) : State := (s.admitSome d c s.mem.waiting.length).replayHost

/-! ## Links (R25, R43, R102) -/

/-- The package changed. -/
def State.modPkg (s : State) (f : Package → Package) : State := { s with pkg := f s.pkg }

/-- LINK_STATE of a link 0-9: 0 up, 1 retrained, 2 degraded, 3 down; `excluded` when the change excluded a pair. -/
def State.linkEvent (s : State) (k st : Nat) (excluded : Bool) : State :=
  s.event 0x12 0x10 k 0
    (leBytes 1 st ++ leBytes 1 (s.rd (IDN_LINK_RATE.idx k)) ++ leBytes 1 (s.rd (IDN_LINK_MOD_UP.idx k))
      ++ leBytes 1 (s.rd (IDN_LINK_RETRAIN_COUNT.idx k)) ++ leBytes 1 (if excluded then 1 else 0))

/-- A link DOWN. -/
def State.linkDown (s : State) (k : Nat) : State :=
  (s.wr (IDN_LINK_DOWN.idx k) 1).wr (IDN_LINK_MOD_UP.idx k) 0

end Sys2Proof.Machine
end

