-- ==== Sys2Proof/Machine/Package.lean ====
section
/-!
DEFINITION. The package: identity words (R19-R24), resets and the boot ROM (R48-R54), the links in service (R43), the
exclusion of dies and the loss of clocks (R46).
-/
namespace Sys2Proof.Machine


/-- A memory die enters self-refresh: each bank first makes up the refreshes it owes, and on the exit every bank starts with
debt 0 (R300). -/
def State.selfRefresh (s : State) (d : Nat) : State :=
  let m := tget ({} : Dmc) s.mem.dmc d
  let clear (c : Chan) : Chan := { c with banks := tmap (fun b => { b with debt := 0, due := 0, row := none }) c.banks }
  { s with mem := { s.mem with dmc := tset {} s.mem.dmc d { m with chans := tmap clear m.chans } } }.wr (DMC_STATUS_SELF_REFRESH.idx d) 1

/-! ## Identity (R19-R24) -/

/-- Whether an identity record passes CHECK (R19). -/
def identOk (r : List Byte) : Bool :=
  decide (r.length = 32) && (crc16 (r.take 30)).toNat == field r 30 2

/-- DIE_TYPE, REVISION, CAP_FUSED and MODULE_GOOD of an identity record. -/
def identType (r : List Byte) : Nat := bitsOf (field r 0 1) 0 4
def identRev (r : List Byte) : Byte := BitVec.ofNat 8 (field r 1 1)
def identCap (r : List Byte) : BitVec 32 := BitVec.ofNat 32 (field r 8 4)
def identGood (r : List Byte) : Nat := field r 12 2

/-- The IDN_DIE word of a record (R24): with VALID where CHECK holds, else FUSE_ERR alone (log entry 62). -/
def identWord (r : List Byte) : Nat :=
  if identOk r then
    identType r + 2 ^ 4 * (identRev r).toNat + 2 ^ 12 + 2 ^ 16 * field r 2 1 + 2 ^ 24 * field r 3 1
      + 2 ^ 32 * bitsOf (field r 4 1) 0 5 + 2 ^ 40 * field r 5 3
  else 2 ^ 14

/-- The identity word of die `k` as IDN_DIE shows it. -/
def State.dieWord (s : State) (k : Nat) : Nat := (s.reg (IDN_DIE_TYPE.idx k).off).toNat

/-- IDN_DIE of die `k` written. -/
def State.setDieWord (s : State) (k w : Nat) : State := s.setReg (IDN_DIE_TYPE.idx k).off (BitVec.ofNat 64 w)

/-- The strap bits as a message carries them: site ID, role code, variant code from bit 0 (R436; log entry 63). -/
def strapBits (x : Straps) : Nat := x.site.toNat + 2 ^ 3 * x.role.toNat + 2 ^ 5 * x.variant.toNat

/-- Whether a variant code is valid (R17). -/
def variantOk (v : BitVec 4) : Bool := v == 1 || v == 2

/-- Whether the Eztos straps are consistent (R18). -/
def iodStrapsOk (x : Straps) : Bool := x.site == 4 && x.role == 1 && variantOk x.variant

/-- The inputs of compute die `n`. -/
def State.cdIdent (s : State) (n : Nat) : List Byte := (s.pkg.inputs.cdIdent[n]?).getD []
def State.mdIdent (s : State) (n : Nat) : List Byte := (s.pkg.inputs.mdIdent[n]?).getD []
def State.cdStraps (s : State) (n : Nat) : Straps := (s.pkg.inputs.cdStraps[n]?).getD {}

/-- Whether compute die `n` is included (R22). -/
def State.dieIncluded (s : State) (n : Nat) : Bool := s.on (IDN_PKG_INCLUDED.bit n)
def State.includedDies (s : State) : List Nat := (List.range 4).filter s.dieIncluded

/-! ## Firmware slots (R53-R55) -/

/-- A slot record is valid when its count and complement agree (R55). -/
def FwSlot.valid (x : FwSlot) : Bool := x.compl == ~~~x.count

/-- The slots in the order in which the ROM tries them (R54).  Between valid records of equal write count R54 gives no order: the
model tries slot 0 first (DESIGN CHOICE; log entry 101). -/
def slotOrder (l : List FwSlot) : List Nat :=
  let a := (l[0]?).getD {}
  let b := (l[1]?).getD {}
  let va := FwSlot.valid a
  let vb := FwSlot.valid b
  if va && vb then (if a.count.toNat < b.count.toNat then [1, 0] else [0, 1])
  else if vb && !va then [1, 0] else [0, 1]

/-- Whether an image meets the three conditions of R53. -/
def imageOk (im : FwImage) (fuse : Nat) (rev : Byte) : Bool :=
  im.sigOk && decide (fuse ≤ im.version) && im.revisions.contains rev

/-- The slot that the ROM accepts (R54). -/
def pickSlot (l : List FwSlot) (fuse : Nat) (rev : Byte) : Option Nat :=
  (slotOrder l).find? fun i => match l[i]? with
    | some x => imageOk x.image fuse rev
    | none => false

/-- Whether every signature-valid slot fails only the revision check, and one is signature-valid (R54). -/
def onlyRevision (l : List FwSlot) (fuse : Nat) : Bool :=
  let signed := l.filter (·.image.sigOk)
  signed != [] && signed.all fun x => decide (fuse ≤ x.image.version)

/-- The image of a slot. -/
def slotImage (l : List FwSlot) (i : Nat) : FwImage := ((l[i]?).getD {}).image

/-! ## Boot -/

/-- Boot halts with an error (R23). -/
def State.haltBoot (s : State) (e : Nat) : State := (s.wr IDN_BOOT_ERROR e).wr IDN_BOOT_STAGE 0xF

/-- Stage 5 when every included pair is trained and island B has not joined (R23, R27). -/
def State.bootWait (s : State) : State :=
  let ready := s.includedDies.all fun d => s.on (DMC_STATUS_TRAINED.idx d)
  if s.rd IDN_BOOT_STAGE = 4 ∧ s.on IDN_BOOT_ISLAND_B = false ∧ s.includedDies ≠ [] ∧ ready = true then s.wr IDN_BOOT_STAGE 5
  else s

/-! ## Resets (R48-R50, R67) -/

/-- Step 1 of boot (R26, R52): PLLs lock, straps and identity are read and checked, island A's start-up tests run, and the
PCIe endpoint comes up with the device ID of its variant (R69). -/
def State.startUp (s : State) : State :=
  let p := s.pkg.inputs
  let s1 := ((s.wr PWR_STATUS_PLL_LOCK_CD 0xF).wr PWR_STATUS_PLL_LOCK_IOD 1).wr IDN_PKG_VARIANT p.iodStraps.variant.toNat
  let s2 := ((s1.setDieWord 8 (identWord p.iodIdent)).wr SAF_ISL_STATUS_A_RUN 1).modPkg fun k => { k with endpointUp := true }
  let s2 := { s2 with hif := { s2.hif with deviceId := if p.iodStraps.variant = 2 then 0x941 else 0x940 } }
  if iodStrapsOk p.iodStraps = false then s2.haltBoot 3
  else if identOk p.iodIdent = false then s2.haltBoot 7
  else
    let s3 := ((s2.wr (IDN_PKG_INCLUDED.bit 4) 1).wr IDN_BOOT_STAGE 1).modPkg fun k =>
      { k with iodTestFail := p.testFail, iodTimersOk := p.timersOk }
    (s3.setReg (SAF_CMP_FAIL_GROUPS.idx 0).off (p.testFail.zeroExtend 64)).wr (SAF_CMP_TIME_NS.idx 0) s3.now

/-- What a slot holds after a write that a reset cut short: nothing that verifies (R55). -/
def blankSlot : FwSlot := {}

/-- The flash of the Eztos die after a reset: reprogrammed where the inputs say so, with a slot whose writing was cut short
blank. -/
def State.flashAfter (s : State) (p : PkgInputs) : List FwSlot :=
  match p.flash with
  | some l => l
  | none =>
    match s.pkg.fwWrite with
    | some w => if w.target then s.pkg.iodFlash else modNth (fun _ => blankSlot) w.slot s.pkg.iodFlash
    | none => s.pkg.iodFlash

/-- The flash of the Uathal die after a reset. -/
def State.sfdFlashAfter (s : State) : List FwSlot :=
  match s.pkg.fwWrite with
  | some w => if w.target then modNth (fun _ => blankSlot) w.slot s.pkg.sfdFlash else s.pkg.sfdFlash
  | none => s.pkg.sfdFlash

/-- What a warm reset leaves of a thermal domain: its counts, which start at 0 at power-on (R495). -/
def keepCounts (d : Domain) : Domain :=
  { half10 := d.half10, half20 := d.half20, half40 := d.half40, half60 := d.half60, hotMs := d.hotMs }

/-- What a reset of every die except Uathal leaves (R48-R50, R62): the registers at their reset values, island B as it was,
the thermal counts, THERMTRIP_N (R491) and the trained lanes on a warm reset (a pair that never trained has no short retrain), host memory, the flashes
and fuses; the wall clock, the queue of commands and the free values, which are the model's. -/
def State.afterReset (s : State) (p : PkgInputs) (cold : Bool) : State :=
  let keepB {α : Type} (t : Table α) : Table α := t.filter fun e => decide (128 ≤ e.1)
  { pending := s.pending, tclk := s.tclk, free := s.free,
    hif := { hostMem := s.hif.hostMem },
    pkg := { inputs := p, sfd := s.pkg.sfd, iodFlash := s.flashAfter p, sfdFlash := s.sfdFlashAfter,
             iodFuse := s.pkg.iodFuse, sfdFuse := s.pkg.sfdFuse, sfdSlot := s.pkg.sfdSlot, sfdImage := s.pkg.sfdImage,
             sfdPowered := s.pkg.sfdPowered, warmReset := !cold, perstLow := s.pkg.perstLow,
             lanes := if cold then [] else s.pkg.lanes,
             shortTrainEnded := BitVec.ofNat 4 (((List.range 4).filter fun d => (tget none s.pkg.lanes d).isNone).map (2 ^ ·)).sum,
             epoch := if cold then Config.freeByte s.free else s.pkg.epoch + 1 },
    saf := { islB := { s.saf.islB with testTold := false, posted := 0 }, stg := s.saf.stg,
             join := { ready := s.saf.join.ready },
             copies := keepB s.saf.copies, inForce := keepB s.saf.inForce, frameAt := keepB s.saf.frameAt,
             sfdCan := s.saf.sfdCan },
    thm := if cold then {} else
      let kept := (List.range 6).foldl (fun t e => tset {} t e (keepCounts (tget {} s.thm.doms e))) []
      { opTicks := s.thm.opTicks, tripped := s.thm.tripped, doms := kept, ledger := kept } }

/-- A device reset (R48, R50, R67): island B commands the controlled stop, the reset itself, its cause, and boot. -/
def State.deviceReset (s : State) (p : PkgInputs) (cold : Bool) (cause : Fld) : State :=
  let loss := s.pkg.pllLossSeen
  let s1 := (s.stopB 3).afterReset p cold
  let s2 := (if cold then s1.draw 1 else s1).setReg PWR_RSTCAUSE_POWER_ON.off 0
  let s3 := (s2.wr cause 1).wrB PWR_RSTCAUSE_PLL_LOSS (loss && !cold)
  s3.startUp

/-- Island B's own power-on (R434, R520): it starts from nothing but its flash and fuses, and its fault record ends (R442); what the SAF
registers show of it stands until the next join (R455). -/
def State.powerIslandB (s : State) (b : SfdInputs) : State :=
  let drop {α : Type} (t : Table α) : Table α := t.filter fun e => decide (e.1 < 128)
  let s1 := s.modPkg fun k => { k with sfd := b, sfdPowered := true, sfdSlot := none, sfdImage := {},
                                       sfdFlash := match b.flash with
                                         | some l => l
                                         | none => s.sfdFlashAfter }
  { s1 with
    thm := { s1.thm with uathal := [], outlier := s1.thm.outlier.filter fun e => decide (e.1 < 288) }
    saf := { s1.saf with
      islB := { testFail := b.testFail }, join := { s1.saf.join with ready := false, bNa := [], nb := [], bWord := [] },
      restartCopies := [], copies := drop s1.saf.copies, inForce := drop s1.saf.inForce, frameAt := drop s1.saf.frameAt,
      sfdCan := [] } }

end Sys2Proof.Machine
end

