-- ==== Sys2Proof/Machine/Waggle.lean ====
section
/-!
DEFINITION. The waggle handshake (R29-R35, R37-R42): messages, requests and retransmissions, selection, training and DONE on
links 0-3, the ring links 4-7 and the partner's link 9.
-/
namespace Sys2Proof.Machine

/-! ## Messages (R29, R30; payload packing: log entry 63) -/

/-- A message. -/
def wagMsg (type seq site link : Nat) (payload : List Byte) : WaggleMsg :=
  let b := leBytes 1 (type + 16) ++ leBytes 1 seq ++ leBytes 1 site ++ leBytes 1 link ++ padTo 24 payload ++ [0, 0]
  b ++ leBytes 2 (crc16 b).toNat

def wType (m : WaggleMsg) : Nat := bitsOf (field m 0 1) 0 4
def wProto (m : WaggleMsg) : Nat := bitsOf (field m 0 1) 4 4
def wSeq (m : WaggleMsg) : Nat := field m 1 1
def wLink (m : WaggleMsg) : Nat := bitsOf (field m 3 1) 0 4
def wPay (m : WaggleMsg) (off n : Nat) : Nat := field m (4 + off) n

/-- Whether CHECK holds (R29). -/
def wOk (m : WaggleMsg) : Bool := decide (m.length = 32) && (crc16 (m.take 30)).toNat == field m 30 2

/-! ## Links and their ends (R15, R30, R35) -/

/-- A link's handshake. -/
def State.wag (s : State) (k : Nat) : WagLink := tget ({} : WagLink) s.pkg.links k
def State.setWag (s : State) (k : Nat) (x : WagLink) : State := s.modPkg fun p => { p with links := tset {} p.links k x }
def State.modWag (s : State) (k : Nat) (f : WagLink → WagLink) : State := s.setWag k (f (s.wag k))

/-- Whether a link is a ring link. -/
def isRing (k : Nat) : Bool := decide (4 ≤ k ∧ k ≤ 7)

/-- The site that leads a link: the Eztos die, or on the ring the end with the lower site ID. -/
def leadSite (k : Nat) : Nat := if k = 7 then 0 else if isRing k then k - 4 else 4

/-- The site at the far end. -/
def folSite (k : Nat) : Nat := if k = 7 then 3 else if isRing k then k - 3 else if k = 9 then 6 else k

/-- The ring links of a compute die. -/
def ringOf (n : Nat) : List Nat := [4, 5, 6, 7].filter fun k => leadSite k == n || folSite k == n

/-- The MODULE_GOOD bits of a compute die for a ring link, as a mask of the link's 2 modules (R19).  R19 names CD0 as CD3's higher
neighbour only; that CD3 is then CD0's lower neighbour is the model's choice (DEDUCED; log entry 96). -/
def ringGood (good n k : Nat) : Nat :=
  let other := if leadSite k = n then folSite k else leadSite k
  let higher := if n = 3 ∧ other = 0 then true else if n = 0 ∧ other = 3 then false else decide (n < other)
  bitsOf good (if higher then 6 else 4) 2

/-- A message sent on a link. -/
def State.wagSend (s : State) (k : Nat) (toFollower : Bool) (m : WaggleMsg) : State :=
  s.modPkg fun p => { p with wagSent := p.wagSent ++ [⟨k, toFollower, m⟩] }

/-- A new request of the leader (R31): it takes SEQ + 1. -/
def State.wagRequest (s : State) (k type : Nat) (payload : List Byte) (phase : WagPhase) : State :=
  let x := s.wag k
  let seq := x.seq + 1
  let m := wagMsg type seq.toNat (leadSite k) k payload
  (s.setWag k { x with phase := phase, seq := seq, request := m, retrans := 0, sentAt := s.tclk }).wagSend k true m

/-- HELLO starts a link (R30, R35); its SEQ is 0 (log entry 64). -/
def State.wagStart (s : State) (k : Nat) : State :=
  let word := s.dieWord (if isRing k then leadSite k else 8)
  let m := wagMsg 1 0 (leadSite k) k (leBytes 8 word ++ leBytes 1 (s.rd IDN_PKG_VARIANT))
  (s.setWag k { phase := .hello, request := m, sentAt := s.tclk, helloAt := s.tclk }).wagSend k true m

/-! ## Outcomes (R34-R36, R39, R42) -/

/-- Whether a link's handshake is over. -/
def WagLink.isOver (x : WagLink) : Bool := x.phase == .complete || x.phase == .failed

/-- Whether links 0-3 have all ended, and whether a die completed. -/
def State.diesSettled (s : State) : Bool := (List.range 4).all fun n => (s.wag n).isOver
def State.anyDie (s : State) : Bool := (List.range 4).any fun n => (s.wag n).phase == .complete

/-- A capability word as it is offered (R37): BASE is 1 and the reserved bits are 0. -/
def capOffer (c : BitVec 32) : BitVec 32 := (c &&& 0x1F) ||| 1

/-- A die's effective package offer (R39, R40). -/
def State.offerOf (s : State) (n : Nat) : BitVec 32 := if s.on (IDN_DIE_BASELINE.idx n) then 1 else (s.wag n).offer

/-- When links 0-3 have all ended: the package word, MIXED_REV, or the boot halt (R22, R28, R36, R39). -/
def State.settleDies (s : State) : State :=
  if s.diesSettled = false then s
  else if s.anyDie = false then s.haltBoot 4
  else
    let ds := s.includedDies
    let cap := ds.foldl (fun c n => c &&& s.offerOf n) 0xFFFFFFFF
    (s.wr IDN_CAP_PKG_WORD cap.toNat).showMixed

/-- The leader of a ring link reports its outcome to the Eztos die (R35), in a TRAINED message on its own link 0-3 with the SEQ
after the last it answered there (log entry 100). -/
def State.sendReport (s : State) (k result : Nat) (mods : BitVec 4) : State :=
  let n := leadSite k
  let m := wagMsg 6 (((s.wag n).folSeq.getD 0).toNat + 1) n k
    (leBytes 1 result ++ leBytes 1 mods.toNat ++ leBytes 1 (s.wag k).rate)
  (s.modWag k fun x => { x with report := m, sentAt := s.tclk }).wagSend n false m

/-- A link fails (R34, R35, R42): a compute die is excluded with its memory die, the leader of a ring link reports it, a partner is
rejected; `reason` is the REJECT that is sent, if one is. -/
def State.wagFail (s : State) (k : Nat) (reason : Option Nat) : State :=
  let x := s.wag k
  if x.isOver then s
  else
    let s1 := s.setWag k { x with phase := .failed }
    let s2 := match reason with
      | some r =>
        let m := wagMsg 0xE (x.seq.toNat + 1) (leadSite k) k (leBytes 1 r)
        ((s1.modWag k fun y => { y with reject := m }).wagSend k true m).modPkg fun p =>
          { p with rejectReason := tset 0 p.rejectReason k r }
      | none => s1
    if k = 9 then
      let d := s2.pkg.partnerDesc
      (((s2.linkDown 9).wr (IDN_DIE_EXCLUDED.idx 10) 1).wr (IDN_PKG_INCLUDED.bit 6) 0).event 0x13 0x10 9 0
        (leBytes 2 (field d 0 2) ++ leBytes 2 (field d 2 2) ++ leBytes 1 (reason.getD 6))
    else if isRing k then s2.sendReport k 1 0
    else (s2.markExcluded k).settleDies

/-- A partner's failures all end in REJECT 0x06 (R42), also a PROTO other than 1, for which R32 names 0x03: which of the two wins is
the model's choice (DESIGN CHOICE; log entry 98). -/
def rejectOf (k r : Nat) : Option Nat := some (if k = 9 then 6 else r)

/-- A failure without a REJECT of its own; the partner's still sends 0x06 (R32, R34, R42). -/
def quietReject (k : Nat) : Option Nat := if k = 9 then some 6 else none

/-- A retransmission of the request, or the end after 3 of them (R32); the report of a ring link repeats until it is echoed
(R35). -/
def State.wagRetry (s : State) (k : Nat) : State :=
  let x := s.wag k
  if x.isOver then
    if x.report ≠ [] ∧ x.reported = false then (s.setWag k { x with sentAt := s.tclk }).wagSend (leadSite k) false x.report else s
  else if 3 ≤ x.retrans then s.wagFail k (quietReject k)
  else (s.setWag k { x with retrans := x.retrans + 1, sentAt := s.tclk }).wagSend k true x.request

/-- The leader answers a bad CHECK with NAK; the repetition of a reply to an outstanding request counts (R31, R32). -/
def State.wagNakReply (s : State) (k : Nat) (m : WaggleMsg) : State :=
  let x := s.wag k
  let nak := wagMsg 0xF (wSeq m) (leadSite k) k (leBytes 1 (wSeq m))
  if x.isOver ∨ x.phase = .idle then s.wagSend k true nak
  else if 3 ≤ x.retrans then s.wagFail k (quietReject k)
  else (s.setWag k { x with retrans := x.retrans + 1, sentAt := s.tclk }).wagSend k true nak

/-- A reply at the leader (R31, R32): checked, and acted on by `act` when it answers the outstanding request in `phase`. -/
def State.wagReply (s : State) (k : Nat) (m : WaggleMsg) (type : Nat) (phase : WagPhase) (act : State → State) : State :=
  let x := s.wag k
  if wOk m = false then s.wagNakReply k m
  else if wType m ≠ type ∨ x.phase ≠ phase ∨ wSeq m ≠ x.seq.toNat ∨ wLink m ≠ k then s
  else if wProto m ≠ 1 then s.wagFail k (rejectOf k 3)
  else act s

/-! ## The follower (R30, R31, R33) -/

/-- A request at the follower (R31): a bad CHECK gets NAK, a repeated SEQ the last reply, a new one the replies of
`act`. -/
def State.wagServe (s : State) (k : Nat) (m : WaggleMsg) (type : Nat) (act : State → State × List WaggleMsg) : State :=
  let x := s.wag k
  let send (s : State) (l : List WaggleMsg) : State := l.foldl (fun s r => s.wagSend k false r) s
  if x.folRejected then s
  else if wOk m = false then s.wagSend k false (wagMsg 0xF (wSeq m) (folSite k) k (leBytes 1 (wSeq m)))
  else if wType m ≠ type then s
  else if x.folSeq = some (BitVec.ofNat 8 (wSeq m)) then send s x.folReply
  else
    let (s1, l) := act s
    send (s1.modWag k fun y => { y with folSeq := some (BitVec.ofNat 8 (wSeq m)), folReply := l }) l

/-- The identity payload that a follower sends in IDENT (R30). -/
def State.identPayload (s : State) (k : Nat) : List Byte :=
  if k = 9 then leBytes 2 (6 + 2 ^ 3 * 3 + 2 ^ 5 * 2) ++ padTo 16 s.pkg.inputs.partner
  else
    let n := folSite k
    leBytes 2 (strapBits (s.cdStraps n)) ++ leBytes 8 (identWord (s.cdIdent n)) ++ leBytes 8 (identWord (s.mdIdent n))

/-- The offer of a follower (R30): CAP_FUSED, highest rate code, module-good mask, failed lanes per module. -/
def State.offerPayload (s : State) (k rate lanes : Nat) : List Byte :=
  if k = 9 then leBytes 4 1 ++ leBytes 1 (min rate 3) ++ leBytes 1 1 ++ leBytes 4 lanes
  else
    let n := folSite k
    let good := identGood (s.cdIdent n)
    let mask := if isRing k then ringGood good n k else bitsOf good 0 4
    leBytes 4 (capOffer (identCap (s.cdIdent n))).toNat ++ leBytes 1 (min rate 5) ++ leBytes 1 mask ++ leBytes 4 lanes

/-- A follower receives HELLO and answers with IDENT and OFFER; `rate` is its highest rate code and `lanes` its failed lanes, a byte
for each module. -/
def State.wagHello (s : State) (k : Nat) (m : WaggleMsg) (rate lanes : Nat) : State :=
  s.wagServe k m 1 fun s =>
    (s.modWag k fun x => { x with folLanes := lanes },
     [wagMsg 2 (wSeq m) (folSite k) k (s.identPayload k), wagMsg 3 (wSeq m) (folSite k) k (s.offerPayload k rate lanes)])

/-- A follower receives SELECT: CONFIRM echoes it, and training begins. -/
def State.wagSelect (s : State) (k : Nat) (m : WaggleMsg) : State :=
  s.wagServe k m 4 fun s =>
    (s.modWag k fun x => { x with folCap := BitVec.ofNat 32 (wPay m 0 4), folRate := wPay m 4 1,
                                  folMods := BitVec.ofNat 4 (wPay m 5 1), folTraining := true, folFails := 0 },
     [wagMsg 5 (wSeq m) (folSite k) k ((m.drop 4).take 24)])

/-- GT/s of a rate code (R25). -/
def rateGT (r : Nat) : Nat := [4, 8, 12, 16, 24, 32].getD r 32

/-- The modules of a mask. -/
def modCount (m : BitVec 4) : Nat := ((List.range 4).filter fun i => m.getLsbD i).length

/-- Whether a link 0-3 reaches 4,096 Gb/s (R33): rate × 64 lanes × modules. -/
def enough (k r : Nat) (m : BitVec 4) : Bool := !(decide (k < 4)) || decide (4096 ≤ rateGT r * 64 * modCount m)

/-- The modules whose failed lanes repair covers (R37): up to 4 where REPAIR2 is in effect, else up to 2; link 9 has no repair. -/
def WagLink.repairable (x : WagLink) (k : Nat) : BitVec 4 :=
  if k = 9 then 15
  else BitVec.ofNat 4 (((List.range 4).filter fun i =>
    decide (bitsOf x.folLanes (8 * i) 8 ≤ if x.folCap.getLsbD 3 then 4 else 2)).map (2 ^ ·)).sum

/-- A training attempt ends (R33, R37): TRAINED, and after a first failure the follower tries once more; a pass with too few
modules is a failure too. -/
def State.wagTrainingDone (s : State) (k result : Nat) (mods : BitVec 4) : State :=
  let x := s.wag k
  if x.folTraining = false then s
  else
    let fails := x.folFails + 1
    let up := x.folMods &&& mods &&& x.repairable k
    let trained := decide (result = 0 ∧ up ≠ 0)
    let pass := trained && enough k x.folRate up
    let m := wagMsg 6 (x.folSeq.getD 0).toNat (folSite k) k
      (leBytes 1 (if trained then 0 else 1) ++ leBytes 1 (if trained then up.toNat else 0) ++ leBytes 1 x.folRate)
    (s.setWag k { x with folTraining := !pass && decide (fails < 2), folFails := if pass then 0 else fails,
                         folReply := [m] }).wagSend k false m

/-! ## The leader's selection (R33, R37-R40) -/

/-- Whether the firmware recognises a die's revision (R40). -/
def State.recognised (s : State) (type : Nat) (rev : Byte) : Bool := s.pkg.iodImage.recognised.contains (type, rev)

/-- IDENT of a compute die (R18, R20, R24, R40).  The IDN_DIE words of a die whose straps exclude it stay 0 but for EXCLUDED, though
the words came in the same IDENT: R24 leaves that open (DESIGN CHOICE; log entry 99). -/
def State.identDie (s : State) (k : Nat) (m : WaggleMsg) : State :=
  let straps := wPay m 0 2
  let own := wPay m 2 8
  let mem := wPay m 10 8
  if bitsOf straps 0 3 ≠ k ∨ bitsOf straps 3 2 ≠ 0 ∨ bitsOf straps 5 4 ≠ s.rd IDN_PKG_VARIANT then s.wagFail k (some 1)
  else
    let base (type w : Nat) : Bool := bitsOf w 12 1 == 1 && !(s.recognised type (BitVec.ofNat 8 (bitsOf w 4 8)))
    let s1 := ((s.setDieWord k own).setDieWord (4 + k) mem)
    if bitsOf own 12 1 = 0 ∨ bitsOf mem 12 1 = 0 then s1.wagFail k (some 2)
    else
      let s2 := if base 1 own then (s1.wr (IDN_DIE_BASELINE.idx k) 1).wr IDN_PKG_BASELINE_ANY 1 else s1
      let s3 := if base 2 mem then ((s2.wr (IDN_DIE_BASELINE.idx (4 + k)) 1).wr IDN_PKG_BASELINE_ANY 1).wr
          (DMC_STATUS_BASELINE.idx k) 1 else s2
      s3.modWag k fun x => { x with phase := .offer }

/-- IDENT of the partner (R41, R42). -/
def State.identPartner (s : State) (m : WaggleMsg) (sigOk : Bool) : State :=
  let s1 := s.modPkg fun p => { p with partnerDesc := (m.drop 6).take 16 }
  if s.rd IDN_PKG_VARIANT = 2 ∧ sigOk = true then s1.modWag 9 fun x => { x with phase := .offer } else s1.wagFail 9 (some 6)

/-- The leader receives IDENT. -/
def State.wagIdent (s : State) (k : Nat) (m : WaggleMsg) (sigOk : Bool) : State :=
  s.wagReply k m 2 .hello fun s =>
    if k = 9 then s.identPartner m sigOk
    else if isRing k then s.modWag k fun x => { x with phase := .offer }
    else s.identDie k m

/-- SELECT sent (R30, R33). -/
def State.sendSelect (s : State) (k : Nat) : State :=
  let x := s.wag k
  s.wagRequest k 4 (leBytes 4 x.cap.toNat ++ leBytes 1 x.rate ++ leBytes 1 x.mods.toNat) .select

/-- The capability word in force on a link (R37, R39, R40): both sides' words ANDed; BASE alone for a die in the baseline mode. -/
def State.selectCap (s : State) (k : Nat) (m : WaggleMsg) : BitVec 32 :=
  let offered := BitVec.ofNat 32 (wPay m 0 4)
  let theirs := if k = 9 then offered else if s.on (IDN_DIE_BASELINE.idx (folSite k)) then 1 else offered
  (if isRing k then s.offerOf (leadSite k) else capOffer (identCap s.pkg.inputs.iodIdent)) &&& theirs

/-- The rate code that the leader selects (R33): the highest both ends and the link allow.  R33 names no source of the leader's own
highest rate: the model takes 32 GT/s (16 GT/s on link 9 and on a ring link without RING_32G; DESIGN CHOICE, log entry 97). -/
def State.selectRate (s : State) (k : Nat) (m : WaggleMsg) : Nat :=
  let top := if k = 9 then 3 else if isRing k ∧ (s.selectCap k m).getLsbD 4 = false then 3 else 5
  min top (wPay m 4 1)

/-- The modules that are good at both ends (R19, R33). -/
def State.selectMods (s : State) (k : Nat) (m : WaggleMsg) : BitVec 4 :=
  let good := if k = 9 then 1 else if isRing k then ringGood (identGood (s.cdIdent (leadSite k))) (leadSite k) k
    else bitsOf (identGood s.pkg.inputs.iodIdent) (4 * k) 4
  BitVec.ofNat 4 good &&& BitVec.ofNat 4 (wPay m 5 1)

/-- What the leader keeps of an OFFER. -/
def State.noteOffer (s : State) (k : Nat) (m : WaggleMsg) : State :=
  s.modWag k fun x =>
    { x with cap := s.selectCap k m, rate := s.selectRate k m, mods := s.selectMods k m, offer := BitVec.ofNat 32 (wPay m 0 4), fails := 0 }

/-- The leader receives OFFER and selects (R33, R37, R39, R40).  An offer whose common modules are none, or cannot reach what R33
asks at the selected rate, is rejected at once with 0x04, without training (DESIGN CHOICE; log entry 124). -/
def State.wagOffer (s : State) (k : Nat) (m : WaggleMsg) : State :=
  s.wagReply k m 3 .offer fun s =>
    if s.selectMods k m = 0 ∨ enough k (s.selectRate k m) (s.selectMods k m) = false then (s.noteOffer k m).wagFail k (rejectOf k 4)
    else (s.noteOffer k m).sendSelect k

/-- The leader receives CONFIRM, the echo of its SELECT. -/
def State.wagConfirm (s : State) (k : Nat) (m : WaggleMsg) : State :=
  s.wagReply k m 5 .select fun s =>
    if (m.drop 4).take 24 = ((s.wag k).request.drop 4).take 24 then s.modWag k fun x => { x with phase := .training } else s

/-- Training failed twice at a rate: one step lower, or the end (R33, R35). -/
def State.stepDown (s : State) (k : Nat) : State :=
  let x := s.wag k
  if x.rate = 0 ∨ enough k (x.rate - 1) x.mods = false then s.wagFail k (if isRing k then none else rejectOf k 4)
  else (s.setWag k { x with rate := x.rate - 1, fails := 0 }).sendSelect k

/-- DONE sent: the global comb base (R30, R35). -/
def State.sendDone (s : State) (k : Nat) : State :=
  s.wagRequest k 7 (leBytes 1 (if k < 4 then 16 * k else 0)) .done

/-- TRAINED of the link's own follower (R33). -/
def State.ownTrained (s : State) (k : Nat) (m : WaggleMsg) : State :=
  s.wagReply k m 6 .training fun s =>
    let up := BitVec.ofNat 4 (wPay m 1 1)
    let rate := wPay m 2 1
    if wPay m 0 1 = 0 ∧ enough k rate up = true ∧ up ≠ 0 then
      (s.modWag k fun x => { x with rate := rate, mods := up, fails := 0 }).sendDone k
    else
      let s1 := s.modWag k fun x => { x with fails := x.fails + 1 }
      if 2 ≤ (s1.wag k).fails then s1.stepDown k else s1

/-- IDN_LINK shows a link in use (R25). -/
def State.linkUp (s : State) (k rate : Nat) (mods : BitVec 4) (repair : Bool) : State :=
  let full : Nat := if k < 4 then 15 else if isRing k then 3 else 1
  let nominal : Nat := if k = 9 then 3 else if k = 8 then 0 else 5
  let degraded := decide (rate < nominal ∨ mods.toNat ≠ full)
  let s1 := ((((s.wr (IDN_LINK_RATE.idx k) rate).wr (IDN_LINK_MOD_UP.idx k) mods.toNat).wrB (IDN_LINK_REPAIR2.idx k) repair).wrB
    (IDN_LINK_DEGRADED.idx k) degraded).wr (IDN_LINK_DOWN.idx k) 0
  s1.linkEvent k (if degraded then 2 else 0) false

/-- The report of a ring link's outcome at the Eztos die (R35): recorded once and echoed. -/
def State.ringTrained (s : State) (k : Nat) (m : WaggleMsg) : State :=
  let r := wLink m
  if leadSite r ≠ k then s
  else
    let s1 := (s.modWag r fun x => { x with echo := m }).wagSend k true m
    if (s.wag r).recorded then s1
    else
      let s2 := s1.modWag r fun x => { x with recorded := true }
      if wPay m 0 1 = 0 then s2.linkUp r (wPay m 2 1) (BitVec.ofNat 4 (wPay m 1 1)) ((s.wag r).cap.getLsbD 3)
      else (s2.linkDown r).linkEvent r 3 false

/-- A compute die receives the echo of a report (R35); a bad CHECK gets NAK (R31). -/
def State.reportEchoed (s : State) (k : Nat) (m : WaggleMsg) : State :=
  let r := wLink m
  if wOk m = false then s.wagSend k false (wagMsg 0xF (wSeq m) (folSite k) k (leBytes 1 (wSeq m)))
  else if wType m = 6 ∧ isRing r = true ∧ leadSite r = k ∧ (s.wag r).report = m then s.modWag r fun x => { x with reported := true }
  else s

/-- TRAINED: at the leader that of its follower or, on links 0-3, a ring link's outcome; at the follower the echo of the latter. -/
def State.wagTrained (s : State) (k : Nat) (toFollower : Bool) (m : WaggleMsg) : State :=
  if toFollower then s.reportEchoed k m
  else if wOk m ∧ wType m = 6 ∧ k < 4 ∧ isRing (wLink m) = true then s.ringTrained k m else s.ownTrained k m

/-! ## DONE (R34, R35, R41) -/

/-- The ring links of a die whose other end is done too start (R35). -/
def State.startRings (s : State) (n : Nat) : State :=
  (ringOf n).foldl (fun s k =>
    if (s.wag (leadSite k)).phase = .complete ∧ (s.wag (folSite k)).phase = .complete ∧ (s.wag k).phase = .idle then s.wagStart k
    else s) s

/-- The partner's window enters the partition table once it is admitted and the firmware has planned memory (R41). -/
def State.grantPartner (s : State) : State :=
  if s.pkg.partnerAdmitted then { s with mem := { s.mem with ranges := s.mem.ranges ++ s.mem.partner, partner := [] } } else s

/-- A die has reached DONE (R22, R34, R41). -/
def State.reachDone (s : State) (k : Nat) : State :=
  let x := s.wag k
  let s1 := s.setWag k { x with phase := .complete }
  if isRing k then s1.sendReport k 0 x.mods
  else if k = 9 then
    let d := s1.pkg.partnerDesc
    let w := 0xF + 2 ^ 4 * field d 4 1 + 2 ^ 12 + 2 ^ 16 * field d 0 2 + 2 ^ 32 * field d 2 2
    ((((s1.setDieWord 10 w).wr (IDN_PKG_INCLUDED.bit 6) 1).linkUp 9 x.rate x.mods false).modPkg fun p =>
      { p with partnerAdmitted := true }).grantPartner
  else
    ((((s1.wr (IDN_PKG_INCLUDED.bit k) 1).linkUp k x.rate x.mods (x.cap.getLsbD 3)).startRings k).showMixed).settleDies

/-- DONE at the follower, which echoes it, or its echo at the leader. -/
def State.wagDone (s : State) (k : Nat) (toFollower : Bool) (m : WaggleMsg) : State :=
  if toFollower then
    s.wagServe k m 7 fun s =>
      (s.modWag k fun x => { x with folDone := true }, [wagMsg 7 (wSeq m) (folSite k) k ((m.drop 4).take 24)])
  else s.wagReply k m 7 .done fun s => s.reachDone k

/-- A follower receives REJECT and stays in reset (R34); a bad CHECK gets NAK (R31). -/
def State.wagReject (s : State) (k : Nat) (m : WaggleMsg) : State :=
  if wOk m ∧ wType m = 0xE then s.modWag k fun x => { x with folRejected := true, folTraining := false }
  else if wOk m then s
  else s.wagSend k false (wagMsg 0xF (wSeq m) (folSite k) k (leBytes 1 (wSeq m)))

/-- The ring links that compute die `k` leads. -/
def ledBy (k : Nat) : List Nat := [4, 5, 6, 7].filter fun r => leadSite r == k

/-- NAK (R31, R32, R35): the follower repeats its last reply or its report, the leader its request, its REJECT or its echo of a
report.  A NAK whose own CHECK is bad gets NAK (R31). -/
def State.wagNak (s : State) (k : Nat) (toFollower : Bool) (m : WaggleMsg) : State :=
  let x := s.wag k
  let seq := wPay m 0 1
  if wOk m = false then
    if toFollower = false then s.wagNakReply k m
    else if x.folRejected then s else s.wagSend k false (wagMsg 0xF (wSeq m) (folSite k) k (leBytes 1 (wSeq m)))
  else if wType m ≠ 0xF then s
  else if toFollower then
    if x.folSeq = some (BitVec.ofNat 8 seq) then x.folReply.foldl (fun s r => s.wagSend k false r) s
    else (ledBy k).foldl (fun s r =>
      if (s.wag r).report ≠ [] ∧ (s.wag r).reported = false ∧ wSeq (s.wag r).report = seq then s.wagSend k false (s.wag r).report
      else s) s
  else if x.isOver = false ∧ seq = x.seq.toNat then s.wagRetry k
  else if x.reject ≠ [] ∧ wSeq x.reject = seq then s.wagSend k true x.reject
  else (ledBy k).foldl (fun s r =>
    if (s.wag r).echo ≠ [] ∧ wSeq (s.wag r).echo = seq then s.wagSend k true (s.wag r).echo else s) s

/-- Links 0-3 begin, and on the IG940-PQ link 9 (R26). -/
def State.startWaggle (s : State) : State :=
  let s1 := (List.range 4).foldl State.wagStart s
  if s.rd IDN_PKG_VARIANT = 2 then s1.wagStart 9 else s1

/-- Whether every ring link between two included dies is DONE or DOWN (R26, R35). -/
def State.ringsSettled (s : State) : Bool :=
  [4, 5, 6, 7].all fun k =>
    !(s.dieIncluded (leadSite k) && s.dieIncluded (folSite k)) || (s.wag k).recorded

/-! ## A die lost in service (R43, R46, R67) -/

/-- WARM_TRAIN written once more when the short retrains have ended on every included pair (R67): set only where no pair needed full
training. -/
def State.warmTrainEnds (s : State) : State :=
  let ended := s.includedDies.all fun d => s.pkg.shortTrainEnded.getLsbD d
  let full := (List.range 4).any fun d => s.pkg.shortTrainEnded.getLsbD d && !s.pkg.shortTrainPassed.getLsbD d && (s.wag d).phase == .complete
  if s.pkg.warmReset ∧ ended = true ∧ s.diesSettled = true ∧ s.includedDies ≠ [] then s.wrB PWR_RSTCAUSE_WARM_TRAIN (!full) else s

/-- A compute die lost in service (R43, R46, R58, R269, R307): its link goes DOWN with its LINK_STATE, what is outstanding on it
completes with an error, and its pair is excluded; with the last pair that still trained lost, the boot steps that waited for it go on (R27, R67). -/
def State.loseDie (s : State) (n : Nat) : State :=
  if s.on (IDN_PKG_INCLUDED.bit n) then ((((s.linkDown n).linkEvent n 3 true).failLink n).excludePair n).replayHost.warmTrainEnds.bootWait
  else s

end Sys2Proof.Machine
end

