-- ==== Sys2Proof/Machine/DramCmds.lean ====
section
/-!
DEFINITION. The commands of the DRAM controllers: requests, service, refresh, rows, parity and scrubbing (R283-R300, R303-R310,
R315-R324).
-/
namespace Sys2Proof.Machine

/-! ## Requests -/

/-- DRAM_REQUEST (R293, R315, R318, R327): a request made on its die passes the links and reaches its controller; one that fails the
partition check moves no credit on its way.  A partner die that is not admitted has no way in (R41). -/
def execDramRequest (r : DramReq) (s : State) : Out :=
  let q := s.niReq r
  if s.niSource r = false then .next s
  else if s.allowed (reqWho q) r.addr = false then .next ((s.violation (reqWho q) r.addr r.kind).respond q E_PARTITION [] [])
  else .next (s.goOn { req := q, place := 0 } (s.dieRoute r.source (s.dieOffset r.addr).1))

/-! ## Service (R294-R297, R304, R305, R319) -/

/-- A request leaves its queue. -/
def Chan.drop (x : Chan) (isRead : Bool) (q : ChanReq) : Chan :=
  if isRead then { x with reads := x.reads.eraseP (· == q) } else { x with writes := x.writes.eraseP (· == q) }

/-- A bank that owes refreshes and that no request waits for makes them up (R299). -/
def State.idleRefresh (s : State) (d c b : Nat) : State :=
  let x := s.chan d c
  let k := x.bank b
  let wanted := (x.reads ++ x.writes).any fun q => offBank (s.dieOffset q.req.addr).2 == b
  if k.debt = 0 ∨ wanted = true then s else s.setChan d c (x.setBank b { k with debt := 0, row := none })

/-- What ECC finds in word `w` of a request as the array is read (R304, R305): `errs` says it for each word; no error is found in
a word that was poisoned already, that an older write still queued gives, or that a write stores whole. -/
def State.arrayErr (s : State) (d c : Nat) (q : ChanReq) (errs : List Nat) (w : Nat) : Nat :=
  let given := (s.chan d c).writes.any fun x => decide (x.ord < q.ord) && x.req.kind == 1
    && decide (x.req.addr / 64 ≤ q.req.addr / 64 + w ∧ q.req.addr / 64 + w < x.req.addr / 64 + x.req.words)
    && !(rmwWord x.req (q.req.addr / 64 + w - x.req.addr / 64))
  if q.was.getD w false ∨ (q.req.kind = 0 ∧ given = true) ∨ (q.req.kind ≠ 0 ∧ rmwWord q.req w = false) then 0 else errs.getD w 0

/-- A queued request learns whether a word it touches was poisoned before it took effect. -/
def ChanReq.noteWas (x : ChanReq) (word : Nat) (p : Bool) : ChanReq :=
  { x with was := (List.range x.req.words).map fun i => if x.req.addr / 64 + i = word then p else x.was.getD i false }

/-- Whether a request touches word number `word`. -/
def touchesWord (r : DramReq) (word : Nat) : Bool := decide (r.addr / 64 ≤ word ∧ word < r.addr / 64 + r.words)

/-- Whether a word is poisoned after a write of it (R296, R305). -/
def poisonAfter (r : DramReq) (word : Nat) (p : Bool) : Bool :=
  if r.kind = 2 then p else r.poison.getD (word - r.addr / 64) false

/-- What a queued read of word number `word` finds now that the word was stored poisoned as of order `ord` (R295, R305): poison, unless a
write that came between gave it other data. -/
def Chan.readWas (x : Chan) (ord word : Nat) (r : ChanReq) : Bool :=
  (x.writes.filter fun w => decide (ord < w.ord ∧ w.ord < r.ord) && touchesWord w.req word).foldl (fun p w => poisonAfter w.req word p) true

/-- Word number `word` is stored poisoned, as of request `q`: the reads of it that are queued return it so, and the younger writes still
queued take effect on it again in their order (R295, R296, R305). -/
def State.spoil (s : State) (d c : Nat) (q : ChanReq) (word : Nat) : State :=
  let x0 := s.chan d c
  let x1 := { x0 with reads := x0.reads.map fun r => if touchesWord r.req word then r.noteWas word (x0.readWas q.ord word r) else r }
  x0.writes.foldl (fun s x =>
    if decide (q.ord < x.ord) && touchesWord x.req word then
      let y := s.chan d c
      (s.setChan d c { y with writes := y.writes.map fun z => if z.ord = x.ord then z.noteWas word (s.isPoisoned word) else z }).applyAt
        x.req (word - x.req.addr / 64)
    else s) ((s.setChan d c x1).poisonWord word)

/-- A request served; `errs` is what ECC finds in each word that is read (R296, R304, R305). -/
def State.serveReq (s : State) (d c : Nat) (isRead : Bool) (q : ChanReq) (errs : List Nat) : State :=
  let r := q.req
  let point := 32 * d + c
  let o := (s.dieOffset r.addr).2
  let words := List.range r.words
  let bad := words.filter fun w => s.arrayErr d c q errs w == 2
  let mended := (words.filter fun w => s.arrayErr d c q errs w == 1).length
  let s1 := ((s.setChan d c ((s.chan d c).drop isRead q)).carry point d q.cls (reqCol q) (absDeadline q - s.tclk) r.words).noteTurn
    point r.label
  let s2 := if q.cls = 0 ∧ absDeadline q < s.tclk then s1.inc (BWR_DLMISS_COUNT.bank (d * 17 + reqCol q)) else s1
  let s3 := (s2.inc (DMC_CE_COUNT.idx d) mended).afterAccess d c o r.hint
  let s4 := bad.foldl (fun s w => s.spoil d c q (r.addr / 64 + w)) s3
  let s5 := if bad = [] then s4 else s4.logReq d (if isRead then 1 else 6) q bad
  let marks := words.map fun w => q.was.getD w false || bad.contains w
  let s6 := if isRead then s5.respond q (if marks.any id then E_POISON else 0) q.data marks
    else if bad ≠ [] ∨ r.kind = 2 then s5.respond q (if bad ≠ [] ∨ q.was.headD false = true then E_POISON else 0) [] []
    else s5
  ((s6.idleRefresh d c (offBank o)).drainMode d c).admitWaiting d c

/-- DRAM_CHANNEL_ISSUE (R297): channel `ch` of pair `d` serves its next request. -/
def execDramChannelIssue (d ch : Nat) (errs : List Nat) (s : State) : Out :=
  match s.nextReq d ch with
  | none => .next s
  | some (isRead, q) => .next (s.serveReq d ch isRead q errs)

/-! ## Refresh and rows (R294, R298-R300) -/

/-- tREFI in ns (R298). -/
def State.trefi (s : State) (d : Nat) : Nat := if s.on (DMC_STATUS_HOT.idx d) then 1950 else 3900

/-- Whether a bank's queues hold a request for it. -/
def State.bankWanted (s : State) (d c b : Nat) : Bool :=
  let x := s.chan d c
  (x.reads ++ x.writes).any fun q => offBank (s.dieOffset q.req.addr).2 == b

/-- REFRESH_DUE (R299): a refresh of a bank falls due; it is made up at once where no request wants the bank or 8 are owed. -/
def execRefreshDue (d ch b : Nat) (s : State) : Out :=
  if s.on (DMC_STATUS_SELF_REFRESH.idx d) ∨ s.on (DMC_STATUS_TRAINED.idx d) = false then .next s
  else
    let due := if ((s.chan d ch).bank b).due = 0 then 8 * s.tclk + s.trefi d else ((s.chan d ch).bank b).due
    let s1 := s.waitTo (ceilDiv due 8)
    let x := s1.chan d ch
    let k := x.bank b
    let debt := k.debt + 1
    let s2 := s1.raise (DMC_REF_MAX_DEBT.idx d) debt
    let next := due + s1.trefi d
    if 8 ≤ debt then
      .next ((s2.setChan d ch (x.setBank b { k with due := next, debt := 0, row := none })).inc (DMC_REF_BURSTS.idx d))
    else if s2.bankWanted d ch b then .next (s2.setChan d ch (x.setBank b { k with due := next, debt := debt }))
    else .next (s2.setChan d ch (x.setBank b { k with due := next, debt := 0, row := none }))

/-- The hot interval applies at once (R299). -/
def State.hastenRefresh (s : State) (d : Nat) : State :=
  let m := s.dmc d
  s.setDmc d { m with chans := tmap (fun c => { c with
    banks := tmap (fun b => { b with due := if b.due = 0 then 0 else min b.due (8 * s.tclk + 1950) }) c.banks }) m.chans }

/-- The readings of a Mimider die's 8 sensors, those of R485, that have been sampled (R298). -/
def State.mimiderTemps (s : State) (d : Nat) : List Int :=
  ((List.range 8).map (63 * d + 55 + ·)).filterMap fun i =>
    if s.on (THM_SENSOR_VALID.bank i) then some (toS16 (s.rd (THM_SENSOR_TEMP.bank i))) else none

/-- MIMIDER_SENSOR_READ (R298, R312): the controller reads the die's sensors, in 1/16 °C, and takes the highest.  `temps` are what it
reads, so they are what those sensors show. -/
def execMimiderSensorRead (d : Nat) (temps : List Int) (s : State) : Out :=
  match temps with
  | [] => .next s
  | t :: ts =>
    if temps ≠ s.mimiderTemps d then .next s else
    let top := ts.foldl max t
    let s1 := s.wr (DMC_STATUS_TEMP_MAX.idx d) (ofInt 8 (top / 16))
    let m := s1.dmc d
    if s1.on (DMC_STATUS_HOT.idx d) then
      let n := if top ≤ 1328 then m.cool + 1 else 0
      let s2 := s1.setDmc d { m with cool := if 10 ≤ n then 0 else n }
      .next (if 10 ≤ n then s2.wr (DMC_STATUS_HOT.idx d) 0 else s2)
    else if 1344 < top then .next (((s1.setDmc d { m with cool := 0 }).wr (DMC_STATUS_HOT.idx d) 1).hastenRefresh d)
    else .next s1

/-- ROW_IDLE_CLOSE (R294): an AUTO row closes 20 ns after its last request. -/
def execRowIdleClose (d ch b : Nat) (s : State) : Out :=
  let k := (s.chan d ch).bank b
  match k.row with
  | none => .next s
  | some row =>
    let wanted := ((s.chan d ch).reads ++ (s.chan d ch).writes).any fun r =>
      let o := (s.dieOffset r.req.addr).2
      offBank o == b && offRow o == row
    if k.policy = 0 ∧ wanted = false then
      let s1 := s.waitTo (k.lastUse + 3)
      .next (s1.setChan d ch ((s1.chan d ch).setBank b { k with row := none }))
    else .next s

/-! ## Parity and scrubbing (R307, R308) -/

/-- The words of a write that a failed command spoils (R307, R296): all of them, but where its read burst failed only those that it was to
read. -/
def failWords (readBurst : Bool) (q : ChanReq) : List Nat :=
  (List.range q.req.words).filter fun w => !readBurst || rmwWord q.req w

/-- A request whose command failed (R307): a read returns poison and leaves the stored data; `words` of a write are stored
poisoned. -/
def State.failReq (s : State) (d c : Nat) (isRead : Bool) (words : List Nat) (q : ChanReq) : State :=
  if isRead then s.respond q E_POISON q.data ((List.range q.req.words).map fun _ => true)
  else (words.foldl (fun s w => s.spoil d c q (q.req.addr / 64 + w)) s).respond q E_POISON [] []

/-- COMMAND_PARITY_FAILURE (R307): `what` is 0 a read burst, 1 a write burst at device address `place`, 2 an activate or precharge
and 3 a refresh of bank `place`.  The read burst of a read-modify-write fails as its merge does (R296). -/
def execCommandParityFailure (d ch what place : Nat) (s : State) : Out :=
  let x := s.chan d ch
  let rowCmd := decide (2 ≤ what)
  let same (q : ChanReq) : Bool :=
    if rowCmd then offBank (s.dieOffset q.req.addr).2 == place else q.req.addr / 512 == place / 512
  let reads := if what = 1 then [] else x.reads.filter same
  let writes := if what = 0 then x.writes.filter fun q => same q && isRmw q.req else x.writes.filter same
  let x1 := { x with reads := x.reads.filter (fun q => !reads.contains q), writes := x.writes.filter (fun q => !writes.contains q),
                     parityAt := some s.tclk }
  let b := x1.bank place
  let x2 := if rowCmd then x1.setBank place { b with row := none, debt := if what = 3 then b.debt + 1 else b.debt } else x1
  let s0 := s.setChan d ch x2
  let fails := failWords (decide (what = 0))
  let s1 := writes.foldl (fun s q => s.failReq d ch false (fails q) q) (reads.foldl (fun s q => s.failReq d ch true [] q) s0)
  let s2 := if rowCmd then
      let row := (x.bank place).row.getD 0
      s1.logDram d 5 (512 * ch + 2 ^ 17 * (place ^^^ row % 16) + 2 ^ 21 * row) 0 0 0 0 0xFF (reads.length + writes.length)
    else match (reads ++ writes).head? with
      | some q => s1.logReq d (what + 3) q (if reads = [] then fails q else List.range q.req.words)
      | none => s1.logDram d (what + 3) (s1.dieOffset place).2 8 (place / 512 * 512) 0 0 0xFF 0
  let s3 := (((List.range 16).foldl (fun s b => s.idleRefresh d ch b) s2).drainMode d ch).admitWaiting d ch
  let again : Bool := match x.parityAt with
    | some t => decide (s.tclk < t + 125000)
    | none => false
  if again then fin (s3.loseDie d) else .next s3

/-- PATROL_SCRUB (R308): the scrubber of pair `d` reads its next word in a maintenance-class request with HINT CLOSE; `err` is what
ECC finds. -/
def execPatrolScrub (d err : Nat) (s : State) : Out :=
  s.unlessStalled fun s => if s.on (DMC_STATUS_TRAINED.idx d) = false ∨ s.on (DMC_STATUS_EXCLUDED.idx d) = true then .next s
  else
    let m := s.dmc d
    let o := 64 * m.scrub
    let a := s.addrOf d o
    let s1 := (s.setDmc d { m with scrub := (m.scrub + 1) % 2 ^ 28 }).passBurst scrubWho false a 64
    if s1.isPoisoned (a / 64) then .next s1
    else if err = 1 then .next (s1.inc (DMC_CE_COUNT.idx d))
    else if err = 2 then .next ((s1.spoil d (offCh o) { req := { kind := 0, addr := a, words := 1, source := 0x47 }, ord := s1.mem.reqOrd } (a / 64)).logDram d 2 o 1 a 0 0 0x47 1)
    else .next s1

/-- BWR_CLEAR (R332): every counter of every point. -/
def execBwrClear (s : State) : Out :=
  .next { s with
    mem := { s.mem with clsBytes := [], colBytes := [], excess := [] }
    regs := s.regs.filter fun e => !(e.1 % 0x400000 == 0x4B044 || e.1 % 0x400000 == 0x4B048) }

end Sys2Proof.Machine
end

