-- ==== Sys2Proof/Machine/FusionCmds.lean ====
section
/-!
DEFINITION. The fusion engine's commands: intake (R357, R358), the close of an instant (R355), its outputs (R376, R377), and
FUSE_COLLECT, FUSE_CONFIG and CALIB_LOAD (R360-R363, R373-R376).
-/
namespace Sys2Proof.Machine

/-! ## Intake -/

/-- The first arriving item that `sel` picks, taken by `eff` once its check is complete (R430). -/
def State.takeNectar (s : State) (sel : Nectar → Bool) (eff : State → Nectar → State) : State :=
  match s.fus.arriving.find? sel with
  | none => s
  | some x => eff ({ s with fus := { s.fus with arriving := s.fus.arriving.eraseP sel } }.waitNs x.due) x

/-- LIDAR_PACKET (R357): the next packet that is not a camera frame completes in the intake. -/
def execLidarPacket (s : State) : Out :=
  if s.workHeld then .next s else .next (s.takeNectar (fun x => x.kind != 1) State.takePacket)

/-- CAMERA_FRAME (R358): the next camera frame completes in the intake. -/
def execCameraFrame (s : State) : Out :=
  if s.workHeld then .next s else .next (s.takeNectar (fun x => x.kind == 1) State.takeFrame)

/-! ## Instants -/

/-- Whether the fusion engine gives nothing out: work is held, the engine restarts, or a vote has stopped it (R60, R475, R454).  An
instant whose close falls in a restart is given out after it. -/
def State.fusionHeld (s : State) : Bool :=
  s.workHeld || (s.saf.restarts.any fun r => r.cls == 2) || s.on (GRD_STATUS_REFUSED.bit 2)

/-- INSTANT_CLOSE (R355, R357, R366, R376): the time base passes C_k of the next instant, whose tick still counts.  `refine` is what the
Gauss-Newton iterations add to the result of the voxel levels, and `corners` are the corners found in the camera of each calibration slot
(log entry 60). -/
def execInstantClose (refine : List Word) (corners : List Nat) (s : State) : Out :=
  let k := s.nextInstant
  let s1 := s.waitNs (s.fus.ck k + 1)
  if s.fusionHeld ∨ s.fus.closed.isSome ∨ s1.now ≤ s.fus.ck k then .next s else .next (s1.closeInstant k refine corners)

/-- The camera table that a FUSE_COLLECT names, read at its checks: the state, the status and the bytes. -/
def State.camTable (s : State) (d : Nat) (r : Rec) : State × Nat × List Byte :=
  let b := r.bytes
  let n := bitsOf (field b 40 1) 0 5
  if field b 32 4 = 0 ∨ s.objFits (field b 32 4) (64 * field b 36 4) (16 * n) = false then (s, 0, [])
  else s.objLoad (s.collectWho d r) (field b 32 4) (64 * field b 36 4) (16 * n)

/-- Bytes of a table entry's fields. -/
def camEntryLayout : Layout := [(0, 0, 16), (2, 0, 2), (4, 0, 32), (8, 0, 32), (12, 0, 32)]

/-- Check 9 of R115 for FUSE_COLLECT (R375). -/
def State.collectCheck (s : State) (d : Nat) (r : Rec) : Nat × Nat :=
  let b := r.bytes
  let n := bitsOf (field b 40 1) 0 5
  let (_, st, t) := s.camTable d r
  let es := camEntries t
  let cal (e : List Byte) : List Byte :=
    match calSlot s.fus.calibs (field e 0 2) with
    | some j => if calKind (s.calib j) = 1 then s.calib j else []
    | none => []
  let ids := es.map fun e => field e 0 2
  let entryOk (e : List Byte) : Bool := decide (bitsOf (field e 2 1) 0 2 ≤ 2 ∧ field e 12 4 % 64 = 0)
    && decide (2 * (field (cal e) 4 2 / camDs e) ≤ field e 12 4)
    && s.objFits (field e 4 4) (64 * field e 8 4) (camBytes (cal e) e)
  firstField
    [ ((s.objOf (field b 16 4)).isSome, E_HANDLE, 16),
      (field b 24 4 == 0 || (s.objOf (field b 24 4)).isSome, E_HANDLE, 24),
      (field b 32 4 == 0 || (s.objOf (field b 32 4)).isSome, E_HANDLE, 32),
      (st == 0, st, 32),
      (es.all fun e => (s.objOf (field e 4 4)).isSome, E_HANDLE, 32),
      (es.all fun e => reservedOk camEntryLayout e, E_RESERVED, 32),
      (decide (n ≤ 16) && (n == 0) == (field b 32 4 == 0), E_RANGE, 40),
      (s.objFits (field b 16 4) (64 * field b 20 4) 512, E_RANGE, 20),
      (field b 24 4 == 0 || s.objFits (field b 24 4) (64 * field b 28 4) 33554432, E_RANGE, 28),
      (field b 32 4 == 0 || s.objFits (field b 32 4) (64 * field b 36 4) (16 * n), E_RANGE, 36),
      (es.all entryOk && decide ids.Nodup, E_RANGE, 32),
      (es.all fun e => cal e != [], E_CALIB, 32) ]

/-- FUSE_COLLECT (R375, R376): the record reads its camera table and waits for the next instant that closes. -/
def execFuseCollect (d : Nat) (s : State) : Out := s.unlessStalled fun s0 =>
  let s := s0.checkReads d 0x40 (fun _ => true) fun s r => (s.camTable d r).1
  fin (s.runOp d 0x40 (fun _ => true) (s.collectCheck d) fun s r => s.modRec d r.seq fun x => { x with table := (s.camTable d r).2.2 })

/-- Stretches written to an object one after another; the first failure stands. -/
def State.storeAll (s : State) (who : Who) (h off : Nat) (l : List (Nat × List Byte)) : State × Nat :=
  l.foldl (fun a e =>
    if a.2 ≠ 0 then a
    else a.1.objStore who h (off + e.1) e.2) (s, 0)

/-- The grid's words, a stretch for each x-y plane row that holds anything written whole: every word of the grid (R371). -/
def gridRows (f : Fusion) (g : Table Vox) : List (Nat × List Byte) :=
  (List.range 16384).map fun row =>
    (2048 * row, (List.range 512).flatMap fun x => leBytes 4 ((tget ({} : Vox) g (512 * row + x)).word f))

/-- The outputs of one collector (R369, R371, R377): the tensors, the grid, and then the header stamped OUT_TIME. -/
def State.collect (s : State) (x : Closed) (d : Nat) (r : Rec) : State × Nat :=
  let b := r.bytes
  let f := s.fus
  let who := s.collectWho d r
  let g := x.grid f
  let cams := (camEntries r.table).foldl (fun (a : State × Nat) e =>
    match calSlot x.calibs (field e 0 2) with
    | none => a
    | some j =>
      if a.2 ≠ 0 then a
      else a.1.storeAll who (field e 4 4) (64 * field e 8 4) (x.tensor f g j (camDs e) (field e 12 4))) (s, 0)
  let bev := if cams.2 ≠ 0 ∨ field b 24 4 = 0 then cams
    else cams.1.storeAll who (field b 24 4) (64 * field b 28 4) (gridRows f g)
  if bev.2 ≠ 0 then bev
  else bev.1.objStore who (field b 16 4) (64 * field b 20 4) (x.header f g bev.1.now)

/-- FUSION_OUTPUT_DONE (R376, R377): the next collector of the closed instant has its outputs, and its record completes. -/
def execFusionOutputDone (s : State) : Out := s.unlessStalled fun s =>
  match s.fus.closed with
  | none => .next s
  | some x =>
    if s.fusionHeld then .next s
    else
      match x.collectors with
      | [] => .next { s with fus := { s.fus with closed := none } }
      | (d, seq) :: rest =>
        let s1 := { s with fus := { s.fus with closed := if rest = [] then none else some { x with collectors := rest } } }
        match (s1.queue d).recs.find? fun r => r.seq == seq with
        | none => .next s1
        | some r =>
          let (s2, st) := s1.collect x d r
          if st = 0 then fin (s2.completeRec d seq 0)
          else fin ((s2.spoilOutputs x d r).faultRec d seq st)

/-! ## FUSE_CONFIG (R373) -/

/-- Check 9 of R115 for FUSE_CONFIG. -/
def fuseConfigCheck (r : Rec) : Nat × Nat :=
  let b := r.bytes
  let z := toS16 (field b 24 2)
  firstField
    [ (decide (10 ≤ field b 16 1 ∧ field b 16 1 ≤ 100), E_RANGE, 16), (decide (1 ≤ field b 17 1), E_RANGE, 17),
      (decide (128 ≤ field b 18 1), E_RANGE, 18), (decide (field b 19 1 ≤ 127), E_RANGE, 19),
      (decide (field b 20 4 ≤ field b 16 1 * 500), E_RANGE, 20), (decide (-1000 ≤ z ∧ z ≤ 0), E_RANGE, 24) ]

/-- FUSE_CONFIG (R373): it takes effect when no closed instant is processed, and discards the open instants. -/
def execFuseConfig (d : Nat) (s : State) : Out :=
  if s.fus.closed.isSome then .next s
  else
    fin (s.runOp d 0x42 (fun _ => true) fuseConfigCheck fun s r =>
      let b := r.bytes
      let s1 := s.discardOpen
      let s2 := { s1 with fus := { s1.fus with
        period := field b 16 1, nMin := field b 17 1, occHi := field b 18 1, freeLo := field b 19 1, holdoff := field b 20 4,
        z0 := toS16 (field b 24 2) } }
      (s2.wr FUS_STATUS_PERIOD (field b 16 1)).completeRec d r.seq 0)

/-! ## CALIB_LOAD (R360, R363) -/

/-- MODE of a CALIB_LOAD. -/
def calRemove (r : Rec) : Bool := bitsOf (field r.bytes 16 1) 0 1 == 1

/-- The calibration that a CALIB_LOAD names: the state after its reads, its status and bytes, 640 for a lidar. -/
def State.calibObj (s : State) (d : Nat) (r : Rec) : State × Nat × List Byte :=
  let b := r.bytes
  let who := s.recWho d r 0x43
  let off := 64 * field b 24 4
  if calRemove r || !s.objFits (field b 20 4) off 128 then (s, 0, [])
  else
    let (s1, st, c) := s.objLoad who (field b 20 4) off 128
    if st ≠ 0 ∨ calKind c ≠ 2 ∨ s.objFits (field b 20 4) off 640 = false then (s1, st, c)
    else
      let (s2, st', c') := s1.objLoad who (field b 20 4) (off + 128) 512
      (s2, st', c ++ c')

/-- The slot that a load takes (R363): the sensor's own, else the lowest free one. -/
def State.calibPlace (s : State) (sensor : Nat) : Option Nat :=
  match calSlot s.fus.calibs sensor with
  | some j => some j
  | none => (List.range 32).find? fun j => s.calib j == []

/-- Check 9 of R115 for CALIB_LOAD (R363). -/
def State.calibCheck (s : State) (d : Nat) (r : Rec) : Nat × Nat :=
  let b := r.bytes
  if calRemove r then firstField [(field b 20 4 == 0, E_RANGE, 20), (field b 24 4 == 0, E_RANGE, 24)]
  else
    let off := 64 * field b 24 4
    let (_, st, c) := s.calibObj d r
    firstField
      [ ((s.objOf (field b 20 4)).isSome, E_HANDLE, 20), (s.objFits (field b 20 4) off 128, E_RANGE, 24), (st == 0, st, 20),
        (calKind c != 2 || s.objFits (field b 20 4) off 640, E_RANGE, 24),
        (calOk c (field b 18 2), E_CALIB, 20), ((s.calibPlace (field b 18 2)).isSome, E_NORES, 18) ]

/-- CALIB_LOAD in load mode (R363). -/
def execCalibLoad (d : Nat) (s : State) : Out := s.unlessStalled fun s0 =>
  let s := s0.checkReads d 0x41 (fun r => !calRemove r) fun s r => (s.calibObj d r).1
  fin (s.runOp d 0x41 (fun r => !calRemove r) (s.calibCheck d) fun s r =>
    let b := r.bytes
    match s.calibPlace (field b 18 2), s.handleIdx 1 (field b 20 4) with
    | some j, some i =>
      let c := (s.calibObj d r).2.2
      let c' := if calKind c = 2 then c else c.take 128
      let s0 := if s.calib j ≠ [] ∧ calKind (s.calib j) ≠ calKind c then s.dropSlot j else s
      let s1 := { s0 with fus := { s0.fus with
        calibs := tset [] s0.fus.calibs j c', calibRef := tset (2 ^ 20, 0) s0.fus.calibRef j (i, 64 * field b 24 4) } }
      s1.completeRec d r.seq 0
    | _, _ => s)

/-- CALIB_LOAD in remove mode (R363): the sensor's slot is freed. -/
def execCalibRemove (d : Nat) (s : State) : Out :=
  fin (s.runOp d 0x41 calRemove (s.calibCheck d) fun s r =>
    let s1 := match calSlot s.fus.calibs (field r.bytes 18 2) with
      | some j =>
        let s0 := s.dropSlot j
        { s0 with fus := { s0.fus with
          calibs := tset [] s0.fus.calibs j [], calibRef := tset (2 ^ 20, 0) s0.fus.calibRef j (2 ^ 20, 0) } }
      | none => s
    s1.completeRec d r.seq 0)

end Sys2Proof.Machine
end

