-- ==== Sys2Proof/Machine/Join.lean ====
section
/-!
DEFINITION. The join of island B by challenge-response over link 8 (R436-R438).
-/
namespace Sys2Proof.Machine

def State.modJoin (s : State) (f : Join → Join) : State := { s with saf := { s.saf with join := f s.saf.join } }

/-- A join message: its content with the CRC-16 that ends it (R436). -/
def joinMsg (content : List Byte) : List Byte := content ++ leBytes 2 (crc16 content).toNat

/-- Whether a join message of `n` content bytes passes its CRC. -/
def joinOk (n : Nat) (m : List Byte) : Bool := decide (m.length = n + 2) && (crc16 (m.take n)).toNat == field m n 2

/-- A message on link 8. -/
def State.joinSend (s : State) (toB : Bool) (content : List Byte) : State :=
  s.modJoin fun j => { j with sent := j.sent ++ [(toB, joinMsg content)] }

/-- A MAC of the join (R436): HMAC-SHA-256 under the pairing key, cut to 16 bytes, over the sender's letter, the receiver's and the
sender's nonce, and the Eztos and the Uathal IDN_DIE word. -/
def joinMac (key : List Byte) (letter : Byte) (theirs mine eztos uathal : List Byte) : List Byte :=
  (hmac256 (padTo 32 key) ([letter] ++ padTo 16 theirs ++ padTo 16 mine ++ padTo 8 eztos ++ padTo 8 uathal)).take 16

/-- MAC_B as island A computes it over a nonce of its own and what a JOIN_RESP carries (R436). -/
def State.macB (s : State) (na m : List Byte) : List Byte :=
  joinMac s.pkg.inputs.pairKey 0x42 na ((m.drop 16).take 16) (leBytes 8 (s.dieWord 8)) (m.take 8)

/-- JOIN_HELLO sent with a new NA from the hardware random source: protocol version 1, the Eztos word, island A's start-up
test result, NA (R436, R437). -/
def State.sendHello (s : State) : State :=
  let na := s.freeBytes 16
  let res : Byte := if s.pkg.iodTestFail = 0 ∧ s.pkg.iodTimersOk = true then 0 else 1
  ((s.draw 16).joinSend true ([1] ++ leBytes 8 (s.dieWord 8) ++ [res] ++ na)).modJoin fun j =>
    { j with na := na, olds := j.olds ++ [j.na], lastAt := s.tclk, firstAt := some (j.firstAt.getD s.tclk), confirmSent := false }

/-- The join starts at step 4 of R26. -/
def State.joinStart (s : State) : State :=
  (s.modJoin fun j => { j with trying := true, firstAt := none, service := false }).sendHello

/-- The join fails (R437): JOIN_ERR, the boot error, where boot has not halted with another (R28), and whether attempts go on: then the
next 500 ms run from the next JOIN_HELLO. -/
def State.joinFail (s : State) (err : Nat) : State :=
  let boot := !s.saf.join.service && s.rd IDN_BOOT_STAGE != 0xF
  let code := if err = 3 then 6 else if err = 6 then 8 else 5
  let s1 := s.wr SAF_ISL_STATUS_JOIN_ERR err
  let s2 := if boot then s1.wr IDN_BOOT_ERROR code else s1
  s2.modJoin fun j => { j with trying := j.service && err == 1, barred := err != 1, confirmSent := false, firstAt := none }

/-- Whether a vote would refuse one of island B's own records: it then stays out of the join (R454; log entry 66). -/
def State.islandBRefused (s : State) : Bool :=
  [96, 97, 98, 99, 100].any fun i =>
    let cs := tget [] s.saf.copies (cfgKey 1 i)
    cs != [] && (majority cs).isNone

/-- Island B receives JOIN_HELLO and answers (R436): `nb` is its nonce. -/
def State.joinHello (s : State) (m nb : List Byte) : State :=
  if s.pairRuns false = false ∨ s.saf.join.ready = false ∨ s.islandBRefused = true ∨ joinOk 26 m = false then s
  else
    let b := s.pkg.sfd
    let bad : Byte := if identOk b.ident then 0 else 1
    let test : Byte := if b.testFail = 0 then 0 else 1
    let na := (m.drop 10).take 16
    let word := (m.drop 1).take 8
    let mac := joinMac b.pairKey 0x42 na nb word (leBytes 8 (identWord b.ident))
    let content := leBytes 8 (identWord b.ident) ++ leBytes 2 (strapBits b.straps) ++ [bad]
      ++ leBytes 4 s.pkg.sfdImage.version ++ [test] ++ padTo 16 nb ++ mac
    (s.joinSend false content).modJoin fun j => { j with nb := padTo 16 nb, bNa := na, bWord := word }

/-- Island A receives JOIN_RESP (R436, R437): one whose MAC_B is over an NA before the current one is discarded; the failures are tried
in the order of the table. -/
def State.joinResp (s : State) (m : List Byte) : State :=
  let j := s.saf.join
  let mac := (m.drop 32).take 16
  if s.islandARuns = false ∨ j.trying = false ∨ j.confirmSent = true ∨ joinOk 48 m = false then s
  else if mac ≠ s.macB j.na m then (if j.olds.any fun na => mac == s.macB na m then s else s.joinFail 2)
  else
    let word := field m 0 8
    let straps := field m 8 2
    let s1 := s.setDieWord 9 word
    let rev := BitVec.ofNat 8 (bitsOf word 4 8)
    let identBad := decide (field m 10 1 ≠ 0)
    let strapsBad := bitsOf straps 0 3 != 5 || bitsOf straps 3 2 != 2 || bitsOf straps 5 4 != s.rd IDN_PKG_VARIANT
    let s2 := if identBad then s1.wr (IDN_DIE_FUSE_ERR.idx 9) 1 else s1
    if identBad = false ∧ s.recognised 4 rev = false then s2.joinFail 3
    else if field m 15 1 ≠ 0 ∨ s.pkg.iodTestFail ≠ 0 ∨ s.pkg.iodTimersOk = false then s2.joinFail 4
    else if field m 11 4 < s.pkg.iodImage.minB then s2.joinFail 5
    else if identBad ∨ strapsBad = true then s2.joinFail 6
    else
      let macA := joinMac s.pkg.inputs.pairKey 0x41 ((m.drop 16).take 16) j.na (leBytes 8 (s.dieWord 8)) (m.take 8)
      (s2.joinSend true macA).modJoin fun j => { j with confirmSent := true }

/-- Island B, which has answered a JOIN_HELLO, receives JOIN_CONFIRM and verifies MAC_A (R436, R437). -/
def State.joinConfirm (s : State) (m : List Byte) : State :=
  let j := s.saf.join
  let b := s.pkg.sfd
  if s.pairRuns false = false ∨ j.ready = false ∨ j.bNa = [] ∨ j.confirmSent = false ∨ joinOk 16 m = false then s
  else if m.take 16 = joinMac b.pairKey 0x41 j.nb j.bNa j.bWord (leBytes 8 (identWord b.ident)) then s.joinSend false [0]
  else s.joinFail 2

/-- Island B's own truth as island A shows it while it is joined (R455): its fault record in place of an older one of its own (R442), and
its overdue test (R447). -/
def State.showIslandB (s : State) : State :=
  let b := s.saf.islB
  let s := if s.on SAF_FAULT_VALID ∧ s.on SAF_FAULT_ISLAND then (s.setReg SAF_FAULT_VALID.off 0).setReg SAF_FAULT_SYN_SYNDROME.off 0 else s
  let s := match b.fault with
    | some f => s.showFault 1 f
    | none => s
  let s := s.wrB SAF_ISL_STATUS_OVERDUE_B (decide (28800 * 125000000 ≤ b.ageTicks))
  let s1 := (((s.wrB SAF_ISL_STATUS_STOP_B b.stop).wrB SAF_ISL_STATUS_B_HALTED b.halted).wrB SAF_ISL_STATUS_DBG_B b.debug).wr
    SAF_MEM_CE_B (min b.ce 0xFFFF)
  s1.setReg (SAF_CMP_FAIL_GROUPS.idx 1).off (b.testFail.zeroExtend 64)

/-- Island A receives JOIN_DONE (R436, R438): island B has joined, its stop ends, held jobs may start, and link 8 shows in use
(log entry 65); PLL_LOCK_SFD follows its report (R66).  A test that island B ended before is recorded now (R456).  JOIN_ERR keeps the cause of the last failed join (R456). -/
def State.joinDone (s : State) (m : List Byte) (lock : Bool) : State :=
  if s.islandARuns = false ∨ s.saf.join.confirmSent = false ∨ joinOk 1 m = false ∨ field m 0 1 ≠ 0 then s
  else
    let s1 := ((((s.partWindow 5).wr IDN_BOOT_ISLAND_B 1).wr SAF_ISL_STATUS_B_JOINED 1).wr (IDN_PKG_INCLUDED.bit 5) 1).wrB
      PWR_STATUS_PLL_LOCK_SFD lock
    let s2 := s1.modIslB fun b =>
      { b with debugDeny := s.on HIF_LOCKCFG_ISL_DBG_DENY, stop := b.debug, stopCause := if b.debug then b.stopCause else 0 }
    let s3 := ((if s2.saf.islB.testTold then s2 else s2.wr (SAF_CMP_TIME_NS.idx 1) s2.now).modIslB fun b =>
      { b with testTold := true }).showIslandB
    let s3' := if s3.on (IDN_LINK_DOWN.idx 8) then s3.linkUp 8 0 1 false else s3
    let s4 := s3'.modJoin fun j => { j with trying := false, confirmSent := false, service := true, jobsHeld := false, olds := [] }
    s4.modPwr fun p => { p with hbDevA := 0, hbDevB := 0 }

/-- A retry (R437, R438): every 10 ms at boot until a JOIN_RESP has come, every 100 ms in service until a join succeeds. -/
def State.joinRetry (s : State) : State :=
  let j := s.saf.join
  if s.islandARuns ∧ j.trying ∧ (j.service ∨ j.confirmSent = false) then (s.waitTo (j.lastAt + if j.service then 12500000 else 1250000)).sendHello else s

/-- 500 ms from the first JOIN_HELLO without a valid JOIN_RESP (R437). -/
def State.joinTimeout (s : State) : State :=
  let j := s.saf.join
  match j.firstAt with
  | none => s
  | some t => if s.islandARuns ∧ j.trying ∧ j.confirmSent = false then (s.waitTo (t + 62500000)).joinFail 1 else s

end Sys2Proof.Machine
end

