-- ==== Sys2Proof/Machine/Swarm.lean ====
section
/-!
DEFINITION. Swarm links: flits, replay and sequence (R501, R502), the handshake's messages (R503), advertisements and routes (R504,
R508), and requests at an export (R505-R507).  The packing of the payloads that spec/ leaves open is log entry 91.
-/
namespace Sys2Proof.Machine

/-! ## Flits (R501) -/

/-- The parameters of CRC-32C (R501). -/
def crc32cParams : List Byte :=
  [0xA0, 1] ++ List.replicate 6 0 ++ leBytes 8 0x1EDC6F41 ++ leBytes 8 0xFFFFFFFF ++ leBytes 8 0xFFFFFFFF

/-- The CRC of bytes 0-251 of a flit. -/
def flitCrc (f : List Byte) : Nat := (cvValue crc32cParams (cvRun crc32cParams (cvInit crc32cParams) (f.take 252))).toNat

/-- A flit with its CRC. -/
def mkFlit (type hops seq ack dst src : Nat) (payload : List Byte) : List Byte :=
  let b := leBytes 1 type ++ leBytes 1 hops ++ leBytes 2 seq ++ leBytes 2 ack ++ leBytes 1 dst ++ leBytes 1 src ++ leBytes 4 0
    ++ padTo 240 payload
  b ++ leBytes 4 (flitCrc b)

def flitType (f : List Byte) : Nat := bitsOf (field f 0 1) 0 4
def flitHops (f : List Byte) : Nat := field f 1 1
def flitSeq (f : List Byte) : Nat := field f 2 2
def flitAck (f : List Byte) : Nat := field f 4 2
def flitDst (f : List Byte) : Nat := bitsOf (field f 6 1) 0 7
def flitSrc (f : List Byte) : Nat := bitsOf (field f 7 1) 0 7
def flitPay (f : List Byte) : List Byte := (f.drop 12).take 240
def flitOk (f : List Byte) : Bool := decide (f.length = 256) && flitCrc f == field f 252 4

/-! ## Ports (R502, R508, R509) -/

/-- A port. -/
def State.swPort (s : State) (n : Nat) : SwPort := tget ({} : SwPort) s.swm.ports n

/-- The swarm side changed; a port changed. -/
def State.modSwm (s : State) (f : Swarm → Swarm) : State := { s with swm := f s.swm }
def State.modPort (s : State) (n : Nat) (f : SwPort → SwPort) : State := s.modSwm fun w => { w with ports := tmod {} w.ports n f }

/-- SWM_PORT.STATE: 0 disabled, 1 training, 2 waggle, 3 JOINED, 4 DOWN, 5 rejected. -/
def State.swState (s : State) (n : Nat) : Nat := s.rd (SWM_PORT_STATE.idx n)

/-- This device's number. -/
def State.swOwn (s : State) : Nat := s.rd SWM_ID_DEV_NUM

/-- A port enters a state: CHANGED, and LINK_STATE with the peer's number (R508, R509). -/
def State.setSwState (s : State) (n st : Nat) : State :=
  if s.swState n = st then s
  else ((s.wr (SWM_PORT_STATE.idx n) st).wr (SWM_PORT_CHANGED.idx n) 1).event 0x12 0x10 (10 + n) 0
    (leBytes 1 (s.rd (SWM_PORT_PEER.idx n)))

/-- The JOINED ports with their peers. -/
def State.joinedPorts (s : State) : List (Nat × Nat) :=
  ((List.range 4).filter fun n => s.swState n == 3).map fun n => (n, s.rd (SWM_PORT_PEER.idx n))

/-- The last SEQ that a port received in order. -/
def SwPort.lastSeq (p : SwPort) : Nat := (p.rxNext + 65535) % 65536

/-- How many flits of a port its peer has not acknowledged. -/
def SwPort.open (p : SwPort) : Nat := (p.txSeq + 65536 - p.unacked) % 65536

/-- A flit put on a port: it takes the next SEQ and enters the replay buffer; while the port retrains it waits there (R502). -/
def State.swPut (s : State) (n type hops dst src : Nat) (payload : List Byte) : State :=
  let p := s.swPort n
  let f := mkFlit type hops p.txSeq p.lastSeq dst src payload
  let s1 := s.modPort n fun p => { p with txSeq := (p.txSeq + 1) % 65536, replay := lastN 256 (p.replay ++ [⟨p.txSeq, f⟩]) }
  if p.retraining then s1 else s1.modSwm fun w => { w with sent := w.sent ++ [(n, f)] }

/-- A flit sent on a port: it waits while the replay buffer holds 256 flits that the peer has not acknowledged, so that none is lost
(R502; DEDUCED, log entry 150). -/
def State.swSend (s : State) (n type hops dst src : Nat) (payload : List Byte) : State :=
  let p := s.swPort n
  if p.held = [] ∧ p.open < 256 then s.swPut n type hops dst src payload
  else s.modPort n fun p => { p with held := p.held ++ [⟨type, hops, dst, src, payload⟩] }

/-- The peer's ACK field taken (R501, R502): flits that waited take the places it frees. -/
def State.swAckTo (s : State) (n ack : Nat) : State :=
  let p := s.swPort n
  if p.open < (ack + 1 + 65536 - p.unacked) % 65536 then s
  else
    let q := { p with unacked := (ack + 1) % 65536 }
    let k := 256 - q.open
    (q.held.take k).foldl (fun s h => s.swPut n h.type h.hops h.dst h.src h.payload) (s.modPort n fun _ => { q with held := q.held.drop k })

/-- An acknowledge flit sent (R502); it takes no SEQ of its own (log entry 92). -/
def State.swAck (s : State) (n : Nat) : State :=
  let p := s.swPort n
  let f := mkFlit 4 1 ((p.txSeq + 65535) % 65536) p.lastSeq (s.rd (SWM_PORT_PEER.idx n)) s.swOwn []
  s.modSwm fun w => { w with sent := w.sent ++ [(n, f)] }

/-- Whether a port takes flits: in waggle or JOINED, and not while it retrains. -/
def State.swLive (s : State) (n : Nat) : Bool :=
  decide (n < 4) && (s.swState n == 2 || s.swState n == 3) && !(s.swPort n).retraining

/-- A flit that arrives at a port, of a TYPE that takes a SEQ (R502): the state, and whether it is the expected one.  A flit with a
bad CRC or out of order is discarded with an acknowledge flit, later ones silently until the expected one (log entry 92). -/
def State.swTake (s : State) (n : Nat) (f : List Byte) : State × Bool :=
  let p := s.swPort n
  let s1 := s.modPort n fun p => { p with lastFlit := s.tclk }
  if flitOk f ∧ flitSeq f = p.rxNext then
    let done := match p.replayFrom with
      | some q => decide ((flitAck f + 65536 - q) % 65536 < 32768)
      | none => false
    ((s1.modPort n fun p => { p with
      rxNext := (p.rxNext + 1) % 65536, discarding := false
      replayFrom := if done then none else p.replayFrom, replays := if done then 0 else p.replays }).swAckTo n (flitAck f), true)
  else
    let s2 := s1.modPort n fun p => { p with discarding := true }
    (if p.discarding = false ∨ flitOk f = false then s2.swAck n else s2, false)

/-- The flits of a replay buffer from a SEQ on, sent again. -/
def State.swReplay (s : State) (n seq : Nat) : State :=
  let fs := ((s.swPort n).replay.dropWhile fun x => x.seq != seq).map fun x => (n, x.bytes)
  s.modSwm fun w => { w with sent := w.sent ++ fs }

/-! ## Routes (R504) -/

/-- The peers that a device advertises. -/
def advPeers (t : Table Advert) (d : Nat) : List (Nat × Nat) := (tget ({} : Advert) t d).peers

/-- The links from one of the devices of `front` to `dst`, not through the devices of `seen`, in at most `fuel` links more. -/
def hopsTo (t : Table Advert) (dst : Nat) : Nat → List Nat → List Nat → Option Nat
  | 0, _, front => if front.contains dst then some 0 else none
  | n + 1, seen, front =>
    if front.contains dst then some 0
    else
      let next := ((front.flatMap fun d => (advPeers t d).map (·.2)).filter fun d => !(seen.contains d)).eraseDups
      (hopsTo t dst n (seen ++ next) next).map (· + 1)

/-- The links from a peer to a device, this one left out: at most 7 more, so that 8 are crossed in all (R504). -/
def State.hopsFrom (s : State) (p dst : Nat) : Option Nat := hopsTo s.swm.adverts dst 7 [s.swOwn, p] [p]

/-- The port and length of the route to a device: the fewest links, ties to the lower port (R504). -/
def State.route (s : State) (dst : Nat) : Option (Nat × Nat) :=
  if dst = s.swOwn then none
  else s.joinedPorts.foldl (fun b x => match s.hopsFrom x.2 dst, b with
    | none, b => b
    | some h, none => some (x.1, h + 1)
    | some h, some (n, k) => if h + 1 < k then some (x.1, h + 1) else some (n, k)) none

/-- The links of a route from device `d`, `fuel` of them: (device, port, next device). -/
def State.pathFrom (s : State) (dst : Nat) : Nat → Nat → List (Nat × Nat × Nat)
  | 0, _ => []
  | n + 1, d =>
    match ((advPeers s.swm.adverts d).mergeSort (fun a b => decide (a.1 ≤ b.1))).find? fun x =>
        match s.hopsFrom x.2 dst with
        | some h => decide (h ≤ n)
        | none => false with
    | some (port, nx) => (d, port, nx) :: s.pathFrom dst n nx
    | none => []

/-- The links of the route to a device. -/
def State.routePath (s : State) (dst : Nat) : List (Nat × Nat × Nat) :=
  match s.route dst with
  | none => []
  | some (n, k) =>
    let p := s.rd (SWM_PORT_PEER.idx n)
    (s.swOwn, n, p) :: s.pathFrom dst (k - 1) p

/-- Whether every link of a route is still there. -/
def State.pathHolds (s : State) (path : List (Nat × Nat × Nat)) : Bool :=
  path.all fun x => if x.1 = s.swOwn then s.joinedPorts.contains x.2 else (advPeers s.swm.adverts x.1).contains x.2

/-- A forager record in flight leaves the swarm side, and faults (R505, R508). -/
def State.swFault (s : State) (o : SwOut) (st : Nat) : State :=
  (s.modSwm fun w => { w with outs := w.outs.filter (· ≠ o) }).faultRec o.slot o.seq st

/-- Whether advertised links join a device to this one, however many. -/
def State.swLinked (s : State) (d : Nat) : Bool :=
  s.joinedPorts.any fun x => (hopsTo s.swm.adverts d 127 [s.swOwn, x.2] [x.2]).isSome

/-- SWM_REACH's bit of a device. -/
def State.swReached (s : State) (d : Nat) : Bool := (s.rd (SWM_REACH_DEVICES.idx (d / 64))).testBit (d % 64)

/-- Routes computed anew (R504, R508): SWM_REACH, records whose route is lost fault with E_LINK.  A device that was within reach and
has left the swarm is forgotten, so that its advertisements are new when it comes again (DESIGN CHOICE; log entry 147). -/
def State.swRoutes (s : State) : State :=
  let ds := (List.range 128).filter fun d => (s.route d).isSome
  let word (lo : Nat) : Nat := ((List.range 64).map fun i => if ds.contains (lo + i) then 2 ^ i else 0).sum
  let kept := s.swm.adverts.filter fun e => !(s.swReached e.1) || s.swLinked e.1
  let s1 := ((s.wr (SWM_REACH_DEVICES.idx 0) (word 0)).wr (SWM_REACH_DEVICES.idx 1) (word 64)).modSwm fun w => { w with adverts := kept }
  (s1.swm.outs.filter fun o => !(ds.contains o.dev) || !(s1.pathHolds o.path)).foldl (fun s o => s.swFault o E_LINK) s1

/-! ## Advertisements (R504) -/

/-- This device's advertisement. -/
def State.ownAdvert (s : State) : List Byte :=
  leBytes 1 0 ++ leBytes 1 s.swOwn ++ leBytes 1 s.joinedPorts.length ++ leBytes 1 0 ++ leBytes 4 s.swm.advSeq ++ leBytes 8 (s.dieWord 8)
    ++ s.joinedPorts.flatMap fun x => leBytes 1 x.1 ++ leBytes 1 x.2

/-- A control flit on every JOINED port but `but`. -/
def State.swBroadcast (s : State) (payload : List Byte) (but : Nat) : State :=
  s.joinedPorts.foldl (fun s x => if x.1 = but then s else s.swSend x.1 1 1 x.2 s.swOwn payload) s

/-- A new advertisement of this device to every peer. -/
def State.advertise (s : State) : State :=
  let s1 := s.modSwm fun w => { w with advSeq := w.advSeq + 1 }
  s1.swBroadcast s1.ownAdvert 4

/-- A change of the JOINED ports: routes, and an advertisement (R504). -/
def State.swChanged (s : State) : State := s.swRoutes.advertise

/-- A port goes DOWN (R508). -/
def State.swDown (s : State) (n : Nat) : State :=
  let joined := s.swState n == 3
  let s1 := (s.setSwState n 4).modPort n fun p => { p with retraining := false }
  if joined then s1.swChanged else s1

/-- An advertisement's record. -/
def advertOf (b : List Byte) : Advert :=
  { present := true, seq := field b 4 4, die := field b 8 8,
    peers := (List.range (min 4 (field b 2 1))).map fun i => (field b (16 + 2 * i) 1, bitsOf (field b (17 + 2 * i) 1) 0 7) }

/-- An advertisement taken: a new one is kept and forwarded, and routes follow (R504). -/
def State.takeAdvert (s : State) (n : Nat) (b : List Byte) : State :=
  let d := bitsOf (field b 1 1) 0 7
  let old := tget ({} : Advert) s.swm.adverts d
  let new := advertOf b
  if d = s.swOwn ∨ (old.present = true ∧ new.seq ≤ old.seq) then s
  else
    let s1 := s.modSwm fun w => { w with adverts := tset {} w.adverts d new }
    (s1.swBroadcast b n).swRoutes

/-! ## The handshake (R503) -/

/-- A waggle message in a control flit; all but a NAK are kept for retransmission (R31). -/
def State.swWag (s : State) (n type seq : Nat) (payload : List Byte) : State :=
  let s1 := if type = 0xF then s else s.modPort n fun p => { p with lastWag := some (type, seq, payload), wagAt := s.tclk, tries := 0 }
  s1.swSend n 1 1 0 s.swOwn (wagMsg type seq 7 (10 + n) payload)

/-- The last waggle message goes again, with its SEQ (R31). -/
def State.swRepeat (s : State) (n : Nat) : State :=
  match (s.swPort n).lastWag with
  | none => s
  | some (type, seq, payload) =>
    (s.modPort n fun p => { p with wagAt := s.tclk }).swSend n 1 1 0 s.swOwn (wagMsg type seq 7 (10 + n) payload)

/-- Whether this end awaits a reply (R503): to HELLO the peer's, and the lower number to DONE its echo. -/
def State.swAwaits (s : State) (n : Nat) : Bool :=
  s.swState n == 2 && (s.swPort n).lastWag.isSome && ((s.swPort n).peer.isNone || (s.swPort n).doneSent)

/-- One retransmission more of the request this end has open (R32): `send`, or after three the handshake ends and the port goes DOWN
(DESIGN CHOICE; log entry 148).  The end that awaits nothing only sends. -/
def State.swAgain (s : State) (n : Nat) (send : State → State) : State :=
  if s.swAwaits n = false then send s
  else if 3 ≤ (s.swPort n).tries then s.swDown n
  else send (s.modPort n fun p => { p with tries := p.tries + 1 })

/-- A NAK taken (R31, R32, R503): the message whose SEQ it names goes again at once. -/
def State.swNak (s : State) (n : Nat) (m : WaggleMsg) : State :=
  match (s.swPort n).lastWag with
  | some (_, seq, _) => if wPay m 0 1 ≠ seq then s else s.swAgain n fun s => s.swRepeat n
  | none => s

/-- 200 µs pass without a valid reply at a port (R32, R503). -/
def State.swTimeout (s : State) (n : Nat) : State :=
  if s.swAwaits n = false then s else (s.waitTo ((s.swPort n).wagAt + 25000)).swAgain n fun s => s.swRepeat n

/-- HELLO's payload. -/
def State.swHelloPay (s : State) : List Byte :=
  leBytes 4 (s.rd SWM_SWARM_SWARM_ID) ++ leBytes 1 s.swOwn ++ leBytes 1 (s.rd IDN_PKG_VARIANT) ++ leBytes 1 (s.rd MBX_CTRL_HIF_MAJOR)
    ++ leBytes 1 0 ++ leBytes 8 (s.dieWord 8)

/-- What an end decides on a HELLO (R503): the reason of a REJECT, if one. -/
def State.swDecide (s : State) (n : Nat) (m : WaggleMsg) : Option Nat :=
  let dev := bitsOf (wPay m 4 1) 0 7
  let elsewhere := s.joinedPorts.any fun x => x.1 != n && (s.hopsFrom x.2 dev).isSome
  let adv := tget ({} : Advert) s.swm.adverts dev
  if wProto m ≠ 1 then some 3
  else if wPay m 0 4 ≠ s.rd SWM_SWARM_SWARM_ID then some 7
  else if dev = s.swOwn ∨ (elsewhere = true ∧ adv.present = true ∧ adv.die ≠ wPay m 8 8) then some 8
  else if wPay m 6 1 ≠ s.rd MBX_CTRL_HIF_MAJOR then some 9
  else none

/-- A port ends rejected. -/
def State.swReject (s : State) (n reason : Nat) : State := (s.wr (SWM_PORT_REASON.idx n) reason).setSwState n 5

/-- A HELLO taken (R503); one that is repeated brings only the last message again (R31). -/
def State.swHello (s : State) (n : Nat) (m : WaggleMsg) : State :=
  if (s.swPort n).peer.isSome then s.swRepeat n
  else match s.swDecide n m with
  | some r => (s.swWag n 0xE 1 (leBytes 1 r)).swReject n r
  | none =>
    let dev := bitsOf (wPay m 4 1) 0 7
    let s1 := s.modPort n fun p => { p with peer := some (dev, wPay m 8 8), doneSent := decide (s.swOwn < dev) }
    if s.swOwn < dev then s1.swWag n 7 1 [] else s1

/-- A DONE or its echo taken (R503, R30): the end with the higher number echoes it, a repeated one too; the other discards an echo
whose SEQ is not its DONE's (R31). -/
def State.swDone (s : State) (n : Nat) (seq : Nat) : State :=
  match (s.swPort n).peer with
  | none => s
  | some (dev, _) =>
    let sent := (s.swPort n).doneSent
    let s1 := if sent then s else s.swWag n 7 seq []
    if s.swState n = 2 ∧ (sent = false ∨ seq = 1) then ((s1.wr (SWM_PORT_PEER.idx n) dev).setSwState n 3).swChanged else s1

/-! ## Requests and responses (R501, R505-R507) -/

/-- A request's payload. -/
def swRequest (kind exp len tag off : Nat) (data : List Byte) : List Byte :=
  leBytes 1 kind ++ leBytes 1 exp ++ leBytes 1 len ++ leBytes 1 0 ++ leBytes 4 tag ++ leBytes 8 off ++ data

/-- The response to a request: routed to its sender (R505). -/
def State.swRespond (s : State) (dst tag st : Nat) : State :=
  match s.route dst with
  | none => s
  | some (n, _) => s.swSend n 3 1 dst s.swOwn (leBytes 4 tag ++ leBytes 2 st)

/-- The requester of an export (R506): its LABEL and the colony that holds it. -/
def State.exportWho (s : State) (e : Nat) : Who :=
  let t := s.rd (SWM_EXP_CTL_LABEL.bank e)
  { label := t, colony := (s.labelColony t).getD 16, source := 0x49 }

/-- A request applied to an export (R506, R507): the state and the status of its response. -/
def State.swApply (s : State) (b : List Byte) : State × Nat :=
  let kind := field b 0 1
  let e := bitsOf (field b 1 1) 0 6
  let len := if kind = 1 then 8 else field b 2 1
  let off := field b 8 8
  let h := s.rd (SWM_EXP_OBJ_OBJ.bank e)
  let who := s.exportWho e
  let a := s.objAddr h off
  if s.on (SWM_EXP_CTL_ENABLE.bank e) = false ∨ s.objFits h off len = false then
    ((s.violation who a (if kind = 1 then 2 else 1)).inc SWM_REJ_COUNT, E_PARTITION)
  else if kind = 0 then s.devStore who a ((b.drop 16).take len)
  else if s.allowed who a = false then (s.violation who a 2, E_PARTITION)
  else
    let (s1, st, old) := s.devLoad who a 8
    if st ≠ 0 then (s1, st) else s1.devStore who a (leBytes 8 (max (leNat old) (field b 16 8)))

/-- The arbitration point of a swarm port direction, 0 out and 1 in: it keeps credit as a die-to-die port direction does (R506, R320). -/
def swPoint (n dir : Nat) : Nat := 200 + 2 * n + dir

/-- The 64-byte units of payload that a flit carries (R320, R501). -/
def flitWords (f : List Byte) : Nat := if flitType f = 2 then ceilDiv (min 224 (field (flitPay f) 2 1)) 64 else 0

/-- A flit for another device (R504): forwarded with HOPS + 1 on its route, or dropped when it arrives with HOPS 8.  It names no label, so
the system pool pays for it (DESIGN CHOICE; log entry 119). -/
def State.swForward (s : State) (f : List Byte) : State :=
  if 8 ≤ flitHops f then s.inc SWM_DROP_COUNT
  else match s.route (flitDst f) with
    | none => s
    | some (n, _) =>
      (s.transferWords (swPoint n 0) 16 (flitWords f)).swSend n (flitType f) (flitHops f + 1) (flitDst f) (flitSrc f) (flitPay f)

/-- Whose credit a flit that arrives spends (R506): that of its export's colony; the system pool's for a flit in transit. -/
def State.flitCol (s : State) (f : List Byte) : Nat :=
  if flitDst f ≠ s.swOwn then 16
  else
    let w := s.exportWho (bitsOf (field (flitPay f) 1 1) 0 6)
    poolOf w.label w.colony

/-- A request that arrived in order: forwarded, or done and answered with its status (R501, R504); a length outside 1-224 is E_LEN
(R12), and an unassigned KIND E_RESERVED (DESIGN CHOICE; log entry 114). -/
def State.swTakeRequest (s : State) (f : List Byte) : State :=
  let b := flitPay f
  if flitDst f ≠ s.swOwn then s.swForward f
  else
    let (s1, st) :=
      if 2 ≤ field b 0 1 then (s, E_RESERVED)
      else if field b 2 1 = 0 ∨ 224 < field b 2 1 then (s, E_LEN)
      else s.swApply b
    s1.swRespond (flitSrc f) (field b 4 4) st

/-- A response that arrived in order (R505, R507): the last one completes its record, a failure faults it. -/
def State.swTakeResponse (s : State) (f : List Byte) : State :=
  let b := flitPay f
  let tag := field b 0 4
  let st := field b 4 2
  if flitDst f ≠ s.swOwn then s.swForward f
  else match s.swm.outs.find? fun o => o.tags.contains tag with
    | none => s
    | some o =>
      if st ≠ 0 then s.swFault o st
      else
        let o' := { o with tags := o.tags.filter (· ≠ tag) }
        if o'.tags = [] then (s.modSwm fun w => { w with outs := w.outs.filter (· ≠ o) }).completeRec o.slot o.seq 0
        else s.modSwm fun w => { w with outs := w.outs.map fun x => if x = o then o' else x }

end Sys2Proof.Machine
end

