-- ==== Sys2Proof/Machine/PackageCmds.lean ====
section
/-!
DEFINITION. The commands of the package: resets and boot (R26-R28, R48-R55), the waggle and the join (R29-R42, R436-R438), the
links in service (R43), clocks and heartbeats (R46, R47), adaptive voltage (R57, R58), power states (R59-R61) and the ramp
limiters (R63, R64).  An event whose precondition does not hold has no effect.
-/
namespace Sys2Proof.Machine

/-! ## Resets (R48-R51) -/

/-- POWER_ON (R48, R52, R521): the cold reset of the whole device; `b` is island B's own power-on, none where VDD_SFD stayed up. -/
def execPowerOn (p : PkgInputs) (b : Option SfdInputs) (s : State) : Out :=
  let s1 := s.modPkg fun k => { k with heldInReset := false }
  let s2 := s1.deviceReset p true PWR_RSTCAUSE_POWER_ON
  match b with
  | some x => fin (s2.powerIslandB x)
  | none => fin s2

/-- PERST (R48): PERST# asserted; the warm reset of every die except Uathal. -/
def execPerst (p : PkgInputs) (s : State) : Out :=
  if s.pkg.heldInReset then .next s
  else fin ((s.modPkg fun k => { k with perstLow := true }).deviceReset p false PWR_RSTCAUSE_PERST)

/-- The host enumerates the endpoint (R69, R72): the size of BAR2, and payload and read request sizes within the limits. -/
def State.enumerate (s : State) : State :=
  let e := s.pkg.inputs.enum
  { s with hif := { s.hif with winLog2 := max 28 (min e.winLog2 36), maxPayload := min e.maxPayload 512,
                               maxReadReq := min e.maxReadReq 4096 } }

/-- The link of the endpoint as it trained (R70): DOWNTRAINED below ×8 or 32 GT/s; the host then enumerates it. -/
def State.pcieTrained (s : State) (width rate : Nat) : State :=
  ((s.modPkg fun k => { k with perstLow := false, pcieWidth := width, pcieRate := rate }).wrB HIF_STATUS_DOWNTRAINED
    (decide (width < 8 ∨ rate < 32))).enumerate

/-- A reset that the endpoint itself takes: the PCIe link is as before. -/
def State.linkReset (s : State) (p : PkgInputs) (cause : Fld) : State :=
  let s1 := s.deviceReset p false cause
  if s.pkg.pcieWidth = 0 then s1 else s1.pcieTrained s.pkg.pcieWidth s.pkg.pcieRate

/-- HOT_RESET (R48). -/
def execHotReset (p : PkgInputs) (s : State) : Out :=
  if s.pkg.heldInReset ∨ s.pkg.perstLow = true then .next s else fin (s.linkReset p PWR_RSTCAUSE_HOT_RESET)

/-- FUNCTION_LEVEL_RESET (R48, R51). -/
def execFunctionLevelReset (p : PkgInputs) (s : State) : Out :=
  if s.pkg.heldInReset ∨ s.pkg.perstLow = true then .next s else fin (s.linkReset p PWR_RSTCAUSE_FLR)

/-- ISLAND_B_POWER_ON (R48, R434, R438): an island B that was joined is lost first. -/
def execIslandBPowerOn (b : SfdInputs) (s : State) : Out :=
  let s1 := if s.on SAF_ISL_STATUS_B_JOINED then s.loseIslandB 2 else s
  fin (s1.powerIslandB b)

/-- SYS_PWROK_LOSS (R519, R520): every die except Uathal is held in reset; island B stops the machine. -/
def execSysPwrokLoss (s : State) : Out :=
  let s1 := (s.stopB 3).afterReset { s.pkg.inputs with flash := none } true
  fin ((s1.draw 1).modPkg fun k => { k with heldInReset := true, perstLow := true })

/-- PERST_DEASSERT (R51, R70): the link trains at a width and rate (GT/s). -/
def execPerstDeassert (width rate : Nat) (s : State) : Out :=
  if s.pkg.heldInReset then .next s else .next (s.pcieTrained width rate)

/-- VDD_SFD_LOSS (R521): island B stops; island A finds it missing by its heartbeats (R47). -/
def execVddSfdLoss (s : State) : Out :=
  let s1 := s.holdAge.modPkg fun k => { k with sfdPowered := false, sfdSlot := none }
  .next { s1 with saf := { s1.saf with islB := {}, join := { s1.saf.join with ready := false } } }

/-! ## Boot (R23, R26-R28, R53-R55) -/

/-- FIRMWARE_VERIFIED (R53, R54): a slot is accepted and waggle and the join start, or boot halts with ERROR 0x01 or 0x02. -/
def execFirmwareVerified (s : State) : Out :=
  if s.rd IDN_BOOT_STAGE ≠ 1 ∨ s.pkg.heldInReset = true then .next s
  else
    let rev := BitVec.ofNat 8 (s.rd (IDN_DIE_REV.idx 8))
    match pickSlot s.pkg.iodFlash s.pkg.iodFuse rev with
    | none => .next (s.haltBoot (if onlyRevision s.pkg.iodFlash s.pkg.iodFuse then 2 else 1))
    | some i =>
      let s1 := (s.wr IDN_BOOT_STAGE 3).modPkg fun k => { k with iodSlot := some i, iodImage := slotImage k.iodFlash i }
      .next s1.startWaggle.joinStart

/-- The baseline and mixed-revision events of mailbox ready (R40, R102). -/
def State.bootEvents (s : State) : State :=
  let s1 := (List.range 8).foldl (fun s k =>
    if s.on (IDN_DIE_BASELINE.idx k) then
      s.event 0x10 0x10 k 0 [BitVec.ofNat 8 (s.rd (IDN_DIE_TYPE.idx k)), BitVec.ofNat 8 (s.rd (IDN_DIE_REV.idx k))]
    else s) s
  if s1.on IDN_PKG_MIXED_REV then
    let revs := (List.range 4).map fun n => if s1.dieIncluded n then BitVec.ofNat 8 (s1.rd (IDN_DIE_REV.idx n)) else 0xFF
    s1.event 0x11 0x10 0 0 (revs ++ [BitVec.ofNat 8 (s1.rd (IDN_DIE_REV.idx 8))] ++ leBytes 4 (s1.reg 0x40008).toNat)
  else s1

/-- Whether a range of the firmware's plan may stand (R286, R287, R325, R326): whole 4 KiB units of a partition 17-20; at ISHARE 15
or below all but the partner's in the die-affine region of an included die; at 16 no honey pool. -/
def State.planRange (s : State) (ishare : Nat) (r : CfgRange) : Bool :=
  let affine := s.dieIncluded (r.base / 2 ^ 34) && decide (r.base % 2 ^ 34 + r.size ≤ (16 - ishare) * 2 ^ 30)
  decide (r.base % 4096 = 0 ∧ r.size % 4096 = 0 ∧ 0 < r.size ∧ r.base + r.size ≤ 2 ^ 36 ∧ 17 ≤ r.partition ∧ r.partition ≤ 20)
    && (if ishare = 16 then r.partition != 17 else affine || r.partition == 20)

/-- The ranges of a plan that may stand and do not meet an earlier one. -/
def State.planRanges (s : State) (ishare : Nat) (l : List CfgRange) : List PRange :=
  (l.filter (s.planRange ishare)).foldl (fun t r =>
    if t.any fun q => decide (q.base < r.base + r.size ∧ r.base < q.base + q.size) then t
    else t ++ [⟨r.base, r.size, r.partition, r.hostVisible⟩]) []

/-- The die-affine bytes that die `h` has left after firmware-owned DRAM and the honey map (R287). -/
def affineLeft (rs : List PRange) (ishare h : Nat) : Nat :=
  (16 - ishare) * 2 ^ 30 - ((rs.filter fun r => decide (r.base / 2 ^ 34 = h ∧ (r.partition = 18 ∨ r.partition = 19))).map (·.size)).sum

/-- The pages of a home's pool (R228, R287): what its range in the die-affine space that is left holds, up to 524,288 and up to what the
configuration asks for (log entry 128). -/
def poolOn (rs : List PRange) (ishare asked h : Nat) : Nat :=
  match rs.find? fun r => decide (r.partition = 17 ∧ r.base / 2 ^ 34 = h) with
  | some r => min (min asked 524288) (min r.size (affineLeft rs ishare h) / 16384)
  | none => 0

/-- The memory plan of the firmware (R287, R228): ISHARE 0 in reduced configuration, the firmware's ranges beside those of memory objects,
and the honey pools.  The partner's window stays out of the partition table until its admission (R41). -/
def State.layMemory (s : State) (cfg : FwConfig) : State :=
  let reduced := s.on IDN_PKG_REDUCED
  let ishare := if reduced then 0 else min cfg.ishare 16
  let ranges := s.planRanges ishare cfg.ranges
  let pools := (List.range 4).foldl (fun t h => tset 0 t h (poolOn ranges ishare ((cfg.poolPages[h]?).getD 0) h)) []
  let s1 := (s.wr DMC_MAP_ISHARE ishare).wrB DMC_MAP_AFFINE_ONLY reduced
  ({ s1 with mem := { s1.mem with
      ranges := s1.mem.ranges.filter (fun r => decide (r.partition ≤ 16)) ++ ranges.filter (·.partition != 20)
      partner := ranges.filter (·.partition == 20), poolPages := pools } } : State).grantPartner

/-- The plan at mailbox ready, and what memory objects can use from then on, in 4 KiB units (R95, R287). -/
def State.planMemory (s : State) (cfg : FwConfig) : State :=
  let s1 := s.layMemory cfg
  let used := (s.planRanges (s1.rd DMC_MAP_ISHARE) cfg.ranges).foldl (fun n r => n + r.size) 0
  { s1 with mem := { s1.mem with
      dramUnits := (s.includedDies.length * 2 ^ 34 - used) / 4096, winMax := max 28 (min cfg.winMax 36) } }

/-- MAILBOX_READY (R52 step 6, R81, R26): waggle on links 0-3 has ended. -/
def execMailboxReady (cfg : FwConfig) (s : State) : Out :=
  if s.rd IDN_BOOT_STAGE ≠ 3 ∨ s.diesSettled = false ∨ s.includedDies = [] ∨ s.pkg.heldInReset = true then .next s
  else
    let s1 := ((((s.wr MBX_CTRL_READY 1).wr MBX_CTRL_HIF_MAJOR cfg.major).wr MBX_CTRL_HIF_MINOR cfg.minor).wr IDN_BOOT_STAGE 4).planMemory
      cfg
    let pwm := (List.range cfg.pwmPeriod.length).foldl (fun t n =>
      tmod ({} : Pwm) t n fun x => { x with period := (cfg.pwmPeriod[n]?).getD 0 }) s1.ports.pwm
    let s2 := { s1 with ports := { s1.ports with cfg := cfg, pwm := pwm } }
    fin s2.startPorts.bootEvents.bootWait

/-- The spare lanes that training used (R302, R310): DMC_TRAIN. -/
def State.trainLanes (s : State) (d : Nat) (lanes : List Nat) : State :=
  let l := lanes.take 32
  let worst := l.foldl max 0
  let ch := (l.findIdx? (· == worst)).getD 0
  ((s.wr (DMC_TRAIN_REPAIRED.idx d) (min (l.foldl (· + ·) 0) 255)).wr (DMC_TRAIN_WORST_CH.idx d) ch).wr
    (DMC_TRAIN_WORST_REPAIRS.idx d) worst

/-- A pair's Mimider interface failed training in a channel (R302, R36): the firmware lays memory out anew, at ISHARE 0 (R287).  Its
links stay as they are (DESIGN CHOICE; log entry 126). -/
def State.trainingFails (s : State) (d ch : Nat) : State :=
  (((s.wr (DMC_STATUS_FAIL_CH.idx d) ch).markExcluded d).logDram d 7 (512 * ch) 0 0 0 0 0xFF 0).layMemory s.ports.cfg

/-- Whether pair `d` may end its training (R301): its die has reached DONE and is included, it is not trained, and the firmware
has set ISHARE (R287), which it does with mailbox ready here (log entry 23). -/
def State.mayTrain (s : State) (d : Nat) : Bool :=
  decide (d < 4) && s.dieIncluded d && !s.on (DMC_STATUS_TRAINED.idx d) && !s.pkg.heldInReset && decide (4 ≤ s.rd IDN_BOOT_STAGE)

/-- Every word of a memory die written with zeros (R301 step 5, R303): no poison is left on it. -/
def State.zeroDie (s : State) (d : Nat) : State :=
  { s with dram := s.dram.filter fun e => (s.dieOffset e.1).1 != d
           poison := s.poison.filter fun w => (s.dieOffset (64 * w)).1 != d }

/-- A pair is trained at the lanes that it keeps (R301-R303, R49). -/
def State.pairTrained (s : State) (d : Nat) (lanes : List Nat) : State :=
  (((s.zeroDie d).trainLanes d lanes).wr (DMC_STATUS_TRAINED.idx d) 1).modPkg fun k =>
    { k with trained := k.trained ||| (1#4 <<< d), lanes := tset none k.lanes d (some (lanes.take 32)) }

/-- MEMORY_TRAINING_DONE (R301, R302): `lanes` are the spare lanes that each channel needed, `ue` a channel whose read-back found
an uncorrectable word.  After a warm reset it follows a short retrain that failed (R49). -/
def execMemoryTrainingDone (d : Nat) (lanes : List Nat) (ue : Option Nat) (s : State) : Out :=
  if s.mayTrain d = false ∨ (s.pkg.warmReset = true ∧ s.pkg.shortTrainEnded.getLsbD d = false) then .next s
  else
    let bad := match (lanes.take 32).findIdx? (8 < ·) with
      | some c => some c
      | none => ue
    match bad with
    | some c => fin ((s.trainingFails d (c % 32)).warmTrainEnds.bootWait)
    | none => fin (s.pairTrained d lanes).warmTrainEnds.bootWait

/-- SHORT_RETRAIN_DONE (R303, R49, R67): every lane that the pair kept passes the check of its eyes, and the words written with zero
read back without an uncorrectable one; else the pair goes to full training. -/
def execShortRetrainDone (d : Nat) (eyesOk readBackOk : Bool) (s : State) : Out :=
  if s.mayTrain d = false ∨ s.pkg.warmReset = false ∨ s.pkg.shortTrainEnded.getLsbD d = true then .next s
  else
    let s1 := s.modPkg fun k => { k with shortTrainEnded := k.shortTrainEnded ||| (1#4 <<< d) }
    let s2 := if eyesOk ∧ readBackOk then
        (((s1.pairTrained d ((tget none s.pkg.lanes d).getD [])).wr (DMC_STATUS_WARM.idx d) 1)).modPkg fun k =>
          { k with shortTrainPassed := k.shortTrainPassed ||| (1#4 <<< d) }
      else s1
    fin s2.warmTrainEnds.bootWait

/-- COMB_RELEASE (R26 step 7, R7, R27): boot lock, and every comb of an included die is idle. -/
def execCombRelease (s : State) : Out :=
  let trained := s.includedDies.all fun d => s.on (DMC_STATUS_TRAINED.idx d)
  if (s.rd IDN_BOOT_STAGE ≠ 4 ∧ s.rd IDN_BOOT_STAGE ≠ 5) ∨ s.rd IDN_BOOT_ERROR ≠ 0 ∨ s.includedDies = [] ∨ trained = false
      ∨ s.ringsSettled = false ∨ s.on IDN_BOOT_ISLAND_B = false then .next s
  else
    let gs := (List.range 64).filter s.combIncluded
    let s1 := gs.foldl (fun s g =>
      { s.wr (CMB_STATE_STATE.idx g) 1 with combs := tmod {} s.combs g fun c => { c with idleAt := s.tclk } }) s
    let s2 := (List.range 5).foldl State.partWindow s1
    .next (((s2.wr IDN_BOOT_STAGE 6).wr HIF_GSTATUS_BOOT_LOCK 1).useSched 62500000)

/-- ISLAND_B_READY (R52, R434): island B, once for each rise of VDD_SFD, has accepted a slot of its flash by R54 and is ready to join; the
settings of SFD_CAN are those of its image (R336). -/
def execIslandBReady (s : State) : Out :=
  if s.pkg.sfdPowered = false ∨ s.saf.join.ready = true then .next s
  else
    let sl := s.pkg.sfdFlash
    match pickSlot sl s.pkg.sfdFuse (identRev s.pkg.sfd.ident) with
    | none => .next s
    | some i =>
      .next ((s.modPkg fun k => { k with sfdSlot := some i, sfdImage := slotImage sl i }).modJoin fun j => { j with ready := true })

/-! ## Waggle (R29-R42) -/

/-- WAGGLE_HELLO (R30). -/
def execWaggleHello (link : Nat) (msg : WaggleMsg) (rate lanes : Nat) (s : State) : Out := .next (s.wagHello link msg rate lanes)

/-- WAGGLE_IDENT (R18, R20, R41); `sigOk` is whether the partner's signature verifies. -/
def execWaggleIdent (link : Nat) (msg : WaggleMsg) (sigOk : Bool) (s : State) : Out := .next (s.wagIdent link msg sigOk)

/-- WAGGLE_OFFER (R33, R37, R39, R40). -/
def execWaggleOffer (link : Nat) (msg : WaggleMsg) (s : State) : Out := .next (s.wagOffer link msg)

/-- WAGGLE_SELECT (R30, R33). -/
def execWaggleSelect (link : Nat) (msg : WaggleMsg) (s : State) : Out := .next (s.wagSelect link msg)

/-- WAGGLE_CONFIRM (R30). -/
def execWaggleConfirm (link : Nat) (msg : WaggleMsg) (s : State) : Out := .next (s.wagConfirm link msg)

/-- MAINBAND_TRAINING_DONE (R33). -/
def execMainbandTrainingDone (link result : Nat) (mods : BitVec 4) (s : State) : Out := .next (s.wagTrainingDone link result mods)

/-- WAGGLE_TRAINED (R33, R35). -/
def execWaggleTrained (at_ : LinkEnd) (msg : WaggleMsg) (s : State) : Out :=
  .next (s.wagTrained at_.link at_.toFollower msg)

/-- WAGGLE_DONE (R34, R35). -/
def execWaggleDone (link : Nat) (toFollower : Bool) (msg : WaggleMsg) (s : State) : Out := .next (s.wagDone link toFollower msg)

/-- WAGGLE_REJECT (R34). -/
def execWaggleReject (link : Nat) (msg : WaggleMsg) (s : State) : Out := .next (s.wagReject link msg)

/-- WAGGLE_NAK (R31, R32). -/
def execWaggleNak (link : Nat) (toFollower : Bool) (msg : WaggleMsg) (s : State) : Out := .next (s.wagNak link toFollower msg)

/-- Whether a leader waits for a reply, or for the echo of its report (R35). -/
def WagLink.awaits (x : WagLink) : Bool :=
  x.phase == .hello || x.phase == .offer || x.phase == .select || x.phase == .done || (x.report != [] && !x.reported)

/-- WAGGLE_REPLY_TIMEOUT (R32): 200 µs without a valid reply, on link 10 + n at swarm port SWn (R503). -/
def execWaggleReplyTimeout (link : Nat) (s : State) : Out :=
  if 10 ≤ link then .next (if link < 14 then s.swTimeout (link - 10) else s) else
  let x := s.wag link
  if x.awaits then .next ((s.waitTo (x.sentAt + 25000)).wagRetry link) else .next s

/-- WAGGLE_DONE_TIMEOUT (R34, R42): 20 ms from HELLO without DONE on links 0-3 and 9. -/
def execWaggleDoneTimeout (link : Nat) (s : State) : Out :=
  let x := s.wag link
  if (link < 4 ∨ link = 9) ∧ x.isOver = false ∧ x.phase ≠ .idle then
    .next ((s.waitTo (x.helloAt + 2500000)).wagFail link (quietReject link))
  else .next s

/-- RING_LINK_TIMEOUT (R35): 40 ms from HELLO without DONE on a ring link. -/
def execRingLinkTimeout (link : Nat) (s : State) : Out :=
  let x := s.wag link
  if isRing link ∧ x.isOver = false ∧ x.phase ≠ .idle then
    .next ((s.waitTo (x.helloAt + 5000000)).wagFail link (quietReject link))
  else .next s

/-! ## Links in service (R43) -/

/-- LINK_UNCORRECTABLE_ERROR (R43): hardware retrains a link in use. -/
def execLinkUncorrectableError (link : Nat) (s : State) : Out :=
  if 10 ≤ link ∨ s.on (IDN_LINK_DOWN.idx link) = true ∨ s.pkg.retraining.getLsbD link = true then .next s
  else .next (s.modPkg fun k => { k with retraining := k.retraining ||| (1#10 <<< link), retrainAt := tset 0 k.retrainAt link s.tclk })

/-- The end of a retrain. -/
def State.retrainEnds (s : State) (link : Nat) : State :=
  s.modPkg fun k => { k with retraining := k.retraining &&& ~~~(1#10 <<< link), retrainAt := tset 0 k.retrainAt link 0 }

/-- LINK_RETRAIN_DONE (R43): RETRAINED, the count, and LINK_STATE; the requests that stalled go on. -/
def execLinkRetrainDone (link : Nat) (s : State) : Out :=
  if s.pkg.retraining.getLsbD link = false then .next s
  else if s.on (IDN_LINK_DOWN.idx link) then .next ((s.retrainEnds link).failLink link).replayHost
  else
    let s1 := ((s.retrainEnds link).wr (IDN_LINK_RETRAINED.idx link) 1).inc (IDN_LINK_RETRAIN_COUNT.idx link)
    .next ((s1.linkEvent link 1 false).resumeLink link)

/-- LINK_RETRAIN_TIMEOUT (R43): 1 ms passes; `back` are the modules that came back.  With none, the link is DOWN: traffic of a ring
link goes through the Eztos die, and what is outstanding on another link completes with an error.  R43 names ring links and links 0-3
only; that link 8 or 9 goes DOWN so too is the model's choice (DESIGN CHOICE; log entry 123). -/
def execLinkRetrainTimeout (link : Nat) (back : BitVec 4) (s : State) : Out :=
  if s.pkg.retraining.getLsbD link = false then .next s
  else if s.on (IDN_LINK_DOWN.idx link) then .next ((s.retrainEnds link).failLink link).replayHost
  else
    let s1 := (s.waitTo (tget 0 s.pkg.retrainAt link + 125000)).retrainEnds link
    let left := back &&& BitVec.ofNat 4 (s1.rd (IDN_LINK_MOD_UP.idx link))
    if left ≠ 0 then
      .next ((((s1.wr (IDN_LINK_MOD_UP.idx link) left.toNat).wr (IDN_LINK_DEGRADED.idx link) 1).linkEvent link 2 false).resumeLink link)
    else if link < 4 then fin (s1.loseDie link)
    else
      let s2 := if link = 8 then s1.modJoin fun j => { j with lost := true } else s1
      .next (((s2.linkDown link).linkEvent link 3 false).failLink link)

/-! ## Clocks and heartbeats (R46, R47) -/

/-- RURAD_PLL_LOCK_LOSS (R46): the combs of the die stop. -/
def execRuradPllLockLoss (d : Nat) (s : State) : Out :=
  if 4 ≤ d ∨ s.on (PWR_STATUS_PLL_LOCK_CD.bit d) = false then .next s
  else .next ((s.wr (PWR_STATUS_PLL_LOCK_CD.bit d) 0).modPwr fun p => { p with cdLossAt := tset none p.cdLossAt d (some s.tclk) })

/-- RURAD_LOCK_LOSS_CONFIRM (R46): the reference has run for 2 µs after the loss, and the pair is excluded. -/
def execRuradLockLossConfirm (d : Nat) (s : State) : Out :=
  match tget none s.pwr.cdLossAt d with
  | none => .next s
  | some t => if s.pwr.refLost then .next s else fin ((s.waitTo (t + 250)).loseDie d)

/-- The Eztos path of R46: the backup clock, every engine held, the loops safe. -/
def State.eztosClockLoss (s : State) : State :=
  ((s.modPwr fun p => { p with onBackup := true, enginesHeld := true }).safeAll 7).modPkg fun k => { k with pllLossSeen := true }

/-- EZTOS_PLL_LOCK_LOSS (R46). -/
def execEztosPllLockLoss (s : State) : Out :=
  if s.on PWR_STATUS_PLL_LOCK_IOD then fin ((s.wr PWR_STATUS_PLL_LOCK_IOD 0).eztosClockLoss) else .next s

/-- REFERENCE_LOSS (R46): `lost` are the root PLLs that lose lock with it, CD0-CD3 and the Eztos die. -/
def execReferenceLoss (lost : BitVec 5) (s : State) : Out :=
  let keep := BitVec.ofNat 4 (s.rd PWR_STATUS_PLL_LOCK_CD) &&& ~~~(lost.truncate 4)
  let s1 := s.wr PWR_STATUS_PLL_LOCK_CD keep.toNat
  let s2 := if lost.getLsbD 4 then s1.wr PWR_STATUS_PLL_LOCK_IOD 0 else s1
  if s.pkg.heldInReset then .next s
  else fin (s2.eztosClockLoss.modPwr fun p => { p with refLost := true })

/-- HEARTBEAT_SEND (R47, R66): an island sends its heartbeat while the islands are joined; island B's carries its PLL lock.  An
island whose pair does not run sends none (R442, R451), and none passes a link 8 that retrains or is lost (R433). -/
def execHeartbeatSend (fromA lock : Bool) (s : State) : Out :=
  if s.on SAF_ISL_STATUS_B_JOINED = false ∨ s.link8 = false ∨ s.pairRuns fromA = false then .next s
  else .next (s.modPwr fun p => { p with hbSent := p.hbSent ++ [(fromA, lock)] })

/-- A deviating or missing period at an island: the third in a row is a clock fault of the sender (R47, R438, R478). -/
def State.hbDeviates (s : State) (atA : Bool) : State :=
  if atA then
    let n := s.pwr.hbDevA + 1
    let s1 := s.modPwr fun p => { p with hbDevA := n }
    if n = 3 then (s1.wr PWR_STATUS_HB_FAULT 1).loseIslandB 2 else s1
  else
    let n := s.pwr.hbDevB + 1
    let s1 := s.modPwr fun p => { p with hbDevB := n }
    if n = 3 then (s1.wr PWR_STATUS_HB_FAULT 1).stopB 5 else s1

/-- HEARTBEAT_RECEIVE (R47): `period` is the ticks since the last one on the receiver's clock; ±1 % of 1 ms is accepted. -/
def execHeartbeatReceive (atA lock : Bool) (period : Nat) (s : State) : Out :=
  if s.on SAF_ISL_STATUS_B_JOINED = false ∨ s.link8 = false then .next s
  else
    let s1 := if atA then s.wrB PWR_STATUS_PLL_LOCK_SFD lock else s
    if period < 123750 ∨ 126250 < period then fin (s1.hbDeviates atA)
    else if atA then .next (s1.modPwr fun p => { p with hbDevA := 0 })
    else .next (s1.modPwr fun p => { p with hbDevB := 0 })

/-- HEARTBEAT_MISSING (R47). -/
def execHeartbeatMissing (atA : Bool) (s : State) : Out :=
  if s.on SAF_ISL_STATUS_B_JOINED then fin (s.hbDeviates atA) else .next s

/-- HIF_HEARTBEAT_TICK (R79): the Hive Controller has started, and the firmware has not stopped. -/
def execHifHeartbeatTick (s : State) : Out :=
  if s.pkg.iodSlot.isSome = true ∧ s.hif.fwStopped = false then .next (s.wr HIF_HEARTBEAT_COUNT (s.rd HIF_HEARTBEAT_COUNT + 1))
  else .next s

/-! ## Adaptive voltage (R57, R58, R68) -/

/-- Whether a rail's master holds the last acknowledged voltage. -/
def State.avsHeld (s : State) (d : Nat) : Bool := decide (3 ≤ tget 0 s.pwr.avsNak d)

/-- AVS_MONITOR (R57, R58): the lowest voltage with margin that die `d` computes, in mV. -/
def execAvsMonitor (d mv : Nat) (s : State) : Out :=
  if 4 ≤ d ∨ s.dieIncluded d = false then .next s
  else
    let v := s.rd (PWR_VDD_VSET.idx d)
    let s1 := s.modPwr fun p => { p with avsTarget := tset 0 p.avsTarget d (max 650 (min mv 800)) }
    let s2 := if 780 ≤ mv ∧ s1.on (PWR_VDD_HEADROOM_LOW.idx d) = false then
        (s1.wr (PWR_VDD_HEADROOM_LOW.idx d) 1).event 0x30 0x12 d 0 (leBytes 2 mv ++ leBytes 2 v)
      else s1
    if (v = 800 ∧ 800 < mv) ∨ (s.avsHeld d = true ∧ v < mv) then fin (s2.loseDie d) else .next s2

/-- AVS_STEP (R57): one acknowledged step of 5 mV towards the target; none while the master holds the voltage. -/
def execAvsStep (d : Nat) (s : State) : Out :=
  let v := s.rd (PWR_VDD_VSET.idx d)
  let t := tget 0 s.pwr.avsTarget d
  let v' := if v < t then min 800 (v + 5) else if t + 5 ≤ v then max 650 (v - 5) else v
  if 4 ≤ d ∨ s.avsHeld d = true ∨ t = 0 then .next s
  else .next (((s.wr (PWR_VDD_VSET.idx d) v').raise (PWR_VDD_VMAX_SEEN.idx d) v').modPwr fun p =>
    { p with avsNak := tset 0 p.avsNak d 0 })

/-- AVSBUS_NO_ACK (R58). -/
def execAvsbusNoAck (d : Nat) (s : State) : Out :=
  if 4 ≤ d ∨ s.avsHeld d = true then .next s
  else
    let n := tget 0 s.pwr.avsNak d + 1
    let s1 := s.modPwr fun p => { p with avsNak := tset 0 p.avsNak d n }
    if n = 3 then .next ((s1.wr (PWR_VDD_AVS_FAULT.idx d) 1).event 0x31 0x12 d 0 (leBytes 2 (s.rd (PWR_VDD_VSET.idx d))))
    else .next s1

/-! ## Power states (R59-R61) -/

/-- COMB_CLOCK_GATE (R59, R64): after 256 idle CCLK cycles, once its filler has decayed. -/
def execCombClockGate (g : Nat) (s : State) : Out :=
  if 64 ≤ g ∨ s.rd (CMB_STATE_STATE.idx g) ≠ 1 ∨ s.combFree g = false ∨ s.fills g = true then .next s
  else .next ((s.waitTo ((s.comb g).idleAt + 26)).wr (CMB_STATE_STATE.idx g) 0)

/-- Whether a die may enter standby: its policy permits it and no colony holds a comb on it (R59, R61). -/
def State.mayStandby (s : State) (d : Nat) : Bool :=
  let gs := (List.range 16).map (16 * d + ·)
  decide (d < 4) && decide (s.rd IDN_BOOT_STAGE = 6) && s.pwr.standbyOk && s.dieIncluded d && !s.on (PWR_STATUS_STANDBY.bit d)
    && !s.on PWR_STATUS_LOW_POWER && gs.all fun g => s.combFree g && s.lcHolder g == none

/-- DIE_STANDBY_ENTER (R59, R61): IDLE_MS have passed with no comb held. -/
def execDieStandbyEnter (d : Nat) (s : State) : Out :=
  if s.mayStandby d = false then .next s
  else
    let last := ((List.range 16).map fun n => (s.comb (16 * d + n)).idleAt).foldl max 0
    let s1 := (s.waitTo (last + s.pwr.idleMs * 125000)).wr (PWR_STATUS_STANDBY.bit d) 1
    if s.rd DMC_MAP_ISHARE = 0 then .next (s1.selfRefresh d) else .next s1

/-- DIE_STANDBY_EXIT_DONE (R59, R276): the combs of a die whose exit was demanded are usable, and their switches to the jobs that
wait for them begin. -/
def execDieStandbyExitDone (d : Nat) (s : State) : Out :=
  if s.on (PWR_STATUS_STANDBY.bit d) = false ∨ tget none s.pwr.standbyExitAt d = none then .next s
  else
    let s1 := ((s.useSched 12500000 |>.wr (PWR_STATUS_STANDBY.bit d) 0).wr (DMC_STATUS_SELF_REFRESH.idx d) 0).modPwr fun p =>
      { p with standbyExitAt := tset none p.standbyExitAt d none }
    .next { s1 with jobs := tmap (fun j => if j.phase = .switching then j.restartSwitch d s.tclk else j) s1.jobs }

/-- D3HOT_ENTRY (R59, R60): Low power; loops go safe and island B stops the machine where one was enabled.  What an entry before
mailbox ready does, spec/ does not say: here it has no effect (DESIGN CHOICE; log entry 102). -/
def execD3hotEntry (s : State) : Out :=
  if s.on PWR_STATUS_LOW_POWER ∨ s.on MBX_CTRL_READY = false then .next s
  else
    let s1 := if s.enabledLoops = [] then s else (s.safeAll 3).stopB 4
    let s2 := s1.includedDies.foldl State.selfRefresh s1
    let s3 := { s2 with thm := { s2.thm with doms := tmap (fun x => { x with filler := 0 }) s2.thm.doms } }
    fin (s3.wr PWR_STATUS_LOW_POWER 1)

/-- D0_ENTRY (R59, R60): held work resumes. -/
def execD0Entry (s : State) : Out :=
  if s.on PWR_STATUS_LOW_POWER = false then .next s
  else
    let s1 := (List.range 4).foldl (fun s d =>
      if s.on (PWR_STATUS_STANDBY.bit d) ∧ s.rd DMC_MAP_ISHARE = 0 then s else s.wr (DMC_STATUS_SELF_REFRESH.idx d) 0) s
    .next { (s1.wr PWR_STATUS_LOW_POWER 0).useSched 12500000 with fus := { s1.fus with nextClose := none } }

/-! ## Ramp limiters (R63, R64) -/

/-- RAMP_ESTIMATE (R63, R64): a 1 µs estimate of a pair (0-3) or the Eztos die (4), in mW, and the part of it that is best-effort
duty.  Every 25 estimates the average may move by 1 W: the limiter gates issue where it would rise further, of the latency-critical
combs only where the best-effort duty does not cover the excess, and fills where it would fall further; best-effort duty that was shed
climbs back by 1 W, and filler has decayed where nothing is left to fill. -/
def execRampEstimate (die : Nat) (e : DieEstimate) (s : State) : Out :=
  if 5 ≤ die ∨ s.pkg.heldInReset = true then .next s
  else
    let sum := tget 0 s.pwr.rampSum die + e.mw
    let n := tget 0 s.pwr.rampCnt die + 1
    let s0 := s.modPwr fun p => { p with beDuty := tset 0 p.beDuty die e.be }
    if n < 25 then .next (s0.modPwr fun p => { p with rampSum := tset 0 p.rampSum die sum, rampCnt := tset 0 p.rampCnt die n })
    else
      let avg := sum / 25
      let prev := (tget none s.pwr.rampAvg die).getD avg
      let gate := decide (prev + 1000 < avg)
      let fill := decide (avg + 1000 < prev)
      let bit : BitVec 5 := 1 <<< die
      let ofDie : BitVec 64 := if die < 4 then 0xFFFF <<< (16 * die) else 0
      let s1 := s0.modPwr fun p => { p with
        rampSum := tset 0 p.rampSum die 0, rampCnt := tset 0 p.rampCnt die 0
        rampAvg := tset none p.rampAvg die (some (if gate then prev + 1000 else if fill then prev - 1000 else avg))
        gating := if gate then p.gating ||| bit else p.gating &&& ~~~bit
        lcGate := if gate ∧ e.be < avg - (prev + 1000) then p.lcGate ||| bit else p.lcGate &&& ~~~bit
        filling := if fill then p.filling ||| bit else p.filling &&& ~~~bit
        filler := if fill then p.filler else p.filler &&& ~~~ofDie
        shed := tset 0 p.shed die (tget 0 p.shed die - 1000) }
      .next (s1.showRamp die)

/-! ## The join of island B (R436-R438) -/

/-- JOIN_HELLO (R436): `msg` is the message's content and `crc` its CRC as they arrive; `nb` is island B's nonce. -/
def execJoinHello (msg nb crc : List Byte) (s : State) : Out := .next (if s.link8 then s.joinHello (msg ++ crc) nb else s)

/-- JOIN_RESP (R436, R437): content and CRC as they arrive. -/
def execJoinResp (msg crc : List Byte) (s : State) : Out := .next (if s.link8 then s.joinResp (msg ++ crc) else s)

/-- JOIN_CONFIRM (R436): content and CRC as they arrive. -/
def execJoinConfirm (msg crc : List Byte) (s : State) : Out := .next (if s.link8 then s.joinConfirm (msg ++ crc) else s)

/-- JOIN_DONE (R436, R438, R66). -/
def execJoinDone (x : JoinReport) (s : State) : Out := .next (if s.link8 then s.joinDone x.msg x.lock else s)

/-- JOIN_HELLO_RETRY (R437, R438). -/
def execJoinHelloRetry (s : State) : Out := .next s.joinRetry

/-- JOIN_TIMEOUT (R437). -/
def execJoinTimeout (s : State) : Out := .next s.joinTimeout

end Sys2Proof.Machine
end

