-- ==== Sys2Proof/Machine/Thermal.lean ====
section
/-!
DEFINITION. Thermal sensing, forecasting and life: samples and failed sensors (R485, R486, R491), forecasts (R487, R488), the duty
review (R489, R490), sustained temperatures, swings and the ledger (R492, R493), and cooling degradation (R496, R497).  Temperatures
are in 1/16 °C.
-/
namespace Sys2Proof.Machine

/-! ## Sensors (R485, R486) -/

/-- The first sensor of a die and how many it has: 0-3 Rurad, 4-7 Mimider, 8 Eztos, 9 Uathal (R485). -/
def dieSensors (die : Nat) : Nat × Nat :=
  if die < 4 then (63 * die, 55) else if die < 8 then (63 * (die - 4) + 55, 8) else if die = 8 then (252, 36) else (288, 12)

/-- The thermal domain of a sensor (R485). -/
def domainOf (i : Nat) : Nat := if i < 252 then i / 63 else if i < 288 then 4 else 5

/-- Whether a sensor of a domain can read: its pair is not excluded, island B is joined (R486). -/
def State.domainLives (s : State) (e : Nat) : Bool :=
  if e < 4 then s.dieIncluded e else if e = 4 then true else s.on SAF_ISL_STATUS_B_JOINED

/-- Whether a sensor reads VALID (R486): sampled, not failed, and its domain can read. -/
def State.sensorValid (s : State) (i : Nat) : Bool :=
  decide (i < 300) && s.on (THM_SENSOR_VALID.bank i) && !s.on (THM_SENSOR_FAILED.bank i) && s.domainLives (domainOf i)

/-- A sensor's latest reading. -/
def State.sensorTemp (s : State) (i : Nat) : Int := toS16 (s.rd (THM_SENSOR_TEMP.bank i))

/-- A list sorted. -/
def sortInts (l : List Int) : List Int := l.mergeSort (fun a b => decide (a ≤ b))

/-- Twice the median of readings (R486). -/
def median2 (l : List Int) : Int :=
  let o := sortInts l
  let n := o.length
  (o[(n - 1) / 2]?).getD 0 + (o[n / 2]?).getD 0

/-- A domain's record. -/
def State.dom (s : State) (e : Nat) : Domain := tget ({} : Domain) s.thm.doms e

/-- The outlier counts of a die's sensors after one sample (R486): a reading more than 15 K from the median counts, another starts
the count again, and a count that has reached 10 stays. -/
def State.countOutliers (s : State) (first : Nat) (temps : List Int) : State :=
  let m := median2 temps
  s.modThm fun t => { t with outlier := (temps.zipIdx first).foldl (fun o x =>
    let n := tget 0 o x.2
    tset 0 o x.2 (if 10 ≤ n then n else if 480 < (2 * x.1 - m).natAbs then n + 1 else 0)) t.outlier }

/-- One reading of a sensor taken up (R485, R486, R491); its outlier count is already made. -/
def State.readSensor (s : State) (i : Nat) (v : Int) : State :=
  let s1 := (s.wr (THM_SENSOR_TEMP.bank i) (ofInt 16 v)).wr (THM_SENSOR_VALID.bank i) 1
  let s2 := if 10 ≤ tget 0 s.thm.outlier i then s1.wr (THM_SENSOR_FAILED.bank i) 1 else s1
  let hot := s2.sensorValid i && decide (1920 ≤ v)
  let k := if hot then tget 0 s.thm.trip i + 1 else 0
  let hasTrip := decide (i < 288) && !(decide (i < 252) && decide (55 ≤ i % 63))
  s2.modThm fun t => { t with trip := tset 0 t.trip i k, tripped := t.tripped || (hasTrip && decide (2 ≤ k)) }

/-- The valid sensors of a domain. -/
def State.validSensors (s : State) (e : Nat) : List Nat := (List.range 300).filter fun i => domainOf i == e && s.sensorValid i

/-- The hottest of some sensors, ties to the lower index. -/
def State.hottest (s : State) (l : List Nat) : Option Nat := l.foldl (fun b i => match b with
  | none => some i
  | some j => if s.sensorTemp j < s.sensorTemp i then some i else some j) none

/-! ## Warnings (R490) -/

/-- THERMAL_WARNING of a kind, at most one per kind and domain in each 1 s (R490). -/
def State.warn (s : State) (e kind : Nat) (temp : Int) : State :=
  let ok := match tget none (s.dom e).warnedAt kind with
    | none => true
    | some t => decide (t + 125000000 ≤ s.tclk)
  if ok = false then s
  else
    (s.modDom e fun d => { d with warnedAt := tset none d.warnedAt kind (some s.tclk) }).event 0x40 0x13 e 0
      (leBytes 1 kind ++ leBytes 2 (s.rd (THM_DIE_HOT_IDX.idx e)) ++ leBytes 2 (ofInt 16 temp) ++ leBytes 1 (s.rd (THM_DIE_DUTY.idx e)))

/-- The hot spot of a domain brought up to date (R485, R490, R493). -/
def State.hotSpot (s : State) (e : Nat) : State :=
  match s.hottest (s.validSensors e) with
  | none => s
  | some i =>
    let v := s.sensorTemp i
    let s1 := ((s.wr (THM_DIE_HOT.idx e) (ofInt 16 v)).wr (THM_DIE_HOT_IDX.idx e) i).modDom e fun d =>
      { d with peak := some (max v (d.peak.getD v)) }
    let hot := decide (1840 ≤ v)
    let was := s.on (THM_STATUS_OVER.bit e)
    let s2 := s1.wrB (THM_STATUS_OVER.bit e) hot
    if hot && !was then s2.warn e 4 v else s2

/-- Readings taken up: the sensors of a die, then its domain, whose window they enter (R485, R492). -/
def State.takeReadings (s : State) (first : Nat) (l : List Int) : State :=
  let s1 := (l.zipIdx first).foldl (fun s x => s.readSensor x.2 x.1) s
  let e := domainOf first
  let vs := ((List.range l.length).map (first + ·)).filter s1.sensorValid
  let s2 := s1.modDom e fun d => { d with winSum := d.winSum + (vs.map s1.sensorTemp).sum, winCnt := d.winCnt + vs.length }
  s2.hotSpot e

/-- SENSOR_SAMPLE (R485, R486): the sensors of die `die` (0-3 Rurad, 4-7 Mimider, 8 Eztos, 9 Uathal), in 1/16 °C.  Island B takes the
Uathal samples and holds them for its next report. -/
def execSensorSample (die : Nat) (temps : List Int) (s : State) : Out :=
  let (first, n) := dieSensors die
  if 10 ≤ die ∨ temps.length ≠ n then .next s
  else if die = 9 then
    .next (if s.pkg.sfdPowered = false then s
      else (s.countOutliers 288 temps).modThm fun t => { t with uathal := temps })
  else if s.pkg.heldInReset = true ∨ s.domainLives (domainOf first) = false then .next s
  else .next ((s.countOutliers first temps).takeReadings first temps)

/-- The Uathal sensors that have failed, from 0, as island B counts (R486). -/
def State.uathalFailed (s : State) : List Nat := (List.range 12).filter fun i => decide (10 ≤ tget 0 s.thm.outlier (288 + i))

/-- UATHAL_SENSOR_REPORT (R485, R486): island B's latest samples arrive over link 8, with its failed sensors marked.  A report brings what
island B holds; it has no other. -/
def execUathalSensorReport (temps : List Int) (failed : List Nat) (s : State) : Out :=
  if s.on SAF_ISL_STATUS_B_JOINED = false ∨ s.link8 = false ∨ temps ≠ s.thm.uathal ∨ failed ≠ s.uathalFailed then .next s
  else .next (s.takeReadings 288 temps)

/-! ## Forecast (R487, R488) -/

/-- Whether the forecasts use the scheduled source (R488). -/
def State.schedSource (s : State) : Bool := decide (s.tclk < s.thm.schedUntil) || decide (s.saf.restarts ≠ []) || s.saf.test.isSome

/-- The coolant inlet temperature of the forecasts, 25 °C when THM_COOLANT is stale (R487, R496). -/
def State.inlet (s : State) : Int := if s.on THM_STATUS_COOLANT_STALE then 400 else toS16 (s.rd THM_COOLANT_TEMP)

/-- The power input of a domain's forecast, in mW (R487, R488): the ramp limiter's estimate of R63, or the scheduled power.  The Uathal
die has no limiter, and a limiter has no average before its first 25 estimates: there the input is `sched` too (log entry 146). -/
def State.powerInput (s : State) (sched : List Nat) (e : Nat) : Nat :=
  let given := sched.getD e 0
  if s.schedSource = true ∨ 5 ≤ e then given else (tget none s.pwr.rampAvg e).getD given

/-- The forecast of a domain (R487): the RC model on the present readings, the power and the coolant. -/
def State.rcForecast (s : State) (sched : List Nat) (e : Nat) : Int :=
  (Config.rcModel e ((s.validSensors e).map s.sensorTemp) (s.powerInput sched e) s.inlet).toInt

/-- The forecast of a domain in THM_DIEn. -/
def State.forecast (s : State) (e : Nat) : Int := toS16 (s.rd (THM_DIE_FORECAST.idx e))

/-- Whether some best-effort comb of a die may still be throttled (R490): a Rurad forecast at T_THROTTLE or above is stuck otherwise. -/
def State.stuckHot (s : State) (e : Nat) : Bool :=
  decide (e < 4) && decide (((16 * s.thm.throttle : Nat) : Int) ≤ s.forecast e)
    && (decide (s.rd (THM_DIE_DUTY.idx e) = 0) || !(s.beOnDie e))

/-- KIND 3 (R490): the forecast has stayed stuck for 10 ms, told once while it stays. -/
def State.watchStuck (s : State) (e : Nat) : State :=
  if s.stuckHot e = false then s.modDom e fun d => { d with stuckAt := none, stuckTold := false }
  else match (s.dom e).stuckAt with
    | none => s.modDom e fun d => { d with stuckAt := some s.tclk }
    | some t =>
      if t + 1250000 ≤ s.tclk ∧ (s.dom e).stuckTold = false then
        (s.modDom e fun d => { d with stuckTold := true }).warn e 3 (s.forecast e)
      else s

/-- A domain's forecast taken (R487, R490): a domain without readings has none; no filler runs at or above T_WARN (R492). -/
def State.forecastDomain (sched : List Nat) (s : State) (e : Nat) : State :=
  if s.domainLives e = false then (s.wr (THM_STATUS_WARN.bit e) 0).wr (THM_STATUS_OVER.bit e) 0
  else
    let v := s.rcForecast sched e
    let warm := decide (((16 * s.thm.warn : Nat) : Int) ≤ v)
    let was := s.on (THM_STATUS_WARN.bit e)
    let s1 := ((s.wr (THM_DIE_FORECAST.idx e) (ofInt 16 v)).wrB (THM_DIE_SCHED.idx e) s.schedSource).wrB (THM_STATUS_WARN.bit e) warm
    let s2 := if warm then s1.modDom e fun d => { d with filler := 0 } else s1
    (if warm && !was then s2.warn e 1 v else s2).watchStuck e

/-- THERMAL_FORECAST (R487): the hot spot of each domain 5 ms ahead, as the RC model gives it; `sched` is each domain's scheduled power
in mW (R487, R488). -/
def execThermalForecast (sched : List Nat) (s : State) : Out :=
  if sched.length ≠ 6 ∨ s.on MBX_CTRL_READY = false then .next s
  else .next ((List.range 6).foldl (State.forecastDomain sched) s)

/-! ## Duty (R489, R490, R492) -/

/-- The review of a Rurad domain (R489, R490): `rise` whether its S would rise too fast (R492). -/
def State.reviewDie (s : State) (e : Nat) (rise : Bool) : State :=
  let fc := s.forecast e
  let t : Int := (16 * s.thm.throttle : Nat)
  let d := s.rd (THM_DIE_DUTY.idx e)
  let acts := if rise ∧ s.on THM_CTL_SWING_EN = true then max fc t else fc
  let d' := if t ≤ acts then d - 1 else if acts ≤ t - 48 then min 8 (d + 1) else d
  let s1 := s.wr (THM_DIE_DUTY.idx e) d'
  (if d = 8 ∧ d' < 8 then s1.warn e 2 fc else s1).watchStuck e

/-- The limits of THM_LIMITS come into force (R489). -/
def State.takeLimits (s : State) : State :=
  s.modThm fun t => { t with warn := s.rd THM_LIMITS_T_WARN, throttle := s.rd THM_LIMITS_T_THROTTLE }

/-- The review of a Rurad domain, and the filler power that runs on its idle combs until the next, at most 40 W (R489, R492). -/
def State.reviewDomain (rise : BitVec 4) (fill : List Nat) (s : State) (e : Nat) : State :=
  if s.dieIncluded e = false then s
  else
    let may := s.on THM_CTL_SWING_EN && decide (s.forecast e < ((16 * s.thm.warn : Nat) : Int)) && !s.on PWR_STATUS_LOW_POWER
    (s.reviewDie e (rise.getLsbD e)).modDom e fun d => { d with filler := if may then min 40000 (fill.getD e 0) else 0 }

/-- A millisecond at or above 105 °C counted (R493). -/
def State.countHot (s : State) (e : Nat) : State :=
  if s.validSensors e ≠ [] ∧ 1680 ≤ toS16 (s.rd (THM_DIE_HOT.idx e)) then s.modDom e fun d => { d with hotMs := d.hotMs + 1 } else s

/-- Whether any domain has a duty below 8. -/
def State.throttled (s : State) : Bool := (List.range 4).any fun e => decide (s.rd (THM_DIE_DUTY.idx e) < 8)

/-- DUTY_REVIEW (R489, R490, R492, R493): `rise` names the Rurad domains whose S would rise by more than 1 K, and `fill` is the filler
power in mW that keeps each one's S from falling further; the limits of THM_LIMITS come into force. -/
def execDutyReview (rise : BitVec 4) (fill : List Nat) (s : State) : Out :=
  if s.on MBX_CTRL_READY = false then .next s
  else
    let s2 := (List.range 4).foldl (State.reviewDomain rise fill) s.takeLimits
    let s3 := (List.range 6).foldl State.countHot s2
    .next (if s3.throttled then s3.inc THM_THROTTLE_COUNT else s3)

/-! ## Sustained temperature and the ledger (R492, R493) -/

/-- A half cycle of an amplitude (R493). -/
def Domain.count (d : Domain) (amp : Nat) : Domain :=
  if amp < 160 then d else if amp < 320 then { d with half10 := d.half10 + 1 } else if amp < 640 then { d with half20 := d.half20 + 1 }
  else if amp < 960 then { d with half40 := d.half40 + 1 } else { d with half60 := d.half60 + 1 }

/-- The extreme becomes a turning point, and S the new extreme (R493). -/
def Domain.turn (d : Domain) (v : Int) (goesUp : Bool) : Domain :=
  { d.count (d.ext - d.lastTp).natAbs with lastTp := d.ext, ext := v, up := some goesUp }

/-- The ledger takes a window's S (R493). -/
def Domain.advance (d : Domain) (v : Int) : Domain :=
  if d.started = false then { d with started := true, lastTp := v, ext := v, up := none }
  else match d.up with
    | none => if d.ext < v then { d with up := some true, ext := v } else if v < d.ext then { d with up := some false, ext := v } else d
    | some true => if d.ext < v then { d with ext := v } else if v + 32 ≤ d.ext then d.turn v false else d
    | some false => if v < d.ext then { d with ext := v } else if d.ext + 32 ≤ v then d.turn v true else d

/-- A domain's window ends (R492, R493); `counts` whether the ledger runs, which does not take a window that began before it. -/
def State.endWindow (s : State) (e : Nat) (runs : Bool) : State :=
  let d := s.dom e
  let counts := runs && !d.partialWin
  if d.winCnt = 0 then s.modDom e fun d => { d with partialWin := false }
  else
    let v := d.winSum / (d.winCnt : Int)
    let old := toS16 (s.rd (THM_DIE_S.idx e))
    let s1 := (s.wr (THM_DIE_S.idx e) (ofInt 16 v)).modDom e fun d => { (if counts then d.advance v else d) with winSum := 0, winCnt := 0, hasS := true, partialWin := false }
    if d.hasS ∧ 16 < (v - old).natAbs ∧ s.on THM_CTL_SWING_EN = true then (s1.wr (THM_DIE_SWING.idx e) 1).warn e 5 v else s1

/-- What one domain's window boundary does (R492, R493): a domain that cannot read gives its window up, as every domain does before
mailbox ready (log entry 146).  The ledger of a domain runs from comb release, Uathal's while island B is joined. -/
def State.boundary (s : State) (e : Nat) : State :=
  if s.domainLives e && s.on MBX_CTRL_READY then s.endWindow e (e == 5 || decide (s.rd IDN_BOOT_STAGE = 6)) else s.dropWindow e

/-- SUSTAINED_WINDOW (R492-R494): a 200 ms window ends, and LEDGER_READ answers from this boundary until the next. -/
def execSustainedWindow (s : State) : Out :=
  .next (((List.range 6).foldl State.boundary s).modThm fun t => { t with ledger := t.doms })

/-! ## Cooling degradation (R496, R497) -/

/-- COOLING_DEGRADED (R497). -/
def State.coolingEvent (s : State) (est : Nat) : State :=
  (s.wr THM_STATUS_COOL_DEG 1).event 0x41 0x13 0 0 (leBytes 2 est ++ leBytes 2 (s.rd THM_RTH_BASE_BASE))

/-- A valid window's R_est, in mK/W (R497). -/
def State.useEstimate (s : State) (est : Nat) : State :=
  let s1 := (s.wr THM_RTH_RTH est).inc THM_RTH_WINDOWS
  let base := s.rd THM_RTH_BASE_BASE
  if base = 0 then
    let sum := s.thm.learnSum + est
    let n := s.thm.learnCnt + 1
    if n < 64 then s1.modThm fun t => { t with learnSum := sum, learnCnt := n }
    else ((s1.wr THM_RTH_BASE_BASE (sum / 64)).wr THM_STATUS_BASE_LEARNT 1).modThm fun t => { t with learnSum := 0, learnCnt := 0 }
  else if base * (100 + s.rd THM_CTL_RISE) < est * 100 then
    let n := s.thm.overCnt + 1
    let s2 := s1.modThm fun t => { t with overCnt := n }
    if 6 ≤ n ∧ (n - 6) % 360 = 0 then s2.coolingEvent est else s2
  else s1.modThm fun t => { t with overCnt := 0 }

/-- RTH_WINDOW (R496): a 10 s window ends; `avg`, `lo` and `hi` are the average, least and greatest package power in mW, `powers` the
average power of each domain. -/
def execRthWindow (avg lo hi : Nat) (powers : List Nat) (s : State) : Out :=
  let stale := s.on THM_STATUS_COOLANT_STALE
  let es := (List.range 6).filter fun e => (s.dom e).hasS && s.domainLives e
  let p (e : Nat) : Nat := (powers[e]?).getD 0
  let total := (es.map p).sum
  let ok := !stale && !s.thm.spoilt && decide (150000 ≤ avg ∧ 9 * avg ≤ 10 * lo ∧ 10 * hi ≤ 11 * avg) && decide (0 < total)
  let s1 := s.modThm fun t => { t with spoilt := stale }
  if s.on MBX_CTRL_READY = false then .next s
  else if ok = false then .next s1
  else
    let tp := (es.map fun e => (p e : Int) * toS16 (s.rd (THM_DIE_S.idx e))).sum
    let rise := tp - total * toS16 (s.rd THM_COOLANT_TEMP)
    .next (s1.useEstimate (min 0xFFFF (rise * 1000000 / (16 * total * avg : Nat)).toNat))

/-- COOLANT_STALE (R496): 10 s after the last write of THM_COOLANT. -/
def execCoolantStale (s : State) : Out :=
  match s.thm.coolantAt with
  | none => .next s
  | some t => .next (((s.waitTo (t + 1250000000)).wr THM_STATUS_COOLANT_STALE 1).modThm fun x => { x with coolantAt := none, spoilt := true })

/-- THM_COOLANT written (R496, R499). -/
def State.writeCoolant (s : State) (v : Nat) : State :=
  ((s.wr THM_COOLANT_TEMP v).wr THM_STATUS_COOLANT_STALE 0).modThm fun t => { t with coolantAt := some s.tclk }

/-- COOLANT_WRITE (R496). -/
def execCoolantWrite (v : Word) (s : State) : Out := .next (s.writeCoolant v.toNat)

/-- THM_RTH_BASE written (R496, R497): the window is not used, and the baseline is the host's. -/
def State.writeBase (s : State) (v : Nat) : State :=
  ((s.wr THM_RTH_BASE_BASE v).wr THM_STATUS_BASE_LEARNT 0).modThm fun t => { t with spoilt := true, learnSum := 0, learnCnt := 0, overCnt := 0 }

/-- THM_LIMITS written (R499): both fields or none. -/
def State.writeLimits (s : State) (v : Nat) : State :=
  let w := bitsOf v 0 8
  let t := bitsOf v 8 8
  if 80 ≤ w ∧ w ≤ t ∧ t ≤ 112 then (s.wr THM_LIMITS_T_WARN w).wr THM_LIMITS_T_THROTTLE t else s

/-- THERMAL_LIMITS_WRITE (R499). -/
def execThermalLimitsWrite (v : Word) (s : State) : Out := .next (s.writeLimits v.toNat)

/-- THM_CTL written (R499): SWING_EN, and RISE where it lies in 5-100. -/
def State.writeThmCtl (s : State) (v : Nat) : State :=
  let s1 := s.wr THM_CTL_SWING_EN (bitsOf v 0 1)
  let r := bitsOf v 8 8
  if 5 ≤ r ∧ r ≤ 100 then s1.wr THM_CTL_RISE r else s1

/-- THERMAL_CTL_WRITE (R499). -/
def execThermalCtlWrite (v : Word) (s : State) : Out := .next (s.writeThmCtl v.toNat)

end Sys2Proof.Machine
end

