-- ==== Sys2Proof/Machine/TimeCmds.lean ====
section
/-!
DEFINITION. The time base's commands: Sync and PPS, holdover, TIM_CFG (R347-R354).  The servo's law is the firmware's; its
rate estimate, its ADJ and whether it steps are operands, within the bounds of R347 and R349 (log entry 61).
-/
namespace Sys2Proof.Machine

/-- The states of the time base (R348). -/
abbrev timFree : Nat := 0
abbrev timLocking : Nat := 1
abbrev timLocked : Nat := 2
abbrev timHoldover : Nat := 3
abbrev timUnsync : Nat := 4

/-- An integer kept within ± a bound. -/
def clampTo (b : Nat) (x : Int) : Int := max (-(b : Int)) (min (b : Int) x)

/-- A new STATE: LOST when LOCKED is left, UNSYNC_SEEN when UNSYNC is reached (R354). -/
def State.timState (s : State) (st : Nat) : State :=
  let s1 := if s.rd TIM_STATUS_STATE = timLocked ∧ st ≠ timLocked then s.wr TIM_STATUS_LOST 1 else s
  let s2 := if st = timUnsync then s1.wr TIM_STATUS_UNSYNC_SEEN 1 else s1
  s2.wr TIM_STATUS_STATE st

/-- ESTERR in HOLDOVER and UNSYNC (R348): |last offset| + elapsed seconds × DRIFT ns; 0 otherwise. -/
def State.estErr (s : State) : Nat :=
  if s.rd TIM_STATUS_STATE = timHoldover ∨ s.rd TIM_STATUS_STATE = timUnsync then
    min (s.servo.lastOffset.natAbs + (s.tclk - s.servo.holdAt) * s.rd TIM_HOLD_DRIFT / 125000000) (2 ^ 32 - 1)
  else 0

/-- SRC of a TIM_CFG word (R354): 3 acts as 0. -/
def cfgSrc (w : Nat) : Nat := if bitsOf w 0 2 = 3 then 0 else bitsOf w 0 2

/-- TIM_CFG taken into effect at a sync interval (R354). -/
def State.applyTimCfg (s : State) : State :=
  let new := (s.reg TIM_CFG_SRC.off).toNat % 2 ^ 32
  let old := s.servo.cfg
  let s1 := { s with servo := { s.servo with cfg := new } }
  if cfgSrc new ≠ cfgSrc old ∨ bitsOf new 4 7 ≠ bitsOf old 4 7 ∨ bitsOf new 12 12 ≠ bitsOf old 12 12 then
    let s2 := { s1 with servo := { s1.servo with good := 0 } }
    if cfgSrc new = 0 then ((s2.timState timFree).wr TIM_STATUS_SOURCE 0).wr TIM_STATUS_GM 0 else s2.timState timLocking
  else s1

/-- Whether the firmware may step the time base (R349). -/
def State.mayStep (s : State) : Bool :=
  !s.servo.everLocked && !s.on TIM_STATUS_STEPPED && decide (s.rd TIM_STATUS_STATE ≤ timLocking)

/-- The one step (R349): the time base takes the source's time; the fusion engine discards its open instants (R359). -/
def State.stepTime (s : State) (offset : Int) : State :=
  let s1 := s.discardOpen.wr FUS_STATUS_STEP_SEEN 1
  (s1.setTime96 (((s1.time96 : Int) - offset * (2 ^ 32 : Nat)) % (2 ^ 96 : Nat)).toNat).wr TIM_STATUS_STEPPED 1

/-- An update of the servo from a source (R348, R349): OFFSET, ADJ, SLEW and the state. -/
def State.servoUpdate (s : State) (source : Nat) (offset rate adj : Int) (step changed : Bool) : State :=
  let st := s.rd TIM_STATUS_STATE
  let s1 := if st ≠ timLocking ∧ (st ≠ timLocked ∨ changed = true) then s.timState timLocking else s
  let good := if (st ≠ timLocking ∧ st ≠ timLocked) ∨ changed = true then 0 else s1.servo.good
  let doStep := step && s1.mayStep
  let s2 := if doStep then s1.stepTime offset else s1
  let r := clampTo 17179869 rate
  let a := clampTo 17179869 (if s2.servo.everLocked then r + clampTo 6871948 (adj - r) else adj)
  let good' := if doStep then 0 else if offset.natAbs < 100 then good + 1 else 0
  let s3 := { s2 with servo := { s2.servo with
    rate := r, adjs := (a :: s2.servo.adjs).take 8, lastOffset := offset, good := good' } }
  let s4 := ((s3.wr TIM_OFFSET_NS (ofInt 32 offset)).wr TIM_ADJ_ADJ (ofInt 32 a)).wr TIM_STATUS_SOURCE source
  let s5 := s4.wrB TIM_STATUS_SLEW (s4.servo.everLocked && decide (100 ≤ offset.natAbs))
  if 8 ≤ good' ∧ s5.rd TIM_STATUS_STATE = timLocking then
    let s6 := s5.timState timLocked
    { s6 with servo := { s6.servo with everLocked := true } }
  else s5

/-- SYNC_MESSAGE (R348, R350): a usable Sync of grandmaster `gm` on port `n`. -/
def execSyncMessage (n gm : Nat) (offset : Int) (pdelay : Nat) (rate adj : Int) (step : Bool) (s : State) : Out :=
  let s1 := s.applyTimCfg
  if cfgSrc s1.servo.cfg = 0 ∨ bitsOf s1.servo.cfg (12 + n) 1 = 0 then .next s1
  else
    let changed := s1.servo.gm.isSome && s1.servo.gm != some gm || s1.rd TIM_STATUS_SOURCE == 3
    let s2 := { s1 with servo := { s1.servo with gm := some gm } }
    let s3 := s2.servoUpdate (cfgSrc s2.servo.cfg) offset rate adj step changed
    .next (((s3.wr TIM_PDELAY_NS pdelay).wr TIM_STATUS_PORT n).wr TIM_STATUS_GM 0)

/-- Whether GNSS can take over (R350): fallback is on, a valid time of day is known and a PPS edge was seen within 1.1 s. -/
def State.gnssReady (s : State) : Bool :=
  bitsOf s.servo.cfg 2 1 == 1 && s.servo.todOk && match s.servo.ppsAt with
    | some t => decide (s.tclk ≤ t + 137500000)
    | none => false

/-- The mean of the last ADJ values (R348). -/
def Servo.meanAdj (v : Servo) : Int := if v.adjs = [] then 0 else v.adjs.sum / v.adjs.length

/-- HOLDOVER begins (R348): ADJ is held at the mean of its last 8 values. -/
def State.holdover (s : State) : State :=
  let s1 := (s.timState timHoldover).wr TIM_ADJ_ADJ (ofInt 32 s.servo.meanAdj)
  let s2 := (s1.wr TIM_STATUS_SLEW 0).wr TIM_STATUS_SOURCE 0
  { s2 with servo := { s2.servo with holdAt := s2.tclk, good := 0 } }

/-- SYNC_TIMEOUT (R348, R350): three sync intervals without a usable Sync.  With GNSS ready the time base follows it in place of
HOLDOVER. -/
def execSyncTimeout (s : State) : Out :=
  let s1 := s.applyTimCfg
  if s1.rd TIM_STATUS_STATE = timLocked then
    if s1.gnssReady then
      let s2 := { s1 with servo := { s1.servo with good := 0 } }
      .next ((s2.timState timLocking).wr TIM_STATUS_SOURCE 3)
    else .next s1.holdover
  else .next s1

/-- The ticks from HOLDOVER's start until ESTERR exceeds HOLD_LIMIT; never without a drift. -/
def State.expiryTicks (s : State) : Option Nat :=
  let lim := s.rd TIM_HOLD_LIMIT * 1000
  let off := s.servo.lastOffset.natAbs
  if lim < off then some 0
  else if s.rd TIM_HOLD_DRIFT = 0 then none
  else some (ceilDiv ((lim + 1 - off) * 125000000) (s.rd TIM_HOLD_DRIFT))

/-- HOLDOVER_EXPIRY (R348): ESTERR exceeds HOLD_LIMIT. -/
def execHoldoverExpiry (s : State) : Out :=
  match s.expiryTicks with
  | none => .next s
  | some n =>
    if s.rd TIM_STATUS_STATE = timHoldover then .next ((s.waitTo (s.servo.holdAt + n)).timState timUnsync) else .next s

/-- The transmit capture on an Ethernet port in tenths of ns: a free part of the tick, in steps of 0.8 ns, and the PHY's transmit delay
added (R351, R352; log entry 143). -/
def State.ethSent (s : State) (n : Nat) : Nat := 10 * s.now + 8 * (Config.freeNat (s.free + n) % 10) + s.rd (TIM_PHYDLY_TX.idx n)

/-- SYNC_TRANSMIT (R350, R354): at a sync interval TIM_CFG takes effect, and as grandmaster the device sends two-step Sync on every
port of PORTS. -/
def execSyncTransmit (s0 : State) : Out :=
  let s := s0.applyTimCfg
  if cfgSrc s.servo.cfg = 1 ∧ bitsOf s.servo.cfg 3 1 = 1 then
    let ports := (List.range 12).filter fun n => bitsOf s.servo.cfg (12 + n) 1 == 1
    let s1 := { s with servo := { s.servo with syncSent := s.servo.syncSent ++ ports.map fun n => (n, s.ethSent n) } }
    .next ((s1.draw 12).wr TIM_STATUS_GM 1)
  else .next (s.wr TIM_STATUS_GM 0)

/-- TIM_CFG_WRITE (R354): the register is written, and takes effect at the next sync interval. -/
def execTimCfgWrite (v : Word) (s : State) : Out := .next (s.setReg TIM_CFG_SRC.off (v.zeroExtend 64))

/-- PPS_EDGE (R350, R351): the edge of the set polarity is captured.  Where the primary source is lost, fallback is set and a
valid time of day is known, which is `tod`, it disciplines the time base. -/
def execPpsEdge (falling : Bool) (tod : Option Nat) (rate adj : Int) (step : Bool) (s : State) : Out :=
  if falling ≠ (bitsOf s.servo.cfg 11 1 == 1) then .next s
  else
    let late := match s.servo.ppsAt with
      | some t => decide (t + 137500000 < s.tclk)
      | none => false
    let s1 := { s with servo := { s.servo with ppsAt := some s.tclk } }
    let s2 := (if late then s1.wr TIM_STATUS_PPS_MISSING 1 else s1).wr TIM_PPS_NS s.now
    let lost := decide (timHoldover ≤ s2.rd TIM_STATUS_STATE) || s2.rd TIM_STATUS_SOURCE == 3
    match tod with
    | none => .next s2
    | some t =>
      if lost ∧ bitsOf s2.servo.cfg 2 1 = 1 ∧ s2.servo.todOk = true then
        .next (s2.servoUpdate 3 ((s2.now : Int) - (t : Int)) rate adj step false)
      else .next s2

/-- PPS_MISSING (R350): 1.1 s pass without a PPS edge. -/
def execPpsMissing (s : State) : Out :=
  match s.servo.ppsAt with
  | none => .next s
  | some t => .next ((s.waitTo (t + 137500001)).wr TIM_STATUS_PPS_MISSING 1)

end Sys2Proof.Machine
end

