-- ==== Sys2Proof/Machine/Flags.lean ====
section
/-!
DEFINITION. What the host-visible registers read as (R6, R9, R111, R532-R543): the banks that SEL fields index, the fields that
mirror or count something else, the registers of a Rurad die that is not there.
-/
namespace Sys2Proof.Machine

/-- A register value from fields: lowest bit, width, value. -/
def wordOf (fs : List (Nat × Nat × Nat)) : Word64 := fs.foldl (fun v f => setBits v f.1 f.2.1 f.2.2) 0

/-- A truth value as a bit. -/
def bit (b : Bool) : Nat := if b then 1 else 0

/-! ## Banks (R197, R282, R331, R332, R335, R381, R420, R432, R460, R498, R509) -/

/-- The colony, or the system pool, that BWR_SEL names (R332). -/
def State.bwrWho (s : State) : Nat := if s.on BWR_SEL_SYS then 16 else s.rd BWR_SEL_COLONY

/-- The bank of a register that a SEL field indexes: `off` is its BAR0 offset. -/
def State.bankIndex (s : State) (off : Nat) : Nat :=
  if off = 0x44010 then s.rd THM_SEL_SENSOR
  else if off = 0x46018 then s.rd GRD_SEL_INDEX
  else if off = 0x46024 then s.rd GRD_SEL_INDEX % 8
  else if 0x4700C ≤ off ∧ off ≤ 0x47014 then s.rd CRC_CH_SEL_CHAN
  else if 0x4800C ≤ off ∧ off ≤ 0x48028 then s.rd CTL_SEL_LOOP
  else if 0x49020 ≤ off ∧ off ≤ 0x4902C then s.rd FUS_SEL_SLOT
  else if off = 0x4B044 then s.rd BWR_SEL_POINT * 17 + s.rd BWR_SEL_COLONY
  else if off = 0x4C034 ∨ off = 0x4C038 then s.rd SWM_EXP_SEL_INDEX
  else if 0x50000 ≤ off ∧ off < 0x54000 ∧ 0x20 ≤ off % 0x1000 ∧ off % 0x1000 < 0x40 then
    s.rd (DMC_LOG_CTL_SEL.idx ((off - 0x50000) / 0x1000))
  else if off = 0x5C010 ∨ off = 0x5C018 then s.rd CMB_SPD_SEL_COMB
  else if 0x5C208 ≤ off ∧ off ≤ 0x5C214 then s.rd CMB_COL_SEL_COLONY
  else 0

/-- The key of a register in the register file. -/
def State.regKey (s : State) (off : Nat) : Nat := off + 0x400000 * s.bankIndex off

/-! ## Registers of a die that is not there (R534) -/

/-- The Rurad die that a register lives on; DMC_STATUS has its copy on the Eztos die. -/
def regDie (off : Nat) : Option Nat :=
  if 0x50000 ≤ off ∧ off < 0x54000 ∧ off % 0x1000 ≠ 0 then some ((off - 0x50000) / 0x1000)
  else if 0x58000 ≤ off ∧ off < 0x5C000 then some ((off - 0x58000) / 0x1000)
  else none

/-- Whether a register is reachable: its die has passed waggle DONE and is not excluded, its slot has a queue (R534, R111). -/
def State.regLives (s : State) (off : Nat) : Bool :=
  (match regDie off with
    | some d => s.dieIncluded d
    | none => true) &&
  (if 0x1000 ≤ off ∧ off < 0x2000 then (s.queue ((off - 0x1000) / 0x20)).live else true)

/-! ## Fields that mirror or count something else -/

/-- The lowest REVISION of the included compute dies; 0 until waggle ends (R535). -/
def State.revCdMin (s : State) : Nat :=
  if s.rd IDN_BOOT_STAGE < 4 then 0
  else match s.includedDies.map fun n => s.rd (IDN_DIE_REV.idx n) with
    | [] => 0
    | r :: rs => rs.foldl min r

/-- HIF_IDSUM (R535). -/
def State.idSum (s : State) : Word64 :=
  let major := if s.on MBX_CTRL_READY then s.rd MBX_CTRL_HIF_MAJOR else 0
  let minor := if s.on MBX_CTRL_READY then s.rd MBX_CTRL_HIF_MINOR else 0
  wordOf [(0, 4, s.rd IDN_PKG_VARIANT), (4, 4, s.rd IDN_BOOT_STAGE), (8, 8, s.rd IDN_BOOT_ERROR), (16, 7, s.rd IDN_PKG_INCLUDED),
    (23, 1, s.rd IDN_PKG_REDUCED), (24, 1, s.rd IDN_PKG_BASELINE_ANY), (25, 1, s.rd IDN_PKG_MIXED_REV),
    (26, 1, s.rd IDN_BOOT_ISLAND_B), (32, 8, s.rd (IDN_DIE_REV.idx 8)), (40, 8, s.revCdMin), (48, 8, major), (56, 8, minor)]

/-- HIF_GSTATUS (R536). -/
def State.gStatus (s : State) : Word64 :=
  wordOf [(0, 1, s.rd HIF_GSTATUS_BOOT_LOCK), (1, 1, s.rd HIF_GSTATUS_LOCK_VIOL), (2, 1, s.rd HIF_GSTATUS_ACC_ERR),
    (3, 1, s.rd MBX_CTRL_READY), (4, 1, s.rd HIF_STATUS_FW_FATAL), (5, 1, s.rd SAF_ISL_STATUS_B_JOINED),
    (6, 1, bit (s.on SAF_ISL_STATUS_STOP_A || s.on SAF_ISL_STATUS_STOP_B)), (7, 1, s.rd GRD_STATUS_RESTARTING),
    (8, 1, bit (s.on GRD_STATUS_DEGRADED || s.on GRD_STATUS_REFUSED)), (9, 1, s.rd IDN_PKG_REDUCED),
    (10, 1, bit (s.on THM_STATUS_WARN || s.on THM_STATUS_OVER)), (11, 1, s.rd THM_STATUS_COOL_DEG),
    (12, 1, bit (s.on SAF_ISL_STATUS_OVERDUE_A || s.on SAF_ISL_STATUS_OVERDUE_B)), (13, 1, bit (s.on EVT_DROPPED_COUNT)),
    (14, 1, bit ((List.range 4).any fun d => s.on (DMC_UE_COUNT.idx d))),
    (15, 1, bit ((List.range 8).any fun k => s.on (IDN_LINK_DEGRADED.idx k) || s.on (IDN_LINK_RETRAINED.idx k)))]

/-- HIF_ICAUSE (R537): bit 0 is HIF_STATUS.FW_FATAL. -/
def State.iCause (s : State) : Word64 := setBits (s.reg HIF_ICAUSE_FW_FATAL.off) 0 1 (s.rd HIF_STATUS_FW_FATAL)

/-- Whether the queue condition of a vector is outstanding (R539). -/
def State.queuePends (s : State) (v : Nat) : Bool :=
  (List.range 128).any fun d => (s.queue d).live && (s.queue d).vector == v
    && s.rd (HIF_CQHEAD_INDEX.idx d) != s.rd (HIF_CQTAIL_INDEX.idx d)

/-- HIF_IPEND (R539). -/
def State.iPend (s : State) : Word64 :=
  wordOf ((List.range 16).map (fun m => (m, 1, bit (s.rd (MBX_STAT_STATE.idx m) == 2)))
    ++ [(16, 1, bit (s.on EVT_CTRL_ENABLE && s.rd EVT_HEAD_INDEX != s.rd EVT_TAIL_INDEX)),
        (17, 1, bit (s.iCause &&& ~~~(s.reg HIF_IMASK_MASK.off) &&& 0xF != 0))]
    ++ (List.range 46).map fun k => (18 + k, 1, bit (s.queuePends (18 + k))))

/-- Operating seconds of an island since its last passed test (R447): island B's while it is joined and has power, else as it last stood. -/
def State.cmpAge (s : State) (i : Nat) : Word64 :=
  if i = 0 then BitVec.ofNat 64 (min (s.saf.islA.ageTicks / 125000000) (2 ^ 32 - 1))
  else if s.on SAF_ISL_STATUS_B_JOINED ∧ s.pkg.sfdPowered then BitVec.ofNat 64 (min (s.saf.islB.ageTicks / 125000000) (2 ^ 32 - 1))
  else s.reg (SAF_CMP_AGE_SECONDS.idx 1).off

/-- BWR_CREDIT (R332): the credit at the selected point; port directions keep theirs apart from the channels'. -/
def State.bwrCredit (s : State) : Word64 :=
  let p := s.rd BWR_SEL_POINT
  let key := if p < 4 then 32 * p + s.rd BWR_SEL_CHANNEL else portPoint p
  BitVec.ofNat 64 (ofInt 32 (s.credit key s.bwrWho))

/-- CMB_SPD_SLOT (R198): STATE 3 for a slot in the cache region. -/
def State.spdSlot (s : State) : Word64 :=
  let g := s.rd CMB_SPD_SEL_COMB
  let n := s.rd CMB_SPD_SLOT_SLOT
  let c := s.comb g
  let x := c.slot n
  if s.dieIncluded (g / 16) = false then wordOf [(0, 11, n)]
  else if cacheBase c.cacheMode ≤ n * 4096 then wordOf [(0, 11, n), (12, 2, 3)]
  else wordOf [(0, 11, n), (12, 2, x.state), (14, 4, x.count)]

/-- The 48 bytes of a brood table entry (R246). -/
def Seq.toBytes (q : Seq) : List Byte :=
  leBytes 1 (q.state + 4 * bit q.pin + 16 * q.colony) ++ leBytes 1 (q.kvFmt + 8 * q.dcode + 32 * q.parkWhy) ++ leBytes 2 q.g
    ++ leBytes 4 q.owner ++ leBytes 4 q.list ++ leBytes 4 q.listOff ++ leBytes 4 q.npos ++ leBytes 4 q.limit ++ leBytes 4 q.pend
    ++ leBytes 4 q.lastStep ++ leBytes 4 q.joinSeq ++ leBytes 4 q.user ++ leBytes 8 0

/-- Entries of a sequence table that satisfy `p`. -/
def countSeqs (t : Table Seq) (p : Seq → Bool) : Nat := (t.filter fun e => p e.2).length

/-- CMB_COL_STAT (R282). -/
def State.colStat (s : State) : Word64 :=
  let c := s.rd CMB_COL_SEL_COLONY
  let x := s.colony c
  if x.live then
    wordOf [(0, 1, 1), (1, 1, bit x.lc), (2, 7, if x.lc then x.reserved.length else x.guarantee), (9, 7, s.inUse c),
      (16, 7, min 64 (s.readyList c).length)]
  else 0

/-- What register `off` holds, before its reserved and WO bits are taken out. -/
def State.regRaw (s : State) (off : Nat) : Word64 :=
  if off = 0x18 then s.idSum
  else if off = 0x20 then s.gStatus
  else if off = 0x24 then s.iCause
  else if off = 0x30 then s.iPend
  else if off = 0x43024 then BitVec.ofNat 64 s.estErr
  else if off = 0x44010 then
    setBits (s.reg (s.regKey off)) 16 1 (bit (s.sensorValid (s.rd THM_SEL_SENSOR)))
  else if off = 0x45008 ∨ off = 0x4500C then s.cmpAge ((off - 0x45008) / 4)
  else if off = 0x4901C then setBits (s.reg off) 16 16 (calSensor (s.calib (s.rd FUS_SEL_SLOT)))
  else if off = 0x4B008 then BitVec.ofNat 64 (s.shareOf s.bwrWho)
  else if 0x4B010 ≤ off ∧ off ≤ 0x4B028 then BitVec.ofNat 64 (tget 0 s.mem.clsBytes (4 * s.rd BWR_SEL_POINT + (off - 0x4B010) / 8))
  else if off = 0x4B030 then BitVec.ofNat 64 (tget 0 s.mem.colBytes (17 * s.rd BWR_SEL_POINT + s.bwrWho))
  else if off = 0x4B038 then BitVec.ofNat 64 (tget 0 s.mem.excess (17 * s.rd BWR_SEL_POINT + s.bwrWho))
  else if off = 0x4B040 then s.bwrCredit
  else if off = 0x5C008 then s.spdSlot
  else if off = 0x5C00C then BitVec.ofNat 64 (s.comb (s.rd CMB_SPD_SEL_COMB)).cacheMode
  else if off = 0x5C100 then
    wordOf [(0, 13, countSeqs s.brood.table fun q => q.state != 0), (16, 13, countSeqs s.brood.table fun q => q.state == 2)]
  else if off = 0x5C104 then BitVec.ofNat 64 (countSeqs s.brood.fw fun q => q.state != 0)
  else if 0x5C120 ≤ off ∧ off < 0x5C150 then
    BitVec.ofNat 64 (field (tget ({} : Seq) s.brood.table (s.rd CMB_BROOD_SEL_INDEX)).toBytes (off - 0x5C120) 4)
  else if off = 0x5C204 then s.colStat
  else s.reg (s.regKey off)

/-- The bits of a row that a read shows: every field but WO ones (R6, R9). -/
def RegDesc.readMask (d : RegDesc) : Word64 :=
  d.fields.foldl (fun m f => if f.2.2 = Acc.wo then m else m ||| bitMask f.1 f.2.1) 0

/-- What register `off` of a row reads as (R6, R9, R111, R534). -/
def State.regValue (s : State) (d : RegDesc) (off : Nat) : Word64 :=
  if s.regLives off then s.regRaw off &&& d.readMask else 0

end Sys2Proof.Machine
end

