-- ==== Sys2Proof/Machine/IslandCmds.lean ====
section
/-!
DEFINITION. The commands of the safety islands: faults and tests of the lock-step pairs (R441-R448), debug (R450, R451), and
configuration records, guards, deadlines, checkers, restarts and stop frames (R452-R477).  An event whose precondition does
not hold has no effect.
-/
namespace Sys2Proof.Machine

/-! ## Faults of a pair (R441, R442) -/

/-- An island, and the state with it changed. -/
def State.island (s : State) (atA : Bool) : Island := if atA then s.saf.islA else s.saf.islB
def State.modIsland (s : State) (atA : Bool) (f : Island → Island) : State := if atA then s.modIslA f else s.modIslB f

/-- The fault collector reacts (R442): the first fault is recorded and the island reacts. -/
def State.collectFault (s : State) (atA : Bool) (cause group syndrome : Nat) : State :=
  let s1 := s.recordFault atA cause group syndrome
  if atA then s1.reactA else s1.reactB

/-- ISLAND_FAULT_MESSAGE (R442, R438): an island receives the other's fault message and treats it as lost. -/
def execIslandFaultMessage (atA : Bool) (s : State) : Out :=
  if s.on SAF_ISL_STATUS_B_JOINED = false ∨ s.link8 = false ∨ (atA = true ∧ s.islandARuns = false) then .next s
  else if atA then fin ((s.wr SAF_ISL_STATUS_B_HALTED 1).loseIslandB 2)
  else fin (s.stopB 1)

/-- The number of signals of a compare group (R444): spec/ fixes those of the groups that carry whole words or address [47:32]; the others
hold what an opaque number says, up to 32. -/
def groupSignals (g : Nat) : Nat :=
  if g = 0 ∨ g = 4 ∨ g = 6 ∨ g = 7 then 32 else if g = 5 then 16 else max (if g = 1 then 18 else 1) (min 32 (Config.groupSignals g))

/-- COMPARE_MISMATCH (R440, R442, R444): `syndrome` is the XOR of the two copies of the group's signals; with 0 they compare equal.  A
pair that a debugger holds is compared too (R451). -/
def execCompareMismatch (atA : Bool) (group syndrome : Nat) (s : State) : Out :=
  if s.pairOn atA = false ∨ 64 ≤ group ∨ syndrome = 0 ∨ 2 ^ groupSignals group ≤ syndrome then .next s else fin (s.collectFault atA 1 group syndrome)

/-- ISLAND_MEMORY_UE (R441, R442). -/
def execIslandMemoryUe (atA : Bool) (s : State) : Out :=
  if s.pairOn atA = false then .next s else fin (s.collectFault atA 2 0 0)

/-- ISLAND_MEMORY_SCRUB (R441): the scrubber corrects `n` words. -/
def execIslandMemoryScrub (atA : Bool) (n : Nat) (s : State) : Out :=
  if atA then .next (s.inc SAF_MEM_CE_A n)
  else if s.pkg.sfdPowered = false then .next s
  else
    let s1 := s.modIslB fun b => { b with ce := min (b.ce + n) 0xFFFF }
    .next (if s1.on SAF_ISL_STATUS_B_JOINED then s1.wr SAF_MEM_CE_B s1.saf.islB.ce else s1)

/-! ## The comparator injection test (R445-R448) -/

/-- The SAF_ISL_STATUS bits of an island's overdue test. -/
def overdueFld (atA : Bool) : Fld := if atA then SAF_ISL_STATUS_OVERDUE_A else SAF_ISL_STATUS_OVERDUE_B

/-- The result of a test recorded: SAF_CMP_FAIL and SAF_CMP_TIME; a passed test sets the count to 0 (R447, R448). -/
def State.recordTest (s : State) (atA : Bool) (failed : BitVec 64) : State :=
  let k := if atA then 0 else 1
  let s1 := ((s.setReg (SAF_CMP_FAIL_GROUPS.idx k).off failed).wr (SAF_CMP_TIME_NS.idx k) s.now).modIsland atA fun i =>
    { i with testFail := failed, testBad := failed != 0, testTold := true }
  if failed = 0 then (s1.wr (overdueFld atA) 0).modIsland atA fun i => { i with ageTicks := 0, posted := 0 } else s1

/-- An island's part of a SAFETY_TEST ended: after the last, COMMAND_DONE, then the reaction to a failed test (R448). -/
def State.testEnds (s : State) (atA : Bool) : State :=
  match s.saf.test with
  | none => s
  | some t =>
    let left := t.islands &&& ~~~(if atA then 1#2 else 2#2)
    if left ≠ 0 then { s with saf := { s.saf with test := some { t with islands := left } } }
    else
      let s1 := ({ s with saf := { s.saf with test := none } }.wr SAF_ISL_STATUS_TEST_BUSY 0).commandDone t.mbx t.tag 0
      let bad (s : State) (a : Bool) : State :=
        if (s.island a).testBad then (s.modIsland a fun i => { i with testBad := false }).collectFault a 3 0 0 else s
      bad (bad s1 true) false

/-- The pattern that slot `k` of a group's injection test inverts (R445). -/
def slotPattern (g k : Nat) : Nat :=
  if k = 0 then 0 else if k = 1 then 1 else if k = 2 then 2 ^ (groupSignals g - 1) else 2 ^ groupSignals g - 1

/-- What slot `k` of group `g` showed: where the test lists nothing, a flag of the pattern in slots 1-3, recorded. -/
def slotSeen (seen : List CmpSeen) (g k : Nat) : CmpSeen :=
  (seen.find? fun x => x.group == g && x.slot == k).getD
    { group := g, slot := k, flags := if k = 0 then [] else [(g, slotPattern g k)] }

/-- The first real mismatch of an injection test (R446): flagged in another group than the one under test, or in it with another syndrome
than the inverted pattern. -/
def realMismatch (seen : List CmpSeen) : Option (Nat × Nat) :=
  (List.range 256).findSome? fun n =>
    (slotSeen seen (n / 4) (n % 4)).flags.find? fun f => f.1 != n / 4 || f.2 != slotPattern (n / 4) (n % 4)

/-- Whether a group fails the test (R445): its comparator flags in slot 0, or does not flag in one of the others, or the fault collector
misses a flag. -/
def groupFails (seen : List CmpSeen) (g : Nat) : Bool :=
  (List.range 4).any fun k =>
    let x := slotSeen seen g k
    let flagged := x.flags.any (·.1 == g)
    if k = 0 then flagged else !flagged || !x.recorded

/-- The groups that fail (R445). -/
def failedGroups (seen : List CmpSeen) : BitVec 64 := BitVec.ofNat 64 (((List.range 64).filter (groupFails seen)).map (2 ^ ·)).sum

/-- COMPARATOR_TEST_RUN (R445, R446, R448): the pair pauses for `pause` ticks, at most 10 µs, while all outside it keeps running, and `seen`
is what the comparators showed; a real mismatch ends the test.  Island A goes first, and no test runs while a restart does.  The part of an island whose pair does not run any more ends
without a result (DEDUCED; log entry 118). -/
def execComparatorTestRun (atA : Bool) (seen : List CmpSeen) (pause : Nat) (s : State) : Out :=
  match s.saf.test with
  | none => .next s
  | some t =>
    if t.islands.getLsbD (if atA then 0 else 1) = false ∨ (atA = false ∧ t.islands.getLsbD 0 = true) ∨ s.saf.restarts ≠ [] then .next s
    else if s.pairRuns atA = false ∨ (atA = false ∧ s.on SAF_ISL_STATUS_B_JOINED = false) then fin (s.testEnds atA)
    else
      let s1 := s.elapse (min pause 1250)
      match realMismatch seen with
      | some (g, x) => fin ((s1.collectFault atA 1 (g % 64) x).testEnds atA)
      | none => fin ((s1.recordTest atA (failedGroups seen)).testEnds atA)

/-- CMP_TEST_OVERDUE (R447): operating time passes until the island's count reaches 28,800 s, or 3,600 s more than last
reported; the event repeats, with the count. -/
def execCmpTestOverdue (atA : Bool) (s : State) : Out :=
  let i := s.island atA
  let due := if i.posted = 0 then 28800 else i.posted + 3600
  if s.rd IDN_BOOT_STAGE ≠ 6 ∨ s.on PWR_STATUS_LOW_POWER = true ∨ (atA = false ∧ s.on SAF_ISL_STATUS_B_JOINED = false) then .next s
  else
    let s1 := s.elapse (due * 125000000 - i.ageTicks)
    let n := max due (i.ageTicks / 125000000)
    let s2 := ((s1.wr (overdueFld atA) 1).event 0x54 (if atA then 0x14 else 0x15) (if atA then 0 else 1) 0 (leBytes 4 n)).modIsland
      atA fun i => { i with posted := n }
    .next s2

/-! ## Debug (R450, R451) -/

/-- Whether an island's debug is enabled. -/
def State.debugOn (s : State) (atA : Bool) : Bool := (s.island atA).debug

/-- DEBUG_ENABLE (R450, R540): unless ISL_DBG_DENY holds, a certificate that verifies enables debug and commands the controlled stop. -/
def execDebugEnable (atA certOk : Bool) (s : State) : Out :=
  let deny := if atA then s.on HIF_LOCKCFG_ISL_DBG_DENY else s.saf.islB.debugDeny
  if certOk = false ∨ deny = true ∨ (atA = false ∧ s.pkg.sfdPowered = false) then .next s
  else if atA then fin (((s.modIslA fun i => { i with debug := true }).wr SAF_ISL_STATUS_DBG_A 1).stopA 6)
  else
    let s1 := s.modIslB fun i => { i with debug := true }
    let s2 := if s1.on SAF_ISL_STATUS_B_JOINED then s1.wr SAF_ISL_STATUS_DBG_B 1 else s1
    fin (s2.stopB 6)

/-- What the pair has in its registers and memory is its firmware's: free values from this point (R451). -/
def Island.forget (i : Island) (seed : Nat) (halted : Bool) : Island :=
  { i with debugHalted := halted, coreRegs := [], sram := [], seed := seed }

/-- A debug action that the island's port takes while debug is enabled and, where it says so, while the pair is halted. -/
def State.debugAct (s : State) (atA : Bool) (needHalt : Bool) (f : Island → Island) : State :=
  if s.debugOn atA = true ∧ (needHalt = false ∨ (s.island atA).debugHalted = true) then (s.modIsland atA f).draw 1 else s

/-- A_RUN as island A's pair halts at a debugger's request or goes on (R451, R456): a halted pair's outputs are held. -/
def State.showRun (s : State) : State :=
  s.wrB SAF_ISL_STATUS_A_RUN (!s.saf.islA.debugHalted && !s.on SAF_ISL_STATUS_A_HALTED)

/-- DEBUG_HALT (R451). -/
def execDebugHalt (atA : Bool) (s : State) : Out :=
  if (s.island atA).debugHalted ∨ s.debugOn atA = false then .next s
  else
    let s1 := s.debugAct atA false fun i => i.forget s.free true
    .next (if atA then s1.showRun else s1)

/-- DEBUG_RESUME (R451). -/
def execDebugResume (atA : Bool) (s : State) : Out :=
  if (s.island atA).debugHalted = false ∨ s.debugOn atA = false then .next s
  else
    let s1 := s.debugAct atA true fun i => i.forget s.free false
    .next (if atA then s1.showRun else s1)

/-- DEBUG_SINGLE_STEP (R451): one instruction of the island's firmware. -/
def execDebugSingleStep (atA : Bool) (s : State) : Out := .next (s.debugAct atA true fun i => i.forget s.free true)

/-- DEBUG_BREAKPOINT_SET (R451): both cores stop at the same instruction. -/
def execDebugBreakpointSet (atA : Bool) (addr : Nat) (s : State) : Out :=
  .next (s.debugAct atA false fun i =>
    { i with breakpoints := if i.breakpoints.contains addr then i.breakpoints else i.breakpoints ++ [addr] })

/-- DEBUG_REGISTER_READ (R451): the main core's value is the response.  While the pair runs, its firmware may have written any register. -/
def execDebugRegisterRead (atA : Bool) (r : Nat) (s : State) : Out :=
  .next (s.debugAct atA false fun i =>
    { i with response := leBytes 8 (if i.debugHalted then (tget none i.coreRegs r).getD (Config.coreReg i.seed r)
                                    else Config.coreReg s.free r).toNat })

/-- DEBUG_REGISTER_WRITE (R451): both cores take the value, and while the pair runs its firmware goes on from it. -/
def execDebugRegisterWrite (atA : Bool) (r : Nat) (v : Word64) (s : State) : Out :=
  .next (s.debugAct atA false fun i => if i.debugHalted then { i with coreRegs := tset none i.coreRegs r (some v) } else i)

/-- The bytes of an island's shared memory (R433). -/
def islandMem (atA : Bool) : Nat := if atA then 2 ^ 21 else 2 ^ 20

/-- DEBUG_MEMORY_READ (R451): outside the pair.  While the pair runs, its firmware may have written any byte. -/
def execDebugMemoryRead (atA : Bool) (addr n : Nat) (s : State) : Out :=
  if islandMem atA < addr + n then .next s
  else .next (s.debugAct atA false fun i =>
    let seed := if i.debugHalted then i.seed else s.free
    let bs := (List.range n).map fun k =>
      if i.debugHalted then (tget none i.sram (addr + k)).getD (Config.islandByte seed (addr + k)) else Config.islandByte seed (addr + k)
    { i with response := bs })

/-- DEBUG_MEMORY_WRITE (R451). -/
def execDebugMemoryWrite (atA : Bool) (addr : Nat) (bs : List Byte) (s : State) : Out :=
  if islandMem atA < addr + bs.length then .next s
  else .next (s.debugAct atA false fun i =>
    if i.debugHalted then
      { i with sram := bs.zipIdx.foldl (fun t e => tset none t (addr + e.2) (some e.1)) i.sram }
    else i)

/-! ## Configuration records (R457-R459) -/

/-- The TYPE that an index takes (R457); 0 for an index with no record. -/
def cfgType (index : Nat) : Nat :=
  if index < 64 then 1 else if index < 80 then 2 else if index < 88 then 3 else if index < 96 then 4
  else if index < 100 then 5 else if index = 100 then 6 else 0

/-- The layout of a record of each type (R458, R460, R463, R466, R470, R477). -/
def cfgLayout (type : Nat) : Layout :=
  let head : Layout := [(0, 0, 4), (1, 0, 8), (2, 0, 1)]
  if type = 1 ∨ type = 2 then head ++ [(4, 0, 32), (8, 0, 32), (12, 0, 32), (16, 0, 1)]
  else if type = 3 then
    head ++ [(4, 0, 32), (8, 0, 32), (12, 0, 32), (16, 0, 32), (20, 0, 32), (24, 0, 32), (28, 0, 5), (32, 0, 32), (36, 0, 32),
      (40, 0, 32), (44, 0, 32), (48, 0, 32)]
  else if type = 4 then
    head ++ [(4, 0, 32), (8, 0, 32), (12, 0, 32), (16, 0, 32), (20, 0, 32), (24, 0, 32), (28, 0, 8), (29, 0, 3), (32, 0, 32),
      (36, 0, 32), (40, 0, 32), (44, 0, 32), (48, 0, 128)]
  else if type = 5 then
    head ++ [(4, 0, 16), (6, 0, 7), (6, 7, 1), (7, 0, 1), (7, 1, 1), (8, 0, 29), (12, 0, 16), (16, 0, 384)]
  else head ++ [(4, 0, 6), (5, 0, 1)]

/-- An FP32 number at least 0. -/
def nonNeg32 (x : Nat) : Bool := decide (x ≤ 0x7F800000) || x == 0x80000000

/-- A tick count of 1 to 0xFFFF_FFFE. -/
def tickRange (x : Nat) : Bool := decide (1 ≤ x ∧ x ≤ 0xFFFFFFFE)

/-- The colony that a tensor queue named by a handle is bound to. -/
def State.queueColony (s : State) (h : Nat) : Option Nat :=
  match s.queueOf h with
  | some d => if (s.queue d).cls = 0 then (s.queue d).colony else none
  | none => none

/-- A payload length of a CAN FD frame of at most 48 bytes (R477); above 8 it needs FDF (log entry 67). -/
def stopLenOk (n : Nat) (fdf : Bool) : Bool := n ≤ 8 || (fdf && [12, 16, 20, 24, 32, 48].contains n)

/-- Check 3 of R459: handles and ranges of a record of a type. -/
def State.cfgFieldsOk (s : State) (island type : Nat) (bs : List Byte) : Bool :=
  let q (o : Nat) : Bool := (s.queueOf (field bs o 4)).isSome
  let m (o : Nat) : Bool := (s.objOf (field bs o 4)).isSome
  let cls := field bs 1 1
  if type = 1 then
    decide (cls ≤ 5) && q 4 && decide (field bs 8 4 < field bs 12 4) && decide (16 ≤ field bs 12 4) && tickRange (field bs 12 4)
  else if type = 2 then decide (cls ≤ 5) && q 4 && q 8 && tickRange (field bs 12 4)
  else if type = 3 then
    let p := s.queueColony (field bs 4 4)
    let r := s.queueColony (field bs 8 4)
    let nv := bitsOf (field bs 28 1) 0 5
    cls == 0 && p.isSome && r.isSome && p != r && m 12 && m 20 && decide (1 ≤ nv ∧ nv ≤ 16) && nonNeg32 (field bs 32 4)
      && nonNeg32 (field bs 36 4) && m 40 && field bs 44 4 % 8 == 0 && tickRange (field bs 48 4)
  else if type = 4 then
    let nv := bitsOf (field bs 29 1) 0 3
    (cls == 0 || cls == 3) && q 4 && q 8 && (cls == 3 || (s.queueColony (field bs 4 4)).isSome
        && s.queueColony (field bs 4 4) == s.queueColony (field bs 8 4))
      && m 12 && m 20 && field bs 24 4 % 8 == 0 && field bs 28 1 != 0 && decide (1 ≤ nv ∧ nv ≤ 4) && nonNeg32 (field bs 40 4)
      && nonNeg32 (field bs 44 4) && allZero bs (48 + 4 * nv) (16 - 4 * nv)
  else if type = 5 then
    let fdf := bitsOf (field bs 6 1) 7 1 == 1
    let n := bitsOf (field bs 6 1) 0 7
    let rep := field bs 12 2
    cls == 0xFF && (if island = 0 then isPort (field bs 4 2) 3 8 else field bs 4 2 == 0) && stopLenOk n fdf
      && (fdf || bitsOf (field bs 7 1) 0 1 == 0) && decide (1 ≤ rep ∧ rep ≤ 1000) && allZero bs (16 + n) (48 - n)
  else cls == 0xFF

/-- Check 1 of R459, also for a READ: the island can be reached.  R454 has island B, which left the join because a record of its own was
refused, rejoin once the record has been written again: so it can be reached then too (DEDUCED; log entry 66). -/
def State.cfgReach (s : State) (island index : Nat) : Bool :=
  island == 0 || (decide (96 ≤ index ∧ index ≤ 100) && s.link8
    && (s.on SAF_ISL_STATUS_B_JOINED || (s.islandBRefused && s.saf.join.ready && s.pairRuns false)))

/-- The 64 bytes in GRD_CFG_DATA0-15. -/
def State.cfgData (s : State) : List Byte := (List.range 16).flatMap fun n => leBytes 4 (s.rd (GRD_CFG_DATA_DATA.idx n))

/-- CONFIG_RECORD_WRITE (R459): WRITE = 1.  While BUSY it has no effect. -/
def execConfigRecordWrite (s : State) : Out :=
  let island := s.rd GRD_CFG_SEL_ISLAND
  let index := s.rd GRD_CFG_SEL_INDEX
  let bs := s.cfgData
  let type := cfgType index
  if s.on GRD_CFG_CTL_BUSY ∨ s.islandARuns = false then .next s
  else if s.cfgReach island index = false then .next (s.wr GRD_CFG_CTL_RESULT 2)
  else if type = 0 ∨ bitsOf (field bs 0 1) 0 4 ≠ type ∨ reservedOk (cfgLayout type) bs = false
      ∨ s.cfgFieldsOk island type bs = false then .next (s.wr GRD_CFG_CTL_RESULT 1)
  else
    let s1 := s.wr GRD_CFG_CTL_BUSY 1
    .next { s1 with saf := { s1.saf with write := some { island := island, index := index, bytes := bs } } }

/-- CONFIG_RECORD_WRITE_DONE (R452, R459): a record of a function that restarts waits for the end of that restart. -/
def execConfigRecordWriteDone (s : State) : Out :=
  match s.saf.write with
  | none => .next s
  | some w =>
    let s1 := { ((s.wr GRD_CFG_CTL_BUSY 0).wr GRD_CFG_CTL_RESULT 0) with saf := { s.saf with write := none } }
    let busy := s.saf.restarts.any fun r => heldFor r.cls w
    if busy then .next { s1 with saf := { s1.saf with held := s1.saf.held ++ [w] } } else fin (s1.applyRecord w)

/-- CONFIG_RECORD_READ (R459): READ = 1 returns the voted record.  It is none of the votes of R454: it rewrites and posts nothing. -/
def execConfigRecordRead (s : State) : Out :=
  let island := s.rd GRD_CFG_SEL_ISLAND
  let index := s.rd GRD_CFG_SEL_INDEX
  if s.on GRD_CFG_CTL_BUSY ∨ s.islandARuns = false then .next s
  else if s.cfgReach island index = false then .next (s.wr GRD_CFG_CTL_RESULT 2)
  else if cfgType index = 0 then .next (s.wr GRD_CFG_CTL_RESULT 1)
  else
    let cs := tget [] s.saf.copies (cfgKey island index)
    let intact := if cs = [] then 7 else mask3 (cs.map (·.intact))
    let s1 := s.wr GRD_CFG_CTL_INTACT intact
    let voted := if cs = [] then some (List.replicate 64 0) else majority cs
    match voted with
    | none => .next (s1.wr GRD_CFG_CTL_RESULT 3)
    | some b =>
      .next ((List.range 16).foldl (fun s n => s.wr (GRD_CFG_DATA_DATA.idx n) (field b (4 * n) 4)) (s1.wr GRD_CFG_CTL_RESULT 0))

/-- A copy of a record as strikes have left it. -/
def State.upset (s : State) (u : Upset) : State :=
  let k := cfgKey u.island u.index
  { s with saf := { s.saf with copies := tmod [] s.saf.copies k fun l => modNth (fun _ => ⟨padTo 64 u.bytes, u.intact⟩) u.copy l } }

/-- CONFIG_VOTE_SCRUB (R453, R454): every record voted; `upsets` is what strikes did to the copies since the last. -/
def execConfigVoteScrub (upsets : List Upset) (s : State) : Out :=
  let s1 := upsets.foldl State.upset s
  let (s2, okA, okB) := s1.voteAll (s1.pairRuns true) (s1.pairRuns false && s1.on SAF_ISL_STATUS_B_JOINED)
  fin (s2.refuseIslands okA okB)

/-! ## Guards, deadlines, checkers, restarts and stop frames -/

/-- GUARD_EXPIRY (R461). -/
def execGuardExpiry (g : Nat) (s : State) : Out := if g < 64 then fin (s.expireGuard g) else .next s

/-- DEADLINE_MISS (R464). -/
def execDeadlineMiss (d : Nat) (s : State) : Out := if d < 16 then fin (s.expireInterval d) else .next s

/-- CHECKER_SUMMARY_COPY (R467-R469). -/
def execCheckerSummaryCopy (c : Nat) (s : State) : Out := if c < 8 then fin (s.copySummaries c) else .next s

/-- CHECKER_LAG_EXPIRY (R467). -/
def execCheckerLagExpiry (c : Nat) (s : State) : Out := if c < 8 then fin (s.expireLag c) else .next s

/-- FUNCTION_RESTART_RESUME (R474-R476): the `n`-th restart under way ends, not while a record of its class is being written (R452). -/
def execFunctionRestartResume (n : Nat) (s : State) : Out := s.unlessStalled fun s =>
  match s.saf.restarts[n]? with
  | none => .next s
  | some r => if s.islandARuns = true ∧ s.voteWaits r.cls = false then fin (s.endRestart r) else .next s

/-- RESTART_OVERRUN (R476): island B has seen no FUNC_RESTART within 50 µs of the t0 that its copy of the report names. -/
def execRestartOverrun (n : Nat) (s : State) : Out :=
  match s.saf.restartCopies[n]? with
  | none => .next s
  | some x =>
    if s.on SAF_ISL_STATUS_B_JOINED = false ∨ s.pairRuns false = false then .next s
    else
      let s1 := s.waitTo (x.t0 + 6250)
      fin ({ s1 with saf := { s1.saf with restartCopies := s1.saf.restartCopies.filter (· ≠ x) } }.stopB 8)

/-- STOP_FRAME_REPEAT (R478): a stop frame of an island that holds the stop goes out again after its REPEAT period. -/
def execStopFrameRepeat (inA : Bool) (index : Nat) (s : State) : Out :=
  let island := if inA then 0 else 1
  let stopped := if inA then s.on SAF_ISL_STATUS_STOP_A else s.saf.islB.stop && s.pkg.sfdPowered
  match tget none s.saf.frameAt (cfgKey island index) with
  | none => .next s
  | some t =>
    if stopped = false ∨ index < 96 ∨ 99 < index then .next s
    else .next ((s.waitTo (t + field (s.cfgRec island index) 12 2 * 125000)).sendStop island index)

end Sys2Proof.Machine
end

