-- ==== Sys2Proof/Machine/Mailbox.lean ====
section
/-!
DEFINITION. The mailboxes (R80-R89): their states, the checks of every request, and how a command answers; the free memory from
which objects are allocated (R286, R289).
-/
namespace Sys2Proof.Machine

/-! ## Mailbox states (R82, R83) -/

/-- A mailbox, and the state with it replaced. -/
def State.mbx (s : State) (m : Nat) : Mailbox := tget ({} : Mailbox) s.hif.mbx m
def State.setMbx (s : State) (m : Nat) (x : Mailbox) : State :=
  { s with hif := { s.hif with mbx := tset {} s.hif.mbx m x } }

/-- MBX_STAT.STATE: 0 IDLE, 1 BUSY, 2 DONE. -/
def State.mbxState (s : State) (m : Nat) : Nat := s.rd (MBX_STAT_STATE.idx m)

/-- A write to MBX_REQ (R83): stored in IDLE, else discarded. -/
def State.mbxWrite (s : State) (m off : Nat) (bs : List Byte) : State :=
  if s.mbxState m ≠ 0 then s.wr (MBX_STAT_REQ_DISCARD.idx m) 1
  else s.setMbx m { s.mbx m with req := patch (padTo 256 (s.mbx m).req) off bs }

/-- A doorbell (R83): taken in IDLE while READY, else DB_LOST. -/
def State.mbxDoorbell (s : State) (m : Nat) : State :=
  if s.mbxState m = 0 ∧ s.on MBX_CTRL_READY = true then
    let b := padTo 256 (s.mbx m).req
    ((s.setMbx m { s.mbx m with copy := b }).wr (MBX_STAT_STATE.idx m) 1).wr (MBX_STAT_TAG.idx m) (field b 2 2)
  else s.wr (MBX_STAT_DB_LOST.idx m) 1

/-- MBX_ACK (R83).  TAG keeps its value in IDLE, of which R82 says nothing (DESIGN CHOICE; log entry 104). -/
def State.mbxAck (s : State) (m : Nat) : State := if s.mbxState m = 2 then s.wr (MBX_STAT_STATE.idx m) 0 else s

/-! ## Commands and their messages (R86-R89, R92) -/

/-- The commands of R92 with the LEN of request and response, and whether each is an admin command. -/
def mbxCommands : List (Nat × Nat × Nat × Bool) :=
  [(0x0001, 20, 28, false), (0x0002, 16, 32, false), (0x0100, 32, 20, false), (0x0101, 20, 16, false), (0x0102, 20, 40, false),
   (0x0200, 48, 20, true), (0x0201, 20, 16, true), (0x0300, 48, 24, false), (0x0301, 20, 16, false), (0x0400, 20, 16, true),
   (0x0401, 24, 16, true), (0x0500, 24, 16, true), (0x0501, 16, 216, false), (0x0502, 40, 32, false), (0x0600, 32, 16, true),
   (0x0601, 24, 16, true)]

/-- A command's row. -/
def mbxCommand (cmd : Nat) : Option (Nat × Nat × Nat × Bool) := mbxCommands.find? (·.1 == cmd)

/-- The fields of a request's header (R87). -/
def reqHeader : Layout := [(0, 0, 16), (2, 0, 16), (4, 0, 16), (6, 0, 1), (8, 0, 32)]

/-- Whether the bytes of a request's payload outside `l` are 0, up to its LEN. -/
def payloadOk (l : Layout) (req : List Byte) : Bool := reservedOk (reqHeader ++ l) req

/-- What a command answers: its status, its payload, and ACCEPTED. -/
structure Answer where
  status : Nat := 0
  payload : List Byte := []
  accepted : Bool := false
  deriving DecidableEq, Repr

/-- The bytes of a response (R88): the LEN of the command for STATUS 0, else what its payload needs (log entry 71). -/
def responseBytes (cmd tag : Nat) (a : Answer) : List Byte :=
  let len := match mbxCommand cmd with
    | some (_, _, n, _) => if a.status = 0 then max n (16 + a.payload.length) else 16 + a.payload.length
    | none => 16
  padTo len (leBytes 2 cmd ++ leBytes 2 tag ++ leBytes 2 len ++ leBytes 2 a.status ++ [if a.accepted then 2 else 0]
    ++ List.replicate 7 0 ++ a.payload)

/-- A mailbox reaches DONE with a response (R83, R96): MBX_RSP written, vector m sent unless NO_IRQ. -/
def State.mbxDone (s : State) (m : Nat) (rsp : List Byte) : State :=
  let x := s.mbx m
  let s1 := (s.setMbx m { x with rsp := patch (padTo 256 x.rsp) 0 rsp }).wr (MBX_STAT_STATE.idx m) 2
  if bitsOf (field x.copy 6 1) 0 1 = 1 then s1 else s1.msix m

/-- The responses that a mailbox remembers with a new one: the last 16 distinct TAG values (R85). -/
def remember (l : List Remembered) (r : Remembered) : List Remembered := (r :: l.filter (·.tag ≠ r.tag)).take 16

/-- A command answers: DONE, and the response is remembered (R83, R85). -/
def State.answer (s : State) (m cmd : Nat) (a : Answer) : State :=
  let tag := field (s.mbx m).copy 2 2
  let rsp := responseBytes cmd tag a
  let x := s.mbx m
  let s1 := s.setMbx m { x with remembered := remember x.remembered ⟨BitVec.ofNat 16 tag, BitVec.ofNat 16 cmd, rsp⟩ }
  s1.mbxDone m rsp

/-- A request that is rejected before its command: DONE, not remembered (R89). -/
def State.reject (s : State) (m cmd status : Nat) : State :=
  s.mbxDone m (responseBytes cmd (field (s.mbx m).copy 2 2) { status := status })

/-- The first failure of R89 for a request on mailbox `m`; 0 when all pass. -/
def State.requestCheck (s : State) (m : Nat) (b : List Byte) : Nat :=
  let len := field b 4 2
  let cmd := field b 0 2
  if len < 16 ∨ 256 < len then E_LEN
  else match mbxCommand cmd with
    | none => E_NOCMD
    | some (_, n, _, admin) =>
      if len ≠ n then E_LEN
      else if cmd ≠ 1 ∧ (s.mbx m).session ≠ some (BitVec.ofNat 32 (field b 8 4)) then E_NOSESSION
      else if admin ∧ m ≠ 0 then E_PERM
      else if reservedOk reqHeader (b.take 16) = false then E_RESERVED
      else 0

/-- Whether the request that a mailbox holds in BUSY is for command `cmd`, or names no command (R92). -/
def State.servesCmd (s : State) (m cmd : Nat) : Bool :=
  let c := field (s.mbx m).copy 0 2
  decide (m < 16 ∧ s.mbxState m = 1) && !s.hif.fwStopped && (c == cmd || (mbxCommand c).isNone)

/-- The firmware serves the request of a mailbox in BUSY with command `cmd` (R83-R89): the checks of R89, the replay of R85,
then `h` on its `LEN` bytes and TAG, which may answer later. -/
def State.serve (s : State) (m cmd : Nat) (h : State → List Byte → BitVec 16 → State × Option Answer) : State :=
  if s.servesCmd m cmd = false then s
  else
    let b := (s.mbx m).copy
    let tag := field b 2 2
    let st := s.requestCheck m b
    if st ≠ 0 then s.reject m (field b 0 2) st
    else match (s.mbx m).remembered.find? fun r => r.tag == BitVec.ofNat 16 tag && r.cmd == BitVec.ofNat 16 cmd with
      | some r => s.mbxDone m (patch r.bytes 8 [(r.bytes[8]?).getD 0 ||| 1])
      | none =>
        let (s1, a) := h s (b.take (field b 4 2)) (BitVec.ofNat 16 tag)
        match a with
        | some a => s1.answer m cmd a
        | none => s1

/-- A failure. -/
def failed (st : Nat) : Option Answer := some { status := st }

/-- The first failure of a list of checks. -/
def firstStatus : List (Bool × Nat) → Nat
  | [] => 0
  | (ok, st) :: r => if ok then firstStatus r else st

/-! ## Free memory (R286-R289) -/

/-- The windows of device addresses that objects can lie in: start, size and region (1 interleaved, 2 die-affine).  After an
exclusion in service nothing interleaved is left to allocate. -/
def State.memWindows (s : State) : List (Nat × Nat × Nat) :=
  let x := s.rd DMC_MAP_ISHARE
  let gib := 2 ^ 30
  let whole := (List.range 4).all s.dieIncluded
  if x = 16 then (if whole then [(0, 64 * gib, 1)] else [])
  else (List.range 4).flatMap fun d =>
    if s.dieIncluded d then
      (d * 16 * gib, (16 - x) * gib, 2) :: (if x = 0 ∨ whole = false then [] else [(d * 16 * gib + (16 - x) * gib, x * gib, 1)])
    else []

/-- The windows that a PLACE allows; PLACE 2 those of the dies `ds` (R288). -/
def State.placeWindows (s : State) (place : Nat) (ds : List Nat) : List (Nat × Nat × Nat) :=
  s.memWindows.filter fun w =>
    if place = 1 then w.2.2 == 1 else if place = 2 then w.2.2 == 2 && ds.contains (w.1 / 2 ^ 34) else true

/-- Whether two ranges meet. -/
def meets (a n b k : Nat) : Bool := decide (a < b + k ∧ b < a + n)

/-- An address rounded up to an alignment. -/
def alignUp (a al : Nat) : Nat := (a + al - 1) / al * al

/-- Whether an object of `n` bytes may lie at `a`: aligned, in one window, and off every used range. -/
def placeOk (ws : List (Nat × Nat × Nat)) (used : List (Nat × Nat)) (al n a : Nat) : Bool :=
  a % al == 0 && (ws.any fun w => decide (w.1 ≤ a ∧ a + n ≤ w.1 + w.2.1)) && !(used.any fun u => meets a n u.1 u.2)

/-- The lowest place for an object: at the start of a window, or after a used range. -/
def findPlace (ws : List (Nat × Nat × Nat)) (used : List (Nat × Nat)) (al n : Nat) : Option Nat :=
  let cands := (ws.map fun w => alignUp w.1 al) ++ used.map fun u => alignUp (u.1 + u.2) al
  (cands.filter (placeOk ws used al n)).foldl (fun b a => match b with
    | none => some a
    | some x => some (min x a)) none

/-- The ranges in use: those of the partition table, and with `clearing` the freed ones that are not cleared yet. -/
def State.usedRanges (s : State) (clearing : Bool) : List (Nat × Nat) :=
  ((s.mem.ranges ++ s.mem.partner).map fun r => (r.base, r.size)) ++ if clearing then s.mem.clearing else []

/-- The 4 KiB units of shared objects (R289). -/
def State.sharedUnits (s : State) : Nat :=
  ((s.objs.filter fun e => e.2.live && e.2.partition == 16).map fun e => e.2.size / 4096).sum

/-- The sum of the quotas of live colonies. -/
def State.quotaSum (s : State) : Nat := ((s.colonies.filter (·.2.live)).map fun e => e.2.quota).sum

end Sys2Proof.Machine
end

