-- ==== Sys2Proof/Machine/MailboxCmds.lean ====
section
/-!
DEFINITION. The mailbox commands (R83-R95, R103, R61, R107-R110, R265-R268, R288-R292, R448, R480, R494, R55, R56).  `m` is the
mailbox; a command serves the request that its mailbox holds in BUSY.
-/
namespace Sys2Proof.Machine

/-! ## The mailbox itself (R83) -/

/-- MBX_REQ_WRITE (R83): `bs` from byte `off` of MBX_REQ, in words of 4 bytes. -/
def execMbxReqWrite (m off : Nat) (bs : List Byte) (s : State) : Out :=
  if 16 ≤ m ∨ off % 4 ≠ 0 ∨ bs.length % 4 ≠ 0 ∨ bs = [] ∨ 256 < off + bs.length then .next s else .next (s.mbxWrite m off bs)

/-- MBX_DOORBELL_REFUSED (R83). -/
def execMbxDoorbellRefused (m : Nat) (s : State) : Out :=
  if 16 ≤ m ∨ (s.mbxState m = 0 ∧ s.on MBX_CTRL_READY = true) then .next s else .next (s.mbxDoorbell m)

/-- MBX_ACK (R83). -/
def execMbxAck (m : Nat) (s : State) : Out := if 16 ≤ m then .next s else .next (s.mbxAck m)

/-- The colony whose creation holds a mailbox in BUSY (R267). -/
def State.creating (s : State) (m : Nat) : Option Nat :=
  (List.range 16).find? fun c => (s.colony c).live && !(s.colony c).accepted && (match (s.colony c).waiter with
    | some w => w.1 == m
    | none => false)

/-- A COLONY_CREATE that waits answers with ACCEPTED and the handle (R84, R267). -/
def State.acceptColony (s : State) (c m : Nat) : State :=
  (s.setColony c { s.colony c with accepted := true }).answer m 0x0200 { payload := leBytes 4 (s.handle 2 c), accepted := true }

/-- Whether the destruction of a queue holds a mailbox in BUSY (R110). -/
def Queue.holds (q : Queue) (m : Nat) : Bool := match q.destroying with
  | some w => w.mbx == m && !w.accepted
  | none => false

/-- The queue whose destruction holds a mailbox in BUSY (R110). -/
def State.destroying (s : State) (m : Nat) : Option Nat := (List.range 128).find? fun d => (s.queue d).holds m

/-- A QUEUE_DESTROY that waits answers with ACCEPTED (R84, R110). -/
def State.acceptDestroy (s : State) (d m : Nat) : State :=
  let q := s.queue d
  (s.setQueue d { q with destroying := q.destroying.map fun w => { w with accepted := true } }).answer m 0x0301 { accepted := true }

/-- A cancel (R83): a request that has not taken effect answers E_CANCELLED, which is not remembered; a COLONY_CREATE that has
chosen its combs and a QUEUE_DESTROY that has stopped its queue have taken effect, and answer with ACCEPTED (log entry 73). -/
def State.mbxCancel (s : State) (m : Nat) : State :=
  if s.mbxState m ≠ 1 ∨ s.hif.fwStopped = true then s
  else match s.creating m, s.destroying m with
    | some c, _ => s.acceptColony c m
    | none, some d => s.acceptDestroy d m
    | none, none => s.reject m (field (s.mbx m).copy 0 2) E_CANCELLED

/-- MBX_CANCEL (R83). -/
def execMbxCancel (m : Nat) (s : State) : Out := if 16 ≤ m then .next s else .next (s.mbxCancel m)

/-! ## Sessions and information (R93-R95) -/

/-- HELLO (R93, R94).  With E_VERSION the response carries MAX_LEN and FW_BUILD too and SESSION 0, where R94 names only FW_MAJOR and
FW_MINOR (DESIGN CHOICE; log entry 106). -/
def execHello (m : Nat) (s : State) : Out :=
  .next (s.serve m 0x0001 fun s b _ =>
    let cfg := s.ports.cfg
    let ver := leBytes 1 (s.rd MBX_CTRL_HIF_MAJOR) ++ leBytes 1 (s.rd MBX_CTRL_HIF_MINOR) ++ leBytes 2 256 ++ leBytes 4 cfg.build
    if payloadOk [(16, 0, 8), (17, 0, 8)] b = false then (s, failed E_RESERVED)
    else if field b 16 1 ≠ s.rd MBX_CTRL_HIF_MAJOR ∨ s.rd MBX_CTRL_HIF_MINOR < field b 17 1 then
      (s, some { status := E_VERSION, payload := ver ++ leBytes 4 0 })
    else
      let v := Config.freeWord s.free
      let s1 := (s.setMbx m { s.mbx m with session := some v, remembered := [] }).draw 1
      (s1, some { payload := ver ++ leBytes 4 v.toNat }))

/-- GET_INFO (R95). -/
def execGetInfo (m : Nat) (s : State) : Out :=
  .next (s.serve m 0x0002 fun s _ _ =>
    let queues := (List.range 6).flatMap fun c => leBytes 1 (classCount c)
    (s, some { payload := queues ++ [16] ++ leBytes 1 s.combCount ++ leBytes 4 s.mem.dramUnits ++ leBytes 1 s.mem.winMax
                 ++ leBytes 3 s.honeyTotal }))

/-! ## Memory objects (R288-R292) -/

/-- The largest object that a PLACE can ever hold (R289 check 4). -/
def State.placeLimit (s : State) (place : Nat) : Nat :=
  let x := s.rd DMC_MAP_ISHARE
  let inter := if x = 16 then 64 * 2 ^ 30 else x * 2 ^ 30
  let affine := (16 - x) * 2 ^ 30
  if place = 1 then inter else if place = 2 then affine else max inter affine

/-- The dies that hold combs of a colony's reservation (R288, R289). -/
def State.colonyDies (s : State) (c : Nat) : List Nat := (diesOf (s.colony c).reserved).filter s.dieIncluded

/-- The colony that a MEM_ALLOC names, its PLACE, the windows that PLACE allows and the alignment (R288). -/
def State.allocColony (s : State) (b : List Byte) : Option Nat := s.colonyOf (field b 20 4)
def allocPlace (b : List Byte) : Nat := bitsOf (field b 24 1) 1 2
def State.allocWindows (s : State) (b : List Byte) : List (Nat × Nat × Nat) :=
  s.placeWindows (allocPlace b) (s.colonyDies ((s.allocColony b).getD 0))
def allocAlign (b : List Byte) : Nat := 2 ^ bitsOf (field b 25 1) 0 5

/-- The place of a new object: the one the firmware prefers, where the object may lie there, else the lowest. -/
def State.allocAt (s : State) (base : Nat) (b : List Byte) : Option Nat :=
  let ws := s.allocWindows b
  let n := field b 16 4 * 4096
  if placeOk ws (s.usedRanges true) (allocAlign b) n base then some base else findPlace ws (s.usedRanges true) (allocAlign b) n

/-- The index of a new object: the lowest that never named one, else the lowest that names none. -/
def State.freeObj (s : State) : Option Nat :=
  match firstGap (2 ^ 20) 0 (s.objs.map (·.1)) with
  | some i => some i
  | none => (s.objs.find? fun e => !e.2.live).map (·.1)

/-! The partition table (R325): at most 4,096 ranges; adjacent ranges of one partition and HOST_VISIBLE are merged. -/

/-- A range added to the table, merged with its neighbours of the same kind. -/
def addRange (l : List PRange) (r : PRange) : List PRange :=
  let near (q : PRange) : Bool := q.partition == r.partition && q.hostVisible == r.hostVisible &&
    (q.base + q.size == r.base || r.base + r.size == q.base)
  let joined := l.filter near
  (l.filter fun q => !near q) ++
    [{ r with base := joined.foldl (fun b q => min b q.base) r.base, size := joined.foldl (fun n q => n + q.size) r.size }]

/-- The table without the `n` bytes from `a`. -/
def cutRange (l : List PRange) (a n : Nat) : List PRange :=
  l.flatMap fun q =>
    if meets q.base q.size a n then
      (if q.base < a then [{ q with size := a - q.base }] else []) ++
        (if a + n < q.base + q.size then [{ q with base := a + n, size := q.base + q.size - (a + n) }] else [])
    else [q]

/-- The colony that a MEM_ALLOC names as a partition (R290), and its HOST_VISIBLE. -/
def State.allocRange (s : State) (a : Nat) (b : List Byte) : PRange :=
  ⟨a, field b 16 4 * 4096, (s.allocColony b).getD 16, bitsOf (field b 24 1) 0 1 == 1⟩

/-- Whether the partition table takes the range of a new object (R325). -/
def State.tableRoom (s : State) (base : Nat) (b : List Byte) : Bool :=
  decide (s.mem.ranges.length < 4096) || match s.allocAt base b with
    | some a => decide ((addRange s.mem.ranges (s.allocRange a b)).length ≤ 4096)
    | none => false

/-- The checks of MEM_ALLOC (R289). -/
def State.memAllocCheck (s : State) (base : Nat) (b : List Byte) : Nat :=
  let units := field b 16 4
  let place := allocPlace b
  let al := bitsOf (field b 25 1) 0 5
  let c := s.allocColony b
  let room := match c with
    | some c => decide ((s.colony c).quotaUsed + units ≤ (s.colony c).quota)
    | none => decide (s.quotaSum + s.sharedUnits + units ≤ s.mem.dramUnits)
  firstStatus
    [ (sized 32 units, E_LEN), (payloadOk [(16, 0, 32), (20, 0, 32), (24, 0, 1), (24, 1, 2), (25, 0, 5)] b, E_RESERVED),
      (field b 20 4 == 0 || c.isSome, E_HANDLE), (decide (place ≤ 2), E_RANGE),
      (place != 2 || (match c with
        | some c => (s.colony c).lc
        | none => false), E_RANGE),
      (place != 1 || s.on DMC_MAP_ISHARE, E_RANGE), (decide (12 ≤ al ∧ al ≤ 30), E_RANGE),
      (decide (units * 4096 ≤ s.placeLimit place), E_RANGE), (place != 2 || s.colonyDies (c.getD 0) != [], E_NORES), (room, E_NORES),
      (s.freeObj.isSome, E_NORES), (s.tableRoom base b, E_NORES),
      ((findPlace (s.allocWindows b) (s.usedRanges false) (2 ^ al) (units * 4096)).isSome, E_NORES),
      ((s.allocAt base b).isSome, E_BUSY) ]

/-- The object that a MEM_ALLOC makes (R288). -/
def State.allocObj (s : State) (base : Nat) (b : List Byte) : MemObj :=
  let a := (s.allocAt base b).getD 0
  { live := true, addr := a, size := field b 16 4 * 4096, partition := (s.allocColony b).getD 16
    region := (((s.allocWindows b).find? fun w => decide (w.1 ≤ a ∧ a < w.1 + w.2.1)).map (·.2.2)).getD 1
    hostVisible := bitsOf (field b 24 1) 0 1 == 1 }

/-- An object allocated (R288, R290): its memory zeroed, its range in the partition table, its size counted to its colony. -/
def State.memAlloc (s : State) (base : Nat) (b : List Byte) : State :=
  let o := s.allocObj base b
  let s1 := s.zeroRange o.addr o.size
  let s2 := { s1 with
    objs := tset {} s1.objs (s.freeObj.getD 0) o
    mem := { s1.mem with ranges := addRange s1.mem.ranges (s.allocRange o.addr b) } }
  match s.allocColony b with
  | some c => s2.setColony c { s2.colony c with quotaUsed := (s2.colony c).quotaUsed + field b 16 4 }
  | none => s2

/-- MEM_ALLOC (R288-R290); `base` is the place that the firmware prefers. -/
def execMemAlloc (m base : Nat) (s : State) : Out :=
  .next (s.serve m 0x0100 fun s b _ =>
    let st := s.memAllocCheck base b
    if st ≠ 0 then (s, failed st)
    else (s.memAlloc base b, some { payload := leBytes 4 (s.handle 1 (s.freeObj.getD 0)) }))

/-- Whether an object holds the command ring of a live queue or the page list of a live sequence (R291). -/
def State.objBusy (s : State) (i : Nat) : Bool :=
  (s.queues.any fun e => e.2.live && e.2.ring == i)
    || ((s.brood.table ++ s.brood.fw).any fun e => e.2.state != 0 && s.handleIdx 1 e.2.list == some i)

/-- An object freed (R291, R329): its range leaves the partition table and waits to be cleared.  Its index keeps the address, where
accesses by the freed handle still go. -/
def State.memFree (s : State) (i : Nat) (o : MemObj) : State :=
  let s1 := { s with
    objs := tset {} s.objs i { o with live := false }
    mem := { s.mem with
      ranges := cutRange s.mem.ranges o.addr o.size
      clearing := s.mem.clearing ++ [(o.addr, o.size)] } }
  if o.partition < 16 then
    s1.setColony o.partition { s1.colony o.partition with quotaUsed := (s1.colony o.partition).quotaUsed - o.size / 4096 }
  else s1

/-- MEM_FREE (R291). -/
def execMemFree (m : Nat) (s : State) : Out :=
  .next (s.serve m 0x0101 fun s b _ =>
    match s.handleIdx 1 (field b 16 4) with
    | none => (s, failed E_HANDLE)
    | some i =>
      match s.obj i with
      | none => (s, failed E_HANDLE)
      | some o =>
        if s.objBusy i then (s, failed E_BUSY)
        else (s.memFree i o, some {}))

/-- Whether a request that passed its check touches a stretch of memory: it is queued, or waits before a queue (R295, R329). -/
def State.stretchBusy (s : State) (a n : Nat) : Bool :=
  let on (q : ChanReq) : Bool := meets (q.req.addr / 64 * 64) (64 * q.req.words) a n
  (s.mem.dmc.any fun d => d.2.chans.any fun c => c.2.reads.any on || c.2.writes.any on)
    || s.mem.waiting.any fun m => decide (24 ≤ m.place) && on m.req

/-- MEMORY_CLEAR_DONE (R291): the `n`-th freed range is zeros and free.  The zeros come in maintenance-class writes, after every
request that passed its check before MEM_FREE (R329). -/
def execMemoryClearDone (n : Nat) (s : State) : Out := s.unlessStalled fun s =>
  match s.mem.clearing[n]? with
  | none => .next s
  | some (a, k) =>
    if s.stretchBusy a k then .next s
    else
      let s1 := (s.passSpan maintWho true a k).zeroRange a k
      .next { s1 with mem := { s1.mem with clearing := s1.mem.clearing.eraseIdx n } }

/-- MEM_INFO (R292). -/
def execMemInfo (m : Nat) (s : State) : Out :=
  .next (s.serve m 0x0102 fun s b _ =>
    match s.objOf (field b 16 4) with
    | none => (s, failed E_HANDLE)
    | some o =>
      (s, some { payload := leBytes 8 o.addr ++ leBytes 4 (o.size / 4096)
                   ++ leBytes 1 ((if o.hostVisible then 1 else 0) + 2 * o.region) ++ leBytes 1 o.partition ++ leBytes 10 0 }))

/-! ## Colonies (R263-R268) -/

/-- The labels of a mask. -/
def labelsOf (l : BitVec 16) : List Nat := (List.range 16).filter fun t => l.getLsbD t

/-- The labels that live colonies hold. -/
def State.heldLabels (s : State) : BitVec 16 :=
  (s.colonies.filter (·.2.live)).foldl (fun x e => x ||| e.2.labels) 0

/-- The lowest index of no colony. -/
def State.freeColony (s : State) : Option Nat := (List.range 16).find? fun c => !(s.colony c).live

/-- The colony that a COLONY_CREATE describes (R265). -/
def State.newColony (s : State) (b : List Byte) : Colony :=
  let lc := bitsOf (field b 16 1) 0 1 == 1
  let n := bitsOf (field b 17 1) 0 7
  { live := true, lc := lc, ncomb := n, labels := BitVec.ofNat 16 (field b 18 2), classMap := BitVec.ofNat 32 (field b 20 4)
    share := field b 24 2, avoid := s.colonyOf (field b 28 4), honeyReserve := field b 32 4, quota := field b 36 4
    guarantee := if lc then 0 else n }

/-- The combs that the firmware chooses for a new colony (R267); none where AVOID cannot be honoured (R266): a best-effort colony
must reach its guarantee, and at least one comb, off the avoided dies (DEDUCED; log entry 113). -/
def State.newCombs (s : State) (b : List Byte) : Option (List Nat) :=
  let i := s.freeColony.getD 0
  let x := s.newColony b
  let s1 := s.setColony i x
  if x.lc then s1.pickCombs [] x.ncomb (s1.avoidDies i) else if (s1.reach i).length < max 1 x.ncomb then none else some []

/-- The checks of COLONY_CREATE (R266). -/
def State.colonyCreateCheck (s : State) (b : List Byte) : Nat :=
  let x := s.newColony b
  let cls (t : Nat) : Nat := (x.classMap.extractLsb' (2 * t) 2).toNat
  let others := s.colonies.filter (·.2.live)
  firstStatus
    [ (sized 32 x.quota, E_LEN),
      (payloadOk [(16, 0, 1), (17, 0, 7), (18, 0, 16), (20, 0, 32), (24, 0, 16), (28, 0, 32), (32, 0, 32), (36, 0, 32)] b, E_RESERVED),
      ((List.range 16).all fun t => x.labels.getLsbD t || cls t == 0, E_RESERVED),
      (field b 28 4 == 0 || x.avoid.isSome, E_HANDLE), (x.labels != 0 && x.labels &&& s.heldLabels == 0, E_LABEL),
      (if x.lc then decide (1 ≤ x.ncomb ∧ x.ncomb ≤ 64) && (labelsOf x.labels).all fun t => cls t != 2
        else decide (x.ncomb ≤ 64) && (labelsOf x.labels).all fun t => decide (2 ≤ cls t), E_RANGE),
      (decide (1 ≤ x.share ∧ x.share ≤ 1000), E_RANGE), (s.freeColony.isSome, E_NORES),
      (decide (s.combsPromised + x.ncomb ≤ s.combCount), E_NORES), ((s.newCombs b).isSome, E_NORES),
      (decide ((others.map fun e => e.2.share).sum + x.share ≤ 960), E_NORES),
      (decide ((others.map fun e => e.2.honeyReserve).sum + x.honeyReserve ≤ s.honeyTotal), E_NORES),
      (decide (s.quotaSum + s.sharedUnits + x.quota ≤ s.mem.dramUnits), E_NORES) ]

/-- A colony created on the lowest free index, with its combs reserved and its credits at 0 (R265, R267, R320). -/
def State.createColony (s : State) (b : List Byte) : State :=
  let i := s.freeColony.getD 0
  ((((s.setColony i (s.newColony b)).setStep i {}).reserveCombs i ((s.newCombs b).getD []))).clearCredits i

/-- COLONY_CREATE (R265-R267). -/
def execColonyCreate (m : Nat) (s : State) : Out :=
  .next (s.serve m 0x0200 fun s b tag =>
    let i := s.freeColony.getD 0
    let st := s.colonyCreateCheck b
    if st ≠ 0 then (s, failed st)
    else
      let s2 := s.createColony b
      if (s2.colony i).joining = [] then (s2, some { payload := leBytes 4 (s2.handle 2 i) })
      else
        let halted := ((s.newCombs b).getD []).any s2.debugHeld
        let s3 := s2.setColony i { s2.colony i with waiter := some (m, tag), accepted := halted }
        (s3, if halted then some { payload := leBytes 4 (s3.handle 2 i), accepted := true } else none))

/-- COLONY_RESERVATION_COMPLETE (R267): the last chosen comb has joined, and the creation answers or COMMAND_DONE follows; while a
chosen comb is held by a job halted under DEBUG, a creation that still waits answers with ACCEPTED. -/
def execColonyReservationComplete (c : Nat) (s : State) : Out :=
  let x := s.colony c
  match x.waiter with
  | none => .next s
  | some (m, tag) =>
    if x.joining = [] then
      let s1 := s.setColony c { x with waiter := none, accepted := false }
      if x.accepted then .next (s1.commandDone m tag 0)
      else .next (s1.answer m 0x0200 { payload := leBytes 4 (s1.handle 2 c) })
    else if x.accepted = false ∧ x.joining.any s.debugHeld = true then .next (s.acceptColony c m)
    else .next s

/-- Whether a colony is in use (R268). -/
def State.colonyBusy (s : State) (c : Nat) : Bool :=
  let x := s.colony c
  (s.queues.any fun e => e.2.live && (e.2.colony == some c || (e.2.cls == 1 && e.2.labelMask &&& x.labels != 0)))
    || ((s.brood.table ++ s.brood.fw).any fun e => e.2.state != 0 && e.2.colony == c)
    || (s.objs.any fun e => e.2.live && e.2.partition == c)
    || (s.colonies.any fun e => e.2.live && e.2.avoid == some c)

/-- COLONY_DESTROY (R268): its combs return to the pool; a creation that still waits ends with E_CANCELLED (log entry 74). -/
def execColonyDestroy (m : Nat) (s : State) : Out :=
  fin (s.serve m 0x0201 fun s b _ =>
    match s.colonyOf (field b 16 4) with
    | none => (s, failed E_HANDLE)
    | some c =>
      if s.colonyBusy c then (s, failed E_BUSY)
      else
        let x := s.colony c
        let s1 := s.setColony c {}
        let s2 := (x.reserved.filter fun g => !(x.joining.contains g)).foldl
          (fun s g => (s.showColony g none).modComb g fun c => { c with idleAt := s.tclk }) s1
        let s3 := match x.waiter with
          | none => s2
          | some w => if x.accepted then s2.commandDone w.1 w.2 E_CANCELLED else s2.reject w.1 0x0200 E_CANCELLED
        (s3, some {}))

/-! ## Queues (R107-R110) -/

/-- The registers of a slot at their values for a new queue, or for none (R109, R111). -/
def State.clearSlot (s : State) (d phase : Nat) : State :=
  let zero (s : State) (f : Fld) : State := s.setReg (f.idx d).off 0
  (zero (zero (zero (zero (zero s HIF_QTAIL_INDEX) HIF_QHEAD_INDEX) HIF_CQTAIL_INDEX) HIF_CQHEAD_INDEX) HIF_QSTAT_STATE).wr
    (HIF_CQHEAD_PHASE.idx d) phase

/-- The lowest free slot (log entry 51). -/
def State.freeSlotNo (s : State) : Option Nat := (List.range 128).find? fun d => !(s.queue d).live

/-- The queue that a QUEUE_CREATE describes (R107). -/
def State.newQueue (s : State) (b : List Byte) : Queue :=
  let cls := field b 16 1
  { live := true, cls := cls, log2n := bitsOf (field b 17 1) 0 5, vector := field b 18 1
    noHalt := bitsOf (field b 19 1) 0 1 == 1, colony := if cls ≤ 1 then s.colonyOf (field b 20 4) else none
    ring := (s.handleIdx 1 (field b 24 4)).getD 0, labelMask := BitVec.ofNat 16 (field b 28 2), cqAddr := field b 32 8
    cqLog2n := bitsOf (field b 40 1) 0 5 }

/-- The checks of QUEUE_CREATE (R108). -/
def State.queueCreateCheck (s : State) (b : List Byte) : Nat :=
  let q := s.newQueue b
  let col := field b 20 4
  let c := s.colonyOf col
  let labels := match c with
    | some c => (s.colony c).labels
    | none => s.heldLabels
  let size := match s.objOf (field b 24 4) with
    | some o => o.size
    | none => 0
  let count := (s.queues.filter fun e => e.2.live && e.2.cls == q.cls).length
  firstStatus
    [ (decide (4 ≤ q.log2n ∧ q.log2n ≤ 16 ∧ 4 ≤ q.cqLog2n ∧ q.cqLog2n ≤ 16), E_LEN),
      (payloadOk [(16, 0, 8), (17, 0, 5), (18, 0, 8), (19, 0, 1), (20, 0, 32), (24, 0, 32), (28, 0, 16), (32, 0, 64), (40, 0, 5)] b,
        E_RESERVED),
      (decide (q.cls ≤ 5), E_RANGE), ((s.objOf (field b 24 4)).isSome, E_HANDLE), (decide (64 * 2 ^ q.log2n ≤ size), E_RANGE),
      (q.vector == 0xFF || decide (18 ≤ q.vector ∧ q.vector ≤ 63), E_RANGE), (decide (q.cqAddr % 4096 = 0), E_ALIGN),
      (if q.cls = 0 then c.isSome else if q.cls = 1 then col == 0 || c.isSome else col == 0, E_HANDLE),
      (q.labelMask != 0 && q.labelMask &&& ~~~labels == 0, E_LABEL), (decide (count < classCount q.cls) && s.freeSlotNo.isSome, E_NORES) ]

/-- A queue created on slot `k` (R109); a check-value queue is bound to a free unit. -/
def State.createQueue (s : State) (k : Nat) (q : Queue) : State :=
  ((if q.cls = 5 then s.cvBind k else s).setQueue k q).clearSlot k 1

/-- QUEUE_CREATE (R107-R109). -/
def execQueueCreate (m : Nat) (s : State) : Out :=
  .next (s.serve m 0x0300 fun s b _ =>
    let st := s.queueCreateCheck b
    let k := s.freeSlotNo.getD 0
    if st ≠ 0 then (s, failed st)
    else (s.createQueue k (s.newQueue b), some { payload := leBytes 4 (s.handle 3 k) ++ leBytes 1 k ++ leBytes 3 0 }))

/-- A destroyed queue's slot is free. -/
def State.freeSlot (s : State) (d : Nat) : State := ((s.cvUnbind d).setQueue d {}).clearSlot d 0

/-- QUEUE_DESTROY (R110): its lists are flushed; where nothing is left it is gone at once, else the request waits. -/
def execQueueDestroy (m : Nat) (s : State) : Out :=
  fin (s.serve m 0x0301 fun s b tag =>
    match s.handleIdx 3 (field b 16 4) with
    | none => (s, failed E_HANDLE)
    | some d =>
      let q := s.queue d
      if q.live = false then (s, failed E_HANDLE)
      else if q.destroying.isSome then (s, failed E_BUSY)
      else
        let s0 := s.setQueue d { q with destroying := some { mbx := m, tag := tag, since := s.tclk }, flushing := true }
        let s1 := (s0.cutRecs d fun _ => true).retire d
        if (s1.queue d).recs = [] then (s1.freeSlot d, some {}) else (s1, none))

/-- The 10 ms within which a mailbox command answers (R84, R110). -/
abbrev answerTicks : Nat := 1250000

/-- QUEUE_DESTROY_DONE (R110): the last completion record is visible; the request is DONE, or has answered with ACCEPTED and
COMMAND_DONE follows.  While completion records are left, it answers with ACCEPTED once its 10 ms have passed (log entry 75). -/
def execQueueDestroyDone (d : Nat) (s : State) : Out :=
  let q := s.queue d
  match q.destroying with
  | none => .next s
  | some w =>
    if q.recs ≠ [] then
      if w.accepted then .next s
      else
        .next ((s.waitTo (w.since + answerTicks)).acceptDestroy d w.mbx)
    else
      let s1 := s.freeSlot d
      if w.accepted then fin (s1.commandDone w.mbx w.tag 0)
      else if s.tclk ≤ w.since + answerTicks then fin (s1.answer w.mbx 0x0301 {})
      else fin ((s1.answer w.mbx 0x0301 { accepted := true }).commandDone w.mbx w.tag 0)

/-! ## Engine classes, power and safety tests (R61, R103, R448) -/

/-- FUNC_REINIT of a class (R103, R454): a restart under way completes first. -/
def State.funcReinit (s : State) (cls : Nat) : State :=
  let s1 := (s.saf.restarts.filter (·.cls == cls)).foldl State.endRestart s
  let s2 := if cls = 4 then s1.safeAll 4 else s1
  let s3 := (s2.classQueues cls (List.range 16)).foldl State.reinitQueue s2
  let s4 := s3.resetClass cls (List.range 16)
  let (s5, ok) := s4.voteClass cls
  let s6 := if ok then (s5.wr (GRD_STATUS_REFUSED.bit cls) 0).wr (GRD_STATUS_DEGRADED.bit cls) 0 else s5.refuseClass cls
  let s7 := if cls = 0 then (List.range 8).foldl (fun s c =>
      ((s.setChecker c {}).wr (GRD_CHK_HIST.bank c) 0).wr (GRD_CHK_COUNT.bank c) 0) s6 else s6
  s7.event 3 0x1F (s7.handle 4 cls) 0 []

/-- The class that the FUNC_REINIT in a mailbox names. -/
def State.reinitClass (s : State) (m : Nat) : Nat := (s.handleIdx 4 (field (s.mbx m).copy 16 4)).getD 6

/-- FUNC_REINIT (R103); it waits while a record of the class is being written (R452). -/
def execFuncReinit (m : Nat) (s : State) : Out := s.unlessStalled fun s =>
  if s.servesCmd m 0x0400 = true ∧ s.voteWaits (s.reinitClass m) = true then .next s
  else fin (s.serve m 0x0400 fun s b _ =>
    match s.handleIdx 4 (field b 16 4) with
    | none => (s, failed E_HANDLE)
    | some cls => if 5 < cls then (s, failed E_HANDLE) else (s.funcReinit cls, some {}))

/-- The power policy set (R61): without STANDBY every die in Die standby leaves it. -/
def State.setPolicy (s : State) (on : Bool) (ms : Nat) : State :=
  let s1 := s.modPwr fun p => { p with standbyOk := on, idleMs := ms }
  if on then s1 else (List.range 4).foldl (fun s d => s.demandDie (16 * d)) s1

/-- POWER_POLICY (R61, R59): clearing STANDBY starts the exit of every die in Die standby. -/
def execPowerPolicy (m : Nat) (s : State) : Out :=
  .next (s.serve m 0x0401 fun s b _ =>
    let ms := field b 17 1
    if payloadOk [(16, 0, 1), (17, 0, 8)] b = false then (s, failed E_RESERVED)
    else if ms < 1 ∨ 200 < ms then (s, failed E_RANGE)
    else (s.setPolicy (bitsOf (field b 16 1) 0 1 == 1) ms, some {}))

/-- The checks of SAFETY_TEST (R448). -/
def State.safetyTestCheck (s : State) (b : List Byte) : Nat :=
  let t := field b 16 1
  let isl := BitVec.ofNat 2 (field b 17 1)
  firstStatus
    [ (payloadOk [(16, 0, 8), (17, 0, 2)] b, E_RESERVED), (t == 1 || t == 2, E_RANGE), (isl != 0, E_RANGE),
      (!isl.getLsbD 1 || s.on SAF_ISL_STATUS_B_JOINED, E_RANGE), (s.saf.test.isNone, E_BUSY),
      (!(isl.getLsbD 0 && s.saf.islA.debug) && !(isl.getLsbD 1 && s.saf.islB.debug), E_BUSY) ]

/-- The TEST of the request that a mailbox holds; a SAFETY_TEST with neither TEST 1 nor 2 is served by either command. -/
def State.testIs (s : State) (m t : Nat) : Bool :=
  let x := field (s.mbx m).copy 16 1
  field (s.mbx m).copy 0 2 != 0x0500 || x == t || !(x == 1 || x == 2)

/-- SAFETY_TEST_INJECTION (R448): the tests follow with COMPARATOR_TEST_RUN. -/
def execSafetyTestInjection (m : Nat) (s : State) : Out :=
  if s.testIs m 1 = false then .next s
  else .next (s.serve m 0x0500 fun s b tag =>
    let st := s.safetyTestCheck b
    if st ≠ 0 then (s, failed st)
    else
      let s1 := s.wr SAF_ISL_STATUS_TEST_BUSY 1
      ({ s1 with saf := { s1.saf with test := some ⟨m, tag, BitVec.ofNat 2 (field b 17 1)⟩ } }, some { accepted := true }))

/-- SAFETY_TEST_VOTE (R448, R454): every record of the islands named is voted, COMMAND_DONE follows, and then the reaction to a refused
island record.  It waits while a function restarts or a record is being written (R452). -/
def execSafetyTestVote (m : Nat) (s : State) : Out :=
  if s.testIs m 2 = false then .next s
  else
    let b := (s.mbx m).copy
    let isl := BitVec.ofNat 2 (field b 17 1)
    let s1 := s.serve m 0x0500 fun s b _ =>
      let st := s.safetyTestCheck b
      if st ≠ 0 then (s, failed st) else (s, some { accepted := true })
    let ran := s.servesCmd m 0x0500 && decide (s.requestCheck m b = 0) && decide (s.safetyTestCheck (b.take 24) = 0)
      && ((s.mbx m).remembered.find? fun r => r.tag == BitVec.ofNat 16 (field b 2 2) && r.cmd == 0x0500).isNone
    let (s2, okA, okB) := s1.voteAll (isl.getLsbD 0) (isl.getLsbD 1)
    if ran = false then .next s1
    else if s.saf.restarts ≠ [] ∨ s.saf.write.isSome = true then .next s
    else fin ((s2.commandDone m (BitVec.ofNat 16 (field b 2 2)) 0).refuseIslands okA okB)

/-! ## Logs and the ledger (R479, R480, R494) -/

/-- A thermal domain's ledger entry (R494). -/
def Domain.ledger (d : Domain) : List Byte :=
  leBytes 4 (min d.half10 0xFFFFFFFF) ++ leBytes 4 (min d.half20 0xFFFFFFFF) ++ leBytes 4 (min d.half40 0xFFFFFFFF)
    ++ leBytes 4 (min d.half60 0xFFFFFFFF) ++ leBytes 4 (min (d.hotMs / 1000) 0xFFFFFFFF)
    ++ leBytes 2 (ofInt 16 (d.peak.getD 0)) ++ leBytes 2 (ofInt 16 d.lastTp) ++ leBytes 2 (ofInt 16 d.ext)
    ++ leBytes 1 (if d.started then 1 else 0) ++ leBytes 5 0

/-- LEDGER_READ (R494): every domain as it stood at the last window boundary. -/
def execLedgerRead (m : Nat) (s : State) : Out :=
  .next (s.serve m 0x0501 fun s _ _ =>
    (s, some { payload := leBytes 4 (min (s.thm.opTicks / 125000000) 0xFFFFFFFF) ++ leBytes 4 0
                 ++ (List.range 6).flatMap fun e => (tget ({} : Domain) s.thm.ledger e).ledger }))

/-- The 32 bytes of an event record with a PHASE (R100). -/
def EventRec.toBytes (r : EventRec) (phase : Nat) : List Byte :=
  leBytes 2 r.code ++ leBytes 1 r.source ++ leBytes 1 (phase + 2 * r.severity) ++ leBytes 4 r.seq ++ leBytes 8 r.time
    ++ leBytes 4 r.object ++ leBytes 2 r.status ++ padTo 10 r.detail

/-- The 32 bytes of a safety log record (R479). -/
def SafRec.toBytes (r : SafRec) : List Byte :=
  leBytes 1 r.kind ++ leBytes 1 r.action ++ leBytes 2 r.index ++ leBytes 4 r.seq ++ leBytes 8 r.time ++ leBytes 8 r.value
    ++ leBytes 2 r.status ++ leBytes 6 0

/-- A log as (SEQ, record bytes), oldest first, and the SEQ that follows its newest. -/
def State.logOf (s : State) (log : Nat) : List (Nat × List Byte) × Nat :=
  if log = 0 then (s.hif.evtLog.map fun r => (r.seq, r.toBytes 0), s.hif.evtSeq)
  else (s.saf.log.map fun r => (r.seq, r.toBytes), s.saf.logSeq)

/-- The checks of LOG_READ (R480). -/
def State.logReadCheck (s : State) (b : List Byte) : Nat :=
  let count := field b 28 2
  firstStatus
    [ (sized 16 count, E_LEN), (payloadOk [(16, 0, 8), (20, 0, 32), (24, 0, 32), (28, 0, 16), (32, 0, 64)] b, E_RESERVED),
      ((s.objOf (field b 20 4)).isSome, E_HANDLE), (decide (field b 16 1 ≤ 1), E_RANGE),
      (s.objFits (field b 20 4) (64 * field b 24 4) (32 * count), E_RANGE) ]

/-- The records that a LOG_READ copies (R480). -/
def State.logReadRecs (s : State) (b : List Byte) : List (Nat × List Byte) :=
  ((s.logOf (field b 16 1)).1.filter fun r => decide (field b 32 8 ≤ r.1)).take (field b 28 2)

/-- LOG_READ (R480): the records chosen at the request; LOG_READ_DONE stores them. -/
def execLogRead (m : Nat) (s : State) : Out :=
  .next (s.serve m 0x0502 fun s b tag =>
    let st := s.logReadCheck b
    if st ≠ 0 then (s, failed st)
    else
      let oldest := match s.logOf (field b 16 1) with
        | (r :: _, _) => r.1
        | ([], next) => next
      let got := s.logReadRecs b
      let r : LogRead := { mbx := m, tag := tag, addr := s.objAddr (field b 20 4) (64 * field b 24 4), bytes := got.flatMap (·.2) }
      ({ s with saf := { s.saf with logReads := s.saf.logReads ++ [r] } },
        some { payload := leBytes 4 got.length ++ leBytes 4 0 ++ leBytes 8 oldest, accepted := true }))

/-- LOG_READ_DONE (R480): the `n`-th copy ends. -/
def execLogReadDone (n : Nat) (s : State) : Out := s.unlessStalled fun s =>
  match s.saf.logReads[n]? with
  | none => .next s
  | some r =>
    let s1 := { s with saf := { s.saf with logReads := s.saf.logReads.eraseIdx n } }
    let (s2, st) := s1.devStore firmwareWho r.addr r.bytes
    .next (s2.commandDone r.mbx r.tag st)

/-! ## Firmware slots and fuses (R55, R56) -/

/-- The checks of FW_SLOT_WRITE (R55). -/
def State.fwSlotCheck (s : State) (image : FwImage) (b : List Byte) : Nat :=
  let target := bitsOf (field b 16 1) 0 1 == 1
  let size := field b 24 4
  let running := if target then s.pkg.sfdSlot else s.pkg.iodSlot
  let rev := BitVec.ofNat 8 (s.rd (IDN_DIE_REV.idx (if target then 9 else 8)))
  firstStatus
    [ (sized 32 size, E_LEN), (payloadOk [(16, 0, 1), (16, 1, 1), (20, 0, 32), (24, 0, 32)] b, E_RESERVED),
      ((s.objOf (field b 20 4)).isSome, E_HANDLE), (s.objFits (field b 20 4) 0 size, E_RANGE),
      (decide (size ≤ if target then 2 ^ 22 else 2 ^ 25), E_RANGE), (s.pkg.fwWrite.isNone && s.pkg.fwAdvance.isNone, E_BUSY),
      (running != some (bitsOf (field b 16 1) 1 1), E_BUSY), (!target || s.on SAF_ISL_STATUS_B_JOINED, E_BUSY),
      (imageOk image (if target then s.pkg.sfdFuse else s.pkg.iodFuse) rev, E_SIGNATURE) ]

/-- FW_SLOT_WRITE (R55); `image` is what the checks of R53 find in the bytes of OBJ. -/
def execFwSlotWrite (m : Nat) (image : FwImage) (s : State) : Out :=
  .next (s.serve m 0x0600 fun s b tag =>
    let st := s.fwSlotCheck image b
    if st ≠ 0 then (s, failed st)
    else
      (s.modPkg fun k => { k with fwWrite := some ⟨m, tag, bitsOf (field b 16 1) 0 1 == 1, bitsOf (field b 16 1) 1 1, image⟩ },
        some { accepted := true }))

/-- A flash of two slots with one replaced. -/
def setSlot (l : List FwSlot) (i : Nat) (x : FwSlot) : List FwSlot := modNth (fun _ => x) i (l ++ List.replicate (2 - l.length) blankSlot)

/-- INTERNAL_ERROR, which accompanies E_INTERNAL of a mailbox command (R102, R128); the firmware fault code is a free value. -/
def State.internalError (s : State) (m cmd : Nat) : State :=
  (s.draw 1).event 0xFE 0x1F 0 E_INTERNAL (leBytes 4 (Config.freeWord s.free).toNat ++ leBytes 2 cmd ++ leBytes 1 m)

/-- FW_SLOT_WRITE_DONE (R55): `ok` is whether the read-back agrees; the slot record's count is one above the other slot's. -/
def execFwSlotWriteDone (ok : Bool) (s : State) : Out :=
  match s.pkg.fwWrite with
  | none => .next s
  | some w =>
    let l := if w.target then s.pkg.sfdFlash else s.pkg.iodFlash
    let other := (l[1 - w.slot]?).getD { compl := 0 }
    let count : BitVec 32 := if FwSlot.valid other then other.count + 1 else 1
    let l' := setSlot l w.slot (if ok then { image := w.image, count := count, compl := ~~~count } else blankSlot)
    let s1 := s.modPkg fun k =>
      { k with fwWrite := none, iodFlash := if w.target then k.iodFlash else l', sfdFlash := if w.target then l' else k.sfdFlash }
    if ok then .next (s1.commandDone w.mbx w.tag 0)
    else .next ((s1.internalError w.mbx 0x0600).commandDone w.mbx w.tag E_INTERNAL)

/-- The checks of FW_ROLLBACK_ADVANCE (R56). -/
def State.fwAdvanceCheck (s : State) (b : List Byte) : Nat :=
  let target := bitsOf (field b 16 1) 0 1 == 1
  let v := field b 20 4
  let image := if target then s.pkg.sfdImage else s.pkg.iodImage
  firstStatus
    [ (payloadOk [(16, 0, 1), (20, 0, 32)] b, E_RESERVED), (decide (1 ≤ v ∧ v ≤ 64 ∧ v ≤ image.version), E_RANGE),
      (s.pkg.fwWrite.isNone && s.pkg.fwAdvance.isNone, E_BUSY), (!target || s.on SAF_ISL_STATUS_B_JOINED, E_BUSY) ]

/-- FW_ROLLBACK_ADVANCE (R56). -/
def execFwRollbackAdvance (m : Nat) (s : State) : Out :=
  .next (s.serve m 0x0601 fun s b tag =>
    let target := bitsOf (field b 16 1) 0 1 == 1
    let v := field b 20 4
    let st := s.fwAdvanceCheck b
    if st ≠ 0 then (s, failed st)
    else if v ≤ (if target then s.pkg.sfdFuse else s.pkg.iodFuse) then (s, some {})
    else (s.modPkg fun k => { k with fwAdvance := some ⟨m, tag, target, v⟩ }, some { accepted := true }))

/-- FW_ROLLBACK_ADVANCE_DONE (R56): the fuses read VERSION. -/
def execFwRollbackAdvanceDone (s : State) : Out :=
  match s.pkg.fwAdvance with
  | none => .next s
  | some w =>
    let s1 := s.modPkg fun k =>
      { k with fwAdvance := none, sfdFuse := if w.target then w.version else k.sfdFuse, iodFuse := if w.target then k.iodFuse else w.version }
    .next (s1.commandDone w.mbx w.tag 0)

end Sys2Proof.Machine
end

