-- ==== Sys2Proof/Machine/QueueCmds.lean ====
section
/-!
DEFINITION. The commands of queues: doorbells, RESUME and FLUSH, completion-ring tails, the fetch of records, and the generic
records NOP, SIGNAL, WAIT and TIMESTAMP (R111-R120, R125-R127).
-/
namespace Sys2Proof.Machine

/-! ## Queue registers (R111, R112, R118) -/

/-- Whether a doorbell is accepted: T' in the ring, and the units from T to T' free (R112). -/
def doorbellFits (n t h t' : Nat) : Bool := decide (t' < n ∧ (t' + n - t) % n ≤ n - 1 - (t + n - h) % n)

/-- A write of HIF_QTAIL (R112, R118).  A slot with no queue ignores it, and so does one that QUEUE_DESTROY has stopped (R110). -/
def State.doorbell (s : State) (d t' : Nat) : State :=
  let q := s.queue d
  let n := 2 ^ q.log2n
  let t := s.rd (HIF_QTAIL_INDEX.idx d)
  if q.live = false ∨ q.destroying.isSome = true then s
  else if s.rd (HIF_QSTAT_STATE.idx d) = qReset then s.wr (HIF_QSTAT_DB_REFUSED.idx d) 1
  else if t' = t then s
  else if doorbellFits n t (s.rd (HIF_QHEAD_INDEX.idx d)) t' = false then s.wr (HIF_QSTAT_DB_ERR.idx d) 1
  else
    let l : SubList := { id := q.nextList, start := t, units := (t' + n - t) % n }
    let s1 := (s.setQueue d { q with lists := q.lists ++ [l], nextList := q.nextList + 1 }).wr (HIF_QTAIL_INDEX.idx d) t'
    if s.rd (HIF_QSTAT_STATE.idx d) = qIdle then s1.wr (HIF_QSTAT_STATE.idx d) qRunning else s1

/-- QUEUE_DOORBELL (R112). -/
def execQueueDoorbell (d : Nat) (tail : BitVec 16) (s : State) : Out := .next (s.doorbell d tail.toNat)

/-- RESUME (R118): HALTED goes to RUNNING where lists are submitted, else to IDLE. -/
def State.resumeQueue (s : State) (d : Nat) : State :=
  let q := s.queue d
  if q.live ∧ s.rd (HIF_QSTAT_STATE.idx d) = qHalted then
    s.wr (HIF_QSTAT_STATE.idx d) (if q.lists = [] then qIdle else qRunning)
  else s

/-- FLUSH (R118): the records that have not started are discarded with their lists, once the records in progress have ended. -/
def State.flushQueue (s : State) (d : Nat) : State :=
  let q := s.queue d
  let st := s.rd (HIF_QSTAT_STATE.idx d)
  if q.live ∧ (st = qHalted ∨ st = qRunning) then ((s.setQueue d { q with flushing := true }).cutRecs d fun _ => true).retire d else s

/-- QUEUE_RESUME (R118): HIF_QCTL is written with RESUME alone. -/
def execQueueResume (d : Nat) (s : State) : Out := .next (s.resumeQueue d)

/-- QUEUE_FLUSH (R118): HIF_QCTL is written with FLUSH, whatever RESUME is. -/
def execQueueFlush (d : Nat) (s : State) : Out := fin (s.flushQueue d)

/-- A write of HIF_CQTAIL (R98, R125, R127): records consumed; a queue held for room goes on. -/
def State.cqTail (s : State) (d t : Nat) : State :=
  let q := s.queue d
  if q.live = false ∨ 2 ^ q.cqLog2n ≤ t then s
  else
    let s1 := s.wr (HIF_CQTAIL_INDEX.idx d) t
    (if s1.cqRoom d q then s1.wr (HIF_QSTAT_CQ_FULL.idx d) 0 else s1).retire d

/-- CQTAIL_WRITE (R125, R127). -/
def execCqtailWrite (d : Nat) (tail : BitVec 16) (s : State) : Out := fin (s.cqTail d tail.toNat)

/-- The units of the record that a queue fetches, read as the firmware's requests are: spec/ names no identity for the fetch of a command
ring (R304, R315, R320; DESIGN CHOICE, log entry 129). -/
def State.readRing (s : State) (d : Nat) : State :=
  match s.nextFetch d with
  | none => s
  | some (_, u, n) => (s.devLoad firmwareWho (s.ringAddr (s.queue d) + 64 * u) (64 * n)).1

/-- RECORD_START (R115, R116, R127): the next record is fetched and goes through checks 1-8; a completion ring without room holds
the queue. -/
def execRecordStart (d : Nat) (s : State) : Out := s.unlessStalled fun s =>
  if s.canFetch d = false then .next s
  else if s.cqRoom d (s.queue d) then fin ((s.readRing d).fetchRecord d)
  else .next (s.wr (HIF_QSTAT_CQ_FULL.idx d) 1)

/-! ## Generic records (R114, R119, R120) -/

/-- NOP (R114). -/
def execNop (d : Nat) (s : State) : Out :=
  fin (s.runOp d 0x00 (fun _ => true) (fun _ => (0, 0xFFFF)) fun s r => s.completeRec d r.seq 0)

/-- The requester of a generic record: the engine that serves its queue (log entry 69). -/
def State.fenceWho (s : State) (d : Nat) (r : Rec) : Who :=
  let cls := (s.queue d).cls
  s.recWho d r (if cls = 2 then 0x43 else if cls = 3 then 0x44 else if cls = 4 then 0x45 else if cls = 5 then 0x46 else 0x41)

/-- The checks of a fence record (R119). -/
def State.fenceCheck (s : State) (r : Rec) : Nat × Nat :=
  let b := r.bytes
  firstField
    [ (r.op == 2 || field b 40 4 == 0, E_RESERVED, 40), ((s.objOf (field b 16 4)).isSome, E_HANDLE, 16),
      (decide (field b 24 8 % 8 = 0), E_ALIGN, 24), (s.objFits (field b 16 4) (field b 24 8) 8, E_RANGE, 24) ]

/-- The address of a fence record's fence. -/
def State.fenceAddr (s : State) (r : Rec) : Nat := s.objAddr (field r.bytes 16 4) (field r.bytes 24 8)

/-- A fence written by a record. -/
def State.putFence (s : State) (d : Nat) (r : Rec) (x : Nat) : State :=
  let (s1, st) := s.devStore (s.fenceWho d r) (s.fenceAddr r) (leBytes 8 x)
  if st ≠ 0 then s1.faultRec d r.seq st else s1.completeRec d r.seq 0

/-- SIGNAL (R119, R120): the fence becomes the larger of its value and VALUE, in one atomic request (R293). -/
def execSignal (d : Nat) (s : State) : Out :=
  s.unlessStalled fun s => fin (s.runOp d 0x01 (fun _ => true) s.fenceCheck fun s0 r =>
    let who := s0.fenceWho d r
    let a := s0.fenceAddr r
    let s := s0.findSpan who a 8
    let st := s.burstStatus who false a 8
    let s1 := if s.allowed who a then s.passRequest who true a 8 else s.violation who a 2
    if st ≠ 0 then s1.faultRec d r.seq st
    else
      let x := max (leNat (memRead s.dram a 8)) (field r.bytes 32 8)
      (s1.memStore a (leBytes 8 x)).completeRec d r.seq 0)

/-- WAIT (R119, R120, R306): completes where the target is met already, faults where TIMEOUT is 0, else is armed.  A poisoned fence
meets no target. -/
def execWait (d : Nat) (s : State) : Out := s.unlessStalled fun s =>
  fin (s.runOp d 0x02 (fun _ => true) s.fenceCheck fun s r =>
    let (s1, st, bs) := s.devLoad (s.fenceWho d r) (s.fenceAddr r) 8
    if st ≠ 0 ∧ st ≠ E_POISON then s1.faultRec d r.seq st
    else if st = 0 ∧ field r.bytes 32 8 ≤ leNat bs then s1.completeRec d r.seq 0
    else if field r.bytes 40 4 = 0 then s1.faultRec d r.seq E_TIMEOUT
    else s1.wr (HIF_QSTAT_WAITING.idx d) 1)

/-- WAIT_RELEASE (R120): a write has met the target of the queue's armed WAIT. -/
def execWaitRelease (d : Nat) (s : State) : Out :=
  match s.runningRec d 2 with
  | none => .next s
  | some r => if r.met then fin (s.completeRec d r.seq 0) else .next s

/-- WAIT_TIMEOUT (R120): TIMEOUT ticks from its start pass with the target not met. -/
def execWaitTimeout (d : Nat) (s : State) : Out :=
  match s.runningRec d 2 with
  | none => .next s
  | some r =>
    if r.met ∨ field r.bytes 40 4 = 0xFFFFFFFF then .next s
    else fin ((s.waitTo (r.startAt + field r.bytes 40 4)).faultRec d r.seq E_TIMEOUT)

/-- TIMESTAMP (R114): the time-base value in ns to a fence location. -/
def execTimestamp (d : Nat) (s : State) : Out := s.unlessStalled fun s =>
  fin (s.runOp d 0x03 (fun _ => true) s.fenceCheck fun s r => s.putFence d r s.now)

end Sys2Proof.Machine
end

