-- ==== Sys2Proof/Machine/SwarmCmds.lean ====
section
/-!
DEFINITION. The swarm commands (R500-R509).
-/
namespace Sys2Proof.Machine

/-! ## Ports -/

/-- A port enabled: it trains (R503). -/
def State.swEnable (s : State) (n : Nat) : State :=
  if s.on (SWM_CTL_ENABLE.bit n) then s
  else (((s.wr (SWM_CTL_ENABLE.bit n) 1).wr (SWM_PORT_RETRAINS.idx n) 0).modPort n fun _ => {}).setSwState n 1

/-- A port disabled: it goes DOWN (R508). -/
def State.swDisable (s : State) (n : Nat) : State :=
  if s.on (SWM_CTL_ENABLE.bit n) then (s.wr (SWM_CTL_ENABLE.bit n) 0).swDown n else s

/-- SWARM_PORT_ENABLE (R503). -/
def execSwarmPortEnable (n : Nat) (s : State) : Out := if 4 ≤ n then .next s else .next (s.swEnable n)

/-- SWARM_PORT_DISABLE (R508): records whose route the port carried fault. -/
def execSwarmPortDisable (n : Nat) (s : State) : Out := if 4 ≤ n then .next s else fin (s.swDisable n)

/-- SWM_ID (`swarm` false) or SWM_SWARM written: only while no port is enabled (R509). -/
def State.writeSwId (s : State) (swarm : Bool) (v : Nat) : State :=
  if s.on SWM_CTL_ENABLE then s else if swarm then s.wr SWM_SWARM_SWARM_ID v else s.wr SWM_ID_DEV_NUM (bitsOf v 0 7)

/-- SWARM_ID_WRITE (R509). -/
def execSwarmIdWrite (swarm : Bool) (v : Word) (s : State) : Out := .next (s.writeSwId swarm v.toNat)

/-- SWARM_TRAINING_DONE (R500, R503): the port enters waggle and sends HELLO. -/
def execSwarmTrainingDone (n : Nat) (slow : Bool) (s : State) : Out :=
  if 4 ≤ n ∨ s.swState n ≠ 1 then .next s
  else
    let s1 := ((s.wrB (SWM_PORT_SLOW.idx n) slow).setSwState n 2).modPort n fun p => { p with lastFlit := s.tclk, helloSent := true }
    .next (s1.swWag n 1 0 s1.swHelloPay)

/-- A control flit at a port: nothing where the port takes none or the flit is of another TYPE; else `h` on its payload where it is
the expected flit. -/
def State.swControl (s : State) (n type : Nat) (f : List Byte) (h : State → State) : State :=
  if s.swLive n = false ∨ (flitOk f = true ∧ flitType f ≠ type) then s
  else
    let (s1, ok) := s.swTake n f
    if ok then h s1 else s1

/-- A waggle message of a type in a control flit; a bad CHECK is answered with NAK, and a NAK brings the last message again (R31). -/
def State.swMessage (s : State) (n type : Nat) (f : List Byte) (h : State → WaggleMsg → State) : State :=
  s.swControl n 1 f fun s =>
    let m := (flitPay f).take 32
    if wOk m = false then s.swAgain n fun s => s.swWag n 0xF (wSeq m) (leBytes 1 (wSeq m))
    else if wType m = 0xF then s.swNak n m else if wType m = type then h s m else s

/-- SWARM_HELLO (R503). -/
def execSwarmHello (n : Nat) (f : List Byte) (s : State) : Out :=
  .next (s.swMessage n 1 f fun s m => if s.swState n = 2 then s.swHello n m else s)

/-- SWARM_DONE (R503). -/
def execSwarmDone (n : Nat) (f : List Byte) (s : State) : Out := fin (s.swMessage n 7 f fun s m => s.swDone n (wSeq m))

/-- SWARM_REJECT (R503). -/
def execSwarmReject (n : Nat) (f : List Byte) (s : State) : Out :=
  .next (s.swMessage n 0xE f fun s m => if s.swState n = 2 then s.swReject n (wPay m 0 1) else s)

/-- SWARM_ADVERTISEMENT (R504). -/
def execSwarmAdvertisement (n : Nat) (f : List Byte) (s : State) : Out :=
  fin (s.swControl n 1 f fun s => if field (flitPay f) 0 1 = 0 ∧ s.swState n = 3 then s.takeAdvert n (flitPay f) else s)

/-- SWARM_ADVERTISE_TIMER (R504). -/
def execSwarmAdvertiseTimer (s : State) : Out := if s.joinedPorts = [] then .next s else .next s.advertise

/-! ## Traffic -/

/-- SWARM_REQUEST_FLIT (R504, R506, R507): its payload passes the port's direction, and the request is done or forwarded. -/
def execSwarmRequestFlit (n : Nat) (f : List Byte) (s : State) : Out := s.unlessStalled fun s =>
  fin (s.swControl n 2 f fun s =>
    if s.swState n = 3 then (s.transferWords (swPoint n 1) (s.flitCol f) (flitWords f)).swTakeRequest f else s)

/-- SWARM_RESPONSE_FLIT (R504, R505). -/
def execSwarmResponseFlit (n : Nat) (f : List Byte) (s : State) : Out :=
  fin (s.swControl n 3 f fun s => if s.swState n = 3 then s.swTakeResponse f else s)

/-- The replay that an acknowledge flit asks for (R502): counted; after 8 of one flit the port retrains. -/
def State.swAcked (s : State) (n seq : Nat) : State :=
  let p := s.swPort n
  let same := p.replayFrom == some seq
  if same ∧ 8 ≤ p.replays then
    (s.inc (SWM_PORT_RETRAINS.idx n)).modPort n fun p => { p with retraining := true, retrainAt := s.tclk }
  else if p.replay.any fun x => x.seq == seq then
    ((s.inc SWM_REPLAY_COUNT).modPort n fun p => { p with replayFrom := some seq, replays := if same then p.replays + 1 else 1 }).swReplay
      n seq
  else s

/-- SWARM_ACK_FLIT (R502). -/
def execSwarmAckFlit (n : Nat) (f : List Byte) (s : State) : Out :=
  if s.swLive n = false then .next s
  else if flitOk f = false then .next (s.swTake n f).1
  else if flitType f ≠ 4 ∨ (s.swPort n).retraining = true then .next s
  else .next (((s.modPort n fun p => { p with lastFlit := s.tclk }).swAcked n ((flitAck f + 1) % 65536)).swAckTo n (flitAck f))

/-- SWARM_RETRAIN_DONE (R502): within 50 ms; traffic resumes from the flit that was lost. -/
def execSwarmRetrainDone (n : Nat) (s : State) : Out :=
  let p := s.swPort n
  if 4 ≤ n ∨ p.retraining = false ∨ p.retrainAt + 6250000 < s.tclk then .next s
  else
    let s1 := s.modPort n fun p => { p with retraining := false, replays := 0, replayFrom := none, lastFlit := s.tclk }
    .next (match p.replayFrom with
      | some q => s1.swReplay n q
      | none => s1)

/-- SWARM_RETRAIN_TIMEOUT (R502, R508). -/
def execSwarmRetrainTimeout (n : Nat) (s : State) : Out :=
  let p := s.swPort n
  if 4 ≤ n ∨ p.retraining = false then .next s else fin ((s.waitTo (p.retrainAt + 6250000)).swDown n)

/-- SWARM_SILENCE (R508): no flit for 1 ms. -/
def execSwarmSilence (n : Nat) (s : State) : Out :=
  if s.swLive n = false ∨ (s.swPort n).retraining = true then .next s
  else fin ((s.waitTo ((s.swPort n).lastFlit + 125000)).swDown n)

/-! ## SWARM_COPY and SWARM_SIGNAL (R505, R508) -/

/-- DEV and EXP of a swarm record. -/
def swDev (r : Rec) : Nat := bitsOf (field r.bytes 16 1) 0 7
def swExp (r : Rec) : Nat := bitsOf (field r.bytes 17 1) 0 6

/-- Requests sent for a record, and the record in flight with their tags. -/
def State.swIssue (s : State) (d : Nat) (r : Rec) (reqs : List (Nat × Nat × Nat × List Byte)) : State :=
  match s.route (swDev r) with
  | none => s.faultRec d r.seq E_LINK
  | some (n, _) =>
    let tag0 := s.swm.nextTag
    let tags := (List.range reqs.length).map fun i => (tag0 + i) % 2 ^ 32
    let s1 := s.modSwm fun w => { w with
      nextTag := (tag0 + reqs.length) % 2 ^ 32
      outs := w.outs ++ [⟨d, r.seq, swDev r, tags, s.routePath (swDev r)⟩] }
    let w := s.recWho d r 0x41
    (reqs.zip tags).foldl (fun s x => (s.transferWords (swPoint n 0) (poolOf w.label w.colony) (ceilDiv x.1.2.1 64)).swSend n 2 1 (swDev r)
      s.swOwn (swRequest x.1.1 (swExp r) x.1.2.1 x.2 x.1.2.2.1 x.1.2.2.2)) s1

/-- Check 9 of R115 for SWARM_COPY (R505). -/
def State.swCopyCheck (s : State) (r : Rec) : Nat × Nat :=
  let b := r.bytes
  let size := field b 40 4
  firstField
    [ ((s.route (swDev r)).isSome, E_LINK, 16), ((s.objOf (field b 20 4)).isSome, E_HANDLE, 20),
      (size == 0 || size == 0xFFFFFFFF || s.objFits (field b 20 4) (field b 24 8) size, E_RANGE, 24),
      (decide (size ≠ 0 ∧ size ≠ 0xFFFFFFFF), E_LEN, 40) ]

/-- SWARM_COPY (R505): the local range is read and pushed in requests of up to 224 bytes. -/
def execSwarmCopy (d : Nat) (s : State) : Out := s.unlessStalled fun s =>
  fin (s.runOp d 0x3E (fun _ => true) s.swCopyCheck fun s r =>
    let b := r.bytes
    let (s1, st, bs) := s.objLoad (s.recWho d r 0x41) (field b 20 4) (field b 24 8) (field b 40 4)
    if st ≠ 0 then s1.faultRec d r.seq st
    else s1.swIssue d r ((List.range (ceilDiv bs.length 224)).map fun i =>
      let data := (bs.drop (224 * i)).take 224
      (0, data.length, field b 32 8 + 224 * i, data)))

/-- SWARM_SIGNAL (R505): a larger-of request on a remote fence. -/
def execSwarmSignal (d : Nat) (s : State) : Out :=
  fin (s.runOp d 0x3F (fun _ => true)
    (fun r => firstField [((s.route (swDev r)).isSome, E_LINK, 16), (decide (field r.bytes 32 8 % 8 = 0), E_ALIGN, 32)]) fun s r =>
    s.swIssue d r [(1, 8, field r.bytes 32 8, leBytes 8 (field r.bytes 40 8))])

/-! ## Exports (R506, R509) -/

/-- Whether an export with a LABEL and an object may be enabled (R506). -/
def State.exportOk (s : State) (h label : Nat) : Bool :=
  match s.objOf h with
  | none => false
  | some o => o.partition == 16 || s.labelColony label == some o.partition

/-- SWM_EXP_CTL written for an export (R506): ENABLE, or its refusal with ERR. -/
def State.writeExport (s : State) (e v : Nat) : State :=
  let label := bitsOf v 1 4
  let s1 := s.wr (SWM_EXP_CTL_LABEL.bank e) label
  if bitsOf v 0 1 = 0 then s1.wr (SWM_EXP_CTL_ENABLE.bank e) 0
  else if s1.exportOk (s1.rd (SWM_EXP_OBJ_OBJ.bank e)) label then
    (s1.wr (SWM_EXP_CTL_ENABLE.bank e) 1).wr (SWM_EXP_CTL_ERR.bank e) 0
  else (s1.wr (SWM_EXP_CTL_ENABLE.bank e) 0).wr (SWM_EXP_CTL_ERR.bank e) 1

/-- SWARM_EXPORT_ENABLE (R506): a write of SWM_EXP_CTL for the selected export. -/
def execSwarmExportEnable (v : Word) (s : State) : Out := .next (s.writeExport (s.rd SWM_EXP_SEL_INDEX) v.toNat)

end Sys2Proof.Machine
end

