-- ==== Sys2Proof/Machine/RegWrite.lean ====
section
/-!
DEFINITION. What a host access to BAR0 does (R6-R11, R533, R534): reads with their RC fields and latches, writes with the
access code of each field, and the registers whose write is an action of another chapter.
-/
namespace Sys2Proof.Machine

/-! ## The event ring's registers (R97, R98) -/

/-- EVT_CTRL written: ENABLE from 0 to 1 starts the ring, or is refused with CFG_ERR.  A coalescing delay that runs goes on where ENABLE
is cleared or COALESCE becomes 0, and its message is sent at its end: R98 does not say (DESIGN CHOICE; log entry 105). -/
def State.writeEvtCtrl (s : State) (v : Nat) : State :=
  let s1 := s.wr EVT_CTRL_COALESCE (bitsOf v 8 8)
  if bitsOf v 0 1 = 0 then s1.wr EVT_CTRL_ENABLE 0
  else if s1.on EVT_CTRL_ENABLE then s1
  else if s1.rd EVT_SIZE_LOG2N < 6 ∨ 16 < s1.rd EVT_SIZE_LOG2N then s1.wr EVT_CTRL_CFG_ERR 1
  else
    ((((s1.wr EVT_CTRL_ENABLE 1).wr EVT_CTRL_CFG_ERR 0).wr EVT_HEAD_INDEX 0).wr EVT_HEAD_PHASE 1).wr EVT_TAIL_INDEX 0

/-- EVT_TAIL written: a value at or above 2^LOG2N has no effect. -/
def State.writeEvtTail (s : State) (v : Nat) : State :=
  if 2 ^ s.rd EVT_SIZE_LOG2N ≤ v % 2 ^ 16 then s else s.wr EVT_TAIL_INDEX v

/-! ## Vector 17 (R537, R538) -/

/-- HIF_IMASK written: vector 17 goes once where the mask of a cause that is set is cleared. -/
def State.writeIMask (s : State) (v : Nat) : State :=
  let cleared := (List.range 3).any fun n =>
    s.on (HIF_IMASK_MASK.bit n) && !(v.testBit (n + 1)) && s.on (HIF_ICAUSE_AER_COR.bit n)
  let s1 := s.wr HIF_IMASK_MASK (bitsOf v 1 3)
  if cleared then s1.msix 17 else s1

/-! ## Writes by access code (R6, R7) -/

/-- One field of a row written at key `k` with value `v`, where mask `m` says which bits the access carries. -/
def State.writeField (s : State) (k : Nat) (m v : Word64) (f : Nat × Nat × Acc) : State :=
  let fm := bitMask f.1 f.2.1 &&& m
  match f.2.2 with
  | .rw => s.setReg k ((s.reg k &&& ~~~fm) ||| (v &&& fm))
  | .w1c => s.setReg k (s.reg k &&& ~~~(v &&& fm))
  | .rwl => if fm = 0 then s
    else if s.on HIF_GSTATUS_BOOT_LOCK then s.wr HIF_GSTATUS_LOCK_VIOL 1
    else s.setReg k ((s.reg k &&& ~~~fm) ||| (v &&& fm))
  | .ro => s
  | .wo => s
  | .rc => s

/-- Every field of a row written. -/
def State.writeFields (s : State) (d : RegDesc) (k : Nat) (m v : Word64) : State :=
  d.fields.foldl (fun s f => s.writeField k m v f) s

/-- The state that a meaning answers; the state before where it stops. -/
def outState (s : State) : Out → State
  | .next t => t
  | _ => s

/-- A queue slot's register written (R111): slot `d`, offset `r` in it. -/
def State.writeSlotReg (s : State) (x : RegDesc) (off d r v : Nat) : State :=
  if r = 0 then s.doorbell d (v % 2 ^ 16)
  else if r = 8 then s.cqTail d (v % 2 ^ 16)
  else if r = 0x14 then (if v.testBit 1 then s.flushQueue d else if v.testBit 0 then s.resumeQueue d else s)
  else s.writeFields x off 0xFFFFFFFF (BitVec.ofNat 64 v)

/-- A mailbox's 32-bit register written (R80, R83): mailbox `m`, offset `r` in it. -/
def State.writeMbxReg (s : State) (x : RegDesc) (off m r v : Nat) : State :=
  if r = 0x200 then (if v.testBit 0 then s.mbxDoorbell m else s)
  else if r = 0x208 then (if v.testBit 0 then s.mbxAck m else s)
  else if r = 0x20C then (if v.testBit 0 then s.mbxCancel m else s)
  else s.writeFields x off 0xFFFFFFFF (BitVec.ofNat 64 v)

/-- SWM_CTL written (R503, R508, R509): each port enabled or disabled. -/
def State.writeSwCtl (s : State) (v : Nat) : State :=
  (List.range 4).foldl (fun s n => if v.testBit n then s.swEnable n else s.swDisable n) s

/-- CMB_SPD_ADDR written (R197): UE cleared by a 1, ADDR stored, GO starts a debug read. -/
def State.writeSpdAddr (s : State) (v : Nat) : State :=
  let s1 := if v.testBit 25 then s.wr CMB_SPD_ADDR_UE 0 else s
  if v.testBit 23 then s1.startSpdRead (bitsOf v 5 18) else s1.wr CMB_SPD_ADDR_ADDR (bitsOf v 5 18)

/-- A 32-bit register written with a word. -/
def State.writeReg32 (s : State) (x : RegDesc) (off v : Nat) : State :=
  if s.regLives off = false then s
  else if 0x1000 ≤ off ∧ off < 0x2000 then s.writeSlotReg x off ((off - 0x1000) / 0x20) ((off - 0x1000) % 0x20) v
  else if 0x21000 ≤ off ∧ off < 0x31000 then s.writeMbxReg x off ((off - 0x21000) / 0x1000) (off % 0x1000) v
  else if off = 0x28 then s.writeIMask v
  else if off = 0x42008 then (if s.on EVT_CTRL_ENABLE then s else s.writeFields x off 0xFFFFFFFF (BitVec.ofNat 64 v))
  else if off = 0x4200C then s.writeEvtCtrl v
  else if off = 0x42014 then s.writeEvtTail v
  else if off = 0x44004 then s.writeThmCtl v
  else if off = 0x44008 then s.writeLimits v
  else if off = 0x44014 then s.writeCoolant (v % 2 ^ 16)
  else if off = 0x4401C then s.writeBase (v % 2 ^ 16)
  else if off = 0x46008 then
    (if v.testBit 0 then outState s (execConfigRecordWrite s)
     else if v.testBit 1 then outState s (execConfigRecordRead s) else s)
  else if off = 0x4B004 then (if v.testBit 0 then outState s (execBwrClear s) else s)
  else if off = 0x4C000 then s.writeSwId false v
  else if off = 0x4C004 then s.writeSwId true v
  else if off = 0x4C008 then s.writeSwCtl v
  else if off = 0x4C038 then s.writeExport (s.rd SWM_EXP_SEL_INDEX) v
  else if 0x58000 ≤ off ∧ off < 0x5C000 ∧ off % 0x100 = 4 then
    (if v.testBit 0 then s.clearHolds ((off - 0x58000) / 0x100) else s)
  else if 0x58000 ≤ off ∧ off < 0x5C000 ∧ off % 0x100 = 0xF0 then
    s.writeDbg ((off - 0x58000) / 0x100) (v.testBit 0) (v.testBit 1) (v.testBit 2)
  else if off = 0x5C004 then s.writeSpdAddr v
  else s.writeFields x (s.regKey off) 0xFFFFFFFF (BitVec.ofNat 64 v)

/-- A 64-bit register written, in the bits that `m` carries; EVT_BASE holds still while the ring is enabled (R98). -/
def State.writeReg64 (s : State) (x : RegDesc) (off : Nat) (m v : Word64) : State :=
  if s.regLives off = false ∨ (off = 0x42000 ∧ s.on EVT_CTRL_ENABLE = true) then s
  else s.writeFields x (s.regKey off) m v

/-! ## 32-bit accesses (R10) -/

/-- The read latch and the write hold of a register. -/
def State.latchOf (s : State) (off : Nat) : Option (BitVec 32) := tget none s.hif.latch off
def State.holdOf (s : State) (off : Nat) : Option (BitVec 32) := tget none s.hif.hold off
def State.setLatch (s : State) (off : Nat) (v : Option (BitVec 32)) : State :=
  { s with hif := { s.hif with latch := tset none s.hif.latch off v } }
def State.setHold (s : State) (off : Nat) (v : Option (BitVec 32)) : State :=
  { s with hif := { s.hif with hold := tset none s.hif.hold off v } }

/-- A 32-bit write at a 4-byte aligned offset: a low half is held, a high half takes effect with any held low half. -/
def State.write32 (s : State) (off v : Nat) : State :=
  match findReg off with
  | none => s
  | some (x, i) =>
    let base := x.offAt i
    if x.wide = false then s.writeReg32 x off (v % 2 ^ 32)
    else if off = base then s.setHold base (some (BitVec.ofNat 32 v))
    else match s.holdOf base with
      | some l => (s.setHold base none).writeReg64 x base (BitVec.ofNat 64 (2 ^ 64 - 1)) (BitVec.ofNat 64 (l.toNat + v % 2 ^ 32 * 2 ^ 32))
      | none => s.writeReg64 x base (BitVec.ofNat 64 (2 ^ 64 - 2 ^ 32)) (BitVec.ofNat 64 (v % 2 ^ 32 * 2 ^ 32))

/-- RC fields of a row return to their reset value, 0 (R6). -/
def State.clearRc (s : State) (x : RegDesc) (off : Nat) : State :=
  x.fields.foldl (fun s f =>
    if f.2.2 = Acc.rc then s.setReg (s.regKey off) (s.reg (s.regKey off) &&& ~~~(bitMask f.1 f.2.1)) else s) s

/-- The buffer of mailbox bytes that a BAR0 offset lies in (R80): the mailbox and the offset in MBX_REQ and MBX_RSP together. -/
def mbxBuffer (off : Nat) : Option (Nat × Nat) :=
  if 0x21000 ≤ off ∧ off < 0x31000 ∧ off % 0x1000 < 0x200 then some ((off - 0x21000) / 0x1000, off % 0x1000) else none

/-- The 512 bytes of MBX_REQ and MBX_RSP of a mailbox. -/
def State.mbxBytes (s : State) (m : Nat) : List Byte := padTo 256 (s.mbx m).req ++ padTo 256 (s.mbx m).rsp

/-- A 32-bit read at a 4-byte aligned offset: the state and the word.  The low half of a 64-bit register latches the high half;
the low half of TIM_NOW latches TIM_FRAC too (R347). -/
def State.read32 (s : State) (off : Nat) : State × Nat :=
  match mbxBuffer off with
  | some (m, r) => (s, field (s.mbxBytes m) r 4)
  | none => match findReg off with
    | none => (s, 0)
    | some (x, i) =>
      let base := x.offAt i
      let v := s.regValue x base
      if x.wide then
        if off = base then
          let s1 := s.setLatch base (some (v.extractLsb' 32 32))
          (if base = 0x43000 then s1.setLatch 0x43008 (some (BitVec.ofNat 32 (s.rd TIM_FRAC_FRAC))) else s1, v.toNat % 2 ^ 32)
        else match s.latchOf base with
          | some h => (s.setLatch base none, h.toNat)
          | none => (s, v.toNat / 2 ^ 32)
      else match s.latchOf off with
        | some h => (s.setLatch off none, h.toNat)
        | none => (if s.regLives off then s.clearRc x off else s, v.toNat % 2 ^ 32)

/-! ## BAR4 (R72, R96): the MSI-X table, 16 bytes for each vector, and the pending bits at 0x8000.  A BAR4 offset `x` stands here as
the offset 0x400000 + `x` (log entry 103). -/

/-- A vector's mask bit is cleared; a pending message is sent where MSI-X is enabled (R96). -/
def State.unmaskVector (s : State) (v : Nat) : State :=
  let h := { s.hif with msixMask := s.hif.msixMask &&& ~~~(1#64 <<< v) }
  if s.hif.msixPend.getLsbD v ∧ s.hif.msixEnable = true then
    { s with hif := { h with msixPend := h.msixPend &&& ~~~(1#64 <<< v), msixSent := h.msixSent ++ [v] } }
  else { s with hif := h }

/-- A word of BAR4. -/
def State.bar4Read (s : State) (x : Nat) : Nat :=
  if x < 0x400 then
    (if x % 16 = 12 then (if s.hif.msixMask.getLsbD (x / 16) then 1 else 0)
     else tget 0 s.hif.msixTable (x / 16) / 2 ^ (8 * (x % 16)) % 2 ^ 32)
  else if x = 0x8000 then s.hif.msixPend.toNat % 2 ^ 32
  else if x = 0x8004 then s.hif.msixPend.toNat / 2 ^ 32
  else 0

/-- A word written to BAR4: a table entry's address, data or mask bit; the pending bits are read-only. -/
def State.bar4Write (s : State) (x v : Nat) : State :=
  if 0x400 ≤ x then s
  else if x % 16 = 12 then
    (if v % 2 = 0 then s.unmaskVector (x / 16) else { s with hif := { s.hif with msixMask := s.hif.msixMask ||| (1#64 <<< (x / 16)) } })
  else
    let e := padTo 12 (leBytes 12 (tget 0 s.hif.msixTable (x / 16)))
    { s with hif := { s.hif with msixTable := tset 0 s.hif.msixTable (x / 16) (leNat (patch e (x % 16) (leBytes 4 v))) } }

/-! ## Accesses (R533) -/

/-- Whether an access of `n` bytes at a BAR0 offset has one of the forms of R533. -/
def accessOk (off n : Nat) : Bool :=
  decide ((n = 4 ∧ off % 4 = 0) ∨ (n = 8 ∧ off % 8 = 0)) ||
    (match mbxBuffer off with
      | some (_, r) => decide (4 ≤ n ∧ n ≤ 256 ∧ off % 4 = 0 ∧ r / 256 = (r + n - 1) / 256)
      | none => false)

/-- A write of bytes to BAR0; a write that R533 refuses sets ACC_ERR. -/
def State.regWrite (s : State) (off : Nat) (bs : List Byte) : State :=
  if accessOk off bs.length = false then s.wr HIF_GSTATUS_ACC_ERR 1
  else if 0x400000 ≤ off then
    let s1 := s.bar4Write (off - 0x400000) (leNat (bs.take 4))
    if bs.length = 8 then s1.bar4Write (off - 0x400000 + 4) (leNat (bs.drop 4)) else s1
  else match mbxBuffer off with
    | some (m, r) => if r < 256 then s.mbxWrite m r bs else s
    | none =>
      if bs.length = 4 then s.write32 off (leNat bs)
      else match findReg off with
        | some (x, i) =>
          if x.wide then s.writeReg64 x (x.offAt i) (BitVec.ofNat 64 (2 ^ 64 - 1)) (BitVec.ofNat 64 (leNat bs))
          else (s.write32 off (leNat (bs.take 4))).write32 (off + 4) (leNat (bs.drop 4))
        | none => (s.write32 off (leNat (bs.take 4))).write32 (off + 4) (leNat (bs.drop 4))

/-- A read of the whole register at a BAR0 offset, 64 bits in one access where it is that wide: what it returns, and the RC fields
it clears.  A misaligned one returns 0 and sets ACC_ERR. -/
def State.regRead (s : State) (off : Nat) : State × List Byte :=
  if off % 4 ≠ 0 then (s.wr HIF_GSTATUS_ACC_ERR 1, leBytes 4 0)
  else if 0x400000 ≤ off then (s, leBytes 4 (s.bar4Read (off - 0x400000)))
  else match findReg off with
    | some (x, i) =>
      if x.wide ∧ off = x.offAt i then (s, leBytes 8 (s.regValue x off).toNat)
      else ((s.read32 off).1, leBytes 4 (s.read32 off).2)
    | none => ((s.read32 off).1, leBytes 4 (s.read32 off).2)

end Sys2Proof.Machine
end

