-- ==== Sys2Proof/Machine/HostCmds.lean ====
section
/-!
DEFINITION. The host's commands (R6-R10, R73-R75, R96-R102, R533-R540): the DRAM window, register accesses that have no row of
their own, MSI-X, the event ring, AER and the end of the firmware.
-/
namespace Sys2Proof.Machine

/-! ## The DRAM window (R73-R75) -/

/-- WINDOW_READ (R75): `n` bytes at offset `x` of BAR2.  Its requests pass or fail their checks burst by burst (R293, R327, R328). -/
def execWindowRead (x n : Nat) (s : State) : Out :=
  if s.inWindow x n then .next (s.hostAccess { addr := s.winAddr x, size := n }) else .next s

/-- WINDOW_WRITE (R75): bytes written at offset `x` of BAR2, or dropped. -/
def execWindowWrite (x : Nat) (bytes : List Byte) (s : State) : Out :=
  if s.inWindow x bytes.length then .next (s.hostAccess { addr := s.winAddr x, size := bytes.length, bytes := some bytes }) else .next s

/-! ## Registers (R6, R10, R533) -/

/-- REGISTER_WRITE (R6): bytes written at BAR0 offset `off`. -/
def execRegisterWrite (off : Nat) (bytes : List Byte) (s : State) : Out := fin (s.regWrite off bytes)

/-- RC_READ (R6): the register at `off` read whole; its RC fields are cleared. -/
def execRcRead (off : Nat) (s : State) : Out := .next ((s.regRead off).1.hostGets (.data (s.regRead off).2))

/-- A 32-bit read at `off`, refused where it is misaligned (R533). -/
def State.hostRead32 (s : State) (off : Nat) : State :=
  if off % 4 ≠ 0 then (s.wr HIF_GSTATUS_ACC_ERR 1).hostGets (.data (leBytes 4 0))
  else (s.read32 off).1.hostGets (.data (leBytes 4 (s.read32 off).2))

/-- REG64_LOW_READ (R10): a 32-bit read of the low half of a 64-bit register. -/
def execReg64LowRead (off : Nat) (s : State) : Out := .next (s.hostRead32 off)

/-- REG64_HIGH_READ (R10): a 32-bit read of the high half; `off` is its own offset. -/
def execReg64HighRead (off : Nat) (s : State) : Out := .next (s.hostRead32 off)

/-- REG64_LOW_WRITE (R10): a 32-bit write of the low half of a 64-bit register. -/
def execReg64LowWrite (off : Nat) (v : Word) (s : State) : Out := fin (s.regWrite off (leBytes 4 v.toNat))

/-- REG64_HIGH_WRITE (R10): a 32-bit write of the high half; `off` is its own offset. -/
def execReg64HighWrite (off : Nat) (v : Word) (s : State) : Out := fin (s.regWrite off (leBytes 4 v.toNat))

/-- INVALID_REGISTER_ACCESS (R533): a read returns 0, a write changes nothing, and ACC_ERR is set. -/
def execInvalidRegisterAccess (off size : Nat) (s : State) : Out :=
  if accessOk off size then .next s
  else .next ((s.wr HIF_GSTATUS_ACC_ERR 1).hostGets (.data (leBytes size 0)))

/-! ## MSI-X and vector 17 (R96, R537, R538) -/

/-- MSIX_UNMASK (R96): the vector's mask bit is cleared with MSI-X enabled; a pending message is sent. -/
def execMsixUnmask (v : Nat) (s : State) : Out :=
  if 64 ≤ v then .next s else .next ({ s with hif := { s.hif with msixEnable := true } }.unmaskVector v)

/-- IMASK_WRITE (R538). -/
def execImaskWrite (v : Word) (s : State) : Out := .next (s.writeIMask v.toNat)

/-- AER_ERROR (R538): `kind` 1 correctable, 2 uncorrectable non-fatal, 3 uncorrectable fatal. -/
def execAerError (kind : Nat) (s : State) : Out :=
  if kind = 0 ∨ 3 < kind then .next s
  else
    let b := HIF_ICAUSE_AER_COR.bit (kind - 1)
    let s1 := s.wr b 1
    if s.on b = false ∧ s.on (HIF_IMASK_MASK.bit (kind - 1)) = false then .next (s1.msix 17) else .next s1

/-- FW_FATAL (R96, R102): the firmware stops serving the Hive Interface; `written` says that its fault handler could write the
event. -/
def execFwFatal (fault : Word) (written : Bool) (s : State) : Out :=
  if s.hif.fwStopped then .next s
  else
    let s1 := { s with hif := { s.hif with fwStopped := true } }
    let s2 := (s1.wr HIF_STATUS_FW_FATAL 1).msix 17
    if written then .next (s2.event 0xFF 0x1F 0 0 (leBytes 4 fault.toNat ++ leBytes 4 (s.rd HIF_HEARTBEAT_COUNT))) else .next s2

/-! ## The event ring (R97-R99) -/

/-- EVT_ENABLE (R98): a write of EVT_CTRL. -/
def execEvtEnable (v : Word) (s : State) : Out := .next (s.writeEvtCtrl v.toNat)

/-- EVT_TAIL_WRITE (R98). -/
def execEvtTailWrite (v : Word) (s : State) : Out := .next (s.writeEvtTail v.toNat)

/-- Whether the ring takes a record (R98). -/
def State.ringRoom (s : State) : Bool :=
  s.on EVT_CTRL_ENABLE && (s.rd EVT_HEAD_INDEX + 1) % 2 ^ s.rd EVT_SIZE_LOG2N != s.rd EVT_TAIL_INDEX

/-- Vector 16 after a record (R98): at once, or at the end of the delay that the first record starts. -/
def State.ringMessage (s : State) : State :=
  let c := s.rd EVT_CTRL_COALESCE
  if c = 0 then s.msix 16
  else if s.hif.evtDelay.isNone then { s with hif := { s.hif with evtDelay := some (s.tclk + c * 1250) } }
  else s

/-- The OVERFLOW record, created as soon as the buffer has room after drops (R99). -/
def State.overflowRecord (s : State) : State :=
  if s.hif.evtDrops = 0 ∨ 512 ≤ evtUsed s.hif.evtBuf then s
  else
    let n := s.hif.evtDrops
    ({ s with hif := { s.hif with evtDrops := 0 } }).event 1 0x1F 0 0 (leBytes 4 (min n (2 ^ 32 - 1)))

/-- HEAD after a record (R98): on the wrap PHASE inverts. -/
def State.advanceHead (s : State) : State :=
  let h := (s.rd EVT_HEAD_INDEX + 1) % 2 ^ s.rd EVT_SIZE_LOG2N
  let s1 := s.wr EVT_HEAD_INDEX h
  if h = 0 then s1.wr EVT_HEAD_PHASE (1 - s.rd EVT_HEAD_PHASE) else s1

/-- EVENT_RING_WRITE (R98, R99): the oldest record of the buffer goes to the ring. -/
def execEventRingWrite (s : State) : Out :=
  match s.hif.evtBuf with
  | [] => .next s
  | r :: rest =>
    if s.ringRoom = false then .next s
    else
      let a := s.rd EVT_BASE_ADDR * 4096 + 32 * s.rd EVT_HEAD_INDEX
      let s1 := (s.hostWrite a (r.toBytes (s.rd EVT_HEAD_PHASE))).advanceHead
      .next ({ s1 with hif := { s1.hif with evtBuf := rest } }.overflowRecord.ringMessage)

/-- EVENT_COALESCE_EXPIRY (R98): the delay ends. -/
def execEventCoalesceExpiry (s : State) : Out :=
  match s.hif.evtDelay with
  | none => .next s
  | some t =>
    let s1 := s.waitTo t
    .next ({ s1 with hif := { s1.hif with evtDelay := none } }.msix 16)

end Sys2Proof.Machine
end

