-- ==== Sys2Proof/Machine/JobCmds.lean ====
section
/-!
DEFINITION. The commands of jobs, forager records, sequences and steps, and the honey allocator (R121-R123, R233-R240, R247-R258,
R270-R279).  Records are named by their doorbell slot `d`, jobs by their key `k`.
-/
namespace Sys2Proof.Machine

/-! ## Forager records (R121-R123) -/

/-- A forager record enters its ready list. -/
def State.runFg (s : State) (d op : Nat) : State :=
  s.runOp d op (fun _ => true) (s.fgCheck d) fun s r => s.setJob (jobKey d r.seq) (s.mkForagerJob d r)

/-- FG_COPY (R121, R122). -/
def execFgCopy (d : Nat) (s : State) : Out := fin (s.runFg d 0x30)

/-- FG_FILL (R121, R122). -/
def execFgFill (d : Nat) (s : State) : Out := fin (s.runFg d 0x31)

/-- FORAGER_RECORD_DONE (R123). -/
def execForagerRecordDone (k : Nat) (s : State) : Out := s.unlessStalled fun s =>
  let j := s.job k
  if j.live ∧ j.phase = .running ∧ j.forager = true ∧ s.jobClocked j = true then fin (s.endForager k) else .next s

/-- The budget of a running job passes, unless it is paused under DEBUG (R273). -/
def State.budgetPasses (s : State) (k : Nat) : State :=
  let j := s.job k
  (s.elapse (j.budget - j.count)).budgetFault k

/-- FORAGER_BUDGET_EXPIRY (R123). -/
def execForagerBudgetExpiry (k : Nat) (s : State) : Out :=
  let j := s.job k
  if j.live ∧ j.phase = .running ∧ j.forager = true then fin (s.budgetPasses k) else .next s

/-! ## Jobs (R270-R279) -/

/-- The live-state entries that a record names read, by the record's requests (R272, R320). -/
def State.readLive (d : Nat) (s : State) (r : Rec) : State :=
  let b := r.bytes
  let n := bitsOf (field b 44 2) 0 12
  if s.objFits (field b 36 4) (64 * field b 40 4) (16 * n) then (s.objLoad (s.recWho d r 0x41) (field b 36 4) (64 * field b 40 4) (16 * n)).1
  else s

/-- JOB_RUN (R270, R272): the record enters its colony's ready list.  `compiled` and `mode` are the comb count and CACHE_MODE that the program image
was compiled for. -/
def execJobRun (d compiled mode : Nat) (s : State) : Out := s.unlessStalled fun s0 =>
  let s := s0.checkReads d 0x10 (fun _ => true) (State.readLive d)
  fin (s.runOp d 0x10 (fun _ => true) (fun r => s.jobCheck (s.recColony d r) r.bytes compiled mode) fun s r =>
    s.setJob (jobKey d r.seq) (s.mkJob d r mode false))

/-- JOB_ASSIGN (R276-R279): the head of ready list `c` (16: the records of queues with no colony) takes its combs, once the combs
serve at all (R46, R52, R59, R60); one that needs more than its colony can reach faults (R269), and a forager record does not start
while its completion ring has no room (R127). -/
def execJobAssign (c : Nat) (s : State) : Out :=
  match earliest (s.readyList c) with
  | none => .next s
  | some (k, j) =>
    if s.combsServe = false then .next s
    else if s.unreachable c j then fin (s.faultJob k E_NORES)
    else if s.mayStart c k j = false then .next s
    else if j.forager = true ∧ s.cqRoom j.slot (s.queue j.slot) = false then .next (s.wr (HIF_QSTAT_CQ_FULL.idx j.slot) 1)
    else fin (s.assignJob c k j)

/-- JOB_START (R273, R276): the switch ends, of a job that is not held in Low power or by a lost clock (R46, R60). -/
def execJobStart (x : JobBegin) (s : State) : Out := s.unlessStalled fun s =>
  let j := s.job x.job
  if j.live ∧ j.phase = .switching ∧ s.switchEnds j = true ∧ s.workHeld = false ∧ s.jobClocked j = true then fin (s.startJob x.job x.est)
  else .next s

/-- JOB_END (R273, R275). -/
def execJobEnd (k : Nat) (s : State) : Out := s.unlessStalled fun s =>
  let j := s.job k
  if j.live ∧ j.phase = .running ∧ j.forager = false ∧ j.combs.all s.combEnded = true ∧ s.jobClocked j = true then fin (s.endJob k)
  else .next s

/-- JOB_SAVE_DONE (R275); the combs save while they have their clock (R46). -/
def execJobSaveDone (k : Nat) (s : State) : Out := s.unlessStalled fun s =>
  let j := s.job k
  if j.live ∧ j.phase = .saving ∧ s.jobClocked j = true then
    let s1 := s.waitTo j.savedAt
    let mine := j.combs.filter fun g => tget 0 s1.unsaved g == k + 1
    fin ((mine.foldl State.saveComb s1).finishJob k j.readyAt)
  else .next s

/-- JOB_BUDGET_EXPIRY (R273). -/
def execJobBudgetExpiry (k : Nat) (s : State) : Out :=
  let j := s.job k
  if j.live ∧ j.phase = .running ∧ j.forager = false ∧ s.jobHalted j = false then fin (s.budgetPasses k) else .next s

/-- JOB_RELEASE (R274). -/
def execJobRelease (k : Nat) (s : State) : Out :=
  let j := s.job k
  if j.live ∧ j.phase = .releasing then fin (s.releaseJob k) else .next s

/-- BE_AGEING_EXPIRY (R278): the head of a best-effort list has waited 20 ms; `poolMayStart` then counts it as aged. -/
def execBeAgeingExpiry (c : Nat) (s : State) : Out :=
  match earliest (s.readyList c) with
  | none => .next s
  | some (_, j) => if s.poolLists.contains c then .next (s.waitTo (j.readyAt + ageingTicks)) else .next s

/-! ## The honey allocator (R233-R240) -/

/-- The pending request of a step with the lowest item index; ties to the earlier (R233). -/
def lowestItem (job : Nat) : List AllocReq → Option AllocReq
  | [] => none
  | r :: rs =>
    let rest := lowestItem job rs
    match r.item with
    | none => rest
    | some i =>
      if r.job ≠ job then rest
      else match rest with
        | none => some r
        | some x => if x.item.getD 0 < i then some x else some r

/-- The request that the allocator picks (R233). -/
def pickReq (l : List AllocReq) : Option AllocReq :=
  match l with
  | [] => none
  | r :: _ => if r.step ∧ r.item.isSome = true then lowestItem r.job l else some r

/-- A request served: the page it gets, or none (R234, R237, R240). -/
def State.serveAlloc (s : State) (r : AllocReq) : State :=
  let s1 := { s with honey := { s.honey with reqs := s.honey.reqs.erase r } }
  match (s1.comb r.comb).attn with
  | none => s1
  | some x =>
    let a := AttnDesc.ofBytes x.record
    let q := s1.attnSeq a (s1.combWho r.comb).colony
    match s1.allocate { s1.combWho r.comb with honey := true, source := 0x42 } q (r.comb / 16) r.lpage a.group with
    | (s2, some n) => s2.modComb r.comb fun c => { c with attn := some { x with got := x.got ++ [(r.lpage, n)] } }
    | (s2, none) => s2.attnNoPage r.comb

/-- ALLOCATOR_SERVE (R233); the allocator of the Eztos die is held with the engines (R46). -/
def execAllocatorServe (s : State) : Out := s.unlessStalled fun s =>
  match if s.pwr.enginesHeld then none else pickReq s.honey.reqs with
  | none => .next s
  | some r => .next (s.serveAlloc r)

/-! ## Sequences (R244-R251) -/

/-- The next OWNER: the counter skips 0 and values in use (R244). -/
def State.nextOwner (s : State) : Nat → Nat → Nat
  | 0, n => n
  | fuel + 1, n =>
    let m := if n % 2 ^ 24 = 0 then 1 else n % 2 ^ 24
    if (s.seqOf m).isSome then s.nextOwner fuel (m + 1) else m

/-- The sequence that a SEQ_JOIN record describes, for a colony. -/
def State.joinSeq (s : State) (b : List Byte) (c owner : Nat) : Seq :=
  let st := s.stepOf c
  { state := 1, pin := bitsOf (field b 26 1) 5 1 == 1, colony := c, kvFmt := bitsOf (field b 26 1) 0 3,
    dcode := bitsOf (field b 26 1) 3 2, g := bitsOf (field b 24 2) 0 12, owner := owner, list := field b 16 4,
    listOff := field b 20 4, npos := field b 32 4, limit := field b 40 4, pend := field b 36 4,
    lastStep := (st.s + 2 ^ 32 - 1) % 2 ^ 32, joinSeq := s.brood.joinSeq, user := field b 44 4,
    fwOnly := bitsOf (field b 26 1) 6 1 == 1 }

/-- Whether a sequence goes to the firmware table (R245). -/
def State.joinsFw (s : State) (b : List Byte) : Bool :=
  bitsOf (field b 26 1) 6 1 == 1 || (s.freeBrood.isNone && bitsOf (field b 26 1) 7 1 == 1)

/-- The first free index of the firmware table. -/
def State.freeFw (s : State) : Option Nat := firstGap 16384 0 (s.brood.fw.map (·.1))

/-- The place that a SEQ_JOIN takes: whether in the firmware table, and its index (R245). -/
def State.joinPlace (s : State) (b : List Byte) : Option (Bool × Nat) :=
  if s.joinsFw b then s.freeFw.map fun i => (true, i) else s.freeBrood.map fun i => (false, i)

/-- Checks 1 to 7 of SEQ_JOIN (R249). -/
def State.joinCheck (s : State) (c : Nat) (b : List Byte) : Nat × Nat :=
  let q := s.joinSeq b c 0
  let t := pageT q.kvFmt q.dcode
  let par := bitsOf (field b 28 4) 0 24
  let parent := if par = 0 then none else s.seqOf par
  let parentOk := match parent with
    | some (_, _, p) => p.colony == c && p.g == q.g && p.kvFmt == q.kvFmt && p.dcode == q.dcode && decide (q.npos ≤ p.npos)
    | none => par == 0
  let sized32 (x : Nat) : Bool := x != 0 && x != 2 ^ 32 - 1
  let c1 := firstField
    [ (q.g != 0 && q.g != 4095, E_LEN, 24), (sized32 q.pend, E_LEN, 36), (sized32 q.limit, E_LEN, 40),
      (decide (3 ≤ q.kvFmt ∧ q.kvFmt ≤ 6), E_FORMAT, 26), ((s.objOf q.list).isSome, E_HANDLE, 16),
      (decide (q.listOff % 4 = 0), E_ALIGN, 20), (decide (q.dcode ≤ 2), E_RANGE, 26),
      ((par == 0) == (q.npos == 0), E_RANGE, 28), (parentOk, E_RANGE, 28), (decide (q.npos % t = 0), E_RANGE, 32),
      (decide (q.npos + q.pend ≤ q.limit), E_RANGE, 40), (s.objFits q.list q.listOff (4 * q.entries), E_RANGE, 20),
      ((s.joinPlace b).isSome, E_NORES, 0xFFFF) ]
  if c1.1 ≠ 0 then c1
  else
    let r := s.sharePages q (q.npos / t * q.g) []
    (r.2, if r.2 = 0 then 0xFFFF else 16)

/-- A SEQ_JOIN that passed its checks (R244, R245, R247, R248). -/
def State.joinEffect (s : State) (d : Nat) (r : Rec) : State :=
  let c := s.recColony d r
  let owner := s.nextOwner 32768 s.brood.nextOwner
  let q := s.joinSeq r.bytes c owner
  match s.joinPlace r.bytes with
  | none => s
  | some (fw, i) =>
    let s1 := (s.sharePages q (q.npos / pageT q.kvFmt q.dcode * q.g) []).1
    let s2 := s1.setSeq fw i q
    let s3 := { s2 with brood := { s2.brood with nextOwner := (owner + 1) % 2 ^ 24, joinSeq := (s2.brood.joinSeq + 1) % 2 ^ 32 } }
    s3.completeRec d r.seq (owner + if fw then 2 ^ 24 else 0)

/-- The entries of the prefix that a SEQ_JOIN shares read (R249, R320). -/
def State.readPrefix (d : Nat) (s : State) (r : Rec) : State :=
  let c := s.recColony d r
  let q := s.joinSeq r.bytes c 0
  if s.objFits q.list q.listOff (4 * q.entries) then
    s.readEntries (allocWho r.label c) q 0 (min q.entries (q.npos / pageT q.kvFmt q.dcode * q.g))
  else s

/-- SEQ_JOIN (R248, R249). -/
def execSeqJoin (d : Nat) (s : State) : Out := s.unlessStalled fun s0 =>
  let s := s0.checkReads d 0x20 (fun _ => true) (State.readPrefix d)
  fin (s.runOp d 0x20 (fun _ => true) (fun r => s.joinCheck (s.recColony d r) r.bytes) fun s r => s.joinEffect d r)

/-- Whether OWNER is live and of the colony (R250). -/
def State.ownerOk (s : State) (c : Nat) (b : List Byte) : Bool :=
  match s.seqOf (bitsOf (field b 16 4) 0 24) with
  | some (_, _, q) => q.colony == c
  | none => false

/-- A SEQ_FINISH (`op` 0) or SEQ_CTL that passed its checks: at once, or after the update of the step in which the sequence
holds an item (R250, R251). -/
def State.seqEffect (s : State) (op d : Nat) (r : Rec) : State :=
  let owner := bitsOf (field r.bytes 16 4) 0 24
  let c := s.recColony d r
  let st := s.stepOf c
  if st.job.isSome ∧ st.items.any (fun i => i.1 == owner) = true then
    s.setStep c { st with deferred := st.deferred ++ [(d, r.seq, op, owner)] }
  else
    let x := s.seqOp (s.recWho d r 0x42) op owner
    x.1.completeRec d r.seq x.2

/-- SEQ_FINISH (R247, R250, R251). -/
def execSeqFinish (d : Nat) (s : State) : Out := s.unlessStalled fun s =>
  fin (s.runOp d 0x21 (fun _ => true) (fun r => firstField [(s.ownerOk (s.recColony d r) r.bytes, E_RANGE, 16)])
    fun s r => s.seqEffect 0 d r)

/-- A SEQ_CTL with OP `op`; one with an OP that is not assigned fails under any of its commands (log entry 68). -/
def State.seqCtl (s : State) (op d : Nat) : State :=
  let opOf (r : Rec) : Nat := field r.bytes 20 1
  let valid (r : Rec) : Bool := decide (1 ≤ opOf r ∧ opOf r ≤ 5)
  s.runOp d 0x22 (fun r => opOf r == op || !(valid r))
    (fun r => firstField [(s.ownerOk (s.recColony d r) r.bytes, E_RANGE, 16), (valid r, E_RANGE, 20)]) fun s r => s.seqEffect op d r

/-- SEQ_CTL_PIN (R247, R235). -/
def execSeqCtlPin (d : Nat) (s : State) : Out := s.unlessStalled fun s => fin (s.seqCtl 1 d)

/-- SEQ_CTL_UNPIN (R247, R235). -/
def execSeqCtlUnpin (d : Nat) (s : State) : Out := s.unlessStalled fun s => fin (s.seqCtl 2 d)

/-- SEQ_CTL_HOLD (R247). -/
def execSeqCtlHold (d : Nat) (s : State) : Out := s.unlessStalled fun s => fin (s.seqCtl 3 d)

/-- SEQ_CTL_RELEASE (R247). -/
def execSeqCtlRelease (d : Nat) (s : State) : Out := s.unlessStalled fun s => fin (s.seqCtl 4 d)

/-- SEQ_CTL_RESUME (R247). -/
def execSeqCtlResume (d : Nat) (s : State) : Out := s.unlessStalled fun s => fin (s.seqCtl 5 d)

/-! ## Steps (R252-R258) -/

/-- STEP_RUN (R252, R253): the checks of JOB_RUN, then its own. -/
def execStepRun (d compiled mode : Nat) (s : State) : Out := s.unlessStalled fun s0 =>
  let s := s0.checkReads d 0x23 (fun _ => true) (State.readLive d)
  fin (s.runOp d 0x23 (fun _ => true)
    (fun r =>
      let c := s.jobCheck (s.recColony d r) r.bytes compiled mode
      if c.1 ≠ 0 then c else s.stepCheck r.bytes)
    fun s r => s.setJob (jobKey d r.seq) (s.mkJob d r mode true))

/-- STEP_BUILD_DONE (R253-R256): a build ends; it starts only after the previous step of the colony has finished its update. -/
def execStepBuildDone (k : Nat) (s : State) : Out := s.unlessStalled fun s =>
  let j := s.job k
  if j.live ∧ j.phase = .building ∧ (s.stepOf (j.colony.getD 0)).job = none then fin (s.buildStep k) else .next s

end Sys2Proof.Machine
end

