-- ==== Sys2Proof/Machine/Planner.lean ====
section
/-!
DEFINITION. The motion planner: its occupancy banks (R383-R386), the primitive library (R390-R392), the search (R395-R397), the
check of a trajectory against occupancy (R400), the stop trajectory (R401) and the output (R403).
-/
namespace Sys2Proof.Machine

/-! ## The primitive library (R390-R392) -/

/-- A primitive record (R391). -/
structure Prim where
  h0 : Nat
  rev : Bool
  h1 : Nat
  dx : Int
  dy : Int
  k0 : Nat
  k1 : Nat
  aOut : Nat
  aIn : Nat
  nseg : Nat
  len : Nat
  dur : Nat
  curv : Nat
  run0 : Nat
  nr : Nat
  deriving DecidableEq, Repr

/-- A signed byte. -/
def sbyte (x : Nat) : Int := if x < 128 then x else (x : Int) - 256

/-- The 32 bytes of a primitive record, read (R391). -/
def Prim.ofBytes (b : List Byte) : Prim :=
  { h0 := bitsOf (field b 0 1) 0 7, rev := bitsOf (field b 0 1) 7 1 == 1, h1 := bitsOf (field b 1 1) 0 7,
    dx := sbyte (field b 2 1), dy := sbyte (field b 3 1), k0 := bitsOf (field b 4 1) 0 4, k1 := bitsOf (field b 4 1) 4 4,
    aOut := bitsOf (field b 5 1) 0 3, aIn := field b 6 1, nseg := bitsOf (field b 7 1) 0 6, len := field b 8 2,
    dur := field b 10 2, curv := field b 12 2, run0 := field b 16 4, nr := field b 20 2 }

/-- The primitives of a library, in table order. -/
def libPrims (l : List Byte) : List Prim :=
  (List.range (libNPrim l)).map fun i => Prim.ofBytes ((l.drop (512 + 32 * i)).take 32)

/-- The run words of a primitive (R392). -/
def primRuns (l : List Byte) (p : Prim) : List Nat :=
  (List.range p.nr).map fun i => field l (512 + 32 * libNPrim l + 4 * (p.run0 + i)) 4

/-- Whether primitive `q` may follow one that ends with heading `h`, curvature class `k` and articulation class `a` (R392). -/
def Prim.follows (q : Prim) (h k a : Nat) : Bool := q.h0 == h && q.k0 == k && bitsOf q.aIn a 1 == 1

/-! ## Occupancy (R383-R386) -/

/-- Layer of a time in a bank with base time `t0` (R383). -/
def layerOf (t0 : Nat) (t : Nat) : Nat := if t < t0 then 0 else min 31 ((t - t0) / 250000000)

/-- The cell byte of layer `l` at column `x`, row `y` of a bank (R386). -/
def cellAt (bank : Memory) (l x y : Nat) : Nat := (memGet bank ((l * 512 + y) * 512 + x)).toNat

/-- The bank with a number. -/
def Planner.bank (p : Planner) (b : Nat) : Memory := if b = 0 then p.bank0 else p.bank1

/-- The planner with a bank replaced. -/
def Planner.setBank (p : Planner) (b : Nat) (m : Memory) : Planner := if b = 0 then { p with bank0 := m } else { p with bank1 := m }

/-- The current bank, where one is current (R384). -/
def State.curBank (s : State) : Option Nat := if s.rd PLN_STATUS_CUR < 2 then some (s.rd PLN_STATUS_CUR) else none

/-- The standby bank (R384). -/
def State.standby (s : State) : Nat := if s.curBank = some 0 then 1 else 0

/-- What a fusion grid gives for a cell: the largest of its voxels, 255 when none was observed (R386). -/
def voxCell (words : List Nat) : Nat :=
  if words.all fun w => bitsOf w 24 1 == 0 then 255
  else words.foldl (fun m w => max m (if bitsOf w 26 1 = 1 then 0 else min (bitsOf w 0 8) 254)) 0

/-- A new cell byte combined with the standby byte (R386). -/
def mergeCell (old new : Nat) : Nat := if new = 255 then old else if old = 255 then new else max old new

/-- The bytes of a bank, in address order: `cell` of layer, row and column. -/
def bankBytes (cell : Nat → Nat → Nat → Nat) : Memory :=
  (List.range (32 * 512 * 512)).filterMap fun i =>
    let v := cell (i / 262144) (i / 512 % 512) (i % 512)
    if v % 256 = 0 then none else some (i, BitVec.ofNat 8 v)

/-- A bank loaded from the bytes read (R386): SRC 0 the cells themselves, SRC 1 grid layers ZLO to ZHI. -/
def loadBank (old : Memory) (src : Nat) (merge : Bool) (data : List Byte) : Memory :=
  let nz := data.length / 1048576
  bankBytes fun l y x =>
    let new := if src = 0 then field data ((l * 512 + y) * 512 + x) 1
      else voxCell ((List.range nz).map fun z => field data (4 * ((z * 512 + y) * 512 + x)) 4)
    if merge then mergeCell (cellAt old l x y) new else new

/-! ## The search (R395-R397) -/

/-- The fields of a PLAN (R393). -/
def planTh (b : List Byte) : Nat := field b 17 1
def planUnk (b : List Byte) : Bool := bitsOf (field b 18 1) 0 1 == 1
def planMax (b : List Byte) : Nat := field b 20 2
def planW (b : List Byte) (i : Nat) : Word := wordAt b (88 + 4 * i)

/-- What a search reads: the library, its primitives, the record, and the pinned bank with its base time. -/
structure SearchEnv where
  lib : List Byte
  prims : List (Nat × Prim)
  pay : List Byte
  bank : Memory
  t0 : Nat

/-- Lattice coordinates of a state: heading, row and column (R395). -/
def latH (s : Nat) : Nat := s / 16384
def latY (s : Nat) : Nat := s / 128 % 128
def latX (s : Nat) : Nat := s % 128

/-- A lattice coordinate in metres as FP32: 0.8 × l - 51.2. -/
def latPos (l : Nat) : Word := toF32 (ofDyadic ((((4 * l : Nat) : Int) - 256) * 2 ^ 64 / 5) (-64) false)

/-- The first of the elements with the least measure. -/
def argMin {α : Type} (m : α → Nat) : List α → Option α
  | [] => none
  | x :: r => match argMin m r with
    | none => some x
    | some y => if m y < m x then some y else some x

/-- The lattice coordinate nearest a coordinate in metres; ties the lower. -/
def nearLat (w : Word) : Nat :=
  let x := 5 * fixed (f32 w)
  (argMin (fun l : Nat => (x - (((4 * l : Nat) : Int) - 256) * 2 ^ 160).natAbs) (List.range 128)).getD 0

/-- The heading nearest an angle in radians; ties the lower (log entry 80). -/
def nearHeading (w : Word) : Nat :=
  let turn := fixed (f32 0x40C90FDB)
  let off (h : Nat) : Nat :=
    let d := ((72 * fixed (f32 w) - (h : Int) * turn) % (72 * turn)).toNat
    min d ((72 * turn).toNat - d)
  (argMin off (List.range 72)).getD 0

/-- The largest value below 255 and whether an unobserved cell occurs, over the cells that R396 checks for primitive `p` at
state `s` and time `t`; none when one lies outside the grid. -/
def SearchEnv.scan (e : SearchEnv) (p : Prim) (s t : Nat) : Option (Nat × Bool) :=
  (primRuns e.lib p).foldl (fun acc r => match acc with
    | none => none
    | some (m, u) =>
      let y := (4 * latY s : Int) + sbyte (bitsOf r 0 8)
      let x0 := (4 * latX s : Int) + sbyte (bitsOf r 8 8)
      let n := bitsOf r 16 8
      let l := layerOf e.t0 (t + bitsOf r 24 5 * 250000000)
      if y < 0 ∨ 512 ≤ y ∨ x0 < 0 ∨ 512 < x0 + n then none
      else
        some ((List.range n).foldl (fun a i =>
          let c0 := cellAt e.bank l (x0.toNat + i) y.toNat
          let c1 := cellAt e.bank (min 31 (l + 1)) (x0.toNat + i) y.toNat
          (max a.1 (max (if c0 < 255 then c0 else 0) (if c1 < 255 then c1 else 0)), a.2 || c0 == 255 || c1 == 255)) (m, u)))
    (some (0, false))

/-- Whether cell values block (R396): `m` the largest below 255, `u` whether one is 255. -/
def cellsBlock (th : Nat) (unk : Bool) (m : Nat) (u : Bool) : Bool := decide (th ≤ m) || (u && unk)

/-- The cost of a primitive (R397; the order of its FP32 operations is log entry 80). -/
def primCost (b : List Byte) (p : Prim) (m : Nat) (u : Bool) : Word :=
  let w (i n : Nat) : Word := fmul (planW b i) (f32OfInt n)
  fadd (fadd (fadd (fadd (fadd (w 0 p.len) (w 1 p.dur)) (w 2 p.curv)) (w 3 (if p.rev then 1 else 0))) (w 4 m))
    (w 5 (if u then 1 else 0))

/-- A cost of a chain as stored: rounded to nearest, saturating (R395). -/
def storeCost (w : Word) : Nat := ((f32 w).toIntClamp 0 0xFFFFFF).toNat

/-- The heuristic of a state (R395). -/
def hCost (lib b : List Byte) (s : Nat) : Word :=
  let dx := fsub (latPos (latX s)) (wordAt b 64)
  let dy := fsub (latPos (latY s)) (wordAt b 68)
  let d := fsqrt (fadd (fmul dx dx) (fmul dy dy))
  let rate := fadd (fmul (f32OfInt 100) (planW b 0)) (fdiv (fmul (f32OfInt 1000) (planW b 1)) (wordAt lib 16))
  fmul rate (fmax 0 (fsub d (wordAt b 76)))

/-- The bucket of a state with cost `g`: ⌊(g + hcost) / 16⌋ (R395). -/
def bucketOf (lib b : List Byte) (s g : Nat) : Nat :=
  match f32 (hCost lib b s) with
  | .fin n m e => ((FVal.add (ofDyadic (g : Int) 0 false) (.fin n m e)).floor / 16).toNat
  | _ => 2 ^ 128

/-- Whether a lattice state is a goal (R395). -/
def isGoal (b : List Byte) (s : Nat) : Bool :=
  let dx := fsub (latPos (latX s)) (wordAt b 64)
  let dy := fsub (latPos (latY s)) (wordAt b 68)
  let c := fcos 4 (wordAt b 72)
  let n := fsin 4 (wordAt b 72)
  latH s == nearHeading (wordAt b 72) && fle (fabs (fadd (fmul dx c) (fmul dy n))) (wordAt b 76)
    && fle (fabs (fsub (fmul dy c) (fmul dx n))) (wordAt b 80)

/-- A state pushed into a bucket. -/
def Search.push (x : Search) (k s : Nat) : Search :=
  if x.buckets.contains (k, s) then x else { x with buckets := (k, s) :: x.buckets }

/-- Whether parent (s, p) comes before the one that a state has. -/
def parentLt (s p : Nat) (o : Option (Nat × Nat)) : Bool :=
  match o with
  | none => false
  | some (s', p') => decide (s < s') || (s == s' && decide (p < p'))

/-- One primitive tried from a state (R395). -/
def SearchEnv.tryPrim (e : SearchEnv) (s : Nat) (x : Search) (ip : Nat × Prim) : Search :=
  let p := ip.2
  let nd := tget ({} : Node) x.tab s
  if p.follows (latH s) nd.k nd.a = false then x
  else
    let ex := (latX s : Int) + p.dx
    let ey := (latY s : Int) + p.dy
    if ex < 0 ∨ 128 ≤ ex ∨ ey < 0 ∨ 128 ≤ ey then x
    else match e.scan p s nd.t with
      | none => x
      | some (m, u) =>
        if cellsBlock (planTh e.pay) (planUnk e.pay) m u then x
        else
          let t := (p.h1 * 128 + ey.toNat) * 128 + ex.toNat
          let c := storeCost (fadd (f32OfInt nd.g) (primCost e.pay p m u))
          let nt := tget ({} : Node) x.tab t
          if c < nt.g ∨ (c = nt.g ∧ parentLt s ip.1 nt.parent = true) then
            let n' : Node := { g := c, t := nd.t + 1000000 * p.dur, k := p.k1, a := p.aOut, parent := some (s, ip.1) }
            { x with tab := tset {} x.tab t n' }.push (bucketOf e.lib e.pay t c) t
          else x

/-- One state of a wavefront (R395): a goal becomes a candidate, another is expanded. -/
def SearchEnv.expand (e : SearchEnv) (x : Search) (s : Nat) : Search :=
  if isGoal e.pay s then (if x.cand.length < 8 then { x with cand := x.cand ++ [s] } else x)
  else e.prims.foldl (e.tryPrim s) { x with expanded := x.expanded + 1 }

/-- The cost of a state in a search. -/
def Search.cost (x : Search) (s : Nat) : Nat := (tget ({} : Node) x.tab s).g

/-- The lowest nonempty bucket. -/
def Search.lowest (x : Search) : Option Nat := x.buckets.foldl (fun b e => match b with
  | none => some e.1
  | some k => some (min k e.1)) none

/-- Whether the search stops by itself (R395): no bucket is left, or the lowest lies above the slack of the best. -/
def SearchEnv.finished (e : SearchEnv) (x : Search) : Bool :=
  match x.lowest, x.cand with
  | none, _ => true
  | some k, c :: _ => decide (x.cost c * (256 + field e.pay 19 1) < 16 * k * 256)
  | some _, [] => false

/-- The search (R395), at most `n` wavefronts long: a wavefront is the states of the lowest bucket, in increasing index. -/
def SearchEnv.search (e : SearchEnv) : Nat → Search → Search
  | 0, x => x
  | n + 1, x =>
    if e.finished x then x
    else
      let k := x.lowest.getD 0
      let w := (x.buckets.filter (·.1 == k)).map (·.2)
      let x' := { x with buckets := x.buckets.filter (·.1 != k) }
      e.search n ((w.mergeSort (fun a b => decide (a ≤ b))).foldl e.expand x')

/-- The start of a search (R395). -/
def startNode (b : List Byte) : Nat := (nearHeading (wordAt b 48) * 128 + nearLat (wordAt b 44)) * 128 + nearLat (wordAt b 40)
def SearchEnv.start (e : SearchEnv) : Search :=
  let s0 := startNode e.pay
  { tab := [(s0, { g := 0, t := field e.pay 32 8 })], buckets := [(bucketOf e.lib e.pay s0 0, s0)] }

/-! ## The check of a trajectory (R400) -/

/-- A point in units of 2^-160 cell widths. -/
abbrev P2 := Int × Int

/-- A vertex of the BODY (`off` 128) or IMPL (`off` 256) polygon at a pose, with cos and sin of its heading. -/
def vertexAt (lib : List Byte) (off i : Nat) (x y c n : Word) : P2 :=
  let vx := wordAt lib (off + 8 * i)
  let vy := wordAt lib (off + 8 * i + 4)
  (5 * fixed (f32 (fadd x (fsub (fmul vx c) (fmul vy n)))), 5 * fixed (f32 (fadd y (fadd (fmul vx n) (fmul vy c)))))

def dot2 (a b : P2) : Int := a.1 * b.1 + a.2 * b.2
def cross2 (a b : P2) : Int := a.1 * b.2 - a.2 * b.1
def sub2 (a b : P2) : P2 := (a.1 - b.1, a.2 - b.2)

/-- Whether a point lies within distance √`m2` of a segment. -/
def pointNear (m2 : Int) (p a b : P2) : Bool :=
  let d := sub2 b a
  let v := sub2 p a
  let t := dot2 v d
  let l := dot2 d d
  if t ≤ 0 then decide (dot2 v v ≤ m2)
  else if l ≤ t then decide (dot2 (sub2 p b) (sub2 p b) ≤ m2)
  else decide (cross2 v d * cross2 v d ≤ m2 * l)

/-- Whether two segments cross at inner points of both. -/
def segsCross (p q a b : P2) : Bool :=
  let o1 := cross2 (sub2 q p) (sub2 a p)
  let o2 := cross2 (sub2 q p) (sub2 b p)
  let o3 := cross2 (sub2 b a) (sub2 p a)
  let o4 := cross2 (sub2 b a) (sub2 q a)
  decide (o1 * o2 < 0 ∧ o3 * o4 < 0)

/-- Whether two segments lie within distance √`m2` of each other. -/
def segsNear (m2 : Int) (p q a b : P2) : Bool :=
  segsCross p q a b || pointNear m2 p a b || pointNear m2 q a b || pointNear m2 a p q || pointNear m2 b p q

/-- The edges of a polygon. -/
def edgesOf (ps : List P2) : List (P2 × P2) := match ps with
  | [] => []
  | p :: r => ps.zip (r ++ [p])

/-- Whether a point lies inside a polygon, by the crossing number. -/
def insidePoly (ps : List P2) (p : P2) : Bool :=
  ((edgesOf ps).filter fun (a, b) =>
    (decide (a.2 ≤ p.2) != decide (b.2 ≤ p.2))
      && (let c := cross2 (sub2 b a) (sub2 p a)
          if a.2 ≤ p.2 then decide (0 < c) else decide (c < 0))).length % 2 == 1

/-- Whether the area of cell (`cx`, `cy`), counted from the grid's origin, meets a polygon dilated by `m` (R400). -/
def cellMeets (ps : List P2) (m : Int) (cx cy : Int) : Bool :=
  let u : Int := 2 ^ 160
  let sq : List P2 := [(cx * u, cy * u), ((cx + 1) * u, cy * u), ((cx + 1) * u, (cy + 1) * u), (cx * u, (cy + 1) * u)]
  (ps.any fun p => decide (cx * u ≤ p.1 ∧ p.1 ≤ (cx + 1) * u ∧ cy * u ≤ p.2 ∧ p.2 ≤ (cy + 1) * u)) || (sq.any (insidePoly ps))
    || (edgesOf ps).any fun e => (edgesOf sq).any fun f => segsNear (m * m) e.1 e.2 f.1 f.2

/-- The integers from `a` to `b`. -/
def intsTo (a b : Int) : List Int := (List.range (b + 1 - a).toNat).map fun i => a + (i : Int)

/-- The least and greatest of a list of integers. -/
def boundsOf (l : List Int) : Int × Int := match l with
  | [] => (0, -1)
  | x :: r => r.foldl (fun b y => (min b.1 y, max b.2 y)) (x, x)

/-- Whether a dilated polygon meets a blocked cell or leaves the grid (R396, R400). -/
def polyBlocked (bank : Memory) (l th : Nat) (unk : Bool) (m : Int) (ps : List P2) : Bool :=
  let u : Int := 2 ^ 160
  let bx := boundsOf (ps.map (·.1))
  let byy := boundsOf (ps.map (·.2))
  (intsTo ((bx.1 - m) / u - 1) ((bx.2 + m) / u)).any fun cx => (intsTo ((byy.1 - m) / u - 1) ((byy.2 + m) / u)).any fun cy =>
    cellMeets ps m cx cy &&
      (if cx < -256 ∨ 256 ≤ cx ∨ cy < -256 ∨ 256 ≤ cy then true
       else
         let c := cellAt bank l (cx + 256).toNat (cy + 256).toNat
         cellsBlock th unk (if c < 255 then c else 0) (c == 255))

/-- Word `i` of a sample: X, Y, HEAD, CURV, SPEED, ACCEL (R403). -/
def sampleW (x : List Word) (i : Nat) : Word := (x[i]?).getD 0

/-- Whether the machine at sample `i` of a trajectory is clear of blocked cells (R400). -/
def SearchEnv.sampleClear (e : SearchEnv) (i : Nat) (x : List Word) : Bool :=
  let c := fcos 4 (sampleW x 2)
  let n := fsin 4 (sampleW x 2)
  let l := layerOf e.t0 (field e.pay 32 8 + 20000000 * i)
  let m := 5 * fixed (f32 (wordAt e.lib 60))
  let poly (off k : Nat) : List P2 := (List.range k).map fun j => vertexAt e.lib off j (sampleW x 0) (sampleW x 1) c n
  [poly 128 (field e.lib 64 1), poly 256 (field e.lib 65 1)].all fun ps =>
    !(polyBlocked e.bank l (planTh e.pay) (planUnk e.pay) m ps)

/-- Whether a trajectory passes the check of R400. -/
def SearchEnv.clear (e : SearchEnv) (l : List (List Word)) : Bool :=
  (List.range l.length).all fun i => e.sampleClear i ((l[i]?).getD [])

/-! ## Fits and the stop trajectory (R398, R399, R401) -/

/-- The start sample of a PLAN: X, Y, HEAD, CURV, SPEED, ACCEL. -/
def planStart (b : List Byte) : List Word :=
  [wordAt b 40, wordAt b 44, wordAt b 48, wordAt b 56, wordAt b 52, wordAt b 60]

/-- The exact difference of two FP32 values, `n` times, within a limit; 1/1,024 more is for the rounding of the samples. -/
def diffWithin (n : Nat) (a b : Word) (lim : FVal) : Bool :=
  (((f32 a).add (f32 b).neg).abs.mul (ofDyadic (1024 * n : Nat) 0 false)).le (lim.mul (ofDyadic 1025 0 false))

/-- The larger speed of two samples, and the most that the machine can change its speed by in a second. -/
def topSpeed (x y : List Word) : FVal := (f32 (sampleW x 4)).abs.max (f32 (sampleW y 4)).abs
def topAccel (lib : List Byte) : FVal := (f32 (wordAt lib 24)).max (f32 (wordAt lib 28))

/-- The most that the machine can travel between two samples, 20 ms apart, times 50. -/
def reach (lib : List Byte) (x y : List Word) : FVal := (topSpeed x y).add ((topAccel lib).mul (f32 0x3CA3D70A))

/-- What the limits of R398 and R399 ask of two samples 20 ms apart: jerk, curvature per second and, where the machine does not stand, per
metre, acceleration, and the way between them (log entry 81). -/
def pairOk (lib : List Byte) (x y : List Word) : Bool :=
  let stands := feq (sampleW x 4) 0 || feq (sampleW y 4) 0 || (flt (sampleW x 4) 0 != flt (sampleW y 4) 0)
  diffWithin 50 (sampleW x 5) (sampleW y 5) (f32 (wordAt lib 36))
    && diffWithin 50 (sampleW x 3) (sampleW y 3) (f32 (wordAt lib 52))
    && (stands || diffWithin 50 (sampleW x 3) (sampleW y 3) ((f32 (wordAt lib 48)).mul (reach lib x y)))
    && diffWithin 50 (sampleW x 4) (sampleW y 4) (topAccel lib)
    && diffWithin 50 (sampleW x 0) (sampleW y 0) (reach lib x y) && diffWithin 50 (sampleW x 1) (sampleW y 1) (reach lib x y)

/-- Equal neighbours taken once. -/
def runsOf : List Bool → List Bool
  | [] => []
  | [a] => [a]
  | a :: b :: r => if a = b then runsOf (b :: r) else a :: runsOf (b :: r)

/-- The directions of a chain from its start to lattice state `s`, one for each of its primitives (R391). -/
def chainDirs (prims : List (Nat × Prim)) (tab : Table Node) : Nat → Nat → List Bool
  | 0, _ => []
  | fuel + 1, s =>
    match (tget ({} : Node) tab s).parent with
    | none => []
    | some (p, i) => chainDirs prims tab fuel p ++ ((prims.find? (·.1 == i)).map (·.2.rev)).toList

/-- Whether the samples that a fit gives keep what R398 and R399 require of samples: at most NSAMP_MAX, the start, the limits of every
sample and of every two in turn, a cusp only where the chain changes its direction, and at the end, within DEV_MAX of the chain's, the
speed at the goal (log entry 81). -/
def fitOk (lib b : List Byte) (dirs : List Bool) (goal : Nat) (l : List (List Word)) : Bool :=
  let within (x : List Word) : Bool :=
    let v := sampleW x 4
    let a := sampleW x 5
    let fwd := !(flt v 0)
    let along := if fwd then a else fneg a
    x.length == 6 && x.all ffinite && fle (fabs (sampleW x 3)) (wordAt lib 44)
      && fle (fabs v) (fmin (wordAt lib (if fwd then 16 else 20)) (wordAt b 112))
      && fle (fmul (fmul v v) (fabs (sampleW x 3))) (wordAt lib 40) && fle along (wordAt lib 24)
      && fle (fneg (wordAt lib 28)) along
  let z := l.getLast?.getD []
  let moving := (l.filter fun x => !feq (sampleW x 4) 0).map fun x => flt (sampleW x 4) 0
  decide (2 ≤ l.length ∧ l.length ≤ planMax b) && l.head? == some (planStart b) && l.all within
    && ((l.zip (l.drop 1)).all fun e => pairOk lib e.1 e.2) && (runsOf moving).isSublist (runsOf dirs)
    && diffWithin 1 (sampleW z 0) (latPos (latX goal)) (f32 (wordAt lib 56))
    && diffWithin 1 (sampleW z 1) (latPos (latY goal)) (f32 (wordAt lib 56))
    && fle (fabs (sampleW z 4)) (wordAt b 84)

/-- The samples of a trajectory in the layout of R403. -/
def trajSamples (t : List Byte) : List (List Word) :=
  (List.range (field t 24 2)).map fun i => (List.range 6).map fun j => wordAt t (64 + 32 * i + 4 * j)

/-- Whether (X, Y) lies within 0.5 m of the path of a held trajectory (R401). -/
def nearPath (t b : List Byte) : Bool :=
  let pt (x : List Word) : P2 := (fixed (f32 (sampleW x 0)), fixed (f32 (sampleW x 1)))
  let ps := (trajSamples t).map pt
  let h : Int := 2 ^ 159
  let p := pt (planStart b)
  (ps.zip (ps.drop 1)).any fun e => pointNear (h * h) p e.1 e.2

/-- The stop trajectory (R401): the start, the braking samples `mid`, and one standstill sample; no more than NSAMP_MAX samples
(log entry 82). -/
def stopSamples (b : List Byte) (mid : List (List Word)) : List (List Word) :=
  let l := planStart b :: (mid.map fun x => (List.range 6).map (sampleW x)).take (planMax b - 2)
  let z := l.getLast?.getD []
  l ++ [[sampleW z 0, sampleW z 1, sampleW z 2, sampleW z 3, 0, 0]]

/-- Whether a place lies within 0.5 m of the ray from a sample along its heading. -/
def nearRay (z : List Word) (p : P2) : Bool :=
  let o : P2 := (fixed (f32 (sampleW z 0)), fixed (f32 (sampleW z 1)))
  let d : P2 := (fixed (f32 (fcos 4 (sampleW z 2))) / 2 ^ 100, fixed (f32 (fsin 4 (sampleW z 2))) / 2 ^ 100)
  let v := sub2 p o
  decide (0 ≤ dot2 v d) && decide (4 * (cross2 v d * cross2 v d) ≤ dot2 d d * 2 ^ 320)

/-- Whether braking samples keep what R401 asks (log entry 82): from SPEED and ACCEL they brake with at most A_STOP once they brake, and
with JMAX, the speed keeps its direction and comes to standstill, and the way follows the held trajectory and then its last heading, or
HEAD where none is held or the start is not near it. -/
def stopOk (lib b held : List Byte) (mid : List (List Word)) : Bool :=
  let l := planStart b :: mid
  let z := l.getLast?.getD []
  let v0 := wordAt b 52
  let along (x : List Word) : Word := if flt v0 0 then fneg (sampleW x 5) else sampleW x 5
  let slow (x : List Word) : FVal := f32 (sampleW x 4)
  let pt (x : List Word) : P2 := (fixed (f32 (sampleW x 0)), fixed (f32 (sampleW x 1)))
  let ps := (trajSamples held).map pt
  let h : Int := 2 ^ 159
  let follows := !(held == []) && nearPath held b
  let onPath (x : List Word) : Bool :=
    if follows then ((ps.zip (ps.drop 1)).any fun e => pointNear (h * h) (pt x) e.1 e.2)
      || nearRay ((trajSamples held).getLast?.getD []) (pt x)
    else nearRay (planStart b) (pt x)
  mid.all (fun x => x.length == 6 && x.all ffinite && onPath x && fle (along x) (fmax 0 (along (planStart b)))
      && (feq (sampleW x 4) 0 || (flt (sampleW x 4) 0 == flt v0 0)))
    && ((l.zip (l.drop 1)).all fun e =>
      diffWithin 50 (sampleW e.1 5) (sampleW e.2 5) (f32 (wordAt lib 36))
        && diffWithin 50 (sampleW e.1 4) (sampleW e.2 4)
          ((f32 (wordAt lib 32)).max ((f32 (sampleW e.1 5)).abs.max (f32 (sampleW e.2 5)).abs))
        && (fle (fneg (wordAt lib 32)) (along e.2) || fle (along e.1) (along e.2)))
    && ((slow z).abs.mul (ofDyadic 51200 0 false)).le ((f32 (wordAt lib 32)).mul (ofDyadic 1025 0 false))

/-! ## The outcome (R398-R403) -/

/-- The candidates tried in order (R398-R400): the index of the first that passes with its samples, and how many were rejected. -/
def tryFits (ok : Nat → List (List Word) → Bool) : Nat → List (Option (List (List Word))) → Option (Nat × List (List Word)) × Nat
  | n, [] => (none, n)
  | n, none :: r => tryFits ok (n + 1) r
  | n, some l :: r => if ok n l then (some (n, l), n) else tryFits ok (n + 1) r

/-- Candidates in order of cost, lowest first, ties as found (R400). -/
def Search.ordered (x : Search) : List Nat := x.cand.mergeSort (fun a b => decide (x.cost a ≤ x.cost b))

/-- What a PLAN writes: `e` and `x` the search, none where no bank was current; `re` the environment of re-validation; `ended`
whether the search was cut at search_end; `fits` the fitted and time-scaled candidates; `stop` the braking samples; `held` the
trajectory of the context. -/
def planOutcome (x : Option Search) (re : SearchEnv) (noOcc ended : Bool) (fits : List (Option (List (List Word))))
    (stop : List (List Word)) (held : List Byte) : PlanOut × Nat :=
  let cands := match x with
    | some x => x.ordered
    | none => []
  let fs := (List.range cands.length).map fun i => (fits[i]?).getD none
  let dirs (c : Nat) : List Bool := match x with
    | some x => chainDirs re.prims x.tab 1179648 c
    | none => []
  let (hit, rejected) := tryFits (fun i l =>
    let c := (cands[i]?).getD 0
    fitOk re.lib re.pay (dirs c) c l && re.clear l) 0 fs
  let expanded := match x with
    | some x => x.expanded
    | none => 0
  match hit, x with
  | some (i, l), some x =>
    ({ samples := l, cand := i, found := cands.length, stop := false, cost := x.cost ((cands[i]?).getD 0),
       expanded := expanded, t0 := re.t0 }, rejected)
  | _, _ =>
    let l := stopSamples re.pay stop
    ({ samples := l, cand := 0xF, found := cands.length, stop := true, stopBlocked := !noOcc && !(re.clear l), noOcc := noOcc,
       noPrev := held == [] || !(nearPath held re.pay), timeout := ended && cands == [], cost := 0, expanded := expanded,
       t0 := if noOcc then 0 else re.t0 }, rejected)

/-- The bits of a PLAN's completion DETAIL (R402). -/
def PlanOut.detail (o : PlanOut) : Nat := o.cand + 16 * o.found + 256 * min o.expanded 0xFFFFFF

/-- The header of a trajectory (R403). -/
def PlanOut.header (o : PlanOut) (b : List Byte) (outTime : Nat) : List Byte :=
  let flag (c : Bool) (n : Nat) : Nat := if c then 2 ^ n else 0
  leBytes 8 outTime ++ leBytes 8 (field b 32 8) ++ leBytes 8 o.t0 ++ leBytes 2 o.samples.length ++ leBytes 1 (o.cand + 16 * o.found)
    ++ leBytes 1 (flag o.stop 0 + flag o.stopBlocked 1 + flag o.noOcc 2 + flag o.noPrev 3 + flag o.timeout 4)
    ++ leBytes 4 o.cost ++ leBytes 4 (field b 116 4) ++ leBytes 4 (min o.expanded 0xFFFFFFFF) ++ List.replicate 24 0

/-- The samples of a trajectory (R403). -/
def PlanOut.sampleBytes (o : PlanOut) : List Byte :=
  o.samples.flatMap fun x => ((List.range 6).flatMap fun i => leBytes 4 (sampleW x i).toNat) ++ List.replicate 8 0

end Sys2Proof.Machine
end

