-- ==== Sys2Proof/Machine/PlannerCmds.lean ====
section
/-!
DEFINITION. The motion planner's commands: PLAN from validation to its output (R393-R404), OCC_LOAD (R385-R388) and LIB_LOAD
(R389).
-/
namespace Sys2Proof.Machine

/-! ## The two engines of the planner (R388) -/

/-- The planner with a part replaced. -/
def State.modPln (s : State) (f : Planner → Planner) : State := { s with pln := f s.pln }

/-- A planner record is through its checks and ready for its engine: it waits in the order of this tick (R388). -/
def State.readyRec (s : State) (d seq : Nat) : State := s.modRec d seq fun r => { r with phase := .running, startAt := s.tclk }

/-- The records of a kind that are ready for an engine, other than one that holds it: (tick, slot, record). -/
def State.readyFor (s : State) (sel : Nat → Bool) (holder : Option (Nat × Nat)) : List (Nat × Nat × Rec) :=
  s.queues.flatMap fun e => (e.2.recs.filter fun r =>
    e.2.live && decide (r.phase = .running) && sel r.op && decide (some (e.1, r.seq) ≠ holder)).map fun r => (r.startAt, e.1, r)

/-- The first in the order of becoming ready, ties to the lower doorbell slot (R388). -/
def firstReady (l : List (Nat × Nat × Rec)) : Option (Nat × Nat × Rec) := argMin (fun x => 256 * x.1 + x.2.1) l

/-- The holders of the two engines. -/
def State.planHolder (s : State) : Option (Nat × Nat) := s.pln.run.map fun r => (r.slot, r.seq)
def State.loadHolder (s : State) : Option (Nat × Nat) := s.pln.load.map fun r => (r.slot, r.seq)

/-- Whether a bank is pinned (R388). -/
def State.pinned (s : State) (b : Nat) : Bool := bitsOf (s.rd PLN_STATUS_PINNED) b 1 == 1

/-- The load engine takes the next ready load (R387-R389): an OCC_LOAD once its bank is not pinned, a LIB_LOAD once no PLAN
runs. -/
def State.takeLoad (s : State) : State :=
  if s.pln.load.isSome ∨ s.workHeld = true then s
  else match firstReady (s.readyFor (fun op => op == 0x51 || op == 0x52) none) with
    | none => s
    | some (_, d, r) =>
      let go (lib : Bool) (b : Nat) : State :=
        ((s.modPln fun p => { p with load := some ⟨d, r.seq, lib, b⟩ }).wr PLN_STATUS_LOADING 1).runRec d r.seq
      if r.op = 0x52 then (if s.pln.run.isNone then go true 0 else s)
      else if s.pinned s.standby then s else go false s.standby

/-! ## PLAN -/

/-- Check 9 of R115 for PLAN (R394). -/
def State.planCheck (s : State) (r : Rec) : Nat × Nat :=
  let b := r.bytes
  let w := wordAt b
  let fins (off n : Nat) : Bool := (List.range n).all fun i => ffinite (w (off + 4 * i))
  let inGrid (x : Word) : Bool := decide (-(256 * 2 ^ 160) ≤ 5 * fixed (f32 x) ∧ 5 * fixed (f32 x) < 256 * 2 ^ 160)
  let angle (x : Word) : Bool := flt 0xC0490FDB x && fle x 0x40490FDB
  let ge0 (x : Word) : Bool := fle 0 x
  firstField
    [ (decide (planMax b ≠ 0 ∧ planMax b ≠ 0xFFFF), E_LEN, 20), (decide (field b 120 4 ≠ 0 ∧ field b 120 4 ≠ 0xFFFFFFFF), E_LEN, 120),
      ((s.objOf (field b 24 4)).isSome, E_HANDLE, 24),
      (decide (1 ≤ planTh b ∧ planTh b ≤ 254), E_RANGE, 17), (decide (2 ≤ planMax b ∧ planMax b ≤ 1500), E_RANGE, 20),
      (s.objFits (field b 24 4) (64 * field b 28 4) (64 + 32 * planMax b), E_RANGE, 28),
      (fins 40 1 && inGrid (w 40), E_RANGE, 40), (fins 44 1 && inGrid (w 44), E_RANGE, 44), (fins 48 1 && angle (w 48), E_RANGE, 48),
      (fins 52 1, E_RANGE, 52), (fins 56 1, E_RANGE, 56), (fins 60 1, E_RANGE, 60), (fins 64 1, E_RANGE, 64), (fins 68 1, E_RANGE, 68),
      (fins 72 1 && angle (w 72), E_RANGE, 72), (fins 76 1 && ge0 (w 76), E_RANGE, 76), (fins 80 1 && ge0 (w 80), E_RANGE, 80),
      (fins 84 1 && ge0 (w 84), E_RANGE, 84), (fins 88 1 && ge0 (w 88), E_RANGE, 88), (fins 92 1 && ge0 (w 92), E_RANGE, 92),
      (fins 96 1 && ge0 (w 96), E_RANGE, 96), (fins 100 1 && ge0 (w 100), E_RANGE, 100), (fins 104 1 && ge0 (w 104), E_RANGE, 104),
      (fins 108 1 && ge0 (w 108), E_RANGE, 108), (fpos (w 112), E_RANGE, 112),
      (decide (375000 ≤ field b 120 4 ∧ field b 120 4 ≤ 2500000), E_RANGE, 120),
      (s.on PLN_STATUS_LIB_VALID && s.rd PLN_LIB_LIB_ID == field b 116 4, E_CALIB, 116) ]

/-- The next fetched record of opcode `op` checked (R115): it faults, or is ready for its engine; a completion ring without room
holds the queue (R127). -/
def State.startReady (s : State) (d op : Nat) (check : Rec → Nat × Nat) : State :=
  match s.pickRec d op (fun _ => true) with
  | none => s
  | some r =>
    if s.cqRoom d (s.queue d) = false then s.wr (HIF_QSTAT_CQ_FULL.idx d) 1
    else
      let c := s.checks (s.queue d).cls (check r)
      if c.1 ≠ 0 then s.faultRec d r.seq c.1 c.2 else s.readyRec d r.seq

/-- PLAN (R393, R394). -/
def execPlan (d : Nat) (s : State) : Out := fin (s.startReady d 0x50 s.planCheck)

/-- The PLAN that takes the search engine next, where it can: the engine is free and no LIB_LOAD runs (R388, R389). -/
def State.nextPlan (s : State) : Option (Nat × Rec) :=
  let libRuns := match s.pln.load with
    | some l => l.lib
    | none => false
  if s.workHeld || s.pln.run.isSome || libRuns then none
  else (firstReady (s.readyFor (· == 0x50) none)).map fun x => (x.2.1, x.2.2)

/-- PINNED while a PLAN uses the current bank (R388). -/
def State.pinMask (s : State) : Nat := match s.curBank with
  | some k => 2 ^ k
  | none => 0

/-- PLAN_START (R388, R395): the first ready PLAN takes the search engine and pins the current bank. -/
def execPlanStart (s : State) : Out :=
  match s.nextPlan with
  | none => .next s
  | some (d, r) =>
    let b := s.curBank
    let s1 := ((s.modPln fun p => { p with work := {}, run := some { slot := d, seq := r.seq, startAt := s.tclk, bank := b } }).wr PLN_STATUS_SEARCH 1).wr
      PLN_STATUS_PINNED s.pinMask
    fin (s1.runRec d r.seq)

/-- What a search reads when it uses bank `b`. -/
def State.planEnv (s : State) (pay : List Byte) (b : Nat) : SearchEnv :=
  { lib := s.pln.lib, prims := (List.range (libNPrim s.pln.lib)).zip (libPrims s.pln.lib), pay := pay, bank := s.pln.bank b,
    t0 := s.rd (PLN_T0_T0.idx b) }

/-- The search of a PLAN in its bank after `waves` wavefronts; none without a bank (R396, R397). -/
def State.searchOf (s : State) (b : List Byte) (bank : Option Nat) (waves : Nat) : Option Search :=
  bank.map fun k => (s.planEnv b k).search waves (s.planEnv b k).start

/-- Whether a search was cut before it ended by itself (R395). -/
def State.searchCut (s : State) (b : List Byte) (bank : Option Nat) (x : Option Search) : Bool :=
  match x, bank with
  | some x, some k => !((s.planEnv b k).finished x)
  | _, _ => false

/-- PLAN_SEARCH_END (R395-R402, R404): the search ends after `waves` wavefronts, or by itself before; candidates are fitted as
`fits` gives them and checked against the bank current now, which is pinned until the output is visible; `stop` is the braking part
of the stop trajectory, and one that does not keep R401 is no such event (log entries 80-83). -/
def execPlanSearchEnd (waves : Nat) (fits : List (Option (List (List Word)))) (stop : List (List Word)) (s : State) : Out :=
  match s.pln.run with
  | none => .next s
  | some r =>
    match (s.queue r.slot).recs.find? fun x => x.seq == r.seq && !x.isEnded with
    | none => .next s
    | some rc =>
      if r.out.isSome ∨ s.workHeld = true then .next s
      else
        let b := rc.bytes
        let x := s.searchOf b r.bank waves
        let cut := s.searchCut b r.bank x
        let s1 := if cut then s.waitTo (r.startAt + field b 120 4 - 312500) else s
        let k := s1.curBank.getD 0
        let held := tget ([] : List Byte) s1.pln.traj (bitsOf (field b 16 1) 0 2)
        let (o, rejected) := planOutcome x (s1.planEnv b k) r.bank.isNone cut fits stop held
        let s2 := s1.modPln fun p => { p with run := some { r with out := some o }, work := x.getD {} }
        if o.stop = true ∧ stopOk s1.pln.lib b held stop = false then .next s
        else .next (((s2.inc PLN_REJECT_COUNT rejected).wr PLN_STATUS_PINNED s1.pinMask).takeLoad)

/-- PLAN_OUTPUT_DONE (R401-R404): samples, then the header, are visible; the context and, with HANDOFF, the control engine take the
trajectory; the record completes, or faults where its writes fail. -/
def execPlanOutputDone (s : State) : Out := s.unlessStalled fun s =>
  match s.pln.run with
  | none => .next s
  | some r =>
    match r.out, (s.queue r.slot).recs.find? fun x => x.seq == r.seq && !x.isEnded with
    | some o, some rc =>
      if s.workHeld then .next s
      else
        let b := rc.bytes
        let who := s.recWho r.slot rc 0x44
        let off := 64 * field b 28 4
        let (s1, st) := s.objStore who (field b 24 4) (off + 64) o.sampleBytes
        let hd := o.header b s1.now
        let (s2, st) := if st ≠ 0 then (s1, st) else s1.objStore who (field b 24 4) off hd
        let s3 := ((s2.modPln fun p => { p with run := none }).wr PLN_STATUS_SEARCH 0).wr PLN_STATUS_PINNED 0
        if st ≠ 0 then fin (((s3.spoilPlan r.slot rc o).faultRec r.slot r.seq st).takeLoad)
        else
          let c := bitsOf (field b 16 1) 0 2
          let s4 := s3.modPln fun p => { p with traj := tset [] p.traj c (hd ++ o.sampleBytes) }
          let s5 := if bitsOf (field b 16 1) 2 1 = 1 then s4.deliverTraj c (hd ++ o.sampleBytes) else s4
          let s6 := (((s5.wr PLN_LAST_DETAIL o.detail).inc PLN_PLANS_COUNT).raise PLN_MAXT_TICKS (s5.tclk - r.startAt)).inc
            PLN_STOPS_COUNT (if o.stop then 1 else 0)
          let s7 := if o.stop then s6.statusRec r.slot r.seq E_STOPPATH o.detail else s6.completeRec r.slot r.seq o.detail
          fin s7.takeLoad
    | _, _ => .next s

/-! ## OCC_LOAD (R385-R388) -/

/-- SRC of an OCC_LOAD, the offset of its first byte in the object, and the bytes it reads (R386, R387). -/
def occSrc (b : List Byte) : Nat := bitsOf (field b 16 1) 0 2
def occOff (b : List Byte) : Nat := 64 * field b 24 4 + (if occSrc b = 1 then 1048576 * field b 17 1 else 0)
def occBytes (b : List Byte) : Nat := if occSrc b = 1 then (field b 18 1 + 1 - field b 17 1) * 1048576 else 8388608

/-- Check 9 of R115 for OCC_LOAD (R385). -/
def State.occCheck (s : State) (r : Rec) : Nat × Nat :=
  let b := r.bytes
  firstField
    [ (decide (occSrc b ≤ 1), E_RANGE, 16), (decide (occSrc b = 1 ∨ field b 17 1 = 0), E_RANGE, 17),
      (decide (if occSrc b = 1 then field b 17 1 ≤ field b 18 1 else field b 18 1 = 0), E_RANGE, 18),
      ((s.objOf (field b 20 4)).isSome, E_HANDLE, 20), (s.objFits (field b 20 4) (occOff b) (occBytes b), E_RANGE, 24) ]

/-- OCC_LOAD (R385, R388). -/
def execOccLoad (d : Nat) (s : State) : Out := fin (s.startReady d 0x51 s.occCheck).takeLoad

/-- The record of the load engine, for a load of a kind. -/
def State.loadRec (s : State) (lib : Bool) : Option (LoadRun × Rec) :=
  match s.pln.load with
  | none => none
  | some l => if l.lib ≠ lib ∨ s.workHeld = true then none
    else ((s.queue l.slot).recs.find? fun x => x.seq == l.seq && !x.isEnded).map fun r => (l, r)

/-- The load engine is free again. -/
def State.freeLoad (s : State) : State := (s.modPln fun p => { p with load := none }).wr PLN_STATUS_LOADING 0

/-- OCC_LOAD_DONE (R384-R387): the bank takes the load, and with COMMIT is current. -/
def execOccLoadDone (s : State) : Out := s.unlessStalled fun s =>
  match s.loadRec false with
  | none => .next s
  | some (l, r) =>
    let b := r.bytes
    let (s1, st, data) := s.objLoad (s.recWho l.slot r 0x44) (field b 20 4) (occOff b) (occBytes b)
    if st ≠ 0 then fin ((s1.freeLoad.faultRec l.slot l.seq st).takeLoad)
    else
      let merge := bitsOf (field b 16 1) 2 1 == 1
      let s2 := (s1.modPln fun p => p.setBank l.bank (loadBank (p.bank l.bank) (occSrc b) merge data)).wr (PLN_T0_T0.idx l.bank)
        (field b 32 8)
      let s3 := if bitsOf (field b 16 1) 3 1 = 1 then s2.wr PLN_STATUS_CUR l.bank else s2
      fin ((s3.freeLoad.completeRec l.slot l.seq 0).takeLoad)

/-! ## LIB_LOAD (R389, R390) -/

/-- Check 9 of R115 for LIB_LOAD. -/
def State.libCheck (s : State) (r : Rec) : Nat × Nat :=
  let b := r.bytes
  firstField [((s.objOf (field b 16 4)).isSome, E_HANDLE, 16), (s.objFits (field b 16 4) (64 * field b 20 4) 512, E_RANGE, 20)]

/-- LIB_LOAD (R388, R389). -/
def execLibLoad (d : Nat) (s : State) : Out := fin (s.startReady d 0x52 s.libCheck).takeLoad

/-- LIB_LOAD_DONE (R389, R390): the library is in force, or the previous one stays. -/
def execLibLoadDone (s : State) : Out := s.unlessStalled fun s =>
  match s.loadRec true with
  | none => .next s
  | some (l, r) =>
    let b := r.bytes
    let who := s.recWho l.slot r 0x44
    let off := 64 * field b 20 4
    let (s1, st, hd) := s.objLoad who (field b 16 4) off 512
    let bad := if st ≠ 0 then st else if libHeaderOk hd = false then E_CALIB
      else if s1.objFits (field b 16 4) off (libBytes hd) = false then E_RANGE else 0
    if bad ≠ 0 then fin ((s1.freeLoad.faultRec l.slot l.seq bad).takeLoad)
    else
      let (s2, st, rest) := s1.objLoad who (field b 16 4) (off + 512) (libBytes hd - 512)
      let data := hd ++ rest
      if st ≠ 0 then fin ((s2.freeLoad.faultRec l.slot l.seq st).takeLoad)
      else
        let s3 := s2.modPln fun p => { p with lib := data, libRef := (s2.handleIdx 1 (field b 16 4)).map fun i => (i, off) }
        fin ((((s3.wr PLN_STATUS_LIB_VALID 1).wr PLN_LIB_LIB_ID (field hd 4 4)).freeLoad.completeRec l.slot l.seq 0).takeLoad)

end Sys2Proof.Machine
end

