-- ==== Sys2Proof/Machine/PortCmds.lean ====
section
/-!
DEFINITION. The port commands: camera, Ethernet, CAN, ISOBUS, SPI, GPIO, GNSS and PWM (R333-R336, R339, R346, R351, R429-R431,
R418) and the REGISTRY record (R344, R345).
-/
namespace Sys2Proof.Machine

/-! ## Cameras (R334, R339, R351) -/

/-- The frame in reception on a receiver and virtual channel. -/
def State.csiFrame (s : State) (n vc : Nat) : CsiFrame := tget ({} : CsiFrame) s.ports.csi (16 * n + vc)

/-- The state with it replaced. -/
def State.setCsi (s : State) (n vc : Nat) (f : CsiFrame) : State :=
  { s with ports := { s.ports with csi := tset {} s.ports.csi (16 * n + vc) f } }

/-- The lines of a whole frame of an entry, where the calibration of its sensor says (R361). -/
def State.wholeLines (s : State) (e : Nat) : Nat :=
  match calSlot s.fus.calibs (s.entry e).sensorId with
  | none => 0
  | some j =>
    let c := tget ([] : List Byte) s.fus.calibs j
    if bitsOf (field c 0 1) 0 4 = 1 then field c 6 2 else 0

/-- Whether lines of a frame are missing (R334): fewer came than line starts announced, or than its sensor's calibration says (DESIGN
CHOICE; log entry 138). -/
def State.linesMissing (s : State) (e : Nat) (f : CsiFrame) : Bool :=
  decide (f.lines < s.wholeLines e) || decide (f.lines + f.embLines < f.lineStarts.length)

/-- A frame ends and is delivered to its entry, if that is still the one it began on (R334, R343). -/
def State.endFrame (s : State) (n vc : Nat) (bad : Bool) : State :=
  let f := s.csiFrame n vc
  let s1 := s.setCsi n vc {}
  match f.entry with
  | some e =>
    if f.isOpen ∧ (s.entry e).gen = f.gen then
      s1.deliver e { capture := f.start, bad := f.bad || bad || s.linesMissing e f, dtype := f.dtype, bytes := f.bytes, embedded := f.embedded }
    else s1
  | none => s1

/-- A frame start (R334, R339): it closes an unfinished frame as BAD, and attaches a stream that has no entry. -/
def State.startFrame (s : State) (n vc : Nat) : State :=
  let s1 := s.endFrame n vc true
  let s2 := match s1.attached 1 (0x100 + n) vc with
    | some _ => s1
    | none => s1.attach 1 (0x100 + n) vc 0
  let e := s2.attached 1 (0x100 + n) vc
  s2.setCsi n vc { isOpen := true, entry := e, gen := (e.map fun i => (s2.entry i).gen).getD 0, start := s2.now }

/-- The image data types of R333, by the codes of MIPI CSI-2: YUV422 8-bit, RGB888, RAW8-RAW16; 0x12 is embedded data and 0x08-0x0F
are generic short packets (log entry 56). -/
def isImageType (d : Nat) : Bool := [0x1E, 0x24, 0x2A, 0x2B, 0x2C, 0x2D, 0x2E].contains d

/-- A long packet is an item of its stream's entry (R429): checked while the entry is attached, a failure makes the frame BAD
(R430). -/
def State.csiItem (s : State) (n : Nat) (p : CsiPacket) : State :=
  if p.dtype < 16 then s
  else match s.attached 1 (0x100 + n) p.vc with
    | none => s
    | some e =>
      let (s1, ok) := s.checkItem e p.payload (s.now + 1)
      if ok then s1 else s1.setCsi n p.vc { s1.csiFrame n p.vc with bad := true }

/-- A packet taken into the open frame of its channel; once the line buffer has filled, the rest of the frame is dropped (R334). -/
def State.csiPayload (s : State) (n : Nat) (p : CsiPacket) (full : Bool) : State :=
  let f := s.csiFrame n p.vc
  if f.isOpen = false then s
  else if full ∨ f.cut = true then s.setCsi n p.vc { f with bad := true, cut := true }
  else if p.dtype = 2 then
    s.setCsi n p.vc { f with bad := f.bad || decide (p.word ≠ 0 ∧ p.word ≠ f.lines + 1), lineStarts := f.lineStarts ++ [s.now] }
  else if isImageType p.dtype then
    s.setCsi n p.vc { f with lines := f.lines + 1, dtype := p.dtype, bad := f.bad || p.crcBad, bytes := f.bytes ++ p.payload }
  else if p.dtype = 0x12 then
    s.setCsi n p.vc { f with bad := f.bad || p.crcBad, embLines := f.embLines + 1, embedded := f.embedded ++ p.payload }
  else if 16 ≤ p.dtype then s.setCsi n p.vc { f with bad := f.bad || p.crcBad }
  else if 8 ≤ p.dtype then s.setCsi n p.vc { f with shorts := f.shorts ++ [(p.dtype, p.word)] }
  else s

/-- CSI_PACKET (R334, R339): a packet on receiver `n`; `drained` is what intake took of the line buffer since the last. -/
def execCsiPacket (n : Nat) (p : CsiPacket) (drained : Nat) (s : State) : Out :=
  let fill := (tget 0 s.ports.csiFill n - drained) + (if p.header = 2 then 0 else p.payload.length)
  let full := decide (524288 < fill)
  let s1 := { s with ports := { s.ports with
    csiStop := tset none s.ports.csiStop n none,
    csiFill := tset 0 s.ports.csiFill n (if full then tget 0 s.ports.csiFill n - drained else fill),
    csiHdrErr := if p.header = 1 then tmod 0 s.ports.csiHdrErr n (· + 1) else s.ports.csiHdrErr } }
  let s2 := match s1.attached 1 (0x100 + n) p.vc with
    | some e => s1.heard e
    | none => s1
  if p.header = 2 then .next (s2.setCsi n p.vc { s2.csiFrame n p.vc with bad := true })
  else if p.dtype = 0 then .next (s2.startFrame n p.vc)
  else if p.dtype = 1 then .next (s2.endFrame n p.vc false)
  else if full then .next (s2.csiPayload n p true)
  else .next ((s2.csiItem n p).csiPayload n p false)

/-- CSI_STOP_STATE (R339): the lanes of receiver `n` enter stop state. -/
def execCsiStopState (n : Nat) (s : State) : Out :=
  .next { s with ports := { s.ports with csiStop := tset none s.ports.csiStop n (some s.tclk) } }

/-! ## Ethernet (R335, R339, R351) -/

/-- A big-endian number in network bytes. -/
def beNat (bs : List Byte) : Nat := bs.foldl (fun x b => 256 * x + b.toNat) 0

/-- Where the EtherType of a frame stands: after one 802.1Q tag where it has one. -/
def etherOff (f : List Byte) : Nat := if beNat ((f.drop 12).take 2) = 0x8100 then 16 else 12

/-- The EtherType of a frame. -/
def etherType (f : List Byte) : Nat := beNat ((f.drop (etherOff f)).take 2)

/-- A frame without its FCS. -/
def etherBody (f : List Byte) : List Byte := f.take (f.length - 4)

/-- The item of a frame (R429): the bytes after its EtherType, which follows the 802.1Q tag where there is one, up to the FCS
(log entry 22). -/
def etherItem (f : List Byte) : List Byte := (etherBody f).drop (etherOff f + 2)

/-- The UDP destination port of a frame, where it carries IPv4 and UDP. -/
def udpPort (f : List Byte) : Option Nat :=
  let ip := f.drop (etherOff f + 2)
  if etherType f = 0x0800 ∧ field ip 9 1 = 17 then some (beNat ((ip.drop (4 * (field ip 0 1 % 16) + 2)).take 2)) else none

/-- The KEY of a frame's source (R338): the MAC address as a number, first byte most significant (log entry 57), and the
UDP destination port, else the EtherType. -/
def ethKey (f : List Byte) : Nat :=
  beNat ((f.drop 6).take 6) + 2 ^ 48 * ((udpPort f).getD (etherType f))

/-- Whether a frame is for the time service: an IEEE 802.1AS or IEEE 1588 message (R335). -/
def isTimeMsg (f : List Byte) : Bool := etherType f == 0x88F7 || udpPort f == some 319 || udpPort f == some 320

/-- Whether an Ethernet port's link has been up for 100 ms (R339). -/
def State.ethSteady (s : State) (n : Nat) : Bool :=
  match tget none s.ports.ethUp n with
  | some t => decide (t + 12500000 ≤ s.tclk)
  | none => false

/-- The receive capture in tenths of ns: `sub` of them into the tick, less the PHY's receive delay (R351, R352). -/
def State.ethCapture (s : State) (n sub : Nat) : Nat := 10 * s.now + sub - s.rd (TIM_PHYDLY_RX.idx n)

/-- A frame that the MAC drops (R335): counted against the port, and in DROPS of the entry that it is for (R338). -/
def State.dropFrame (s : State) (n : Nat) (f : List Byte) : State :=
  let s1 := { s with ports := { s.ports with ethDrops := tmod 0 s.ports.ethDrops n (· + 1) } }
  match s1.attached 2 (0x200 + n) (ethKey f) with
  | some e => s1.dropItem e
  | none => s1

/-- ETH_FRAME_RECEIVE (R335, R339): a frame on port `n`, with whether its FCS holds, the sub-tick part of its capture in
tenths of ns, and what was taken from the buffer since the last. -/
def execEthFrameReceive (n : Nat) (f : List Byte) (fcsOk : Bool) (sub drained : Nat) (s : State) : Out :=
  let left := tget 0 s.ports.ethFill n - drained
  let s1 := { s with ports := { s.ports with ethFill := tset 0 s.ports.ethFill n left } }
  if fcsOk = false ∨ f.length < 64 ∨ 9216 < f.length ∨ 262144 < left + f.length then .next (s1.dropFrame n f)
  else
    let s2 := { s1 with ports := { s1.ports with ethFill := tset 0 s1.ports.ethFill n (left + f.length) } }
    if isTimeMsg f then .next { s2 with ports := { s2.ports with timeMsgs := s2.ports.timeMsgs ++ [(n, f, s2.ethCapture n sub)] } }
    else
      match s2.attached 2 (0x200 + n) (ethKey f) with
      | some e =>
        let (s3, ok) := (s2.heard e).checkItem e (etherItem f) (s2.now + 1)
        let t := s2.ethCapture n sub
        .next (if ok then s3.deliver e { capture := t / 10, sub := t % 10, bytes := etherBody f } else s3.dropItem e)
      | none =>
        if s2.ethSteady n then
          let s3 := s2.attach 2 (0x200 + n) (ethKey f) 0
          match s3.attached 2 (0x200 + n) (ethKey f) with
          | some e => .next (s3.dropItem e)
          | none => .next s3
        else .next s2

/-- ETH_LINK_UP (R339). -/
def execEthLinkUp (n : Nat) (s : State) : Out :=
  .next { s with ports := { s.ports with
    ethUp := tset none s.ports.ethUp n (some s.tclk), ethDown := tset none s.ports.ethDown n none } }

/-- ETH_LINK_DOWN (R339). -/
def execEthLinkDown (n : Nat) (s : State) : Out :=
  .next { s with ports := { s.ports with
    ethDown := tset none s.ports.ethDown n (some s.tclk), ethUp := tset none s.ports.ethUp n none } }

/-- When the condition of a detach is met, in ticks, where it runs (R339). -/
def State.detachDue (s : State) (e reason : Nat) : Option Nat :=
  let r := s.entry e
  let n := r.port % 256
  let quiet := tget 0 s.ports.lastItem e
  if r.state ≠ 1 then none
  else if reason = 4 ∧ r.kind ≤ 3 then some s.tclk
  else if r.kind = 1 then
    if reason = 1 then (tget none s.ports.csiStop n).map (· + 12500000)
    else if reason = 2 then some (quiet + 25000000) else none
  else if r.kind = 2 then
    if reason = 1 then (tget none s.ports.ethDown n).map (· + 1250001)
    else if reason = 2 then some (quiet + 62500000) else none
  else if r.kind = 3 ∧ reason = 2 then some (quiet + 375000000)
  else none

/-- PORT_DETACH (R339): the interval of a REASON passes for entry `e`; REASON 1 and 4 detach the whole port. -/
def execPortDetach (e reason : Nat) (s : State) : Out :=
  match s.detachDue e reason with
  | none => .next s
  | some t =>
    let s1 := s.waitTo t
    if reason = 2 then .next (s1.detach e 2) else .next (s1.detachPort (s1.entry e).port reason)

/-! ## CAN and ISOBUS (R336, R346, R413) -/

/-- CAN_MESSAGE_RECEIVE (R336, R351, R413): a message on port `p`, captured at the sample point of its start-of-frame bit. -/
def execCanMessageReceive (p : Nat) (f : CanFrame) (a : CanArrival) (s : State) : Out :=
  let q := (tget ([] : List CanFrame) s.ports.canRx p).drop a.taken
  let t := s.now - a.ago
  if s.canCarries p f = false then .next s
  else if 64 ≤ q.length then
    let s1 := { s with ports := { s.ports with
      canRx := tset [] s.ports.canRx p q, canDrops := tmod 0 s.ports.canDrops p (· + 1) } }
    .next ((s1.isobusEntries p (f.id % 256)).foldl State.dropItem s1)
  else
    let s1 := { s with ports := { s.ports with
      canRx := tset [] s.ports.canRx p (q ++ [f]), canRxCapture := tset 0 s.ports.canRxCapture p t } }
    let s2 := s1.controlCan (0x300 + p) f.id f.ide f.data t
    if (s2.isobusOf p).on then .next (s2.isobusMessage p f) else .next s2

/-- The priority of a frame in arbitration, lower first: base identifier, standard before extended, extension. -/
def canArb (f : CanFrame) : Nat :=
  if f.ide then bitsOf f.id 18 11 * 2 ^ 19 + 2 ^ 18 + f.id % 2 ^ 18 else f.id % 2 ^ 11 * 2 ^ 19

/-- The transmit buffer of a port whose frame wins arbitration (R336); ties go to the lower buffer. -/
def State.canNext (s : State) (p : Nat) : Option (Nat × CanFrame) :=
  (List.range 32).foldl (fun b i =>
    match tget none s.ports.canTx (32 * p + i) with
    | none => b
    | some f =>
      match b with
      | none => some (i, f)
      | some (_, g) => if canArb f < canArb g then some (i, f) else b) none

/-- CAN_FRAME_SENT (R336, R351): the frame of a port with the highest priority has been sent. -/
def execCanFrameSent (e : CanEnd) (s : State) : Out :=
  .next ((s.canNext e.port).elim s fun x =>
    { s with ports := { s.ports with
      canTx := tset none s.ports.canTx (32 * e.port + x.1) none, canSent := s.ports.canSent ++ [(e.port, x.2)],
      canTxCapture := tset 0 s.ports.canTxCapture e.port (s.now - e.ago) } })

/-- ISOBUS_CLAIM_SETTLED (R346): 250 ms after the claim of port `p`. -/
def execIsobusClaimSettled (p : Nat) (s : State) : Out :=
  let x := s.isobusOf p
  if x.on ∧ x.silent = false then .next ((s.waitTo (x.claimAt + 31250000)).setIsobus p { x with settled := true })
  else .next s

/-! ## SPI, GPIO, GNSS and PWM (R351, R413, R418) -/

/-- SPI_TRANSFER (R413, R351): a transfer on chip select `cs` of port `n` completes, `dur` ns after chip-select
assertion. -/
def execSpiTransfer (n cs dur : Nat) (data : List Byte) (s : State) : Out :=
  let t := s.now - dur
  let s1 := { s with ports := { s.ports with spiCapture := tset 0 s.ports.spiCapture (4 * n + cs) t } }
  let s2 := s1.controlSpi (0x400 + n) cs data t
  match s2.attached 4 (0x400 + n) cs with
  | some e =>
    let (s3, ok) := (s2.heard e).checkItem e data t
    .next (if ok then s3.deliver e { capture := t, bytes := data } else s3.dropItem e)
  | none => .next s2

/-- SPI_DATA_READY (R351): the capture of a data-ready edge on port `n`. -/
def execSpiDataReady (n : Nat) (s : State) : Out :=
  .next { s with ports := { s.ports with drdyCapture := tset 0 s.ports.drdyCapture n s.now } }

/-- GPIO_EDGE (R351, R333, R408): an edge on input `n`, none on an output; edges closer than 16 ns are merged, and two edges of the set
polarity give the loops a period. -/
def execGpioEdge (n : Nat) (rising : Bool) (s : State) : Out :=
  if s.ports.cfg.gpioOut.getLsbD n = true ∨ rising ≠ s.ports.cfg.gpioPol.getLsbD n then .next s
  else
    match tget ([] : List Nat) s.ports.gpioEdges n with
    | [] => .next { s with ports := { s.ports with gpioEdges := tset [] s.ports.gpioEdges n [s.now] } }
    | last :: _ =>
      if s.now < last + 16 then .next s
      else
        let s1 := { s with ports := { s.ports with gpioEdges := tset [] s.ports.gpioEdges n [s.now, last] } }
        .next (s1.controlGpio (0x700 + n) (s.now - last) s.now)

/-- A list of bytes cut at every comma: the fields of an NMEA 0183 sentence. -/
def nmeaFields (l : List Byte) : List (List Byte) :=
  l.foldr (fun b acc => if b = 0x2C then [] :: acc else match acc with
    | [] => [[b]]
    | x :: xs => (b :: x) :: xs) [[]]

/-- The value of a hexadecimal digit, and of two. -/
def hexDigit (b : Byte) : Nat :=
  let n := b.toNat
  if 48 ≤ n ∧ n ≤ 57 then n - 48 else if 65 ≤ n ∧ n ≤ 70 then n - 55 else if 97 ≤ n ∧ n ≤ 102 then n - 87 else 256
def hexByte : List Byte → Nat
  | a :: b :: _ => 16 * hexDigit a + hexDigit b
  | _ => 256

/-- What a sentence says of the time of day (R350), in the form that NMEA 0183 gives ZDA and RMC (PRESUMED; log entry 141): whether it
is valid; none for another sentence or a wrong check sum. -/
def nmeaTime (l : List Byte) : Option Bool :=
  let body := (l.drop 1).takeWhile (· ≠ 0x2A)
  let f := nmeaFields body
  let fld (i : Nat) : List Byte := f.getD i []
  if l.head? ≠ some 0x24 ∨ hexByte (l.drop (body.length + 2)) ≠ (body.foldl (· ^^^ ·) 0).toNat then none
  else if (fld 0).drop 2 = [0x5A, 0x44, 0x41] then some (fld 1 != [] && fld 2 != [] && fld 3 != [] && fld 4 != [])
  else if (fld 0).drop 2 = [0x52, 0x4D, 0x43] then some (fld 1 != [] && fld 2 == [0x41] && fld 9 != [])
  else none

/-- The sentence that the last byte at a receiver ends: from its last `$` on (log entry 141). -/
def lastSentence (l : List (Nat × Byte)) : List Byte :=
  let r := (l.map (·.2)).reverse
  ((r.takeWhile (· ≠ 0x24)) ++ [0x24]).reverse

/-- A sentence of receiver `n` is complete: an item of its entry (R338, R342; log entry 139), and where it tells the time of day, the time
service takes it (R350). -/
def State.gnssSentence (s : State) (n : Nat) (l : List Byte) (t : Nat) : State :=
  let s1 := match nmeaTime l with
    | some ok => { s with servo := { s.servo with todOk := ok } }
    | none => s
  match s1.attached 5 (0x500 + n) 0 with
  | some e => (s1.heard e).deliver e { capture := t, bytes := l }
  | none => s1

/-- GNSS_UART_BYTE (R342, R350, R351): a byte at receiver `n`, stamped at its stop bit; a line feed ends a sentence. -/
def execGnssUartByte (n : Nat) (b : Byte) (s : State) : Out :=
  let l := lastN 256 (tget [] s.ports.gnssBytes n ++ [(s.now, b)])
  let s1 := { s with ports := { s.ports with gnssBytes := tset [] s.ports.gnssBytes n l } }
  .next (if b = 0x0A then s1.gnssSentence n (lastSentence l) s.now else s1)

/-- PWM_PERIOD_START (R418, R351): the output starts a period and takes up the latched duty, and its capture is the tick's time
base value with the sub-tick part (R352), in tenths of ns. -/
def execPwmPeriodStart (p : PwmStart) (s : State) : Out :=
  let x := tget ({} : Pwm) s.ports.pwm p.out
  match x.latched with
  | none => .next s
  | some d =>
    .next { s with ports := { s.ports with
      pwm := tset {} s.ports.pwm p.out { x with duty := d, latched := none, capture := 10 * s.now + p.sub } } }

/-! ## REGISTRY (R344, R345) -/

/-- Check 9 of R115 for REGISTRY (R345). -/
def State.registryCheck (s : State) (r : Rec) : Nat × Nat :=
  let b := r.bytes
  let mode := bitsOf (field b 16 1) 0 2
  let e := bitsOf (field b 17 1) 0 6
  let x := s.entry e
  let id := field b 20 2
  let taken := (List.range 64).any fun i => i != e && (s.entry i).bound && (s.entry i).sensorId == id
  firstField
    [ (mode == 0 || field b 24 4 == 0, E_RESERVED, 24), (mode == 0 || field b 28 4 == 0, E_RESERVED, 28),
      (decide (mode ≤ 2), E_RANGE, 16),
      (mode != 0 || (s.objOf (field b 24 4)).isSome, E_HANDLE, 24),
      (mode != 0 || s.objFits (field b 24 4) (64 * field b 28 4) 2048, E_RANGE, 28),
      (mode == 0 || (x.state != 0 && x.gen == field b 18 2), E_RANGE, 18),
      (mode != 1 || !taken, E_BUSY, 20) ]

/-- A REGISTRY record of mode `m` run; a record of the unassigned mode fails under any of the three commands. -/
def State.registry (s : State) (d m : Nat) (eff : State → Rec → State) : State :=
  s.runOp d 0x4F (fun r => bitsOf (field r.bytes 16 1) 0 2 == m || bitsOf (field r.bytes 16 1) 0 2 == 3) s.registryCheck eff

/-- REGISTRY READ: the 64 entries written to the object. -/
def State.registryRead (d : Nat) (s : State) (r : Rec) : State :=
  let bs := (List.range 64).flatMap fun e => (s.entry e).toBytes
  let who := s.recWho d r 0x43
  let (s1, st) := s.objStore who (field r.bytes 24 4) (64 * field r.bytes 28 4) bs
  if st = 0 then s1.completeRec d r.seq 0
  else (s1.undefineFor who (s1.objAddr (field r.bytes 24 4) (64 * field r.bytes 28 4)) bs.length).faultRec d r.seq st

/-- REGISTRY_READ (R345). -/
def execRegistryRead (d : Nat) (s : State) : Out := s.unlessStalled fun s => fin (s.registry d 0 (State.registryRead d))

/-- REGISTRY_BIND (R345): BOUND, ENABLE and SENSOR_ID set. -/
def execRegistryBind (d : Nat) (s : State) : Out :=
  fin (s.registry d 1 fun s r =>
    let e := bitsOf (field r.bytes 17 1) 0 6
    (s.setEntry e { s.entry e with bound := true, enable := bitsOf (field r.bytes 16 1) 2 1 == 1,
                                   sensorId := field r.bytes 20 2 }).completeRec d r.seq 0)

/-- REGISTRY_UNBIND (R345): all three cleared. -/
def execRegistryUnbind (d : Nat) (s : State) : Out :=
  fin (s.registry d 2 fun s r =>
    let e := bitsOf (field r.bytes 17 1) 0 6
    (s.setEntry e { s.entry e with bound := false, enable := false, sensorId := 0 }).completeRec d r.seq 0)

end Sys2Proof.Machine
end

