-- ==== Sys2Proof/Machine/Dispatch.lean ====
section
/-!
DEFINITION. The meaning of every command: one arm per constructor of Instr.
-/
namespace Sys2Proof.Machine

def exec (i : Instr) (s : State) : Host.Outcome State Fault Refusal :=
  match i with
  | .powerOn p b => Sys2Proof.Machine.execPowerOn p b s
  | .perst p => Sys2Proof.Machine.execPerst p s
  | .hotReset p => Sys2Proof.Machine.execHotReset p s
  | .functionLevelReset p => Sys2Proof.Machine.execFunctionLevelReset p s
  | .islandBPowerOn b => Sys2Proof.Machine.execIslandBPowerOn b s
  | .sysPwrokLoss => Sys2Proof.Machine.execSysPwrokLoss s
  | .firmwareVerified => Sys2Proof.Machine.execFirmwareVerified s
  | .mailboxReady cfg => Sys2Proof.Machine.execMailboxReady cfg s
  | .memoryTrainingDone d lanes ue => Sys2Proof.Machine.execMemoryTrainingDone d lanes ue s
  | .shortRetrainDone d eyesOk readBackOk => Sys2Proof.Machine.execShortRetrainDone d eyesOk readBackOk s
  | .combRelease => Sys2Proof.Machine.execCombRelease s
  | .islandBReady => Sys2Proof.Machine.execIslandBReady s
  | .waggleHello link msg rate lanes => Sys2Proof.Machine.execWaggleHello link msg rate lanes s
  | .waggleIdent link msg sigOk => Sys2Proof.Machine.execWaggleIdent link msg sigOk s
  | .waggleOffer link msg => Sys2Proof.Machine.execWaggleOffer link msg s
  | .waggleSelect link msg => Sys2Proof.Machine.execWaggleSelect link msg s
  | .waggleConfirm link msg => Sys2Proof.Machine.execWaggleConfirm link msg s
  | .mainbandTrainingDone link result mods => Sys2Proof.Machine.execMainbandTrainingDone link result mods s
  | .waggleTrained at_ msg => Sys2Proof.Machine.execWaggleTrained at_ msg s
  | .waggleDone link toFollower msg => Sys2Proof.Machine.execWaggleDone link toFollower msg s
  | .waggleReject link msg => Sys2Proof.Machine.execWaggleReject link msg s
  | .waggleNak link toFollower msg => Sys2Proof.Machine.execWaggleNak link toFollower msg s
  | .waggleReplyTimeout link => Sys2Proof.Machine.execWaggleReplyTimeout link s
  | .waggleDoneTimeout link => Sys2Proof.Machine.execWaggleDoneTimeout link s
  | .ringLinkTimeout link => Sys2Proof.Machine.execRingLinkTimeout link s
  | .linkUncorrectableError link => Sys2Proof.Machine.execLinkUncorrectableError link s
  | .linkRetrainDone link => Sys2Proof.Machine.execLinkRetrainDone link s
  | .linkRetrainTimeout link back => Sys2Proof.Machine.execLinkRetrainTimeout link back s
  | .ruradPllLockLoss d => Sys2Proof.Machine.execRuradPllLockLoss d s
  | .ruradLockLossConfirm d => Sys2Proof.Machine.execRuradLockLossConfirm d s
  | .eztosPllLockLoss => Sys2Proof.Machine.execEztosPllLockLoss s
  | .referenceLoss lost => Sys2Proof.Machine.execReferenceLoss lost s
  | .heartbeatSend fromA lock => Sys2Proof.Machine.execHeartbeatSend fromA lock s
  | .heartbeatReceive atA lock period => Sys2Proof.Machine.execHeartbeatReceive atA lock period s
  | .heartbeatMissing atA => Sys2Proof.Machine.execHeartbeatMissing atA s
  | .hifHeartbeatTick => Sys2Proof.Machine.execHifHeartbeatTick s
  | .avsMonitor d mv => Sys2Proof.Machine.execAvsMonitor d mv s
  | .avsStep d => Sys2Proof.Machine.execAvsStep d s
  | .avsbusNoAck d => Sys2Proof.Machine.execAvsbusNoAck d s
  | .combClockGate g => Sys2Proof.Machine.execCombClockGate g s
  | .dieStandbyEnter d => Sys2Proof.Machine.execDieStandbyEnter d s
  | .dieStandbyExitDone d => Sys2Proof.Machine.execDieStandbyExitDone d s
  | .d3hotEntry => Sys2Proof.Machine.execD3hotEntry s
  | .d0Entry => Sys2Proof.Machine.execD0Entry s
  | .rampEstimate die e => Sys2Proof.Machine.execRampEstimate die e s
  | .windowRead x n => Sys2Proof.Machine.execWindowRead x n s
  | .windowWrite x bytes => Sys2Proof.Machine.execWindowWrite x bytes s
  | .registerWrite off bytes => Sys2Proof.Machine.execRegisterWrite off bytes s
  | .rcRead off => Sys2Proof.Machine.execRcRead off s
  | .reg64LowRead off => Sys2Proof.Machine.execReg64LowRead off s
  | .reg64HighRead off => Sys2Proof.Machine.execReg64HighRead off s
  | .reg64LowWrite off v => Sys2Proof.Machine.execReg64LowWrite off v s
  | .reg64HighWrite off v => Sys2Proof.Machine.execReg64HighWrite off v s
  | .invalidRegisterAccess off size => Sys2Proof.Machine.execInvalidRegisterAccess off size s
  | .mbxReqWrite m off bs => Sys2Proof.Machine.execMbxReqWrite m off bs s
  | .mbxDoorbellRefused m => Sys2Proof.Machine.execMbxDoorbellRefused m s
  | .mbxAck m => Sys2Proof.Machine.execMbxAck m s
  | .mbxCancel m => Sys2Proof.Machine.execMbxCancel m s
  | .hello m => Sys2Proof.Machine.execHello m s
  | .getInfo m => Sys2Proof.Machine.execGetInfo m s
  | .memAlloc m base => Sys2Proof.Machine.execMemAlloc m base s
  | .memFree m => Sys2Proof.Machine.execMemFree m s
  | .memoryClearDone n => Sys2Proof.Machine.execMemoryClearDone n s
  | .memInfo m => Sys2Proof.Machine.execMemInfo m s
  | .colonyCreate m => Sys2Proof.Machine.execColonyCreate m s
  | .colonyReservationComplete c => Sys2Proof.Machine.execColonyReservationComplete c s
  | .colonyDestroy m => Sys2Proof.Machine.execColonyDestroy m s
  | .queueCreate m => Sys2Proof.Machine.execQueueCreate m s
  | .queueDestroy m => Sys2Proof.Machine.execQueueDestroy m s
  | .queueDestroyDone d => Sys2Proof.Machine.execQueueDestroyDone d s
  | .funcReinit m => Sys2Proof.Machine.execFuncReinit m s
  | .powerPolicy m => Sys2Proof.Machine.execPowerPolicy m s
  | .safetyTestInjection m => Sys2Proof.Machine.execSafetyTestInjection m s
  | .safetyTestVote m => Sys2Proof.Machine.execSafetyTestVote m s
  | .ledgerRead m => Sys2Proof.Machine.execLedgerRead m s
  | .logRead m => Sys2Proof.Machine.execLogRead m s
  | .logReadDone n => Sys2Proof.Machine.execLogReadDone n s
  | .fwSlotWrite m image => Sys2Proof.Machine.execFwSlotWrite m image s
  | .fwSlotWriteDone ok => Sys2Proof.Machine.execFwSlotWriteDone ok s
  | .fwRollbackAdvance m => Sys2Proof.Machine.execFwRollbackAdvance m s
  | .fwRollbackAdvanceDone => Sys2Proof.Machine.execFwRollbackAdvanceDone s
  | .msixUnmask v => Sys2Proof.Machine.execMsixUnmask v s
  | .fwFatal fault written => Sys2Proof.Machine.execFwFatal fault written s
  | .evtEnable v => Sys2Proof.Machine.execEvtEnable v s
  | .evtTailWrite v => Sys2Proof.Machine.execEvtTailWrite v s
  | .eventRingWrite => Sys2Proof.Machine.execEventRingWrite s
  | .eventCoalesceExpiry => Sys2Proof.Machine.execEventCoalesceExpiry s
  | .queueDoorbell d tail => Sys2Proof.Machine.execQueueDoorbell d tail s
  | .queueResume d => Sys2Proof.Machine.execQueueResume d s
  | .queueFlush d => Sys2Proof.Machine.execQueueFlush d s
  | .cqtailWrite d tail => Sys2Proof.Machine.execCqtailWrite d tail s
  | .recordStart d => Sys2Proof.Machine.execRecordStart d s
  | .nop d => Sys2Proof.Machine.execNop d s
  | .signal d => Sys2Proof.Machine.execSignal d s
  | .wait d => Sys2Proof.Machine.execWait d s
  | .waitRelease d => Sys2Proof.Machine.execWaitRelease d s
  | .waitTimeout d => Sys2Proof.Machine.execWaitTimeout d s
  | .timestamp d => Sys2Proof.Machine.execTimestamp d s
  | .fgCopy d => Sys2Proof.Machine.execFgCopy d s
  | .fgFill d => Sys2Proof.Machine.execFgFill d s
  | .foragerRecordDone k => Sys2Proof.Machine.execForagerRecordDone k s
  | .foragerBudgetExpiry k => Sys2Proof.Machine.execForagerBudgetExpiry k s
  | .jobRun d compiled mode => Sys2Proof.Machine.execJobRun d compiled mode s
  | .jobAssign c => Sys2Proof.Machine.execJobAssign c s
  | .jobStart x => Sys2Proof.Machine.execJobStart x s
  | .jobEnd k => Sys2Proof.Machine.execJobEnd k s
  | .jobSaveDone k => Sys2Proof.Machine.execJobSaveDone k s
  | .jobBudgetExpiry k => Sys2Proof.Machine.execJobBudgetExpiry k s
  | .jobRelease k => Sys2Proof.Machine.execJobRelease k s
  | .beAgeingExpiry c => Sys2Proof.Machine.execBeAgeingExpiry c s
  | .bundleIssue g ops last => Sys2Proof.Machine.execBundleIssue g ops last s
  | .slotwaitExpiry g => Sys2Proof.Machine.execSlotwaitExpiry g s
  | .foragerSlotAdmit g f => Sys2Proof.Machine.execForagerSlotAdmit g f s
  | .foragerSlotwaitExpiry g f => Sys2Proof.Machine.execForagerSlotwaitExpiry g f s
  | .foragerTransferDone g x => Sys2Proof.Machine.execForagerTransferDone g x s
  | .allocatorServe => Sys2Proof.Machine.execAllocatorServe s
  | .spFill g f => Sys2Proof.Machine.execSpFill g f s
  | .spCopy g f => Sys2Proof.Machine.execSpCopy g f s
  | .cacheWb g f => Sys2Proof.Machine.execCacheWb g f s
  | .cacheInv g f => Sys2Proof.Machine.execCacheInv g f s
  | .cacheWbinv g f => Sys2Proof.Machine.execCacheWbinv g f s
  | .scratchpadOpDone g x => Sys2Proof.Machine.execScratchpadOpDone g x s
  | .cacheFillDone g => Sys2Proof.Machine.execCacheFillDone g s
  | .scratchpadEccWriteback g => Sys2Proof.Machine.execScratchpadEccWriteback g s
  | .combDebugHalt g => Sys2Proof.Machine.execCombDebugHalt g s
  | .combDebugRelease g => Sys2Proof.Machine.execCombDebugRelease g s
  | .combDebugStep g => Sys2Proof.Machine.execCombDebugStep g s
  | .combClearCounters g => Sys2Proof.Machine.execCombClearCounters g s
  | .scratchpadDebugRead word => Sys2Proof.Machine.execScratchpadDebugRead word s
  | .scratchpadDebugReadDone ue => Sys2Proof.Machine.execScratchpadDebugReadDone ue s
  | .seqJoin d => Sys2Proof.Machine.execSeqJoin d s
  | .seqFinish d => Sys2Proof.Machine.execSeqFinish d s
  | .seqCtlPin d => Sys2Proof.Machine.execSeqCtlPin d s
  | .seqCtlUnpin d => Sys2Proof.Machine.execSeqCtlUnpin d s
  | .seqCtlHold d => Sys2Proof.Machine.execSeqCtlHold d s
  | .seqCtlRelease d => Sys2Proof.Machine.execSeqCtlRelease d s
  | .seqCtlResume d => Sys2Proof.Machine.execSeqCtlResume d s
  | .stepRun d compiled mode => Sys2Proof.Machine.execStepRun d compiled mode s
  | .stepBuildDone k => Sys2Proof.Machine.execStepBuildDone k s
  | .dramRequest r => Sys2Proof.Machine.execDramRequest r s
  | .dramChannelIssue d ch errs => Sys2Proof.Machine.execDramChannelIssue d ch errs s
  | .refreshDue d ch b => Sys2Proof.Machine.execRefreshDue d ch b s
  | .mimiderSensorRead d temps => Sys2Proof.Machine.execMimiderSensorRead d temps s
  | .rowIdleClose d ch b => Sys2Proof.Machine.execRowIdleClose d ch b s
  | .commandParityFailure d ch what place => Sys2Proof.Machine.execCommandParityFailure d ch what place s
  | .patrolScrub d err => Sys2Proof.Machine.execPatrolScrub d err s
  | .csiPacket n p drained => Sys2Proof.Machine.execCsiPacket n p drained s
  | .csiStopState n => Sys2Proof.Machine.execCsiStopState n s
  | .ethFrameReceive n f fcsOk sub drained => Sys2Proof.Machine.execEthFrameReceive n f fcsOk sub drained s
  | .ethLinkUp n => Sys2Proof.Machine.execEthLinkUp n s
  | .ethLinkDown n => Sys2Proof.Machine.execEthLinkDown n s
  | .portDetach e reason => Sys2Proof.Machine.execPortDetach e reason s
  | .canMessageReceive p f a => Sys2Proof.Machine.execCanMessageReceive p f a s
  | .canFrameSent e => Sys2Proof.Machine.execCanFrameSent e s
  | .isobusClaimSettled p => Sys2Proof.Machine.execIsobusClaimSettled p s
  | .spiTransfer n cs dur data => Sys2Proof.Machine.execSpiTransfer n cs dur data s
  | .spiDataReady n => Sys2Proof.Machine.execSpiDataReady n s
  | .gpioEdge n rising => Sys2Proof.Machine.execGpioEdge n rising s
  | .ppsEdge falling tod rate adj step => Sys2Proof.Machine.execPpsEdge falling tod rate adj step s
  | .ppsMissing => Sys2Proof.Machine.execPpsMissing s
  | .gnssUartByte n b => Sys2Proof.Machine.execGnssUartByte n b s
  | .registryRead d => Sys2Proof.Machine.execRegistryRead d s
  | .registryBind d => Sys2Proof.Machine.execRegistryBind d s
  | .registryUnbind d => Sys2Proof.Machine.execRegistryUnbind d s
  | .syncMessage n gm offset pdelay rate adj step => Sys2Proof.Machine.execSyncMessage n gm offset pdelay rate adj step s
  | .syncTimeout => Sys2Proof.Machine.execSyncTimeout s
  | .holdoverExpiry => Sys2Proof.Machine.execHoldoverExpiry s
  | .syncTransmit => Sys2Proof.Machine.execSyncTransmit s
  | .timCfgWrite v => Sys2Proof.Machine.execTimCfgWrite v s
  | .lidarPacket => Sys2Proof.Machine.execLidarPacket s
  | .cameraFrame => Sys2Proof.Machine.execCameraFrame s
  | .instantClose refine corners => Sys2Proof.Machine.execInstantClose refine corners s
  | .fusionOutputDone => Sys2Proof.Machine.execFusionOutputDone s
  | .fuseCollect d => Sys2Proof.Machine.execFuseCollect d s
  | .fuseConfig d => Sys2Proof.Machine.execFuseConfig d s
  | .calibLoad d => Sys2Proof.Machine.execCalibLoad d s
  | .calibRemove d => Sys2Proof.Machine.execCalibRemove d s
  | .plan d => Sys2Proof.Machine.execPlan d s
  | .planStart => Sys2Proof.Machine.execPlanStart s
  | .planSearchEnd waves fits stop => Sys2Proof.Machine.execPlanSearchEnd waves fits stop s
  | .planOutputDone => Sys2Proof.Machine.execPlanOutputDone s
  | .occLoad d => Sys2Proof.Machine.execOccLoad d s
  | .occLoadDone => Sys2Proof.Machine.execOccLoadDone s
  | .libLoad d => Sys2Proof.Machine.execLibLoad d s
  | .libLoadDone => Sys2Proof.Machine.execLibLoadDone s
  | .loopSet d => Sys2Proof.Machine.execLoopSet d s
  | .loopEnable d => Sys2Proof.Machine.execLoopEnable d s
  | .loopDisable d => Sys2Proof.Machine.execLoopDisable d s
  | .loopResetI d => Sys2Proof.Machine.execLoopResetI d s
  | .trajLoad d => Sys2Proof.Machine.execTrajLoad d s
  | .loopPeriodTrigger n => Sys2Proof.Machine.execLoopPeriodTrigger n s
  | .loopEvaluation => Sys2Proof.Machine.execLoopEvaluation s
  | .cvConfig d => Sys2Proof.Machine.execCvConfig d s
  | .cvRun d => Sys2Proof.Machine.execCvRun d s
  | .cvRunDone d => Sys2Proof.Machine.execCvRunDone d s
  | .cvSave d => Sys2Proof.Machine.execCvSave d s
  | .cvRestore d => Sys2Proof.Machine.execCvRestore d s
  | .cvChanVerify d => Sys2Proof.Machine.execCvChanVerify d s
  | .cvChanOff d => Sys2Proof.Machine.execCvChanOff d s
  | .joinHello msg nb crc => Sys2Proof.Machine.execJoinHello msg nb crc s
  | .joinResp msg crc => Sys2Proof.Machine.execJoinResp msg crc s
  | .joinConfirm msg crc => Sys2Proof.Machine.execJoinConfirm msg crc s
  | .joinDone x => Sys2Proof.Machine.execJoinDone x s
  | .joinHelloRetry => Sys2Proof.Machine.execJoinHelloRetry s
  | .joinTimeout => Sys2Proof.Machine.execJoinTimeout s
  | .islandFaultMessage atA => Sys2Proof.Machine.execIslandFaultMessage atA s
  | .compareMismatch atA group syndrome => Sys2Proof.Machine.execCompareMismatch atA group syndrome s
  | .islandMemoryUe atA => Sys2Proof.Machine.execIslandMemoryUe atA s
  | .islandMemoryScrub atA n => Sys2Proof.Machine.execIslandMemoryScrub atA n s
  | .comparatorTestRun atA seen pause => Sys2Proof.Machine.execComparatorTestRun atA seen pause s
  | .cmpTestOverdue atA => Sys2Proof.Machine.execCmpTestOverdue atA s
  | .debugEnable atA certOk => Sys2Proof.Machine.execDebugEnable atA certOk s
  | .debugHalt atA => Sys2Proof.Machine.execDebugHalt atA s
  | .debugResume atA => Sys2Proof.Machine.execDebugResume atA s
  | .debugSingleStep atA => Sys2Proof.Machine.execDebugSingleStep atA s
  | .debugBreakpointSet atA addr => Sys2Proof.Machine.execDebugBreakpointSet atA addr s
  | .debugRegisterRead atA r => Sys2Proof.Machine.execDebugRegisterRead atA r s
  | .debugRegisterWrite atA r v => Sys2Proof.Machine.execDebugRegisterWrite atA r v s
  | .debugMemoryRead atA addr n => Sys2Proof.Machine.execDebugMemoryRead atA addr n s
  | .debugMemoryWrite atA addr bs => Sys2Proof.Machine.execDebugMemoryWrite atA addr bs s
  | .configVoteScrub upsets => Sys2Proof.Machine.execConfigVoteScrub upsets s
  | .configRecordWrite => Sys2Proof.Machine.execConfigRecordWrite s
  | .configRecordWriteDone => Sys2Proof.Machine.execConfigRecordWriteDone s
  | .configRecordRead => Sys2Proof.Machine.execConfigRecordRead s
  | .guardExpiry g => Sys2Proof.Machine.execGuardExpiry g s
  | .deadlineMiss d => Sys2Proof.Machine.execDeadlineMiss d s
  | .checkerSummaryCopy c => Sys2Proof.Machine.execCheckerSummaryCopy c s
  | .checkerLagExpiry c => Sys2Proof.Machine.execCheckerLagExpiry c s
  | .functionRestartResume n => Sys2Proof.Machine.execFunctionRestartResume n s
  | .restartOverrun n => Sys2Proof.Machine.execRestartOverrun n s
  | .stopFrameRepeat inA index => Sys2Proof.Machine.execStopFrameRepeat inA index s
  | .sensorSample die temps => Sys2Proof.Machine.execSensorSample die temps s
  | .uathalSensorReport temps failed => Sys2Proof.Machine.execUathalSensorReport temps failed s
  | .thermalForecast power => Sys2Proof.Machine.execThermalForecast power s
  | .dutyReview rise fill => Sys2Proof.Machine.execDutyReview rise fill s
  | .sustainedWindow => Sys2Proof.Machine.execSustainedWindow s
  | .rthWindow avg lo hi powers => Sys2Proof.Machine.execRthWindow avg lo hi powers s
  | .coolantStale => Sys2Proof.Machine.execCoolantStale s
  | .coolantWrite v => Sys2Proof.Machine.execCoolantWrite v s
  | .thermalLimitsWrite v => Sys2Proof.Machine.execThermalLimitsWrite v s
  | .thermalCtlWrite v => Sys2Proof.Machine.execThermalCtlWrite v s
  | .swarmPortEnable n => Sys2Proof.Machine.execSwarmPortEnable n s
  | .swarmPortDisable n => Sys2Proof.Machine.execSwarmPortDisable n s
  | .swarmIdWrite swarm v => Sys2Proof.Machine.execSwarmIdWrite swarm v s
  | .swarmTrainingDone n slow => Sys2Proof.Machine.execSwarmTrainingDone n slow s
  | .swarmHello n f => Sys2Proof.Machine.execSwarmHello n f s
  | .swarmDone n f => Sys2Proof.Machine.execSwarmDone n f s
  | .swarmReject n f => Sys2Proof.Machine.execSwarmReject n f s
  | .swarmRequestFlit n f => Sys2Proof.Machine.execSwarmRequestFlit n f s
  | .swarmResponseFlit n f => Sys2Proof.Machine.execSwarmResponseFlit n f s
  | .swarmAckFlit n f => Sys2Proof.Machine.execSwarmAckFlit n f s
  | .swarmAdvertisement n f => Sys2Proof.Machine.execSwarmAdvertisement n f s
  | .swarmAdvertiseTimer => Sys2Proof.Machine.execSwarmAdvertiseTimer s
  | .swarmRetrainDone n => Sys2Proof.Machine.execSwarmRetrainDone n s
  | .swarmRetrainTimeout n => Sys2Proof.Machine.execSwarmRetrainTimeout n s
  | .swarmSilence n => Sys2Proof.Machine.execSwarmSilence n s
  | .swarmCopy d => Sys2Proof.Machine.execSwarmCopy d s
  | .swarmSignal d => Sys2Proof.Machine.execSwarmSignal d s
  | .swarmExportEnable v => Sys2Proof.Machine.execSwarmExportEnable v s
  | .bwrClear => Sys2Proof.Machine.execBwrClear s
  | .imaskWrite v => Sys2Proof.Machine.execImaskWrite v s
  | .aerError kind => Sys2Proof.Machine.execAerError kind s
  | .perstDeassert width rate => Sys2Proof.Machine.execPerstDeassert width rate s
  | .pwmPeriodStart p => Sys2Proof.Machine.execPwmPeriodStart p s
  | .vddSfdLoss => Sys2Proof.Machine.execVddSfdLoss s

end Sys2Proof.Machine
end

