-- ==== Sys2Proof/Safety.lean ====
section
/-!
DEFINITION. What holds of a machine in every safe run: the tables that can be listed in more than one way are in their one
canonical form; and the conditions that statements about the commands share.
-/
namespace Sys2Proof.Machine

/-- The invariant: the register file, DRAM, what the device has written to host memory and the credits are in canonical form (keys
strictly rising, no entry equal to what an unlisted key reads as); every credit lies within ±256,000 (R320); the event buffer holds at
most 512 records and one OVERFLOW record (R99), and the event log at most 65,536 (R479). -/
def State.Inv (s : State) : Prop :=
  twf (0 : Word64) s.regs = true ∧ s.dram.wf = true ∧ s.hif.hostMem.wf = true ∧ twf (0 : Int) s.mem.credit = true ∧
    (∀ e ∈ s.mem.credit, -256000 ≤ e.2 ∧ e.2 ≤ 256000) ∧ s.hif.evtBuf.length ≤ 513 ∧ s.hif.evtLog.length ≤ 65536

/-- A step that is safe: it answers a next state. -/
def State.Runs (s : State) : Prop := ∃ t, step s = .next t

/-! ## Waggle -/

/-- A reply that the leader of link `k` acts on (R31): CHECK holds, it answers the outstanding request, on protocol 1. -/
abbrev State.takesReply (s : State) (k : Nat) (m : WaggleMsg) (type : Nat) (phase : WagPhase) : Prop :=
  wOk m = true ∧ wType m = type ∧ wLink m = k ∧ wProto m = 1 ∧ (s.wag k).phase = phase ∧ wSeq m = (s.wag k).seq.toNat

/-- A new request that the follower of link `k` acts on (R31). -/
abbrev State.takesRequest (s : State) (k : Nat) (m : WaggleMsg) (type : Nat) : Prop :=
  (s.wag k).folRejected = false ∧ wOk m = true ∧ wType m = type ∧ (s.wag k).folSeq ≠ some (BitVec.ofNat 8 (wSeq m))

/-- The follower's replies to a new request, which it keeps for a repeated one (R31). -/
def State.answerWith (s : State) (k : Nat) (m : WaggleMsg) (l : List WaggleMsg) : State :=
  l.foldl (fun s r => s.wagSend k false r) (s.modWag k fun y => { y with folSeq := some (BitVec.ofNat 8 (wSeq m)), folReply := l })

/-! ## Mailboxes and records -/

/-- The request that mailbox `m` holds: its LEN bytes, and its TAG (R83, R87). -/
def State.request (s : State) (m : Nat) : List Byte := (s.mbx m).copy.take (field (s.mbx m).copy 4 2)
def State.requestTag (s : State) (m : Nat) : BitVec 16 := BitVec.ofNat 16 (field (s.mbx m).copy 2 2)

/-- Mailbox `m` holds in BUSY a request for command `cmd` that passes R89 and answers no remembered TAG (R85), and the firmware
serves. -/
abbrev State.serving (s : State) (m cmd : Nat) : Prop :=
  m < 16 ∧ s.mbxState m = 1 ∧ s.hif.fwStopped = false ∧ field (s.mbx m).copy 0 2 = cmd ∧ s.requestCheck m (s.mbx m).copy = 0 ∧
    ((s.mbx m).remembered.find? fun r => r.tag == s.requestTag m && r.cmd == BitVec.ofNat 16 cmd) = none

/-- Record `r` of opcode `op` on queue `d` is next, the completion ring has room (R127), and the record is through checks 1-10 of R115,
of which `check` is its own check 9. -/
abbrev State.startable (s : State) (d op : Nat) (r : Rec) (check : Rec → Nat × Nat) : Prop :=
  s.pickRec d op (fun _ => true) = some r ∧ s.cqRoom d (s.queue d) = true ∧ (s.checks (s.queue d).cls (check r)).1 = 0

end Sys2Proof.Machine
end

