-- ==== Sys2Proof/WellFormed.lean ====
section
/-!
DEFINITION. Which commands are well-formed: every index names something that exists (16 mailboxes, 128 doorbell slots, 64 combs
with two foragers, 4 pairs of 32 channels of 16 banks, the ports of R336, 10 waggle links, 4 swarm ports, 64 vectors), every
message and flit has its length (R29, R501), every access lies in its BAR (R72, R532).
-/
namespace Sys2Proof

/-- Whether a request has the shape of R293: KIND 0-2, a word-aligned address of package DRAM, 1-8 words within one burst with a
mask, data and poison for each word of a write, an atomic on one aligned 8-byte value, HINT in 2 bits, a task label, DEADLINE in
16 bits and a SOURCE of R308. -/
def DramReq.wf (r : DramReq) : Bool :=
  decide (r.kind < 3 ∧ r.addr < 2 ^ 36 ∧ 1 ≤ r.words ∧ r.words ≤ 8 ∧ r.addr % 512 / 64 + r.words ≤ 8 ∧ r.hint < 4 ∧ r.label < 16
    ∧ r.deadline.getD 0 < 65536 ∧ (r.source < 64 ∨ (0x40 ≤ r.source ∧ r.source ≤ 0x49)))
  && (if r.kind = 1 then r.mask.length == r.words && r.data.length == 64 * r.words && decide (r.poison.length ≤ r.words)
      else if r.kind = 2 then decide (r.words = 1 ∧ r.addr % 8 = 0 ∧ r.data.length = 8) else true)
  && (r.kind == 2 || r.addr % 64 == 0)

/-- Whether a CAN frame is one of R333: an 11 or 29-bit identifier, up to 8 data bytes or a length that CAN FD codes, and a bit rate
switch in a CAN FD frame alone. -/
def CanFrame.wf (f : CanFrame) : Bool :=
  decide (f.id < (if f.ide then 2 ^ 29 else 2 ^ 11)) && (f.fdf || !f.brs)
  && (decide (f.data.length ≤ 8) || (f.fdf && [12, 16, 20, 24, 32, 48, 64].contains f.data.length))

/-- Whether a CSI-2 packet is one of R333: 16 virtual channels, a 6-bit data type, a 16-bit word count. -/
def CsiPacket.wf (p : CsiPacket) : Bool :=
  decide (p.vc < 16 ∧ p.dtype < 64 ∧ p.word < 65536 ∧ p.payload.length < 65536 ∧ p.header < 3)

/-- Whether the settings of a CAN controller are within the limits of R333. -/
def CanTiming.wf (t : CanTiming) : Bool :=
  decide (t.arbRate ≤ 1000000 ∧ t.dataRate ≤ 8000000 ∧ t.arbSample ≤ 1000 ∧ t.dataSample ≤ 1000)

/-- Whether the settings of the other ports are within the limits of R333: PWM periods of 50 µs to 1 s in steps of 3.2 ns, SPI modes 0-3,
GNSS UARTs of 9,600 to 921,600 baud, and RS-FEC on 25 Gb/s ports alone. -/
def FwConfig.portsOk (c : FwConfig) : Bool :=
  c.pwmPeriod.all (fun x => decide (15625 ≤ x ∧ x ≤ 312500000)) && c.spiMode.all (fun x => decide (x < 4))
  && c.uartBaud.all (fun x => decide (9600 ≤ x ∧ x ≤ 921600)) && c.ethFec &&& ~~~c.eth25 == 0
  && decide (c.spiMode.length ≤ 4 ∧ c.uartBaud.length ≤ 2)

/-- Whether a firmware configuration names what exists: an ISHARE of up to 16 GiB of each pair (R287), reserved ranges under
partition 17-20 (R325), sensors of KIND 4 and 5 (R339), at most two ISOBUS ports (R346), the 8 CAN and 8 PWM ports (R336, R418) and
windows of 256 MiB to 64 GiB (R72). -/
def FwConfig.wf (c : FwConfig) : Bool :=
  decide (c.major < 256 ∧ c.minor < 256 ∧ c.ishare ≤ 16 ∧ 28 ≤ c.winMax ∧ c.winMax ≤ 36 ∧ c.isobus.length ≤ 2
    ∧ c.canTiming.length ≤ 8 ∧ c.pwmPeriod.length ≤ 8)
  && c.ranges.all (fun r => decide (17 ≤ r.partition ∧ r.partition ≤ 20 ∧ r.base + r.size ≤ 2 ^ 36))
  && c.sensors.all (fun x => x.kind == 4 || x.kind == 5)
  && c.isobus.all (fun x => decide (x.port < 8 ∧ x.addr < 256)) && c.canTiming.all CanTiming.wf && c.portsOk

/-- Whether an upset names a copy of a configuration record (R453, R456). -/
def Upset.wf (u : Upset) : Bool := decide (u.island < 2 ∧ u.index ≤ 100 ∧ u.copy < 3)

/-- Whether `addr` to `addr + n` lies in the shared memory of island A or island B (R451). -/
def islandRange (atA : Bool) (addr n : Nat) : Bool := decide (addr + n ≤ if atA then 2 ^ 21 else 2 ^ 20)

/-- Whether a command's operands are in range.  The machine runs other commands too; those have no effect or the effect that the
rules give them. -/
def Instr.wf (i : Instr) : Bool :=
  match i with
  | .powerOn _ _ => true
  | .perst _ => true
  | .hotReset _ => true
  | .functionLevelReset _ => true
  | .islandBPowerOn _ => true
  | .sysPwrokLoss => true
  | .firmwareVerified => true
  | .mailboxReady cfg => cfg.wf
  | .memoryTrainingDone d lanes _ => decide (d < 4 ∧ lanes.length ≤ 32)
  | .shortRetrainDone d _ _ => decide (d < 4)
  | .combRelease => true
  | .islandBReady => true
  | .waggleHello link msg _ _ => decide (link < 10 ∧ msg.length = 32)
  | .waggleIdent link msg _ => decide (link < 10 ∧ msg.length = 32)
  | .waggleOffer link msg => decide (link < 10 ∧ msg.length = 32)
  | .waggleSelect link msg => decide (link < 10 ∧ msg.length = 32)
  | .waggleConfirm link msg => decide (link < 10 ∧ msg.length = 32)
  | .mainbandTrainingDone link _ _ => decide (link < 10)
  | .waggleTrained at_ msg => decide (at_.link < 10 ∧ msg.length = 32)
  | .waggleDone link _ msg => decide (link < 10 ∧ msg.length = 32)
  | .waggleReject link msg => decide (link < 10 ∧ msg.length = 32)
  | .waggleNak link _ msg => decide (link < 10 ∧ msg.length = 32)
  | .waggleReplyTimeout link => decide (link < 14)
  | .waggleDoneTimeout link => decide (link < 10)
  | .ringLinkTimeout link => decide (link < 10)
  | .linkUncorrectableError link => decide (link < 10)
  | .linkRetrainDone link => decide (link < 10)
  | .linkRetrainTimeout link _ => decide (link < 10)
  | .ruradPllLockLoss d => decide (d < 4)
  | .ruradLockLossConfirm d => decide (d < 4)
  | .eztosPllLockLoss => true
  | .referenceLoss _ => true
  | .heartbeatSend _ _ => true
  | .heartbeatReceive _ _ _ => true
  | .heartbeatMissing _ => true
  | .hifHeartbeatTick => true
  | .avsMonitor d _ => decide (d < 4)
  | .avsStep d => decide (d < 4)
  | .avsbusNoAck d => decide (d < 4)
  | .combClockGate g => decide (g < 64)
  | .dieStandbyEnter d => decide (d < 4)
  | .dieStandbyExitDone d => decide (d < 4)
  | .d3hotEntry => true
  | .d0Entry => true
  | .rampEstimate die e => decide (die < 5 ∧ e.be ≤ e.mw)
  | .windowRead x n => decide (x + n ≤ 2 ^ 36)
  | .windowWrite x bytes => decide (x + bytes.length ≤ 2 ^ 36)
  | .registerWrite off bytes => decide (off + bytes.length ≤ 0x410000)
  | .rcRead off => decide (off < 0x410000)
  | .reg64LowRead off => decide (off < 0x400000 ∧ off % 8 = 0)
  | .reg64HighRead off => decide (off < 0x400000 ∧ off % 4 = 0)
  | .reg64LowWrite off _ => decide (off < 0x400000 ∧ off % 8 = 0)
  | .reg64HighWrite off _ => decide (off < 0x400000 ∧ off % 8 = 4)
  | .invalidRegisterAccess off _ => decide (off < 0x400000)
  | .mbxReqWrite m off bs => decide (m < 16 ∧ off + bs.length ≤ 256)
  | .mbxDoorbellRefused m => decide (m < 16)
  | .mbxAck m => decide (m < 16)
  | .mbxCancel m => decide (m < 16)
  | .hello m => decide (m < 16)
  | .getInfo m => decide (m < 16)
  | .memAlloc m _ => decide (m < 16)
  | .memFree m => decide (m < 16)
  | .memoryClearDone _ => true
  | .memInfo m => decide (m < 16)
  | .colonyCreate m => decide (m < 16)
  | .colonyReservationComplete c => decide (c < 16)
  | .colonyDestroy m => decide (m < 16)
  | .queueCreate m => decide (m < 16)
  | .queueDestroy m => decide (m < 16)
  | .queueDestroyDone d => decide (d < 128)
  | .funcReinit m => decide (m < 16)
  | .powerPolicy m => decide (m < 16)
  | .safetyTestInjection m => decide (m < 16)
  | .safetyTestVote m => decide (m < 16)
  | .ledgerRead m => decide (m < 16)
  | .logRead m => decide (m < 16)
  | .logReadDone _ => true
  | .fwSlotWrite m _ => decide (m < 16)
  | .fwSlotWriteDone _ => true
  | .fwRollbackAdvance m => decide (m < 16)
  | .fwRollbackAdvanceDone => true
  | .msixUnmask v => decide (v < 64)
  | .fwFatal _ _ => true
  | .evtEnable _ => true
  | .evtTailWrite _ => true
  | .eventRingWrite => true
  | .eventCoalesceExpiry => true
  | .queueDoorbell d _ => decide (d < 128)
  | .queueResume d => decide (d < 128)
  | .queueFlush d => decide (d < 128)
  | .cqtailWrite d _ => decide (d < 128)
  | .recordStart d => decide (d < 128)
  | .nop d => decide (d < 128)
  | .signal d => decide (d < 128)
  | .wait d => decide (d < 128)
  | .waitRelease d => decide (d < 128)
  | .waitTimeout d => decide (d < 128)
  | .timestamp d => decide (d < 128)
  | .fgCopy d => decide (d < 128)
  | .fgFill d => decide (d < 128)
  | .foragerRecordDone k => decide (k < 8388608)
  | .foragerBudgetExpiry k => decide (k < 8388608)
  | .jobRun d _ mode => decide (d < 128 ∧ mode < 4)
  | .jobAssign c => decide (c ≤ 16)
  | .jobStart x => decide (x.job < 8388608 ∧ x.est.length = 4)
  | .jobEnd k => decide (k < 8388608)
  | .jobSaveDone k => decide (k < 8388608)
  | .jobBudgetExpiry k => decide (k < 8388608)
  | .jobRelease k => decide (k < 8388608)
  | .beAgeingExpiry c => decide (c ≤ 16)
  | .bundleIssue g ops _ => decide (g < 64) && ops.all Machine.bopOk
  | .slotwaitExpiry g => decide (g < 64)
  | .foragerSlotAdmit g f => decide (g < 64 ∧ f < 2)
  | .foragerSlotwaitExpiry g f => decide (g < 64 ∧ f < 2)
  | .foragerTransferDone g x => decide (g < 64 ∧ x.forager < 2)
  | .allocatorServe => true
  | .spFill g f => decide (g < 64 ∧ f < 2)
  | .spCopy g f => decide (g < 64 ∧ f < 2)
  | .cacheWb g f => decide (g < 64 ∧ f < 2)
  | .cacheInv g f => decide (g < 64 ∧ f < 2)
  | .cacheWbinv g f => decide (g < 64 ∧ f < 2)
  | .scratchpadOpDone g x => decide (g < 64 ∧ x.forager < 2)
  | .cacheFillDone g => decide (g < 64)
  | .scratchpadEccWriteback g => decide (g < 64)
  | .combDebugHalt g => decide (g < 64)
  | .combDebugRelease g => decide (g < 64)
  | .combDebugStep g => decide (g < 64)
  | .combClearCounters g => decide (g < 64)
  | .scratchpadDebugRead word => decide (word < 2 ^ 18)
  | .scratchpadDebugReadDone _ => true
  | .seqJoin d => decide (d < 128)
  | .seqFinish d => decide (d < 128)
  | .seqCtlPin d => decide (d < 128)
  | .seqCtlUnpin d => decide (d < 128)
  | .seqCtlHold d => decide (d < 128)
  | .seqCtlRelease d => decide (d < 128)
  | .seqCtlResume d => decide (d < 128)
  | .stepRun d _ mode => decide (d < 128 ∧ mode < 4)
  | .stepBuildDone k => decide (k < 8388608)
  | .dramRequest r => r.wf
  | .dramChannelIssue d ch errs => decide (d < 4 ∧ ch < 32 ∧ errs.length ≤ 8) && errs.all fun e => decide (e < 3)
  | .refreshDue d ch b => decide (d < 4 ∧ ch < 32 ∧ b < 16)
  | .mimiderSensorRead d temps => decide (d < 4 ∧ temps.length ≤ 8)
  | .rowIdleClose d ch b => decide (d < 4 ∧ ch < 32 ∧ b < 16)
  | .commandParityFailure d ch what place => decide (d < 4 ∧ ch < 32 ∧ what < 4 ∧ if 2 ≤ what then place < 16 else place < 2 ^ 36)
  | .patrolScrub d err => decide (d < 4 ∧ err < 3)
  | .csiPacket n p _ => decide (n < 16) && p.wf
  | .csiStopState n => decide (n < 16)
  | .ethFrameReceive n _ _ _ _ => decide (n < 12)
  | .ethLinkUp n => decide (n < 12)
  | .ethLinkDown n => decide (n < 12)
  | .portDetach e reason => decide (e < 64) && [1, 2, 4].contains reason
  | .canMessageReceive p f _ => decide (p < 8) && f.wf
  | .canFrameSent e => decide (e.port < 8)
  | .isobusClaimSettled p => decide (p < 8)
  | .spiTransfer n cs _ data => decide (n < 4 ∧ cs < 4 ∧ 1 ≤ data.length ∧ data.length ≤ 256)
  | .spiDataReady n => decide (n < 4)
  | .gpioEdge n _ => decide (n < 32)
  | .ppsEdge _ _ _ _ _ => true
  | .ppsMissing => true
  | .gnssUartByte n _ => decide (n < 2)
  | .registryRead d => decide (d < 128)
  | .registryBind d => decide (d < 128)
  | .registryUnbind d => decide (d < 128)
  | .syncMessage n _ _ _ _ _ _ => decide (n < 12)
  | .syncTimeout => true
  | .holdoverExpiry => true
  | .syncTransmit => true
  | .timCfgWrite _ => true
  | .lidarPacket => true
  | .cameraFrame => true
  | .instantClose refine corners => decide (refine.length = 7 ∧ corners.length ≤ 32)
  | .fusionOutputDone => true
  | .fuseCollect d => decide (d < 128)
  | .fuseConfig d => decide (d < 128)
  | .calibLoad d => decide (d < 128)
  | .calibRemove d => decide (d < 128)
  | .plan d => decide (d < 128)
  | .planStart => true
  | .planSearchEnd _ _ _ => true
  | .planOutputDone => true
  | .occLoad d => decide (d < 128)
  | .occLoadDone => true
  | .libLoad d => decide (d < 128)
  | .libLoadDone => true
  | .loopSet d => decide (d < 128)
  | .loopEnable d => decide (d < 128)
  | .loopDisable d => decide (d < 128)
  | .loopResetI d => decide (d < 128)
  | .trajLoad d => decide (d < 128)
  | .loopPeriodTrigger n => decide (n < 32)
  | .loopEvaluation => true
  | .cvConfig d => decide (d < 128)
  | .cvRun d => decide (d < 128)
  | .cvRunDone d => decide (d < 128)
  | .cvSave d => decide (d < 128)
  | .cvRestore d => decide (d < 128)
  | .cvChanVerify d => decide (d < 128)
  | .cvChanOff d => decide (d < 128)
  | .joinHello msg nb crc => decide (msg.length = 26 ∧ nb.length = 16 ∧ crc.length = 2)
  | .joinResp msg crc => decide (msg.length = 48 ∧ crc.length = 2)
  | .joinConfirm msg crc => decide (msg.length = 16 ∧ crc.length = 2)
  | .joinDone x => decide (x.msg.length = 3)
  | .joinHelloRetry => true
  | .joinTimeout => true
  | .islandFaultMessage _ => true
  | .compareMismatch _ group syndrome => decide (group < 64 ∧ syndrome < 2 ^ 32)
  | .islandMemoryUe _ => true
  | .islandMemoryScrub _ _ => true
  | .comparatorTestRun _ seen pause => decide (pause ≤ 1250) && seen.all fun x => decide (x.group < 64 ∧ x.slot < 4)
      && x.flags.all fun f => decide (f.1 < 64 ∧ f.2 < 2 ^ 32)
  | .cmpTestOverdue _ => true
  | .debugEnable _ _ => true
  | .debugHalt _ => true
  | .debugResume _ => true
  | .debugSingleStep _ => true
  | .debugBreakpointSet _ _ => true
  | .debugRegisterRead _ _ => true
  | .debugRegisterWrite _ _ _ => true
  | .debugMemoryRead atA addr n => islandRange atA addr n
  | .debugMemoryWrite atA addr bs => islandRange atA addr bs.length
  | .configVoteScrub upsets => upsets.all Upset.wf
  | .configRecordWrite => true
  | .configRecordWriteDone => true
  | .configRecordRead => true
  | .guardExpiry g => decide (g < 64)
  | .deadlineMiss d => decide (d < 16)
  | .checkerSummaryCopy c => decide (c < 8)
  | .checkerLagExpiry c => decide (c < 8)
  | .functionRestartResume _ => true
  | .restartOverrun _ => true
  | .stopFrameRepeat _ index => decide (96 ≤ index ∧ index ≤ 99)
  | .sensorSample die temps => decide (die < 10 ∧ temps.length = if die < 4 then 55 else if die < 8 then 8 else if die = 8 then 36 else 12)
  | .uathalSensorReport temps failed => decide (temps.length = 12 ∧ failed.all (· < 12) = true)
  | .thermalForecast power => decide (power.length = 6)
  | .dutyReview _ fill => decide (fill.length = 4)
  | .sustainedWindow => true
  | .rthWindow avg lo hi powers => decide (lo ≤ avg ∧ avg ≤ hi ∧ powers.length = 6)
  | .coolantStale => true
  | .coolantWrite _ => true
  | .thermalLimitsWrite _ => true
  | .thermalCtlWrite _ => true
  | .swarmPortEnable n => decide (n < 4)
  | .swarmPortDisable n => decide (n < 4)
  | .swarmIdWrite _ _ => true
  | .swarmTrainingDone n _ => decide (n < 4)
  | .swarmHello n f => decide (n < 4 ∧ f.length = 256)
  | .swarmDone n f => decide (n < 4 ∧ f.length = 256)
  | .swarmReject n f => decide (n < 4 ∧ f.length = 256)
  | .swarmRequestFlit n f => decide (n < 4 ∧ f.length = 256)
  | .swarmResponseFlit n f => decide (n < 4 ∧ f.length = 256)
  | .swarmAckFlit n f => decide (n < 4 ∧ f.length = 256)
  | .swarmAdvertisement n f => decide (n < 4 ∧ f.length = 256)
  | .swarmAdvertiseTimer => true
  | .swarmRetrainDone n => decide (n < 4)
  | .swarmRetrainTimeout n => decide (n < 4)
  | .swarmSilence n => decide (n < 4)
  | .swarmCopy d => decide (d < 128)
  | .swarmSignal d => decide (d < 128)
  | .swarmExportEnable _ => true
  | .bwrClear => true
  | .imaskWrite _ => true
  | .aerError kind => decide (1 ≤ kind ∧ kind ≤ 3)
  | .perstDeassert width rate => decide (width ≤ 8 ∧ rate ≤ 32)
  | .pwmPeriodStart p => decide (p.out < 8 ∧ p.sub < 80)
  | .vddSfdLoss => true

end Sys2Proof
end

