-- ==== Sys2Proof/Certificates/Slice0/Obligations.lean ====
section
/-! DEFINITION. The statements.  The completion statements (names in …Complete, …Completes) say, family by family, that a command
answers a next state and which; the frame statements (…Frames) what it leaves unchanged; the others state rules of spec/ over all
states.  Each docstring names the rules it rests on, and the log entries where it rests on a choice of the model. -/
open Sys2Proof Sys2Proof.Machine

/-- Resets and boot (R26, R48, R52-R54): what each command leaves when it takes effect. Where the spec leaves a point open, what stands here
is the model's choice (log entries 12, 28, 29, 101, 125, 126, 128). -/
def Obligations.BootCommandsComplete : Prop :=
  ∀ (s : State) (p : PkgInputs) (b : SfdInputs) (cfg : FwConfig) (d i width rate : Nat) (lanes : List Nat),
    exec (.powerOn p none) s = .next (((s.modPkg fun k => { k with heldInReset := false }).deviceReset p true PWR_RSTCAUSE_POWER_ON).settle) ∧
    exec (.powerOn p (some b)) s =
      .next ((((s.modPkg fun k => { k with heldInReset := false }).deviceReset p true PWR_RSTCAUSE_POWER_ON).powerIslandB b).settle) ∧
    (s.pkg.heldInReset = false →
      exec (.perst p) s = .next (((s.modPkg fun k => { k with perstLow := true }).deviceReset p false PWR_RSTCAUSE_PERST).settle) ∧
      exec (.perstDeassert width rate) s = .next ((s.modPkg fun k => { k with perstLow := false, pcieWidth := width, pcieRate := rate }).wrB
        HIF_STATUS_DOWNTRAINED (decide (width < 8 ∨ rate < 32))).enumerate) ∧
    (s.pkg.heldInReset = false → s.pkg.perstLow = false →
      exec (.hotReset p) s = .next (s.linkReset p PWR_RSTCAUSE_HOT_RESET).settle ∧
      exec (.functionLevelReset p) s = .next (s.linkReset p PWR_RSTCAUSE_FLR).settle) ∧
    (s.on SAF_ISL_STATUS_B_JOINED = false → exec (.islandBPowerOn b) s = .next (s.powerIslandB b).settle) ∧
    exec .sysPwrokLoss s = .next ((((s.stopB 3).afterReset { s.pkg.inputs with flash := none } true).draw 1).modPkg fun k =>
      { k with heldInReset := true, perstLow := true }).settle ∧
    (s.on SAF_ISL_STATUS_B_JOINED = false ∨ s.pkg.sfdPowered = false → exec .vddSfdLoss s = .next { s with
      pkg := { s.pkg with sfdPowered := false, sfdSlot := none }
      saf := { s.saf with islB := {}, join := { s.saf.join with ready := false } } }) ∧
    (s.on SAF_ISL_STATUS_B_JOINED = true → s.pkg.sfdPowered = true → ∀ u : State,
      u = s.wr (SAF_CMP_AGE_SECONDS.idx 1) (min (s.saf.islB.ageTicks / 125000000) (2 ^ 32 - 1)) → exec .vddSfdLoss s = .next { u with
      pkg := { u.pkg with sfdPowered := false, sfdSlot := none }
      saf := { u.saf with islB := {}, join := { u.saf.join with ready := false } } }) ∧
    (s.rd IDN_BOOT_STAGE = 1 → s.pkg.heldInReset = false →
      pickSlot s.pkg.iodFlash s.pkg.iodFuse (BitVec.ofNat 8 (s.rd (IDN_DIE_REV.idx 8))) = some i →
      exec .firmwareVerified s = .next (((s.wr IDN_BOOT_STAGE 3).modPkg fun k =>
        { k with iodSlot := some i, iodImage := slotImage k.iodFlash i }).startWaggle.joinStart)) ∧
    (s.rd IDN_BOOT_STAGE = 3 → s.diesSettled = true → s.includedDies ≠ [] → s.pkg.heldInReset = false →
      ∃ u : State, u.on MBX_CTRL_READY = true ∧ u.rd IDN_BOOT_STAGE = 4 ∧ u.ports.cfg = cfg ∧
        exec (.mailboxReady cfg) s = .next (u.startPorts.bootEvents.bootWait).settle) ∧
    (s.mayTrain d = true → s.pkg.warmReset = false → (lanes.take 32).findIdx? (8 < ·) = none →
      exec (.memoryTrainingDone d lanes none) s = .next (((((s.zeroDie d).trainLanes d lanes).wr (DMC_STATUS_TRAINED.idx d) 1).modPkg
        fun k => { k with trained := k.trained ||| (1#4 <<< d), lanes := tset none k.lanes d (some (lanes.take 32)) }).warmTrainEnds.bootWait).settle) ∧
    (s.mayTrain d = true → s.pkg.warmReset = true → s.pkg.shortTrainEnded.getLsbD d = false →
      ∃ u : State, u.on (DMC_STATUS_TRAINED.idx d) = true ∧ u.on (DMC_STATUS_WARM.idx d) = true ∧
        exec (.shortRetrainDone d true true) s = .next (u.warmTrainEnds.bootWait).settle) ∧
    ((s.rd IDN_BOOT_STAGE = 4 ∨ s.rd IDN_BOOT_STAGE = 5) → s.rd IDN_BOOT_ERROR = 0 → s.includedDies ≠ [] →
      (s.includedDies.all fun d => s.on (DMC_STATUS_TRAINED.idx d)) = true → s.ringsSettled = true → s.on IDN_BOOT_ISLAND_B = true →
      ∃ t, exec .combRelease s = .next t ∧ t.on HIF_GSTATUS_BOOT_LOCK = true ∧ t.rd IDN_BOOT_STAGE = 6) ∧
    (s.pkg.sfdPowered = true → s.saf.join.ready = false → pickSlot s.pkg.sfdFlash s.pkg.sfdFuse (identRev s.pkg.sfd.ident) = some i →
      exec .islandBReady s = .next ((s.modPkg fun k => { k with sfdSlot := some i, sfdImage := slotImage s.pkg.sfdFlash i }).modJoin
        fun j => { j with ready := true }))

/-- Waggle (R29-R35, R41): what each message and each timeout leaves when the link acts on it; a repeated request is answered by the kept
replies, a ring link's leader reports its outcome until it is echoed, a fourth silence ends a link, and an outcome that ends a link is the
link's failure. Where the spec leaves a point open, what stands here is the model's choice (log entries 62, 63, 64, 96, 97, 98, 99, 100,
124, 125). -/
def Obligations.WaggleCommandsComplete : Prop :=
  ∀ (s : State) (k rate lanes result : Nat) (m : WaggleMsg) (mods up : BitVec 4) (sigOk pass : Bool),
    (s.takesRequest k m 1 → exec (.waggleHello k m rate lanes) s =
      .next ((s.modWag k fun x => { x with folLanes := lanes }).answerWith k m [wagMsg 2 (wSeq m) (folSite k) k (s.identPayload k),
        wagMsg 3 (wSeq m) (folSite k) k (s.offerPayload k rate lanes)])) ∧
    (s.takesReply k m 2 .hello → isRing k = true →
      exec (.waggleIdent k m sigOk) s = .next (s.modWag k fun x => { x with phase := .offer })) ∧
    (s.takesReply 9 m 2 .hello → s.rd IDN_PKG_VARIANT = 2 → exec (.waggleIdent 9 m true) s =
      .next ((s.modPkg fun p => { p with partnerDesc := (m.drop 6).take 16 }).modWag 9 fun x => { x with phase := .offer })) ∧
    (s.takesReply k m 2 .hello → k < 4 → bitsOf (wPay m 0 2) 0 3 = k → bitsOf (wPay m 0 2) 3 2 = 0 →
      bitsOf (wPay m 0 2) 5 4 = s.rd IDN_PKG_VARIANT → bitsOf (wPay m 2 8) 12 1 = 1 → bitsOf (wPay m 10 8) 12 1 = 1 →
      s.recognised 1 (BitVec.ofNat 8 (bitsOf (wPay m 2 8) 4 8)) = true →
      s.recognised 2 (BitVec.ofNat 8 (bitsOf (wPay m 10 8) 4 8)) = true → exec (.waggleIdent k m sigOk) s =
      .next (((s.setDieWord k (wPay m 2 8)).setDieWord (4 + k) (wPay m 10 8)).modWag k fun x => { x with phase := .offer })) ∧
    (s.takesReply k m 3 .offer → s.selectMods k m ≠ 0 → enough k (s.selectRate k m) (s.selectMods k m) = true →
      exec (.waggleOffer k m) s = .next ((s.noteOffer k m).sendSelect k)) ∧
    (s.takesRequest k m 4 → exec (.waggleSelect k m) s =
      .next ((s.modWag k fun x => { x with
        folCap := BitVec.ofNat 32 (wPay m 0 4), folRate := wPay m 4 1, folMods := BitVec.ofNat 4 (wPay m 5 1), folTraining := true,
        folFails := 0 }).answerWith k m [wagMsg 5 (wSeq m) (folSite k) k ((m.drop 4).take 24)])) ∧
    (s.takesReply k m 5 .select → (m.drop 4).take 24 = ((s.wag k).request.drop 4).take 24 →
      exec (.waggleConfirm k m) s = .next (s.modWag k fun x => { x with phase := .training })) ∧
    ((s.wag k).folTraining = true → up = (s.wag k).folMods &&& mods &&& (s.wag k).repairable k →
      pass = (decide (result = 0 ∧ up ≠ 0) && enough k (s.wag k).folRate up) → ∀ r : WaggleMsg,
      r = wagMsg 6 ((s.wag k).folSeq.getD 0).toNat (folSite k) k (if result = 0 ∧ up ≠ 0 then
        [0, BitVec.ofNat 8 up.toNat, BitVec.ofNat 8 (s.wag k).folRate] else [1, 0, BitVec.ofNat 8 (s.wag k).folRate]) →
      exec (.mainbandTrainingDone k result mods) s = .next ((s.modWag k fun x => { x with
        folTraining := !pass && decide (x.folFails < 1), folFails := if pass then 0 else x.folFails + 1, folReply := [r] }).wagSend k false r)) ∧
    (s.takesReply k m 6 .training → wPay m 0 1 = 0 → BitVec.ofNat 4 (wPay m 1 1) ≠ 0 →
      enough k (wPay m 2 1) (BitVec.ofNat 4 (wPay m 1 1)) = true → exec (.waggleTrained ⟨k, false⟩ m) s =
      .next ((s.modWag k fun x => { x with rate := wPay m 2 1, mods := BitVec.ofNat 4 (wPay m 1 1), fails := 0 }).sendDone k)) ∧
    (wOk m = true → wType m = 6 → isRing (wLink m) = true → leadSite (wLink m) = k → (s.wag (wLink m)).report = m →
      exec (.waggleTrained ⟨k, true⟩ m) s = .next (s.modWag (wLink m) fun x => { x with reported := true })) ∧
    (wOk m = true → wType m = 6 → k < 4 → isRing (wLink m) = true → leadSite (wLink m) = k → (s.wag (wLink m)).recorded = true →
      exec (.waggleTrained ⟨k, false⟩ m) s = .next ((s.modWag (wLink m) fun x => { x with echo := m }).wagSend k true m)) ∧
    (s.takesRequest k m 7 → exec (.waggleDone k true m) s =
      .next ((s.modWag k fun x => { x with folDone := true }).answerWith k m [wagMsg 7 (wSeq m) (folSite k) k ((m.drop 4).take 24)])) ∧
    (s.takesReply k m 7 .done → exec (.waggleDone k false m) s = .next (s.reachDone k) ∧ ((s.reachDone k).wag k).phase = .complete) ∧
    (wOk m = true → wType m = 14 → exec (.waggleReject k m) s =
      .next (s.modWag k fun x => { x with folRejected := true, folTraining := false })) ∧
    (wOk m = true → wType m = 15 → (s.wag k).isOver = false → wPay m 0 1 = (s.wag k).seq.toNat → (s.wag k).retrans < 3 →
      exec (.waggleNak k false m) s =
        .next ((s.modWag k fun x => { x with retrans := x.retrans + 1, sentAt := s.tclk }).wagSend k true (s.wag k).request)) ∧
    (wOk m = true → wType m = 15 → (s.wag k).folSeq = some (BitVec.ofNat 8 (wPay m 0 1)) → exec (.waggleNak k true m) s =
      .next ((s.wag k).folReply.foldl (fun s r => s.wagSend k false r) s)) ∧
    (wOk m = true → wType m = 15 → (s.wag k).isOver = false → wPay m 0 1 = (s.wag k).seq.toNat → 3 ≤ (s.wag k).retrans →
      exec (.waggleNak k false m) s = .next (s.wagFail k (quietReject k))) ∧
    (k < 10 → (s.wag k).awaits = true → (s.wag k).isOver = true → exec (.waggleReplyTimeout k) s =
      .next (((s.waitTo ((s.wag k).sentAt + 25000)).modWag k fun x =>
        { x with sentAt := (s.waitTo ((s.wag k).sentAt + 25000)).tclk }).wagSend (leadSite k) false (s.wag k).report)) ∧
    (k < 10 → (s.wag k).awaits = true → (s.wag k).isOver = false → 3 ≤ (s.wag k).retrans → exec (.waggleReplyTimeout k) s =
      .next ((s.waitTo ((s.wag k).sentAt + 25000)).wagFail k (quietReject k))) ∧
    (k < 10 → (s.wag k).awaits = true → (s.wag k).isOver = false → (s.wag k).retrans < 3 → exec (.waggleReplyTimeout k) s =
      .next (((s.waitTo ((s.wag k).sentAt + 25000)).modWag k fun x =>
        { x with retrans := x.retrans + 1, sentAt := (s.waitTo ((s.wag k).sentAt + 25000)).tclk }).wagSend k true (s.wag k).request)) ∧
    (k < 4 ∨ k = 9 → (s.wag k).isOver = false → (s.wag k).phase ≠ .idle → exec (.waggleDoneTimeout k) s =
      .next ((s.waitTo ((s.wag k).helloAt + 2500000)).wagFail k (quietReject k))) ∧
    (isRing k = true → (s.wag k).isOver = false → (s.wag k).phase ≠ .idle → exec (.ringLinkTimeout k) s =
      .next ((s.waitTo ((s.wag k).helloAt + 5000000)).wagFail k none))

/-- Links in service, clocks and heartbeats (R43, R46, R47, R79): each command answers a next state, and exactly which, under conditions on
the state and operands alone. Where the spec leaves a point open, what stands here is the model's choice (log entries 3, 9, 19, 94, 123,
126). -/
def Obligations.LinkAndClockCommandsComplete : Prop :=
  ∀ (s : State) (k d t p : Nat) (back : BitVec 4) (lost : BitVec 5) (lock : Bool),
    (k < 10 → s.on (IDN_LINK_DOWN.idx k) = false → s.pkg.retraining.getLsbD k = false → exec (.linkUncorrectableError k) s =
      .next (s.modPkg fun x => { x with retraining := x.retraining ||| (1#10 <<< k), retrainAt := tset 0 x.retrainAt k s.tclk })) ∧
    (s.pkg.retraining.getLsbD k = true → s.on (IDN_LINK_DOWN.idx k) = false → exec (.linkRetrainDone k) s = .next (((((s.retrainEnds k).wr (IDN_LINK_RETRAINED.idx k) 1).inc
      (IDN_LINK_RETRAIN_COUNT.idx k)).linkEvent k 1 false).resumeLink k)) ∧
    (s.pkg.retraining.getLsbD k = true → s.on (IDN_LINK_DOWN.idx k) = false → ∀ u : State, u = (s.waitTo (tget 0 s.pkg.retrainAt k + 125000)).retrainEnds k →
      (back &&& BitVec.ofNat 4 (u.rd (IDN_LINK_MOD_UP.idx k)) ≠ 0 → exec (.linkRetrainTimeout k back) s =
        .next ((((u.wr (IDN_LINK_MOD_UP.idx k) (back &&& BitVec.ofNat 4 (u.rd (IDN_LINK_MOD_UP.idx k))).toNat).wr
          (IDN_LINK_DEGRADED.idx k) 1).linkEvent k 2 false).resumeLink k)) ∧
      (back &&& BitVec.ofNat 4 (u.rd (IDN_LINK_MOD_UP.idx k)) = 0 → exec (.linkRetrainTimeout k back) s =
        .next (if k < 4 then (u.loseDie k).settle
          else (((if k = 8 then u.modJoin fun j => { j with lost := true } else u).linkDown k).linkEvent k 3 false).failLink k))) ∧
    (d < 4 → s.on (PWR_STATUS_PLL_LOCK_CD.bit d) = true → exec (.ruradPllLockLoss d) s =
      .next ((s.wr (PWR_STATUS_PLL_LOCK_CD.bit d) 0).modPwr fun x => { x with cdLossAt := tset none x.cdLossAt d (some s.tclk) })) ∧
    (tget none s.pwr.cdLossAt d = some t → exec (.ruradLockLossConfirm d) s =
      .next (if s.pwr.refLost then s else ((s.waitTo (t + 250)).loseDie d).settle)) ∧
    (s.on PWR_STATUS_PLL_LOCK_IOD = true → exec .eztosPllLockLoss s = .next ((s.wr PWR_STATUS_PLL_LOCK_IOD 0).eztosClockLoss).settle) ∧
    (s.pkg.heldInReset = false → ∀ u : State,
      u = s.wr PWR_STATUS_PLL_LOCK_CD (BitVec.ofNat 4 (s.rd PWR_STATUS_PLL_LOCK_CD) &&& ~~~(lost.truncate 4)).toNat →
      exec (.referenceLoss lost) s = .next ((if lost.getLsbD 4 then u.wr PWR_STATUS_PLL_LOCK_IOD 0 else u).eztosClockLoss.modPwr fun x =>
        { x with refLost := true }).settle) ∧
    (s.on SAF_ISL_STATUS_B_JOINED = true → s.link8 = true → ∀ a : Bool, s.pairRuns a = true →
      exec (.heartbeatSend a lock) s = .next (s.modPwr fun x => { x with hbSent := x.hbSent ++ [(a, lock)] })) ∧
    (s.link8 = false → ∀ a : Bool, exec (.heartbeatSend a lock) s = .next s ∧ exec (.heartbeatReceive a lock p) s = .next s) ∧
    (s.on SAF_ISL_STATUS_B_JOINED = true → s.link8 = true → 123750 ≤ p → p ≤ 126250 →
      exec (.heartbeatReceive true lock p) s = .next ((s.wrB PWR_STATUS_PLL_LOCK_SFD lock).modPwr fun x => { x with hbDevA := 0 }) ∧
      exec (.heartbeatReceive false lock p) s = .next (s.modPwr fun x => { x with hbDevB := 0 })) ∧
    (s.on SAF_ISL_STATUS_B_JOINED = true → ∀ (c : Instr) (u : State),
      ((p < 123750 ∨ 126250 < p) ∧ s.link8 = true ∧ c = .heartbeatReceive true lock p ∧ u = s.wrB PWR_STATUS_PLL_LOCK_SFD lock) ∨
        (c = .heartbeatMissing true ∧ u = s) →
      (s.pwr.hbDevA ≠ 2 → exec c s = .next (u.modPwr fun x => { x with hbDevA := s.pwr.hbDevA + 1 }).settle) ∧
      (s.pwr.hbDevA = 2 → exec c s =
        .next (((u.modPwr fun x => { x with hbDevA := 3 }).wr PWR_STATUS_HB_FAULT 1).loseIslandB 2).settle)) ∧
    (s.on SAF_ISL_STATUS_B_JOINED = true → ∀ c : Instr,
      ((p < 123750 ∨ 126250 < p) ∧ s.link8 = true ∧ c = .heartbeatReceive false lock p) ∨ c = .heartbeatMissing false →
      (s.pwr.hbDevB ≠ 2 → exec c s = .next (s.modPwr fun x => { x with hbDevB := s.pwr.hbDevB + 1 }).settle) ∧
      (s.pwr.hbDevB = 2 → exec c s = .next (((s.modPwr fun x => { x with hbDevB := 3 }).wr PWR_STATUS_HB_FAULT 1).stopB 5).settle)) ∧
    (s.pkg.iodSlot.isSome = true → s.hif.fwStopped = false →
      exec .hifHeartbeatTick s = .next (s.wr HIF_HEARTBEAT_COUNT (s.rd HIF_HEARTBEAT_COUNT + 1)))

/-- Adaptive voltage, power states and the ramp limiters (R57-R61, R63, R64): each command answers a next state, and which, under conditions
on the state and operands alone. Where the spec leaves a point open, what stands here is the model's choice (log entries 3, 9, 19, 102,
122). -/
def Obligations.PowerCommandsComplete : Prop :=
  ∀ (s : State) (d g mv be v avg prev : Nat) (w : State),
    (d < 4 → s.dieIncluded d = true → v = s.rd (PWR_VDD_VSET.idx d) →
      w = (s.modPwr fun p => { p with avsTarget := tset 0 p.avsTarget d (max 650 (min mv 800)) }) → ∀ u : State,
      u = (if 780 ≤ mv ∧ s.on (PWR_VDD_HEADROOM_LOW.idx d) = false then
        (w.wr (PWR_VDD_HEADROOM_LOW.idx d) 1).event 0x30 0x12 d 0 (leBytes 2 mv ++ leBytes 2 v) else w) →
      (¬((v = 800 ∧ 800 < mv) ∨ (s.avsHeld d = true ∧ v < mv)) → exec (.avsMonitor d mv) s = .next u) ∧
      ((v = 800 ∧ 800 < mv) ∨ (s.avsHeld d = true ∧ v < mv) → exec (.avsMonitor d mv) s = .next (u.loseDie d).settle)) ∧
    (d < 4 → s.avsHeld d = false → tget 0 s.pwr.avsTarget d ≠ 0 → ∀ u : Nat,
      (s.rd (PWR_VDD_VSET.idx d) < tget 0 s.pwr.avsTarget d ∧ u = min 800 (s.rd (PWR_VDD_VSET.idx d) + 5)) ∨
        (tget 0 s.pwr.avsTarget d + 5 ≤ s.rd (PWR_VDD_VSET.idx d) ∧ u = max 650 (s.rd (PWR_VDD_VSET.idx d) - 5)) ∨
        (tget 0 s.pwr.avsTarget d ≤ s.rd (PWR_VDD_VSET.idx d) ∧ s.rd (PWR_VDD_VSET.idx d) < tget 0 s.pwr.avsTarget d + 5 ∧
          u = s.rd (PWR_VDD_VSET.idx d)) →
      exec (.avsStep d) s = .next (((s.wr (PWR_VDD_VSET.idx d) u).raise (PWR_VDD_VMAX_SEEN.idx d) u).modPwr fun p =>
        { p with avsNak := tset 0 p.avsNak d 0 })) ∧
    (d < 4 → tget 0 s.pwr.avsNak d < 2 → exec (.avsbusNoAck d) s =
      .next (s.modPwr fun p => { p with avsNak := tset 0 p.avsNak d (tget 0 s.pwr.avsNak d + 1) })) ∧
    (d < 4 → tget 0 s.pwr.avsNak d = 2 → exec (.avsbusNoAck d) s =
      .next (((s.modPwr fun p => { p with avsNak := tset 0 p.avsNak d 3 }).wr (PWR_VDD_AVS_FAULT.idx d) 1).event 0x31 0x12 d 0
        (leBytes 2 (s.rd (PWR_VDD_VSET.idx d))))) ∧
    (g < 64 → s.rd (CMB_STATE_STATE.idx g) = 1 → s.combFree g = true → s.pwr.filler.getLsbD g = false →
      (tget ({} : Domain) s.thm.doms (g / 16)).filler = 0 →
      exec (.combClockGate g) s = .next ((s.waitTo ((s.comb g).idleAt + 26)).wr (CMB_STATE_STATE.idx g) 0)) ∧
    (s.mayStandby d = true → w = (s.waitTo ((((List.range 16).map fun n => (s.comb (16 * d + n)).idleAt).foldl max 0) +
        s.pwr.idleMs * 125000)).wr (PWR_STATUS_STANDBY.bit d) 1 →
      exec (.dieStandbyEnter d) s = .next (if s.rd DMC_MAP_ISHARE = 0 then w.selfRefresh d else w)) ∧
    (s.Inv → d < 4 → s.on (PWR_STATUS_STANDBY.bit d) = true → tget none s.pwr.standbyExitAt d ≠ none →
      ∃ t, exec (.dieStandbyExitDone d) s = .next t ∧ t.on (PWR_STATUS_STANDBY.bit d) = false ∧
        t.on (DMC_STATUS_SELF_REFRESH.idx d) = false ∧ t.pwr.standbyExitAt = tset none s.pwr.standbyExitAt d none ∧ t.thm = (s.useSched 12500000).thm) ∧
    (s.on PWR_STATUS_LOW_POWER = false → s.on MBX_CTRL_READY = true →
      w = (if s.enabledLoops = [] then s else (s.safeAll 3).stopB 4) → ∀ u : State, u = w.includedDies.foldl State.selfRefresh w →
      exec .d3hotEntry s = .next (({ u with
        thm := { u.thm with doms := tmap (fun x => { x with filler := 0 }) u.thm.doms } } : State).wr PWR_STATUS_LOW_POWER 1).settle) ∧
    (s.Inv → s.on PWR_STATUS_LOW_POWER = true → ∃ t, exec .d0Entry s = .next t ∧ t.on PWR_STATUS_LOW_POWER = false ∧ t.fus.nextClose = none ∧
      t.thm = (s.useSched 12500000).thm) ∧
    (d < 5 → s.pkg.heldInReset = false → tget 0 s.pwr.rampCnt d + 1 < 25 → exec (.rampEstimate d ⟨mv, be⟩) s = .next (s.modPwr fun p =>
      { p with
        beDuty := tset 0 p.beDuty d be, rampSum := tset 0 p.rampSum d (tget 0 s.pwr.rampSum d + mv)
        rampCnt := tset 0 p.rampCnt d (tget 0 s.pwr.rampCnt d + 1) })) ∧
    (d < 5 → s.pkg.heldInReset = false → 24 ≤ tget 0 s.pwr.rampCnt d → avg = (tget 0 s.pwr.rampSum d + mv) / 25 →
      prev = (tget none s.pwr.rampAvg d).getD avg → ∃ t, exec (.rampEstimate d ⟨mv, be⟩) s = .next t ∧
        t.pwr.rampCnt = tset 0 s.pwr.rampCnt d 0 ∧ t.pwr.rampSum = tset 0 s.pwr.rampSum d 0 ∧ t.pwr.beDuty = tset 0 s.pwr.beDuty d be ∧
        t.pwr.shed = tset 0 s.pwr.shed d (tget 0 s.pwr.shed d - 1000) ∧
        t.pwr.rampAvg = tset none s.pwr.rampAvg d (some (max (prev - 1000) (min avg (prev + 1000)))) ∧
        t.pwr.gating.getLsbD d = decide (prev + 1000 < avg) ∧
        t.pwr.lcGate.getLsbD d = decide (prev + 1000 < avg ∧ be < avg - (prev + 1000)) ∧
        t.pwr.filling.getLsbD d = decide (avg + 1000 < prev))

/-- The join of island B (R436-R438): what each message and timer leaves. A message of the join passes link 8, and the MACs are those of
R436 under the pairing keys of the two packages. Where the spec leaves a point open, what stands here is the model's choice (log entries 63,
65, 66). -/
def Obligations.JoinCommandsComplete : Prop :=
  ∀ (s : State) (m nb : List Byte) (lock : Bool),
    (s.link8 = true → s.pairRuns false = true → s.saf.join.ready = true → s.islandBRefused = false → joinOk 26 m = true →
      ∃ c : List Byte, c.length = 48 ∧ c.take 8 = leBytes 8 (identWord s.pkg.sfd.ident) ∧ (c.drop 16).take 16 = padTo 16 nb ∧
        c.drop 32 = joinMac s.pkg.sfd.pairKey 0x42 ((m.drop 10).take 16) nb ((m.drop 1).take 8) (leBytes 8 (identWord s.pkg.sfd.ident)) ∧
        exec (.joinHello (m.take 26) nb (m.drop 26)) s = .next ((s.joinSend false c).modJoin fun j =>
          { j with nb := padTo 16 nb, bNa := (m.drop 10).take 16, bWord := (m.drop 1).take 8 })) ∧
    (s.link8 = true → s.islandARuns = true → s.saf.join.trying = true → s.saf.join.confirmSent = false → joinOk 48 m = true →
      (m.drop 32).take 16 = s.macB s.saf.join.na m → field m 10 1 = 0 →
      s.recognised 4 (BitVec.ofNat 8 (bitsOf (field m 0 8) 4 8)) = true → field m 15 1 = 0 → s.pkg.iodTestFail = 0 →
      s.pkg.iodTimersOk = true → s.pkg.iodImage.minB ≤ field m 11 4 → bitsOf (field m 8 2) 0 3 = 5 → bitsOf (field m 8 2) 3 2 = 2 →
      bitsOf (field m 8 2) 5 4 = s.rd IDN_PKG_VARIANT → exec (.joinResp (m.take 48) (m.drop 48)) s =
        .next (((s.setDieWord 9 (field m 0 8)).joinSend true (joinMac s.pkg.inputs.pairKey 0x41 ((m.drop 16).take 16) s.saf.join.na
          (leBytes 8 (s.dieWord 8)) (m.take 8))).modJoin fun j => { j with confirmSent := true })) ∧
    (s.link8 = true → s.islandARuns = true → s.saf.join.trying = true → s.saf.join.confirmSent = false → joinOk 48 m = true →
      (m.drop 32).take 16 ≠ s.macB s.saf.join.na m →
      ((s.saf.join.olds.any fun na => (m.drop 32).take 16 == s.macB na m) = false → exec (.joinResp (m.take 48) (m.drop 48)) s = .next (s.joinFail 2)) ∧
      ((s.saf.join.olds.any fun na => (m.drop 32).take 16 == s.macB na m) = true → exec (.joinResp (m.take 48) (m.drop 48)) s = .next s)) ∧
    (s.link8 = true → s.pairRuns false = true → s.saf.join.ready = true → s.saf.join.bNa ≠ [] → s.saf.join.confirmSent = true →
      joinOk 16 m = true → ∀ mac : List Byte, mac = joinMac s.pkg.sfd.pairKey 0x41 s.saf.join.nb s.saf.join.bNa s.saf.join.bWord
          (leBytes 8 (identWord s.pkg.sfd.ident)) →
      (m.take 16 = mac → exec (.joinConfirm (m.take 16) (m.drop 16)) s = .next (s.joinSend false [0])) ∧
      (m.take 16 ≠ mac → exec (.joinConfirm (m.take 16) (m.drop 16)) s = .next (s.joinFail 2))) ∧
    (s.link8 = true → s.islandARuns = true → s.saf.join.confirmSent = true → joinOk 1 m = true → field m 0 1 = 0 →
      ∃ t, exec (.joinDone ⟨m, lock⟩) s = .next t ∧ (s.Inv → t.on PWR_STATUS_PLL_LOCK_SFD = lock) ∧
        t.on SAF_ISL_STATUS_B_JOINED = true ∧ t.on IDN_BOOT_ISLAND_B = true ∧
        t.on (IDN_PKG_INCLUDED.bit 5) = true ∧ t.saf.join.trying = false ∧ t.saf.join.jobsHeld = false) ∧
    (s.islandARuns = true → s.saf.join.trying = true → s.saf.join.service = true ∨ s.saf.join.confirmSent = false →
      exec .joinHelloRetry s =
      .next ((s.waitTo (s.saf.join.lastAt + if s.saf.join.service then 12500000 else 1250000)).sendHello)) ∧
    (s.islandARuns = true → s.saf.join.trying = true → s.saf.join.confirmSent = false → ∀ t : Nat, s.saf.join.firstAt = some t →
      exec .joinTimeout s = .next ((s.waitTo (t + 62500000)).joinFail 1))

/-- The mailboxes (R83): what a write (MBX_REQ_WRITE), a doorbell that is refused (MBX_DOORBELL_REFUSED), an acknowledge (MBX_ACK) and a
cancel (MBX_CANCEL) leave. A cancel of a COLONY_CREATE or QUEUE_DESTROY that has taken effect is answered with ACCEPTED (log entry 73).
Where the spec leaves a point open, what stands here is the model's choice (log entries 73, 75, 77, 104). -/
def Obligations.MailboxRegistersComplete : Prop :=
  ∀ (s : State) (m off : Nat) (bs : List Byte), m < 16 →
    (off % 4 = 0 → bs.length % 4 = 0 → bs ≠ [] → off + bs.length ≤ 256 →
      (s.mbxState m = 0 → exec (.mbxReqWrite m off bs) s =
        .next (s.setMbx m { s.mbx m with req := patch (padTo 256 (s.mbx m).req) off bs })) ∧
      (s.mbxState m ≠ 0 → exec (.mbxReqWrite m off bs) s = .next (s.wr (MBX_STAT_REQ_DISCARD.idx m) 1))) ∧
    (s.mbxState m ≠ 0 ∨ s.on MBX_CTRL_READY = false →
      exec (.mbxDoorbellRefused m) s = .next (s.wr (MBX_STAT_DB_LOST.idx m) 1)) ∧
    (s.mbxState m = 2 → exec (.mbxAck m) s = .next (s.wr (MBX_STAT_STATE.idx m) 0)) ∧
    (s.mbxState m ≠ 2 → exec (.mbxAck m) s = .next s) ∧
    (s.mbxState m = 1 → s.hif.fwStopped = false → s.creating m = none → s.destroying m = none →
      exec (.mbxCancel m) s = .next (s.reject m (field (s.mbx m).copy 0 2) E_CANCELLED)) ∧
    (s.mbxState m = 1 → s.hif.fwStopped = false → ∀ c : Nat, s.creating m = some c → exec (.mbxCancel m) s = .next
      ((s.setColony c { s.colony c with accepted := true }).answer m 0x0200 { payload := leBytes 4 (s.handle 2 c), accepted := true })) ∧
    (s.mbxState m = 1 → s.hif.fwStopped = false → s.creating m = none → ∀ d : Nat, s.destroying m = some d →
      exec (.mbxCancel m) s = .next ((s.setQueue d { s.queue d with
        destroying := (s.queue d).destroying.map fun w => { w with accepted := true } }).answer m 0x0301 { accepted := true })) ∧
    (s.mbxState m ≠ 1 → exec (.mbxCancel m) s = .next s)

/-- The mailboxes (R83) as the host sees them: a write of an idle mailbox is stored, one of another is discarded with REQ_DISCARD, a refused
doorbell sets DB_LOST, an acknowledge ends DONE, and a cancel in time brings DONE with E_CANCELLED, which is not remembered; no other
mailbox changes its state. Where the spec leaves a point open, what stands here is the model's choice (log entries 70, 73, 104). -/
def Obligations.MailboxStates : Prop :=
  ∀ (s : State) (m off : Nat) (bs : List Byte), m < 16 →
    (off % 4 = 0 → bs.length % 4 = 0 → bs ≠ [] → off + bs.length ≤ 256 →
      (s.mbxState m = 0 → ∃ t, exec (.mbxReqWrite m off bs) s = .next t ∧ ((t.mbx m).req.drop off).take bs.length = bs ∧
        (t.mbx m).copy = (s.mbx m).copy ∧ t.regs = s.regs ∧ ∀ k, k ≠ m → t.mbx k = s.mbx k) ∧
      (s.mbxState m ≠ 0 → ∃ t, exec (.mbxReqWrite m off bs) s = .next t ∧ t.on (MBX_STAT_REQ_DISCARD.idx m) = true ∧ t.hif = s.hif ∧
        ∀ k < 16, t.mbxState k = s.mbxState k)) ∧
    (s.mbxState m ≠ 0 ∨ s.on MBX_CTRL_READY = false → ∃ t, exec (.mbxDoorbellRefused m) s = .next t ∧
      t.on (MBX_STAT_DB_LOST.idx m) = true ∧ t.hif = s.hif ∧ ∀ k < 16, t.mbxState k = s.mbxState k) ∧
    (s.mbxState m = 2 → ∃ t, exec (.mbxAck m) s = .next t ∧ t.mbxState m = 0 ∧ t.hif = s.hif ∧
      ∀ k < 16, k ≠ m → t.mbxState k = s.mbxState k) ∧
    (s.mbxState m = 1 → s.hif.fwStopped = false → s.creating m = none → s.destroying m = none →
      ∃ t, exec (.mbxCancel m) s = .next t ∧ t.mbxState m = 2 ∧ field (t.mbx m).rsp 6 2 = E_CANCELLED ∧
        (t.mbx m).remembered = (s.mbx m).remembered ∧ ∀ k < 16, k ≠ m → t.mbxState k = s.mbxState k)

/-- The mailbox commands (R93-R95, R103, R61, R107-R110, R265-R268, R288-R292, R448, R480, R494): each answers with its effect where its
request passes its checks. Where the spec leaves a point open, what stands here is the model's choice (log entries 28, 51, 70, 71, 72, 73,
74, 75, 106, 113). -/
def Obligations.MailboxCommandsComplete : Prop :=
  ∀ (s : State) (m base i n c k : Nat) (o : MemObj) (l : Leaving),
    (s.serving m 0x0001 → payloadOk [(16, 0, 8), (17, 0, 8)] (s.request m) = true →
      field (s.request m) 16 1 = s.rd MBX_CTRL_HIF_MAJOR → field (s.request m) 17 1 ≤ s.rd MBX_CTRL_HIF_MINOR →
      exec (.hello m) s = .next (((s.setMbx m { s.mbx m with session := some (Config.freeWord s.free), remembered := [] }).draw 1).answer m 1
        { payload := (leBytes 1 (s.rd MBX_CTRL_HIF_MAJOR) ++ leBytes 1 (s.rd MBX_CTRL_HIF_MINOR) ++ leBytes 2 256
            ++ leBytes 4 s.ports.cfg.build ++ leBytes 4 (Config.freeWord s.free).toNat) })) ∧
    (s.serving m 0x0002 → ∃ p : List Byte, p.length = 16 ∧ p.take 6 = [64, 32, 4, 4, 2, 4] ∧ field p 6 1 = 16 ∧
      exec (.getInfo m) s = .next (s.answer m 2 { payload := p })) ∧
    (s.serving m 0x0100 → s.memAllocCheck base (s.request m) = 0 → exec (.memAlloc m base) s =
      .next ((s.memAlloc base (s.request m)).answer m 0x0100 { payload := leBytes 4 (s.handle 1 (s.freeObj.getD 0)) })) ∧
    (s.serving m 0x0101 → s.handleIdx 1 (field (s.request m) 16 4) = some i → s.obj i = some o → s.objBusy i = false →
      exec (.memFree m) s = .next ((s.memFree i o).answer m 0x0101 {})) ∧
    (s.unhindered = true → s.mem.clearing[n]? = some (base, k) → s.stretchBusy base k = false → ∀ u : State,
      u = (s.passSpan maintWho true base k).zeroRange base k → exec (.memoryClearDone n) s =
        .next { u with mem := { u.mem with clearing := u.mem.clearing.eraseIdx n } }) ∧
    (s.serving m 0x0102 → s.objOf (field (s.request m) 16 4) = some o → exec (.memInfo m) s =
      .next (s.answer m 0x0102 { payload := (leBytes 8 o.addr ++ leBytes 4 (o.size / 4096)
        ++ leBytes 1 ((if o.hostVisible then 1 else 0) + 2 * o.region) ++ leBytes 1 o.partition ++ leBytes 10 0) })) ∧
    (s.serving m 0x0200 → s.colonyCreateCheck (s.request m) = 0 →
      ((s.createColony (s.request m)).colony (s.freeColony.getD 0)).joining = [] → exec (.colonyCreate m) s =
        .next ((s.createColony (s.request m)).answer m 0x0200
          { payload := leBytes 4 ((s.createColony (s.request m)).handle 2 (s.freeColony.getD 0)) })) ∧
    ((s.colony c).waiter = some (m, s.requestTag m) → (s.colony c).joining = [] → (s.colony c).accepted = true →
      exec (.colonyReservationComplete c) s =
        .next ((s.setColony c { s.colony c with waiter := none, accepted := false }).commandDone m (s.requestTag m) 0)) ∧
    ((s.colony c).waiter = some (m, s.requestTag m) → (s.colony c).joining = [] → (s.colony c).accepted = false → ∀ u : State,
      u = s.setColony c { s.colony c with waiter := none, accepted := false } → exec (.colonyReservationComplete c) s =
        .next (u.answer m 0x0200 { payload := leBytes 4 (u.handle 2 c) })) ∧
    (s.serving m 0x0201 → s.colonyOf (field (s.request m) 16 4) = some c → s.colonyBusy c = false → (s.colony c).waiter = none →
      exec (.colonyDestroy m) s = .next ((((s.colony c).reserved.filter fun g => !((s.colony c).joining.contains g)).foldl
        (fun s g => (s.showColony g none).modComb g fun x => { x with idleAt := s.tclk }) (s.setColony c {})).answer m 0x0201 {}).settle) ∧
    (s.serving m 0x0300 → s.queueCreateCheck (s.request m) = 0 → exec (.queueCreate m) s =
      .next ((s.createQueue (s.freeSlotNo.getD 0) (s.newQueue (s.request m))).answer m 0x0300
        { payload := leBytes 4 (s.handle 3 (s.freeSlotNo.getD 0)) ++ leBytes 1 (s.freeSlotNo.getD 0) ++ leBytes 3 0 })) ∧
    (s.serving m 0x0301 → s.handleIdx 3 (field (s.request m) 16 4) = some k → (s.queue k).live = true →
      (s.queue k).destroying = none → ∀ u : State,
      u = ((s.setQueue k { s.queue k with destroying := some { mbx := m, tag := s.requestTag m, since := s.tclk }, flushing := true }).cutRecs k
        fun _ => true).retire k →
      exec (.queueDestroy m) s = .next (if (u.queue k).recs = [] then (u.freeSlot k).answer m 0x0301 {} else u).settle) ∧
    ((s.queue k).destroying = some l → (s.queue k).recs = [] →
      (l.accepted = true → exec (.queueDestroyDone k) s = .next ((s.freeSlot k).commandDone l.mbx l.tag 0).settle) ∧
      (l.accepted = false → s.tclk ≤ l.since + 1250000 → exec (.queueDestroyDone k) s =
        .next ((s.freeSlot k).answer l.mbx 0x0301 {}).settle) ∧
      (l.accepted = false → l.since + 1250000 < s.tclk → exec (.queueDestroyDone k) s =
        .next (((s.freeSlot k).answer l.mbx 0x0301 { accepted := true }).commandDone l.mbx l.tag 0).settle)) ∧
    ((s.queue k).destroying = some l → (s.queue k).recs ≠ [] → l.accepted = false → ∀ u : State, u = s.waitTo (l.since + 1250000) →
      exec (.queueDestroyDone k) s = .next ((u.setQueue k { u.queue k with destroying := some { l with accepted := true } }).answer l.mbx
        0x0301 { accepted := true })) ∧
    (s.serving m 0x0400 → s.handleIdx 4 (field (s.request m) 16 4) = some c → c ≤ 5 →
      s.unhindered = true → s.voteWaits (s.reinitClass m) = false → exec (.funcReinit m) s =
      .next ((s.funcReinit c).answer m 0x0400 {}).settle)

/-- Power policy, safety tests, the ledger, the logs and the firmware slots (R55, R56, R61, R448, R480, R494): what each command leaves
where its request passes its checks, and what ends it. Where the spec leaves a point open, what stands here is the model's choice (log
entries 28, 70, 71, 72). -/
def Obligations.ServiceCommandsComplete : Prop :=
  ∀ (s : State) (m n : Nat) (image : FwImage) (r : LogRead) (w : FwWrite) (a : FwAdvance),
    (s.serving m 0x0401 → payloadOk [(16, 0, 1), (17, 0, 8)] (s.request m) = true → 1 ≤ field (s.request m) 17 1 →
      field (s.request m) 17 1 ≤ 200 → exec (.powerPolicy m) s =
        .next ((s.setPolicy (bitsOf (field (s.request m) 16 1) 0 1 == 1) (field (s.request m) 17 1)).answer m 0x0401 {})) ∧
    (s.serving m 0x0500 → s.safetyTestCheck (s.request m) = 0 → s.testIs m 1 = true → exec (.safetyTestInjection m) s =
      .next (({ s.wr SAF_ISL_STATUS_TEST_BUSY 1 with saf := { s.saf with
        test := some ⟨m, s.requestTag m, BitVec.ofNat 2 (field (s.request m) 17 1)⟩ } } : State).answer m 0x0500 { accepted := true })) ∧
    (s.serving m 0x0500 → s.safetyTestCheck (s.request m) = 0 → s.testIs m 2 = true → s.saf.restarts = [] →
      s.saf.write = none → ∀ v : State × Bool × Bool,
      v = (s.answer m 0x0500 { accepted := true }).voteAll ((BitVec.ofNat 2 (field (s.request m) 17 1)).getLsbD 0)
        ((BitVec.ofNat 2 (field (s.request m) 17 1)).getLsbD 1) →
      exec (.safetyTestVote m) s = .next ((v.1.commandDone m (s.requestTag m) 0).refuseIslands v.2.1 v.2.2).settle) ∧
    (s.serving m 0x0501 → exec (.ledgerRead m) s = .next (s.answer m 0x0501
      { payload := (leBytes 4 (min (s.thm.opTicks / 125000000) 0xFFFFFFFF) ++ leBytes 4 0
          ++ (List.range 6).flatMap fun e => (tget ({} : Domain) s.thm.ledger e).ledger) })) ∧
    (s.serving m 0x0502 → s.logReadCheck (s.request m) = 0 → ∃ p : List Byte,
      p.take 4 = leBytes 4 (s.logReadRecs (s.request m)).length ∧ exec (.logRead m) s =
        .next (({ s with saf := { s.saf with logReads := s.saf.logReads ++ [⟨m, s.requestTag m, s.objAddr (field (s.request m) 20 4)
          (64 * field (s.request m) 24 4), (s.logReadRecs (s.request m)).flatMap (·.2)⟩] } } : State).answer m 0x0502 { payload := p, accepted := true })) ∧
    (s.unhindered = true → s.saf.logReads[n]? = some r → ∀ v : State × Nat,
      v = ({ s with saf := { s.saf with logReads := s.saf.logReads.eraseIdx n } } : State).devStore firmwareWho r.addr r.bytes →
      exec (.logReadDone n) s = .next (v.1.commandDone r.mbx r.tag v.2)) ∧
    (s.serving m 0x0600 → s.fwSlotCheck image (s.request m) = 0 → exec (.fwSlotWrite m image) s =
      .next ((s.modPkg fun k => { k with fwWrite := some ⟨m, s.requestTag m, bitsOf (field (s.request m) 16 1) 0 1 == 1,
        bitsOf (field (s.request m) 16 1) 1 1, image⟩ }).answer m 0x0600 { accepted := true })) ∧
    (s.pkg.fwWrite = some w → ∃ t, exec (.fwSlotWriteDone true) s = .next t ∧ t.pkg.fwWrite = none ∧ t.hif.evtSeq = (s.hif.evtSeq + 1) % 2 ^ 32 ∧
      (w.target = false → t.pkg.sfdFlash = s.pkg.sfdFlash ∧ (w.slot < 2 → (slotImage t.pkg.iodFlash w.slot) = w.image)) ∧
      (w.target = true → t.pkg.iodFlash = s.pkg.iodFlash ∧ (w.slot < 2 → (slotImage t.pkg.sfdFlash w.slot) = w.image))) ∧
    (s.pkg.fwWrite = some w → ∃ t, exec (.fwSlotWriteDone false) s = .next t ∧ t.pkg.fwWrite = none ∧
      (w.slot < 2 → slotImage (if w.target then t.pkg.sfdFlash else t.pkg.iodFlash) w.slot = blankSlot.image)) ∧
    (s.serving m 0x0601 → s.fwAdvanceCheck (s.request m) = 0 → bitsOf (field (s.request m) 16 1) 0 1 = 0 →
      s.pkg.iodFuse < field (s.request m) 20 4 → exec (.fwRollbackAdvance m) s =
        .next ((s.modPkg fun k => { k with fwAdvance := some ⟨m, s.requestTag m, false, field (s.request m) 20 4⟩ }).answer m 0x0601
          { accepted := true })) ∧
    (s.pkg.fwAdvance = some a → exec .fwRollbackAdvanceDone s = .next ((s.modPkg fun k => { k with
        fwAdvance := none, sfdFuse := if a.target then a.version else k.sfdFuse, iodFuse := if a.target then k.iodFuse else a.version
      }).commandDone a.mbx a.tag 0))

/-- The DRAM window and the accesses to registers (R6, R10, R73, R75, R304, R305, R533): what each command leaves where no access has to
wait. Where the spec leaves a point open, what stands here is the model's choice (log entries 16, 17, 94, 103, 127). -/
def Obligations.HostAccessesComplete : Prop :=
  ∀ (s r u w : State) (x n off : Nat) (bs : List Byte) (v : Word), s.unhindered = true →
    r = s.findSpan hostWho (s.winAddr x) n → u = r.passSpan hostWho false (s.winAddr x) n → w = s.passSpan hostWho true (s.winAddr x) bs.length →
    (s.inWindow x n = true → s.spanExcluded (s.winAddr x) n = false → s.spanVisible (s.winAddr x) n = true →
      exec (.windowRead x n) s = .next (if r.rangePoisoned (s.winAddr x) n then
        (u.wr HIF_STATUS_WIN_POISON 1).hostGets (.poisoned (memRead s.dram (s.winAddr x) n))
        else u.hostGets (.data (memRead s.dram (s.winAddr x) n)))) ∧
    (s.inWindow x n = true → s.spanExcluded (s.winAddr x) n = true →
      exec (.windowRead x n) s = .next ((s.wr HIF_STATUS_WIN_ERR 1).hostGets .unsupportedRequest)) ∧
    (s.inWindow x n = true → s.spanExcluded (s.winAddr x) n = false → s.spanVisible (s.winAddr x) n = false →
      exec (.windowRead x n) s =
        .next ((u.wr HIF_STATUS_WIN_ERR 1).hostGets .completerAbort)) ∧
    (s.inWindow x bs.length = true → s.spanExcluded (s.winAddr x) bs.length = false → s.spanVisible (s.winAddr x) bs.length = true →
      exec (.windowWrite x bs) s = .next (w.memStore (s.winAddr x) bs)) ∧
    (s.inWindow x bs.length = true → s.spanExcluded (s.winAddr x) bs.length = true →
      exec (.windowWrite x bs) s = .next (s.wr HIF_STATUS_WIN_ERR 1)) ∧
    (s.inWindow x bs.length = true → s.spanExcluded (s.winAddr x) bs.length = false → s.spanVisible (s.winAddr x) bs.length = false →
      exec (.windowWrite x bs) s = .next (w.wr HIF_STATUS_WIN_ERR 1)) ∧
    exec (.registerWrite off bs) s = .next (s.regWrite off bs).settle ∧
    exec (.rcRead off) s = .next ((s.regRead off).1.hostGets (.data (s.regRead off).2)) ∧
    (off % 4 = 0 →
      exec (.reg64LowRead off) s = .next ((s.read32 off).1.hostGets (.data (leBytes 4 (s.read32 off).2))) ∧
      exec (.reg64HighRead off) s = .next ((s.read32 off).1.hostGets (.data (leBytes 4 (s.read32 off).2)))) ∧
    exec (.reg64LowWrite off v) s = .next (s.regWrite off (leBytes 4 v.toNat)).settle ∧
    exec (.reg64HighWrite off v) s = .next (s.regWrite off (leBytes 4 v.toNat)).settle ∧
    (accessOk off n = false → exec (.invalidRegisterAccess off n) s =
      .next ((s.wr HIF_GSTATUS_ACC_ERR 1).hostGets (.data (leBytes n 0))))

/-- MSI-X, AER, the end of the firmware and the event ring (R96-R99, R102, R537, R538): what each command leaves. Where the spec leaves a
point open, what stands here is the model's choice (log entries 18, 105, 137). -/
def Obligations.HostEventsComplete : Prop :=
  ∀ (s u : State) (v kind t : Nat) (w : Word) (r : EventRec) (rest : List EventRec),
    (v < 64 → s.hif.msixPend.getLsbD v = true → exec (.msixUnmask v) s = .next { s with hif := { s.hif with
      msixEnable := true, msixMask := s.hif.msixMask &&& ~~~(1#64 <<< v), msixPend := s.hif.msixPend &&& ~~~(1#64 <<< v),
      msixSent := s.hif.msixSent ++ [v] } }) ∧
    (v < 64 → s.hif.msixPend.getLsbD v = false → exec (.msixUnmask v) s = .next { s with hif := { s.hif with
      msixEnable := true, msixMask := s.hif.msixMask &&& ~~~(1#64 <<< v) } }) ∧
    exec (.imaskWrite w) s = .next (s.writeIMask w.toNat) ∧
    (1 ≤ kind → kind ≤ 3 → exec (.aerError kind) s = .next (if s.on (HIF_ICAUSE_AER_COR.bit (kind - 1)) = false ∧
      s.on (HIF_IMASK_MASK.bit (kind - 1)) = false then (s.wr (HIF_ICAUSE_AER_COR.bit (kind - 1)) 1).msix 17
      else s.wr (HIF_ICAUSE_AER_COR.bit (kind - 1)) 1)) ∧
    (s.hif.fwStopped = false → u = (({ s with hif := { s.hif with fwStopped := true } } : State).wr HIF_STATUS_FW_FATAL 1).msix 17 →
      exec (.fwFatal w false) s = .next u ∧
      exec (.fwFatal w true) s = .next (u.event 0xFF 0x1F 0 0 (leBytes 4 w.toNat ++ leBytes 4 (s.rd HIF_HEARTBEAT_COUNT)))) ∧
    exec (.evtEnable w) s = .next (s.writeEvtCtrl w.toNat) ∧ exec (.evtTailWrite w) s = .next (s.writeEvtTail w.toNat) ∧
    (s.hif.evtBuf = r :: rest → s.ringRoom = true →
      u = (s.hostWrite (s.rd EVT_BASE_ADDR * 4096 + 32 * s.rd EVT_HEAD_INDEX) (r.toBytes (s.rd EVT_HEAD_PHASE))).advanceHead →
      exec .eventRingWrite s = .next ({ u with hif := { u.hif with evtBuf := rest } } : State).overflowRecord.ringMessage) ∧
    (s.hif.evtDelay = some t → u = s.waitTo t →
      exec .eventCoalesceExpiry s = .next (({ u with hif := { u.hif with evtDelay := none } } : State).msix 16))

/-- Queues and the generic records (R111-R120, R125-R127): what each command leaves where no access has to wait. Where the spec leaves a
point open, what stands here is the model's choice (log entries 8, 69, 77, 94, 107, 129). -/
def Obligations.QueueCommandsComplete : Prop :=
  ∀ (s u : State) (d a : Nat) (t : BitVec 16) (r : Rec) (who : Who), s.unhindered = true →
    ((s.queue d).live = true → (s.queue d).destroying = none → s.rd (HIF_QSTAT_STATE.idx d) ≠ qReset →
      t.toNat ≠ s.rd (HIF_QTAIL_INDEX.idx d) →
      doorbellFits (2 ^ (s.queue d).log2n) (s.rd (HIF_QTAIL_INDEX.idx d)) (s.rd (HIF_QHEAD_INDEX.idx d)) t.toNat = true →
      exec (.queueDoorbell d t) s = .next (let q := s.queue d
        let n := 2 ^ q.log2n
        let a := s.rd (HIF_QTAIL_INDEX.idx d)
        let v := (s.setQueue d { q with
          lists := q.lists ++ [{ id := q.nextList, start := a, units := (t.toNat + n - a) % n }]
          nextList := q.nextList + 1 }).wr (HIF_QTAIL_INDEX.idx d) t.toNat
        if s.rd (HIF_QSTAT_STATE.idx d) = qIdle then v.wr (HIF_QSTAT_STATE.idx d) qRunning else v)) ∧
    ((s.queue d).live = true → s.rd (HIF_QSTAT_STATE.idx d) = qHalted → exec (.queueResume d) s =
      .next (s.wr (HIF_QSTAT_STATE.idx d) (if (s.queue d).lists = [] then qIdle else qRunning))) ∧
    ((s.queue d).live = true → s.rd (HIF_QSTAT_STATE.idx d) = qHalted ∨ s.rd (HIF_QSTAT_STATE.idx d) = qRunning →
      exec (.queueFlush d) s = .next (((s.setQueue d { s.queue d with flushing := true }).cutRecs d fun _ => true).retire d).settle) ∧
    ((s.queue d).live = true → t.toNat < 2 ^ (s.queue d).cqLog2n → u = s.wr (HIF_CQTAIL_INDEX.idx d) t.toNat →
      exec (.cqtailWrite d t) s =
        .next ((if u.cqRoom d (s.queue d) then u.wr (HIF_QSTAT_CQ_FULL.idx d) 0 else u).retire d).settle) ∧
    (s.canFetch d = true → s.cqRoom d (s.queue d) = true → exec (.recordStart d) s =
      .next ((s.readRing d).fetchRecord d).settle) ∧
    (s.canFetch d = true → s.cqRoom d (s.queue d) = false →
      exec (.recordStart d) s = .next (s.wr (HIF_QSTAT_CQ_FULL.idx d) 1)) ∧
    (s.startable d 0x00 r (fun _ => (0, 0xFFFF)) → exec (.nop d) s = .next ((s.runRec d r.seq).completeRec d r.seq 0).settle) ∧
    (s.startable d 0x01 r s.fenceCheck → u = (s.runRec d r.seq).findSpan who a 8 → who = (s.runRec d r.seq).fenceWho d r →
      a = (s.runRec d r.seq).fenceAddr r → u.allowed who a = true → u.burstStatus who false a 8 = 0 → exec (.signal d) s = .next (((u.passRequest who true a 8).memStore a (leBytes 8
        (max (leNat (memRead u.dram a 8)) (field r.bytes 32 8)))).completeRec d r.seq 0).settle) ∧
    (s.startable d 0x02 r s.fenceCheck → u = s.runRec d r.seq → who = u.fenceWho d r → a = u.fenceAddr r →
      ∀ (v : State) (st : Nat) (bs : List Byte), u.devLoad who a 8 = (v, st, bs) → (st = 0 ∨ st = E_POISON) →
      exec (.wait d) s = .next (if st = 0 ∧ field r.bytes 32 8 ≤ leNat bs then v.completeRec d r.seq 0
        else if field r.bytes 40 4 = 0 then v.faultRec d r.seq E_TIMEOUT else v.wr (HIF_QSTAT_WAITING.idx d) 1).settle) ∧
    (s.runningRec d 2 = some r → r.met = true → exec (.waitRelease d) s = .next (s.completeRec d r.seq 0).settle) ∧
    (s.runningRec d 2 = some r → r.met = false → field r.bytes 40 4 ≠ 0xFFFFFFFF → exec (.waitTimeout d) s =
      .next ((s.waitTo (r.startAt + field r.bytes 40 4)).faultRec d r.seq E_TIMEOUT).settle) ∧
    (s.startable d 0x03 r s.fenceCheck → u = s.runRec d r.seq → who = u.fenceWho d r → a = u.fenceAddr r →
      (u.devStore who a (leBytes 8 u.now)).2 = 0 → exec (.timestamp d) s =
        .next ((u.devStore who a (leBytes 8 u.now)).1.completeRec d r.seq 0).settle)

/-- Jobs and forager records (R121-R123, R270-R279): what each command leaves where no access has to wait. `w` is the state after the
requests that the checks of a record make. Where the spec leaves a point open, what stands here is the model's choice (log entries 33, 69,
94, 107, 110, 112). -/
def Obligations.JobCommandsComplete : Prop :=
  ∀ (s u w : State) (d k c compiled mode : Nat) (est : List Nat) (r : Rec) (j : Job), s.unhindered = true →
    (s.startable d 0x30 r (s.fgCheck d) → u = s.runRec d r.seq → exec (.fgCopy d) s =
      .next (u.setJob (jobKey d r.seq) (u.mkForagerJob d r)).settle) ∧
    (s.startable d 0x31 r (s.fgCheck d) → u = s.runRec d r.seq → exec (.fgFill d) s =
      .next (u.setJob (jobKey d r.seq) (u.mkForagerJob d r)).settle) ∧
    (w = s.checkReads d 0x10 (fun _ => true) (State.readLive d) →
      w.startable d 0x10 r (fun r => w.jobCheck (w.recColony d r) r.bytes compiled mode) → u = w.runRec d r.seq →
      exec (.jobRun d compiled mode) s = .next (u.setJob (jobKey d r.seq) (u.mkJob d r mode false)).settle) ∧
    (earliest (s.readyList c) = some (k, j) → s.combsServe = true → s.unreachable c j = false → s.mayStart c k j = true →
      (j.forager = true → s.cqRoom j.slot (s.queue j.slot) = true) → exec (.jobAssign c) s = .next (s.assignJob c k j).settle) ∧
    (s.job k = j → j.live = true → j.phase = .switching → s.switchEnds j = true → s.workHeld = false → s.jobClocked j = true →
      exec (.jobStart ⟨k, est⟩) s = .next (s.startJob k est).settle) ∧
    (s.job k = j → j.live = true → j.phase = .running → j.forager = true →
      (s.jobClocked j = true → exec (.foragerRecordDone k) s = .next (s.endForager k).settle) ∧
      exec (.foragerBudgetExpiry k) s = .next ((s.elapse (j.budget - j.count)).budgetFault k).settle) ∧
    (s.job k = j → j.live = true → j.phase = .running → j.forager = false →
      (j.combs.all s.combEnded = true → s.jobClocked j = true → exec (.jobEnd k) s = .next (s.endJob k).settle) ∧
      (s.jobHalted j = false → exec (.jobBudgetExpiry k) s = .next ((s.elapse (j.budget - j.count)).budgetFault k).settle)) ∧
    (s.job k = j → j.live = true → j.phase = .saving → s.jobClocked j = true → u = s.waitTo j.savedAt → exec (.jobSaveDone k) s =
      .next (((j.combs.filter fun g => tget 0 u.unsaved g == k + 1).foldl State.saveComb u).finishJob k j.readyAt).settle) ∧
    (s.job k = j → j.live = true → j.phase = .releasing → exec (.jobRelease k) s = .next (s.releaseJob k).settle) ∧
    (earliest (s.readyList c) = some (k, j) → s.poolLists.contains c = true →
      exec (.beAgeingExpiry c) s = .next (s.waitTo (j.readyAt + ageingTicks)))

/-- Sequences, steps and the honey allocator (R233-R240, R247-R258): what each command leaves where no access has to wait. `w` is the state
after the requests that the checks of a record make. Where the spec leaves a point open, what stands here is the model's choice (log entries
40, 41, 42, 43, 47, 68, 94, 116, 117, 120, 130). -/
def Obligations.SequenceCommandsComplete : Prop :=
  ∀ (s u w : State) (d k op compiled mode : Nat) (r : Rec) (j : Job) (a : AllocReq), s.unhindered = true →
    (s.pwr.enginesHeld = false → pickReq s.honey.reqs = some a → exec .allocatorServe s = .next (s.serveAlloc a)) ∧
    (w = s.checkReads d 0x20 (fun _ => true) (State.readPrefix d) →
      w.startable d 0x20 r (fun r => w.joinCheck (w.recColony d r) r.bytes) → exec (.seqJoin d) s =
      .next ((w.runRec d r.seq).joinEffect d r).settle) ∧
    (s.startable d 0x21 r (fun r => firstField [(s.ownerOk (s.recColony d r) r.bytes, E_RANGE, 16)]) → exec (.seqFinish d) s =
      .next ((s.runRec d r.seq).seqEffect 0 d r).settle) ∧
    (s.pickRec d 0x22 (fun x => field x.bytes 20 1 == op || !decide (1 ≤ field x.bytes 20 1 ∧ field x.bytes 20 1 ≤ 5)) = some r →
      s.cqRoom d (s.queue d) = true → field r.bytes 20 1 = op → s.ownerOk (s.recColony d r) r.bytes = true → s.check10 (s.queue d).cls = 0 →
      u = (s.runRec d r.seq).seqEffect op d r →
      (op = 1 → exec (.seqCtlPin d) s = .next u.settle) ∧ (op = 2 → exec (.seqCtlUnpin d) s = .next u.settle) ∧
      (op = 3 → exec (.seqCtlHold d) s = .next u.settle) ∧ (op = 4 → exec (.seqCtlRelease d) s = .next u.settle) ∧
      (op = 5 → exec (.seqCtlResume d) s = .next u.settle)) ∧
    (w = s.checkReads d 0x23 (fun _ => true) (State.readLive d) → w.pickRec d 0x23 (fun _ => true) = some r → w.cqRoom d (w.queue d) = true →
      (w.jobCheck (w.recColony d r) r.bytes compiled mode).1 = 0 → (w.stepCheck r.bytes).1 = 0 → w.check10 (w.queue d).cls = 0 →
      u = w.runRec d r.seq → exec (.stepRun d compiled mode) s =
        .next (u.setJob (jobKey d r.seq) (u.mkJob d r mode true)).settle) ∧
    (s.job k = j → j.live = true → j.phase = .building → (s.stepOf (j.colony.getD 0)).job = none →
      exec (.stepBuildDone k) s = .next (s.buildStep k).settle)

/-- Bundles, slot waits, foragers and the scratchpad (R131, R146, R184-R195): what each command of a comb leaves. Where the spec leaves a
point open, what stands here is the model's choice (log entries 30, 31, 32, 34, 44, 45, 94, 108, 109, 149, 111, 122, 131, 132, 134, 136). -/
def Obligations.ForagerCommandsComplete : Prop :=
  ∀ (s s0 u : State) (g f slot n wt st : Nat) (write last ue : Bool) (ops held : List BOp) (lastHeld : Bool) (t : Xfer) (x : DramXfer)
    (w : Nat × Nat × Bool) (q : List (Desc × Nat)) (b : List Byte) (sched : Nat) (bs : List Byte) (bad hit : List Nat), s.unhindered = true →
    (s.combRuns g = true → ((s.comb g).lastIssued = false ∨ (s.comb g).held.isSome = true) → ops.all bopOk = true →
      exec (.bundleIssue g ops last) s = .next ((s.combCycle g ops last).foragersWait g).settle) ∧
    ((s.comb g).held = some (held, lastHeld) → ((s.comb g).endCycle none).waitSlot held = some (slot, write) →
      s.on (CMB_DBG_HALT.idx g) = false → s.combRuns g = true →
      exec (.slotwaitExpiry g) s = .next (s.slotwaitPasses g held slot write).settle) ∧
    (s.dieRuns (g / 16) = true → (s.forager g f).cur = some t → exec (.foragerSlotAdmit g f) s = .next (s.admitXfer g f).settle) ∧
    (s.dieRuns (g / 16) = true → (s.forager g f).cur = none → (s.forager g f).queue = (.dram x, sched) :: q → s.dramCheck g x = 0 →
      exec (.foragerSlotAdmit g f) s = .next ((s.setForager g f (s.forager g f).takeHead).admitXfer g f).settle) ∧
    (s.dieRuns (g / 16) = true → (s.forager g f).cur = some t → s.xferWaits g t = some w →
      exec (.foragerSlotwaitExpiry g f) s = .next ((s.elapse (ceilDiv (65536 - t.waited) 10)).foragerWaits g 65536 f).settle) ∧
    (s.dieRuns (g / 16) = true → (s.forager g f).cur = some ⟨.dram x, sched, n, wt⟩ → n = (xferSlots g (.dram x)).length →
      x.toSpad = true → s0 = s.setForager g f { s.forager g f with cur := none } →
      s0.objLoad (s.xferWho g x) x.obj x.off x.size = (u, 0, bs) →
      exec (.foragerTransferDone g ⟨f, bad⟩) s = .next (if x.mark = 0 then u.modComb x.comb fun c => c.putSpad x.spad bs
        else (u.modComb x.comb fun c => c.putSpad x.spad bs).touchSlots x.comb (slotsTouched x.spad x.size)
          fun i => .mark i x.mark).settle) ∧
    (s.dieRuns (g / 16) = true → (s.forager g f).cur = some ⟨.dram x, sched, n, wt⟩ → n = (xferSlots g (.dram x)).length →
      x.toSpad = false → s0 = s.setForager g f { s.forager g f with cur := none } →
      s0.objStore (s.xferWho g x) x.obj x.off ((s0.comb x.comb).bytes x.comb x.spad x.size) = (u, 0) →
      hit = bad.filter (fun b => decide (b < x.size)) →
      (hit = [] → exec (.foragerTransferDone g ⟨f, bad⟩) s = .next (if x.release = true
        then u.touchSlots x.comb (slotsTouched x.spad x.size) SlotChange.release else u).settle) ∧
      (hit ≠ [] → exec (.foragerTransferDone g ⟨f, bad⟩) s = .next ((hit.foldl (fun s b => s.poisonWord
        (s.objAddr x.obj (x.off + b) / 64)) u).faultComb g E_POISON).settle)) ∧
    (s.dieRuns (g / 16) = true → (s.forager g f).cur = none → (s.forager g f).queue = (.op b, sched) :: q → (s.comb g).spCheck b = 0 →
      u = (s.setForager g f (s.forager g f).takeHead).admitXfer g f →
      ((SpOp.ofBytes b).op = 8 → exec (.spFill g f) s = .next u.settle) ∧
      ((SpOp.ofBytes b).op = 9 → exec (.spCopy g f) s = .next u.settle) ∧
      ((SpOp.ofBytes b).op = 10 → exec (.cacheWb g f) s = .next u.settle) ∧
      ((SpOp.ofBytes b).op = 11 → exec (.cacheInv g f) s = .next u.settle) ∧
      ((SpOp.ofBytes b).op = 12 → exec (.cacheWbinv g f) s = .next u.settle)) ∧
    (s.dieRuns (g / 16) = true → (s.forager g f).cur = some ⟨.op b, sched, n, wt⟩ → n = (xferSlots g (.op b)).length →
      (s.setForager g f { s.forager g f with cur := none }).doSpOp g (SpOp.ofBytes b) = (u, st) →
      exec (.scratchpadOpDone g ⟨f, ue⟩) s = .next (if st ≠ 0 then u.faultComb g st
        else if ue = true ∧ (SpOp.ofBytes b).op = 9 then u.faultComb g E_POISON else u.spMarks g (SpOp.ofBytes b)).settle) ∧
    exec (.scratchpadEccWriteback g) s = .next (s.modComb g fun c => { c with eccRows := c.eccRows.drop 1 }).settle

/-- The comb's cache, debug and counters (R151, R153, R188, R189, R197): what each command leaves. Where the spec leaves a point open, what
stands here is the model's choice (log entries 28, 31, 46, 94, 109, 133). -/
def Obligations.CombDebugCommandsComplete : Prop :=
  ∀ (s s1 u : State) (g word a k st : Nat) (ue : Bool) (bs : List Byte), s.unhindered = true →
    (s.dieRuns (g / 16) = true → s.drainWriteBacks g = (s1, 0) → (s1.comb g).fill = none →
      exec (.cacheFillDone g) s =
        .next (if (s.comb g).missHold g then s1.modComb g fun c => { c with fillLag := true } else s1)) ∧
    (s.dieRuns (g / 16) = true → s.drainWriteBacks g = (s1, 0) → (s1.comb g).fill = some (a, k) →
      s1.devLoad (s1.combWho g) a 512 = (u, st, bs) → (st = 0 ∨ st = E_POISON) →
      exec (.cacheFillDone g) s = .next (u.modComb g fun c =>
        ({ c.putSpad (lineRow c.cacheMode k) bs with
            tags := tset {} c.tags k { valid := true, addr := a, poison := st == E_POISON }, fill := none, fillLag := true }).touchLine
          k).settle) ∧
    (g < 64 → s.isLc g = false → s.on HIF_LOCKCFG_CMB_HALT_DENY = false → s1 = s.wrB (CMB_DBG_HALT.idx g) true →
      u = (if s1.combRuns g then ((s1.wr (CMB_DBG_HALTED.idx g) 1).wr (CMB_STATE_STATE.idx g) 4).wr (CMB_STATE_CAUSES.idx g)
        (s1.rd (CMB_STATE_CAUSES.idx g) % 256 + 256) else s1) →
      exec (.combDebugHalt g) s = .next u ∧
      (s.on (CMB_DBG_HALT.idx g) = true → exec (.combDebugStep g) s = .next (if s.on (CMB_DBG_HALTED.idx g)
        then u.modComb g fun c => { c with stepReq := true } else u))) ∧
    (g < 64 → s1 = s.wrB (CMB_DBG_HALT.idx g) false → k = s1.rd (CMB_STATE_CAUSES.idx g) % 256 → exec (.combDebugRelease g) s =
      .next (if s1.on (CMB_DBG_HALTED.idx g) then ((s1.wr (CMB_DBG_HALTED.idx g) 0).wr (CMB_STATE_STATE.idx g)
        (if k = 0 then 2 else 3)).wr (CMB_STATE_CAUSES.idx g) k else s1)) ∧
    (g < 64 → s.isLc g = true ∨ s.on HIF_LOCKCFG_CMB_HALT_DENY = true →
      exec (.combDebugHalt g) s = .next (s.wr (CMB_DBG_REFUSED.idx g) 1) ∧
      exec (.combDebugStep g) s = .next (s.wr (CMB_DBG_REFUSED.idx g) 1)) ∧
    (g < 64 → exec (.combClearCounters g) s = .next (s.clearHolds g)) ∧
    ((s.wr CMB_SPD_ADDR_ADDR word).on CMB_SPD_ADDR_BUSY = false → u = s.wr CMB_SPD_ADDR_ADDR word →
      exec (.scratchpadDebugRead word) s =
        .next { (u.wr CMB_SPD_ADDR_BUSY 1) with spdRead := some (u.rd CMB_SPD_SEL_COMB, 32 * (word % 2 ^ 18)) }) ∧
    (s.spdRead = some (g, a) →
      u = (wordsOf 8 ((s.comb g).bytes g a 32)).zipIdx.foldl (fun s e => s.wr (CMB_SPD_DATA_DATA.idx e.2) e.1.toNat) s →
      exec (.scratchpadDebugReadDone ue) s =
        .next { (u.wr CMB_SPD_ADDR_BUSY 0).wrB CMB_SPD_ADDR_UE (s.on CMB_SPD_ADDR_UE || ue) with spdRead := none })

/-- The DRAM controllers (R293-R300, R304-R308, R315-R323, R327): what requests, service, refresh, sensors and scrubbing leave. A request
that fails the partition check is answered E_PARTITION (R327); any other passes the links of its route; on its own die it reaches its
controller at once, where it is refused (R14), held before a full queue (R297) or behind an older held one (R295), queued as a read, or
queued and visible as a write (R295). Where the spec leaves a point open, what stands here is the model's choice (log entries 9, 20, 21, 94,
95, 127). -/
def Obligations.DramCommandsComplete : Prop :=
  ∀ (s u v : State) (d ch b o row due : Nat) (isRead : Bool) (r : DramReq) (q p : ChanReq) (errs : List Nat) (t : Int),
    (s.niSource r = true → s.allowed (reqWho (s.niReq r)) r.addr = true → exec (.dramRequest r) s =
      .next (s.goOn { req := s.niReq r, place := 0 } (s.dieRoute r.source (s.dieOffset r.addr).1))) ∧
    (s.niSource r = true → s.allowed (reqWho (s.niReq r)) r.addr = false → exec (.dramRequest r) s =
      .next ((s.violation (reqWho (s.niReq r)) r.addr r.kind).respond (s.niReq r) E_PARTITION [] [])) ∧
    (s.niSource r = false → exec (.dramRequest r) s = .next s) ∧
    (s.niSource r = true → s.allowed (reqWho (s.niReq r)) r.addr = true → s.dieRoute r.source (s.dieOffset r.addr).1 = [] →
      (s.dieOffset r.addr).1 = d → offCh (s.dieOffset r.addr).2 = ch → q = s.leavePoint (s.niReq r) →
      (s.addrExcluded r.addr = true →
        exec (.dramRequest r) s = .next (s.respond q E_LINK [] [])) ∧
      (s.addrExcluded r.addr = false → (s.chan d ch).full q.req = true ∨
          (s.mem.waiting.any fun m => m.place == 24 + 32 * d + ch && shareWord m.req.req q.req) = true →
        exec (.dramRequest r) s = .next (s.netWait { req := q, place := 24 + 32 * d + ch })) ∧
      (s.addrExcluded r.addr = false → r.kind = 0 → (s.chan d ch).reads.length < 64 →
        (s.mem.waiting.any fun m => m.place == 24 + 32 * d + ch && shareWord m.req.req q.req) = false →
        u = { s with mem := { s.mem with reqOrd := s.mem.reqOrd + 1 } } →
        exec (.dramRequest r) s = .next (u.setChan d ch { u.chan d ch with reads := (u.chan d ch).reads ++ [{ s.leavePoint q with
          ord := s.mem.reqOrd
          data := memRead s.dram (r.addr / 64 * 64) (64 * r.words)
          was := (List.range r.words).map fun w => s.isPoisoned (r.addr / 64 + w) }] })) ∧
      (s.addrExcluded r.addr = false → r.kind ≠ 0 → (s.chan d ch).writes.length < 64 →
        (s.mem.waiting.any fun m => m.place == 24 + 32 * d + ch && shareWord m.req.req q.req) = false →
        u = { s with mem := { s.mem with reqOrd := s.mem.reqOrd + 1 } } → p = { s.leavePoint q with
          ord := s.mem.reqOrd
          data := []
          was := (List.range r.words).map fun w => s.isPoisoned (r.addr / 64 + w) } →
        v = ((u.setChan d ch { u.chan d ch with writes := (u.chan d ch).writes ++ [p] }).applyWrite q.req).markWaits →
        exec (.dramRequest r) s = .next ((if r.kind = 2 then v else v.respond p 0 [] []).drainMode d ch))) ∧
    (s.nextReq d ch = some (isRead, q) → exec (.dramChannelIssue d ch errs) s = .next (s.serveReq d ch isRead q errs)) ∧
    (s.nextReq d ch = none → exec (.dramChannelIssue d ch errs) s = .next s) ∧
    (s.on (DMC_STATUS_SELF_REFRESH.idx d) = false → s.on (DMC_STATUS_TRAINED.idx d) = true →
      due = (if ((s.chan d ch).bank b).due = 0 then 8 * s.tclk + s.trefi d else ((s.chan d ch).bank b).due) →
      u = s.waitTo (ceilDiv due 8) →
      (((u.chan d ch).bank b).debt < 7 →
        (u.raise (DMC_REF_MAX_DEBT.idx d) (((u.chan d ch).bank b).debt + 1)).bankWanted d ch b = true → exec (.refreshDue d ch b) s =
          .next ((u.raise (DMC_REF_MAX_DEBT.idx d) (((u.chan d ch).bank b).debt + 1)).setChan d ch ((u.chan d ch).setBank b
            { (u.chan d ch).bank b with due := due + u.trefi d, debt := ((u.chan d ch).bank b).debt + 1 }))) ∧
      (((u.chan d ch).bank b).debt < 7 →
        (u.raise (DMC_REF_MAX_DEBT.idx d) (((u.chan d ch).bank b).debt + 1)).bankWanted d ch b = false → exec (.refreshDue d ch b) s =
          .next ((u.raise (DMC_REF_MAX_DEBT.idx d) (((u.chan d ch).bank b).debt + 1)).setChan d ch ((u.chan d ch).setBank b
            { (u.chan d ch).bank b with due := due + u.trefi d, debt := 0, row := none }))) ∧
      (7 ≤ ((u.chan d ch).bank b).debt → exec (.refreshDue d ch b) s =
          .next (((u.raise (DMC_REF_MAX_DEBT.idx d) (((u.chan d ch).bank b).debt + 1)).setChan d ch ((u.chan d ch).setBank b
            { (u.chan d ch).bank b with due := due + u.trefi d, debt := 0, row := none })).inc (DMC_REF_BURSTS.idx d)))) ∧
    (∀ ts, s.mimiderTemps d = t :: ts → 1344 < ts.foldl max t →
      u = s.wr (DMC_STATUS_TEMP_MAX.idx d) (ofInt 8 (ts.foldl max t / 16)) → u.on (DMC_STATUS_HOT.idx d) = false →
      exec (.mimiderSensorRead d (t :: ts)) s =
        .next (((u.setDmc d { u.dmc d with cool := 0 }).wr (DMC_STATUS_HOT.idx d) 1).hastenRefresh d)) ∧
    (((s.chan d ch).bank b).row = some row → ((s.chan d ch).bank b).policy = 0 →
      (((s.chan d ch).reads ++ (s.chan d ch).writes).any fun q =>
        offBank (s.dieOffset q.req.addr).2 == b && offRow (s.dieOffset q.req.addr).2 == row) = false →
      u = s.waitTo (((s.chan d ch).bank b).lastUse + 3) → exec (.rowIdleClose d ch b) s =
        .next (u.setChan d ch ((u.chan d ch).setBank b { (s.chan d ch).bank b with row := none }))) ∧
    (s.unhindered = true → s.on (DMC_STATUS_TRAINED.idx d) = true → s.on (DMC_STATUS_EXCLUDED.idx d) = false → o = 64 * (s.dmc d).scrub →
      u = (s.setDmc d { s.dmc d with scrub := ((s.dmc d).scrub + 1) % 2 ^ 28 }).passBurst scrubWho false (s.addrOf d o) 64 →
      u.isPoisoned (s.addrOf d o / 64) = false →
      exec (.patrolScrub d 0) s = .next u ∧ exec (.patrolScrub d 1) s = .next (u.inc (DMC_CE_COUNT.idx d)) ∧
      exec (.patrolScrub d 2) s = .next ((u.spoil d (offCh o)
        { req := { kind := 0, addr := s.addrOf d o, words := 1, source := 0x47 }, ord := u.mem.reqOrd } (s.addrOf d o / 64)).logDram d 2 o 1 (s.addrOf d o) 0 0 0x47 1)) ∧
    exec .bwrClear s = .next { s with
      mem := { s.mem with clsBytes := [], colBytes := [], excess := [] }
      regs := s.regs.filter fun e => !(e.1 % 0x400000 == 0x4B044 || e.1 % 0x400000 == 0x4B048) }

/-- A command parity failure (R307): every request of the burst leaves its queue and fails, reads with poison and writes, and the words that
a read-modify-write was to read, with those words stored poisoned; the first is logged, idle banks make up their refreshes, the channel's
waiting requests go on, and a second failure within 1 ms excludes the pair. A failed refresh is owed again. Where the spec leaves a point
open, what stands here is the model's choice (log entries 20). -/
def Obligations.ParityFailureCompletes : Prop :=
  ∀ (s u : State) (d ch place : Nat) (x : Chan) (same : ChanReq → Bool) (r : ChanReq) (reads writes rest : List ChanReq) (hit : List Nat),
    x = s.chan d ch →
    ((same = fun q => q.req.addr / 512 == place / 512) →
      (reads = x.reads.filter same → (writes = x.writes.filter fun q => same q && isRmw q.req) → reads ++ writes = r :: rest →
        hit = (if reads = [] then failWords true r else List.range r.req.words) →
        u = writes.foldl (fun s q => s.failReq d ch false (failWords true q) q) (reads.foldl (fun s q => s.failReq d ch true [] q)
          (s.setChan d ch { x with
            reads := x.reads.filter (fun q => !reads.contains q)
            writes := x.writes.filter (fun q => !writes.contains q)
            parityAt := some s.tclk })) →
        (x.parityAt = none → exec (.commandParityFailure d ch 0 place) s =
          .next ((((List.range 16).foldl (fun s b => s.idleRefresh d ch b) (u.logReq d 3 r hit)).drainMode d ch).admitWaiting d ch)) ∧
        (∀ t, x.parityAt = some t → s.tclk < t + 125000 → exec (.commandParityFailure d ch 0 place) s =
          .next (((((List.range 16).foldl (fun s b => s.idleRefresh d ch b) (u.logReq d 3 r hit)).drainMode d ch).admitWaiting d
            ch).loseDie d).settle)) ∧
      (writes = x.writes.filter same → writes = r :: rest → x.parityAt = none →
        u = writes.foldl (fun s q => s.failReq d ch false (failWords false q) q) (s.setChan d ch
          { x with writes := x.writes.filter (fun q => !writes.contains q), parityAt := some s.tclk }) →
        exec (.commandParityFailure d ch 1 place) s =
          .next ((((List.range 16).foldl (fun s b => s.idleRefresh d ch b) (u.logReq d 4 r (List.range r.req.words))).drainMode d
            ch).admitWaiting d ch))) ∧
    ((same = fun q => offBank (s.dieOffset q.req.addr).2 == place) → x.reads.filter same = [] → x.writes.filter same = [] →
      x.parityAt = none →
      u = s.setChan d ch (({ x with parityAt := some s.tclk }).setBank place
        { x.bank place with row := none, debt := (x.bank place).debt + 1 }) →
      exec (.commandParityFailure d ch 3 place) s = .next ((((List.range 16).foldl (fun s b => s.idleRefresh d ch b)
        (u.logDram d 5 (512 * ch + 2 ^ 17 * (place ^^^ (x.bank place).row.getD 0 % 16) + 2 ^ 21 * (x.bank place).row.getD 0)
          0 0 0 0 0xFF 0)).drainMode d ch).admitWaiting d ch))

/-- Cameras and Ethernet (R334, R335, R339, R351, R429, R430): what each event of a port leaves. Where the spec leaves a point open, what
stands here is the model's choice (log entries 22, 56, 57, 138, 140). -/
def Obligations.NectarPortEventsComplete : Prop :=
  ∀ (s u : State) (n e t drained sub reason left : Nat) (p : CsiPacket) (f : List Byte) (v : State × Bool) (c : Nat),
    (drained ≤ tget 0 s.ports.csiFill n → tget 0 s.ports.csiFill n - drained + p.payload.length ≤ 524288 → p.header = 0 →
      u = { s with ports := { s.ports with csiStop := tset none s.ports.csiStop n none,
                                           csiFill := tset 0 s.ports.csiFill n (tget 0 s.ports.csiFill n - drained + p.payload.length) } } →
      (u.attached 1 (0x100 + n) p.vc = some e →
        (p.dtype = 0 → exec (.csiPacket n p drained) s = .next ((u.heard e).startFrame n p.vc)) ∧
        (p.dtype = 1 → exec (.csiPacket n p drained) s = .next ((u.heard e).endFrame n p.vc false)) ∧
        (2 ≤ p.dtype → exec (.csiPacket n p drained) s = .next (((u.heard e).csiItem n p).csiPayload n p false))) ∧
      (u.attached 1 (0x100 + n) p.vc = none → p.dtype = 0 → exec (.csiPacket n p drained) s = .next (u.startFrame n p.vc))) ∧
    exec (.csiStopState n) s = .next { s with ports := { s.ports with csiStop := tset none s.ports.csiStop n (some s.tclk) } } ∧
    (64 ≤ f.length → f.length ≤ 9216 → left = tget 0 s.ports.ethFill n - drained → left + f.length ≤ 262144 →
      u = { s with ports := { s.ports with ethFill := tset 0 (tset 0 s.ports.ethFill n left) n (left + f.length) } } →
      (isTimeMsg f = true → exec (.ethFrameReceive n f true sub drained) s =
        .next { u with ports := { u.ports with timeMsgs := u.ports.timeMsgs ++ [(n, f, 10 * s.now + sub - s.rd (TIM_PHYDLY_RX.idx n))] } }) ∧
      (isTimeMsg f = false → u.attached 2 (0x200 + n) (ethKey f) = some e →
        v = (u.heard e).checkItem e (etherItem f) (s.now + 1) → c = 10 * s.now + sub - s.rd (TIM_PHYDLY_RX.idx n) →
        exec (.ethFrameReceive n f true sub drained) s = .next (if v.2 = true
          then v.1.deliver e { capture := c / 10, sub := c % 10, bytes := etherBody f } else v.1.dropItem e)) ∧
      (isTimeMsg f = false → u.attached 2 (0x200 + n) (ethKey f) = none → u.ethSteady n = true →
        (u.attach 2 (0x200 + n) (ethKey f) 0).attached 2 (0x200 + n) (ethKey f) = some e →
        exec (.ethFrameReceive n f true sub drained) s = .next ((u.attach 2 (0x200 + n) (ethKey f) 0).dropItem e))) ∧
    exec (.ethLinkUp n) s = .next { s with ports := { s.ports with
      ethUp := tset none s.ports.ethUp n (some s.tclk), ethDown := tset none s.ports.ethDown n none } } ∧
    exec (.ethLinkDown n) s = .next { s with ports := { s.ports with
      ethDown := tset none s.ports.ethDown n (some s.tclk), ethUp := tset none s.ports.ethUp n none } } ∧
    (s.detachDue e reason = some t → u = s.waitTo t → exec (.portDetach e reason) s =
      .next (if reason = 2 then u.detach e 2 else u.detachPort (u.entry e).port reason))

/-- CAN, ISOBUS, SPI, GPIO, GNSS and PWM (R336, R346, R350, R351, R408, R413, R418): what each event of a port leaves. Where the spec leaves
a point open, what stands here is the model's choice (log entries 9, 55, 139, 140, 141, 142). -/
def Obligations.ControlPortEventsComplete : Prop :=
  ∀ (s u : State) (p n i cs dur e taken last sub ago : Nat) (rest : List Nat) (f : CanFrame) (data : List Byte) (rising : Bool) (b : Byte) (d : Word)
    (v : State × Bool),
    (s.canCarries p f = true →
      ((tget ([] : List CanFrame) s.ports.canRx p).drop taken).length < 64 →
      u = { s with ports := { s.ports with
        canRx := (tset [] s.ports.canRx p ((tget ([] : List CanFrame) s.ports.canRx p).drop taken ++ [f]))
        canRxCapture := tset 0 s.ports.canRxCapture p (s.now - ago) } }.controlCan (0x300 + p) f.id f.ide f.data (s.now - ago) →
      exec (.canMessageReceive p f ⟨taken, ago⟩) s = .next (if (u.isobusOf p).on = true then u.isobusMessage p f else u)) ∧
    (s.canNext p = some (i, f) → exec (.canFrameSent ⟨p, ago⟩) s = .next { s with ports := { s.ports with
      canTx := tset none s.ports.canTx (32 * p + i) none
      canSent := s.ports.canSent ++ [(p, f)]
      canTxCapture := tset 0 s.ports.canTxCapture p (s.now - ago) } }) ∧
    ((s.isobusOf p).on = true → (s.isobusOf p).silent = false → exec (.isobusClaimSettled p) s =
      .next ((s.waitTo ((s.isobusOf p).claimAt + 31250000)).setIsobus p { s.isobusOf p with settled := true })) ∧
    (u = { s with ports := { s.ports with spiCapture := tset 0 s.ports.spiCapture (4 * n + cs) (s.now - dur) } }.controlSpi (0x400 + n) cs
        data (s.now - dur) →
      (u.attached 4 (0x400 + n) cs = none → exec (.spiTransfer n cs dur data) s = .next u) ∧
      (u.attached 4 (0x400 + n) cs = some e → v = (u.heard e).checkItem e data (s.now - dur) →
        exec (.spiTransfer n cs dur data) s = .next (if v.2 = true then v.1.deliver e { capture := s.now - dur, bytes := data }
          else v.1.dropItem e))) ∧
    exec (.spiDataReady n) s = .next { s with ports := { s.ports with drdyCapture := tset 0 s.ports.drdyCapture n s.now } } ∧
    (s.ports.cfg.gpioOut.getLsbD n = false → rising = s.ports.cfg.gpioPol.getLsbD n → tget ([] : List Nat) s.ports.gpioEdges n = last :: rest → last + 16 ≤ s.now →
      exec (.gpioEdge n rising) s = .next ({ s with ports := { s.ports with
        gpioEdges := tset [] s.ports.gpioEdges n [s.now, last] } }.controlGpio (0x700 + n) (s.now - last) s.now)) ∧
    (∀ l : List (Nat × Byte), l = lastN 256 (tget [] s.ports.gnssBytes n ++ [(s.now, b)]) →
      u = { s with ports := { s.ports with gnssBytes := tset [] s.ports.gnssBytes n l } } →
      exec (.gnssUartByte n b) s = .next (if b = 0x0A then u.gnssSentence n (lastSentence l) s.now else u)) ∧
    ((tget ({} : Pwm) s.ports.pwm n).latched = some d → exec (.pwmPeriodStart ⟨n, sub⟩) s = .next { s with ports := { s.ports with
      pwm := tset {} s.ports.pwm n { tget ({} : Pwm) s.ports.pwm n with duty := d, latched := none, capture := 10 * s.now + sub } } })

/-- REGISTRY (R344, R345): READ writes the 64 entries of the registry, BIND and UNBIND set and clear what binds an entry. Where the spec
leaves a point open, what stands here is the model's choice (log entries 23, 94). -/
def Obligations.RegistryCommandsComplete : Prop :=
  ∀ (s : State) (d m e : Nat) (r : Rec),
    s.pickRec d 0x4F (fun x => bitsOf (field x.bytes 16 1) 0 2 == m || bitsOf (field x.bytes 16 1) 0 2 == 3) = some r →
    s.cqRoom d (s.queue d) = true →
    bitsOf (field r.bytes 16 1) 0 2 = m → (s.checks (s.queue d).cls (s.registryCheck r)).1 = 0 → e = bitsOf (field r.bytes 17 1) 0 6 →
      (m = 0 → s.unhindered = true → exec (.registryRead d) s = .next ((s.runRec d r.seq).registryRead d r).settle) ∧
      (m = 1 → exec (.registryBind d) s = .next (((s.runRec d r.seq).setEntry e { (s.runRec d r.seq).entry e with
        bound := true, enable := bitsOf (field r.bytes 16 1) 2 1 == 1, sensorId := field r.bytes 20 2 }).completeRec d r.seq 0).settle) ∧
      (m = 2 → exec (.registryUnbind d) s = .next (((s.runRec d r.seq).setEntry e { (s.runRec d r.seq).entry e with
        bound := false, enable := false, sensorId := 0 }).completeRec d r.seq 0).settle)

/-- The time base (R347-R354): what each event of the servo, of holdover and of TIM_CFG leaves. Where the spec leaves a point open, what
stands here is the model's choice (log entries 9, 61, 141, 143). -/
def Obligations.TimeCommandsComplete : Prop :=
  ∀ (s u : State) (n gm pdelay t k : Nat) (offset rate adj : Int) (step changed falling : Bool) (v : Word),
    (u = s.applyTimCfg → cfgSrc u.servo.cfg ≠ 0 → bitsOf u.servo.cfg (12 + n) 1 ≠ 0 →
      changed = (u.servo.gm.isSome && u.servo.gm != some gm || u.rd TIM_STATUS_SOURCE == 3) →
      exec (.syncMessage n gm offset pdelay rate adj step) s =
        .next ((((({ u with servo := { u.servo with gm := some gm } } : State).servoUpdate (cfgSrc u.servo.cfg) offset rate adj step changed
          ).wr TIM_PDELAY_NS pdelay).wr TIM_STATUS_PORT n).wr TIM_STATUS_GM 0)) ∧
    (u = s.applyTimCfg → u.rd TIM_STATUS_STATE = timLocked → u.gnssReady = false → exec .syncTimeout s = .next u.holdover) ∧
    (s.expiryTicks = some k → s.rd TIM_STATUS_STATE = timHoldover → exec .holdoverExpiry s =
      .next ((s.waitTo (s.servo.holdAt + k)).timState timUnsync)) ∧
    (u = s.applyTimCfg → cfgSrc u.servo.cfg = 1 → bitsOf u.servo.cfg 3 1 = 1 → exec .syncTransmit s =
      .next ((({ u with servo := { u.servo with syncSent := (u.servo.syncSent ++
        ((List.range 12).filter fun n => bitsOf u.servo.cfg (12 + n) 1 == 1).map fun n => (n, u.ethSent n)) } } : State).draw 12).wr
          TIM_STATUS_GM 1)) ∧
    (u = s.applyTimCfg → cfgSrc u.servo.cfg ≠ 1 ∨ bitsOf u.servo.cfg 3 1 ≠ 1 → exec .syncTransmit s = .next (u.wr TIM_STATUS_GM 0)) ∧
    exec (.timCfgWrite v) s = .next (s.setReg TIM_CFG_SRC.off (v.zeroExtend 64)) ∧
    (falling = (bitsOf s.servo.cfg 11 1 == 1) → s.servo.ppsAt = none → exec (.ppsEdge falling none rate adj step) s =
      .next (({ s with servo := { s.servo with ppsAt := some s.tclk } } : State).wr TIM_PPS_NS s.now)) ∧
    (s.servo.ppsAt = some t → exec .ppsMissing s = .next ((s.waitTo (t + 137500001)).wr TIM_STATUS_PPS_MISSING 1))

/-- The fusion engine (R355-R377): what intake, the close of an instant, its outputs and the fusion records leave. Where the spec leaves a
point open, what stands here is the model's choice (log entries 56, 58, 59, 60, 89, 94, 144, 145). -/
def Obligations.FusionCommandsComplete : Prop :=
  ∀ (s t u v : State) (d k seq j i st : Nat) (x : Nectar) (c : Closed) (rest : List (Nat × Nat)) (r : Rec) (b : List Byte)
    (refine : List Word) (corners : List Nat),
    (s.workHeld = false →
      (s.fus.arriving.find? (fun y => y.kind != 1) = some x → exec .lidarPacket s = .next (State.takePacket
        (({ s with fus := { s.fus with arriving := s.fus.arriving.eraseP fun y => y.kind != 1 } } : State).waitNs x.due) x)) ∧
      (s.fus.arriving.find? (fun y => y.kind == 1) = some x → exec .cameraFrame s = .next (State.takeFrame
        (({ s with fus := { s.fus with arriving := s.fus.arriving.eraseP fun y => y.kind == 1 } } : State).waitNs x.due) x)) ∧
      (s.fusionHeld = false → s.fus.closed = none → k = s.nextInstant → u = s.waitNs (s.fus.ck k + 1) → s.fus.ck k < u.now →
        exec (.instantClose refine corners) s = .next (u.closeInstant k refine corners)) ∧
      (s.unhindered = true → s.fusionHeld = false → s.fus.closed = some c → c.collectors = (d, seq) :: rest →
        u = { s with fus := { s.fus with closed := if rest = [] then none else some { c with collectors := rest } } } →
        (u.queue d).recs.find? (fun y => y.seq == seq) = some r → u.collect c d r = (v, st) → exec .fusionOutputDone s =
          .next (if st = 0 then (v.completeRec d seq 0).settle else ((v.spoilOutputs c d r).faultRec d seq st).settle))) ∧
    (s.unhindered = true → s.pickRec d 0x40 (fun _ => true) = some r → s.cqRoom d (s.queue d) = true → t = (s.camTable d r).1 →
      t.startable d 0x40 r (t.collectCheck d) → u = t.runRec d r.seq →
      exec (.fuseCollect d) s = .next (u.modRec d r.seq fun x => { x with table := (u.camTable d r).2.2 }).settle) ∧
    (s.fus.closed = none → s.startable d 0x42 r fuseConfigCheck → u = (s.runRec d r.seq).discardOpen → exec (.fuseConfig d) s =
      .next ((({ u with fus := { u.fus with
        period := field r.bytes 16 1, nMin := field r.bytes 17 1, occHi := field r.bytes 18 1, freeLo := field r.bytes 19 1,
        holdoff := field r.bytes 20 4, z0 := toS16 (field r.bytes 24 2) } } : State).wr FUS_STATUS_PERIOD (field r.bytes 16 1)).completeRec
          d r.seq 0).settle) ∧
    (s.unhindered = true → s.cqRoom d (s.queue d) = true → s.pickRec d 0x41 (fun r => !calRemove r) = some r → t = (s.calibObj d r).1 →
      t.cqRoom d (t.queue d) = true → t.pickRec d 0x41 (fun r => !calRemove r) = some r →
      (t.checks (t.queue d).cls (t.calibCheck d r)).1 = 0 → v = t.runRec d r.seq → v.calibPlace (field r.bytes 18 2) = some j →
      v.handleIdx 1 (field r.bytes 20 4) = some i → b = (v.calibObj d r).2.2 →
      u = (if v.calib j ≠ [] ∧ calKind (v.calib j) ≠ calKind b then v.dropSlot j else v) → exec (.calibLoad d) s =
        .next (({ u with fus := { u.fus with
          calibs := tset [] u.fus.calibs j (if calKind b = 2 then b else b.take 128),
          calibRef := tset (2 ^ 20, 0) u.fus.calibRef j (i, 64 * field r.bytes 24 4) } } : State).completeRec d r.seq 0).settle) ∧
    (s.cqRoom d (s.queue d) = true → s.pickRec d 0x41 calRemove = some r → (s.checks (s.queue d).cls (s.calibCheck d r)).1 = 0 →
      calSlot (s.runRec d r.seq).fus.calibs (field r.bytes 18 2) = some j → u = (s.runRec d r.seq).dropSlot j → exec (.calibRemove d) s =
        .next (({ u with fus := { u.fus with calibs := tset [] u.fus.calibs j [], calibRef := tset (2 ^ 20, 0) u.fus.calibRef j (2 ^ 20, 0) } }
          : State).completeRec d r.seq 0).settle)

/-- PLAN (R388, R393-R404): a PLAN that passes its checks waits for the search engine, takes it with the current bank, ends its search with
an outcome checked against the bank current then, and gives its output. Where the spec leaves a point open, what stands here is the model's
choice (log entries 80, 81, 82, 83, 94, 145). -/
def Obligations.PlanCommandsComplete : Prop :=
  ∀ (s u v w y z : State) (d rejected c : Nat) (r rc : Rec) (run : PlanRun) (x : Option Search) (cut : Bool) (o : PlanOut) (waves : Nat)
    (fits : List (Option (List (List Word)))) (stop : List (List Word)) (b hd : List Byte),
    (s.startable d 0x50 r s.planCheck → exec (.plan d) s = .next (s.readyRec d r.seq).settle) ∧
    (s.nextPlan = some (d, r) → exec .planStart s =
      .next (((((s.modPln fun p => { p with work := {}, run := some { slot := d, seq := r.seq, startAt := s.tclk, bank := s.curBank } }).wr
        PLN_STATUS_SEARCH 1).wr PLN_STATUS_PINNED s.pinMask).runRec d r.seq).settle)) ∧
    (s.pln.run = some run → ((s.queue run.slot).recs.find? fun x => x.seq == run.seq && !x.isEnded) = some rc → s.workHeld = false →
      b = rc.bytes → c = bitsOf (field b 16 1) 0 2 →
      (run.out = none →
        x = s.searchOf b run.bank waves →
        cut = s.searchCut b run.bank x →
        u = (if cut then s.waitTo (run.startAt + field b 120 4 - 312500) else s) →
        planOutcome x (u.planEnv b (u.curBank.getD 0)) run.bank.isNone cut fits stop (tget ([] : List Byte) u.pln.traj c) = (o, rejected) →
        (o.stop = true → stopOk u.pln.lib b (tget ([] : List Byte) u.pln.traj c) stop = true) →
        exec (.planSearchEnd waves fits stop) s =
          .next ((((u.modPln fun p => { p with run := some { run with out := some o }, work := x.getD {} }).inc PLN_REJECT_COUNT rejected).wr PLN_STATUS_PINNED
            u.pinMask).takeLoad)) ∧
      (s.unhindered = true → run.out = some o → s.objStore (s.recWho run.slot rc 0x44) (field b 24 4) (64 * field b 28 4 + 64) o.sampleBytes = (u, 0) →
        hd = o.header b u.now → u.objStore (s.recWho run.slot rc 0x44) (field b 24 4) (64 * field b 28 4) hd = (v, 0) →
        w = (((v.modPln fun p => { p with run := none }).wr PLN_STATUS_SEARCH 0).wr PLN_STATUS_PINNED 0).modPln (fun p =>
          { p with traj := tset [] p.traj c (hd ++ o.sampleBytes) }) →
        y = (if bitsOf (field b 16 1) 2 1 = 1 then w.deliverTraj c (hd ++ o.sampleBytes) else w) →
        z = (((y.wr PLN_LAST_DETAIL o.detail).inc PLN_PLANS_COUNT).raise PLN_MAXT_TICKS (y.tclk - run.startAt)).inc PLN_STOPS_COUNT
          (if o.stop then 1 else 0) →
        exec .planOutputDone s = .next ((if o.stop then z.statusRec run.slot run.seq E_STOPPATH o.detail
          else z.completeRec run.slot run.seq o.detail).takeLoad.settle)))

/-- OCC_LOAD and LIB_LOAD (R384-R390): a load that passes its checks waits for the load engine; at its end the bank, or the library, is the
one loaded. Where the spec leaves a point open, what stands here is the model's choice (log entries 84, 94). -/
def Obligations.LoadCommandsComplete : Prop :=
  ∀ (s u v : State) (d : Nat) (r : Rec) (l : LoadRun) (b bs hd : List Byte) (who : Who), s.unhindered = true →
    (s.startable d 0x51 r s.occCheck → exec (.occLoad d) s = .next (s.readyRec d r.seq).takeLoad.settle) ∧
    (s.startable d 0x52 r s.libCheck → exec (.libLoad d) s = .next (s.readyRec d r.seq).takeLoad.settle) ∧
    (s.loadRec false = some (l, r) → b = r.bytes → s.objLoad (s.recWho l.slot r 0x44) (field b 20 4) (occOff b) (occBytes b) = (u, 0, bs) →
      v = (u.modPln fun p => p.setBank l.bank (loadBank (p.bank l.bank) (occSrc b) (bitsOf (field b 16 1) 2 1 == 1) bs)).wr
        (PLN_T0_T0.idx l.bank) (field b 32 8) →
      exec .occLoadDone s = .next (((if bitsOf (field b 16 1) 3 1 = 1 then v.wr PLN_STATUS_CUR l.bank else v).freeLoad.completeRec
        l.slot l.seq 0).takeLoad.settle)) ∧
    (s.loadRec true = some (l, r) → b = r.bytes → who = s.recWho l.slot r 0x44 →
      s.objLoad who (field b 16 4) (64 * field b 20 4) 512 = (u, 0, hd) → libHeaderOk hd = true →
      u.objFits (field b 16 4) (64 * field b 20 4) (libBytes hd) = true →
      u.objLoad who (field b 16 4) (64 * field b 20 4 + 512) (libBytes hd - 512) = (v, 0, bs) → exec .libLoadDone s =
        .next (((((v.modPln fun p => { p with lib := hd ++ bs, libRef := (v.handleIdx 1 (field b 16 4)).map fun i =>
          (i, 64 * field b 20 4) }).wr PLN_STATUS_LIB_VALID 1).wr PLN_LIB_LIB_ID (field hd 4 4)).freeLoad.completeRec l.slot l.seq 0
          ).takeLoad.settle))

/-- The control engine (R409-R418): what its records, a periodic trigger and an evaluation leave. Where the spec leaves a point open, what
stands here is the model's choice (log entries 47, 48, 49, 54, 88, 94, 142). -/
def Obligations.ControlCommandsComplete : Prop :=
  ∀ (s u v : State) (d n k t0 : Nat) (r : Rec) (o bs : List Byte) (y : Sample), s.unhindered = true →
    (s.cqRoom d (s.queue d) = true → s.pickRec d 0x60 (fun _ => true) = some r → (s.loopSetCheck r).1 = 0 → n = bitsOf (field r.bytes 16 1) 0 5 →
      s.objLoad (s.recWho d r 0x45) (field r.bytes 20 4) (64 * field r.bytes 24 4) 704 = (u, 0, o) →
      (u.checks 4 (u.loopObjCheck n o)).1 = 0 → exec (.loopSet d) s = .next ((((u.runRec d r.seq).setLoop n
        { obj := o, ref := (field r.bytes 20 4 % 2 ^ 20, 64 * field r.bytes 24 4) }).wr (CTL_LOOP_STATE.bank n) loopDisabled).completeRec
          d r.seq 0).settle) ∧
    (s.cqRoom d (s.queue d) = true → (s.checks (s.queue d).cls (s.loopCtlCheck r)).1 = 0 → u = s.runRec d r.seq →
      (s.pickRec d 0x61 (loopSel 1) = some r → exec (.loopEnable d) s =
        .next (((loopMask r).foldl State.enableLoop u).completeRec d r.seq 0).settle) ∧
      (s.pickRec d 0x61 (loopSel 2) = some r → exec (.loopDisable d) s =
        .next (((loopMask r).foldl State.disableLoop u).completeRec d r.seq 0).settle) ∧
      (s.pickRec d 0x61 (loopSel 3) = some r → exec (.loopResetI d) s =
        .next (((loopMask r).foldl (fun s n => s.wr (CTL_INTEG_I.bank n) 0) u).completeRec d r.seq 0).settle)) ∧
    (s.cqRoom d (s.queue d) = true → s.pickRec d 0x62 (fun _ => true) = some r → (s.objOf (field r.bytes 20 4)).isSome = true →
      s.objFits (field r.bytes 20 4) (64 * field r.bytes 24 4) 64 = true →
      s.objLoad (s.recWho d r 0x45) (field r.bytes 20 4) (64 * field r.bytes 24 4) 64 = (u, 0, o) → 2 ≤ trajN o → trajN o ≤ 1500 →
      u.objFits (field r.bytes 20 4) (64 * field r.bytes 24 4) (64 + 32 * trajN o) = true →
      u.objLoad (s.recWho d r 0x45) (field r.bytes 20 4) (64 * field r.bytes 24 4 + 64) (32 * trajN o) = (v, 0, bs) →
      trajReservedOk (o ++ bs) = true → v.check10 4 = 0 → exec (.trajLoad d) s =
        .next (((v.runRec d r.seq).deliverTraj (bitsOf (field r.bytes 16 1) 0 2) (o ++ bs)).completeRec d r.seq 0).settle) ∧
    (s.loopOn n = true → (s.loop n).lastTrig = some k → u = s.waitTo (k + (s.loop n).period) →
      ((s.loop n).onSample = true → (s.loop n).kept = true → exec (.loopPeriodTrigger n) s = .next (u.setLoop n
        { u.loop n with kept := false, triggered := some u.tclk, lastTrig := some u.tclk, pick := (s.loop n).newest })) ∧
      ((s.loop n).onSample = false → (s.loop n).newest = some y → (s.loop n).used ≠ some y → exec (.loopPeriodTrigger n) s =
        .next (u.setLoop n { u.loop n with
          lastTrig := some (k + (s.loop n).period), triggered := some u.tclk, pick := (u.loop n).newest }))) ∧
    (s.controlHeld = false → s.pwr.enginesHeld = false → s.on PWR_STATUS_LOW_POWER = false → s.on (GRD_STATUS_REFUSED.bit 4) = false →
      s.nextTriggered = some (n, t0) →
      (s.loop n).pick = some y → exec .loopEvaluation s = .next (s.evalLoop n y t0))

/-- The check-value units (R422-R431): what each record leaves. Where the spec leaves a point open, what stands here is the model's choice
(log entries 28, 85, 90, 94). -/
def Obligations.CheckValueCommandsComplete : Prop :=
  ∀ (s u v : State) (d n : Nat) (r : Rec) (bs p : List Byte) (who : Who) (crc : Word64), s.unhindered = true →
    (s.startable d 0x70 r (fun r => firstField (cvParamChecks r.bytes 16)) → u = s.runRec d r.seq → p = (r.bytes.drop 16).take 32 →
      exec (.cvConfig d) s = .next ((u.setCvUnit (u.recUnit d) (some p) (cvInit p) true).completeRec d r.seq 0).settle) ∧
    (s.startable d 0x71 r (s.cvRunCheck d) → exec (.cvRun d) s = .next (s.runRec d r.seq).settle) ∧
    (s.runningRec d 0x71 = some r → s.pwr.enginesHeld = false → who = s.recWho d r 0x46 → p = (s.cvParams (s.recUnit d)).getD [] →
      s.objLoad who (field r.bytes 20 4) (field r.bytes 24 8) (field r.bytes 32 4) = (u, 0, bs) →
      crc = cvRun p (if (bitsOf (field r.bytes 16 1) 0 1 == 1) = true then cvInit p
        else BitVec.ofNat 64 (u.rd (CRC_UNIT_VAL_CRC.idx (s.recUnit d)))) bs →
      (bitsOf (field r.bytes 16 1) 1 1 = 0 → exec (.cvRunDone d) s =
        .next ((u.setCvUnit (s.recUnit d) (some p) crc true).completeRec d r.seq 0).settle) ∧
      (bitsOf (field r.bytes 16 1) 1 1 = 1 → field r.bytes 36 4 ≠ 0 →
        u.objStore who (field r.bytes 36 4) (field r.bytes 40 8) (leBytes 8 (cvValue p crc).toNat) = (v, 0) → exec (.cvRunDone d) s =
        .next ((v.setCvUnit (s.recUnit d) (some p) crc true).completeRec d r.seq ((cvValue p crc).toNat % 2 ^ 32)).settle)) ∧
    (s.startable d 0x72 r s.cvStateCheck → u = s.runRec d r.seq →
      u.objStore (u.recWho d r 0x46) (field r.bytes 16 4) (64 * field r.bytes 20 4) (u.cvState (u.recUnit d)) = (v, 0) →
      exec (.cvSave d) s = .next (v.completeRec d r.seq 0).settle) ∧
    (s.startable d 0x73 r s.cvStateCheck → u = s.runRec d r.seq →
      u.objLoad (u.recWho d r 0x46) (field r.bytes 16 4) (64 * field r.bytes 20 4) 64 = (v, 0, bs) → cvParamsOk (bs.take 32) = true →
      field bs 40 1 ≤ 1 → exec (.cvRestore d) s = .next ((v.setCvUnit (v.recUnit d) (some (bs.take 32)) (BitVec.ofNat 64 (field bs 32 8))
        (field bs 40 1 == 1)).completeRec d r.seq 0).settle) ∧
    (n = chanNum r → s.cqRoom d (s.queue d) = true → (s.checks (s.queue d).cls (s.chanCheck r)).1 = 0 →
      (s.pickRec d 0x74 (fun r => chanMode r != 0) = some r → exec (.cvChanVerify d) s = .next (((s.runRec d r.seq).setCvChan n
        { armed := true, index := bitsOf (field r.bytes 17 1) 0 6, skip := field r.bytes 20 2, params := (r.bytes.drop 24).take 32,
          gen := field r.bytes 18 2 }).completeRec d r.seq 0).settle) ∧
      (s.pickRec d 0x74 (fun r => chanMode r == 0) = some r → exec (.cvChanOff d) s =
        .next (((s.runRec d r.seq).setCvChan n {}).completeRec d r.seq 0).settle))

/-- Faults, tests and debug of the islands (R438, R441-R451): what each event and each debug action leaves. Where the spec leaves a point
open, what stands here is the model's choice (log entries 28, 48, 50, 62, 118). -/
def Obligations.IslandCommandsComplete : Prop :=
  ∀ (s u : State) (atA : Bool) (group syndrome n due addr r pause : Nat) (t : SafTest) (seen : List CmpSeen) (v : Word64) (bs : List Byte) (i : Island),
    (s.on SAF_ISL_STATUS_B_JOINED = true → s.link8 = true →
      (s.islandARuns = true → exec (.islandFaultMessage true) s = .next ((s.wr SAF_ISL_STATUS_B_HALTED 1).loseIslandB 2).settle) ∧
      exec (.islandFaultMessage false) s = .next (s.stopB 1).settle) ∧
    (s.pairOn atA = true →
      (group < 64 → syndrome ≠ 0 → syndrome < 2 ^ groupSignals group → exec (.compareMismatch atA group syndrome) s = .next (s.collectFault atA 1 group syndrome).settle) ∧
      exec (.islandMemoryUe atA) s = .next (s.collectFault atA 2 0 0).settle) ∧
    exec (.islandMemoryScrub true n) s = .next (s.inc SAF_MEM_CE_A n) ∧
    (s.pkg.sfdPowered = true → u = (s.modIslB fun b => { b with ce := min (b.ce + n) 0xFFFF }) → exec (.islandMemoryScrub false n) s =
      .next (if u.on SAF_ISL_STATUS_B_JOINED = true then u.wr SAF_MEM_CE_B u.saf.islB.ce else u)) ∧
    (s.saf.test = some t → t.islands.getLsbD (if atA then 0 else 1) = true → (atA = true ∨ t.islands.getLsbD 0 = false) →
      s.pairRuns atA = true → (atA = true ∨ s.on SAF_ISL_STATUS_B_JOINED = true) → s.saf.restarts = [] →
      u = s.elapse (min pause 1250) →
      (realMismatch seen = none →
        exec (.comparatorTestRun atA seen pause) s = .next ((u.recordTest atA (failedGroups seen)).testEnds atA).settle) ∧
      (realMismatch seen = some (group, syndrome) →
        exec (.comparatorTestRun atA seen pause) s = .next ((u.collectFault atA 1 (group % 64) syndrome).testEnds atA).settle)) ∧
    (s.rd IDN_BOOT_STAGE = 6 → s.on PWR_STATUS_LOW_POWER = false → (atA = true ∨ s.on SAF_ISL_STATUS_B_JOINED = true) →
      due = (if (s.island atA).posted = 0 then 28800 else (s.island atA).posted + 3600) →
      u = s.elapse (due * 125000000 - (s.island atA).ageTicks) → n = max due ((s.island atA).ageTicks / 125000000) →
      exec (.cmpTestOverdue atA) s =
        .next (((u.wr (overdueFld atA) 1).event 0x54 (if atA then 0x14 else 0x15) (if atA then 0 else 1) 0 (leBytes 4 n)).modIsland atA
          fun i => { i with posted := n })) ∧
    (s.on HIF_LOCKCFG_ISL_DBG_DENY = false → exec (.debugEnable true true) s =
      .next (((s.modIslA fun i => { i with debug := true }).wr SAF_ISL_STATUS_DBG_A 1).stopA 6).settle) ∧
    (s.saf.islB.debugDeny = false → s.pkg.sfdPowered = true → u = (s.modIslB fun i => { i with debug := true }) →
      exec (.debugEnable false true) s =
        .next ((if u.on SAF_ISL_STATUS_B_JOINED = true then u.wr SAF_ISL_STATUS_DBG_B 1 else u).stopB 6).settle) ∧
    (i = s.island atA → i.debug = true →
      (i.debugHalted = false → u = (s.modIsland atA fun i => i.forget s.free true).draw 1 →
        exec (.debugHalt atA) s = .next (if atA = true then u.showRun else u)) ∧
      exec (.debugBreakpointSet atA addr) s = .next ((s.modIsland atA fun i =>
        { i with breakpoints := if i.breakpoints.contains addr then i.breakpoints else i.breakpoints ++ [addr] }).draw 1) ∧
      (i.debugHalted = true →
        (u = (s.modIsland atA fun i => i.forget s.free false).draw 1 →
          exec (.debugResume atA) s = .next (if atA = true then u.showRun else u)) ∧
        exec (.debugSingleStep atA) s = .next ((s.modIsland atA fun i => i.forget s.free true).draw 1)) ∧
      exec (.debugRegisterRead atA r) s = .next ((s.modIsland atA fun i => { i with response := leBytes 8 (if i.debugHalted = true
        then (tget none i.coreRegs r).getD (Config.coreReg i.seed r) else Config.coreReg s.free r).toNat }).draw 1) ∧
      exec (.debugRegisterWrite atA r v) s = .next ((s.modIsland atA fun i => if i.debugHalted = true
        then { i with coreRegs := tset none i.coreRegs r (some v) } else i).draw 1) ∧
      (addr + n ≤ islandMem atA → exec (.debugMemoryRead atA addr n) s = .next ((s.modIsland atA fun j => { j with
        response := ((List.range n).map fun k => if j.debugHalted = true then (tget none j.sram (addr + k)).getD (Config.islandByte j.seed
          (addr + k)) else Config.islandByte s.free (addr + k)) }).draw 1)) ∧
      (addr + bs.length ≤ islandMem atA → exec (.debugMemoryWrite atA addr bs) s = .next ((s.modIsland atA fun j => if j.debugHalted = true
        then { j with sram := bs.zipIdx.foldl (fun t e => tset none t (addr + e.2) (some e.1)) j.sram } else j).draw 1)))

/-- Configuration records, guards, deadlines, checkers, restarts and stop frames (R452-R478): what each command leaves. Where the spec
leaves a point open, what stands here is the model's choice (log entries 52, 53, 67, 86, 142). -/
def Obligations.MonitorCommandsComplete : Prop :=
  ∀ (s u : State) (island index type g d c n t x : Nat) (bs b : List Byte) (upsets : List Upset) (w : CfgWrite) (q : Summary) (rs : Restart)
    (y : Restart) (ends : List Nat) (p : State × Bool × Bool),
    (s.islandARuns = true → s.on GRD_CFG_CTL_BUSY = false → island = s.rd GRD_CFG_SEL_ISLAND → index = s.rd GRD_CFG_SEL_INDEX →
      s.cfgReach island index = true → type = cfgType index → type ≠ 0 →
      (bs = s.cfgData → bitsOf (field bs 0 1) 0 4 = type → reservedOk (cfgLayout type) bs = true → s.cfgFieldsOk island type bs = true →
        u = s.wr GRD_CFG_CTL_BUSY 1 → exec .configRecordWrite s =
          .next { u with saf := { u.saf with write := some { island := island, index := index, bytes := bs } } }) ∧
      (tget [] s.saf.copies (cfgKey island index) ≠ [] → majority (tget [] s.saf.copies (cfgKey island index)) = some b →
        exec .configRecordRead s = .next ((List.range 16).foldl (fun s n => s.wr (GRD_CFG_DATA_DATA.idx n) (field b (4 * n) 4))
          ((s.wr GRD_CFG_CTL_INTACT (mask3 ((tget [] s.saf.copies (cfgKey island index)).map (·.intact)))).wr GRD_CFG_CTL_RESULT 0)))) ∧
    (s.saf.write = some w → u = { ((s.wr GRD_CFG_CTL_BUSY 0).wr GRD_CFG_CTL_RESULT 0) with saf := { s.saf with write := none } } →
      exec .configRecordWriteDone s = .next (if (s.saf.restarts.any fun r => heldFor r.cls w) = true
        then { u with saf := { u.saf with held := u.saf.held ++ [w] } } else (u.applyRecord w).settle)) ∧
    (u = upsets.foldl State.upset s → p = u.voteAll (u.pairRuns true) (u.pairRuns false && u.on SAF_ISL_STATUS_B_JOINED) →
      exec (.configVoteScrub upsets) s = .next (p.1.refuseIslands p.2.1 p.2.2).settle) ∧
    (s.islandARuns = true →
      (g < 64 → cfgOn (s.cfgRec 0 g) = true → (s.guardOf g).armed = true → u = s.waitTo ((s.guardOf g).last + field (s.cfgRec 0 g) 12 4 + 1) →
        exec (.guardExpiry g) s = .next (u.guardFinding g 1 (u.tclk - (s.guardOf g).last)).settle) ∧
      (d < 16 → cfgOn (s.cfgRec 0 (64 + d)) = true → s.intervals d = t :: ends → exec (.deadlineMiss d) s =
        .next (((s.waitTo (t + 1)).setIntervals d ends).missDeadline d).settle) ∧
      (c < 8 → cfgOn (s.cfgRec 0 (80 + c)) = true →
        exec (.checkerSummaryCopy c) s = .next (s.copySummaries c).settle ∧
        ((s.checker c).oldest = some q → exec (.checkerLagExpiry c) s =
          .next ((s.waitTo (q.copiedAt + field (s.cfgRec 0 (80 + c)) 48 4)).undecidedFrame c q.frame).settle)) ∧
      (s.unhindered = true → s.saf.restarts[n]? = some rs → s.voteWaits rs.cls = false → exec (.functionRestartResume n) s = .next (s.endRestart rs).settle)) ∧
    (s.saf.restartCopies[n]? = some y → s.on SAF_ISL_STATUS_B_JOINED = true → s.pairRuns false = true → u = s.waitTo (y.t0 + 6250) →
      exec (.restartOverrun n) s =
        .next (State.stopB { u with saf := { u.saf with restartCopies := u.saf.restartCopies.filter (· ≠ y) } } 8).settle) ∧
    (96 ≤ index → index ≤ 99 →
      (s.on SAF_ISL_STATUS_STOP_A = true → tget none s.saf.frameAt (cfgKey 0 index) = some x → exec (.stopFrameRepeat true index) s =
        .next ((s.waitTo (x + field (s.cfgRec 0 index) 12 2 * 125000)).sendStop 0 index)) ∧
      (s.saf.islB.stop = true → s.pkg.sfdPowered = true → tget none s.saf.frameAt (cfgKey 1 index) = some x →
        exec (.stopFrameRepeat false index) s = .next ((s.waitTo (x + field (s.cfgRec 1 index) 12 2 * 125000)).sendStop 1 index)))

/-- Thermal sensing, forecasts, duty, windows and the THM registers (R485-R499): what each command leaves. Where the spec leaves a point
open, what stands here is the model's choice (log entries 9, 87, 146). -/
def Obligations.ThermalCommandsComplete : Prop :=
  ∀ (s u : State) (die t avg lo hi e : Nat) (temps : List Int) (rise : BitVec 4) (sched fill powers : List Nat) (v : Word),
    (die < 9 → temps.length = (dieSensors die).2 → s.pkg.heldInReset = false → s.domainLives (domainOf (dieSensors die).1) = true →
      exec (.sensorSample die temps) s = .next ((s.countOutliers (dieSensors die).1 temps).takeReadings (dieSensors die).1 temps)) ∧
    (temps.length = 12 → s.pkg.sfdPowered = true →
      exec (.sensorSample 9 temps) s = .next ((s.countOutliers 288 temps).modThm fun t => { t with uathal := temps })) ∧
    (s.on SAF_ISL_STATUS_B_JOINED = true → s.link8 = true → exec (.uathalSensorReport s.thm.uathal s.uathalFailed) s = .next (s.takeReadings 288 s.thm.uathal)) ∧
    (sched.length = 6 → s.on MBX_CTRL_READY = true →
      exec (.thermalForecast sched) s = .next ((List.range 6).foldl (State.forecastDomain sched) s)) ∧
    (s.on MBX_CTRL_READY = true → u = (List.range 6).foldl State.countHot ((List.range 4).foldl (State.reviewDomain rise fill) s.takeLimits) →
      exec (.dutyReview rise fill) s = .next (if u.throttled = true then u.inc THM_THROTTLE_COUNT else u)) ∧
    exec .sustainedWindow s = .next (((List.range 6).foldl State.boundary s).modThm fun t => { t with ledger := t.doms }) ∧
    (s.on MBX_CTRL_READY = true → s.on THM_STATUS_COOLANT_STALE = false → s.thm.spoilt = false → 150000 ≤ avg → 9 * avg ≤ 10 * lo →
      10 * hi ≤ 11 * avg → e < 6 → ((List.range 6).filter fun k => (s.dom k).hasS && s.domainLives k) = [e] → 0 < (powers[e]?).getD 0 →
      exec (.rthWindow avg lo hi powers) s = .next (s.modThm (fun t => { t with spoilt := false }) |>.useEstimate (min 0xFFFF
        ((((powers[e]?).getD 0 : Int) * toS16 (s.rd (THM_DIE_S.idx e)) - (powers[e]?).getD 0 * toS16 (s.rd THM_COOLANT_TEMP)) * 1000000
          / (16 * (powers[e]?).getD 0 * avg : Nat)).toNat))) ∧
    (s.thm.coolantAt = some t → exec .coolantStale s = .next (((s.waitTo (t + 1250000000)).wr THM_STATUS_COOLANT_STALE 1).modThm fun x =>
      { x with coolantAt := none, spoilt := true })) ∧
    exec (.coolantWrite v) s = .next (((s.wr THM_COOLANT_TEMP v.toNat).wr THM_STATUS_COOLANT_STALE 0).modThm fun t =>
      { t with coolantAt := some s.tclk }) ∧
    (80 ≤ bitsOf v.toNat 0 8 → bitsOf v.toNat 0 8 ≤ bitsOf v.toNat 8 8 → bitsOf v.toNat 8 8 ≤ 112 → exec (.thermalLimitsWrite v) s =
      .next ((s.wr THM_LIMITS_T_WARN (bitsOf v.toNat 0 8)).wr THM_LIMITS_T_THROTTLE (bitsOf v.toNat 8 8))) ∧
    (5 ≤ bitsOf v.toNat 8 8 → bitsOf v.toNat 8 8 ≤ 100 → exec (.thermalCtlWrite v) s =
      .next ((s.wr THM_CTL_SWING_EN (bitsOf v.toNat 0 1)).wr THM_CTL_RISE (bitsOf v.toNat 8 8)))

/-- The swarm ports (R500-R504, R508, R509): what enabling, training, the handshake, retraining and silence leave. Where the spec leaves a
point open, what stands here is the model's choice (log entries 91, 92, 93, 147, 148, 150). -/
def Obligations.SwarmPortCommandsComplete : Prop :=
  ∀ (s u : State) (n : Nat) (slow swarm : Bool) (v : Word) (f : List Byte) (m : WaggleMsg),
    (n < 4 → s.on (SWM_CTL_ENABLE.bit n) = false → exec (.swarmPortEnable n) s =
      .next ((((s.wr (SWM_CTL_ENABLE.bit n) 1).wr (SWM_PORT_RETRAINS.idx n) 0).modPort n fun _ => {}).setSwState n 1)) ∧
    (n < 4 → s.on (SWM_CTL_ENABLE.bit n) = true → exec (.swarmPortDisable n) s = .next ((s.wr (SWM_CTL_ENABLE.bit n) 0).swDown n).settle) ∧
    (s.on SWM_CTL_ENABLE = false → exec (.swarmIdWrite swarm v) s =
      .next (if swarm then s.wr SWM_SWARM_SWARM_ID v.toNat else s.wr SWM_ID_DEV_NUM (bitsOf v.toNat 0 7))) ∧
    (n < 4 → s.swState n = 1 →
      u = ((s.wrB (SWM_PORT_SLOW.idx n) slow).setSwState n 2).modPort n (fun p => { p with lastFlit := s.tclk, helloSent := true }) →
      exec (.swarmTrainingDone n slow) s = .next (u.swWag n 1 0 u.swHelloPay)) ∧
    (s.swLive n = true → flitOk f = true → flitType f = 1 → s.swTake n f = (u, true) →
      (m = (flitPay f).take 32 → wOk m = true → u.swState n = 2 →
        (wType m = 1 → exec (.swarmHello n f) s = .next (u.swHello n m)) ∧
        (wType m = 7 → exec (.swarmDone n f) s = .next (u.swDone n (wSeq m)).settle) ∧
        (wType m = 0xE → exec (.swarmReject n f) s = .next (u.swReject n (wPay m 0 1)))) ∧
      (field (flitPay f) 0 1 = 0 → u.swState n = 3 → exec (.swarmAdvertisement n f) s = .next (u.takeAdvert n (flitPay f)).settle)) ∧
    (s.joinedPorts ≠ [] → exec .swarmAdvertiseTimer s = .next s.advertise) ∧
    (n < 4 → (s.swPort n).retraining = true →
      (s.tclk ≤ (s.swPort n).retrainAt + 6250000 → (s.swPort n).replayFrom = none → exec (.swarmRetrainDone n) s =
        .next (s.modPort n fun p => { p with retraining := false, replays := 0, replayFrom := none, lastFlit := s.tclk })) ∧
      exec (.swarmRetrainTimeout n) s = .next ((s.waitTo ((s.swPort n).retrainAt + 6250000)).swDown n).settle) ∧
    (s.swLive n = true → (s.swPort n).retraining = false → exec (.swarmSilence n) s =
      .next ((s.waitTo ((s.swPort n).lastFlit + 125000)).swDown n).settle) ∧
    (n < 4 → s.swAwaits n = true → exec (.waggleReplyTimeout (10 + n)) s =
      .next ((s.waitTo ((s.swPort n).wagAt + 25000)).swAgain n fun s => s.swRepeat n))

/-- Swarm traffic (R501, R502, R504-R508): what requests, responses, acknowledge flits, the swarm records and an export leave. Where the
spec leaves a point open, what stands here is the model's choice (log entries 91, 92, 93, 94, 114, 119, 147, 150). -/
def Obligations.SwarmTrafficCompletes : Prop :=
  ∀ (s u w : State) (n d port hops : Nat) (f bs : List Byte) (r : Rec) (v : Word) (check : Rec → Nat × Nat),
    (s.swLive n = true → flitOk f = true → s.swTake n f = (u, true) → u.swState n = 3 →
      (s.unhindered = true → flitType f = 2 → exec (.swarmRequestFlit n f) s =
        .next ((u.transferWords (swPoint n 1) (u.flitCol f) (flitWords f)).swTakeRequest f).settle) ∧
      (flitType f = 3 → exec (.swarmResponseFlit n f) s = .next (u.swTakeResponse f).settle)) ∧
    (s.swLive n = true → flitOk f = true → flitType f = 4 → (s.swPort n).retraining = false → exec (.swarmAckFlit n f) s =
      .next (((s.modPort n fun p => { p with lastFlit := s.tclk }).swAcked n ((flitAck f + 1) % 65536)).swAckTo n (flitAck f))) ∧
    (s.unhindered = true → s.startable d 0x3E r s.swCopyCheck → u = s.runRec d r.seq → u.route (swDev r) = some (port, hops) →
      u.objLoad (u.recWho d r 0x41) (field r.bytes 20 4) (field r.bytes 24 8) (field r.bytes 40 4) = (w, 0, bs) → exec (.swarmCopy d) s =
        .next (w.swIssue d r ((List.range (ceilDiv bs.length 224)).map fun i =>
          (0, ((bs.drop (224 * i)).take 224).length, field r.bytes 32 8 + 224 * i, (bs.drop (224 * i)).take 224))).settle) ∧
    (check = (fun r => firstField [((s.route (swDev r)).isSome, E_LINK, 16), (decide (field r.bytes 32 8 % 8 = 0), E_ALIGN, 32)]) →
      s.startable d 0x3F r check → exec (.swarmSignal d) s = .next ((s.runRec d r.seq).swIssue d r
        [(1, 8, field r.bytes 32 8, leBytes 8 (field r.bytes 40 8))]).settle) ∧
    (n = s.rd SWM_EXP_SEL_INDEX → bitsOf v.toNat 0 1 = 1 → u = s.wr (SWM_EXP_CTL_LABEL.bank n) (bitsOf v.toNat 1 4) →
      exec (.swarmExportEnable v) s = .next (if u.exportOk (u.rd (SWM_EXP_OBJ_OBJ.bank n)) (bitsOf v.toNat 1 4) = true
        then (u.wr (SWM_EXP_CTL_ENABLE.bank n) 1).wr (SWM_EXP_CTL_ERR.bank n) 0
        else (u.wr (SWM_EXP_CTL_ENABLE.bank n) 0).wr (SWM_EXP_CTL_ERR.bank n) 1))

/-- What the commands of the package, its clocks, its power and its links leave unchanged: everything but the fields named, where the
command answers a next state. -/
def Obligations.PackageFrames : Prop :=
  ∀ (s t : State) (k d l a b : Nat) (m : WaggleMsg) (ok fo lock : Bool) (mods : BitVec 4),
    (∀ c ∈ ([.waggleHello k m a b, .waggleSelect k m, .mainbandTrainingDone k a mods, .waggleReject k m,
      .linkUncorrectableError l] : List Instr), exec c s = .next t → t = { s with pkg := t.pkg }) ∧
    (∀ c ∈ ([.waggleIdent k m ok, .waggleOffer k m, .waggleConfirm k m, .waggleTrained ⟨k, fo⟩ m, .waggleDone k fo m,
      .waggleNak k fo m] : List Instr), exec c s = .next t →
        t = { s with pkg := t.pkg, regs := t.regs, hif := t.hif, mem := t.mem, thm := t.thm }) ∧
    (exec (.linkRetrainDone l) s = .next t → t = { s with
      pkg := t.pkg, regs := t.regs, hif := t.hif, mem := t.mem, dram := t.dram, poison := t.poison, queues := t.queues }) ∧
    (exec .islandBReady s = .next t → t = { s with pkg := t.pkg, saf := t.saf }) ∧
    (exec .vddSfdLoss s = .next t → t = { s with pkg := t.pkg, saf := t.saf, regs := t.regs }) ∧
    (exec (.perstDeassert a b) s = .next t → t = { s with pkg := t.pkg, regs := t.regs, hif := t.hif }) ∧
    (exec (.heartbeatSend ok lock) s = .next t → t = { s with pwr := t.pwr }) ∧
    (∀ c ∈ ([.ruradPllLockLoss d, .avsStep d, .rampEstimate d ⟨a, b⟩] : List Instr), exec c s = .next t →
      t = { s with pwr := t.pwr, regs := t.regs }) ∧
    (exec (.avsbusNoAck d) s = .next t → t = { s with pwr := t.pwr, regs := t.regs, hif := t.hif }) ∧
    (exec .hifHeartbeatTick s = .next t → t = { s with regs := t.regs }) ∧
    (exec (.dieStandbyExitDone d) s = .next t → t = { s with pwr := t.pwr, regs := t.regs, jobs := t.jobs, thm := t.thm }) ∧
    (exec .d0Entry s = .next t → t = { s with regs := t.regs, fus := t.fus, thm := t.thm }) ∧
    (exec .combRelease s = .next t → t = { s with regs := t.regs, combs := t.combs, thm := t.thm })

/-- What the commands of the mailboxes, the host's registers and the event ring leave unchanged: everything but the fields named; of the
host interface, the commands that the firmware serves change the mailboxes and the MSI-X messages alone, of the mailboxes their own alone;
and the event ring writes its one record into host memory and nothing beside it. -/
def Obligations.HostFrames : Prop :=
  ∀ (s t : State) (m n off a : Nat) (bs : List Byte) (v : Word) (im : FwImage),
    (∀ c ∈ ([.mbxAck m, .evtEnable v, .evtTailWrite v, .queueResume n, .swarmExportEnable v] : List Instr), exec c s = .next t →
      t = { s with regs := t.regs }) ∧
    (∀ c ∈ ([.getInfo m, .memInfo m, .ledgerRead m, .hello m, .powerPolicy m, .fwSlotWrite m im, .fwRollbackAdvance m,
      .safetyTestInjection m, .logRead m, .queueCreate m] : List Instr), exec c s = .next t →
        t = { s with regs := t.regs, hif := t.hif, free := t.free, pwr := t.pwr, pkg := t.pkg, saf := t.saf, queues := t.queues, cv := t.cv } ∧
        t.hif = { s.hif with mbx := t.hif.mbx, msixSent := t.hif.msixSent, msixPend := t.hif.msixPend } ∧
        ∀ k, k ≠ m → t.mbx k = s.mbx k) ∧
    (∀ c ∈ ([.mbxReqWrite m off bs, .mbxDoorbellRefused m] : List Instr), exec c s = .next t →
      t = { s with regs := t.regs, hif := t.hif } ∧ t.hif = { s.hif with mbx := t.hif.mbx }) ∧
    (∀ c ∈ ([.rcRead off, .reg64LowRead off, .reg64HighRead off, .invalidRegisterAccess off n] : List Instr), exec c s = .next t →
      t = { s with regs := t.regs, hif := t.hif } ∧ t.hif = { s.hif with latch := t.hif.latch, hostRead := t.hif.hostRead }) ∧
    (exec (.queueDoorbell n (BitVec.ofNat 16 a)) s = .next t → t = { s with regs := t.regs, queues := t.queues } ∧
      ∀ d, d ≠ n → t.queue d = s.queue d) ∧
    (exec .eventRingWrite s = .next t → t = { s with regs := t.regs, hif := t.hif } ∧
      ∀ x, (x < s.rd EVT_BASE_ADDR * 4096 + 32 * s.rd EVT_HEAD_INDEX ∨ s.rd EVT_BASE_ADDR * 4096 + 32 * s.rd EVT_HEAD_INDEX + 32 ≤ x) →
        memGet t.hif.hostMem x = memGet s.hif.hostMem x)

/-- What the commands of memory leave unchanged (R73, R116, R290, R293, R296): reads, refresh, sensors and scrubbing write no byte of DRAM,
nor does service where no word fails, no request waits before the queue and no link retrains; the commands that store write no byte but
those they store to, and the rest of a poisoned word that they write into. Of the package, they change only which accesses of the host wait,
the model's own mark of a watched command, and which errors of the array are still to be found. -/
def Obligations.MemoryFrames : Prop :=
  ∀ (s t : State) (x n d ch b err : Nat) (bs : List Byte) (r : DramReq) (errs : List Nat) (temps : List Int),
    (exec (.mimiderSensorRead d temps) s = .next t → t = { s with regs := t.regs, mem := t.mem }) ∧
    (exec (.windowRead x n) s = .next t → t = { s with
      regs := t.regs, hif := t.hif, mem := t.mem, poison := t.poison
      pkg := { s.pkg with winHeld := t.pkg.winHeld, watch := t.pkg.watch, inputs := t.pkg.inputs } }) ∧
    (exec (.patrolScrub d err) s = .next t → t = { s with
      regs := t.regs, hif := t.hif, mem := t.mem, dram := t.dram, poison := t.poison, pkg := { s.pkg with watch := t.pkg.watch } } ∧
      ((err ≠ 2 ∨ ∀ c, ∀ q ∈ (s.chan d c).writes, q.ord ≤ s.mem.reqOrd) → t.dram = s.dram)) ∧
    (exec (.dramChannelIssue d ch errs) s = .next t → t = { s with
      regs := t.regs, hif := t.hif, mem := t.mem, dram := t.dram, poison := t.poison, queues := t.queues
      pkg := { s.pkg with winHeld := t.pkg.winHeld, watch := t.pkg.watch, inputs := t.pkg.inputs } } ∧
      (2 ∉ errs → (∀ m ∈ s.mem.waiting, m.place ≠ 24 + 32 * d + ch) → s.pkg.retraining = 0 → s.pkg.winHeld = [] →
        t.dram = s.dram ∧ t.poison = s.poison)) ∧
    (∀ c ∈ ([.refreshDue d ch b, .rowIdleClose d ch b, .dieStandbyEnter d] : List Instr), exec c s = .next t →
      t = { s with regs := t.regs, mem := t.mem, tclk := t.tclk, jobs := t.jobs, saf := t.saf, thm := t.thm }) ∧
    (exec (.windowWrite x bs) s = .next t → t = { s with
      regs := t.regs, hif := t.hif, mem := t.mem, dram := t.dram, poison := t.poison, queues := t.queues
      pkg := { s.pkg with winHeld := t.pkg.winHeld, watch := t.pkg.watch } } ∧
      ∀ a, (a < s.winAddr x ∨ s.winAddr x + bs.length ≤ a) → s.isPoisoned (a / 64) = false → memGet t.dram a = memGet s.dram a) ∧
    (exec (.dramRequest r) s = .next t →
      t = { s with regs := t.regs, hif := t.hif, mem := t.mem, dram := t.dram, poison := t.poison, queues := t.queues } ∧
      (r.kind = 0 → t.dram = s.dram ∧ t.poison = s.poison) ∧
      ∀ a, (a < r.addr / 64 * 64 ∨ max (r.addr + 8) (r.addr / 64 * 64 + 64 * r.words) ≤ a) → s.isPoisoned (a / 64) = false →
        memGet t.dram a = memGet s.dram a) ∧
    (exec (.memFree n) s = .next t → t = { s with regs := t.regs, hif := t.hif, mem := t.mem, objs := t.objs, colonies := t.colonies }) ∧
    (exec (.memoryClearDone n) s = .next t → t = { s with
      regs := t.regs, hif := t.hif, mem := t.mem, dram := t.dram, poison := t.poison, pkg := { s.pkg with watch := t.pkg.watch } } ∧
      ∀ a, memGet t.dram a = memGet s.dram a ∨ memGet t.dram a = 0)

/-- What the commands of ports, time, foragers' debug, thermal management, islands and swarm links leave unchanged: everything but the
fields named. -/
def Obligations.UnitFrames : Prop :=
  ∀ (s t : State) (n cs dur g addr word ago : Nat) (rise fall ue ok sw atA : Bool) (data f : List Byte) (v : Word) (w : Word64)
    (temps : List Int) (r1 : BitVec 4) (sched failed : List Nat) (b : Byte) (tod : Option Nat) (off rate adj : Int),
    (∀ c ∈ ([.csiStopState n, .ethLinkUp n, .ethLinkDown n, .canFrameSent ⟨n, ago⟩, .spiDataReady n, .pwmPeriodStart ⟨n, dur⟩] : List Instr),
      exec c s = .next t → t = { s with ports := t.ports }) ∧
    (exec (.gnssUartByte n b) s = .next t → t = { s with ports := t.ports, servo := t.servo, fus := t.fus }) ∧
    (exec (.gpioEdge n rise) s = .next t → t = { s with ports := t.ports, ctl := t.ctl, regs := t.regs }) ∧
    (exec (.spiTransfer n cs dur data) s = .next t → t = { s with ports := t.ports, ctl := t.ctl, fus := t.fus, regs := t.regs }) ∧
    (∀ c ∈ ([.ppsEdge fall tod rate adj ok, .syncMessage n g off dur rate adj ok] : List Instr), exec c s = .next t →
      t = { s with servo := t.servo, fus := t.fus, regs := t.regs }) ∧
    (exec .syncTimeout s = .next t → t = { s with servo := t.servo, regs := t.regs }) ∧
    (exec .syncTransmit s = .next t → t = { s with servo := t.servo, regs := t.regs, free := t.free }) ∧
    (∀ c ∈ ([.timCfgWrite v, .combClearCounters g, .thermalLimitsWrite v, .thermalCtlWrite v, .swarmIdWrite sw v,
      .configRecordRead] : List Instr), exec c s = .next t → t = { s with regs := t.regs }) ∧
    (exec .bwrClear s = .next t → t = { s with regs := t.regs, mem := t.mem } ∧
      t.mem = { s.mem with clsBytes := [], colBytes := [], excess := [] }) ∧
    (∀ c ∈ ([.lidarPacket, .cameraFrame] : List Instr), exec c s = .next t →
      t = { s with fus := t.fus, regs := t.regs, tclk := t.tclk, jobs := t.jobs, saf := t.saf, thm := t.thm }) ∧
    (∀ c ∈ ([.combDebugHalt g, .combDebugRelease g, .combDebugStep g] : List Instr), exec c s = .next t →
      t = { s with combs := t.combs, regs := t.regs } ∧ ∀ h, h ≠ g → t.comb h = s.comb h) ∧
    (∀ c ∈ ([.scratchpadDebugRead word, .scratchpadDebugReadDone ue] : List Instr), exec c s = .next t →
      t = { s with spdRead := t.spdRead, regs := t.regs }) ∧
    (∀ c ∈ ([.sensorSample n temps, .uathalSensorReport temps failed, .thermalForecast sched, .dutyReview r1 sched, .sustainedWindow] : List Instr),
      exec c s = .next t → t = { s with thm := t.thm, regs := t.regs, hif := t.hif } ∧
        t.hif = { s.hif with evtBuf := t.hif.evtBuf, evtLog := t.hif.evtLog, evtSeq := t.hif.evtSeq, evtDrops := t.hif.evtDrops }) ∧
    (exec (.coolantWrite v) s = .next t → t = { s with thm := t.thm, regs := t.regs }) ∧
    (∀ c ∈ ([.debugHalt atA, .debugResume atA] : List Instr), exec c s = .next t →
      t = { s with saf := t.saf, free := t.free, regs := t.regs }) ∧
    (∀ c ∈ ([.debugSingleStep atA, .debugBreakpointSet atA addr, .debugRegisterRead atA n,
      .debugRegisterWrite atA n w, .debugMemoryRead atA addr n, .debugMemoryWrite atA addr data] : List Instr), exec c s = .next t →
        t = { s with saf := t.saf, free := t.free }) ∧
    (∀ c ∈ ([.islandMemoryScrub atA n, .configRecordWrite] : List Instr), exec c s = .next t → t = { s with saf := t.saf, regs := t.regs }) ∧
    (∀ c ∈ ([.swarmAdvertiseTimer, .swarmRetrainDone n] : List Instr), exec c s = .next t → t = { s with swm := t.swm }) ∧
    (exec (.swarmAckFlit n f) s = .next t → t = { s with swm := t.swm, regs := t.regs }) ∧
    (∀ c ∈ ([.swarmPortEnable n, .swarmTrainingDone n ok, .swarmHello n f, .swarmReject n f] : List Instr), exec c s = .next t →
      t = { s with swm := t.swm, regs := t.regs, hif := t.hif })

/-- What a record of a queue leaves unchanged: up to what the islands do about the lists that it starts or ends (R435), everything but the
queues, the host interface, the registers, the lists started and ended, the jobs (a fault takes those of the records that it discards,
R117), and the fields named for it; of the package, a record that reads or writes memory changes only the model's own mark of a watched
command, which `unwatched` takes off again, and which errors of the array are still to be found. -/
def Obligations.RecordFrames : Prop :=
  ∀ (s t : State) (d compiled mode : Nat) (c : Instr), exec c s = .next t → ∃ u : State, (t = u ∨ t = u.settle ∨ t = u.settle.unwatched) ∧
    (c ∈ ([.nop d, .waitRelease d, .queueFlush d, .cvRun d, .loopResetI d, .plan d, .fgCopy d, .fgFill d] : List Instr) →
      u = { s with
        queues := u.queues, hif := u.hif, regs := u.regs, listStarts := u.listStarts, listEnds := u.listEnds, jobs := u.jobs }) ∧
    (c ∈ ([.recordStart d, .jobRun d compiled mode, .stepRun d compiled mode, .wait d, .fuseCollect d] : List Instr) →
      u = { s with
        queues := u.queues, hif := u.hif, regs := u.regs, listStarts := u.listStarts, listEnds := u.listEnds, jobs := u.jobs,
        mem := u.mem, poison := u.poison
        pkg := { s.pkg with watch := u.pkg.watch, inputs := u.pkg.inputs } }) ∧
    (c ∈ ([.planStart, .occLoad d, .libLoad d] : List Instr) →
      u = { s with
        queues := u.queues, hif := u.hif, regs := u.regs, listStarts := u.listStarts, listEnds := u.listEnds, jobs := u.jobs,
        pln := u.pln }) ∧
    (c ∈ ([.occLoadDone, .libLoadDone] : List Instr) →
      u = { s with
        queues := u.queues, hif := u.hif, regs := u.regs, listStarts := u.listStarts, listEnds := u.listEnds, jobs := u.jobs,
        mem := u.mem, pln := u.pln, poison := u.poison
        pkg := { s.pkg with watch := u.pkg.watch, inputs := u.pkg.inputs } }) ∧
    (c ∈ ([.loopEnable d, .loopDisable d, .loopSet d, .trajLoad d] : List Instr) →
      u = { s with
        queues := u.queues, hif := u.hif, regs := u.regs, listStarts := u.listStarts, listEnds := u.listEnds, jobs := u.jobs,
        mem := u.mem, ctl := u.ctl, ports := u.ports, poison := u.poison
        pkg := { s.pkg with watch := u.pkg.watch, inputs := u.pkg.inputs } }) ∧
    (c ∈ ([.cvConfig d, .cvChanVerify d, .cvChanOff d, .cvRestore d] : List Instr) →
      u = { s with
        queues := u.queues, hif := u.hif, regs := u.regs, listStarts := u.listStarts, listEnds := u.listEnds, jobs := u.jobs,
        mem := u.mem, cv := u.cv, poison := u.poison
        pkg := { s.pkg with watch := u.pkg.watch, inputs := u.pkg.inputs } }) ∧
    (c ∈ ([.fuseConfig d, .calibLoad d, .calibRemove d] : List Instr) →
      u = { s with
        queues := u.queues, hif := u.hif, regs := u.regs, listStarts := u.listStarts, listEnds := u.listEnds, jobs := u.jobs,
        mem := u.mem, fus := u.fus, poison := u.poison
        pkg := { s.pkg with watch := u.pkg.watch, inputs := u.pkg.inputs } }) ∧
    (c ∈ ([.registryBind d, .registryUnbind d] : List Instr) →
      u = { s with
        queues := u.queues, hif := u.hif, regs := u.regs, listStarts := u.listStarts, listEnds := u.listEnds, jobs := u.jobs,
        ports := u.ports }) ∧
    (c ∈ ([.swarmCopy d, .swarmSignal d] : List Instr) →
      u = { s with
        queues := u.queues, hif := u.hif, regs := u.regs, listStarts := u.listStarts, listEnds := u.listEnds, jobs := u.jobs,
        mem := u.mem, swm := u.swm, poison := u.poison
        pkg := { s.pkg with watch := u.pkg.watch, inputs := u.pkg.inputs } }) ∧
    (c ∈ ([.signal d, .timestamp d, .registryRead d, .cvSave d] : List Instr) →
      u = { s with
        queues := u.queues, hif := u.hif, regs := u.regs, listStarts := u.listStarts, listEnds := u.listEnds, jobs := u.jobs,
        mem := u.mem, free := u.free, dram := u.dram, poison := u.poison
        pkg := { s.pkg with watch := u.pkg.watch, inputs := u.pkg.inputs } }) ∧
    (c ∈ ([.seqJoin d, .seqFinish d, .seqCtlPin d, .seqCtlUnpin d, .seqCtlHold d, .seqCtlRelease d, .seqCtlResume d] : List Instr) →
      u = { s with
        queues := u.queues, hif := u.hif, regs := u.regs, listStarts := u.listStarts, listEnds := u.listEnds, jobs := u.jobs,
        brood := u.brood, honey := u.honey, mem := u.mem, dram := u.dram, poison := u.poison
        pkg := { s.pkg with watch := u.pkg.watch, inputs := u.pkg.inputs } })

/-- Which registers a command can write (R1, R538-R541): every register outside the blocks named reads as before, after a well-formed
command that answers a next state. A register's key modulo 2^22 is its BAR0 offset. -/
def Obligations.RegisterFrames : Prop :=
  ∀ (s t : State) (c : Instr) (m n k d a b off g cs dur : Nat) (bs f : List Byte) (v : Word) (im : FwImage) (msg : WaggleMsg)
    (ok fo fall sw : Bool) (tod : Option Nat) (rate adj x : Int) (temps : List Int) (powers failed : List Nat) (r1 : BitVec 4) (r : DramReq), c.wf = true → exec c s = .next t →
    (c ∈ ([.mbxAck m, .mbxReqWrite m off bs, .mbxDoorbellRefused m, .getInfo m, .memInfo m, .ledgerRead m, .hello m, .powerPolicy m,
      .fwSlotWrite m im, .fwRollbackAdvance m, .logRead m, .memAlloc m a, .memFree m] : List Instr) →
      ∀ y, y % 2 ^ 22 < 0x21000 ∨ 0x31000 ≤ y % 2 ^ 22 → t.reg y = s.reg y) ∧
    (c ∈ ([.sensorSample d temps, .uathalSensorReport temps failed, .thermalForecast powers, .dutyReview r1 powers, .sustainedWindow,
      .rthWindow a b n powers, .coolantWrite v, .thermalLimitsWrite v, .thermalCtlWrite v] : List Instr) →
      ∀ y, y % 2 ^ 22 / 4096 ∉ [0x42, 0x44] → t.reg y = s.reg y) ∧
    (c ∈ ([.swarmPortEnable n, .swarmTrainingDone n ok, .swarmHello n f, .swarmReject n f, .swarmAckFlit n f, .swarmIdWrite sw v,
      .swarmExportEnable v] : List Instr) → ∀ y, y % 2 ^ 22 / 4096 ∉ [0x42, 0x4C] → t.reg y = s.reg y) ∧
    (c ∈ ([.combDebugHalt g, .combDebugRelease g, .combDebugStep g, .combClearCounters g, .scratchpadDebugRead a,
      .scratchpadDebugReadDone ok] : List Instr) → ∀ y, y % 2 ^ 22 < 0x58000 ∨ 0x60000 ≤ y % 2 ^ 22 → t.reg y = s.reg y) ∧
    (c ∈ ([.ppsEdge fall tod rate adj ok, .syncMessage n g x dur rate adj ok, .syncTimeout, .syncTransmit, .timCfgWrite v] : List Instr) →
      ∀ y, y % 2 ^ 22 / 4096 ∉ [0x43, 0x49] → t.reg y = s.reg y) ∧
    (c ∈ ([.lidarPacket, .cameraFrame] : List Instr) → ∀ y, y % 2 ^ 22 / 4096 ∉ [0x43, 0x49] → t.reg y = s.reg y) ∧
    (c ∈ ([.gpioEdge n ok, .spiTransfer n cs dur bs] : List Instr) → ∀ y, y % 2 ^ 22 / 4096 ∉ [0x47, 0x48] → t.reg y = s.reg y) ∧
    (c ∈ ([.avsStep d, .ruradPllLockLoss d, .rampEstimate d ⟨a, b⟩, .avsbusNoAck d] : List Instr) →
      ∀ y, y % 2 ^ 22 / 4096 ∉ [0x41, 0x42] → t.reg y = s.reg y) ∧
    (c ∈ ([.waggleIdent k msg ok, .waggleOffer k msg, .waggleConfirm k msg, .waggleTrained ⟨k, fo⟩ msg, .waggleDone k fo msg,
      .waggleNak k fo msg] : List Instr) →
      ∀ y, y % 2 ^ 22 / 4096 ∉ [0x40, 0x42, 0x50, 0x51, 0x52, 0x53] → t.reg y = s.reg y) ∧
    (c ∈ ([.dramRequest r, .patrolScrub d a] : List Instr) →
      ∀ y, y % 2 ^ 22 / 4096 ∉ [0x42, 0x4B, 0x50, 0x51, 0x52, 0x53] → t.reg y = s.reg y) ∧
    (c ∈ ([.eventRingWrite, .evtEnable v, .evtTailWrite v] : List Instr) → ∀ y, y % 2 ^ 22 / 4096 ≠ 0x42 → t.reg y = s.reg y)

/-- A step runs the command at the front of the queue on the state with the queue's rest; on an empty queue one TCLK tick passes, which is
the model's choice (log entry 1). -/
def Obligations.StepRunsFront : Prop :=
  (∀ (s : State) (c : Instr) (rest : List Instr), step { s with pending := c :: rest } = exec c { s with pending := rest }) ∧
    ∀ s : State, s.pending = [] → step s = .next (s.elapse 1)

/-- The state after reset meets the invariant, and no command waits in it. -/
def Obligations.ResetMeetsInv : Prop := State.reset.Inv ∧ State.reset.pending = []

/-- Every step keeps the invariant: registers, DRAM, host memory and credits in canonical form, every credit within its bounds (R320), the
event buffer within its 513 places (R99) and the event log within its 65,536 (R479). -/
def Obligations.StepKeepsInv : Prop := ∀ s t : State, s.Inv → step s = .next t → t.Inv

/-- No command changes the queue of commands, no time runs back, and the count of free values drawn never falls. -/
def Obligations.ExecKeepsQueue : Prop :=
  ∀ (c : Instr) (s t : State), exec c s = .next t → t.pending = s.pending ∧ s.tclk ≤ t.tclk ∧ s.free ≤ t.free

/-- What a device reset leaves (R68, R78, R85, R90, R96, R105): compute rails at 750 mV, the window at 0, MSI-X disabled with every vector
masked and none pending, mailboxes IDLE with no session and nothing remembered, no queue, no colony, no object, the next EPOCH after a warm
reset; host memory and the command queue stay. Where the spec leaves a point open, what stands here is the model's choice (log entries 12,
29). -/
def Obligations.DeviceResetLeaves : Prop :=
  ∀ (s : State) (p : PkgInputs) (cold : Bool) (n v : Nat) (t : State), t = s.afterReset p cold →
    (n < 4 → t.rd (PWR_VDD_VSET.idx n) = 0x2EE ∧ t.rd (PWR_VDD_VMAX_SEEN.idx n) = 0x2EE ∧ t.rd (PWR_VDD_HEADROOM_LOW.idx n) = 0 ∧
      t.rd (PWR_VDD_AVS_FAULT.idx n) = 0) ∧
    t.rd HIF_WIN_BASE_BASE = 0 ∧ t.time96 = 0 ∧
    t.hif.msixEnable = false ∧ (v < 64 → t.hif.msixMask.getLsbD v = true ∧ t.hif.msixPend.getLsbD v = false) ∧
    (n < 16 → t.mbxState n = 0 ∧ (t.mbx n).session = none ∧ (t.mbx n).remembered = []) ∧
    (t.queue n).live = false ∧ (t.colony n).live = false ∧ t.obj n = none ∧
    t.hif.evtBuf = [] ∧ t.hif.evtLog = [] ∧ t.on EVT_CTRL_ENABLE = false ∧
    (cold = false → t.pkg.epoch = s.pkg.epoch + 1) ∧ t.hif.hostMem = s.hif.hostMem ∧ t.pending = s.pending

/-- A register field reads as last written, cut to its width, and no write of it reaches another field (R6); a counter saturates. -/
def Obligations.RegisterFieldLaws : Prop :=
  ∀ (s : State) (f g : Fld) (x n : Nat), s.Inv → f.lo + f.w ≤ 64 →
    (s.wr f x).rd f = x % 2 ^ f.w ∧
    (g.off ≠ f.off ∨ g.lo + g.w ≤ f.lo ∨ f.lo + f.w ≤ g.lo → (s.wr f x).rd g = s.rd g) ∧
    (s.inc f n).rd f = min (s.rd f + n) (2 ^ f.w - 1)

/-- Reserved bits read as 0; a read of a reserved register offset of BAR0 returns 0, and a write to one has no effect (R9). -/
def Obligations.ReservedRegisters : Prop :=
  ∀ (s : State) (d : RegDesc) (off b : Nat) (bs : List Byte),
    ((∀ f ∈ d.fields, b < f.1 ∨ f.1 + f.2.1 ≤ b) → (s.regValue d off).getLsbD b = false) ∧
    (off < 0x400000 → off % 4 = 0 → findReg off = none → mbxBuffer off = none →
      exec (.rcRead off) s = .next (s.hostGets (.data [0, 0, 0, 0])) ∧
      exec (.reg64LowRead off) s = .next (s.hostGets (.data [0, 0, 0, 0])) ∧
      exec (.reg64HighRead off) s = .next (s.hostGets (.data [0, 0, 0, 0])) ∧
      (bs.length = 4 → exec (.registerWrite off bs) s = .next s.settle) ∧
      (bs.length = 8 → off % 8 = 0 → findReg (off + 4) = none → mbxBuffer (off + 4) = none →
        exec (.registerWrite off bs) s = .next s.settle))

/-- The read latch and the write hold of a 64-bit register, for 32-bit and 64-bit accesses (R10). The low half of TIM_NOW latches TIM_FRAC
too (R347). -/
def Obligations.LatchAndHold : Prop :=
  ∀ (s t : State) (x : RegDesc) (i base : Nat) (h v : Word) (w : Word64) (bs : List Byte), s.Inv → base < 0x400000 →
    findReg base = some (x, i) →
    x.wide = true → x.offAt i = base → w = s.regValue x base →
    (t = s.setLatch base (some (w.extractLsb' 32 32)) → exec (.reg64LowRead base) s =
      .next ((if base = 0x43000 then t.setLatch 0x43008 (some (BitVec.ofNat 32 (s.rd TIM_FRAC_FRAC))) else t).hostGets
        (.data (leBytes 4 (w.toNat % 2 ^ 32))))) ∧
    (s.latchOf base = some h → exec (.reg64HighRead (base + 4)) s = .next ((s.setLatch base none).hostGets (.data (leBytes 4 h.toNat)))) ∧
    (s.latchOf base = none → exec (.reg64HighRead (base + 4)) s = .next (s.hostGets (.data (leBytes 4 (w.toNat / 2 ^ 32))))) ∧
    exec (.reg64LowWrite base v) s = .next (s.setHold base (some v)).settle ∧
    (s.holdOf base = some h → exec (.reg64HighWrite (base + 4) v) s = .next
      ((s.setHold base none).writeReg64 x base (BitVec.ofNat 64 (2 ^ 64 - 1)) (BitVec.ofNat 64 (h.toNat + v.toNat * 2 ^ 32))).settle) ∧
    (s.holdOf base = none → t = s.writeReg64 x base (BitVec.ofNat 64 (2 ^ 64 - 2 ^ 32)) (BitVec.ofNat 64 (v.toNat * 2 ^ 32)) →
      exec (.reg64HighWrite (base + 4) v) s = .next t.settle ∧
      (t.reg (s.regKey base)).setWidth 32 = (s.reg (s.regKey base)).setWidth 32) ∧
    exec (.rcRead base) s = .next (s.hostGets (.data (leBytes 8 w.toNat))) ∧
    (bs.length = 8 → t = s.writeReg64 x base (BitVec.ofNat 64 (2 ^ 64 - 1)) (BitVec.ofNat 64 (leNat bs)) →
      exec (.registerWrite base bs) s = .next t.settle ∧ t.hif.latch = s.hif.latch ∧ t.hif.hold = s.hif.hold)

/-- A request whose TAG and CMD match a remembered response is not executed again: the remembered response comes back with REPLAY set (R85);
and a mailbox remembers its last 16 distinct TAG values. Where the spec leaves a point open, what stands here is the model's choice (log
entries 70). -/
def Obligations.MailboxReplays : Prop :=
  ∀ (s : State) (m base : Nat) (im : FwImage) (r q : Remembered) (l : List Remembered),
    (m < 16 → s.mbxState m = 1 → s.hif.fwStopped = false → s.requestCheck m (s.mbx m).copy = 0 →
      ((s.mbx m).remembered.find? fun r => r.tag == s.requestTag m && r.cmd == BitVec.ofNat 16 (field (s.mbx m).copy 0 2)) = some r →
      (∀ c ∈ ([(.hello m, 0x0001), (.getInfo m, 0x0002), (.memAlloc m base, 0x0100), (.memFree m, 0x0101), (.memInfo m, 0x0102),
          (.colonyCreate m, 0x0200), (.queueCreate m, 0x0300), (.powerPolicy m, 0x0401), (.ledgerRead m, 0x0501),
          (.logRead m, 0x0502), (.fwSlotWrite m im, 0x0600), (.fwRollbackAdvance m, 0x0601)] : List (Instr × Nat)),
        field (s.mbx m).copy 0 2 = c.2 →
        exec c.1 s = .next (s.mbxDone m (patch r.bytes 8 [(r.bytes[8]?).getD 0 ||| 1]))) ∧
      (∀ c ∈ ([(.colonyDestroy m, 0x0201), (.queueDestroy m, 0x0301)] : List (Instr × Nat)),
        field (s.mbx m).copy 0 2 = c.2 →
        exec c.1 s = .next (s.mbxDone m (patch r.bytes 8 [(r.bytes[8]?).getD 0 ||| 1])).settle) ∧
      (s.unhindered = true → s.voteWaits (s.reinitClass m) = false → field (s.mbx m).copy 0 2 = 0x0400 →
        exec (.funcReinit m) s = .next (s.mbxDone m (patch r.bytes 8 [(r.bytes[8]?).getD 0 ||| 1])).settle)) ∧
    (remember l q).head? = some q ∧ (remember l q).length ≤ 16 ∧
    (l.length < 16 → ∀ x ∈ l, x.tag ≠ q.tag → x ∈ remember l q) ∧
    ((l.map (·.tag)).Nodup → ((remember l q).map (·.tag)).Nodup)

/-- A doorbell is accepted exactly where the units it submits fit beside those from the head to the tail, one unit staying free; the ring
then holds both (R112). -/
def Obligations.DoorbellFits : Prop :=
  ∀ n t h t' : Nat, t < n → h < n →
    (doorbellFits n t h t' = true ↔ t' < n ∧ (t' + n - t) % n + (t + n - h) % n ≤ n - 1) ∧
    (doorbellFits n t h t' = true → (t' + n - h) % n = (t' + n - t) % n + (t + n - h) % n)

/-- The device address that an offset of BAR2 reaches: bits of BASE below the window size are ignored, and the window never reaches beyond
0x000F_FFFF_FFFF (R73). -/
def Obligations.WindowAddress : Prop :=
  ∀ (s : State) (x : Nat), 28 ≤ s.hif.winLog2 → s.hif.winLog2 ≤ 36 → x < 2 ^ s.hif.winLog2 →
    s.winAddr x = s.rd HIF_WIN_BASE_BASE / 2 ^ (s.hif.winLog2 - 28) * 2 ^ (s.hif.winLog2 - 28) * 2 ^ 28 + x ∧
      (s.winAddr x - x) % 2 ^ s.hif.winLog2 = 0 ∧ s.winAddr x ≤ 0xFFFFFFFFF

/-- The memory die and offset that a device address reaches, region by region; no two addresses reach one place, and every place is reached
(R286). -/
def Obligations.DramMap : Prop :=
  ∀ (s : State) (a d q x b l : Nat), a < 2 ^ 36 → x = s.rd DMC_MAP_ISHARE → x ≤ 16 → b = (16 - x) * 2 ^ 30 → d = a / 2 ^ 34 →
    q = a % 2 ^ 34 → l = d * x * 2 ^ 30 + (q - b) →
    (q < b → s.dieOffset a = (d, q)) ∧
    (b ≤ q → s.dieOffset a = (bitsOf l 12 2, b + bitsOf l 14 22 * 4096 + bitsOf l 0 12)) ∧
    (s.dieOffset a).1 < 4 ∧ (s.dieOffset a).2 < 2 ^ 34 ∧ s.addrOf (s.dieOffset a).1 (s.dieOffset a).2 = a ∧
    ∀ e o, e < 4 → o < 2 ^ 34 → s.dieOffset (s.addrOf e o) = (e, o) ∧ s.addrOf e o < 2 ^ 36

/-- A new object: every byte of it reads 0 and no word of it is poisoned, it takes only cleared memory that no object holds, and its
partition ID is its colony's index, or 16 for the shared partition (R290). -/
def Obligations.MemAllocZeroes : Prop :=
  ∀ (s : State) (m base : Nat), s.serving m 0x0100 → s.memAllocCheck base (s.request m) = 0 →
    ∃ (t : State) (o : MemObj), exec (.memAlloc m base) s = .next t ∧ (s.Inv → t.mbxState m = 2) ∧
      t.obj (s.freeObj.getD 0) = some o ∧
      o.size = 4096 * field (s.request m) 16 4 ∧
      (∀ a, o.addr ≤ a → a < o.addr + o.size → memGet t.dram a = 0 ∧ t.isPoisoned (a / 64) = false) ∧
      (∀ a, (a < o.addr ∨ o.addr + o.size ≤ a) → memGet t.dram a = memGet s.dram a) ∧
      (∀ c ∈ s.mem.clearing, meets o.addr o.size c.1 c.2 = false) ∧
      (∀ r ∈ s.mem.ranges, meets o.addr o.size r.base r.size = false) ∧
      (∀ c, s.colonyOf (field (s.request m) 20 4) = some c → o.partition = c) ∧
      (s.colonyOf (field (s.request m) 20 4) = none → o.partition = 16)

/-- A write through the window that is taken: the bytes read back, no byte outside changes but in a poisoned word that the write touches,
whose other bytes read 0 and whose poison ends, and no other word's poison changes (R75, R296). Where the spec leaves a point open, what
stands here is the model's choice (log entries 17, 94). -/
def Obligations.WindowWriteReadsBack : Prop :=
  ∀ (s : State) (x a : Nat) (bs : List Byte), s.Inv → s.unhindered = true → a = s.winAddr x → s.inWindow x bs.length = true →
    s.spanExcluded a bs.length = false → s.spanVisible a bs.length = true →
    ∃ t, exec (.windowWrite x bs) s = .next t ∧ memRead t.dram a bs.length = bs ∧
      (∀ c, (c < a ∨ a + bs.length ≤ c) →
        memGet t.dram c = (if s.isPoisoned (c / 64) = true ∧ (∃ k, k < bs.length ∧ (a + k) / 64 = c / 64) then 0 else memGet s.dram c)) ∧
      ∀ w, t.isPoisoned w = true ↔ s.isPoisoned w = true ∧ ¬ ∃ k, k < bs.length ∧ (a + k) / 64 = w

/-- A colony's requester reaches its own partition and the shared one alone: a refused read, which lies in one burst as every request does
(R293), returns no data, a refused write changes no byte, both with E_PARTITION (R326, R327); and what a colony reads from its own partition
does not depend on any byte outside the range that it reads. Where the spec leaves a point open, what stands here is the model's choice (log
entries 21, 94). -/
def Obligations.ColonyIsolation : Prop :=
  ∀ (s : State) (w : Who) (a n : Nat) (bs : List Byte) (r : PRange), w.label < 16 → w.honey = false → s.rangeAt a = some r →
    (r.partition ≠ w.colony ∧ r.partition ≠ 16 →
      (0 < n → a % 512 + n ≤ 512 → (s.devLoad w a n).2 = (E_PARTITION, List.replicate n 0)) ∧
      (0 < bs.length → a % 512 + bs.length ≤ 512 → (s.devStore w a bs).2 = E_PARTITION ∧ (s.devStore w a bs).1.dram = s.dram ∧
        (s.devStore w a bs).1.poison = s.poison)) ∧
    (w.colony < 16 → r.partition = w.colony ∨ r.partition = 16 → a + n ≤ r.base + r.size → ∀ (m : Memory),
      (∀ c, r.base ≤ c → c < r.base + r.size → memGet m c = memGet s.dram c) →
      (({ s with dram := m } : State).devLoad w a n).2 = (s.devLoad w a n).2)

/-- `n` words transferred at an arbitration point: each colony's credit there rises by `n` times its SHARE, the system pool's by `n` times
what is left of 1,000, the one served pays 1,000 for each, within ±256,000; no credit at another point changes (R320). Where the spec leaves
a point open, what stands here is the model's choice (log entries 20). -/
def Obligations.CreditTransfer : Prop :=
  ∀ (s : State) (point col n c k : Nat), s.Inv →
    (c < 16 → (s.transferWords point col n).credit point c = max (-256000) (min 256000
      (s.credit point c + n * (if (s.colony c).live then (s.colony c).share else 0) - (if c = col then 1000 * n else 0)))) ∧
    (s.transferWords point col n).credit point 16 = max (-256000) (min 256000
      (s.credit point 16 + n * ((1000 - ((List.range 16).map fun c => if (s.colony c).live then (s.colony c).share else 0).sum : Nat) : Int)
        - (if col = 16 then 1000 * n else 0))) ∧
    (k ≠ point → c < 17 → (s.transferWords point col n).credit k c = s.credit k c)

/-- The time base: each TCLK tick adds 8 × 2^32 + ADJ to the 96 bits of TIM_NOW and TIM_FRAC while the Eztos root PLL is locked, and nothing
else; the tick count itself never depends on ADJ (R347). -/
def Obligations.TimeBase : Prop :=
  ∀ (s : State) (n : Nat), s.Inv →
    (s.elapse n).tclk = s.tclk + n ∧
    (s.on PWR_STATUS_PLL_LOCK_IOD = true → ((s.elapse n).time96 : Int) = (s.time96 + n * (8 * 2 ^ 32 + toS32 (s.rd TIM_ADJ_ADJ))) % 2 ^ 96 ∧
      (s.elapse n).now = (s.elapse n).time96 / 2 ^ 32) ∧
    (s.on PWR_STATUS_PLL_LOCK_IOD = false → (s.elapse n).time96 = s.time96)

/-- A vote over three copies (R453): used where all agree intact; the majority used and every copy rewritten with it where two intact ones
agree and the third does not or is not intact, with CFG_VOTE_MAJORITY; refused where no two intact ones agree, with CFG_VOTE_FAIL. -/
def Obligations.VoteOutcomes : Prop :=
  ∀ (s : State) (island index : Nat) (c0 c1 c2 : RecCopy) (b : List Byte),
    tget [] s.saf.copies (cfgKey island index) = [c0, c1, c2] → s.beingWritten island index = false →
    ([c0, c1, c2] = List.replicate 3 ⟨b, true⟩ → s.voteRecord island index = (s, some b)) ∧
    ([c0, c1, c2].count ⟨b, true⟩ = 2 → ∃ t, s.voteRecord island index = (t, some b) ∧
      tget [] t.saf.copies (cfgKey island index) = List.replicate 3 ⟨b, true⟩ ∧
      (∀ k, k ≠ cfgKey island index → tget [] t.saf.copies k = tget [] s.saf.copies k) ∧
      ∃ r, t.hif.evtLog.getLast? = some r ∧ r.code = 0x55 ∧ r.detail = padTo 10 (leBytes 1 island ++ leBytes 2 index ++
        leBytes 1 (bit c0.intact + 2 * bit c1.intact + 4 * bit c2.intact) ++
        leBytes 1 (bit (c0 != ⟨b, true⟩) + 2 * bit (c1 != ⟨b, true⟩) + 4 * bit (c2 != ⟨b, true⟩)))) ∧
    ((∀ x ∈ [c0, c1, c2], x.intact = true → [c0, c1, c2].count x = 1) → ∃ t, s.voteRecord island index = (t, none) ∧
      t.saf = s.saf ∧ ∃ r, t.hif.evtLog.getLast? = some r ∧ r.code = 0x56 ∧ r.status = E_CFGVOTE ∧
        r.detail = padTo 10 (leBytes 1 island ++ leBytes 2 index ++
          leBytes 1 (bit c0.intact + 2 * bit c1.intact + 4 * bit c2.intact) ++ [0]))

/-- The thermal ledger takes a window's S, in 1/16 K (R493): S stays within 2 K of the extreme since the last turning point, a half cycle is
counted exactly where the extreme becomes a turning point, in the bin of its amplitude, and amplitudes below 10 K in none. -/
def Obligations.LedgerHalfCycles : Prop :=
  ∀ (d e : Domain) (v : Int) (amp : Nat), e = d.advance v → d.started = true → amp = (d.ext - d.lastTp).natAbs →
    (e.up = some true → v ≤ e.ext ∧ e.ext < v + 32) ∧ (e.up = some false → e.ext ≤ v ∧ v < e.ext + 32) ∧
    (e.lastTp = d.lastTp ∧ e.half10 = d.half10 ∧ e.half20 = d.half20 ∧ e.half40 = d.half40 ∧ e.half60 = d.half60 ∨
      e.lastTp = d.ext ∧ e.ext = v ∧ (d.up = some true ∧ e.up = some false ∧ v + 32 ≤ d.ext ∨ d.up = some false ∧ e.up = some true ∧ d.ext + 32 ≤ v) ∧
        e.half10 = d.half10 + (if 160 ≤ amp ∧ amp < 320 then 1 else 0) ∧ e.half20 = d.half20 + (if 320 ≤ amp ∧ amp < 640 then 1 else 0) ∧
        e.half40 = d.half40 + (if 640 ≤ amp ∧ amp < 960 then 1 else 0) ∧ e.half60 = d.half60 + (if 960 ≤ amp then 1 else 0)) ∧
    (d.up = some true → v + 32 ≤ d.ext → e.lastTp = d.ext ∧ e.up = some false) ∧
    (d.up = some false → d.ext + 32 ≤ v → e.lastTp = d.ext ∧ e.up = some true)

/-- Every field of a flit reads back as built, at every value that its bits admit, and the flit passes its own check (R501). -/
def Obligations.FlitFields : Prop :=
  ∀ (type hops seq ack dst src : Nat) (pay f : List Byte), type < 16 → hops < 256 → seq < 65536 → ack < 65536 → dst < 128 → src < 128 →
    f = mkFlit type hops seq ack dst src pay →
    f.length = 256 ∧ flitType f = type ∧ flitHops f = hops ∧ flitSeq f = seq ∧ flitAck f = ack ∧ flitDst f = dst ∧ flitSrc f = src ∧
      field f 8 4 = 0 ∧ flitPay f = padTo 240 pay ∧ field f 252 4 = flitCrc f ∧ flitOk f = true

/-- An inbound swarm request to a disabled export, or beyond its object, is answered with E_PARTITION, leaves memory unchanged and is
counted (R507). Where the spec leaves a point open, what stands here is the model's choice (log entries 91, 114). -/
def Obligations.SwarmRefusals : Prop :=
  ∀ (s t : State) (b : List Byte) (st e len : Nat), s.Inv → e = bitsOf (field b 1 1) 0 6 → len = (if field b 0 1 = 1 then 8 else field b 2 1) →
    s.swApply b = (t, st) → (s.on (SWM_EXP_CTL_ENABLE.bank e) = false ∨ s.objFits (s.rd (SWM_EXP_OBJ_OBJ.bank e)) (field b 8 8) len = false) →
    st = E_PARTITION ∧ t.dram = s.dram ∧ t.poison = s.poison ∧ t.queues = s.queues ∧
      t.rd SWM_REJ_COUNT = min (s.rd SWM_REJ_COUNT + 1) (2 ^ 32 - 1)

/-- A Rurad die and its Mimider die are excluded together, and the addresses of an excluded pair are unreachable: a read of one returns no
data, a write of one changes nothing, both with E_LINK (R14). -/
def Obligations.PairsExcludedTogether : Prop :=
  ∀ (s t : State) (d a n : Nat) (w : Who) (bs : List Byte), s.Inv → d < 4 → t = s.markExcluded d →
    t.rd (IDN_DIE_EXCLUDED.idx d) = 1 ∧ t.rd (IDN_DIE_EXCLUDED.idx (4 + d)) = 1 ∧ t.dieIncluded d = false ∧
    ((t.dieOffset a).1 = d → t.addrExcluded a = true ∧ (t.allowed w a = true →
      (0 < n → a % 512 + n ≤ 512 → (t.devLoad w a n).2 = (E_LINK, List.replicate n 0)) ∧
      (0 < bs.length → a % 512 + bs.length ≤ 512 → (t.devStore w a bs).2 = E_LINK ∧ (t.devStore w a bs).1.dram = t.dram ∧
        (t.devStore w a bs).1.poison = t.poison)))
end

