-- ==== Sys2Proof/Laws/KeptBase.lean ====
section
/-! SUPPORT. What every operation keeps, and how tables, DRAM and host memory keep it: what every later invariant lemma is made of. -/
namespace Sys2Proof.Machine

/-- What a command starts from: whether the invariant holds, the queue, the tick and the free values drawn. -/
structure Keep where
  inv : Bool
  queue : List Instr
  tick : Nat
  drawn : Nat

/-- What every operation keeps: the invariant holds, the queue is as it was, time and the count of free values drawn have not run
back. -/
def State.Kept (s : State) (k : Keep) : Prop :=
  (k.inv = true → s.Inv) ∧ s.pending = k.queue ∧ k.tick ≤ s.tclk ∧ k.drawn ≤ s.free

end Sys2Proof.Machine

namespace Sys2Proof.Laws
open Sys2Proof Sys2Proof.Machine

/-- An outcome whose next state, where it has one, keeps that. -/
def OutKept (k : Keep) (o : Out) : Prop := ∀ t, o = .next t → t.Kept k

/-- A change of nothing that `Kept` speaks of. -/
theorem kept_mk {k : Keep} {s : State} {x_pkg x_pwr x_queues x_objs x_listEnds x_listStarts x_poison x_combs x_spdRead x_honey x_brood x_colonies x_jobs x_unsaved x_ports x_servo x_fus x_pln x_ctl x_cv x_saf x_thm x_swm} : (State.mk s.pending s.tclk s.free s.regs x_pkg x_pwr s.hif x_queues x_objs x_listEnds x_listStarts s.dram x_poison x_combs x_spdRead x_honey x_brood x_colonies x_jobs x_unsaved s.mem x_ports x_servo x_fus x_pln x_ctl x_cv x_saf x_thm x_swm).Kept k = s.Kept k := rfl

/-- A change of the host interface but for host memory and the events. -/
theorem kept_mk_hif {k : Keep} {s : State} {x_pkg x_pwr x_queues x_objs x_listEnds x_listStarts x_poison x_combs x_spdRead x_honey x_brood x_colonies x_jobs x_unsaved x_ports x_servo x_fus x_pln x_ctl x_cv x_saf x_thm x_swm} {y_mbx y_latch y_hold y_hostRead y_winLog2 y_deviceId y_classCode y_maxPayload y_maxReadReq y_msixTable y_msixEnable y_msixMask y_msixPend y_msixSent y_evtSeq y_evtDrops y_evtDelay y_fwStopped} :
    (State.mk s.pending s.tclk s.free s.regs x_pkg x_pwr (Hif.mk y_mbx y_latch y_hold y_hostRead y_winLog2 y_deviceId y_classCode y_maxPayload y_maxReadReq y_msixTable y_msixEnable y_msixMask y_msixPend y_msixSent s.hif.hostMem s.hif.evtBuf s.hif.evtLog y_evtSeq y_evtDrops y_evtDelay y_fwStopped) x_queues x_objs x_listEnds x_listStarts s.dram x_poison x_combs x_spdRead x_honey x_brood x_colonies x_jobs x_unsaved s.mem x_ports x_servo x_fus x_pln x_ctl x_cv x_saf x_thm x_swm).Kept k = s.Kept k := rfl

/-- A change of the memory controllers but for the credits. -/
theorem kept_mk_mem {k : Keep} {s : State} {x_pkg x_pwr x_queues x_objs x_listEnds x_listStarts x_poison x_combs x_spdRead x_honey x_brood x_colonies x_jobs x_unsaved x_ports x_servo x_fus x_pln x_ctl x_cv x_saf x_thm x_swm} {z_dmc z_resps z_ranges z_clearing z_turn z_clsBytes z_colBytes z_excess z_waiting z_reqOrd z_pviol z_poolPages z_dramUnits z_winMax z_partner} :
    (State.mk s.pending s.tclk s.free s.regs x_pkg x_pwr s.hif x_queues x_objs x_listEnds x_listStarts s.dram x_poison x_combs x_spdRead x_honey x_brood x_colonies x_jobs x_unsaved (Mem.mk z_dmc z_resps z_ranges z_clearing s.mem.credit z_turn z_clsBytes z_colBytes z_excess z_waiting z_reqOrd z_pviol z_poolPages z_dramUnits z_winMax z_partner) x_ports x_servo x_fus x_pln x_ctl x_cv x_saf x_thm x_swm).Kept k = s.Kept k := rfl

/-- Both. -/
theorem kept_mk_both {k : Keep} {s : State} {x_pkg x_pwr x_queues x_objs x_listEnds x_listStarts x_poison x_combs x_spdRead x_honey x_brood x_colonies x_jobs x_unsaved x_ports x_servo x_fus x_pln x_ctl x_cv x_saf x_thm x_swm} {y_mbx y_latch y_hold y_hostRead y_winLog2 y_deviceId y_classCode y_maxPayload y_maxReadReq y_msixTable y_msixEnable y_msixMask y_msixPend y_msixSent y_evtSeq y_evtDrops y_evtDelay y_fwStopped} {z_dmc z_resps z_ranges z_clearing z_turn z_clsBytes z_colBytes z_excess z_waiting z_reqOrd z_pviol z_poolPages z_dramUnits z_winMax z_partner} :
    (State.mk s.pending s.tclk s.free s.regs x_pkg x_pwr (Hif.mk y_mbx y_latch y_hold y_hostRead y_winLog2 y_deviceId y_classCode y_maxPayload y_maxReadReq y_msixTable y_msixEnable y_msixMask y_msixPend y_msixSent s.hif.hostMem s.hif.evtBuf s.hif.evtLog y_evtSeq y_evtDrops y_evtDelay y_fwStopped) x_queues x_objs x_listEnds x_listStarts s.dram x_poison x_combs x_spdRead x_honey x_brood x_colonies x_jobs x_unsaved (Mem.mk z_dmc z_resps z_ranges z_clearing s.mem.credit z_turn z_clsBytes z_colBytes z_excess z_waiting z_reqOrd z_pviol z_poolPages z_dramUnits z_winMax z_partner) x_ports x_servo x_fus x_pln x_ctl x_cv x_saf x_thm x_swm).Kept k = s.Kept k := rfl

theorem kept_ite {p : Prop} [Decidable p] {k : Keep} {a b : State} (ha : a.Kept k) (hb : b.Kept k) : (if p then a else b).Kept k := by
  split <;> assumption

theorem kept_ite_fst {p : Prop} [Decidable p] {k : Keep} {α : Type} {a b : State × α} (ha : a.1.Kept k) (hb : b.1.Kept k) :
    (if p then a else b).1.Kept k := by split <;> assumption

theorem kept_foldl {k : Keep} {α : Type} {f : State → α → State} {l : List α} {s : State} (hf : ∀ s x, s.Kept k → (f s x).Kept k) (h : s.Kept k) :
    (l.foldl f s).Kept k := by
  induction l generalizing s with
  | nil => exact h
  | cons x l ih => exact ih (hf _ _ h)

theorem kept_foldl_fst {k : Keep} {α β : Type} {f : State × β → α → State × β} {l : List α} {p : State × β}
    (hf : ∀ p x, p.1.Kept k → (f p x).1.Kept k) (h : p.1.Kept k) : (l.foldl f p).1.Kept k := by
  induction l generalizing p with
  | nil => exact h
  | cons x l ih => exact ih (hf _ _ h)

theorem kept_fst {k : Keep} {α : Type} {p : State × α} {a : State} {b : α} (h : p.1.Kept k) (e : p = (a, b)) : a.Kept k := by
  rw [e] at h; exact h

theorem out_next {k : Keep} {s : State} (h : s.Kept k) : OutKept k (.next s) := by
  intro t e; cases e; exact h

theorem out_ite {p : Prop} [Decidable p] {k : Keep} {a b : Out} (ha : OutKept k a) (hb : OutKept k b) : OutKept k (if p then a else b) := by
  split <;> assumption

/-! ## Tables in canonical form -/

theorem keysAbove_mono {α : Type} {j k : Nat} {t : Table α} (h : keysAbove k t = true) (hj : j ≤ k) : keysAbove j t = true := by
  cases t with
  | nil => rfl
  | cons e r => simp only [keysAbove, decide_eq_true_eq] at *; omega

theorem keysAbove_tset {α : Type} [DecidableEq α] {d : α} {t : Table α} {j k : Nat} {v : α} (hw : twf d t = true)
    (h : keysAbove j t = true) (hk : j < k) : keysAbove j (tset d t k v) = true := by
  cases t with
  | nil => unfold tset; split <;> simp [keysAbove, hk]
  | cons e r =>
    obtain ⟨k', w⟩ := e
    simp only [twf, Bool.and_eq_true] at hw
    simp only [keysAbove, decide_eq_true_eq] at h
    unfold tset
    split
    · split <;> simp [keysAbove, h, hk]
    · split
      · split
        · exact keysAbove_mono hw.1.2 (Nat.le_of_lt h)
        · simp [keysAbove, hk]
      · simp [keysAbove, h]

/-- Setting an entry keeps the canonical form. -/
theorem twf_tset {α : Type} [DecidableEq α] {d : α} {t : Table α} {k : Nat} {v : α} (h : twf d t = true) :
    twf d (tset d t k v) = true := by
  induction t with
  | nil => unfold tset; split <;> simp_all [twf, keysAbove]
  | cons e r ih =>
    obtain ⟨k', w⟩ := e
    simp only [twf, Bool.and_eq_true, decide_eq_true_eq] at h
    obtain ⟨⟨hw, hk⟩, hr⟩ := h
    unfold tset
    split
    · split <;> simp_all [twf, keysAbove]
    · split
      · rename_i hkk; subst hkk
        split
        · exact hr
        · simp [twf, *]
      · have := keysAbove_tset (v := v) hr hk (show k' < k by omega)
        simp [twf, hw, this, ih hr]

/-- A filtered table is in canonical form. -/
theorem twf_filter {α : Type} [DecidableEq α] {d : α} {t : Table α} (p : Nat × α → Bool) (h : twf d t = true) :
    twf d (t.filter p) = true ∧ ∀ j, keysAbove j t = true → keysAbove j (t.filter p) = true := by
  induction t with
  | nil => exact ⟨rfl, fun _ h => h⟩
  | cons e r ih =>
    obtain ⟨k', w⟩ := e
    simp only [twf, Bool.and_eq_true, decide_eq_true_eq] at h
    obtain ⟨⟨hw, hk⟩, hr⟩ := h
    have ih := ih hr
    rw [List.filter_cons]
    split
    · exact ⟨by simp [twf, hw, ih.1, ih.2 _ hk], fun j hj => by simpa [keysAbove] using hj⟩
    · refine ⟨ih.1, fun j hj => ih.2 j (keysAbove_mono hk ?_)⟩
      simp only [keysAbove, decide_eq_true_eq] at hj; omega

/-- What a table holds after an entry was set. -/
theorem tget_above {α : Type} {d : α} {t : Table α} {j k : Nat} [DecidableEq α] (hw : twf d t = true) (h : keysAbove k t = true) (hj : j ≤ k) :
    tget d t j = d := by
  induction t generalizing k with
  | nil => rfl
  | cons e r ih =>
    obtain ⟨k', w⟩ := e
    simp only [twf, Bool.and_eq_true] at hw
    simp only [keysAbove, decide_eq_true_eq] at h
    rw [tget, if_neg (by omega)]
    exact ih hw.2 hw.1.2 (by omega)

/-- The entry just set (of a table in canonical form). -/
theorem tget_tset_same {α : Type} [DecidableEq α] {d : α} {t : Table α} {k : Nat} {v : α} (h : twf d t = true) :
    tget d (tset d t k v) k = v := by
  induction t with
  | nil => unfold tset; split <;> simp_all [tget]
  | cons e r ih =>
    obtain ⟨k', w⟩ := e
    have hw := h
    simp only [twf, Bool.and_eq_true] at h
    unfold tset
    split
    · split
      · rename_i hk hv
        rw [hv]; exact tget_above (k := k) hw (by simpa [keysAbove] using hk) (Nat.le_refl _)
      · simp [tget]
    · split
      · rename_i hk; subst hk
        split
        · rename_i hv; rw [hv]; exact tget_above h.2 h.1.2 (Nat.le_refl _)
        · simp [tget]
      · rw [tget, if_neg (by omega)]; exact ih h.2

/-- Every other entry stays. -/
theorem tget_tset_other {α : Type} [DecidableEq α] {d : α} {t : Table α} {j k : Nat} {v : α} (h : j ≠ k) :
    tget d (tset d t k v) j = tget d t j := by
  induction t with
  | nil => unfold tset; split <;> simp [tget, h.symm]
  | cons e r ih =>
    obtain ⟨k', w⟩ := e
    unfold tset
    split
    · split <;> simp [tget, h.symm]
    · split
      · rename_i hk; subst hk
        split <;> simp [tget, h.symm]
      · simp [tget, ih]

/-! ## Memory -/

/-- Memory keeps its canonical form. -/
theorem memSet_wf {m : Memory} {a : Nat} {b : Byte} (h : m.wf = true) : (memSet m a b).wf = true := twf_tset h

theorem memWrite_wf {m : Memory} {a : Nat} {bs : List Byte} (h : m.wf = true) : (memWrite m a bs).wf = true := by
  induction bs generalizing m a with
  | nil => exact h
  | cons b bs ih => exact ih (memSet_wf h)

/-- A byte just written, and every other byte. -/
theorem memGet_memSet_same {m : Memory} {a : Nat} {b : Byte} (h : m.wf = true) : memGet (memSet m a b) a = b := tget_tset_same h
theorem memGet_memSet_other {m : Memory} {a c : Nat} {b : Byte} (h : c ≠ a) : memGet (memSet m a b) c = memGet m c := tget_tset_other h

/-! ## The operations that change what `Kept` speaks of -/

theorem kept_of {k : Keep} {s t : State} (h : s.Kept k) (hr : t.regs = s.regs) (hd : t.dram = s.dram)
    (hm : t.hif.hostMem = s.hif.hostMem) (hc : t.mem.credit = s.mem.credit) (hb : t.hif.evtBuf = s.hif.evtBuf)
    (hl : t.hif.evtLog = s.hif.evtLog) (hp : t.pending = s.pending) (ht : t.tclk = s.tclk) (hf : t.free = s.free) : t.Kept k := by
  unfold State.Kept State.Inv; rw [hr, hd, hm, hc, hb, hl, hp, ht, hf]; exact h

theorem setReg_kept {k : Keep} {s : State} {a : Nat} {v : Word64} (h : s.Kept k) : (s.setReg a v).Kept k :=
  ⟨fun e => ⟨twf_tset (h.1 e).1, (h.1 e).2⟩, h.2⟩

theorem hostWrite_kept {k : Keep} {s : State} {a : Nat} {bs : List Byte} (h : s.Kept k) : (s.hostWrite a bs).Kept k :=
  ⟨fun e => ⟨(h.1 e).1, (h.1 e).2.1, memWrite_wf (h.1 e).2.2.1, (h.1 e).2.2.2⟩, h.2⟩

theorem draw_kept {k : Keep} {s : State} {n : Nat} (h : s.Kept k) : (s.draw n).Kept k :=
  ⟨h.1, h.2.1, h.2.2.1, Nat.le_trans h.2.2.2 (Nat.le_add_right _ _)⟩

theorem pokeByte_kept {k : Keep} {s : State} {a : Nat} {b : Byte} (h : s.Kept k) : (s.pokeByte a b).Kept k := by
  unfold State.pokeByte
  split
  · refine ⟨fun e => ⟨(h.1 e).1, ?_, (h.1 e).2.2⟩, h.2⟩
    generalize hz : List.replicate 64 (0 : Byte) = z
    exact memSet_wf (memWrite_wf (h.1 e).2.1)
  · exact ⟨fun e => ⟨(h.1 e).1, memSet_wf (h.1 e).2.1, (h.1 e).2.2⟩, h.2⟩

theorem pokeBytes_kept {k : Keep} {s : State} {a : Nat} {bs : List Byte} (h : s.Kept k) : (s.pokeBytes a bs).Kept k := by
  induction bs generalizing s a with
  | nil => exact h
  | cons b bs ih => exact ih (pokeByte_kept h)

theorem zeroRange_kept {k : Keep} {s : State} {a n : Nat} (h : s.Kept k) : (s.zeroRange a n).Kept k :=
  ⟨fun e => ⟨(h.1 e).1, (twf_filter _ (h.1 e).2.1).1, (h.1 e).2.2⟩, h.2⟩

theorem afterReset_kept {k : Keep} {s : State} {p : PkgInputs} {cold : Bool} (h : s.Kept k) : (s.afterReset p cold).Kept k :=
  ⟨fun e => ⟨(by decide +kernel : twf (0 : Word64) resetRegs = true), rfl, (h.1 e).2.2.1, rfl, fun _ hx => absurd hx List.not_mem_nil,
    Nat.zero_le _, Nat.zero_le _⟩, h.2⟩

theorem lastN_length {α : Type} (n : Nat) (l : List α) : (lastN n l).length ≤ n := by
  unfold lastN
  rw [List.length_drop]
  omega

theorem mem_tset {α : Type} [DecidableEq α] {d : α} {t : Table α} {n : Nat} {v : α} {e : Nat × α} (h : e ∈ tset d t n v) :
    e ∈ t ∨ e = (n, v) := by
  induction t with
  | nil => unfold tset at h; split at h <;> simp_all
  | cons x r ih =>
    obtain ⟨k', w⟩ := x
    unfold tset at h
    split at h
    · split at h
      · exact .inl h
      · exact (List.mem_cons.1 h).symm
    · split at h
      · split at h
        · exact .inl (List.mem_cons_of_mem _ h)
        · rcases List.mem_cons.1 h with h | h
          · exact .inr h
          · exact .inl (List.mem_cons_of_mem _ h)
      · rcases List.mem_cons.1 h with h | h
        · exact .inl (h ▸ List.mem_cons_self)
        · rcases ih h with h | h
          · exact .inl (List.mem_cons_of_mem _ h)
          · exact .inr h

/-- Credits clamped one after the other are canonical and within the bounds. -/
theorem clampAll_ok {key : Nat → Nat} {g : Table Int → Nat → Int} {l : List Nat} {t : Table Int} (hw : twf (0 : Int) t = true)
    (hb : ∀ e ∈ t, -256000 ≤ e.2 ∧ e.2 ≤ 256000) :
    twf (0 : Int) (l.foldl (fun t c => tset 0 t (key c) (max (-256000) (min 256000 (g t c)))) t) = true ∧
      ∀ e ∈ l.foldl (fun t c => tset 0 t (key c) (max (-256000) (min 256000 (g t c)))) t, -256000 ≤ e.2 ∧ e.2 ≤ 256000 := by
  induction l generalizing t with
  | nil => exact ⟨hw, hb⟩
  | cons c l ih =>
    refine ih (twf_tset hw) fun e he => ?_
    rcases mem_tset he with he | he
    · exact hb e he
    · generalize g t c = v at he
      subst he
      dsimp only
      omega

theorem transferWords_kept {k : Keep} {s : State} {a1 a2 a3} (h : s.Kept k) : (s.transferWords a1 a2 a3).Kept k := by
  have hk := fun q4 q5 => clampAll_ok (key := creditKey a1)
    (g := fun t c => tget 0 t (creditKey a1 c) + a3 * s.shareOf c - (if c = a2 then 1000 * a3 else 0)) (l := List.range 17)
    (t := s.mem.credit) q4 q5
  unfold State.transferWords
  extract_lets s'
  have hs : twf (0 : Int) s.mem.credit = true → (∀ e ∈ s.mem.credit, -256000 ≤ e.2 ∧ e.2 ≤ 256000) →
      twf (0 : Int) s' = true ∧ ∀ e ∈ s', -256000 ≤ e.2 ∧ e.2 ≤ 256000 := fun a b => by
    have := hk a b; simp only [s', clampCredit]; exact_mod_cast this
  clear_value s'
  refine ⟨fun e => ?_, h.2⟩
  obtain ⟨q1, q2, q3, q4, q5, q6⟩ := h.1 e
  obtain ⟨c1, c2⟩ := hs q4 q5
  exact ⟨q1, q2, q3, c1, c2, q6⟩

theorem clearCredits_kept {k : Keep} {s : State} {c} (h : s.Kept k) : (s.clearCredits c).Kept k := by
  refine ⟨fun e => ?_, h.2⟩
  obtain ⟨q1, q2, q3, q4, q5, q6⟩ := h.1 e
  exact ⟨q1, q2, q3, (twf_filter _ q4).1, fun x hx => q5 x (List.mem_filter.1 hx).1, q6⟩

theorem setTime96_kept {k : Keep} {s : State} {t : Nat} (h : s.Kept k) : (s.setTime96 t).Kept k := setReg_kept (setReg_kept h)

theorem elapse_kept {k : Keep} {s : State} {n : Nat} (h : s.Kept k) : (s.elapse n).Kept k := by
  unfold State.elapse
  extract_lets s1
  have h1 : s1.Kept k := ⟨h.1, h.2.1, Nat.le_trans h.2.2.1 (Nat.le_add_right _ _), h.2.2.2⟩
  split
  · exact setTime96_kept h1
  · exact h1

end Sys2Proof.Laws
end

