-- ==== Sys2Proof/Laws/KeptOps.lean ====
section
/-! SUPPORT. What every operation of Machine/Ops.lean keeps (`State.Kept`): one lemma for each. -/
set_option linter.unusedSimpArgs false
namespace Sys2Proof.Laws
open Sys2Proof Sys2Proof.Machine

theorem wr_kept {k : Keep} {s : State} {a1 a2} (h : s.Kept k) : (State.wr s a1 a2).Kept k := by
  unfold State.wr
  try simp only [kept_mk, kept_mk_hif, kept_mk_mem, kept_mk_both]
  repeat' first
    | (with_reducible assumption) | (with_reducible intro _) | (with_reducible apply setReg_kept)

theorem wrB_kept {k : Keep} {s : State} {a1 a2} (h : s.Kept k) : (State.wrB s a1 a2).Kept k := by
  unfold State.wrB
  try simp only [kept_mk, kept_mk_hif, kept_mk_mem, kept_mk_both]
  repeat' first
    | (with_reducible assumption) | (with_reducible intro _) | (with_reducible apply wr_kept)

theorem inc_kept {k : Keep} {s : State} {a1 a2} (h : s.Kept k) : (State.inc s a1 a2).Kept k := by
  unfold State.inc
  try simp only [kept_mk, kept_mk_hif, kept_mk_mem, kept_mk_both]
  repeat' first
    | (with_reducible assumption) | (with_reducible intro _) | (with_reducible apply wr_kept) | (with_reducible apply kept_ite)
    | (with_reducible apply kept_ite_fst) | (with_reducible apply out_next) | (with_reducible apply out_ite)
    | (with_reducible apply kept_foldl) | (with_reducible apply kept_foldl_fst)
    | (with_reducible refine kept_fst ?_ (by assumption)) | (split)
    | (simp only [kept_mk, kept_mk_hif, kept_mk_mem, kept_mk_both])

theorem raise_kept {k : Keep} {s : State} {a1 a2} (h : s.Kept k) : (State.raise s a1 a2).Kept k := by
  unfold State.raise
  try simp only [kept_mk, kept_mk_hif, kept_mk_mem, kept_mk_both]
  repeat' first
    | (with_reducible assumption) | (with_reducible intro _) | (with_reducible apply wr_kept)

theorem waitTo_kept {k : Keep} {s : State} {a1} (h : s.Kept k) : (State.waitTo s a1).Kept k := by
  unfold State.waitTo
  try simp only [kept_mk, kept_mk_hif, kept_mk_mem, kept_mk_both]
  repeat' first
    | (with_reducible assumption) | (with_reducible intro _) | (with_reducible apply elapse_kept) | (with_reducible apply kept_ite)

theorem poisonWord_kept {k : Keep} {s : State} {a1} (h : s.Kept k) : (State.poisonWord s a1).Kept k := by
  unfold State.poisonWord
  try simp only [kept_mk, kept_mk_hif, kept_mk_mem, kept_mk_both]
  repeat' first
    | (with_reducible assumption)

theorem setQueue_kept {k : Keep} {s : State} {a1 a2} (h : s.Kept k) : (State.setQueue s a1 a2).Kept k := by
  unfold State.setQueue
  try simp only [kept_mk, kept_mk_hif, kept_mk_mem, kept_mk_both]
  repeat' first
    | (with_reducible assumption)

theorem setColony_kept {k : Keep} {s : State} {a1 a2} (h : s.Kept k) : (State.setColony s a1 a2).Kept k := by
  unfold State.setColony
  try simp only [kept_mk, kept_mk_hif, kept_mk_mem, kept_mk_both]
  repeat' first
    | (with_reducible assumption)

theorem markWaits_kept {k : Keep} {s : State} (h : s.Kept k) : (State.markWaits s).Kept k := by
  unfold State.markWaits
  try simp only [kept_mk, kept_mk_hif, kept_mk_mem, kept_mk_both]
  repeat' first
    | (with_reducible assumption)

theorem memStore_kept {k : Keep} {s : State} {a1 a2} (h : s.Kept k) : (State.memStore s a1 a2).Kept k := by
  unfold State.memStore
  try simp only [kept_mk, kept_mk_hif, kept_mk_mem, kept_mk_both]
  repeat' first
    | (with_reducible assumption) | (with_reducible intro _) | (with_reducible apply markWaits_kept)
    | (with_reducible apply pokeBytes_kept)

theorem hostGets_kept {k : Keep} {s : State} {a1} (h : s.Kept k) : (State.hostGets s a1).Kept k := by
  unfold State.hostGets
  try simp only [kept_mk, kept_mk_hif, kept_mk_mem, kept_mk_both]
  repeat' first
    | (with_reducible assumption) | (with_reducible intro _) | (with_reducible apply kept_ite)
    | (with_reducible apply kept_ite_fst) | (with_reducible apply out_next) | (with_reducible apply out_ite)
    | (with_reducible apply kept_foldl) | (with_reducible apply kept_foldl_fst)
    | (with_reducible refine kept_fst ?_ (by assumption)) | (split)
    | (simp only [kept_mk, kept_mk_hif, kept_mk_mem, kept_mk_both])

theorem msix_kept {k : Keep} {s : State} {a1} (h : s.Kept k) : (State.msix s a1).Kept k := by
  unfold State.msix
  try simp only [kept_mk, kept_mk_hif, kept_mk_mem, kept_mk_both]
  repeat' first
    | (with_reducible assumption) | (with_reducible intro _) | (with_reducible apply kept_ite)
    | (with_reducible apply kept_ite_fst) | (with_reducible apply out_next) | (with_reducible apply out_ite)
    | (with_reducible apply kept_foldl) | (with_reducible apply kept_foldl_fst)
    | (with_reducible refine kept_fst ?_ (by assumption)) | (split) | (simp only [kept_mk, kept_mk_hif, kept_mk_mem, kept_mk_both])

theorem event_kept {k : Keep} {s : State} {a1 a2 a3 a4 a5} (h : s.Kept k) : (s.event a1 a2 a3 a4 a5).Kept k := by
  unfold State.event
  generalize hN : (65536 : Nat) = N
  extract_lets h1 r h2
  have e : h2.hostMem = s.hif.hostMem := rfl
  have hl : h2.evtLog.length ≤ N := lastN_length N _
  rw [← hN] at hl
  have eb : h2.evtBuf = s.hif.evtBuf := rfl
  clear_value h2 r
  split
  · rename_i hu
    refine ⟨fun i => ?_, h.2⟩
    obtain ⟨q1, q2, q3, q4, q5, q6, q7⟩ := h.1 i
    refine ⟨q1, q2, ?_, q4, q5, ?_, hl⟩
    · show h2.hostMem.wf = true
      rw [e]; exact q3
    · show (s.hif.evtBuf ++ [r]).length ≤ 513
      have hu : s.hif.evtBuf.length - (if s.hif.evtBuf.any (·.code == 1) then 1 else 0) < 512 := hu
      rw [List.length_append]
      split at hu <;> simp only [List.length_singleton] <;> omega
  · refine inc_kept ⟨fun i => ?_, h.2⟩
    obtain ⟨q1, q2, q3, q4, q5, q6, q7⟩ := h.1 i
    refine ⟨q1, q2, ?_, q4, q5, ?_, hl⟩
    · show h2.hostMem.wf = true
      rw [e]; exact q3
    · show h2.evtBuf.length ≤ 513
      rw [eb]; exact q6

theorem commandDone_kept {k : Keep} {s : State} {a1 a2 a3} (h : s.Kept k) : (State.commandDone s a1 a2 a3).Kept k := by
  unfold State.commandDone
  try simp only [kept_mk, kept_mk_hif, kept_mk_mem, kept_mk_both]
  repeat' first
    | (with_reducible assumption) | (with_reducible intro _) | (with_reducible apply event_kept)

theorem modThm_kept {k : Keep} {s : State} {a1} (h : s.Kept k) : (State.modThm s a1).Kept k := by
  unfold State.modThm
  try simp only [kept_mk, kept_mk_hif, kept_mk_mem, kept_mk_both]
  repeat' first
    | (with_reducible assumption)

theorem modDom_kept {k : Keep} {s : State} {a1 a2} (h : s.Kept k) : (State.modDom s a1 a2).Kept k := by
  unfold State.modDom
  try simp only [kept_mk, kept_mk_hif, kept_mk_mem, kept_mk_both]
  repeat' first
    | (with_reducible assumption) | (with_reducible intro _) | (with_reducible apply modThm_kept)

theorem dropWindow_kept {k : Keep} {s : State} {a1} (h : s.Kept k) : (State.dropWindow s a1).Kept k := by
  unfold State.dropWindow
  try simp only [kept_mk, kept_mk_hif, kept_mk_mem, kept_mk_both]
  repeat' first
    | (with_reducible assumption) | (with_reducible intro _) | (with_reducible apply modDom_kept)
    | (with_reducible apply kept_ite) | (with_reducible apply kept_ite_fst) | (with_reducible apply out_next)
    | (with_reducible apply out_ite) | (with_reducible apply kept_foldl) | (with_reducible apply kept_foldl_fst)
    | (with_reducible refine kept_fst ?_ (by assumption)) | (split)
    | (simp only [kept_mk, kept_mk_hif, kept_mk_mem, kept_mk_both])

theorem partWindow_kept {k : Keep} {s : State} {a1} (h : s.Kept k) : (State.partWindow s a1).Kept k := by
  unfold State.partWindow
  try simp only [kept_mk, kept_mk_hif, kept_mk_mem, kept_mk_both]
  repeat' first
    | (with_reducible assumption) | (with_reducible intro _) | (with_reducible apply modDom_kept)
    | (with_reducible apply kept_ite) | (with_reducible apply kept_ite_fst) | (with_reducible apply out_next)
    | (with_reducible apply out_ite) | (with_reducible apply kept_foldl) | (with_reducible apply kept_foldl_fst)
    | (with_reducible refine kept_fst ?_ (by assumption)) | (split)
    | (simp only [kept_mk, kept_mk_hif, kept_mk_mem, kept_mk_both])

end Sys2Proof.Laws
end

