-- ==== Sys2Proof/Laws/KeptNetwork.lean ====
section
/-! SUPPORT. What every operation of Machine/Network.lean keeps (`State.Kept`): one lemma for each. -/
set_option linter.unusedSimpArgs false
namespace Sys2Proof.Laws
open Sys2Proof Sys2Proof.Machine

theorem setDmc_kept {k : Keep} {s : State} {a1 a2} (h : s.Kept k) : (State.setDmc s a1 a2).Kept k := by
  unfold State.setDmc
  try simp only [kept_mk, kept_mk_hif, kept_mk_mem, kept_mk_both]
  repeat' first
    | (with_reducible assumption)

theorem setChan_kept {k : Keep} {s : State} {a1 a2 a3} (h : s.Kept k) : (State.setChan s a1 a2 a3).Kept k := by
  unfold State.setChan
  try simp only [kept_mk, kept_mk_hif, kept_mk_mem, kept_mk_both]
  repeat' first
    | (with_reducible assumption) | (with_reducible intro _) | (with_reducible apply setDmc_kept)

theorem countTransfer_kept {k : Keep} {s : State} {a1 a2 a3 a4 a5} (h : s.Kept k) :
    (State.countTransfer s a1 a2 a3 a4 a5).Kept k := by
  unfold State.countTransfer
  try simp only [kept_mk, kept_mk_hif, kept_mk_mem, kept_mk_both]
  repeat' first
    | (with_reducible assumption)

theorem carry_kept {k : Keep} {s : State} {a1 a2 a3 a4 a5 a6} (h : s.Kept k) : (State.carry s a1 a2 a3 a4 a5 a6).Kept k := by
  unfold State.carry
  try simp only [kept_mk, kept_mk_hif, kept_mk_mem, kept_mk_both]
  repeat' first
    | (with_reducible assumption) | (with_reducible intro _) | (with_reducible apply countTransfer_kept)
    | (with_reducible apply transferWords_kept)

theorem noteTurn_kept {k : Keep} {s : State} {a1 a2} (h : s.Kept k) : (State.noteTurn s a1 a2).Kept k := by
  unfold State.noteTurn
  try simp only [kept_mk, kept_mk_hif, kept_mk_mem, kept_mk_both]
  repeat' first
    | (with_reducible assumption) | (with_reducible intro _) | (with_reducible apply kept_ite)
    | (with_reducible apply kept_ite_fst) | (with_reducible apply out_next) | (with_reducible apply out_ite)
    | (with_reducible apply kept_foldl) | (with_reducible apply kept_foldl_fst)
    | (with_reducible refine kept_fst ?_ (by assumption)) | (split) | (simp only [kept_mk, kept_mk_hif, kept_mk_mem, kept_mk_both])

theorem cross_kept {k : Keep} {s : State} {a1 a2 a3 a4 a5 a6} (h : s.Kept k) : (State.cross s a1 a2 a3 a4 a5 a6).Kept k := by
  unfold State.cross
  try simp only [kept_mk, kept_mk_hif, kept_mk_mem, kept_mk_both]
  repeat' first
    | (with_reducible assumption) | (with_reducible intro _) | (with_reducible apply noteTurn_kept)
    | (with_reducible apply carry_kept)

theorem afterAccess_kept {k : Keep} {s : State} {a1 a2 a3 a4} (h : s.Kept k) : (State.afterAccess s a1 a2 a3 a4).Kept k := by
  unfold State.afterAccess
  try simp only [kept_mk, kept_mk_hif, kept_mk_mem, kept_mk_both]
  repeat' first
    | (with_reducible assumption) | (with_reducible intro _) | (with_reducible apply setChan_kept)
    | (with_reducible apply kept_ite) | (with_reducible apply kept_ite_fst) | (with_reducible apply out_next)
    | (with_reducible apply out_ite) | (with_reducible apply kept_foldl) | (with_reducible apply kept_foldl_fst)
    | (with_reducible refine kept_fst ?_ (by assumption)) | (split)
    | (simp only [kept_mk, kept_mk_hif, kept_mk_mem, kept_mk_both])

theorem passBurst_kept {k : Keep} {s : State} {a1 a2 a3 a4} (h : s.Kept k) : (s.passBurst a1 a2 a3 a4).Kept k := by
  unfold State.passBurst
  extract_lets
  split
  · exact h
  · exact afterAccess_kept (noteTurn_kept (carry_kept (kept_foldl (fun _ _ hs => cross_kept hs) h)))

theorem watched_kept {k : Keep} {s : State} (h : s.Kept k) : (State.watched s).Kept k := by
  unfold State.watched
  try simp only [kept_mk, kept_mk_hif, kept_mk_mem, kept_mk_both]
  repeat' first
    | (with_reducible assumption) | (with_reducible intro _) | (with_reducible apply kept_ite)
    | (with_reducible apply kept_ite_fst) | (with_reducible apply out_next) | (with_reducible apply out_ite)
    | (with_reducible apply kept_foldl) | (with_reducible apply kept_foldl_fst)
    | (with_reducible refine kept_fst ?_ (by assumption)) | (split)
    | (simp only [kept_mk, kept_mk_hif, kept_mk_mem, kept_mk_both])

theorem unwatched_kept {k : Keep} {s : State} (h : s.Kept k) : (State.unwatched s).Kept k := by
  unfold State.unwatched
  try simp only [kept_mk, kept_mk_hif, kept_mk_mem, kept_mk_both]
  repeat' first
    | (with_reducible assumption) | (with_reducible intro _) | (with_reducible apply kept_ite)
    | (with_reducible apply kept_ite_fst) | (with_reducible apply out_next) | (with_reducible apply out_ite)
    | (with_reducible apply kept_foldl) | (with_reducible apply kept_foldl_fst)
    | (with_reducible refine kept_fst ?_ (by assumption)) | (split)
    | (simp only [kept_mk, kept_mk_hif, kept_mk_mem, kept_mk_both])

theorem unlessStalled_kept {k : Keep} {s : State} {a1} (h : s.Kept k) (ha1 : ∀ x, x.Kept k → OutKept k (a1 x)) :
    OutKept k (State.unlessStalled s a1) := by
  unfold State.unlessStalled
  split
  · exact ha1 _ h
  · have hw := ha1 _ (watched_kept h)
    split
    · rename_i t e
      have ht := hw t e
      split
      · exact out_next h
      · exact out_next (unwatched_kept ht)
    · exact hw

end Sys2Proof.Laws
end

