-- ==== Sys2Proof/Laws/KeptQueue.lean ====
section
/-! SUPPORT. What every operation of Machine/Queue.lean keeps (`State.Kept`): one lemma for each. -/
set_option linter.unusedSimpArgs false
namespace Sys2Proof.Laws
open Sys2Proof Sys2Proof.Machine

theorem putCompletion_kept {k : Keep} {s : State} {a1 a2 a3 a4 a5 a6 a7} (h : s.Kept k) : (s.putCompletion a1 a2 a3 a4 a5 a6 a7).Kept k := by
  unfold State.putCompletion
  extract_lets i s1 wrap s2 s3 s4
  have h2 : s2.Kept k := wr_kept (hostWrite_kept h)
  have h3 : s3.Kept k := by
    unfold s3; split
    · exact wr_kept h2
    · exact h2
  have h4 : s4.Kept k := by
    unfold s4; split
    · exact msix_kept h3
    · exact h3
  split
  · exact kept_of h4 rfl rfl rfl rfl rfl rfl rfl rfl rfl
  · exact h4

theorem endList_kept {k : Keep} {s : State} {a1 a2 a3} (h : s.Kept k) : (State.endList s a1 a2 a3).Kept k := by
  unfold State.endList
  try simp only [kept_mk, kept_mk_hif, kept_mk_mem, kept_mk_both]
  repeat' first
    | (with_reducible assumption) | (with_reducible intro _) | (with_reducible apply setQueue_kept)
    | (with_reducible apply wr_kept) | (with_reducible apply kept_ite) | (with_reducible apply kept_ite_fst)
    | (with_reducible apply out_next) | (with_reducible apply out_ite) | (with_reducible apply kept_foldl)
    | (with_reducible apply kept_foldl_fst) | (with_reducible refine kept_fst ?_ (by assumption)) | (split)

theorem cutRecs_kept {k : Keep} {s : State} {a1 a2} (h : s.Kept k) : (State.cutRecs s a1 a2).Kept k := by
  unfold State.cutRecs
  try simp only [kept_mk, kept_mk_hif, kept_mk_mem, kept_mk_both]
  repeat' first
    | (with_reducible assumption) | (with_reducible intro _) | (with_reducible apply setQueue_kept)

theorem discardLists_kept {k : Keep} {s : State} {a1} (h : s.Kept k) : (State.discardLists s a1).Kept k := by
  unfold State.discardLists
  try simp only [kept_mk, kept_mk_hif, kept_mk_mem, kept_mk_both]
  repeat' first
    | (with_reducible assumption) | (with_reducible intro _) | (with_reducible apply setQueue_kept)
    | (with_reducible apply wr_kept) | (with_reducible apply kept_ite)

theorem retireOne_kept {k : Keep} {s : State} {a1 : ℕ} {t : State} (h : s.Kept k) (e : (State.retireOne s a1) = some t) : t.Kept k := by
  unfold State.retireOne at e
  extract_lets q at e
  split at e
  · contradiction
  · split at e
    · extract_lets l lo la lf sk s1 s2 at e
      have h2 : s2.Kept k := wr_kept (putCompletion_kept (setQueue_kept h))
      split at e
      · split at e
        · split at e
          · rw [← Option.some.inj e]
            split
            · exact endList_kept h2
            · exact h2
          · rw [← Option.some.inj e]; exact h2
        · rw [← Option.some.inj e]; exact wr_kept h
      · rw [← Option.some.inj e]; exact setQueue_kept h
    · contradiction

theorem retireLoop_kept {k : Keep} {s : State} {a0 a1} (h : s.Kept k) : (State.retireLoop a0 a1 s).Kept k := by
  induction a1 generalizing s with
  | zero => exact h
  | succ n ih =>
    unfold State.retireLoop
    split
    · exact h
    · rename_i t e
      have ht := retireOne_kept h e
      split
      · exact ht
      · exact ih ht

theorem retire_kept {k : Keep} {s : State} {a1} (h : s.Kept k) : (State.retire s a1).Kept k := by
  unfold State.retire
  try simp only [kept_mk, kept_mk_hif, kept_mk_mem, kept_mk_both]
  repeat' first
    | (with_reducible assumption) | (with_reducible intro _) | (with_reducible apply retireLoop_kept)
    | (with_reducible apply discardLists_kept) | (with_reducible apply kept_ite)

theorem endRec_kept {k : Keep} {s : State} {a1 a2 a3} (h : s.Kept k) : (State.endRec s a1 a2 a3).Kept k := by
  unfold State.endRec
  try simp only [kept_mk, kept_mk_hif, kept_mk_mem, kept_mk_both]
  repeat' first
    | (with_reducible assumption) | (with_reducible intro _) | (with_reducible apply setQueue_kept)
    | (with_reducible apply wr_kept) | (with_reducible apply cutRecs_kept) | (with_reducible apply retire_kept)
    | (with_reducible apply kept_ite) | (with_reducible apply kept_ite_fst) | (with_reducible apply out_next)
    | (with_reducible apply out_ite) | (with_reducible apply kept_foldl) | (with_reducible apply kept_foldl_fst)
    | (with_reducible refine kept_fst ?_ (by assumption)) | (split)

theorem completeRec_kept {k : Keep} {s : State} {a1 a2 a3} (h : s.Kept k) : (State.completeRec s a1 a2 a3).Kept k := by
  unfold State.completeRec
  try simp only [kept_mk, kept_mk_hif, kept_mk_mem, kept_mk_both]
  repeat' first
    | (with_reducible assumption) | (with_reducible intro _) | (with_reducible apply endRec_kept)

theorem statusRec_kept {k : Keep} {s : State} {a1 a2 a3 a4} (h : s.Kept k) : (State.statusRec s a1 a2 a3 a4).Kept k := by
  unfold State.statusRec
  try simp only [kept_mk, kept_mk_hif, kept_mk_mem, kept_mk_both]
  repeat' first
    | (with_reducible assumption) | (with_reducible intro _) | (with_reducible apply endRec_kept)

theorem faultRec_kept {k : Keep} {s : State} {a1 a2 a3 a4 a5} (h : s.Kept k) : (State.faultRec s a1 a2 a3 a4 a5).Kept k := by
  unfold State.faultRec
  try simp only [kept_mk, kept_mk_hif, kept_mk_mem, kept_mk_both]
  repeat' first
    | (with_reducible assumption) | (with_reducible intro _) | (with_reducible apply endRec_kept)
    | (with_reducible apply kept_ite) | (with_reducible apply kept_ite_fst) | (with_reducible apply out_next)
    | (with_reducible apply out_ite) | (with_reducible apply kept_foldl) | (with_reducible apply kept_foldl_fst)
    | (with_reducible refine kept_fst ?_ (by assumption)) | (split)
    | (simp only [kept_mk, kept_mk_hif, kept_mk_mem, kept_mk_both])

theorem modRec_kept {k : Keep} {s : State} {a1 a2 a3} (h : s.Kept k) : (State.modRec s a1 a2 a3).Kept k := by
  unfold State.modRec
  try simp only [kept_mk, kept_mk_hif, kept_mk_mem, kept_mk_both]
  repeat' first
    | (with_reducible assumption) | (with_reducible intro _) | (with_reducible apply setQueue_kept)

theorem runRec_kept {k : Keep} {s : State} {a1 a2} (h : s.Kept k) : (State.runRec s a1 a2).Kept k := by
  unfold State.runRec
  try simp only [kept_mk, kept_mk_hif, kept_mk_mem, kept_mk_both]
  repeat' first
    | (with_reducible assumption) | (with_reducible intro _) | (with_reducible apply modRec_kept)
    | (with_reducible apply setQueue_kept) | (with_reducible apply kept_ite) | (with_reducible apply kept_ite_fst)
    | (with_reducible apply out_next) | (with_reducible apply out_ite) | (with_reducible apply kept_foldl)
    | (with_reducible apply kept_foldl_fst) | (with_reducible refine kept_fst ?_ (by assumption)) | (split)
    | (simp only [kept_mk, kept_mk_hif, kept_mk_mem, kept_mk_both])

theorem fetchRecord_kept {k : Keep} {s : State} {a1} (h : s.Kept k) : (State.fetchRecord s a1).Kept k := by
  unfold State.fetchRecord
  try simp only [kept_mk, kept_mk_hif, kept_mk_mem, kept_mk_both]
  repeat' first
    | (with_reducible assumption) | (with_reducible intro _) | (with_reducible apply wr_kept)
    | (with_reducible apply setQueue_kept) | (with_reducible apply faultRec_kept) | (with_reducible apply kept_ite)
    | (with_reducible apply kept_ite_fst) | (with_reducible apply out_next) | (with_reducible apply out_ite)
    | (with_reducible apply kept_foldl) | (with_reducible apply kept_foldl_fst)
    | (with_reducible refine kept_fst ?_ (by assumption)) | (split)

theorem abortQueue_kept {k : Keep} {s : State} {a1} (h : s.Kept k) : (State.abortQueue s a1).Kept k := by
  unfold State.abortQueue
  try simp only [kept_mk, kept_mk_hif, kept_mk_mem, kept_mk_both]
  repeat' first
    | (with_reducible assumption) | (with_reducible intro _) | (with_reducible apply setQueue_kept)
    | (with_reducible apply wr_kept) | (with_reducible apply retireLoop_kept)

end Sys2Proof.Laws
end

