-- ==== Sys2Proof/Laws/KeptAccess.lean ====
section
/-! SUPPORT. What every operation of Machine/Access.lean keeps (`State.Kept`): one lemma for each. -/
set_option linter.unusedSimpArgs false
namespace Sys2Proof.Laws
open Sys2Proof Sys2Proof.Machine

theorem violation_kept {k : Keep} {s : State} {a1 a2 a3} (h : s.Kept k) : (State.violation s a1 a2 a3).Kept k := by
  unfold State.violation
  try simp only [kept_mk, kept_mk_hif, kept_mk_mem, kept_mk_both]
  repeat' first
    | (with_reducible assumption) | (with_reducible intro _) | (with_reducible apply inc_kept) | (with_reducible apply event_kept)
    | (with_reducible apply kept_ite) | (with_reducible apply kept_ite_fst) | (with_reducible apply out_next)
    | (with_reducible apply out_ite) | (with_reducible apply kept_foldl) | (with_reducible apply kept_foldl_fst)
    | (with_reducible refine kept_fst ?_ (by assumption)) | (split) | (simp only [kept_mk, kept_mk_hif, kept_mk_mem, kept_mk_both])

theorem logDram_kept {k : Keep} {s : State} {a1 a2 a3 a4 a5 a6 a7 a8 a9} (h : s.Kept k) :
    (State.logDram s a1 a2 a3 a4 a5 a6 a7 a8 a9).Kept k := by
  unfold State.logDram
  try simp only [kept_mk, kept_mk_hif, kept_mk_mem, kept_mk_both]
  repeat' first
    | (with_reducible assumption) | (with_reducible intro _) | (with_reducible apply wr_kept) | (with_reducible apply inc_kept)
    | (with_reducible apply event_kept) | (with_reducible apply kept_ite) | (with_reducible apply kept_ite_fst)
    | (with_reducible apply out_next) | (with_reducible apply out_ite) | (with_reducible apply kept_foldl)
    | (with_reducible apply kept_foldl_fst) | (with_reducible refine kept_fst ?_ (by assumption)) | (split)
    | (simp only [kept_mk, kept_mk_hif, kept_mk_mem, kept_mk_both])

theorem findWord_kept {k : Keep} {s : State} {a1 a2 a3} (h : s.Kept k) : (State.findWord s a1 a2 a3).Kept k := by
  unfold State.findWord
  extract_lets _ _ t d sys
  have h1 : t.Kept k := h
  split
  · exact inc_kept h1
  · exact logDram_kept (poisonWord_kept h1)

theorem findSpan_kept {k : Keep} {s : State} {a1 a2 a3} (h : s.Kept k) : (State.findSpan s a1 a2 a3).Kept k := by
  unfold State.findSpan
  try simp only [kept_mk, kept_mk_hif, kept_mk_mem, kept_mk_both]
  repeat' first
    | (with_reducible assumption) | (with_reducible intro _) | (with_reducible apply findWord_kept)
    | (with_reducible apply kept_ite) | (with_reducible apply kept_ite_fst) | (with_reducible apply out_next)
    | (with_reducible apply out_ite) | (with_reducible apply kept_foldl) | (with_reducible apply kept_foldl_fst)
    | (with_reducible refine kept_fst ?_ (by assumption)) | (split)
    | (simp only [kept_mk, kept_mk_hif, kept_mk_mem, kept_mk_both])

theorem passRequest_kept {k : Keep} {s : State} {a1 a2 a3 a4} (h : s.Kept k) : (State.passRequest s a1 a2 a3 a4).Kept k := by
  unfold State.passRequest
  try simp only [kept_mk, kept_mk_hif, kept_mk_mem, kept_mk_both]
  repeat' first
    | (with_reducible assumption) | (with_reducible intro _) | (with_reducible apply violation_kept)
    | (with_reducible apply passBurst_kept) | (with_reducible apply kept_ite)

theorem passSpan_kept {k : Keep} {s : State} {a1 a2 a3 a4} (h : s.Kept k) : (State.passSpan s a1 a2 a3 a4).Kept k := by
  unfold State.passSpan
  try simp only [kept_mk, kept_mk_hif, kept_mk_mem, kept_mk_both]
  repeat' first
    | (with_reducible assumption) | (with_reducible intro _) | (with_reducible apply passRequest_kept)
    | (with_reducible apply kept_ite) | (with_reducible apply kept_ite_fst) | (with_reducible apply out_next)
    | (with_reducible apply out_ite) | (with_reducible apply kept_foldl)

theorem devLoad_kept {k : Keep} {s : State} {a1 a2 a3} (h : s.Kept k) : (State.devLoad s a1 a2 a3).1.Kept k := by
  unfold State.devLoad
  try simp only [kept_mk, kept_mk_hif, kept_mk_mem, kept_mk_both]
  repeat' first
    | (with_reducible assumption) | (with_reducible intro _) | (with_reducible apply findSpan_kept)
    | (with_reducible apply passSpan_kept) | (with_reducible apply kept_ite) | (with_reducible apply kept_ite_fst)
    | (with_reducible apply out_next) | (with_reducible apply out_ite) | (with_reducible apply kept_foldl)
    | (with_reducible apply kept_foldl_fst) | (with_reducible refine kept_fst ?_ (by assumption)) | (split)
    | (simp only [kept_mk, kept_mk_hif, kept_mk_mem, kept_mk_both])

theorem storeSpan_kept {k : Keep} {s : State} {a1 a2 a3} (h : s.Kept k) : (State.storeSpan s a1 a2 a3).Kept k := by
  unfold State.storeSpan
  try simp only [kept_mk, kept_mk_hif, kept_mk_mem, kept_mk_both]
  repeat' first
    | (with_reducible assumption) | (with_reducible intro _) | (with_reducible apply passRequest_kept)
    | (with_reducible apply findWord_kept) | (with_reducible apply pokeBytes_kept) | (with_reducible apply kept_ite)
    | (with_reducible apply kept_ite_fst) | (with_reducible apply out_next) | (with_reducible apply out_ite)
    | (with_reducible apply kept_foldl) | (with_reducible apply kept_foldl_fst)
    | (with_reducible refine kept_fst ?_ (by assumption)) | (split)
    | (simp only [kept_mk, kept_mk_hif, kept_mk_mem, kept_mk_both])

theorem devStore_kept {k : Keep} {s : State} {a1 a2 a3} (h : s.Kept k) : (State.devStore s a1 a2 a3).1.Kept k := by
  unfold State.devStore
  try simp only [kept_mk, kept_mk_hif, kept_mk_mem, kept_mk_both]
  repeat' first
    | (with_reducible assumption) | (with_reducible intro _) | (with_reducible apply markWaits_kept)
    | (with_reducible apply storeSpan_kept)

theorem objLoad_kept {k : Keep} {s : State} {a1 a2 a3 a4} (h : s.Kept k) : (State.objLoad s a1 a2 a3 a4).1.Kept k := by
  unfold State.objLoad
  try simp only [kept_mk, kept_mk_hif, kept_mk_mem, kept_mk_both]
  repeat' first
    | (with_reducible assumption) | (with_reducible intro _) | (with_reducible apply devLoad_kept)

theorem objStore_kept {k : Keep} {s : State} {a1 a2 a3 a4} (h : s.Kept k) : (State.objStore s a1 a2 a3 a4).1.Kept k := by
  unfold State.objStore
  try simp only [kept_mk, kept_mk_hif, kept_mk_mem, kept_mk_both]
  repeat' first
    | (with_reducible assumption) | (with_reducible intro _) | (with_reducible apply devStore_kept)

theorem objsStatus_kept {k : Keep} {s : State} {a1 a2} (h : s.Kept k) : (State.objsStatus s a1 a2).1.Kept k := by
  induction a2 generalizing s with
  | nil => exact h
  | cons e l ih =>
    unfold State.objsStatus
    split
    rename_i s1 st x e
    have h1 : s1.Kept k := kept_fst (devLoad_kept h) e
    split
    · exact h1
    · exact ih h1

theorem undefine_kept {k : Keep} {s : State} {a1 a2} (h : s.Kept k) : (State.undefine s a1 a2).Kept k := by
  unfold State.undefine
  try simp only [kept_mk, kept_mk_hif, kept_mk_mem, kept_mk_both]
  repeat' first
    | (with_reducible assumption) | (with_reducible intro _) | (with_reducible apply draw_kept)
    | (with_reducible apply memStore_kept)

end Sys2Proof.Laws
end

