-- ==== Sys2Proof/Laws/KeptHoney.lean ====
section
/-! SUPPORT. What every operation of Machine/Honey.lean keeps (`State.Kept`): one lemma for each. -/
set_option linter.unusedSimpArgs false
namespace Sys2Proof.Laws
open Sys2Proof Sys2Proof.Machine

theorem setPage_kept {k : Keep} {s : State} {a1 a2} (h : s.Kept k) : (State.setPage s a1 a2).Kept k := by
  unfold State.setPage
  try simp only [kept_mk, kept_mk_hif, kept_mk_mem, kept_mk_both]
  repeat' first
    | (with_reducible assumption) | (with_reducible intro _) | (with_reducible apply passSpan_kept)
    | (with_reducible apply pokeBytes_kept) | (with_reducible apply kept_ite) | (with_reducible apply kept_ite_fst)
    | (with_reducible apply out_next) | (with_reducible apply out_ite) | (with_reducible apply kept_foldl)
    | (with_reducible apply kept_foldl_fst) | (with_reducible refine kept_fst ?_ (by assumption)) | (split)
    | (simp only [kept_mk, kept_mk_hif, kept_mk_mem, kept_mk_both])

theorem honeyTick_kept {k : Keep} {s : State} (h : s.Kept k) : (State.honeyTick s).Kept k := by
  unfold State.honeyTick
  try simp only [kept_mk, kept_mk_hif, kept_mk_mem, kept_mk_both]
  repeat' first
    | (with_reducible assumption)

theorem readMap_kept {k : Keep} {s : State} {a1} (h : s.Kept k) : (State.readMap s a1).Kept k := by
  unfold State.readMap
  try simp only [kept_mk, kept_mk_hif, kept_mk_mem, kept_mk_both]
  repeat' first
    | (with_reducible assumption) | (with_reducible intro _) | (with_reducible apply devLoad_kept)
    | (with_reducible apply kept_ite) | (with_reducible apply kept_ite_fst) | (with_reducible apply out_next)
    | (with_reducible apply out_ite) | (with_reducible apply kept_foldl) | (with_reducible apply kept_foldl_fst)
    | (with_reducible refine kept_fst ?_ (by assumption)) | (split)
    | (simp only [kept_mk, kept_mk_hif, kept_mk_mem, kept_mk_both])

theorem touchPage_kept {k : Keep} {s : State} {a1} (h : s.Kept k) : (State.touchPage s a1).Kept k := by
  unfold State.touchPage
  try simp only [kept_mk, kept_mk_hif, kept_mk_mem, kept_mk_both]
  repeat' first
    | (with_reducible assumption) | (with_reducible intro _) | (with_reducible apply readMap_kept)
    | (with_reducible apply setPage_kept) | (with_reducible apply kept_ite) | (with_reducible apply kept_ite_fst)
    | (with_reducible apply out_next) | (with_reducible apply out_ite) | (with_reducible apply kept_foldl)
    | (with_reducible apply kept_foldl_fst) | (with_reducible refine kept_fst ?_ (by assumption)) | (split)
    | (simp only [kept_mk, kept_mk_hif, kept_mk_mem, kept_mk_both])

theorem readEntries_kept {k : Keep} {s : State} {a1 a2 a3 a4} (h : s.Kept k) : (State.readEntries s a1 a2 a3 a4).Kept k := by
  unfold State.readEntries
  try simp only [kept_mk, kept_mk_hif, kept_mk_mem, kept_mk_both]
  repeat' first
    | (with_reducible assumption) | (with_reducible intro _) | (with_reducible apply passSpan_kept)
    | (with_reducible apply kept_ite) | (with_reducible apply kept_ite_fst) | (with_reducible apply out_next)
    | (with_reducible apply out_ite) | (with_reducible apply kept_foldl) | (with_reducible apply kept_foldl_fst)
    | (with_reducible refine kept_fst ?_ (by assumption)) | (split)
    | (simp only [kept_mk, kept_mk_hif, kept_mk_mem, kept_mk_both])

theorem setListEntry_kept {k : Keep} {s : State} {a1 a2 a3 a4} (h : s.Kept k) : (State.setListEntry s a1 a2 a3 a4).Kept k := by
  unfold State.setListEntry
  try simp only [kept_mk, kept_mk_hif, kept_mk_mem, kept_mk_both]
  repeat' first
    | (with_reducible assumption) | (with_reducible intro _) | (with_reducible apply devStore_kept)

theorem setSeq_kept {k : Keep} {s : State} {a1 a2 a3} (h : s.Kept k) : (State.setSeq s a1 a2 a3).Kept k := by
  unfold State.setSeq
  try simp only [kept_mk, kept_mk_hif, kept_mk_mem, kept_mk_both]
  repeat' first
    | (with_reducible assumption) | (with_reducible intro _) | (with_reducible apply kept_ite)
    | (with_reducible apply kept_ite_fst) | (with_reducible apply out_next) | (with_reducible apply out_ite)
    | (with_reducible apply kept_foldl) | (with_reducible apply kept_foldl_fst)
    | (with_reducible refine kept_fst ?_ (by assumption)) | (split) | (simp only [kept_mk, kept_mk_hif, kept_mk_mem, kept_mk_both])

theorem freePage_kept {k : Keep} {s : State} {a1} (h : s.Kept k) : (State.freePage s a1).Kept k := by
  unfold State.freePage
  try simp only [kept_mk, kept_mk_hif, kept_mk_mem, kept_mk_both]
  repeat' first
    | (with_reducible assumption) | (with_reducible intro _) | (with_reducible apply honeyTick_kept)
    | (with_reducible apply setPage_kept)

theorem unrefPage_kept {k : Keep} {s : State} {a1} (h : s.Kept k) : (State.unrefPage s a1).Kept k := by
  unfold State.unrefPage
  try simp only [kept_mk, kept_mk_hif, kept_mk_mem, kept_mk_both]
  repeat' first
    | (with_reducible assumption) | (with_reducible intro _) | (with_reducible apply setPage_kept)
    | (with_reducible apply freePage_kept) | (with_reducible apply kept_ite)

theorem closePage_kept {k : Keep} {s : State} {a1} (h : s.Kept k) : (State.closePage s a1).Kept k := by
  unfold State.closePage
  try simp only [kept_mk, kept_mk_hif, kept_mk_mem, kept_mk_both]
  repeat' first
    | (with_reducible assumption) | (with_reducible intro _) | (with_reducible apply setPage_kept)
    | (with_reducible apply freePage_kept) | (with_reducible apply kept_ite)

theorem openPage_kept {k : Keep} {s : State} {a1 a2 a3 a4} (h : s.Kept k) : (State.openPage s a1 a2 a3 a4).1.Kept k := by
  unfold State.openPage
  try simp only [kept_mk, kept_mk_hif, kept_mk_mem, kept_mk_both]
  repeat' first
    | (with_reducible assumption) | (with_reducible intro _) | (with_reducible apply touchPage_kept)
    | (with_reducible apply setPage_kept) | (with_reducible apply kept_ite) | (with_reducible apply kept_ite_fst)

theorem closePages_kept {k : Keep} {s : State} {a1} (h : s.Kept k) : (State.closePages s a1).Kept k := by
  unfold State.closePages
  try simp only [kept_mk, kept_mk_hif, kept_mk_mem, kept_mk_both]
  repeat' first
    | (with_reducible assumption) | (with_reducible intro _) | (with_reducible apply closePage_kept)
    | (with_reducible apply kept_ite) | (with_reducible apply kept_ite_fst) | (with_reducible apply out_next)
    | (with_reducible apply out_ite) | (with_reducible apply kept_foldl)

theorem evict_kept {k : Keep} {s : State} {a1 a2} (h : s.Kept k) : (State.evict s a1 a2).Kept k := by
  unfold State.evict
  try simp only [kept_mk, kept_mk_hif, kept_mk_mem, kept_mk_both]
  repeat' first
    | (with_reducible assumption) | (with_reducible intro _) | (with_reducible apply readEntries_kept)
    | (with_reducible apply setListEntry_kept) | (with_reducible apply kept_ite) | (with_reducible apply kept_ite_fst)
    | (with_reducible apply out_next) | (with_reducible apply out_ite) | (with_reducible apply kept_foldl)
    | (with_reducible apply kept_foldl_fst) | (with_reducible refine kept_fst ?_ (by assumption)) | (split)
    | (simp only [kept_mk, kept_mk_hif, kept_mk_mem, kept_mk_both])

theorem grantPage_kept {k : Keep} {s : State} {a1 a2 a3 a4 a5} (h : s.Kept k) : (State.grantPage s a1 a2 a3 a4 a5).Kept k := by
  unfold State.grantPage
  try simp only [kept_mk, kept_mk_hif, kept_mk_mem, kept_mk_both]
  repeat' first
    | (with_reducible assumption) | (with_reducible intro _) | (with_reducible apply readEntries_kept)
    | (with_reducible apply setPage_kept) | (with_reducible apply honeyTick_kept) | (with_reducible apply devStore_kept)
    | (with_reducible apply setListEntry_kept) | (with_reducible apply kept_ite) | (with_reducible apply kept_ite_fst)
    | (with_reducible apply out_next) | (with_reducible apply out_ite) | (with_reducible apply kept_foldl)
    | (with_reducible apply kept_foldl_fst) | (with_reducible refine kept_fst ?_ (by assumption)) | (split)
    | (simp only [kept_mk, kept_mk_hif, kept_mk_mem, kept_mk_both])

theorem choosePage_kept {k : Keep} {s : State} {a1 a2 a3} (h : s.Kept k) : (s.choosePage a1 a2 a3).1.Kept k := by
  induction a3 generalizing s with
  | zero => exact h
  | succ n ih =>
    unfold State.choosePage
    extract_lets free pick
    clear_value pick
    split
    · exact h
    · extract_lets s1
      split
      · exact ih (touchPage_kept h)
      · exact touchPage_kept h

theorem allocate_kept {k : Keep} {s : State} {a1 a2 a3 a4 a5} (h : s.Kept k) : (State.allocate s a1 a2 a3 a4 a5).1.Kept k := by
  unfold State.allocate
  try simp only [kept_mk, kept_mk_hif, kept_mk_mem, kept_mk_both]
  repeat' first
    | (with_reducible assumption) | (with_reducible intro _) | (with_reducible apply choosePage_kept)
    | (with_reducible apply grantPage_kept) | (with_reducible apply evict_kept) | (with_reducible apply kept_ite)
    | (with_reducible apply kept_ite_fst) | (with_reducible apply out_next) | (with_reducible apply out_ite)
    | (with_reducible apply kept_foldl) | (with_reducible apply kept_foldl_fst)
    | (with_reducible refine kept_fst ?_ (by assumption)) | (split)

theorem returnPage_kept {k : Keep} {s : State} {a1 a2 a3} (h : s.Kept k) : (State.returnPage s a1 a2 a3).Kept k := by
  unfold State.returnPage
  try simp only [kept_mk, kept_mk_hif, kept_mk_mem, kept_mk_both]
  repeat' first
    | (with_reducible assumption) | (with_reducible intro _) | (with_reducible apply readEntries_kept)
    | (with_reducible apply unrefPage_kept) | (with_reducible apply setPage_kept) | (with_reducible apply setListEntry_kept)
    | (with_reducible apply kept_ite) | (with_reducible apply kept_ite_fst) | (with_reducible apply out_next)
    | (with_reducible apply out_ite) | (with_reducible apply kept_foldl) | (with_reducible apply kept_foldl_fst)
    | (with_reducible refine kept_fst ?_ (by assumption)) | (split)
    | (simp only [kept_mk, kept_mk_hif, kept_mk_mem, kept_mk_both])

theorem returnFrom_kept {k : Keep} {s : State} {a1 a2 a3} (h : s.Kept k) : (State.returnFrom s a1 a2 a3).Kept k := by
  unfold State.returnFrom
  try simp only [kept_mk, kept_mk_hif, kept_mk_mem, kept_mk_both]
  repeat' first
    | (with_reducible assumption) | (with_reducible intro _) | (with_reducible apply returnPage_kept)
    | (with_reducible apply kept_ite) | (with_reducible apply kept_ite_fst) | (with_reducible apply out_next)
    | (with_reducible apply out_ite) | (with_reducible apply kept_foldl)

theorem finishSeq_kept {k : Keep} {s : State} {a1 a2 a3 a4} (h : s.Kept k) : (State.finishSeq s a1 a2 a3 a4).Kept k := by
  unfold State.finishSeq
  try simp only [kept_mk, kept_mk_hif, kept_mk_mem, kept_mk_both]
  repeat' first
    | (with_reducible assumption) | (with_reducible intro _) | (with_reducible apply unrefPage_kept)
    | (with_reducible apply setListEntry_kept) | (with_reducible apply readEntries_kept) | (with_reducible apply setSeq_kept)
    | (with_reducible apply kept_ite) | (with_reducible apply kept_ite_fst) | (with_reducible apply out_next)
    | (with_reducible apply out_ite) | (with_reducible apply kept_foldl) | (with_reducible apply kept_foldl_fst)
    | (with_reducible refine kept_fst ?_ (by assumption)) | (split)
    | (simp only [kept_mk, kept_mk_hif, kept_mk_mem, kept_mk_both])

theorem stageRelease_kept {k : Keep} {s : State} {a1} (h : s.Kept k) : (State.stageRelease s a1).Kept k := by
  unfold State.stageRelease
  try simp only [kept_mk, kept_mk_hif, kept_mk_mem, kept_mk_both]
  repeat' first
    | (with_reducible assumption) | (with_reducible intro _) | (with_reducible apply setPage_kept)
    | (with_reducible apply kept_ite) | (with_reducible apply kept_ite_fst) | (with_reducible apply out_next)
    | (with_reducible apply out_ite) | (with_reducible apply kept_foldl) | (with_reducible apply kept_foldl_fst)
    | (with_reducible refine kept_fst ?_ (by assumption)) | (split) | (simp only [kept_mk, kept_mk_hif, kept_mk_mem, kept_mk_both])

theorem pinSeq_kept {k : Keep} {s : State} {a1 a2 a3 a4} (h : s.Kept k) : (State.pinSeq s a1 a2 a3 a4).Kept k := by
  unfold State.pinSeq
  try simp only [kept_mk, kept_mk_hif, kept_mk_mem, kept_mk_both]
  repeat' first
    | (with_reducible assumption) | (with_reducible intro _) | (with_reducible apply setSeq_kept)
    | (with_reducible apply setPage_kept) | (with_reducible apply kept_ite) | (with_reducible apply kept_ite_fst)
    | (with_reducible apply out_next) | (with_reducible apply out_ite) | (with_reducible apply kept_foldl)

theorem scorePage_kept {k : Keep} {s : State} {a1 a2 a3} (h : s.Kept k) : (State.scorePage s a1 a2 a3).Kept k := by
  unfold State.scorePage
  try simp only [kept_mk, kept_mk_hif, kept_mk_mem, kept_mk_both]
  repeat' first
    | (with_reducible assumption) | (with_reducible intro _) | (with_reducible apply setPage_kept)
    | (with_reducible apply honeyTick_kept) | (with_reducible apply kept_ite)

theorem sharePages_kept {k : Keep} {s : State} {a1 a2 a3} (h : s.Kept k) : (State.sharePages s a1 a2 a3).1.Kept k := by
  induction a2 generalizing s a3 with
  | zero => exact h
  | succ n ih =>
    unfold State.sharePages
    extract_lets i e p undo
    have hu : ∀ st, (undo st).1.Kept k := fun st => kept_foldl (fun _ _ hs => setPage_kept hs) h
    split
    · exact hu _
    · split
      · exact hu _
      · exact ih (setPage_kept h)

end Sys2Proof.Laws
end

