-- ==== Sys2Proof/Laws/KeptComb.lean ====
section
/-! SUPPORT. What every operation of Machine/Comb.lean keeps (`State.Kept`): one lemma for each. -/
set_option linter.unusedSimpArgs false
namespace Sys2Proof.Laws
open Sys2Proof Sys2Proof.Machine

theorem setComb_kept {k : Keep} {s : State} {a1 a2} (h : s.Kept k) : (State.setComb s a1 a2).Kept k := by
  unfold State.setComb
  try simp only [kept_mk, kept_mk_hif, kept_mk_mem, kept_mk_both]
  repeat' first
    | (with_reducible assumption)

theorem modComb_kept {k : Keep} {s : State} {a1 a2} (h : s.Kept k) : (State.modComb s a1 a2).Kept k := by
  unfold State.modComb
  try simp only [kept_mk, kept_mk_hif, kept_mk_mem, kept_mk_both]
  repeat' first
    | (with_reducible assumption) | (with_reducible intro _) | (with_reducible apply setComb_kept)

theorem writeBackLine_kept {k : Keep} {s : State} {a1 a2} (h : s.Kept k) : (State.writeBackLine s a1 a2).1.Kept k := by
  unfold State.writeBackLine
  try simp only [kept_mk, kept_mk_hif, kept_mk_mem, kept_mk_both]
  repeat' first
    | (with_reducible assumption) | (with_reducible intro _) | (with_reducible apply violation_kept)
    | (with_reducible apply pokeBytes_kept) | (with_reducible apply poisonWord_kept) | (with_reducible apply passBurst_kept)
    | (with_reducible apply markWaits_kept) | (with_reducible apply kept_ite) | (with_reducible apply kept_ite_fst)
    | (with_reducible apply out_next) | (with_reducible apply out_ite) | (with_reducible apply kept_foldl)

theorem writeBackAll_kept {k : Keep} {s : State} {a1 a2} (h : s.Kept k) : (s.writeBackAll a1 a2).1.Kept k := by
  induction a2 generalizing s with
  | nil => exact h
  | cons w l ih => exact ih (writeBackLine_kept h)

theorem drainWriteBacks_kept {k : Keep} {s : State} {a1} (h : s.Kept k) : (State.drainWriteBacks s a1).1.Kept k := by
  unfold State.drainWriteBacks
  try simp only [kept_mk, kept_mk_hif, kept_mk_mem, kept_mk_both]
  repeat' first
    | (with_reducible assumption) | (with_reducible intro _) | (with_reducible apply writeBackAll_kept)
    | (with_reducible apply modComb_kept)

theorem cleanLines_kept {k : Keep} {s : State} {a1 a2} (h : s.Kept k) : (State.cleanLines s a1 a2).1.Kept k := by
  unfold State.cleanLines
  try simp only [kept_mk, kept_mk_hif, kept_mk_mem, kept_mk_both]
  repeat' first
    | (with_reducible assumption) | (with_reducible intro _) | (with_reducible apply writeBackAll_kept)
    | (with_reducible apply modComb_kept)

theorem flushCache_kept {k : Keep} {s : State} {a1} (h : s.Kept k) : (State.flushCache s a1).1.Kept k := by
  unfold State.flushCache
  try simp only [kept_mk, kept_mk_hif, kept_mk_mem, kept_mk_both]
  repeat' first
    | (with_reducible assumption) | (with_reducible intro _) | (with_reducible apply drainWriteBacks_kept)
    | (with_reducible apply cleanLines_kept) | (with_reducible apply modComb_kept)

end Sys2Proof.Laws
end

