-- ==== Sys2Proof/Laws/KeptAttn.lean ====
section
/-! SUPPORT. What every operation of Machine/Attn.lean keeps (`State.Kept`): one lemma for each. -/
set_option linter.unusedSimpArgs false
namespace Sys2Proof.Laws
open Sys2Proof Sys2Proof.Machine

theorem attnOpens_kept {k : Keep} {s : State} {a1 a2 a3} (h : s.Kept k) : (State.attnOpens s a1 a2 a3).1.Kept k := by
  induction a3 with
  | zero => exact h
  | succ n ih =>
    unfold State.attnOpens
    generalize s.attnOpens a1 a2 n = r at ih
    obtain ⟨s1, ps, bad⟩ := r
    dsimp only
    split
    · exact ih
    · have ho : ∀ e, (s1.openPage e a1.fmt a1.dcode a2.colony).1.Kept k := fun e => openPage_kept ih
      split <;> exact kept_fst (ho _) (by assumption)

theorem leaveAttn_kept {k : Keep} {s : State} {a1} (h : s.Kept k) : (State.leaveAttn s a1).Kept k := by
  unfold State.leaveAttn
  try simp only [kept_mk, kept_mk_hif, kept_mk_mem, kept_mk_both]
  repeat' first
    | (with_reducible assumption) | (with_reducible intro _) | (with_reducible apply modComb_kept)

theorem attnStart_kept {k : Keep} {s : State} {a1 a2 a3} (h : s.Kept k) : (State.attnStart s a1 a2 a3).1.Kept k := by
  unfold State.attnStart
  try simp only [kept_mk, kept_mk_hif, kept_mk_mem, kept_mk_both]
  repeat' first
    | (with_reducible assumption) | (with_reducible intro _) | (with_reducible apply objLoad_kept)
    | (with_reducible apply objsStatus_kept) | (with_reducible apply attnOpens_kept) | (with_reducible apply modComb_kept)
    | (with_reducible apply leaveAttn_kept) | (with_reducible apply kept_ite) | (with_reducible apply kept_ite_fst)
    | (with_reducible apply out_next) | (with_reducible apply out_ite) | (with_reducible apply kept_foldl)
    | (with_reducible apply kept_foldl_fst) | (with_reducible refine kept_fst ?_ (by assumption)) | (split)
    | (simp only [kept_mk, kept_mk_hif, kept_mk_mem, kept_mk_both])

theorem attnNoPage_kept {k : Keep} {s : State} {a1} (h : s.Kept k) : (State.attnNoPage s a1).Kept k := by
  unfold State.attnNoPage
  try simp only [kept_mk, kept_mk_hif, kept_mk_mem, kept_mk_both]
  repeat' first
    | (with_reducible assumption) | (with_reducible intro _) | (with_reducible apply returnPage_kept)
    | (with_reducible apply modComb_kept) | (with_reducible apply kept_ite) | (with_reducible apply kept_ite_fst)
    | (with_reducible apply out_next) | (with_reducible apply out_ite) | (with_reducible apply kept_foldl)
    | (with_reducible apply kept_foldl_fst) | (with_reducible refine kept_fst ?_ (by assumption)) | (split)
    | (simp only [kept_mk, kept_mk_hif, kept_mk_mem, kept_mk_both])

theorem gatherPages_kept {k : Keep} {s : State} {a1 a2} (h : s.Kept k) : (State.gatherPages s a1 a2).1.Kept k := by
  induction a2 generalizing s with
  | nil => exact h
  | cons w l ih =>
    unfold State.gatherPages
    split
    rename_i s1 st x e
    have h1 : s1.Kept k := kept_fst (devLoad_kept h) e
    split
    · exact h1
    · exact ih h1

theorem storeKV_kept {k : Keep} {s : State} {a1 a2 a3 a4 a5 a6} (h : s.Kept k) : (State.storeKV s a1 a2 a3 a4 a5 a6).1.Kept k := by
  unfold State.storeKV
  try simp only [kept_mk, kept_mk_hif, kept_mk_mem, kept_mk_both]
  repeat' first
    | (with_reducible assumption) | (with_reducible intro _) | (with_reducible apply devStore_kept)
    | (with_reducible apply kept_ite) | (with_reducible apply kept_ite_fst) | (with_reducible apply out_next)
    | (with_reducible apply out_ite) | (with_reducible apply kept_foldl) | (with_reducible apply kept_foldl_fst)

theorem scoreWrites_kept {k : Keep} {s : State} {a1 a2 a3 a4} (h : s.Kept k) : (State.scoreWrites s a1 a2 a3 a4).Kept k := by
  unfold State.scoreWrites
  try simp only [kept_mk, kept_mk_hif, kept_mk_mem, kept_mk_both]
  repeat' first
    | (with_reducible assumption) | (with_reducible intro _) | (with_reducible apply draw_kept)
    | (with_reducible apply scorePage_kept) | (with_reducible apply kept_ite) | (with_reducible apply kept_ite_fst)
    | (with_reducible apply out_next) | (with_reducible apply out_ite) | (with_reducible apply kept_foldl)

theorem attnForward_kept {k : Keep} {s : State} {a1 a2 a3 a4} (h : s.Kept k) : (State.attnForward s a1 a2 a3 a4).1.Kept k := by
  unfold State.attnForward
  try simp only [kept_mk, kept_mk_hif, kept_mk_mem, kept_mk_both]
  repeat' first
    | (with_reducible assumption) | (with_reducible intro _) | (with_reducible apply objLoad_kept)
    | (with_reducible apply storeKV_kept) | (with_reducible apply objStore_kept) | (with_reducible apply scoreWrites_kept)
    | (with_reducible apply kept_ite) | (with_reducible apply kept_ite_fst) | (with_reducible apply out_next)
    | (with_reducible apply out_ite) | (with_reducible apply kept_foldl) | (with_reducible apply kept_foldl_fst)
    | (with_reducible refine kept_fst ?_ (by assumption)) | (split)

theorem attnBackward_kept {k : Keep} {s : State} {a1 a2 a3} (h : s.Kept k) : (State.attnBackward s a1 a2 a3).1.Kept k := by
  unfold State.attnBackward
  try simp only [kept_mk, kept_mk_hif, kept_mk_mem, kept_mk_both]
  repeat' first
    | (with_reducible assumption) | (with_reducible intro _) | (with_reducible apply objLoad_kept)
    | (with_reducible apply objStore_kept) | (with_reducible apply kept_ite) | (with_reducible apply kept_ite_fst)

theorem attnEnd_kept {k : Keep} {s : State} {a1} (h : s.Kept k) : (State.attnEnd s a1).1.Kept k := by
  unfold State.attnEnd
  try simp only [kept_mk, kept_mk_hif, kept_mk_mem, kept_mk_both]
  repeat' first
    | (with_reducible assumption) | (with_reducible intro _) | (with_reducible apply openPage_kept)
    | (with_reducible apply gatherPages_kept) | (with_reducible apply attnBackward_kept) | (with_reducible apply attnForward_kept)
    | (with_reducible apply modComb_kept) | (with_reducible apply closePages_kept) | (with_reducible apply objStore_kept)
    | (with_reducible apply kept_ite) | (with_reducible apply kept_ite_fst) | (with_reducible apply out_next)
    | (with_reducible apply out_ite) | (with_reducible apply kept_foldl) | (with_reducible apply kept_foldl_fst)
    | (with_reducible refine kept_fst ?_ (by assumption)) | (split) | (simp only [kept_mk, kept_mk_hif, kept_mk_mem, kept_mk_both])

theorem attnDrop_kept {k : Keep} {s : State} {a1} (h : s.Kept k) : (State.attnDrop s a1).Kept k := by
  unfold State.attnDrop
  try simp only [kept_mk, kept_mk_hif, kept_mk_mem, kept_mk_both]
  repeat' first
    | (with_reducible assumption) | (with_reducible intro _) | (with_reducible apply closePages_kept)
    | (with_reducible apply modComb_kept) | (with_reducible apply kept_ite) | (with_reducible apply kept_ite_fst)
    | (with_reducible apply out_next) | (with_reducible apply out_ite) | (with_reducible apply kept_foldl)
    | (with_reducible apply kept_foldl_fst) | (with_reducible refine kept_fst ?_ (by assumption)) | (split)
    | (simp only [kept_mk, kept_mk_hif, kept_mk_mem, kept_mk_both])

end Sys2Proof.Laws
end

