-- ==== Sys2Proof/Laws/KeptJobs.lean ====
section
/-! SUPPORT. What every operation of Machine/Jobs.lean keeps (`State.Kept`): one lemma for each. -/
set_option linter.unusedSimpArgs false
namespace Sys2Proof.Laws
open Sys2Proof Sys2Proof.Machine

theorem safLog_kept {k : Keep} {s : State} {a1 a2 a3 a4 a5} (h : s.Kept k) : (s.safLog a1 a2 a3 a4 a5).Kept k := by
  unfold State.safLog
  exact kept_of h rfl rfl rfl rfl rfl rfl rfl rfl rfl

theorem modPwr_kept {k : Keep} {s : State} {a1} (h : s.Kept k) : (State.modPwr s a1).Kept k := by
  unfold State.modPwr
  try simp only [kept_mk, kept_mk_hif, kept_mk_mem, kept_mk_both]
  repeat' first
    | (with_reducible assumption)

theorem setJob_kept {k : Keep} {s : State} {a1 a2} (h : s.Kept k) : (State.setJob s a1 a2).Kept k := by
  unfold State.setJob
  try simp only [kept_mk, kept_mk_hif, kept_mk_mem, kept_mk_both]
  repeat' first
    | (with_reducible assumption)

theorem showColony_kept {k : Keep} {s : State} {a1 a2} (h : s.Kept k) : (State.showColony s a1 a2).Kept k := by
  unfold State.showColony
  try simp only [kept_mk, kept_mk_hif, kept_mk_mem, kept_mk_both]
  repeat' first
    | (with_reducible assumption) | (with_reducible intro _) | (with_reducible apply wrB_kept) | (with_reducible apply wr_kept)
    | (with_reducible apply kept_ite) | (with_reducible apply kept_ite_fst) | (with_reducible apply out_next)
    | (with_reducible apply out_ite) | (with_reducible apply kept_foldl) | (with_reducible apply kept_foldl_fst)
    | (with_reducible refine kept_fst ?_ (by assumption)) | (split)

theorem joinReservation_kept {k : Keep} {s : State} {a1 a2} (h : s.Kept k) : (State.joinReservation s a1 a2).Kept k := by
  unfold State.joinReservation
  try simp only [kept_mk, kept_mk_hif, kept_mk_mem, kept_mk_both]
  repeat' first
    | (with_reducible assumption) | (with_reducible intro _) | (with_reducible apply showColony_kept)
    | (with_reducible apply setColony_kept) | (with_reducible apply wr_kept) | (with_reducible apply kept_ite)

theorem freeComb_kept {k : Keep} {s : State} {a1 a2} (h : s.Kept k) : (State.freeComb s a1 a2).Kept k := by
  unfold State.freeComb
  try simp only [kept_mk, kept_mk_hif, kept_mk_mem, kept_mk_both]
  repeat' first
    | (with_reducible assumption) | (with_reducible intro _) | (with_reducible apply modComb_kept) | (with_reducible apply wr_kept)
    | (with_reducible apply joinReservation_kept) | (with_reducible apply showColony_kept) | (with_reducible apply kept_ite)
    | (with_reducible apply kept_ite_fst) | (with_reducible apply out_next) | (with_reducible apply out_ite)
    | (with_reducible apply kept_foldl) | (with_reducible apply kept_foldl_fst)
    | (with_reducible refine kept_fst ?_ (by assumption)) | (split)

theorem saveComb_kept {k : Keep} {s : State} {a1} (h : s.Kept k) : (State.saveComb s a1).Kept k := by
  unfold State.saveComb
  try simp only [kept_mk, kept_mk_hif, kept_mk_mem, kept_mk_both]
  repeat' first
    | (with_reducible assumption) | (with_reducible intro _) | (with_reducible apply objStore_kept)
    | (with_reducible apply setJob_kept) | (with_reducible apply modComb_kept) | (with_reducible apply kept_ite)
    | (with_reducible apply kept_ite_fst) | (with_reducible apply out_next) | (with_reducible apply out_ite)
    | (with_reducible apply kept_foldl) | (with_reducible apply kept_foldl_fst)
    | (with_reducible refine kept_fst ?_ (by assumption)) | (split) | (simp only [kept_mk, kept_mk_hif, kept_mk_mem, kept_mk_both])

theorem switchComb_kept {k : Keep} {s : State} {a1 a2 a3 a4} (h : s.Kept k) : (State.switchComb s a1 a2 a3 a4).1.Kept k := by
  unfold State.switchComb
  try simp only [kept_mk, kept_mk_hif, kept_mk_mem, kept_mk_both]
  repeat' first
    | (with_reducible assumption) | (with_reducible intro _) | (with_reducible apply modComb_kept)
    | (with_reducible apply objLoad_kept) | (with_reducible apply kept_ite) | (with_reducible apply kept_ite_fst)
    | (with_reducible apply out_next) | (with_reducible apply out_ite) | (with_reducible apply kept_foldl)
    | (with_reducible apply kept_foldl_fst)

theorem switchOpens_kept {k : Keep} {s : State} {a1 a2} (h : s.Kept k) : (State.switchOpens s a1 a2).1.Kept k := by
  unfold State.switchOpens
  try simp only [kept_mk, kept_mk_hif, kept_mk_mem, kept_mk_both]
  repeat' first
    | (with_reducible assumption) | (with_reducible intro _) | (with_reducible apply openPage_kept)
    | (with_reducible apply kept_ite) | (with_reducible apply kept_ite_fst) | (with_reducible apply out_next)
    | (with_reducible apply out_ite) | (with_reducible apply kept_foldl) | (with_reducible apply kept_foldl_fst)
    | (with_reducible refine kept_fst ?_ (by assumption)) | (split)

theorem openDeclared_kept {k : Keep} {s : State} {a1 a2 a3 a4} (h : s.Kept k) : (State.openDeclared s a1 a2 a3 a4).1.Kept k := by
  unfold State.openDeclared
  try simp only [kept_mk, kept_mk_hif, kept_mk_mem, kept_mk_both]
  repeat' first
    | (with_reducible assumption) | (with_reducible intro _) | (with_reducible apply devLoad_kept)
    | (with_reducible apply switchOpens_kept) | (with_reducible apply kept_ite) | (with_reducible apply kept_ite_fst)
    | (with_reducible apply out_next) | (with_reducible apply out_ite) | (with_reducible apply kept_foldl)
    | (with_reducible apply kept_foldl_fst) | (with_reducible refine kept_fst ?_ (by assumption)) | (split)
    | (simp only [kept_mk, kept_mk_hif, kept_mk_mem, kept_mk_both])

theorem openAll_kept {k : Keep} {s : State} {a1 a2} (h : s.Kept k) : (State.openAll s a1 a2).1.Kept k := by
  unfold State.openAll
  try simp only [kept_mk, kept_mk_hif, kept_mk_mem, kept_mk_both]
  repeat' first
    | (with_reducible assumption) | (with_reducible intro _) | (with_reducible apply openDeclared_kept)
    | (with_reducible apply kept_ite) | (with_reducible apply kept_ite_fst) | (with_reducible apply out_next)
    | (with_reducible apply out_ite) | (with_reducible apply kept_foldl) | (with_reducible apply kept_foldl_fst)
    | (with_reducible refine kept_fst ?_ (by assumption)) | (split)
    | (simp only [kept_mk, kept_mk_hif, kept_mk_mem, kept_mk_both])

theorem seqOp_kept {k : Keep} {s : State} {a1 a2 a3} (h : s.Kept k) : (State.seqOp s a1 a2 a3).1.Kept k := by
  unfold State.seqOp
  try simp only [kept_mk, kept_mk_hif, kept_mk_mem, kept_mk_both]
  repeat' first
    | (with_reducible assumption) | (with_reducible intro _) | (with_reducible apply finishSeq_kept)
    | (with_reducible apply pinSeq_kept) | (with_reducible apply setSeq_kept) | (with_reducible apply kept_ite)
    | (with_reducible apply kept_ite_fst) | (with_reducible apply out_next) | (with_reducible apply out_ite)
    | (with_reducible apply kept_foldl) | (with_reducible apply kept_foldl_fst)
    | (with_reducible refine kept_fst ?_ (by assumption)) | (split)

theorem updateItem_kept {k : Keep} {s : State} {a1 a2 a3 a4 a5 a6 a7} (h : s.Kept k) :
    (State.updateItem s a1 a2 a3 a4 a5 a6 a7).Kept k := by
  unfold State.updateItem
  try simp only [kept_mk, kept_mk_hif, kept_mk_mem, kept_mk_both]
  repeat' first
    | (with_reducible assumption) | (with_reducible intro _) | (with_reducible apply devStore_kept)
    | (with_reducible apply returnFrom_kept) | (with_reducible apply inc_kept) | (with_reducible apply setSeq_kept)
    | (with_reducible apply finishSeq_kept) | (with_reducible apply kept_ite) | (with_reducible apply kept_ite_fst)
    | (with_reducible apply out_next) | (with_reducible apply out_ite) | (with_reducible apply kept_foldl)
    | (with_reducible apply kept_foldl_fst) | (with_reducible refine kept_fst ?_ (by assumption)) | (split)

theorem promote_kept {k : Keep} {s : State} {a1 a2} (h : s.Kept k) : (State.promote s a1 a2).Kept k := by
  induction a2 generalizing s with
  | zero => exact h
  | succ n ih =>
    unfold State.promote
    split
    · split
      · exact ih (inc_kept (setSeq_kept (setSeq_kept h)))
      · exact h
    · exact h

theorem stepUpdate_kept {k : Keep} {s : State} {a1 a2 a3 a4} (h : s.Kept k) : (State.stepUpdate s a1 a2 a3 a4).Kept k := by
  unfold State.stepUpdate
  try simp only [kept_mk, kept_mk_hif, kept_mk_mem, kept_mk_both]
  repeat' first
    | (with_reducible assumption) | (with_reducible intro _) | (with_reducible apply updateItem_kept)
    | (with_reducible apply seqOp_kept) | (with_reducible apply completeRec_kept) | (with_reducible apply promote_kept)
    | (with_reducible apply stageRelease_kept) | (with_reducible apply kept_ite) | (with_reducible apply kept_ite_fst)
    | (with_reducible apply out_next) | (with_reducible apply out_ite) | (with_reducible apply kept_foldl)
    | (with_reducible apply kept_foldl_fst) | (with_reducible refine kept_fst ?_ (by assumption)) | (split)
    | (simp only [kept_mk, kept_mk_hif, kept_mk_mem, kept_mk_both])

theorem undefineFor_kept {k : Keep} {s : State} {a1 a2 a3} (h : s.Kept k) : (State.undefineFor s a1 a2 a3).Kept k := by
  unfold State.undefineFor
  try simp only [kept_mk, kept_mk_hif, kept_mk_mem, kept_mk_both]
  repeat' first
    | (with_reducible assumption) | (with_reducible intro _) | (with_reducible apply undefine_kept)
    | (with_reducible apply kept_ite)

theorem stopComb_kept {k : Keep} {s : State} {a1} (h : s.Kept k) : (State.stopComb s a1).Kept k := by
  unfold State.stopComb
  try simp only [kept_mk, kept_mk_hif, kept_mk_mem, kept_mk_both]
  repeat' first
    | (with_reducible assumption) | (with_reducible intro _) | (with_reducible apply undefineFor_kept)
    | (with_reducible apply modComb_kept) | (with_reducible apply attnDrop_kept) | (with_reducible apply wr_kept)
    | (with_reducible apply kept_ite) | (with_reducible apply kept_ite_fst) | (with_reducible apply out_next)
    | (with_reducible apply out_ite) | (with_reducible apply kept_foldl)

theorem closeOpens_kept {k : Keep} {s : State} {a1} (h : s.Kept k) : (State.closeOpens s a1).Kept k := by
  unfold State.closeOpens
  try simp only [kept_mk, kept_mk_hif, kept_mk_mem, kept_mk_both]
  repeat' first
    | (with_reducible assumption) | (with_reducible intro _) | (with_reducible apply closePage_kept)
    | (with_reducible apply kept_ite) | (with_reducible apply kept_ite_fst) | (with_reducible apply out_next)
    | (with_reducible apply out_ite) | (with_reducible apply kept_foldl)

theorem faultJob_kept {k : Keep} {s : State} {a1 a2 a3} (h : s.Kept k) : (State.faultJob s a1 a2 a3).Kept k := by
  unfold State.faultJob
  try simp only [kept_mk, kept_mk_hif, kept_mk_mem, kept_mk_both]
  repeat' first
    | (with_reducible assumption) | (with_reducible intro _) | (with_reducible apply saveComb_kept)
    | (with_reducible apply stopComb_kept) | (with_reducible apply closeOpens_kept) | (with_reducible apply stepUpdate_kept)
    | (with_reducible apply setJob_kept) | (with_reducible apply safLog_kept) | (with_reducible apply faultRec_kept)
    | (with_reducible apply kept_ite) | (with_reducible apply kept_ite_fst) | (with_reducible apply out_next)
    | (with_reducible apply out_ite) | (with_reducible apply kept_foldl) | (with_reducible apply kept_foldl_fst)
    | (with_reducible refine kept_fst ?_ (by assumption)) | (split)
    | (simp only [kept_mk, kept_mk_hif, kept_mk_mem, kept_mk_both])

theorem releaseJob_kept {k : Keep} {s : State} {a1} (h : s.Kept k) : (State.releaseJob s a1).Kept k := by
  unfold State.releaseJob
  try simp only [kept_mk, kept_mk_hif, kept_mk_mem, kept_mk_both]
  repeat' first
    | (with_reducible assumption) | (with_reducible intro _) | (with_reducible apply setJob_kept)
    | (with_reducible apply freeComb_kept) | (with_reducible apply kept_ite) | (with_reducible apply kept_ite_fst)
    | (with_reducible apply out_next) | (with_reducible apply out_ite) | (with_reducible apply kept_foldl)

theorem faultComb_kept {k : Keep} {s : State} {a1 a2 a3} (h : s.Kept k) : (State.faultComb s a1 a2 a3).Kept k := by
  unfold State.faultComb
  try simp only [kept_mk, kept_mk_hif, kept_mk_mem, kept_mk_both]
  repeat' first
    | (with_reducible assumption) | (with_reducible intro _) | (with_reducible apply faultJob_kept)
    | (with_reducible apply kept_ite) | (with_reducible apply kept_ite_fst) | (with_reducible apply out_next)
    | (with_reducible apply out_ite) | (with_reducible apply kept_foldl) | (with_reducible apply kept_foldl_fst)
    | (with_reducible refine kept_fst ?_ (by assumption)) | (split)
    | (simp only [kept_mk, kept_mk_hif, kept_mk_mem, kept_mk_both])

theorem slotWaitFault_kept {k : Keep} {s : State} {a1 a2 a3 a4} (h : s.Kept k) : (State.slotWaitFault s a1 a2 a3 a4).Kept k := by
  unfold State.slotWaitFault
  try simp only [kept_mk, kept_mk_hif, kept_mk_mem, kept_mk_both]
  repeat' first
    | (with_reducible assumption) | (with_reducible intro _) | (with_reducible apply wr_kept)
    | (with_reducible apply faultComb_kept)

end Sys2Proof.Laws
end

