-- ==== Sys2Proof/Laws/KeptBundle.lean ====
section
/-! SUPPORT. What every operation of Machine/Bundle.lean keeps (`State.Kept`): one lemma for each. -/
set_option linter.unusedSimpArgs false
namespace Sys2Proof.Laws
open Sys2Proof Sys2Proof.Machine

theorem incHold_kept {k : Keep} {s : State} {a1 a2} (h : s.Kept k) : (State.incHold s a1 a2).Kept k := by
  unfold State.incHold
  try simp only [kept_mk, kept_mk_hif, kept_mk_mem, kept_mk_both]
  repeat' first
    | (with_reducible assumption) | (with_reducible intro _) | (with_reducible apply wr_kept)

theorem countMisses_kept {k : Keep} {s : State} {a1 a2} (h : s.Kept k) : (State.countMisses s a1 a2).Kept k := by
  unfold State.countMisses
  try simp only [kept_mk, kept_mk_hif, kept_mk_mem, kept_mk_both]
  repeat' first
    | (with_reducible assumption) | (with_reducible intro _) | (with_reducible apply inc_kept)
    | (with_reducible apply modComb_kept)

theorem frozenCycle_kept {k : Keep} {s : State} {a1 a2 a3 a4} (h : s.Kept k) : (State.frozenCycle s a1 a2 a3 a4).Kept k := by
  unfold State.frozenCycle
  try simp only [kept_mk, kept_mk_hif, kept_mk_mem, kept_mk_both]
  repeat' first
    | (with_reducible assumption) | (with_reducible intro _) | (with_reducible apply countMisses_kept)
    | (with_reducible apply modComb_kept) | (with_reducible apply incHold_kept) | (with_reducible apply inc_kept)
    | (with_reducible apply wr_kept) | (with_reducible apply wrB_kept) | (with_reducible apply slotWaitFault_kept)
    | (with_reducible apply kept_ite) | (with_reducible apply kept_ite_fst) | (with_reducible apply out_next)
    | (with_reducible apply out_ite) | (with_reducible apply kept_foldl) | (with_reducible apply kept_foldl_fst)
    | (with_reducible refine kept_fst ?_ (by assumption)) | (split)

theorem readTile_kept {k : Keep} {s : State} {a1 a2 a3} (h : s.Kept k) : (State.readTile s a1 a2 a3).1.Kept k := by
  unfold State.readTile
  try simp only [kept_mk, kept_mk_hif, kept_mk_mem, kept_mk_both]
  repeat' first
    | (with_reducible assumption) | (with_reducible intro _) | (with_reducible apply objLoad_kept)
    | (with_reducible apply kept_ite) | (with_reducible apply kept_ite_fst)

theorem tileStart_kept {k : Keep} {s : State} {a1 a2 a3} (h : s.Kept k) : (State.tileStart s a1 a2 a3).1.Kept k := by
  unfold State.tileStart
  try simp only [kept_mk, kept_mk_hif, kept_mk_mem, kept_mk_both]
  repeat' first
    | (with_reducible assumption) | (with_reducible intro _) | (with_reducible apply readTile_kept)
    | (with_reducible apply modComb_kept) | (with_reducible apply kept_ite) | (with_reducible apply kept_ite_fst)

theorem tileEnd_kept {k : Keep} {s : State} {a1} (h : s.Kept k) : (State.tileEnd s a1).1.Kept k := by
  unfold State.tileEnd
  try simp only [kept_mk, kept_mk_hif, kept_mk_mem, kept_mk_both]
  repeat' first
    | (with_reducible assumption) | (with_reducible intro _) | (with_reducible apply modComb_kept)
    | (with_reducible apply objsStatus_kept) | (with_reducible apply devStore_kept) | (with_reducible apply kept_ite)
    | (with_reducible apply kept_ite_fst) | (with_reducible apply out_next) | (with_reducible apply out_ite)
    | (with_reducible apply kept_foldl) | (with_reducible apply kept_foldl_fst)
    | (with_reducible refine kept_fst ?_ (by assumption)) | (split)

theorem issueOp_kept {k : Keep} {s : State} {a1 a2 a3} (h : s.Kept k) : (State.issueOp s a1 a2 a3).1.Kept k := by
  unfold State.issueOp
  try simp only [kept_mk, kept_mk_hif, kept_mk_mem, kept_mk_both]
  repeat' first
    | (with_reducible assumption) | (with_reducible intro _) | (with_reducible apply tileStart_kept)
    | (with_reducible apply tileEnd_kept) | (with_reducible apply attnStart_kept) | (with_reducible apply attnEnd_kept)
    | (with_reducible apply modComb_kept) | (with_reducible apply kept_ite) | (with_reducible apply kept_ite_fst)
    | (with_reducible apply out_next) | (with_reducible apply out_ite) | (with_reducible apply kept_foldl)
    | (with_reducible apply kept_foldl_fst) | (with_reducible refine kept_fst ?_ (by assumption)) | (split)

theorem issueOps_kept {k : Keep} {s : State} {a1 a2 a3} (h : s.Kept k) : (State.issueOps s a1 a2 a3).1.Kept k := by
  unfold State.issueOps
  try simp only [kept_mk, kept_mk_hif, kept_mk_mem, kept_mk_both]
  repeat' first
    | (with_reducible assumption) | (with_reducible intro _) | (with_reducible apply issueOp_kept)
    | (with_reducible apply kept_ite) | (with_reducible apply kept_ite_fst) | (with_reducible apply out_next)
    | (with_reducible apply out_ite) | (with_reducible apply kept_foldl) | (with_reducible apply kept_foldl_fst)

theorem drainComb_kept {k : Keep} {s : State} {a1} (h : s.Kept k) : (State.drainComb s a1).Kept k := by
  unfold State.drainComb
  try simp only [kept_mk, kept_mk_hif, kept_mk_mem, kept_mk_both]
  repeat' first
    | (with_reducible assumption) | (with_reducible intro _) | (with_reducible apply incHold_kept)
    | (with_reducible apply inc_kept) | (with_reducible apply modComb_kept) | (with_reducible apply faultComb_kept)
    | (with_reducible apply kept_ite) | (with_reducible apply kept_ite_fst) | (with_reducible apply out_next)
    | (with_reducible apply out_ite) | (with_reducible apply kept_foldl) | (with_reducible apply kept_foldl_fst)
    | (with_reducible refine kept_fst ?_ (by assumption)) | (split)
    | (simp only [kept_mk, kept_mk_hif, kept_mk_mem, kept_mk_both])

theorem advanceCycle_kept {k : Keep} {s : State} {a1 a2 a3} (h : s.Kept k) : (State.advanceCycle s a1 a2 a3).Kept k := by
  unfold State.advanceCycle
  try simp only [kept_mk, kept_mk_hif, kept_mk_mem, kept_mk_both]
  repeat' first
    | (with_reducible assumption) | (with_reducible intro _) | (with_reducible apply faultComb_kept)
    | (with_reducible apply inc_kept) | (with_reducible apply issueOps_kept) | (with_reducible apply modComb_kept)
    | (with_reducible apply wr_kept) | (with_reducible apply drainComb_kept) | (with_reducible apply kept_ite)
    | (with_reducible apply kept_ite_fst) | (with_reducible apply out_next) | (with_reducible apply out_ite)
    | (with_reducible apply kept_foldl) | (with_reducible apply kept_foldl_fst)
    | (with_reducible refine kept_fst ?_ (by assumption)) | (split)
    | (simp only [kept_mk, kept_mk_hif, kept_mk_mem, kept_mk_both])

theorem combCycle_kept {k : Keep} {s : State} {a1 a2 a3} (h : s.Kept k) : (State.combCycle s a1 a2 a3).Kept k := by
  unfold State.combCycle
  try simp only [kept_mk, kept_mk_hif, kept_mk_mem, kept_mk_both]
  repeat' first
    | (with_reducible assumption) | (with_reducible intro _) | (with_reducible apply frozenCycle_kept)
    | (with_reducible apply faultComb_kept) | (with_reducible apply advanceCycle_kept) | (with_reducible apply kept_ite)

end Sys2Proof.Laws
end

