-- ==== Sys2Proof/Laws/KeptControl.lean ====
section
/-! SUPPORT. What every operation of Machine/Control.lean keeps (`State.Kept`): one lemma for each. -/
set_option linter.unusedSimpArgs false
namespace Sys2Proof.Laws
open Sys2Proof Sys2Proof.Machine

theorem setLoop_kept {k : Keep} {s : State} {a1 a2} (h : s.Kept k) : (State.setLoop s a1 a2).Kept k := by
  unfold State.setLoop
  try simp only [kept_mk, kept_mk_hif, kept_mk_mem, kept_mk_both]
  repeat' first
    | (with_reducible assumption)

theorem feedSample_kept {k : Keep} {s : State} {a1 a2 a3} (h : s.Kept k) : (State.feedSample s a1 a2 a3).Kept k := by
  unfold State.feedSample
  try simp only [kept_mk, kept_mk_hif, kept_mk_mem, kept_mk_both]
  repeat' first
    | (with_reducible assumption) | (with_reducible intro _) | (with_reducible apply setLoop_kept)
    | (with_reducible apply inc_kept) | (with_reducible apply kept_ite)

theorem offerFeedback_kept {k : Keep} {s : State} {a1 a2 a3 a4 a5 a6 a7} (h : s.Kept k) :
    (State.offerFeedback s a1 a2 a3 a4 a5 a6 a7).Kept k := by
  unfold State.offerFeedback
  try simp only [kept_mk, kept_mk_hif, kept_mk_mem, kept_mk_both]
  repeat' first
    | (with_reducible assumption) | (with_reducible intro _) | (with_reducible apply feedSample_kept)
    | (with_reducible apply inc_kept) | (with_reducible apply kept_ite) | (with_reducible apply kept_ite_fst)
    | (with_reducible apply out_next) | (with_reducible apply out_ite) | (with_reducible apply kept_foldl)
    | (with_reducible apply kept_foldl_fst) | (with_reducible refine kept_fst ?_ (by assumption)) | (split)

theorem offerSetpoint_kept {k : Keep} {s : State} {a1 a2 a3 a4 a5} (h : s.Kept k) :
    (State.offerSetpoint s a1 a2 a3 a4 a5).Kept k := by
  unfold State.offerSetpoint
  try simp only [kept_mk, kept_mk_hif, kept_mk_mem, kept_mk_both]
  repeat' first
    | (with_reducible assumption) | (with_reducible intro _) | (with_reducible apply setLoop_kept)
    | (with_reducible apply inc_kept) | (with_reducible apply kept_ite) | (with_reducible apply kept_ite_fst)
    | (with_reducible apply out_next) | (with_reducible apply out_ite) | (with_reducible apply kept_foldl)
    | (with_reducible apply kept_foldl_fst) | (with_reducible refine kept_fst ?_ (by assumption)) | (split)

theorem controlCan_kept {k : Keep} {s : State} {a1 a2 a3 a4 a5} (h : s.Kept k) : (State.controlCan s a1 a2 a3 a4 a5).Kept k := by
  unfold State.controlCan
  try simp only [kept_mk, kept_mk_hif, kept_mk_mem, kept_mk_both]
  repeat' first
    | (with_reducible assumption) | (with_reducible intro _) | (with_reducible apply offerFeedback_kept)
    | (with_reducible apply offerSetpoint_kept) | (with_reducible apply kept_ite) | (with_reducible apply kept_ite_fst)
    | (with_reducible apply out_next) | (with_reducible apply out_ite) | (with_reducible apply kept_foldl)

theorem controlSpi_kept {k : Keep} {s : State} {a1 a2 a3 a4} (h : s.Kept k) : (State.controlSpi s a1 a2 a3 a4).Kept k := by
  unfold State.controlSpi
  try simp only [kept_mk, kept_mk_hif, kept_mk_mem, kept_mk_both]
  repeat' first
    | (with_reducible assumption) | (with_reducible intro _) | (with_reducible apply offerFeedback_kept)
    | (with_reducible apply kept_ite) | (with_reducible apply kept_ite_fst) | (with_reducible apply out_next)
    | (with_reducible apply out_ite) | (with_reducible apply kept_foldl)

theorem controlGpio_kept {k : Keep} {s : State} {a1 a2 a3} (h : s.Kept k) : (State.controlGpio s a1 a2 a3).Kept k := by
  unfold State.controlGpio
  try simp only [kept_mk, kept_mk_hif, kept_mk_mem, kept_mk_both]
  repeat' first
    | (with_reducible assumption) | (with_reducible intro _) | (with_reducible apply feedSample_kept)
    | (with_reducible apply kept_ite) | (with_reducible apply kept_ite_fst) | (with_reducible apply out_next)
    | (with_reducible apply out_ite) | (with_reducible apply kept_foldl)

theorem deliverTraj_kept {k : Keep} {s : State} {a1 a2} (h : s.Kept k) : (State.deliverTraj s a1 a2).Kept k := by
  unfold State.deliverTraj
  try simp only [kept_mk, kept_mk_hif, kept_mk_mem, kept_mk_both]
  repeat' first
    | (with_reducible assumption)

theorem putCan_kept {k : Keep} {s : State} {a1 a2 a3} (h : s.Kept k) : (State.putCan s a1 a2 a3).Kept k := by
  unfold State.putCan
  try simp only [kept_mk, kept_mk_hif, kept_mk_mem, kept_mk_both]
  repeat' first
    | (with_reducible assumption) | (with_reducible intro _) | (with_reducible apply kept_ite)
    | (with_reducible apply kept_ite_fst) | (with_reducible apply out_next) | (with_reducible apply out_ite)
    | (with_reducible apply kept_foldl) | (with_reducible apply kept_foldl_fst)
    | (with_reducible refine kept_fst ?_ (by assumption)) | (split)
    | (simp only [kept_mk, kept_mk_hif, kept_mk_mem, kept_mk_both])

theorem sendOut_kept {k : Keep} {s : State} {a1 a2} (h : s.Kept k) : (State.sendOut s a1 a2).Kept k := by
  unfold State.sendOut
  try simp only [kept_mk, kept_mk_hif, kept_mk_mem, kept_mk_both]
  repeat' first
    | (with_reducible assumption) | (with_reducible intro _) | (with_reducible apply inc_kept) | (with_reducible apply putCan_kept)
    | (with_reducible apply kept_ite) | (with_reducible apply kept_ite_fst) | (with_reducible apply out_next)
    | (with_reducible apply out_ite) | (with_reducible apply kept_foldl) | (with_reducible apply kept_foldl_fst)
    | (with_reducible refine kept_fst ?_ (by assumption)) | (split) | (simp only [kept_mk, kept_mk_hif, kept_mk_mem, kept_mk_both])

theorem loopSafeEvent_kept {k : Keep} {s : State} {a1 a2} (h : s.Kept k) : (State.loopSafeEvent s a1 a2).Kept k := by
  unfold State.loopSafeEvent
  try simp only [kept_mk, kept_mk_hif, kept_mk_mem, kept_mk_both]
  repeat' first
    | (with_reducible assumption) | (with_reducible intro _) | (with_reducible apply event_kept)

theorem stopLoop_kept {k : Keep} {s : State} {a1 a2} (h : s.Kept k) : (State.stopLoop s a1 a2).Kept k := by
  unfold State.stopLoop
  try simp only [kept_mk, kept_mk_hif, kept_mk_mem, kept_mk_both]
  repeat' first
    | (with_reducible assumption) | (with_reducible intro _) | (with_reducible apply wr_kept) | (with_reducible apply setLoop_kept)

theorem goSafe_kept {k : Keep} {s : State} {a1 a2} (h : s.Kept k) : (State.goSafe s a1 a2).Kept k := by
  unfold State.goSafe
  try simp only [kept_mk, kept_mk_hif, kept_mk_mem, kept_mk_both]
  repeat' first
    | (with_reducible assumption) | (with_reducible intro _) | (with_reducible apply loopSafeEvent_kept)
    | (with_reducible apply wr_kept) | (with_reducible apply stopLoop_kept) | (with_reducible apply sendOut_kept)

theorem safeAll_kept {k : Keep} {s : State} {a1} (h : s.Kept k) : (State.safeAll s a1).Kept k := by
  unfold State.safeAll
  try simp only [kept_mk, kept_mk_hif, kept_mk_mem, kept_mk_both]
  repeat' first
    | (with_reducible assumption) | (with_reducible intro _) | (with_reducible apply loopSafeEvent_kept)
    | (with_reducible apply stopLoop_kept) | (with_reducible apply sendOut_kept) | (with_reducible apply kept_ite)
    | (with_reducible apply kept_ite_fst) | (with_reducible apply out_next) | (with_reducible apply out_ite)
    | (with_reducible apply kept_foldl)

theorem noteLatency_kept {k : Keep} {s : State} {a1 a2} (h : s.Kept k) : (State.noteLatency s a1 a2).Kept k := by
  unfold State.noteLatency
  try simp only [kept_mk, kept_mk_hif, kept_mk_mem, kept_mk_both]
  repeat' first
    | (with_reducible assumption) | (with_reducible intro _) | (with_reducible apply raise_kept)

theorem evalLoop_kept {k : Keep} {s : State} {a1 a2 a3} (h : s.Kept k) : (State.evalLoop s a1 a2 a3).Kept k := by
  unfold State.evalLoop
  try simp only [kept_mk, kept_mk_hif, kept_mk_mem, kept_mk_both]
  repeat' first
    | (with_reducible assumption) | (with_reducible intro _) | (with_reducible apply inc_kept)
    | (with_reducible apply setLoop_kept) | (with_reducible apply goSafe_kept) | (with_reducible apply wr_kept)
    | (with_reducible apply wrB_kept) | (with_reducible apply noteLatency_kept) | (with_reducible apply sendOut_kept)
    | (with_reducible apply kept_ite) | (with_reducible apply kept_ite_fst) | (with_reducible apply out_next)
    | (with_reducible apply out_ite) | (with_reducible apply kept_foldl) | (with_reducible apply kept_foldl_fst)
    | (with_reducible refine kept_fst ?_ (by assumption)) | (split)

theorem evalNext_kept {k : Keep} {s : State} (h : s.Kept k) : (State.evalNext s).Kept k := by
  unfold State.evalNext
  try simp only [kept_mk, kept_mk_hif, kept_mk_mem, kept_mk_both]
  repeat' first
    | (with_reducible assumption) | (with_reducible intro _) | (with_reducible apply evalLoop_kept)
    | (with_reducible apply kept_ite) | (with_reducible apply kept_ite_fst) | (with_reducible apply out_next)
    | (with_reducible apply out_ite) | (with_reducible apply kept_foldl) | (with_reducible apply kept_foldl_fst)
    | (with_reducible refine kept_fst ?_ (by assumption)) | (split)

theorem periodTrigger_kept {k : Keep} {s : State} {a1} (h : s.Kept k) : (State.periodTrigger s a1).Kept k := by
  unfold State.periodTrigger
  try simp only [kept_mk, kept_mk_hif, kept_mk_mem, kept_mk_both]
  repeat' first
    | (with_reducible assumption) | (with_reducible intro _) | (with_reducible apply waitTo_kept)
    | (with_reducible apply setLoop_kept) | (with_reducible apply kept_ite) | (with_reducible apply kept_ite_fst)
    | (with_reducible apply out_next) | (with_reducible apply out_ite) | (with_reducible apply kept_foldl)
    | (with_reducible apply kept_foldl_fst) | (with_reducible refine kept_fst ?_ (by assumption)) | (split)

theorem reloadLoop_kept {k : Keep} {s : State} {a1} (h : s.Kept k) : (State.reloadLoop s a1).Kept k := by
  unfold State.reloadLoop
  try simp only [kept_mk, kept_mk_hif, kept_mk_mem, kept_mk_both]
  repeat' first
    | (with_reducible assumption) | (with_reducible intro _) | (with_reducible apply devLoad_kept)
    | (with_reducible apply setLoop_kept) | (with_reducible apply kept_ite) | (with_reducible apply kept_ite_fst)
    | (with_reducible apply out_next) | (with_reducible apply out_ite) | (with_reducible apply kept_foldl)
    | (with_reducible apply kept_foldl_fst) | (with_reducible refine kept_fst ?_ (by assumption)) | (split)

theorem resetControl_kept {k : Keep} {s : State} (h : s.Kept k) : (State.resetControl s).Kept k := by
  unfold State.resetControl
  try simp only [kept_mk, kept_mk_hif, kept_mk_mem, kept_mk_both]
  repeat' first
    | (with_reducible assumption) | (with_reducible intro _) | (with_reducible apply reloadLoop_kept)
    | (with_reducible apply setLoop_kept) | (with_reducible apply wr_kept) | (with_reducible apply kept_ite)
    | (with_reducible apply kept_ite_fst) | (with_reducible apply out_next) | (with_reducible apply out_ite)
    | (with_reducible apply kept_foldl)

end Sys2Proof.Laws
end

