-- ==== Sys2Proof/Laws/KeptSched.lean ====
section
/-! SUPPORT. What every operation of Machine/Sched.lean keeps (`State.Kept`): one lemma for each. -/
set_option linter.unusedSimpArgs false
namespace Sys2Proof.Laws
open Sys2Proof Sys2Proof.Machine

theorem demandDie_kept {k : Keep} {s : State} {a1} (h : s.Kept k) : (State.demandDie s a1).Kept k := by
  unfold State.demandDie
  try simp only [kept_mk, kept_mk_hif, kept_mk_mem, kept_mk_both]
  repeat' first
    | (with_reducible assumption) | (with_reducible intro _) | (with_reducible apply kept_ite)
    | (with_reducible apply kept_ite_fst) | (with_reducible apply out_next) | (with_reducible apply out_ite)
    | (with_reducible apply kept_foldl) | (with_reducible apply kept_foldl_fst)
    | (with_reducible refine kept_fst ?_ (by assumption)) | (split) | (simp only [kept_mk, kept_mk_hif, kept_mk_mem, kept_mk_both])

theorem assignJob_kept {k : Keep} {s : State} {a1 a2 a3} (h : s.Kept k) : (State.assignJob s a1 a2 a3).Kept k := by
  unfold State.assignJob
  try simp only [kept_mk, kept_mk_hif, kept_mk_mem, kept_mk_both]
  repeat' first
    | (with_reducible assumption) | (with_reducible intro _) | (with_reducible apply setJob_kept)
    | (with_reducible apply modComb_kept) | (with_reducible apply demandDie_kept) | (with_reducible apply showColony_kept)
    | (with_reducible apply raise_kept) | (with_reducible apply kept_ite) | (with_reducible apply kept_ite_fst)
    | (with_reducible apply out_next) | (with_reducible apply out_ite) | (with_reducible apply kept_foldl)
    | (with_reducible apply kept_foldl_fst) | (with_reducible refine kept_fst ?_ (by assumption)) | (split)

theorem startComb_kept {k : Keep} {s : State} {a1} (h : s.Kept k) : (State.startComb s a1).Kept k := by
  unfold State.startComb
  try simp only [kept_mk, kept_mk_hif, kept_mk_mem, kept_mk_both]
  repeat' first
    | (with_reducible assumption) | (with_reducible intro _) | (with_reducible apply wr_kept) | (with_reducible apply wrB_kept)

theorem showRamp_kept {k : Keep} {s : State} {a1} (h : s.Kept k) : (State.showRamp s a1).Kept k := by
  unfold State.showRamp
  try simp only [kept_mk, kept_mk_hif, kept_mk_mem, kept_mk_both]
  repeat' first
    | (with_reducible assumption) | (with_reducible intro _) | (with_reducible apply wrB_kept) | (with_reducible apply kept_ite)

theorem shedFor_kept {k : Keep} {s : State} {a1 a2} (h : s.Kept k) : (State.shedFor s a1 a2).Kept k := by
  unfold State.shedFor
  try simp only [kept_mk, kept_mk_hif, kept_mk_mem, kept_mk_both]
  repeat' first
    | (with_reducible assumption) | (with_reducible intro _) | (with_reducible apply showRamp_kept)
    | (with_reducible apply modPwr_kept)

theorem rampStart_kept {k : Keep} {s : State} {a1 a2} (h : s.Kept k) : (State.rampStart s a1 a2).Kept k := by
  unfold State.rampStart
  try simp only [kept_mk, kept_mk_hif, kept_mk_mem, kept_mk_both]
  repeat' first
    | (with_reducible assumption) | (with_reducible intro _) | (with_reducible apply shedFor_kept)
    | (with_reducible apply modPwr_kept) | (with_reducible apply kept_ite) | (with_reducible apply kept_ite_fst)
    | (with_reducible apply out_next) | (with_reducible apply out_ite) | (with_reducible apply kept_foldl)

theorem rampEnd_kept {k : Keep} {s : State} {a1} (h : s.Kept k) : (State.rampEnd s a1).Kept k := by
  unfold State.rampEnd
  try simp only [kept_mk, kept_mk_hif, kept_mk_mem, kept_mk_both]
  repeat' first
    | (with_reducible assumption) | (with_reducible intro _) | (with_reducible apply showRamp_kept)
    | (with_reducible apply modPwr_kept) | (with_reducible apply kept_ite) | (with_reducible apply kept_ite_fst)
    | (with_reducible apply out_next) | (with_reducible apply out_ite) | (with_reducible apply kept_foldl)

theorem startJob_kept {k : Keep} {s : State} {a1 a2} (h : s.Kept k) : (State.startJob s a1 a2).Kept k := by
  unfold State.startJob
  try simp only [kept_mk, kept_mk_hif, kept_mk_mem, kept_mk_both]
  repeat' first
    | (with_reducible assumption) | (with_reducible intro _) | (with_reducible apply waitTo_kept)
    | (with_reducible apply rampStart_kept) | (with_reducible apply saveComb_kept) | (with_reducible apply switchComb_kept)
    | (with_reducible apply objLoad_kept) | (with_reducible apply openAll_kept) | (with_reducible apply startComb_kept)
    | (with_reducible apply setJob_kept) | (with_reducible apply inc_kept) | (with_reducible apply raise_kept)
    | (with_reducible apply faultJob_kept) | (with_reducible apply kept_ite) | (with_reducible apply kept_ite_fst)
    | (with_reducible apply out_next) | (with_reducible apply out_ite) | (with_reducible apply kept_foldl)
    | (with_reducible apply kept_foldl_fst) | (with_reducible refine kept_fst ?_ (by assumption)) | (split)
    | (simp only [kept_mk, kept_mk_hif, kept_mk_mem, kept_mk_both])

theorem budgetFault_kept {k : Keep} {s : State} {a1} (h : s.Kept k) : (State.budgetFault s a1).Kept k := by
  unfold State.budgetFault
  try simp only [kept_mk, kept_mk_hif, kept_mk_mem, kept_mk_both]
  repeat' first
    | (with_reducible assumption) | (with_reducible intro _) | (with_reducible apply inc_kept)
    | (with_reducible apply undefine_kept) | (with_reducible apply faultJob_kept) | (with_reducible apply kept_ite)
    | (with_reducible apply kept_ite_fst) | (with_reducible apply out_next) | (with_reducible apply out_ite)
    | (with_reducible apply kept_foldl) | (with_reducible apply kept_foldl_fst)
    | (with_reducible refine kept_fst ?_ (by assumption)) | (split)

theorem finishJob_kept {k : Keep} {s : State} {a1 a2} (h : s.Kept k) : (State.finishJob s a1 a2).Kept k := by
  unfold State.finishJob
  try simp only [kept_mk, kept_mk_hif, kept_mk_mem, kept_mk_both]
  repeat' first
    | (with_reducible assumption) | (with_reducible intro _) | (with_reducible apply setJob_kept)
    | (with_reducible apply faultRec_kept) | (with_reducible apply completeRec_kept) | (with_reducible apply kept_ite)

theorem endComb_kept {k : Keep} {s : State} {a1} (h : s.Kept k) : (State.endComb s a1).1.Kept k := by
  unfold State.endComb
  try simp only [kept_mk, kept_mk_hif, kept_mk_mem, kept_mk_both]
  repeat' first
    | (with_reducible assumption) | (with_reducible intro _) | (with_reducible apply flushCache_kept)
    | (with_reducible apply drainComb_kept) | (with_reducible apply attnDrop_kept)

theorem endCombs_kept {k : Keep} {s : State} {a1} (h : s.Kept k) : (State.endCombs s a1).1.Kept k := by
  unfold State.endCombs
  try simp only [kept_mk, kept_mk_hif, kept_mk_mem, kept_mk_both]
  repeat' first
    | (with_reducible assumption) | (with_reducible intro _) | (with_reducible apply endComb_kept)
    | (with_reducible apply kept_ite) | (with_reducible apply kept_ite_fst) | (with_reducible apply out_next)
    | (with_reducible apply out_ite) | (with_reducible apply kept_foldl) | (with_reducible apply kept_foldl_fst)

theorem endJob_kept {k : Keep} {s : State} {a1} (h : s.Kept k) : (State.endJob s a1).Kept k := by
  unfold State.endJob
  try simp only [kept_mk, kept_mk_hif, kept_mk_mem, kept_mk_both]
  repeat' first
    | (with_reducible assumption) | (with_reducible intro _) | (with_reducible apply endCombs_kept)
    | (with_reducible apply budgetFault_kept) | (with_reducible apply faultJob_kept) | (with_reducible apply closeOpens_kept)
    | (with_reducible apply stepUpdate_kept) | (with_reducible apply setJob_kept) | (with_reducible apply rampEnd_kept)
    | (with_reducible apply freeComb_kept) | (with_reducible apply finishJob_kept) | (with_reducible apply kept_ite)
    | (with_reducible apply kept_ite_fst) | (with_reducible apply out_next) | (with_reducible apply out_ite)
    | (with_reducible apply kept_foldl) | (with_reducible apply kept_foldl_fst)
    | (with_reducible refine kept_fst ?_ (by assumption)) | (split) | (simp only [kept_mk, kept_mk_hif, kept_mk_mem, kept_mk_both])

theorem stampItems_kept {k : Keep} {s : State} {a1 a2 a3} (h : s.Kept k) : (State.stampItems s a1 a2 a3).Kept k := by
  unfold State.stampItems
  try simp only [kept_mk, kept_mk_hif, kept_mk_mem, kept_mk_both]
  repeat' first
    | (with_reducible assumption) | (with_reducible intro _) | (with_reducible apply setSeq_kept) | (with_reducible apply kept_ite)
    | (with_reducible apply kept_ite_fst) | (with_reducible apply out_next) | (with_reducible apply out_ite)
    | (with_reducible apply kept_foldl)

theorem setStep_kept {k : Keep} {s : State} {a1 a2} (h : s.Kept k) : (State.setStep s a1 a2).Kept k := by
  unfold State.setStep
  try simp only [kept_mk, kept_mk_hif, kept_mk_mem, kept_mk_both]
  repeat' first
    | (with_reducible assumption)

theorem buildStep_kept {k : Keep} {s : State} {a1} (h : s.Kept k) : (State.buildStep s a1).Kept k := by
  unfold State.buildStep
  try simp only [kept_mk, kept_mk_hif, kept_mk_mem, kept_mk_both]
  repeat' first
    | (with_reducible assumption) | (with_reducible intro _) | (with_reducible apply completeRec_kept)
    | (with_reducible apply setJob_kept) | (with_reducible apply objStore_kept) | (with_reducible apply faultJob_kept)
    | (with_reducible apply stampItems_kept) | (with_reducible apply setStep_kept) | (with_reducible apply kept_ite)

theorem runForager_kept {k : Keep} {s : State} {a1} (h : s.Kept k) : (State.runForager s a1).1.Kept k := by
  unfold State.runForager
  try simp only [kept_mk, kept_mk_hif, kept_mk_mem, kept_mk_both]
  repeat' first
    | (with_reducible assumption) | (with_reducible intro _) | (with_reducible apply devStore_kept)
    | (with_reducible apply devLoad_kept) | (with_reducible apply poisonWord_kept) | (with_reducible apply kept_ite)
    | (with_reducible apply kept_ite_fst) | (with_reducible apply out_next) | (with_reducible apply out_ite)
    | (with_reducible apply kept_foldl)

theorem endForager_kept {k : Keep} {s : State} {a1} (h : s.Kept k) : (State.endForager s a1).Kept k := by
  unfold State.endForager
  try simp only [kept_mk, kept_mk_hif, kept_mk_mem, kept_mk_both]
  repeat' first
    | (with_reducible assumption) | (with_reducible intro _) | (with_reducible apply budgetFault_kept)
    | (with_reducible apply runForager_kept) | (with_reducible apply completeRec_kept) | (with_reducible apply setJob_kept)
    | (with_reducible apply freeComb_kept) | (with_reducible apply faultJob_kept) | (with_reducible apply undefine_kept)
    | (with_reducible apply kept_ite) | (with_reducible apply kept_ite_fst) | (with_reducible apply out_next)
    | (with_reducible apply out_ite) | (with_reducible apply kept_foldl)

end Sys2Proof.Laws
end

