-- ==== Sys2Proof/Laws/KeptEngines.lean ====
section
/-! SUPPORT. What every operation of Machine/Engines.lean keeps (`State.Kept`): one lemma for each. -/
set_option linter.unusedSimpArgs false
namespace Sys2Proof.Laws
open Sys2Proof Sys2Proof.Machine

theorem useSched_kept {k : Keep} {s : State} {a1} (h : s.Kept k) : (State.useSched s a1).Kept k := by
  unfold State.useSched
  try simp only [kept_mk, kept_mk_hif, kept_mk_mem, kept_mk_both]
  repeat' first
    | (with_reducible assumption)

theorem spoilSaves_kept {k : Keep} {s : State} {a1} (h : s.Kept k) : (State.spoilSaves s a1).Kept k := by
  unfold State.spoilSaves
  try simp only [kept_mk, kept_mk_hif, kept_mk_mem, kept_mk_both]
  repeat' first
    | (with_reducible assumption) | (with_reducible intro _) | (with_reducible apply undefineFor_kept)
    | (with_reducible apply kept_ite) | (with_reducible apply kept_ite_fst) | (with_reducible apply out_next)
    | (with_reducible apply out_ite) | (with_reducible apply kept_foldl) | (with_reducible apply kept_foldl_fst)
    | (with_reducible refine kept_fst ?_ (by assumption)) | (split)
    | (simp only [kept_mk, kept_mk_hif, kept_mk_mem, kept_mk_both])

theorem dropJob_kept {k : Keep} {s : State} {a1 a2} (h : s.Kept k) : (State.dropJob s a1 a2).Kept k := by
  unfold State.dropJob
  try simp only [kept_mk, kept_mk_hif, kept_mk_mem, kept_mk_both]
  repeat' first
    | (with_reducible assumption) | (with_reducible intro _) | (with_reducible apply spoilSaves_kept)
    | (with_reducible apply setJob_kept) | (with_reducible apply faultRec_kept) | (with_reducible apply undefine_kept)
    | (with_reducible apply faultJob_kept) | (with_reducible apply kept_ite) | (with_reducible apply kept_ite_fst)
    | (with_reducible apply out_next) | (with_reducible apply out_ite) | (with_reducible apply kept_foldl)
    | (with_reducible apply kept_foldl_fst) | (with_reducible refine kept_fst ?_ (by assumption)) | (split)
    | (simp only [kept_mk, kept_mk_hif, kept_mk_mem, kept_mk_both])

theorem undefer_kept {k : Keep} {s : State} {a1} (h : s.Kept k) : (State.undefer s a1).Kept k := by
  unfold State.undefer
  try simp only [kept_mk, kept_mk_hif, kept_mk_mem, kept_mk_both]
  repeat' first
    | (with_reducible assumption)

theorem spoilOutputs_kept {k : Keep} {s : State} {a1 a2 a3} (h : s.Kept k) : (State.spoilOutputs s a1 a2 a3).Kept k := by
  unfold State.spoilOutputs
  try simp only [kept_mk, kept_mk_hif, kept_mk_mem, kept_mk_both]
  repeat' first
    | (with_reducible assumption) | (with_reducible intro _) | (with_reducible apply undefineFor_kept)
    | (with_reducible apply kept_ite) | (with_reducible apply kept_ite_fst) | (with_reducible apply out_next)
    | (with_reducible apply out_ite) | (with_reducible apply kept_foldl) | (with_reducible apply kept_foldl_fst)
    | (with_reducible refine kept_fst ?_ (by assumption)) | (split)
    | (simp only [kept_mk, kept_mk_hif, kept_mk_mem, kept_mk_both])

theorem spoilPlan_kept {k : Keep} {s : State} {a1 a2 a3} (h : s.Kept k) : (State.spoilPlan s a1 a2 a3).Kept k := by
  unfold State.spoilPlan
  try simp only [kept_mk, kept_mk_hif, kept_mk_mem, kept_mk_both]
  repeat' first
    | (with_reducible assumption) | (with_reducible intro _) | (with_reducible apply undefineFor_kept)
    | (with_reducible apply kept_ite) | (with_reducible apply kept_ite_fst) | (with_reducible apply out_next)
    | (with_reducible apply out_ite) | (with_reducible apply kept_foldl) | (with_reducible apply kept_foldl_fst)
    | (with_reducible refine kept_fst ?_ (by assumption)) | (split)
    | (simp only [kept_mk, kept_mk_hif, kept_mk_mem, kept_mk_both])

theorem spoilPending_kept {k : Keep} {s : State} {a1} (h : s.Kept k) : (State.spoilPending s a1).Kept k := by
  unfold State.spoilPending
  try simp only [kept_mk, kept_mk_hif, kept_mk_mem, kept_mk_both]
  repeat' first
    | (with_reducible assumption) | (with_reducible intro _) | (with_reducible apply spoilPlan_kept)
    | (with_reducible apply spoilOutputs_kept) | (with_reducible apply kept_ite) | (with_reducible apply kept_ite_fst)
    | (with_reducible apply out_next) | (with_reducible apply out_ite) | (with_reducible apply kept_foldl)
    | (with_reducible apply kept_foldl_fst) | (with_reducible refine kept_fst ?_ (by assumption)) | (split)
    | (simp only [kept_mk, kept_mk_hif, kept_mk_mem, kept_mk_both])

theorem releaseEngines_kept {k : Keep} {s : State} {a1} (h : s.Kept k) : (State.releaseEngines s a1).Kept k := by
  unfold State.releaseEngines
  try simp only [kept_mk, kept_mk_hif, kept_mk_mem, kept_mk_both]
  repeat' first
    | (with_reducible assumption) | (with_reducible intro _) | (with_reducible apply wr_kept) | (with_reducible apply kept_ite)
    | (with_reducible apply kept_ite_fst) | (with_reducible apply out_next) | (with_reducible apply out_ite)
    | (with_reducible apply kept_foldl) | (with_reducible apply kept_foldl_fst)
    | (with_reducible refine kept_fst ?_ (by assumption)) | (split) | (simp only [kept_mk, kept_mk_hif, kept_mk_mem, kept_mk_both])

theorem loseRun_kept {k : Keep} {s : State} {a1} (h : s.Kept k) : (State.loseRun s a1).Kept k := by
  unfold State.loseRun
  try simp only [kept_mk, kept_mk_hif, kept_mk_mem, kept_mk_both]
  repeat' first
    | (with_reducible assumption) | (with_reducible intro _) | (with_reducible apply cvLose_kept)
    | (with_reducible apply kept_ite) | (with_reducible apply kept_ite_fst) | (with_reducible apply out_next)
    | (with_reducible apply out_ite) | (with_reducible apply kept_foldl) | (with_reducible apply kept_foldl_fst)
    | (with_reducible refine kept_fst ?_ (by assumption)) | (split)
    | (simp only [kept_mk, kept_mk_hif, kept_mk_mem, kept_mk_both])

theorem restartQueue_kept {k : Keep} {s : State} {a1} (h : s.Kept k) : (State.restartQueue s a1).Kept k := by
  unfold State.restartQueue
  try simp only [kept_mk, kept_mk_hif, kept_mk_mem, kept_mk_both]
  repeat' first
    | (with_reducible assumption) | (with_reducible intro _) | (with_reducible apply spoilPending_kept)
    | (with_reducible apply loseRun_kept) | (with_reducible apply wr_kept) | (with_reducible apply undefer_kept)
    | (with_reducible apply releaseEngines_kept) | (with_reducible apply dropJob_kept) | (with_reducible apply faultRec_kept)
    | (with_reducible apply kept_ite) | (with_reducible apply kept_ite_fst) | (with_reducible apply out_next)
    | (with_reducible apply out_ite) | (with_reducible apply kept_foldl) | (with_reducible apply kept_foldl_fst)
    | (with_reducible refine kept_fst ?_ (by assumption)) | (split)
    | (simp only [kept_mk, kept_mk_hif, kept_mk_mem, kept_mk_both])

theorem rearmQueue_kept {k : Keep} {s : State} {a1} (h : s.Kept k) : (State.rearmQueue s a1).Kept k := by
  unfold State.rearmQueue
  try simp only [kept_mk, kept_mk_hif, kept_mk_mem, kept_mk_both]
  repeat' first
    | (with_reducible assumption) | (with_reducible intro _) | (with_reducible apply wr_kept) | (with_reducible apply kept_ite)

theorem reinitQueue_kept {k : Keep} {s : State} {a1} (h : s.Kept k) : (State.reinitQueue s a1).Kept k := by
  unfold State.reinitQueue
  try simp only [kept_mk, kept_mk_hif, kept_mk_mem, kept_mk_both]
  repeat' first
    | (with_reducible assumption) | (with_reducible intro _) | (with_reducible apply spoilPending_kept)
    | (with_reducible apply abortQueue_kept) | (with_reducible apply undefer_kept) | (with_reducible apply releaseEngines_kept)
    | (with_reducible apply dropJob_kept) | (with_reducible apply kept_ite) | (with_reducible apply kept_ite_fst)
    | (with_reducible apply out_next) | (with_reducible apply out_ite) | (with_reducible apply kept_foldl)
    | (with_reducible apply kept_foldl_fst) | (with_reducible refine kept_fst ?_ (by assumption)) | (split)
    | (simp only [kept_mk, kept_mk_hif, kept_mk_mem, kept_mk_both])

theorem resetTensor_kept {k : Keep} {s : State} {a1} (h : s.Kept k) : (State.resetTensor s a1).Kept k := by
  unfold State.resetTensor
  try simp only [kept_mk, kept_mk_hif, kept_mk_mem, kept_mk_both]
  repeat' first
    | (with_reducible assumption) | (with_reducible intro _) | (with_reducible apply releaseJob_kept)
    | (with_reducible apply modComb_kept) | (with_reducible apply kept_ite) | (with_reducible apply kept_ite_fst)
    | (with_reducible apply out_next) | (with_reducible apply out_ite) | (with_reducible apply kept_foldl)

theorem reloadCalib_kept {k : Keep} {s : State} {a1} (h : s.Kept k) : (State.reloadCalib s a1).Kept k := by
  unfold State.reloadCalib
  try simp only [kept_mk, kept_mk_hif, kept_mk_mem, kept_mk_both]
  repeat' first
    | (with_reducible assumption) | (with_reducible intro _) | (with_reducible apply devLoad_kept)
    | (with_reducible apply kept_ite) | (with_reducible apply kept_ite_fst) | (with_reducible apply out_next)
    | (with_reducible apply out_ite) | (with_reducible apply kept_foldl) | (with_reducible apply kept_foldl_fst)
    | (with_reducible refine kept_fst ?_ (by assumption)) | (split) | (simp only [kept_mk, kept_mk_hif, kept_mk_mem, kept_mk_both])

theorem resetFusion_kept {k : Keep} {s : State} (h : s.Kept k) : (State.resetFusion s).Kept k := by
  unfold State.resetFusion
  try simp only [kept_mk, kept_mk_hif, kept_mk_mem, kept_mk_both]
  repeat' first
    | (with_reducible assumption) | (with_reducible intro _) | (with_reducible apply reloadCalib_kept)
    | (with_reducible apply inc_kept) | (with_reducible apply kept_ite) | (with_reducible apply kept_ite_fst)
    | (with_reducible apply out_next) | (with_reducible apply out_ite) | (with_reducible apply kept_foldl)

theorem reloadLib_kept {k : Keep} {s : State} {a1 a2} (h : s.Kept k) : (State.reloadLib s a1 a2).Kept k := by
  unfold State.reloadLib
  try simp only [kept_mk, kept_mk_hif, kept_mk_mem, kept_mk_both]
  repeat' first
    | (with_reducible assumption) | (with_reducible intro _) | (with_reducible apply devLoad_kept)
    | (with_reducible apply wr_kept) | (with_reducible apply kept_ite) | (with_reducible apply kept_ite_fst)
    | (with_reducible apply out_next) | (with_reducible apply out_ite) | (with_reducible apply kept_foldl)
    | (with_reducible apply kept_foldl_fst) | (with_reducible refine kept_fst ?_ (by assumption)) | (split)
    | (simp only [kept_mk, kept_mk_hif, kept_mk_mem, kept_mk_both])

theorem resetPlanner_kept {k : Keep} {s : State} (h : s.Kept k) : (State.resetPlanner s).Kept k := by
  unfold State.resetPlanner
  try simp only [kept_mk, kept_mk_hif, kept_mk_mem, kept_mk_both]
  repeat' first
    | (with_reducible assumption) | (with_reducible intro _) | (with_reducible apply reloadLib_kept)
    | (with_reducible apply wr_kept) | (with_reducible apply kept_ite) | (with_reducible apply kept_ite_fst)
    | (with_reducible apply out_next) | (with_reducible apply out_ite) | (with_reducible apply kept_foldl)
    | (with_reducible apply kept_foldl_fst) | (with_reducible refine kept_fst ?_ (by assumption)) | (split)
    | (simp only [kept_mk, kept_mk_hif, kept_mk_mem, kept_mk_both])

theorem resetCv_kept {k : Keep} {s : State} (h : s.Kept k) : (State.resetCv s).Kept k := by
  unfold State.resetCv
  try simp only [kept_mk, kept_mk_hif, kept_mk_mem, kept_mk_both]
  repeat' first
    | (with_reducible assumption) | (with_reducible intro _) | (with_reducible apply wr_kept) | (with_reducible apply kept_ite)
    | (with_reducible apply kept_ite_fst) | (with_reducible apply out_next) | (with_reducible apply out_ite)
    | (with_reducible apply kept_foldl) | (with_reducible apply kept_foldl_fst)
    | (with_reducible refine kept_fst ?_ (by assumption)) | (split)

theorem resetClass_kept {k : Keep} {s : State} {a1 a2} (h : s.Kept k) : (State.resetClass s a1 a2).Kept k := by
  unfold State.resetClass
  try simp only [kept_mk, kept_mk_hif, kept_mk_mem, kept_mk_both]
  repeat' first
    | (with_reducible assumption) | (with_reducible intro _) | (with_reducible apply resetTensor_kept)
    | (with_reducible apply releaseJob_kept) | (with_reducible apply resetFusion_kept) | (with_reducible apply resetPlanner_kept)
    | (with_reducible apply resetControl_kept) | (with_reducible apply resetCv_kept) | (with_reducible apply kept_ite)
    | (with_reducible apply kept_ite_fst) | (with_reducible apply out_next) | (with_reducible apply out_ite)
    | (with_reducible apply kept_foldl)

theorem reserveCombs_kept {k : Keep} {s : State} {a1 a2} (h : s.Kept k) : (State.reserveCombs s a1 a2).Kept k := by
  unfold State.reserveCombs
  try simp only [kept_mk, kept_mk_hif, kept_mk_mem, kept_mk_both]
  repeat' first
    | (with_reducible assumption) | (with_reducible intro _) | (with_reducible apply setColony_kept)
    | (with_reducible apply demandDie_kept) | (with_reducible apply joinReservation_kept) | (with_reducible apply kept_ite)
    | (with_reducible apply kept_ite_fst) | (with_reducible apply out_next) | (with_reducible apply out_ite)
    | (with_reducible apply kept_foldl)

theorem replaceCombs_kept {k : Keep} {s : State} (h : s.Kept k) : (State.replaceCombs s).Kept k := by
  unfold State.replaceCombs
  try simp only [kept_mk, kept_mk_hif, kept_mk_mem, kept_mk_both]
  repeat' first
    | (with_reducible assumption) | (with_reducible intro _) | (with_reducible apply setColony_kept)
    | (with_reducible apply reserveCombs_kept) | (with_reducible apply kept_ite) | (with_reducible apply kept_ite_fst)
    | (with_reducible apply out_next) | (with_reducible apply out_ite) | (with_reducible apply kept_foldl)
    | (with_reducible apply kept_foldl_fst) | (with_reducible refine kept_fst ?_ (by assumption)) | (split)

theorem lowerGuarantees_kept {k : Keep} {s : State} (h : s.Kept k) : (State.lowerGuarantees s).Kept k := by
  unfold State.lowerGuarantees
  try simp only [kept_mk, kept_mk_hif, kept_mk_mem, kept_mk_both]
  repeat' first
    | (with_reducible assumption) | (with_reducible intro _) | (with_reducible apply setColony_kept)
    | (with_reducible apply kept_ite) | (with_reducible apply kept_ite_fst) | (with_reducible apply out_next)
    | (with_reducible apply out_ite) | (with_reducible apply kept_foldl)

theorem failDramDie_kept {k : Keep} {s : State} {a1} (h : s.Kept k) : (State.failDramDie s a1).Kept k := by
  unfold State.failDramDie
  try simp only [kept_mk, kept_mk_hif, kept_mk_mem, kept_mk_both]
  repeat' first
    | (with_reducible assumption)

theorem dropDieForagers_kept {k : Keep} {s : State} {a1} (h : s.Kept k) : (State.dropDieForagers s a1).Kept k := by
  unfold State.dropDieForagers
  try simp only [kept_mk, kept_mk_hif, kept_mk_mem, kept_mk_both]
  repeat' first
    | (with_reducible assumption) | (with_reducible intro _) | (with_reducible apply releaseJob_kept)
    | (with_reducible apply dropJob_kept) | (with_reducible apply kept_ite) | (with_reducible apply kept_ite_fst)
    | (with_reducible apply out_next) | (with_reducible apply out_ite) | (with_reducible apply kept_foldl)

theorem showMixed_kept {k : Keep} {s : State} (h : s.Kept k) : (State.showMixed s).Kept k := by
  unfold State.showMixed
  try simp only [kept_mk, kept_mk_hif, kept_mk_mem, kept_mk_both]
  repeat' first
    | (with_reducible assumption) | (with_reducible intro _) | (with_reducible apply wrB_kept)

theorem markExcluded_kept {k : Keep} {s : State} {a1} (h : s.Kept k) : (State.markExcluded s a1).Kept k := by
  unfold State.markExcluded
  try simp only [kept_mk, kept_mk_hif, kept_mk_mem, kept_mk_both]
  repeat' first
    | (with_reducible assumption) | (with_reducible intro _) | (with_reducible apply useSched_kept)
    | (with_reducible apply failDramDie_kept) | (with_reducible apply showMixed_kept) | (with_reducible apply wr_kept)

end Sys2Proof.Laws
end

