-- ==== Sys2Proof/Laws/KeptMonitor.lean ====
section
/-! SUPPORT. What every operation of Machine/Monitor.lean keeps (`State.Kept`): one lemma for each. -/
set_option linter.unusedSimpArgs false
namespace Sys2Proof.Laws
open Sys2Proof Sys2Proof.Machine

theorem voteRecord_kept {k : Keep} {s : State} {a1 a2} (h : s.Kept k) : (State.voteRecord s a1 a2).1.Kept k := by
  unfold State.voteRecord
  try simp only [kept_mk, kept_mk_hif, kept_mk_mem, kept_mk_both]
  repeat' first
    | (with_reducible assumption) | (with_reducible intro _) | (with_reducible apply event_kept) | (with_reducible apply inc_kept)
    | (with_reducible apply kept_ite) | (with_reducible apply kept_ite_fst) | (with_reducible apply out_next)
    | (with_reducible apply out_ite) | (with_reducible apply kept_foldl) | (with_reducible apply kept_foldl_fst)
    | (with_reducible refine kept_fst ?_ (by assumption)) | (split) | (simp only [kept_mk, kept_mk_hif, kept_mk_mem, kept_mk_both])

theorem loadRecord_kept {k : Keep} {s : State} {a1 a2 a3} (h : s.Kept k) : (State.loadRecord s a1 a2 a3).Kept k := by
  unfold State.loadRecord
  try simp only [kept_mk, kept_mk_hif, kept_mk_mem, kept_mk_both]
  repeat' first
    | (with_reducible assumption)

theorem sendStop_kept {k : Keep} {s : State} {a1 a2} (h : s.Kept k) : (State.sendStop s a1 a2).Kept k := by
  unfold State.sendStop
  try simp only [kept_mk, kept_mk_hif, kept_mk_mem, kept_mk_both]
  repeat' first
    | (with_reducible assumption) | (with_reducible intro _) | (with_reducible apply putCan_kept) | (with_reducible apply kept_ite)
    | (with_reducible apply kept_ite_fst) | (with_reducible apply out_next) | (with_reducible apply out_ite)
    | (with_reducible apply kept_foldl) | (with_reducible apply kept_foldl_fst)
    | (with_reducible refine kept_fst ?_ (by assumption)) | (split) | (simp only [kept_mk, kept_mk_hif, kept_mk_mem, kept_mk_both])

theorem sendStops_kept {k : Keep} {s : State} {a1} (h : s.Kept k) : (State.sendStops s a1).Kept k := by
  unfold State.sendStops
  try simp only [kept_mk, kept_mk_hif, kept_mk_mem, kept_mk_both]
  repeat' first
    | (with_reducible assumption) | (with_reducible intro _) | (with_reducible apply sendStop_kept)
    | (with_reducible apply kept_ite) | (with_reducible apply kept_ite_fst) | (with_reducible apply out_next)
    | (with_reducible apply out_ite) | (with_reducible apply kept_foldl)

theorem stopA_kept {k : Keep} {s : State} {a1} (h : s.Kept k) : (State.stopA s a1).Kept k := by
  unfold State.stopA
  try simp only [kept_mk, kept_mk_hif, kept_mk_mem, kept_mk_both]
  repeat' first
    | (with_reducible assumption) | (with_reducible intro _) | (with_reducible apply sendStops_kept)
    | (with_reducible apply wr_kept) | (with_reducible apply event_kept) | (with_reducible apply safeAll_kept)
    | (with_reducible apply kept_ite) | (with_reducible apply kept_ite_fst) | (with_reducible apply out_next)
    | (with_reducible apply out_ite) | (with_reducible apply kept_foldl) | (with_reducible apply kept_foldl_fst)
    | (with_reducible refine kept_fst ?_ (by assumption)) | (split) | (simp only [kept_mk, kept_mk_hif, kept_mk_mem, kept_mk_both])

theorem modIslB_kept {k : Keep} {s : State} {a1} (h : s.Kept k) : (State.modIslB s a1).Kept k := by
  unfold State.modIslB
  try simp only [kept_mk, kept_mk_hif, kept_mk_mem, kept_mk_both]
  repeat' first
    | (with_reducible assumption)

theorem modIslA_kept {k : Keep} {s : State} {a1} (h : s.Kept k) : (State.modIslA s a1).Kept k := by
  unfold State.modIslA
  try simp only [kept_mk, kept_mk_hif, kept_mk_mem, kept_mk_both]
  repeat' first
    | (with_reducible assumption)

theorem stopB_kept {k : Keep} {s : State} {a1} (h : s.Kept k) : (State.stopB s a1).Kept k := by
  unfold State.stopB
  try simp only [kept_mk, kept_mk_hif, kept_mk_mem, kept_mk_both]
  repeat' first
    | (with_reducible assumption) | (with_reducible intro _) | (with_reducible apply modIslB_kept)
    | (with_reducible apply sendStops_kept) | (with_reducible apply event_kept) | (with_reducible apply wr_kept)
    | (with_reducible apply kept_ite)

theorem stopBoth_kept {k : Keep} {s : State} {a1} (h : s.Kept k) : (State.stopBoth s a1).Kept k := by
  unfold State.stopBoth
  try simp only [kept_mk, kept_mk_hif, kept_mk_mem, kept_mk_both]
  repeat' first
    | (with_reducible assumption) | (with_reducible intro _) | (with_reducible apply stopB_kept)
    | (with_reducible apply stopA_kept)

theorem stopForClass_kept {k : Keep} {s : State} {a1} (h : s.Kept k) : (State.stopForClass s a1).Kept k := by
  unfold State.stopForClass
  try simp only [kept_mk, kept_mk_hif, kept_mk_mem, kept_mk_both]
  repeat' first
    | (with_reducible assumption) | (with_reducible intro _) | (with_reducible apply stopA_kept)
    | (with_reducible apply stopB_kept) | (with_reducible apply kept_ite)

theorem holdAge_kept {k : Keep} {s : State} (h : s.Kept k) : (State.holdAge s).Kept k := by
  unfold State.holdAge
  try simp only [kept_mk, kept_mk_hif, kept_mk_mem, kept_mk_both]
  repeat' first
    | (with_reducible assumption) | (with_reducible intro _) | (with_reducible apply wr_kept) | (with_reducible apply kept_ite)
    | (with_reducible apply kept_ite_fst) | (with_reducible apply out_next) | (with_reducible apply out_ite)
    | (with_reducible apply kept_foldl) | (with_reducible apply kept_foldl_fst)
    | (with_reducible refine kept_fst ?_ (by assumption)) | (split)
    | (simp only [kept_mk, kept_mk_hif, kept_mk_mem, kept_mk_both])

theorem loseIslandB_kept {k : Keep} {s : State} {a1} (h : s.Kept k) : (State.loseIslandB s a1).Kept k := by
  unfold State.loseIslandB
  try simp only [kept_mk, kept_mk_hif, kept_mk_mem, kept_mk_both]
  repeat' first
    | (with_reducible assumption) | (with_reducible intro _) | (with_reducible apply holdAge_kept)
    | (with_reducible apply safeAll_kept) | (with_reducible apply stopA_kept) | (with_reducible apply stopB_kept)
    | (with_reducible apply dropWindow_kept) | (with_reducible apply wr_kept) | (with_reducible apply kept_ite)
    | (with_reducible apply kept_ite_fst) | (with_reducible apply out_next) | (with_reducible apply out_ite)
    | (with_reducible apply kept_foldl) | (with_reducible apply kept_foldl_fst)
    | (with_reducible refine kept_fst ?_ (by assumption)) | (split)
    | (simp only [kept_mk, kept_mk_hif, kept_mk_mem, kept_mk_both])

theorem reactA_kept {k : Keep} {s : State} (h : s.Kept k) : (State.reactA s).Kept k := by
  unfold State.reactA
  try simp only [kept_mk, kept_mk_hif, kept_mk_mem, kept_mk_both]
  repeat' first
    | (with_reducible assumption) | (with_reducible intro _) | (with_reducible apply wr_kept)
    | (with_reducible apply safeAll_kept) | (with_reducible apply stopA_kept) | (with_reducible apply stopB_kept)
    | (with_reducible apply kept_ite) | (with_reducible apply kept_ite_fst) | (with_reducible apply out_next)
    | (with_reducible apply out_ite) | (with_reducible apply kept_foldl) | (with_reducible apply kept_foldl_fst)
    | (with_reducible refine kept_fst ?_ (by assumption)) | (split)
    | (simp only [kept_mk, kept_mk_hif, kept_mk_mem, kept_mk_both])

theorem reactB_kept {k : Keep} {s : State} (h : s.Kept k) : (State.reactB s).Kept k := by
  unfold State.reactB
  try simp only [kept_mk, kept_mk_hif, kept_mk_mem, kept_mk_both]
  repeat' first
    | (with_reducible assumption) | (with_reducible intro _) | (with_reducible apply modIslB_kept)
    | (with_reducible apply stopB_kept) | (with_reducible apply wr_kept) | (with_reducible apply loseIslandB_kept)
    | (with_reducible apply kept_ite)

theorem showFault_kept {k : Keep} {s : State} {a1 a2} (h : s.Kept k) : (State.showFault s a1 a2).Kept k := by
  unfold State.showFault
  try simp only [kept_mk, kept_mk_hif, kept_mk_mem, kept_mk_both]
  repeat' first
    | (with_reducible assumption) | (with_reducible intro _) | (with_reducible apply wr_kept) | (with_reducible apply kept_ite)
    | (with_reducible apply kept_ite_fst) | (with_reducible apply out_next) | (with_reducible apply out_ite)
    | (with_reducible apply kept_foldl) | (with_reducible apply kept_foldl_fst)
    | (with_reducible refine kept_fst ?_ (by assumption)) | (split)
    | (simp only [kept_mk, kept_mk_hif, kept_mk_mem, kept_mk_both])

theorem recordFault_kept {k : Keep} {s : State} {a1 a2 a3 a4} (h : s.Kept k) : (State.recordFault s a1 a2 a3 a4).Kept k := by
  unfold State.recordFault
  try simp only [kept_mk, kept_mk_hif, kept_mk_mem, kept_mk_both]
  repeat' first
    | (with_reducible assumption) | (with_reducible intro _) | (with_reducible apply modIslA_kept)
    | (with_reducible apply showFault_kept) | (with_reducible apply modIslB_kept) | (with_reducible apply kept_ite)
    | (with_reducible apply kept_ite_fst) | (with_reducible apply out_next) | (with_reducible apply out_ite)
    | (with_reducible apply kept_foldl) | (with_reducible apply kept_foldl_fst)
    | (with_reducible refine kept_fst ?_ (by assumption)) | (split)
    | (simp only [kept_mk, kept_mk_hif, kept_mk_mem, kept_mk_both])

theorem refuseIsland_kept {k : Keep} {s : State} {a1} (h : s.Kept k) : (State.refuseIsland s a1).Kept k := by
  unfold State.refuseIsland
  try simp only [kept_mk, kept_mk_hif, kept_mk_mem, kept_mk_both]
  repeat' first
    | (with_reducible assumption) | (with_reducible intro _) | (with_reducible apply reactA_kept)
    | (with_reducible apply stopB_kept) | (with_reducible apply loseIslandB_kept) | (with_reducible apply kept_ite)

theorem voteClass_kept {k : Keep} {s : State} {a1} (h : s.Kept k) : (State.voteClass s a1).1.Kept k := by
  unfold State.voteClass
  try simp only [kept_mk, kept_mk_hif, kept_mk_mem, kept_mk_both]
  repeat' first
    | (with_reducible assumption) | (with_reducible intro _) | (with_reducible apply voteRecord_kept)
    | (with_reducible apply loadRecord_kept) | (with_reducible apply kept_ite) | (with_reducible apply kept_ite_fst)
    | (with_reducible apply out_next) | (with_reducible apply out_ite) | (with_reducible apply kept_foldl)
    | (with_reducible apply kept_foldl_fst) | (with_reducible refine kept_fst ?_ (by assumption)) | (split)

theorem refuseClass_kept {k : Keep} {s : State} {a1} (h : s.Kept k) : (State.refuseClass s a1).Kept k := by
  unfold State.refuseClass
  try simp only [kept_mk, kept_mk_hif, kept_mk_mem, kept_mk_both]
  repeat' first
    | (with_reducible assumption) | (with_reducible intro _) | (with_reducible apply stopForClass_kept)
    | (with_reducible apply wr_kept)

theorem voteIsland_kept {k : Keep} {s : State} {a1} (h : s.Kept k) : (State.voteIsland s a1).1.Kept k := by
  unfold State.voteIsland
  try simp only [kept_mk, kept_mk_hif, kept_mk_mem, kept_mk_both]
  repeat' first
    | (with_reducible assumption) | (with_reducible intro _) | (with_reducible apply voteRecord_kept)
    | (with_reducible apply kept_ite) | (with_reducible apply kept_ite_fst) | (with_reducible apply out_next)
    | (with_reducible apply out_ite) | (with_reducible apply kept_foldl) | (with_reducible apply kept_foldl_fst)
    | (with_reducible refine kept_fst ?_ (by assumption)) | (split)
    | (simp only [kept_mk, kept_mk_hif, kept_mk_mem, kept_mk_both])

theorem voteAll_kept {k : Keep} {s : State} {a1 a2} (h : s.Kept k) : (State.voteAll s a1 a2).1.Kept k := by
  unfold State.voteAll
  try simp only [kept_mk, kept_mk_hif, kept_mk_mem, kept_mk_both]
  repeat' first
    | (with_reducible assumption) | (with_reducible intro _) | (with_reducible apply voteRecord_kept)
    | (with_reducible apply voteIsland_kept) | (with_reducible apply kept_ite) | (with_reducible apply kept_ite_fst)
    | (with_reducible apply out_next) | (with_reducible apply out_ite) | (with_reducible apply kept_foldl)
    | (with_reducible apply kept_foldl_fst) | (with_reducible refine kept_fst ?_ (by assumption)) | (split)
    | (simp only [kept_mk, kept_mk_hif, kept_mk_mem, kept_mk_both])

theorem refuseIslands_kept {k : Keep} {s : State} {a1 a2} (h : s.Kept k) : (State.refuseIslands s a1 a2).Kept k := by
  unfold State.refuseIslands
  try simp only [kept_mk, kept_mk_hif, kept_mk_mem, kept_mk_both]
  repeat' first
    | (with_reducible assumption) | (with_reducible intro _) | (with_reducible apply refuseIsland_kept)
    | (with_reducible apply kept_ite) | (with_reducible apply kept_ite_fst) | (with_reducible apply out_next)
    | (with_reducible apply out_ite) | (with_reducible apply kept_foldl) | (with_reducible apply kept_foldl_fst)
    | (with_reducible refine kept_fst ?_ (by assumption)) | (split)
    | (simp only [kept_mk, kept_mk_hif, kept_mk_mem, kept_mk_both])

theorem setGuard_kept {k : Keep} {s : State} {a1 a2} (h : s.Kept k) : (State.setGuard s a1 a2).Kept k := by
  unfold State.setGuard
  try simp only [kept_mk, kept_mk_hif, kept_mk_mem, kept_mk_both]
  repeat' first
    | (with_reducible assumption)

theorem disarmClass_kept {k : Keep} {s : State} {a1} (h : s.Kept k) : (State.disarmClass s a1).Kept k := by
  unfold State.disarmClass
  try simp only [kept_mk, kept_mk_hif, kept_mk_mem, kept_mk_both]
  repeat' first
    | (with_reducible assumption) | (with_reducible intro _) | (with_reducible apply setGuard_kept)
    | (with_reducible apply kept_ite) | (with_reducible apply kept_ite_fst) | (with_reducible apply out_next)
    | (with_reducible apply out_ite) | (with_reducible apply kept_foldl) | (with_reducible apply kept_foldl_fst)
    | (with_reducible refine kept_fst ?_ (by assumption)) | (split)

theorem startRestart_kept {k : Keep} {s : State} {a1 a2 a3 a4} (h : s.Kept k) : (State.startRestart s a1 a2 a3 a4).Kept k := by
  unfold State.startRestart
  try simp only [kept_mk, kept_mk_hif, kept_mk_mem, kept_mk_both]
  repeat' first
    | (with_reducible assumption) | (with_reducible intro _) | (with_reducible apply inc_kept) | (with_reducible apply wr_kept)
    | (with_reducible apply restartQueue_kept) | (with_reducible apply disarmClass_kept) | (with_reducible apply kept_ite)
    | (with_reducible apply kept_ite_fst) | (with_reducible apply out_next) | (with_reducible apply out_ite)
    | (with_reducible apply kept_foldl) | (with_reducible apply kept_foldl_fst)
    | (with_reducible refine kept_fst ?_ (by assumption)) | (split) | (simp only [kept_mk, kept_mk_hif, kept_mk_mem, kept_mk_both])

theorem freshRecord_kept {k : Keep} {s : State} {a1 a2} (h : s.Kept k) : (State.freshRecord s a1 a2).Kept k := by
  unfold State.freshRecord
  try simp only [kept_mk, kept_mk_hif, kept_mk_mem, kept_mk_both]
  repeat' first
    | (with_reducible assumption) | (with_reducible intro _) | (with_reducible apply setGuard_kept)
    | (with_reducible apply kept_ite) | (with_reducible apply kept_ite_fst) | (with_reducible apply out_next)
    | (with_reducible apply out_ite) | (with_reducible apply kept_foldl) | (with_reducible apply kept_foldl_fst)
    | (with_reducible refine kept_fst ?_ (by assumption)) | (split) | (simp only [kept_mk, kept_mk_hif, kept_mk_mem, kept_mk_both])

theorem applyRecord_kept {k : Keep} {s : State} {a1} (h : s.Kept k) : (State.applyRecord s a1).Kept k := by
  unfold State.applyRecord
  try simp only [kept_mk, kept_mk_hif, kept_mk_mem, kept_mk_both]
  repeat' first
    | (with_reducible assumption) | (with_reducible intro _) | (with_reducible apply freshRecord_kept)
    | (with_reducible apply loadRecord_kept) | (with_reducible apply kept_ite) | (with_reducible apply kept_ite_fst)
    | (with_reducible apply out_next) | (with_reducible apply out_ite) | (with_reducible apply kept_foldl)
    | (with_reducible apply kept_foldl_fst) | (with_reducible refine kept_fst ?_ (by assumption)) | (split)
    | (simp only [kept_mk, kept_mk_hif, kept_mk_mem, kept_mk_both])

theorem restartEvent_kept {k : Keep} {s : State} {a1} (h : s.Kept k) : (State.restartEvent s a1).Kept k := by
  unfold State.restartEvent
  try simp only [kept_mk, kept_mk_hif, kept_mk_mem, kept_mk_both]
  repeat' first
    | (with_reducible assumption) | (with_reducible intro _) | (with_reducible apply event_kept)

theorem endRestart_kept {k : Keep} {s : State} {a1} (h : s.Kept k) : (State.endRestart s a1).Kept k := by
  unfold State.endRestart
  try simp only [kept_mk, kept_mk_hif, kept_mk_mem, kept_mk_both]
  repeat' first
    | (with_reducible assumption) | (with_reducible intro _) | (with_reducible apply resetClass_kept)
    | (with_reducible apply voteClass_kept) | (with_reducible apply applyRecord_kept) | (with_reducible apply useSched_kept)
    | (with_reducible apply wrB_kept) | (with_reducible apply rearmQueue_kept) | (with_reducible apply safeAll_kept)
    | (with_reducible apply restartEvent_kept) | (with_reducible apply refuseClass_kept) | (with_reducible apply kept_ite)
    | (with_reducible apply kept_ite_fst) | (with_reducible apply out_next) | (with_reducible apply out_ite)
    | (with_reducible apply kept_foldl) | (with_reducible apply kept_foldl_fst)
    | (with_reducible refine kept_fst ?_ (by assumption)) | (split) | (simp only [kept_mk, kept_mk_hif, kept_mk_mem, kept_mk_both])

theorem degradeClass_kept {k : Keep} {s : State} {a1 a2 a3} (h : s.Kept k) : (State.degradeClass s a1 a2 a3).Kept k := by
  unfold State.degradeClass
  try simp only [kept_mk, kept_mk_hif, kept_mk_mem, kept_mk_both]
  repeat' first
    | (with_reducible assumption) | (with_reducible intro _) | (with_reducible apply stopForClass_kept)
    | (with_reducible apply event_kept) | (with_reducible apply wr_kept)

theorem excludePair_kept {k : Keep} {s : State} {a1} (h : s.Kept k) : (State.excludePair s a1).Kept k := by
  unfold State.excludePair
  try simp only [kept_mk, kept_mk_hif, kept_mk_mem, kept_mk_both]
  repeat' first
    | (with_reducible assumption) | (with_reducible intro _) | (with_reducible apply safLog_kept)
    | (with_reducible apply dropDieForagers_kept) | (with_reducible apply startRestart_kept)
    | (with_reducible apply lowerGuarantees_kept) | (with_reducible apply replaceCombs_kept)
    | (with_reducible apply markExcluded_kept) | (with_reducible apply kept_ite)

theorem guardFinding_kept {k : Keep} {s : State} {a1 a2 a3} (h : s.Kept k) : (State.guardFinding s a1 a2 a3).Kept k := by
  unfold State.guardFinding
  try simp only [kept_mk, kept_mk_hif, kept_mk_mem, kept_mk_both]
  repeat' first
    | (with_reducible assumption) | (with_reducible intro _) | (with_reducible apply safLog_kept)
    | (with_reducible apply setGuard_kept) | (with_reducible apply wr_kept) | (with_reducible apply startRestart_kept)
    | (with_reducible apply kept_ite)

theorem kickGuard_kept {k : Keep} {s : State} {a1} (h : s.Kept k) : (State.kickGuard s a1).Kept k := by
  unfold State.kickGuard
  try simp only [kept_mk, kept_mk_hif, kept_mk_mem, kept_mk_both]
  repeat' first
    | (with_reducible assumption) | (with_reducible intro _) | (with_reducible apply wr_kept)
    | (with_reducible apply setGuard_kept) | (with_reducible apply guardFinding_kept) | (with_reducible apply kept_ite)

theorem expireGuard_kept {k : Keep} {s : State} {a1} (h : s.Kept k) : (State.expireGuard s a1).Kept k := by
  unfold State.expireGuard
  try simp only [kept_mk, kept_mk_hif, kept_mk_mem, kept_mk_both]
  repeat' first
    | (with_reducible assumption) | (with_reducible intro _) | (with_reducible apply waitTo_kept)
    | (with_reducible apply guardFinding_kept) | (with_reducible apply kept_ite)

theorem disableRecord_kept {k : Keep} {s : State} {a1 a2} (h : s.Kept k) : (State.disableRecord s a1 a2).Kept k := by
  unfold State.disableRecord
  try simp only [kept_mk, kept_mk_hif, kept_mk_mem, kept_mk_both]
  repeat' first
    | (with_reducible assumption)

theorem guardsGone_kept {k : Keep} {s : State} (h : s.Kept k) : (State.guardsGone s).Kept k := by
  unfold State.guardsGone
  try simp only [kept_mk, kept_mk_hif, kept_mk_mem, kept_mk_both]
  repeat' first
    | (with_reducible assumption) | (with_reducible intro _) | (with_reducible apply setGuard_kept)
    | (with_reducible apply disableRecord_kept) | (with_reducible apply safLog_kept) | (with_reducible apply wr_kept)
    | (with_reducible apply kept_ite) | (with_reducible apply kept_ite_fst) | (with_reducible apply out_next)
    | (with_reducible apply out_ite) | (with_reducible apply kept_foldl)

theorem setIntervals_kept {k : Keep} {s : State} {a1 a2} (h : s.Kept k) : (State.setIntervals s a1 a2).Kept k := by
  unfold State.setIntervals
  try simp only [kept_mk, kept_mk_hif, kept_mk_mem, kept_mk_both]
  repeat' first
    | (with_reducible assumption)

theorem missDeadline_kept {k : Keep} {s : State} {a1} (h : s.Kept k) : (State.missDeadline s a1).Kept k := by
  unfold State.missDeadline
  try simp only [kept_mk, kept_mk_hif, kept_mk_mem, kept_mk_both]
  repeat' first
    | (with_reducible assumption) | (with_reducible intro _) | (with_reducible apply safLog_kept) | (with_reducible apply wr_kept)
    | (with_reducible apply startRestart_kept) | (with_reducible apply kept_ite)

theorem openInterval_kept {k : Keep} {s : State} {a1 a2} (h : s.Kept k) : (State.openInterval s a1 a2).Kept k := by
  unfold State.openInterval
  try simp only [kept_mk, kept_mk_hif, kept_mk_mem, kept_mk_both]
  repeat' first
    | (with_reducible assumption) | (with_reducible intro _) | (with_reducible apply setIntervals_kept)
    | (with_reducible apply missDeadline_kept) | (with_reducible apply kept_ite) | (with_reducible apply kept_ite_fst)
    | (with_reducible apply out_next) | (with_reducible apply out_ite) | (with_reducible apply kept_foldl)
    | (with_reducible apply kept_foldl_fst) | (with_reducible refine kept_fst ?_ (by assumption)) | (split)

theorem closeInterval_kept {k : Keep} {s : State} {a1} (h : s.Kept k) : (State.closeInterval s a1).Kept k := by
  unfold State.closeInterval
  try simp only [kept_mk, kept_mk_hif, kept_mk_mem, kept_mk_both]
  repeat' first
    | (with_reducible assumption) | (with_reducible intro _) | (with_reducible apply inc_kept)
    | (with_reducible apply setIntervals_kept) | (with_reducible apply kept_ite) | (with_reducible apply kept_ite_fst)
    | (with_reducible apply out_next) | (with_reducible apply out_ite) | (with_reducible apply kept_foldl)
    | (with_reducible apply kept_foldl_fst) | (with_reducible refine kept_fst ?_ (by assumption)) | (split)

theorem expireInterval_kept {k : Keep} {s : State} {a1} (h : s.Kept k) : (State.expireInterval s a1).Kept k := by
  unfold State.expireInterval
  try simp only [kept_mk, kept_mk_hif, kept_mk_mem, kept_mk_both]
  repeat' first
    | (with_reducible assumption) | (with_reducible intro _) | (with_reducible apply missDeadline_kept)
    | (with_reducible apply setIntervals_kept) | (with_reducible apply waitTo_kept) | (with_reducible apply kept_ite)
    | (with_reducible apply kept_ite_fst) | (with_reducible apply out_next) | (with_reducible apply out_ite)
    | (with_reducible apply kept_foldl) | (with_reducible apply kept_foldl_fst)
    | (with_reducible refine kept_fst ?_ (by assumption)) | (split)

theorem setChecker_kept {k : Keep} {s : State} {a1 a2} (h : s.Kept k) : (State.setChecker s a1 a2).Kept k := by
  unfold State.setChecker
  try simp only [kept_mk, kept_mk_hif, kept_mk_mem, kept_mk_both]
  repeat' first
    | (with_reducible assumption)

theorem readSummary_kept {k : Keep} {s : State} {a1 a2 a3} (h : s.Kept k) : (State.readSummary s a1 a2 a3).1.Kept k := by
  unfold State.readSummary
  try simp only [kept_mk, kept_mk_hif, kept_mk_mem, kept_mk_both]
  repeat' first
    | (with_reducible assumption) | (with_reducible intro _) | (with_reducible apply objLoad_kept)
    | (with_reducible apply kept_ite) | (with_reducible apply kept_ite_fst)

theorem writeVerdict_kept {k : Keep} {s : State} {a1 a2 a3} (h : s.Kept k) : (State.writeVerdict s a1 a2 a3).Kept k := by
  unfold State.writeVerdict
  try simp only [kept_mk, kept_mk_hif, kept_mk_mem, kept_mk_both]
  repeat' first
    | (with_reducible assumption) | (with_reducible intro _) | (with_reducible apply devStore_kept)
    | (with_reducible apply kept_ite)

theorem decideFrame_kept {k : Keep} {s : State} {a1 a2 a3} (h : s.Kept k) : (State.decideFrame s a1 a2 a3).Kept k := by
  unfold State.decideFrame
  try simp only [kept_mk, kept_mk_hif, kept_mk_mem, kept_mk_both]
  repeat' first
    | (with_reducible assumption) | (with_reducible intro _) | (with_reducible apply writeVerdict_kept)
    | (with_reducible apply setChecker_kept) | (with_reducible apply wr_kept) | (with_reducible apply safLog_kept)
    | (with_reducible apply startRestart_kept) | (with_reducible apply degradeClass_kept) | (with_reducible apply kept_ite)

theorem undecidedFrame_kept {k : Keep} {s : State} {a1 a2} (h : s.Kept k) : (State.undecidedFrame s a1 a2).Kept k := by
  unfold State.undecidedFrame
  try simp only [kept_mk, kept_mk_hif, kept_mk_mem, kept_mk_both]
  repeat' first
    | (with_reducible assumption) | (with_reducible intro _) | (with_reducible apply safLog_kept)
    | (with_reducible apply writeVerdict_kept) | (with_reducible apply setChecker_kept)

theorem copySummaries_kept {k : Keep} {s : State} {a1} (h : s.Kept k) : (State.copySummaries s a1).Kept k := by
  unfold State.copySummaries
  try simp only [kept_mk, kept_mk_hif, kept_mk_mem, kept_mk_both]
  repeat' first
    | (with_reducible assumption) | (with_reducible intro _) | (with_reducible apply readSummary_kept)
    | (with_reducible apply setChecker_kept) | (with_reducible apply decideFrame_kept) | (with_reducible apply kept_ite)
    | (with_reducible apply kept_ite_fst) | (with_reducible apply out_next) | (with_reducible apply out_ite)
    | (with_reducible apply kept_foldl) | (with_reducible apply kept_foldl_fst)
    | (with_reducible refine kept_fst ?_ (by assumption)) | (split)

theorem expireLag_kept {k : Keep} {s : State} {a1} (h : s.Kept k) : (State.expireLag s a1).Kept k := by
  unfold State.expireLag
  try simp only [kept_mk, kept_mk_hif, kept_mk_mem, kept_mk_both]
  repeat' first
    | (with_reducible assumption) | (with_reducible intro _) | (with_reducible apply undecidedFrame_kept)
    | (with_reducible apply waitTo_kept) | (with_reducible apply kept_ite) | (with_reducible apply kept_ite_fst)
    | (with_reducible apply out_next) | (with_reducible apply out_ite) | (with_reducible apply kept_foldl)
    | (with_reducible apply kept_foldl_fst) | (with_reducible refine kept_fst ?_ (by assumption)) | (split)

theorem setGolden_kept {k : Keep} {s : State} {a1 a2} (h : s.Kept k) : (State.setGolden s a1 a2).Kept k := by
  unfold State.setGolden
  try simp only [kept_mk, kept_mk_hif, kept_mk_mem, kept_mk_both]
  repeat' first
    | (with_reducible assumption)

theorem releaseGolden_kept {k : Keep} {s : State} {a1} (h : s.Kept k) : (State.releaseGolden s a1).Kept k := by
  unfold State.releaseGolden
  try simp only [kept_mk, kept_mk_hif, kept_mk_mem, kept_mk_both]
  repeat' first
    | (with_reducible assumption) | (with_reducible intro _) | (with_reducible apply setGolden_kept)
    | (with_reducible apply devStore_kept) | (with_reducible apply kept_ite)

theorem lapseGolden_kept {k : Keep} {s : State} {a1} (h : s.Kept k) : (State.lapseGolden s a1).Kept k := by
  unfold State.lapseGolden
  try simp only [kept_mk, kept_mk_hif, kept_mk_mem, kept_mk_both]
  repeat' first
    | (with_reducible assumption) | (with_reducible intro _) | (with_reducible apply safLog_kept)
    | (with_reducible apply setGolden_kept) | (with_reducible apply wr_kept) | (with_reducible apply event_kept)
    | (with_reducible apply stopA_kept) | (with_reducible apply stopB_kept) | (with_reducible apply kept_ite)

theorem kickGolden_kept {k : Keep} {s : State} {a1 a2} (h : s.Kept k) : (State.kickGolden s a1 a2).Kept k := by
  unfold State.kickGolden
  try simp only [kept_mk, kept_mk_hif, kept_mk_mem, kept_mk_both]
  repeat' first
    | (with_reducible assumption) | (with_reducible intro _) | (with_reducible apply setGolden_kept)
    | (with_reducible apply releaseGolden_kept) | (with_reducible apply lapseGolden_kept) | (with_reducible apply safLog_kept)
    | (with_reducible apply kept_ite) | (with_reducible apply kept_ite_fst) | (with_reducible apply out_next)
    | (with_reducible apply out_ite) | (with_reducible apply kept_foldl) | (with_reducible apply kept_foldl_fst)
    | (with_reducible refine kept_fst ?_ (by assumption)) | (split)

theorem endGolden_kept {k : Keep} {s : State} {a1 a2 a3} (h : s.Kept k) : (State.endGolden s a1 a2 a3).Kept k := by
  unfold State.endGolden
  try simp only [kept_mk, kept_mk_hif, kept_mk_mem, kept_mk_both]
  repeat' first
    | (with_reducible assumption) | (with_reducible intro _) | (with_reducible apply readSummary_kept)
    | (with_reducible apply safLog_kept) | (with_reducible apply setGolden_kept) | (with_reducible apply wr_kept)
    | (with_reducible apply wrB_kept) | (with_reducible apply startRestart_kept) | (with_reducible apply degradeClass_kept)
    | (with_reducible apply kept_ite) | (with_reducible apply kept_ite_fst)

theorem onListStart_kept {k : Keep} {s : State} {a1} (h : s.Kept k) : (State.onListStart s a1).Kept k := by
  unfold State.onListStart
  try simp only [kept_mk, kept_mk_hif, kept_mk_mem, kept_mk_both]
  repeat' first
    | (with_reducible assumption) | (with_reducible intro _) | (with_reducible apply openInterval_kept)
    | (with_reducible apply kept_ite) | (with_reducible apply kept_ite_fst) | (with_reducible apply out_next)
    | (with_reducible apply out_ite) | (with_reducible apply kept_foldl)

theorem onKick_kept {k : Keep} {s : State} {a1} (h : s.Kept k) : (State.onKick s a1).Kept k := by
  unfold State.onKick
  try simp only [kept_mk, kept_mk_hif, kept_mk_mem, kept_mk_both]
  repeat' first
    | (with_reducible assumption) | (with_reducible intro _) | (with_reducible apply kickGuard_kept)
    | (with_reducible apply closeInterval_kept) | (with_reducible apply kickGolden_kept) | (with_reducible apply kept_ite)
    | (with_reducible apply kept_ite_fst) | (with_reducible apply out_next) | (with_reducible apply out_ite)
    | (with_reducible apply kept_foldl)

theorem onListEnd_kept {k : Keep} {s : State} {a1} (h : s.Kept k) : (State.onListEnd s a1).Kept k := by
  unfold State.onListEnd
  try simp only [kept_mk, kept_mk_hif, kept_mk_mem, kept_mk_both]
  repeat' first
    | (with_reducible assumption) | (with_reducible intro _) | (with_reducible apply onKick_kept)
    | (with_reducible apply setChecker_kept) | (with_reducible apply endGolden_kept) | (with_reducible apply kept_ite)
    | (with_reducible apply kept_ite_fst) | (with_reducible apply out_next) | (with_reducible apply out_ite)
    | (with_reducible apply kept_foldl)

theorem settleLoop_kept {k : Keep} {s : State} {a0} (h : s.Kept k) : (settleLoop a0 s).Kept k := by
  induction a0 generalizing s with
  | zero => exact h
  | succ n ih =>
    unfold settleLoop
    split
    · exact h
    · refine ih ?_
      dsimp only
      split
      · exact onListStart_kept (kept_of h rfl rfl rfl rfl rfl rfl rfl rfl rfl)
      · exact kept_of h rfl rfl rfl rfl rfl rfl rfl rfl rfl
    · refine ih ?_
      dsimp only
      split
      · exact onListEnd_kept (kept_of h rfl rfl rfl rfl rfl rfl rfl rfl rfl)
      · exact kept_of h rfl rfl rfl rfl rfl rfl rfl rfl rfl

theorem settle_kept {k : Keep} {s : State} (h : s.Kept k) : (State.settle s).Kept k := by
  unfold State.settle
  try simp only [kept_mk, kept_mk_hif, kept_mk_mem, kept_mk_both]
  repeat' first
    | (with_reducible assumption) | (with_reducible intro _) | (with_reducible apply settleLoop_kept)
    | (with_reducible apply guardsGone_kept) | (with_reducible apply kept_ite)

theorem fin_kept {k : Keep} {s : State} (h : s.Kept k) : OutKept k (fin s) := by
  unfold fin
  try simp only [kept_mk, kept_mk_hif, kept_mk_mem, kept_mk_both]
  repeat' first
    | (with_reducible assumption) | (with_reducible intro _) | (with_reducible apply settle_kept) | (with_reducible apply kept_ite)
    | (with_reducible apply kept_ite_fst) | (with_reducible apply out_next)

end Sys2Proof.Laws
end

