-- ==== Sys2Proof/Laws/KeptCombCmds.lean ====
section
/-! SUPPORT. What every operation of Machine/CombCmds.lean keeps (`State.Kept`): one lemma for each. -/
set_option linter.unusedSimpArgs false
namespace Sys2Proof.Laws
open Sys2Proof Sys2Proof.Machine

theorem slotwaitPasses_kept {k : Keep} {s : State} {a1 a2 a3 a4} (h : s.Kept k) :
    (State.slotwaitPasses s a1 a2 a3 a4).Kept k := by
  unfold State.slotwaitPasses
  try simp only [kept_mk, kept_mk_hif, kept_mk_mem, kept_mk_both]
  repeat' first
    | (with_reducible assumption) | (with_reducible intro _) | (with_reducible apply modComb_kept)
    | (with_reducible apply incHold_kept) | (with_reducible apply inc_kept) | (with_reducible apply slotWaitFault_kept)
    | (with_reducible apply kept_ite) | (with_reducible apply kept_ite_fst) | (with_reducible apply out_next)
    | (with_reducible apply out_ite) | (with_reducible apply kept_foldl) | (with_reducible apply kept_foldl_fst)
    | (with_reducible refine kept_fst ?_ (by assumption)) | (split)
    | (simp only [kept_mk, kept_mk_hif, kept_mk_mem, kept_mk_both])

theorem execSlotwaitExpiry_kept {k : Keep} {s : State} {a0} (h : s.Kept k) : OutKept k (execSlotwaitExpiry a0 s) := by
  unfold execSlotwaitExpiry
  try simp only [kept_mk, kept_mk_hif, kept_mk_mem, kept_mk_both]
  repeat' first
    | (with_reducible assumption) | (with_reducible intro _) | (with_reducible apply fin_kept)
    | (with_reducible apply slotwaitPasses_kept) | (with_reducible apply kept_ite) | (with_reducible apply kept_ite_fst)
    | (with_reducible apply out_next) | (with_reducible apply out_ite) | (with_reducible apply kept_foldl)
    | (with_reducible apply kept_foldl_fst) | (with_reducible refine kept_fst ?_ (by assumption)) | (split)

theorem setForager_kept {k : Keep} {s : State} {a1 a2 a3} (h : s.Kept k) : (State.setForager s a1 a2 a3).Kept k := by
  unfold State.setForager
  try simp only [kept_mk, kept_mk_hif, kept_mk_mem, kept_mk_both]
  repeat' first
    | (with_reducible assumption) | (with_reducible intro _) | (with_reducible apply modComb_kept)

theorem admitXfer_kept {k : Keep} {s : State} {a1 a2} (h : s.Kept k) : (State.admitXfer s a1 a2).Kept k := by
  unfold State.admitXfer
  try simp only [kept_mk, kept_mk_hif, kept_mk_mem, kept_mk_both]
  repeat' first
    | (with_reducible assumption) | (with_reducible intro _) | (with_reducible apply setForager_kept)
    | (with_reducible apply kept_ite) | (with_reducible apply kept_ite_fst) | (with_reducible apply out_next)
    | (with_reducible apply out_ite) | (with_reducible apply kept_foldl) | (with_reducible apply kept_foldl_fst)
    | (with_reducible refine kept_fst ?_ (by assumption)) | (split)

theorem foragerWaits_kept {k : Keep} {s : State} {a1 a2 a3} (h : s.Kept k) : (State.foragerWaits s a1 a2 a3).Kept k := by
  unfold State.foragerWaits
  try simp only [kept_mk, kept_mk_hif, kept_mk_mem, kept_mk_both]
  repeat' first
    | (with_reducible assumption) | (with_reducible intro _) | (with_reducible apply slotWaitFault_kept)
    | (with_reducible apply setForager_kept) | (with_reducible apply kept_ite) | (with_reducible apply kept_ite_fst)
    | (with_reducible apply out_next) | (with_reducible apply out_ite) | (with_reducible apply kept_foldl)
    | (with_reducible apply kept_foldl_fst) | (with_reducible refine kept_fst ?_ (by assumption)) | (split)

theorem foragersWait_kept {k : Keep} {s : State} {a1} (h : s.Kept k) : (State.foragersWait s a1).Kept k := by
  unfold State.foragersWait
  try simp only [kept_mk, kept_mk_hif, kept_mk_mem, kept_mk_both]
  repeat' first
    | (with_reducible assumption) | (with_reducible intro _) | (with_reducible apply foragerWaits_kept)

theorem execBundleIssue_kept {k : Keep} {s : State} {a0 a1 a2} (h : s.Kept k) : OutKept k (execBundleIssue a0 a1 a2 s) := by
  unfold execBundleIssue
  try simp only [kept_mk, kept_mk_hif, kept_mk_mem, kept_mk_both]
  repeat' first
    | (with_reducible assumption) | (with_reducible intro _) | (with_reducible apply unlessStalled_kept)
    | (with_reducible apply fin_kept) | (with_reducible apply combCycle_kept) | (with_reducible apply foragersWait_kept)
    | (with_reducible apply kept_ite) | (with_reducible apply kept_ite_fst) | (with_reducible apply out_next)
    | (with_reducible apply out_ite) | (with_reducible apply kept_foldl) | (with_reducible apply kept_foldl_fst)
    | (with_reducible refine kept_fst ?_ (by assumption)) | (split)
    | (simp only [kept_mk, kept_mk_hif, kept_mk_mem, kept_mk_both])

theorem execForagerSlotAdmit_kept {k : Keep} {s : State} {a0 a1} (h : s.Kept k) : OutKept k (execForagerSlotAdmit a0 a1 s) := by
  unfold execForagerSlotAdmit
  try simp only [kept_mk, kept_mk_hif, kept_mk_mem, kept_mk_both]
  repeat' first
    | (with_reducible assumption) | (with_reducible intro _) | (with_reducible apply fin_kept)
    | (with_reducible apply faultComb_kept) | (with_reducible apply admitXfer_kept) | (with_reducible apply setForager_kept)
    | (with_reducible apply kept_ite) | (with_reducible apply kept_ite_fst) | (with_reducible apply out_next)
    | (with_reducible apply out_ite) | (with_reducible apply kept_foldl) | (with_reducible apply kept_foldl_fst)
    | (with_reducible refine kept_fst ?_ (by assumption)) | (split)

theorem execForagerSlotwaitExpiry_kept {k : Keep} {s : State} {a0 a1} (h : s.Kept k) :
    OutKept k (execForagerSlotwaitExpiry a0 a1 s) := by
  unfold execForagerSlotwaitExpiry
  try simp only [kept_mk, kept_mk_hif, kept_mk_mem, kept_mk_both]
  repeat' first
    | (with_reducible assumption) | (with_reducible intro _) | (with_reducible apply fin_kept)
    | (with_reducible apply foragerWaits_kept) | (with_reducible apply elapse_kept) | (with_reducible apply kept_ite)
    | (with_reducible apply kept_ite_fst) | (with_reducible apply out_next) | (with_reducible apply out_ite)
    | (with_reducible apply kept_foldl) | (with_reducible apply kept_foldl_fst)
    | (with_reducible refine kept_fst ?_ (by assumption)) | (split)

theorem touchSlots_kept {k : Keep} {s : State} {a1 a2 a3} (h : s.Kept k) : (State.touchSlots s a1 a2 a3).Kept k := by
  unfold State.touchSlots
  try simp only [kept_mk, kept_mk_hif, kept_mk_mem, kept_mk_both]
  repeat' first
    | (with_reducible assumption) | (with_reducible intro _) | (with_reducible apply modComb_kept)

theorem execForagerTransferDone_kept {k : Keep} {s : State} {a0 a1} (h : s.Kept k) :
    OutKept k (execForagerTransferDone a0 a1 s) := by
  unfold execForagerTransferDone
  try simp only [kept_mk, kept_mk_hif, kept_mk_mem, kept_mk_both]
  repeat' first
    | (with_reducible assumption) | (with_reducible intro _) | (with_reducible apply unlessStalled_kept)
    | (with_reducible apply setForager_kept) | (with_reducible apply objLoad_kept) | (with_reducible apply fin_kept)
    | (with_reducible apply faultComb_kept) | (with_reducible apply modComb_kept) | (with_reducible apply touchSlots_kept)
    | (with_reducible apply objStore_kept) | (with_reducible apply poisonWord_kept) | (with_reducible apply kept_ite)
    | (with_reducible apply kept_ite_fst) | (with_reducible apply out_next) | (with_reducible apply out_ite)
    | (with_reducible apply kept_foldl) | (with_reducible apply kept_foldl_fst)
    | (with_reducible refine kept_fst ?_ (by assumption)) | (split)
    | (simp only [kept_mk, kept_mk_hif, kept_mk_mem, kept_mk_both])

theorem takeSpOp_kept {k : Keep} {s : State} {a1 a2 a3} (h : s.Kept k) : (State.takeSpOp s a1 a2 a3).Kept k := by
  unfold State.takeSpOp
  try simp only [kept_mk, kept_mk_hif, kept_mk_mem, kept_mk_both]
  repeat' first
    | (with_reducible assumption) | (with_reducible intro _) | (with_reducible apply faultComb_kept)
    | (with_reducible apply admitXfer_kept) | (with_reducible apply setForager_kept) | (with_reducible apply kept_ite)
    | (with_reducible apply kept_ite_fst) | (with_reducible apply out_next) | (with_reducible apply out_ite)
    | (with_reducible apply kept_foldl) | (with_reducible apply kept_foldl_fst)
    | (with_reducible refine kept_fst ?_ (by assumption)) | (split)

theorem execSpFill_kept {k : Keep} {s : State} {a0 a1} (h : s.Kept k) : OutKept k (execSpFill a0 a1 s) := by
  unfold execSpFill
  try simp only [kept_mk, kept_mk_hif, kept_mk_mem, kept_mk_both]
  repeat' first
    | (with_reducible assumption) | (with_reducible intro _) | (with_reducible apply fin_kept)
    | (with_reducible apply takeSpOp_kept)

theorem execSpCopy_kept {k : Keep} {s : State} {a0 a1} (h : s.Kept k) : OutKept k (execSpCopy a0 a1 s) := by
  unfold execSpCopy
  try simp only [kept_mk, kept_mk_hif, kept_mk_mem, kept_mk_both]
  repeat' first
    | (with_reducible assumption) | (with_reducible intro _) | (with_reducible apply fin_kept)
    | (with_reducible apply takeSpOp_kept)

theorem execCacheWb_kept {k : Keep} {s : State} {a0 a1} (h : s.Kept k) : OutKept k (execCacheWb a0 a1 s) := by
  unfold execCacheWb
  try simp only [kept_mk, kept_mk_hif, kept_mk_mem, kept_mk_both]
  repeat' first
    | (with_reducible assumption) | (with_reducible intro _) | (with_reducible apply fin_kept)
    | (with_reducible apply takeSpOp_kept)

theorem execCacheInv_kept {k : Keep} {s : State} {a0 a1} (h : s.Kept k) : OutKept k (execCacheInv a0 a1 s) := by
  unfold execCacheInv
  try simp only [kept_mk, kept_mk_hif, kept_mk_mem, kept_mk_both]
  repeat' first
    | (with_reducible assumption) | (with_reducible intro _) | (with_reducible apply fin_kept)
    | (with_reducible apply takeSpOp_kept)

theorem execCacheWbinv_kept {k : Keep} {s : State} {a0 a1} (h : s.Kept k) : OutKept k (execCacheWbinv a0 a1 s) := by
  unfold execCacheWbinv
  try simp only [kept_mk, kept_mk_hif, kept_mk_mem, kept_mk_both]
  repeat' first
    | (with_reducible assumption) | (with_reducible intro _) | (with_reducible apply fin_kept)
    | (with_reducible apply takeSpOp_kept)

theorem doSpOp_kept {k : Keep} {s : State} {a1 a2} (h : s.Kept k) : (State.doSpOp s a1 a2).1.Kept k := by
  unfold State.doSpOp
  try simp only [kept_mk, kept_mk_hif, kept_mk_mem, kept_mk_both]
  repeat' first
    | (with_reducible assumption) | (with_reducible intro _) | (with_reducible apply modComb_kept)
    | (with_reducible apply drainWriteBacks_kept) | (with_reducible apply cleanLines_kept) | (with_reducible apply kept_ite)
    | (with_reducible apply kept_ite_fst)

theorem spMarks_kept {k : Keep} {s : State} {a1 a2} (h : s.Kept k) : (State.spMarks s a1 a2).Kept k := by
  unfold State.spMarks
  try simp only [kept_mk, kept_mk_hif, kept_mk_mem, kept_mk_both]
  repeat' first
    | (with_reducible assumption) | (with_reducible intro _) | (with_reducible apply touchSlots_kept)
    | (with_reducible apply kept_ite)

theorem execScratchpadOpDone_kept {k : Keep} {s : State} {a0 a1} (h : s.Kept k) : OutKept k (execScratchpadOpDone a0 a1 s) := by
  unfold execScratchpadOpDone
  try simp only [kept_mk, kept_mk_hif, kept_mk_mem, kept_mk_both]
  repeat' first
    | (with_reducible assumption) | (with_reducible intro _) | (with_reducible apply unlessStalled_kept)
    | (with_reducible apply setForager_kept) | (with_reducible apply doSpOp_kept) | (with_reducible apply fin_kept)
    | (with_reducible apply faultComb_kept) | (with_reducible apply spMarks_kept) | (with_reducible apply kept_ite)
    | (with_reducible apply kept_ite_fst) | (with_reducible apply out_next) | (with_reducible apply out_ite)
    | (with_reducible apply kept_foldl) | (with_reducible apply kept_foldl_fst)
    | (with_reducible refine kept_fst ?_ (by assumption)) | (split)
    | (simp only [kept_mk, kept_mk_hif, kept_mk_mem, kept_mk_both])

theorem execCacheFillDone_kept {k : Keep} {s : State} {a0} (h : s.Kept k) : OutKept k (execCacheFillDone a0 s) := by
  unfold execCacheFillDone
  try simp only [kept_mk, kept_mk_hif, kept_mk_mem, kept_mk_both]
  repeat' first
    | (with_reducible assumption) | (with_reducible intro _) | (with_reducible apply unlessStalled_kept)
    | (with_reducible apply drainWriteBacks_kept) | (with_reducible apply fin_kept) | (with_reducible apply faultComb_kept)
    | (with_reducible apply modComb_kept) | (with_reducible apply devLoad_kept) | (with_reducible apply kept_ite)
    | (with_reducible apply kept_ite_fst) | (with_reducible apply out_next) | (with_reducible apply out_ite)
    | (with_reducible apply kept_foldl) | (with_reducible apply kept_foldl_fst)
    | (with_reducible refine kept_fst ?_ (by assumption)) | (split)
    | (simp only [kept_mk, kept_mk_hif, kept_mk_mem, kept_mk_both])

theorem execScratchpadEccWriteback_kept {k : Keep} {s : State} {a0} (h : s.Kept k) :
    OutKept k (execScratchpadEccWriteback a0 s) := by
  unfold execScratchpadEccWriteback
  try simp only [kept_mk, kept_mk_hif, kept_mk_mem, kept_mk_both]
  repeat' first
    | (with_reducible assumption) | (with_reducible intro _) | (with_reducible apply fin_kept)
    | (with_reducible apply modComb_kept)

theorem writeDbg_kept {k : Keep} {s : State} {a1 a2 a3 a4} (h : s.Kept k) : (State.writeDbg s a1 a2 a3 a4).Kept k := by
  unfold State.writeDbg
  try simp only [kept_mk, kept_mk_hif, kept_mk_mem, kept_mk_both]
  repeat' first
    | (with_reducible assumption) | (with_reducible intro _) | (with_reducible apply wr_kept) | (with_reducible apply wrB_kept)
    | (with_reducible apply modComb_kept) | (with_reducible apply kept_ite)

theorem execCombDebugHalt_kept {k : Keep} {s : State} {a0} (h : s.Kept k) : OutKept k (execCombDebugHalt a0 s) := by
  unfold execCombDebugHalt
  try simp only [kept_mk, kept_mk_hif, kept_mk_mem, kept_mk_both]
  repeat' first
    | (with_reducible assumption) | (with_reducible intro _) | (with_reducible apply writeDbg_kept)
    | (with_reducible apply kept_ite) | (with_reducible apply kept_ite_fst) | (with_reducible apply out_next)

theorem execCombDebugRelease_kept {k : Keep} {s : State} {a0} (h : s.Kept k) : OutKept k (execCombDebugRelease a0 s) := by
  unfold execCombDebugRelease
  try simp only [kept_mk, kept_mk_hif, kept_mk_mem, kept_mk_both]
  repeat' first
    | (with_reducible assumption) | (with_reducible intro _) | (with_reducible apply writeDbg_kept)
    | (with_reducible apply kept_ite) | (with_reducible apply kept_ite_fst) | (with_reducible apply out_next)

theorem execCombDebugStep_kept {k : Keep} {s : State} {a0} (h : s.Kept k) : OutKept k (execCombDebugStep a0 s) := by
  unfold execCombDebugStep
  try simp only [kept_mk, kept_mk_hif, kept_mk_mem, kept_mk_both]
  repeat' first
    | (with_reducible assumption) | (with_reducible intro _) | (with_reducible apply writeDbg_kept)
    | (with_reducible apply kept_ite) | (with_reducible apply kept_ite_fst) | (with_reducible apply out_next)

theorem clearHolds_kept {k : Keep} {s : State} {a1} (h : s.Kept k) : (State.clearHolds s a1).Kept k := by
  unfold State.clearHolds
  try simp only [kept_mk, kept_mk_hif, kept_mk_mem, kept_mk_both]
  repeat' first
    | (with_reducible assumption) | (with_reducible intro _) | (with_reducible apply wr_kept) | (with_reducible apply kept_ite)
    | (with_reducible apply kept_ite_fst) | (with_reducible apply out_next) | (with_reducible apply out_ite)
    | (with_reducible apply kept_foldl)

theorem execCombClearCounters_kept {k : Keep} {s : State} {a0} (h : s.Kept k) : OutKept k (execCombClearCounters a0 s) := by
  unfold execCombClearCounters
  try simp only [kept_mk, kept_mk_hif, kept_mk_mem, kept_mk_both]
  repeat' first
    | (with_reducible assumption) | (with_reducible intro _) | (with_reducible apply clearHolds_kept)
    | (with_reducible apply kept_ite) | (with_reducible apply kept_ite_fst) | (with_reducible apply out_next)

theorem startSpdRead_kept {k : Keep} {s : State} {a1} (h : s.Kept k) : (State.startSpdRead s a1).Kept k := by
  unfold State.startSpdRead
  try simp only [kept_mk, kept_mk_hif, kept_mk_mem, kept_mk_both]
  repeat' first
    | (with_reducible assumption) | (with_reducible intro _) | (with_reducible apply wr_kept) | (with_reducible apply kept_ite)
    | (with_reducible apply kept_ite_fst) | (with_reducible apply out_next) | (with_reducible apply out_ite)
    | (with_reducible apply kept_foldl) | (with_reducible apply kept_foldl_fst)
    | (with_reducible refine kept_fst ?_ (by assumption)) | (split) | (simp only [kept_mk, kept_mk_hif, kept_mk_mem, kept_mk_both])

theorem execScratchpadDebugRead_kept {k : Keep} {s : State} {a0} (h : s.Kept k) : OutKept k (execScratchpadDebugRead a0 s) := by
  unfold execScratchpadDebugRead
  try simp only [kept_mk, kept_mk_hif, kept_mk_mem, kept_mk_both]
  repeat' first
    | (with_reducible assumption) | (with_reducible intro _) | (with_reducible apply startSpdRead_kept)
    | (with_reducible apply kept_ite) | (with_reducible apply kept_ite_fst) | (with_reducible apply out_next)

theorem execScratchpadDebugReadDone_kept {k : Keep} {s : State} {a0} (h : s.Kept k) : OutKept k (execScratchpadDebugReadDone a0 s) := by
  unfold execScratchpadDebugReadDone
  split
  · exact out_next h
  · extract_lets ws s1 s2
    have h1 : s1.Kept k := by
      unfold s1
      with_reducible apply kept_foldl
      · intro _ _ hs
        exact wr_kept hs
      · exact h
    clear_value s1
    have h2 : s2.Kept k := by
      unfold s2
      with_reducible exact wrB_kept (wr_kept h1)
    clear_value s2
    exact out_next (kept_of h2 rfl rfl rfl rfl rfl rfl rfl rfl rfl)

end Sys2Proof.Laws
end

