-- ==== Sys2Proof/Laws/KeptRecords.lean ====
section
/-! SUPPORT. What every operation of Machine/Records.lean keeps (`State.Kept`): one lemma for each. -/
set_option linter.unusedSimpArgs false
namespace Sys2Proof.Laws
open Sys2Proof Sys2Proof.Machine

theorem runOp_kept {k : Keep} {s : State} {a1 a2 a3 a4 a5} (h : s.Kept k) (ha5 : ∀ x0 x1, x0.Kept k → (a5 x0 x1).Kept k) :
    (State.runOp s a1 a2 a3 a4 a5).Kept k := by
  unfold State.runOp
  try simp only [kept_mk, kept_mk_hif, kept_mk_mem, kept_mk_both]
  repeat' first
    | (with_reducible assumption) | (with_reducible intro _) | (with_reducible apply ha5) | (with_reducible apply wr_kept)
    | (with_reducible apply faultRec_kept) | (with_reducible apply runRec_kept) | (with_reducible apply kept_ite)
    | (with_reducible apply kept_ite_fst) | (with_reducible apply out_next) | (with_reducible apply out_ite)
    | (with_reducible apply kept_foldl) | (with_reducible apply kept_foldl_fst)
    | (with_reducible refine kept_fst ?_ (by assumption)) | (split)

theorem checkReads_kept {k : Keep} {s : State} {a1 a2 a3 a4} (h : s.Kept k) (ha4 : ∀ x r, x.Kept k → (a4 x r).Kept k) :
    (State.checkReads s a1 a2 a3 a4).Kept k := by
  unfold State.checkReads
  split
  · exact h
  · exact kept_ite (ha4 _ _ h) h

end Sys2Proof.Laws
end

