-- ==== Sys2Proof/Laws/KeptControlCmds.lean ====
section
/-! SUPPORT. What every operation of Machine/ControlCmds.lean keeps (`State.Kept`): one lemma for each. -/
set_option linter.unusedSimpArgs false
namespace Sys2Proof.Laws
open Sys2Proof Sys2Proof.Machine

theorem loopSet_kept {k : Keep} {s : State} {a1} (h : s.Kept k) : (State.loopSet s a1).Kept k := by
  unfold State.loopSet
  try simp only [kept_mk, kept_mk_hif, kept_mk_mem, kept_mk_both]
  repeat' first
    | (with_reducible assumption) | (with_reducible intro _) | (with_reducible apply wr_kept)
    | (with_reducible apply faultRec_kept) | (with_reducible apply objLoad_kept) | (with_reducible apply completeRec_kept)
    | (with_reducible apply setLoop_kept) | (with_reducible apply runRec_kept) | (with_reducible apply kept_ite)
    | (with_reducible apply kept_ite_fst) | (with_reducible apply out_next) | (with_reducible apply out_ite)
    | (with_reducible apply kept_foldl) | (with_reducible apply kept_foldl_fst)
    | (with_reducible refine kept_fst ?_ (by assumption)) | (split)

theorem execLoopSet_kept {k : Keep} {s : State} {a0} (h : s.Kept k) : OutKept k (execLoopSet a0 s) := by
  unfold execLoopSet
  try simp only [kept_mk, kept_mk_hif, kept_mk_mem, kept_mk_both]
  repeat' first
    | (with_reducible assumption) | (with_reducible intro _) | (with_reducible apply unlessStalled_kept)
    | (with_reducible apply fin_kept) | (with_reducible apply loopSet_kept) | (with_reducible apply kept_ite)
    | (with_reducible apply kept_ite_fst) | (with_reducible apply out_next) | (with_reducible apply out_ite)
    | (with_reducible apply kept_foldl) | (with_reducible apply kept_foldl_fst)
    | (with_reducible refine kept_fst ?_ (by assumption)) | (split)
    | (simp only [kept_mk, kept_mk_hif, kept_mk_mem, kept_mk_both])

theorem enableLoop_kept {k : Keep} {s : State} {a1} (h : s.Kept k) : (State.enableLoop s a1).Kept k := by
  unfold State.enableLoop
  try simp only [kept_mk, kept_mk_hif, kept_mk_mem, kept_mk_both]
  repeat' first
    | (with_reducible assumption) | (with_reducible intro _) | (with_reducible apply wr_kept) | (with_reducible apply setLoop_kept)
    | (with_reducible apply kept_ite)

theorem disableLoop_kept {k : Keep} {s : State} {a1} (h : s.Kept k) : (State.disableLoop s a1).Kept k := by
  unfold State.disableLoop
  try simp only [kept_mk, kept_mk_hif, kept_mk_mem, kept_mk_both]
  repeat' first
    | (with_reducible assumption) | (with_reducible intro _) | (with_reducible apply stopLoop_kept)
    | (with_reducible apply sendOut_kept) | (with_reducible apply kept_ite)

theorem loopCtl_kept {k : Keep} {s : State} {a0 a1 a3} (h : s.Kept k) (ha0 : ∀ x0 x1, x0.Kept k → (a0 x0 x1).Kept k) :
    (State.loopCtl a0 a1 s a3).Kept k := by
  unfold State.loopCtl
  try simp only [kept_mk, kept_mk_hif, kept_mk_mem, kept_mk_both]
  repeat' first
    | (with_reducible assumption) | (with_reducible intro _) | (with_reducible apply ha0) | (with_reducible apply completeRec_kept)
    | (with_reducible apply kept_ite) | (with_reducible apply kept_ite_fst) | (with_reducible apply out_next)
    | (with_reducible apply out_ite) | (with_reducible apply kept_foldl)

theorem execLoopEnable_kept {k : Keep} {s : State} {a0} (h : s.Kept k) : OutKept k (execLoopEnable a0 s) := by
  unfold execLoopEnable
  try simp only [kept_mk, kept_mk_hif, kept_mk_mem, kept_mk_both]
  repeat' first
    | (with_reducible assumption) | (with_reducible intro _) | (with_reducible apply fin_kept) | (with_reducible apply runOp_kept)
    | (with_reducible apply loopCtl_kept) | (with_reducible apply enableLoop_kept)

theorem execLoopDisable_kept {k : Keep} {s : State} {a0} (h : s.Kept k) : OutKept k (execLoopDisable a0 s) := by
  unfold execLoopDisable
  try simp only [kept_mk, kept_mk_hif, kept_mk_mem, kept_mk_both]
  repeat' first
    | (with_reducible assumption) | (with_reducible intro _) | (with_reducible apply fin_kept) | (with_reducible apply runOp_kept)
    | (with_reducible apply loopCtl_kept) | (with_reducible apply disableLoop_kept)

theorem execLoopResetI_kept {k : Keep} {s : State} {a0} (h : s.Kept k) : OutKept k (execLoopResetI a0 s) := by
  unfold execLoopResetI
  try simp only [kept_mk, kept_mk_hif, kept_mk_mem, kept_mk_both]
  repeat' first
    | (with_reducible assumption) | (with_reducible intro _) | (with_reducible apply fin_kept) | (with_reducible apply runOp_kept)
    | (with_reducible apply loopCtl_kept) | (with_reducible apply wr_kept)

theorem trajLoad_kept {k : Keep} {s : State} {a1} (h : s.Kept k) : (State.trajLoad s a1).Kept k := by
  unfold State.trajLoad
  try simp only [kept_mk, kept_mk_hif, kept_mk_mem, kept_mk_both]
  repeat' first
    | (with_reducible assumption) | (with_reducible intro _) | (with_reducible apply wr_kept)
    | (with_reducible apply faultRec_kept) | (with_reducible apply objLoad_kept) | (with_reducible apply completeRec_kept)
    | (with_reducible apply deliverTraj_kept) | (with_reducible apply runRec_kept) | (with_reducible apply kept_ite)
    | (with_reducible apply kept_ite_fst) | (with_reducible apply out_next) | (with_reducible apply out_ite)
    | (with_reducible apply kept_foldl) | (with_reducible apply kept_foldl_fst)
    | (with_reducible refine kept_fst ?_ (by assumption)) | (split)

theorem execTrajLoad_kept {k : Keep} {s : State} {a0} (h : s.Kept k) : OutKept k (execTrajLoad a0 s) := by
  unfold execTrajLoad
  try simp only [kept_mk, kept_mk_hif, kept_mk_mem, kept_mk_both]
  repeat' first
    | (with_reducible assumption) | (with_reducible intro _) | (with_reducible apply unlessStalled_kept)
    | (with_reducible apply fin_kept) | (with_reducible apply trajLoad_kept) | (with_reducible apply kept_ite)
    | (with_reducible apply kept_ite_fst) | (with_reducible apply out_next) | (with_reducible apply out_ite)
    | (with_reducible apply kept_foldl) | (with_reducible apply kept_foldl_fst)
    | (with_reducible refine kept_fst ?_ (by assumption)) | (split)
    | (simp only [kept_mk, kept_mk_hif, kept_mk_mem, kept_mk_both])

theorem execLoopPeriodTrigger_kept {k : Keep} {s : State} {a0} (h : s.Kept k) : OutKept k (execLoopPeriodTrigger a0 s) := by
  unfold execLoopPeriodTrigger
  try simp only [kept_mk, kept_mk_hif, kept_mk_mem, kept_mk_both]
  repeat' first
    | (with_reducible assumption) | (with_reducible intro _) | (with_reducible apply periodTrigger_kept)
    | (with_reducible apply kept_ite) | (with_reducible apply kept_ite_fst) | (with_reducible apply out_next)

theorem execLoopEvaluation_kept {k : Keep} {s : State} (h : s.Kept k) : OutKept k (execLoopEvaluation s) := by
  unfold execLoopEvaluation
  try simp only [kept_mk, kept_mk_hif, kept_mk_mem, kept_mk_both]
  repeat' first
    | (with_reducible assumption) | (with_reducible intro _) | (with_reducible apply evalNext_kept)
    | (with_reducible apply kept_ite) | (with_reducible apply kept_ite_fst) | (with_reducible apply out_next)

end Sys2Proof.Laws
end

