-- ==== Sys2Proof/Laws/KeptRegistry.lean ====
section
/-! SUPPORT. What every operation of Machine/Registry.lean keeps (`State.Kept`): one lemma for each. -/
set_option linter.unusedSimpArgs false
namespace Sys2Proof.Laws
open Sys2Proof Sys2Proof.Machine

theorem setEntry_kept {k : Keep} {s : State} {a1 a2} (h : s.Kept k) : (State.setEntry s a1 a2).Kept k := by
  unfold State.setEntry
  try simp only [kept_mk, kept_mk_hif, kept_mk_mem, kept_mk_both]
  repeat' first
    | (with_reducible assumption) | (with_reducible intro _) | (with_reducible apply registry_kept)
    | (with_reducible apply kept_ite) | (with_reducible apply kept_ite_fst) | (with_reducible apply out_next)
    | (with_reducible apply out_ite) | (with_reducible apply kept_foldl) | (with_reducible apply kept_foldl_fst)
    | (with_reducible refine kept_fst ?_ (by assumption)) | (split)
    | (simp only [kept_mk, kept_mk_hif, kept_mk_mem, kept_mk_both])

theorem portEvent_kept {k : Keep} {s : State} {a1 a2 a3 a4 a5} (h : s.Kept k) : (State.portEvent s a1 a2 a3 a4 a5).Kept k := by
  unfold State.portEvent
  try simp only [kept_mk, kept_mk_hif, kept_mk_mem, kept_mk_both]
  repeat' first
    | (with_reducible assumption) | (with_reducible intro _) | (with_reducible apply event_kept)

theorem attach_kept {k : Keep} {s : State} {a1 a2 a3 a4} (h : s.Kept k) : (State.attach s a1 a2 a3 a4).Kept k := by
  unfold State.attach
  try simp only [kept_mk, kept_mk_hif, kept_mk_mem, kept_mk_both]
  repeat' first
    | (with_reducible assumption) | (with_reducible intro _) | (with_reducible apply portEvent_kept)
    | (with_reducible apply loseChan_kept) | (with_reducible apply setEntry_kept) | (with_reducible apply kept_ite)
    | (with_reducible apply kept_ite_fst) | (with_reducible apply out_next) | (with_reducible apply out_ite)
    | (with_reducible apply kept_foldl) | (with_reducible apply kept_foldl_fst)
    | (with_reducible refine kept_fst ?_ (by assumption)) | (split) | (simp only [kept_mk, kept_mk_hif, kept_mk_mem, kept_mk_both])

theorem dropItem_kept {k : Keep} {s : State} {a1} (h : s.Kept k) : (State.dropItem s a1).Kept k := by
  unfold State.dropItem
  try simp only [kept_mk, kept_mk_hif, kept_mk_mem, kept_mk_both]
  repeat' first
    | (with_reducible assumption) | (with_reducible intro _) | (with_reducible apply setEntry_kept)

theorem dropOpenFrame_kept {k : Keep} {s : State} {a1} (h : s.Kept k) : (State.dropOpenFrame s a1).Kept k := by
  unfold State.dropOpenFrame
  try simp only [kept_mk, kept_mk_hif, kept_mk_mem, kept_mk_both]
  repeat' first
    | (with_reducible assumption) | (with_reducible intro _) | (with_reducible apply dropItem_kept)
    | (with_reducible apply kept_ite) | (with_reducible apply kept_ite_fst) | (with_reducible apply out_next)
    | (with_reducible apply out_ite) | (with_reducible apply kept_foldl) | (with_reducible apply kept_foldl_fst)
    | (with_reducible refine kept_fst ?_ (by assumption)) | (split) | (simp only [kept_mk, kept_mk_hif, kept_mk_mem, kept_mk_both])

theorem detach_kept {k : Keep} {s : State} {a1 a2} (h : s.Kept k) : (State.detach s a1 a2).Kept k := by
  unfold State.detach
  try simp only [kept_mk, kept_mk_hif, kept_mk_mem, kept_mk_both]
  repeat' first
    | (with_reducible assumption) | (with_reducible intro _) | (with_reducible apply dropOpenFrame_kept)
    | (with_reducible apply portEvent_kept) | (with_reducible apply setEntry_kept) | (with_reducible apply kept_ite)

theorem detachPort_kept {k : Keep} {s : State} {a1 a2} (h : s.Kept k) : (State.detachPort s a1 a2).Kept k := by
  unfold State.detachPort
  try simp only [kept_mk, kept_mk_hif, kept_mk_mem, kept_mk_both]
  repeat' first
    | (with_reducible assumption) | (with_reducible intro _) | (with_reducible apply detach_kept) | (with_reducible apply kept_ite)
    | (with_reducible apply kept_ite_fst) | (with_reducible apply out_next) | (with_reducible apply out_ite)
    | (with_reducible apply kept_foldl)

theorem heard_kept {k : Keep} {s : State} {a1} (h : s.Kept k) : (State.heard s a1).Kept k := by
  unfold State.heard
  try simp only [kept_mk, kept_mk_hif, kept_mk_mem, kept_mk_both]
  repeat' first
    | (with_reducible assumption)

theorem deliver_kept {k : Keep} {s : State} {a1 a2} (h : s.Kept k) : (State.deliver s a1 a2).Kept k := by
  unfold State.deliver
  try simp only [kept_mk, kept_mk_hif, kept_mk_mem, kept_mk_both]
  repeat' first
    | (with_reducible assumption) | (with_reducible intro _) | (with_reducible apply setEntry_kept)
    | (with_reducible apply dropItem_kept) | (with_reducible apply kept_ite) | (with_reducible apply kept_ite_fst)
    | (with_reducible apply out_next) | (with_reducible apply out_ite) | (with_reducible apply kept_foldl)
    | (with_reducible apply kept_foldl_fst) | (with_reducible refine kept_fst ?_ (by assumption)) | (split)
    | (simp only [kept_mk, kept_mk_hif, kept_mk_mem, kept_mk_both])

theorem setIsobus_kept {k : Keep} {s : State} {a1 a2} (h : s.Kept k) : (State.setIsobus s a1 a2).Kept k := by
  unfold State.setIsobus
  try simp only [kept_mk, kept_mk_hif, kept_mk_mem, kept_mk_both]
  repeat' first
    | (with_reducible assumption)

theorem isobusClaim_kept {k : Keep} {s : State} {a1 a2} (h : s.Kept k) : (State.isobusClaim s a1 a2).Kept k := by
  unfold State.isobusClaim
  try simp only [kept_mk, kept_mk_hif, kept_mk_mem, kept_mk_both]
  repeat' first
    | (with_reducible assumption) | (with_reducible intro _) | (with_reducible apply putCan_kept)
    | (with_reducible apply setIsobus_kept)

theorem isobusGiveUp_kept {k : Keep} {s : State} {a1} (h : s.Kept k) : (State.isobusGiveUp s a1).Kept k := by
  unfold State.isobusGiveUp
  try simp only [kept_mk, kept_mk_hif, kept_mk_mem, kept_mk_both]
  repeat' first
    | (with_reducible assumption) | (with_reducible intro _) | (with_reducible apply putCan_kept)
    | (with_reducible apply setIsobus_kept)

theorem isobusLose_kept {k : Keep} {s : State} {a1} (h : s.Kept k) : (State.isobusLose s a1).Kept k := by
  unfold State.isobusLose
  try simp only [kept_mk, kept_mk_hif, kept_mk_mem, kept_mk_both]
  repeat' first
    | (with_reducible assumption) | (with_reducible intro _) | (with_reducible apply isobusClaim_kept)
    | (with_reducible apply isobusGiveUp_kept) | (with_reducible apply kept_ite) | (with_reducible apply kept_ite_fst)
    | (with_reducible apply out_next) | (with_reducible apply out_ite) | (with_reducible apply kept_foldl)
    | (with_reducible apply kept_foldl_fst) | (with_reducible refine kept_fst ?_ (by assumption)) | (split)

theorem noteAddr_kept {k : Keep} {s : State} {a1 a2 a3} (h : s.Kept k) : (State.noteAddr s a1 a2 a3).Kept k := by
  unfold State.noteAddr
  try simp only [kept_mk, kept_mk_hif, kept_mk_mem, kept_mk_both]
  repeat' first
    | (with_reducible assumption) | (with_reducible intro _) | (with_reducible apply setIsobus_kept)
    | (with_reducible apply setEntry_kept) | (with_reducible apply attach_kept) | (with_reducible apply kept_ite)
    | (with_reducible apply kept_ite_fst) | (with_reducible apply out_next) | (with_reducible apply out_ite)
    | (with_reducible apply kept_foldl) | (with_reducible apply kept_foldl_fst)
    | (with_reducible refine kept_fst ?_ (by assumption)) | (split)

theorem loseAddr_kept {k : Keep} {s : State} {a1 a2} (h : s.Kept k) : (State.loseAddr s a1 a2).Kept k := by
  unfold State.loseAddr
  try simp only [kept_mk, kept_mk_hif, kept_mk_mem, kept_mk_both]
  repeat' first
    | (with_reducible assumption) | (with_reducible intro _) | (with_reducible apply setIsobus_kept)
    | (with_reducible apply detach_kept) | (with_reducible apply kept_ite) | (with_reducible apply kept_ite_fst)
    | (with_reducible apply out_next) | (with_reducible apply out_ite) | (with_reducible apply kept_foldl)
    | (with_reducible apply kept_foldl_fst) | (with_reducible refine kept_fst ?_ (by assumption)) | (split)

theorem claimHeard_kept {k : Keep} {s : State} {a1 a2 a3} (h : s.Kept k) : (State.claimHeard s a1 a2 a3).Kept k := by
  unfold State.claimHeard
  try simp only [kept_mk, kept_mk_hif, kept_mk_mem, kept_mk_both]
  repeat' first
    | (with_reducible assumption) | (with_reducible intro _) | (with_reducible apply loseAddr_kept)
    | (with_reducible apply noteAddr_kept) | (with_reducible apply isobusLose_kept) | (with_reducible apply putCan_kept)
    | (with_reducible apply kept_ite) | (with_reducible apply kept_ite_fst) | (with_reducible apply out_next)
    | (with_reducible apply out_ite) | (with_reducible apply kept_foldl) | (with_reducible apply kept_foldl_fst)
    | (with_reducible refine kept_fst ?_ (by assumption)) | (split)

theorem isobusMessage_kept {k : Keep} {s : State} {a1 a2} (h : s.Kept k) : (State.isobusMessage s a1 a2).Kept k := by
  unfold State.isobusMessage
  try simp only [kept_mk, kept_mk_hif, kept_mk_mem, kept_mk_both]
  repeat' first
    | (with_reducible assumption) | (with_reducible intro _) | (with_reducible apply heard_kept)
    | (with_reducible apply setEntry_kept) | (with_reducible apply claimHeard_kept) | (with_reducible apply putCan_kept)
    | (with_reducible apply kept_ite) | (with_reducible apply kept_ite_fst) | (with_reducible apply out_next)
    | (with_reducible apply out_ite) | (with_reducible apply kept_foldl)

theorem startPorts_kept {k : Keep} {s : State} (h : s.Kept k) : (State.startPorts s).Kept k := by
  unfold State.startPorts
  try simp only [kept_mk, kept_mk_hif, kept_mk_mem, kept_mk_both]
  repeat' first
    | (with_reducible assumption) | (with_reducible intro _) | (with_reducible apply isobusClaim_kept)
    | (with_reducible apply setIsobus_kept) | (with_reducible apply attach_kept) | (with_reducible apply kept_ite)
    | (with_reducible apply kept_ite_fst) | (with_reducible apply out_next) | (with_reducible apply out_ite)
    | (with_reducible apply kept_foldl)

end Sys2Proof.Laws
end

