-- ==== Sys2Proof/Laws/KeptCvCmds.lean ====
section
/-! SUPPORT. What every operation of Machine/CvCmds.lean keeps (`State.Kept`): one lemma for each. -/
set_option linter.unusedSimpArgs false
namespace Sys2Proof.Laws
open Sys2Proof Sys2Proof.Machine

theorem execCvConfig_kept {k : Keep} {s : State} {a0} (h : s.Kept k) : OutKept k (execCvConfig a0 s) := by
  unfold execCvConfig
  try simp only [kept_mk, kept_mk_hif, kept_mk_mem, kept_mk_both]
  repeat' first
    | (with_reducible assumption) | (with_reducible intro _) | (with_reducible apply fin_kept) | (with_reducible apply runOp_kept)
    | (with_reducible apply completeRec_kept) | (with_reducible apply setCvUnit_kept)

theorem execCvRun_kept {k : Keep} {s : State} {a0} (h : s.Kept k) : OutKept k (execCvRun a0 s) := by
  unfold execCvRun
  try simp only [kept_mk, kept_mk_hif, kept_mk_mem, kept_mk_both]
  repeat' first
    | (with_reducible assumption) | (with_reducible intro _) | (with_reducible apply fin_kept) | (with_reducible apply runOp_kept)

theorem cvFault_kept {k : Keep} {s : State} {a1 a2 a3 a4} (h : s.Kept k) : (State.cvFault s a1 a2 a3 a4).Kept k := by
  unfold State.cvFault
  try simp only [kept_mk, kept_mk_hif, kept_mk_mem, kept_mk_both]
  repeat' first
    | (with_reducible assumption) | (with_reducible intro _) | (with_reducible apply cvLose_kept)
    | (with_reducible apply faultRec_kept) | (with_reducible apply kept_ite) | (with_reducible apply kept_ite_fst)
    | (with_reducible apply out_next) | (with_reducible apply out_ite) | (with_reducible apply kept_foldl)
    | (with_reducible apply kept_foldl_fst) | (with_reducible refine kept_fst ?_ (by assumption)) | (split)
    | (simp only [kept_mk, kept_mk_hif, kept_mk_mem, kept_mk_both])

theorem execCvRunDone_kept {k : Keep} {s : State} {a0} (h : s.Kept k) : OutKept k (execCvRunDone a0 s) := by
  unfold execCvRunDone
  try simp only [kept_mk, kept_mk_hif, kept_mk_mem, kept_mk_both]
  repeat' first
    | (with_reducible assumption) | (with_reducible intro _) | (with_reducible apply unlessStalled_kept)
    | (with_reducible apply objLoad_kept) | (with_reducible apply fin_kept) | (with_reducible apply cvFault_kept)
    | (with_reducible apply objStore_kept) | (with_reducible apply setCvUnit_kept) | (with_reducible apply completeRec_kept)
    | (with_reducible apply kept_ite) | (with_reducible apply kept_ite_fst) | (with_reducible apply out_next)
    | (with_reducible apply out_ite) | (with_reducible apply kept_foldl) | (with_reducible apply kept_foldl_fst)
    | (with_reducible refine kept_fst ?_ (by assumption)) | (split)
    | (simp only [kept_mk, kept_mk_hif, kept_mk_mem, kept_mk_both])

theorem execCvSave_kept {k : Keep} {s : State} {a0} (h : s.Kept k) : OutKept k (execCvSave a0 s) := by
  unfold execCvSave
  try simp only [kept_mk, kept_mk_hif, kept_mk_mem, kept_mk_both]
  repeat' first
    | (with_reducible assumption) | (with_reducible intro _) | (with_reducible apply unlessStalled_kept)
    | (with_reducible apply fin_kept) | (with_reducible apply runOp_kept) | (with_reducible apply objStore_kept)
    | (with_reducible apply faultRec_kept) | (with_reducible apply completeRec_kept) | (with_reducible apply kept_ite)
    | (with_reducible apply kept_ite_fst) | (with_reducible apply out_next) | (with_reducible apply out_ite)
    | (with_reducible apply kept_foldl) | (with_reducible apply kept_foldl_fst)
    | (with_reducible refine kept_fst ?_ (by assumption)) | (split)
    | (simp only [kept_mk, kept_mk_hif, kept_mk_mem, kept_mk_both])

theorem execCvRestore_kept {k : Keep} {s : State} {a0} (h : s.Kept k) : OutKept k (execCvRestore a0 s) := by
  unfold execCvRestore
  try simp only [kept_mk, kept_mk_hif, kept_mk_mem, kept_mk_both]
  repeat' first
    | (with_reducible assumption) | (with_reducible intro _) | (with_reducible apply unlessStalled_kept)
    | (with_reducible apply fin_kept) | (with_reducible apply runOp_kept) | (with_reducible apply objLoad_kept)
    | (with_reducible apply faultRec_kept) | (with_reducible apply setCvUnit_kept) | (with_reducible apply completeRec_kept)
    | (with_reducible apply kept_ite) | (with_reducible apply kept_ite_fst) | (with_reducible apply out_next)
    | (with_reducible apply out_ite) | (with_reducible apply kept_foldl) | (with_reducible apply kept_foldl_fst)
    | (with_reducible refine kept_fst ?_ (by assumption)) | (split)
    | (simp only [kept_mk, kept_mk_hif, kept_mk_mem, kept_mk_both])

theorem execCvChanVerify_kept {k : Keep} {s : State} {a0} (h : s.Kept k) : OutKept k (execCvChanVerify a0 s) := by
  unfold execCvChanVerify
  try simp only [kept_mk, kept_mk_hif, kept_mk_mem, kept_mk_both]
  repeat' first
    | (with_reducible assumption) | (with_reducible intro _) | (with_reducible apply fin_kept) | (with_reducible apply runOp_kept)
    | (with_reducible apply completeRec_kept) | (with_reducible apply setCvChan_kept)

theorem execCvChanOff_kept {k : Keep} {s : State} {a0} (h : s.Kept k) : OutKept k (execCvChanOff a0 s) := by
  unfold execCvChanOff
  try simp only [kept_mk, kept_mk_hif, kept_mk_mem, kept_mk_both]
  repeat' first
    | (with_reducible assumption) | (with_reducible intro _) | (with_reducible apply fin_kept) | (with_reducible apply runOp_kept)
    | (with_reducible apply completeRec_kept) | (with_reducible apply setCvChan_kept)

end Sys2Proof.Laws
end

