-- ==== Sys2Proof/Laws/KeptTraffic.lean ====
section
/-! SUPPORT. What every operation of Machine/Traffic.lean keeps (`State.Kept`): one lemma for each. -/
set_option linter.unusedSimpArgs false
namespace Sys2Proof.Laws
open Sys2Proof Sys2Proof.Machine

theorem logReq_kept {k : Keep} {s : State} {a1 a2 a3 a4} (h : s.Kept k) : (State.logReq s a1 a2 a3 a4).Kept k := by
  unfold State.logReq
  try simp only [kept_mk, kept_mk_hif, kept_mk_mem, kept_mk_both]
  repeat' first
    | (with_reducible assumption) | (with_reducible intro _) | (with_reducible apply logDram_kept)

theorem passPorts_kept {k : Keep} {s : State} {a1 a2 a3} (h : s.Kept k) : (s.passPorts a1 a2 a3).1.Kept k := by
  induction a3 generalizing s with
  | nil => exact h
  | cons p l ih =>
    unfold State.passPorts
    split
    · exact h
    · exact ih (cross_kept h)

theorem netWait_kept {k : Keep} {s : State} {a1} (h : s.Kept k) : (State.netWait s a1).Kept k := by
  unfold State.netWait
  try simp only [kept_mk, kept_mk_hif, kept_mk_mem, kept_mk_both]
  repeat' first
    | (with_reducible assumption)

theorem dramResp_kept {k : Keep} {s : State} {a1} (h : s.Kept k) : (State.dramResp s a1).Kept k := by
  unfold State.dramResp
  try simp only [kept_mk, kept_mk_hif, kept_mk_mem, kept_mk_both]
  repeat' first
    | (with_reducible assumption)

theorem sendResp_kept {k : Keep} {s : State} {a1 a2 a3} (h : s.Kept k) : (State.sendResp s a1 a2 a3).Kept k := by
  unfold State.sendResp
  try simp only [kept_mk, kept_mk_hif, kept_mk_mem, kept_mk_both]
  repeat' first
    | (with_reducible assumption) | (with_reducible intro _) | (with_reducible apply passPorts_kept)
    | (with_reducible apply netWait_kept) | (with_reducible apply dramResp_kept) | (with_reducible apply kept_ite)
    | (with_reducible apply kept_ite_fst) | (with_reducible apply out_next) | (with_reducible apply out_ite)
    | (with_reducible apply kept_foldl) | (with_reducible apply kept_foldl_fst)
    | (with_reducible refine kept_fst ?_ (by assumption)) | (split)

theorem respond_kept {k : Keep} {s : State} {a1 a2 a3 a4} (h : s.Kept k) : (State.respond s a1 a2 a3 a4).Kept k := by
  unfold State.respond
  try simp only [kept_mk, kept_mk_hif, kept_mk_mem, kept_mk_both]
  repeat' first
    | (with_reducible assumption) | (with_reducible intro _) | (with_reducible apply sendResp_kept)

theorem writeWord_kept {k : Keep} {s : State} {a1 a2 a3 a4} (h : s.Kept k) : (State.writeWord s a1 a2 a3 a4).Kept k := by
  unfold State.writeWord
  try simp only [kept_mk, kept_mk_hif, kept_mk_mem, kept_mk_both]
  repeat' first
    | (with_reducible assumption) | (with_reducible intro _) | (with_reducible apply zeroRange_kept)
    | (with_reducible apply pokeByte_kept) | (with_reducible apply poisonWord_kept) | (with_reducible apply kept_ite)
    | (with_reducible apply kept_ite_fst) | (with_reducible apply out_next) | (with_reducible apply out_ite)
    | (with_reducible apply kept_foldl) | (with_reducible apply kept_foldl_fst)
    | (with_reducible refine kept_fst ?_ (by assumption)) | (split)
    | (simp only [kept_mk, kept_mk_hif, kept_mk_mem, kept_mk_both])

theorem applyAt_kept {k : Keep} {s : State} {a1 a2} (h : s.Kept k) : (State.applyAt s a1 a2).Kept k := by
  unfold State.applyAt
  try simp only [kept_mk, kept_mk_hif, kept_mk_mem, kept_mk_both]
  repeat' first
    | (with_reducible assumption) | (with_reducible intro _) | (with_reducible apply pokeBytes_kept)
    | (with_reducible apply writeWord_kept) | (with_reducible apply kept_ite)

theorem applyWrite_kept {k : Keep} {s : State} {a1} (h : s.Kept k) : (State.applyWrite s a1).Kept k := by
  unfold State.applyWrite
  try simp only [kept_mk, kept_mk_hif, kept_mk_mem, kept_mk_both]
  repeat' first
    | (with_reducible assumption) | (with_reducible intro _) | (with_reducible apply applyAt_kept)
    | (with_reducible apply kept_ite) | (with_reducible apply kept_ite_fst) | (with_reducible apply out_next)
    | (with_reducible apply out_ite) | (with_reducible apply kept_foldl)

theorem drainMode_kept {k : Keep} {s : State} {a1 a2} (h : s.Kept k) : (State.drainMode s a1 a2).Kept k := by
  unfold State.drainMode
  try simp only [kept_mk, kept_mk_hif, kept_mk_mem, kept_mk_both]
  repeat' first
    | (with_reducible assumption) | (with_reducible intro _) | (with_reducible apply inc_kept)
    | (with_reducible apply setChan_kept) | (with_reducible apply kept_ite)

theorem enterQueue_kept {k : Keep} {s : State} {a1 a2 a3} (h : s.Kept k) : (State.enterQueue s a1 a2 a3).Kept k := by
  unfold State.enterQueue
  try simp only [kept_mk, kept_mk_hif, kept_mk_mem, kept_mk_both]
  repeat' first
    | (with_reducible assumption) | (with_reducible intro _) | (with_reducible apply setChan_kept)
    | (with_reducible apply markWaits_kept) | (with_reducible apply applyWrite_kept) | (with_reducible apply drainMode_kept)
    | (with_reducible apply respond_kept) | (with_reducible apply kept_ite) | (with_reducible apply kept_ite_fst)
    | (with_reducible apply out_next) | (with_reducible apply out_ite) | (with_reducible apply kept_foldl)
    | (with_reducible apply kept_foldl_fst) | (with_reducible refine kept_fst ?_ (by assumption)) | (split)
    | (simp only [kept_mk, kept_mk_hif, kept_mk_mem, kept_mk_both])

theorem arrive_kept {k : Keep} {s : State} {a1} (h : s.Kept k) : (State.arrive s a1).Kept k := by
  unfold State.arrive
  try simp only [kept_mk, kept_mk_hif, kept_mk_mem, kept_mk_both]
  repeat' first
    | (with_reducible assumption) | (with_reducible intro _) | (with_reducible apply respond_kept)
    | (with_reducible apply violation_kept) | (with_reducible apply netWait_kept) | (with_reducible apply enterQueue_kept)
    | (with_reducible apply kept_ite)

theorem goOn_kept {k : Keep} {s : State} {a1 a2} (h : s.Kept k) : (State.goOn s a1 a2).Kept k := by
  unfold State.goOn
  try simp only [kept_mk, kept_mk_hif, kept_mk_mem, kept_mk_both]
  repeat' first
    | (with_reducible assumption) | (with_reducible intro _) | (with_reducible apply sendResp_kept)
    | (with_reducible apply passPorts_kept) | (with_reducible apply netWait_kept) | (with_reducible apply arrive_kept)
    | (with_reducible apply kept_ite) | (with_reducible apply kept_ite_fst) | (with_reducible apply out_next)
    | (with_reducible apply out_ite) | (with_reducible apply kept_foldl) | (with_reducible apply kept_foldl_fst)
    | (with_reducible refine kept_fst ?_ (by assumption)) | (split)

theorem netTake_kept {k : Keep} {s : State} {a1} (h : s.Kept k) : (State.netTake s a1).Kept k := by
  unfold State.netTake
  try simp only [kept_mk, kept_mk_hif, kept_mk_mem, kept_mk_both]
  repeat' first
    | (with_reducible assumption)

theorem drainPort_kept {k : Keep} {s : State} {a1 a2} (h : s.Kept k) : (s.drainPort a1 a2).Kept k := by
  induction a2 generalizing s with
  | zero => exact h
  | succ n ih =>
    unfold State.drainPort
    split
    · exact h
    · exact ih (goOn_kept (netTake_kept h))

theorem resumeLink_kept {k : Keep} {s : State} {a1} (h : s.Kept k) : (State.resumeLink s a1).Kept k := by
  unfold State.resumeLink
  try simp only [kept_mk, kept_mk_hif, kept_mk_mem, kept_mk_both]
  repeat' first
    | (with_reducible assumption) | (with_reducible intro _) | (with_reducible apply drainPort_kept)
    | (with_reducible apply replayHost_kept) | (with_reducible apply kept_ite) | (with_reducible apply kept_ite_fst)
    | (with_reducible apply out_next) | (with_reducible apply out_ite) | (with_reducible apply kept_foldl)
    | (with_reducible apply kept_foldl_fst) | (with_reducible refine kept_fst ?_ (by assumption)) | (split)
    | (simp only [kept_mk, kept_mk_hif, kept_mk_mem, kept_mk_both])

theorem failLink_kept {k : Keep} {s : State} {a1} (h : s.Kept k) : (State.failLink s a1).Kept k := by
  unfold State.failLink
  try simp only [kept_mk, kept_mk_hif, kept_mk_mem, kept_mk_both]
  repeat' first
    | (with_reducible assumption) | (with_reducible intro _) | (with_reducible apply goOn_kept)
    | (with_reducible apply dramResp_kept) | (with_reducible apply replayHost_kept) | (with_reducible apply kept_ite)
    | (with_reducible apply kept_ite_fst) | (with_reducible apply out_next) | (with_reducible apply out_ite)
    | (with_reducible apply kept_foldl) | (with_reducible apply kept_foldl_fst)
    | (with_reducible refine kept_fst ?_ (by assumption)) | (split)
    | (simp only [kept_mk, kept_mk_hif, kept_mk_mem, kept_mk_both])

theorem admitSome_kept {k : Keep} {s : State} {a1 a2 a3} (h : s.Kept k) : (s.admitSome a1 a2 a3).Kept k := by
  induction a3 generalizing s with
  | zero => exact h
  | succ n ih =>
    unfold State.admitSome
    split
    · exact h
    · exact ih (enterQueue_kept (netTake_kept h))

theorem admitWaiting_kept {k : Keep} {s : State} {a1 a2} (h : s.Kept k) : (State.admitWaiting s a1 a2).Kept k :=
  replayHost_kept (admitSome_kept h)

theorem modPkg_kept {k : Keep} {s : State} {a1} (h : s.Kept k) : (State.modPkg s a1).Kept k := by
  unfold State.modPkg
  try simp only [kept_mk, kept_mk_hif, kept_mk_mem, kept_mk_both]
  repeat' first
    | (with_reducible assumption)

theorem linkEvent_kept {k : Keep} {s : State} {a1 a2 a3} (h : s.Kept k) : (State.linkEvent s a1 a2 a3).Kept k := by
  unfold State.linkEvent
  try simp only [kept_mk, kept_mk_hif, kept_mk_mem, kept_mk_both]
  repeat' first
    | (with_reducible assumption) | (with_reducible intro _) | (with_reducible apply event_kept)

theorem linkDown_kept {k : Keep} {s : State} {a1} (h : s.Kept k) : (State.linkDown s a1).Kept k := by
  unfold State.linkDown
  try simp only [kept_mk, kept_mk_hif, kept_mk_mem, kept_mk_both]
  repeat' first
    | (with_reducible assumption) | (with_reducible intro _) | (with_reducible apply wr_kept)

end Sys2Proof.Laws
end

