-- ==== Sys2Proof/Laws/KeptFusion.lean ====
section
/-! SUPPORT. What every operation of Machine/Fusion.lean keeps (`State.Kept`): one lemma for each. -/
set_option linter.unusedSimpArgs false
namespace Sys2Proof.Laws
open Sys2Proof Sys2Proof.Machine

theorem waitNs_kept {k : Keep} {s : State} {a1} (h : s.Kept k) : (State.waitNs s a1).Kept k := by
  unfold State.waitNs
  try simp only [kept_mk, kept_mk_hif, kept_mk_mem, kept_mk_both]
  repeat' first
    | (with_reducible assumption) | (with_reducible intro _) | (with_reducible apply elapse_kept)

theorem countLate_kept {k : Keep} {s : State} {a1 a2} (h : s.Kept k) : (State.countLate s a1 a2).Kept k := by
  unfold State.countLate
  try simp only [kept_mk, kept_mk_hif, kept_mk_mem, kept_mk_both]
  repeat' first
    | (with_reducible assumption) | (with_reducible intro _) | (with_reducible apply inc_kept)

theorem countDrop_kept {k : Keep} {s : State} {a1 a2} (h : s.Kept k) : (State.countDrop s a1 a2).Kept k := by
  unfold State.countDrop
  try simp only [kept_mk, kept_mk_hif, kept_mk_mem, kept_mk_both]
  repeat' first
    | (with_reducible assumption) | (with_reducible intro _) | (with_reducible apply inc_kept)

theorem discardOpen_kept {k : Keep} {s : State} (h : s.Kept k) : (State.discardOpen s).Kept k := by
  unfold State.discardOpen
  try simp only [kept_mk, kept_mk_hif, kept_mk_mem, kept_mk_both]
  repeat' first
    | (with_reducible assumption) | (with_reducible intro _) | (with_reducible apply countDrop_kept)
    | (with_reducible apply kept_ite) | (with_reducible apply kept_ite_fst) | (with_reducible apply out_next)
    | (with_reducible apply out_ite) | (with_reducible apply kept_foldl)

theorem dropSlot_kept {k : Keep} {s : State} {a1} (h : s.Kept k) : (State.dropSlot s a1).Kept k := by
  unfold State.dropSlot
  try simp only [kept_mk, kept_mk_hif, kept_mk_mem, kept_mk_both]
  repeat' first
    | (with_reducible assumption) | (with_reducible intro _) | (with_reducible apply countDrop_kept)
    | (with_reducible apply kept_ite) | (with_reducible apply kept_ite_fst) | (with_reducible apply out_next)
    | (with_reducible apply out_ite) | (with_reducible apply kept_foldl)

theorem takePacket_kept {k : Keep} {s : State} {a1} (h : s.Kept k) : (s.takePacket a1).Kept k := by
  unfold State.takePacket
  generalize (800000 : Nat) = N
  generalize (1250000 : Nat) = M
  split
  · exact h
  · extract_lets c ps recent f n good late early s1 s2
    have h2 : s2.Kept k := inc_kept (countLate_kept (countDrop_kept h))
    split
    · exact countDrop_kept h
    · split
      · exact countDrop_kept h
      · split
        · exact countDrop_kept h
        · exact kept_of h2 rfl rfl rfl rfl rfl rfl rfl rfl rfl

theorem takeFrame_kept {k : Keep} {s : State} {a1} (h : s.Kept k) : (State.takeFrame s a1).Kept k := by
  unfold State.takeFrame
  try simp only [kept_mk, kept_mk_hif, kept_mk_mem, kept_mk_both]
  repeat' first
    | (with_reducible assumption) | (with_reducible intro _) | (with_reducible apply countDrop_kept)
    | (with_reducible apply inc_kept) | (with_reducible apply countLate_kept) | (with_reducible apply kept_ite)
    | (with_reducible apply kept_ite_fst) | (with_reducible apply out_next) | (with_reducible apply out_ite)
    | (with_reducible apply kept_foldl) | (with_reducible apply kept_foldl_fst)
    | (with_reducible refine kept_fst ?_ (by assumption)) | (split) | (simp only [kept_mk, kept_mk_hif, kept_mk_mem, kept_mk_both])

theorem closeInstant_kept {k : Keep} {s : State} {a1 a2 a3} (h : s.Kept k) : (State.closeInstant s a1 a2 a3).Kept k := by
  unfold State.closeInstant
  try simp only [kept_mk, kept_mk_hif, kept_mk_mem, kept_mk_both]
  repeat' first
    | (with_reducible assumption) | (with_reducible intro _) | (with_reducible apply countDrop_kept)
    | (with_reducible apply wrB_kept) | (with_reducible apply wr_kept) | (with_reducible apply inc_kept)
    | (with_reducible apply kept_ite) | (with_reducible apply kept_ite_fst) | (with_reducible apply out_next)
    | (with_reducible apply out_ite) | (with_reducible apply kept_foldl)

end Sys2Proof.Laws
end

