-- ==== Sys2Proof/Laws/KeptPackage.lean ====
section
/-! SUPPORT. What every operation of Machine/Package.lean keeps (`State.Kept`): one lemma for each. -/
set_option linter.unusedSimpArgs false
namespace Sys2Proof.Laws
open Sys2Proof Sys2Proof.Machine

theorem selfRefresh_kept {k : Keep} {s : State} {a1} (h : s.Kept k) : (State.selfRefresh s a1).Kept k := by
  unfold State.selfRefresh
  try simp only [kept_mk, kept_mk_hif, kept_mk_mem, kept_mk_both]
  repeat' first
    | (with_reducible assumption) | (with_reducible intro _) | (with_reducible apply wr_kept) | (with_reducible apply kept_ite)
    | (with_reducible apply kept_ite_fst) | (with_reducible apply out_next) | (with_reducible apply out_ite)
    | (with_reducible apply kept_foldl) | (with_reducible apply kept_foldl_fst)
    | (with_reducible refine kept_fst ?_ (by assumption)) | (split) | (simp only [kept_mk, kept_mk_hif, kept_mk_mem, kept_mk_both])

theorem setDieWord_kept {k : Keep} {s : State} {a1 a2} (h : s.Kept k) : (State.setDieWord s a1 a2).Kept k := by
  unfold State.setDieWord
  try simp only [kept_mk, kept_mk_hif, kept_mk_mem, kept_mk_both]
  repeat' first
    | (with_reducible assumption) | (with_reducible intro _) | (with_reducible apply setReg_kept)

theorem haltBoot_kept {k : Keep} {s : State} {a1} (h : s.Kept k) : (State.haltBoot s a1).Kept k := by
  unfold State.haltBoot
  try simp only [kept_mk, kept_mk_hif, kept_mk_mem, kept_mk_both]
  repeat' first
    | (with_reducible assumption) | (with_reducible intro _) | (with_reducible apply wr_kept)

theorem bootWait_kept {k : Keep} {s : State} (h : s.Kept k) : (State.bootWait s).Kept k := by
  unfold State.bootWait
  try simp only [kept_mk, kept_mk_hif, kept_mk_mem, kept_mk_both]
  repeat' first
    | (with_reducible assumption) | (with_reducible intro _) | (with_reducible apply wr_kept) | (with_reducible apply kept_ite)

theorem startUp_kept {k : Keep} {s : State} (h : s.Kept k) : (State.startUp s).Kept k := by
  unfold State.startUp
  try simp only [kept_mk, kept_mk_hif, kept_mk_mem, kept_mk_both]
  repeat' first
    | (with_reducible assumption) | (with_reducible intro _) | (with_reducible apply wr_kept) | (with_reducible apply modPkg_kept)
    | (with_reducible apply setDieWord_kept) | (with_reducible apply haltBoot_kept) | (with_reducible apply setReg_kept)
    | (with_reducible apply kept_ite) | (with_reducible apply kept_ite_fst) | (with_reducible apply out_next)
    | (with_reducible apply out_ite) | (with_reducible apply kept_foldl) | (with_reducible apply kept_foldl_fst)
    | (with_reducible refine kept_fst ?_ (by assumption)) | (split) | (simp only [kept_mk, kept_mk_hif, kept_mk_mem, kept_mk_both])

theorem deviceReset_kept {k : Keep} {s : State} {a1 a2 a3} (h : s.Kept k) : (State.deviceReset s a1 a2 a3).Kept k := by
  unfold State.deviceReset
  try simp only [kept_mk, kept_mk_hif, kept_mk_mem, kept_mk_both]
  repeat' first
    | (with_reducible assumption) | (with_reducible intro _) | (with_reducible apply afterReset_kept)
    | (with_reducible apply stopB_kept) | (with_reducible apply setReg_kept) | (with_reducible apply draw_kept)
    | (with_reducible apply wrB_kept) | (with_reducible apply wr_kept) | (with_reducible apply startUp_kept)
    | (with_reducible apply kept_ite)

theorem powerIslandB_kept {k : Keep} {s : State} {a1} (h : s.Kept k) : (State.powerIslandB s a1).Kept k := by
  unfold State.powerIslandB
  try simp only [kept_mk, kept_mk_hif, kept_mk_mem, kept_mk_both]
  repeat' first
    | (with_reducible assumption) | (with_reducible intro _) | (with_reducible apply modPkg_kept)
    | (with_reducible apply setReg_kept) | (with_reducible apply kept_ite)

end Sys2Proof.Laws
end

