-- ==== Sys2Proof/Laws/KeptWaggle.lean ====
section
/-! SUPPORT. What every operation of Machine/Waggle.lean keeps (`State.Kept`): one lemma for each. -/
set_option linter.unusedSimpArgs false
namespace Sys2Proof.Laws
open Sys2Proof Sys2Proof.Machine

theorem setWag_kept {k : Keep} {s : State} {a1 a2} (h : s.Kept k) : (State.setWag s a1 a2).Kept k := by
  unfold State.setWag
  try simp only [kept_mk, kept_mk_hif, kept_mk_mem, kept_mk_both]
  repeat' first
    | (with_reducible assumption) | (with_reducible intro _) | (with_reducible apply modPkg_kept)

theorem modWag_kept {k : Keep} {s : State} {a1 a2} (h : s.Kept k) : (State.modWag s a1 a2).Kept k := by
  unfold State.modWag
  try simp only [kept_mk, kept_mk_hif, kept_mk_mem, kept_mk_both]
  repeat' first
    | (with_reducible assumption) | (with_reducible intro _) | (with_reducible apply setWag_kept)

theorem wagSend_kept {k : Keep} {s : State} {a1 a2 a3} (h : s.Kept k) : (State.wagSend s a1 a2 a3).Kept k := by
  unfold State.wagSend
  try simp only [kept_mk, kept_mk_hif, kept_mk_mem, kept_mk_both]
  repeat' first
    | (with_reducible assumption) | (with_reducible intro _) | (with_reducible apply modPkg_kept)

theorem wagRequest_kept {k : Keep} {s : State} {a1 a2 a3 a4} (h : s.Kept k) : (State.wagRequest s a1 a2 a3 a4).Kept k := by
  unfold State.wagRequest
  try simp only [kept_mk, kept_mk_hif, kept_mk_mem, kept_mk_both]
  repeat' first
    | (with_reducible assumption) | (with_reducible intro _) | (with_reducible apply wagSend_kept)
    | (with_reducible apply setWag_kept)

theorem wagStart_kept {k : Keep} {s : State} {a1} (h : s.Kept k) : (State.wagStart s a1).Kept k := by
  unfold State.wagStart
  try simp only [kept_mk, kept_mk_hif, kept_mk_mem, kept_mk_both]
  repeat' first
    | (with_reducible assumption) | (with_reducible intro _) | (with_reducible apply wagSend_kept)
    | (with_reducible apply setWag_kept)

theorem settleDies_kept {k : Keep} {s : State} (h : s.Kept k) : (State.settleDies s).Kept k := by
  unfold State.settleDies
  try simp only [kept_mk, kept_mk_hif, kept_mk_mem, kept_mk_both]
  repeat' first
    | (with_reducible assumption) | (with_reducible intro _) | (with_reducible apply haltBoot_kept)
    | (with_reducible apply showMixed_kept) | (with_reducible apply wr_kept) | (with_reducible apply kept_ite)

theorem sendReport_kept {k : Keep} {s : State} {a1 a2 a3} (h : s.Kept k) : (State.sendReport s a1 a2 a3).Kept k := by
  unfold State.sendReport
  try simp only [kept_mk, kept_mk_hif, kept_mk_mem, kept_mk_both]
  repeat' first
    | (with_reducible assumption) | (with_reducible intro _) | (with_reducible apply wagSend_kept)
    | (with_reducible apply modWag_kept)

theorem wagFail_kept {k : Keep} {s : State} {a1 a2} (h : s.Kept k) : (State.wagFail s a1 a2).Kept k := by
  unfold State.wagFail
  try simp only [kept_mk, kept_mk_hif, kept_mk_mem, kept_mk_both]
  repeat' first
    | (with_reducible assumption) | (with_reducible intro _) | (with_reducible apply setWag_kept)
    | (with_reducible apply modWag_kept) | (with_reducible apply reject_kept) | (with_reducible apply wagSend_kept)
    | (with_reducible apply modPkg_kept) | (with_reducible apply linkDown_kept) | (with_reducible apply wr_kept)
    | (with_reducible apply event_kept) | (with_reducible apply sendReport_kept) | (with_reducible apply markExcluded_kept)
    | (with_reducible apply settleDies_kept) | (with_reducible apply kept_ite) | (with_reducible apply kept_ite_fst)
    | (with_reducible apply out_next) | (with_reducible apply out_ite) | (with_reducible apply kept_foldl)
    | (with_reducible apply kept_foldl_fst) | (with_reducible refine kept_fst ?_ (by assumption)) | (split)
    | (simp only [kept_mk, kept_mk_hif, kept_mk_mem, kept_mk_both])

theorem wagRetry_kept {k : Keep} {s : State} {a1} (h : s.Kept k) : (State.wagRetry s a1).Kept k := by
  unfold State.wagRetry
  try simp only [kept_mk, kept_mk_hif, kept_mk_mem, kept_mk_both]
  repeat' first
    | (with_reducible assumption) | (with_reducible intro _) | (with_reducible apply wagSend_kept)
    | (with_reducible apply setWag_kept) | (with_reducible apply wagFail_kept) | (with_reducible apply kept_ite)

theorem wagNakReply_kept {k : Keep} {s : State} {a1 a2} (h : s.Kept k) : (State.wagNakReply s a1 a2).Kept k := by
  unfold State.wagNakReply
  try simp only [kept_mk, kept_mk_hif, kept_mk_mem, kept_mk_both]
  repeat' first
    | (with_reducible assumption) | (with_reducible intro _) | (with_reducible apply wagSend_kept)
    | (with_reducible apply wagFail_kept) | (with_reducible apply setWag_kept) | (with_reducible apply kept_ite)

theorem wagReply_kept {k : Keep} {s : State} {a1 a2 a3 a4 a5} (h : s.Kept k) (ha5 : ∀ x0, x0.Kept k → (a5 x0).Kept k) :
    (State.wagReply s a1 a2 a3 a4 a5).Kept k := by
  unfold State.wagReply
  try simp only [kept_mk, kept_mk_hif, kept_mk_mem, kept_mk_both]
  repeat' first
    | (with_reducible assumption) | (with_reducible intro _) | (with_reducible apply ha5) | (with_reducible apply wagNakReply_kept)
    | (with_reducible apply wagFail_kept) | (with_reducible apply kept_ite)

theorem wagServe_kept {k : Keep} {s : State} {a1 a2 a3 a4} (h : s.Kept k) (ha4 : ∀ x0, x0.Kept k → (a4 x0).1.Kept k) :
    (State.wagServe s a1 a2 a3 a4).Kept k := by
  unfold State.wagServe
  try simp only [kept_mk, kept_mk_hif, kept_mk_mem, kept_mk_both]
  repeat' first
    | (with_reducible assumption) | (with_reducible intro _) | (with_reducible apply ha4) | (with_reducible apply wagSend_kept)
    | (with_reducible apply modWag_kept) | (with_reducible apply kept_ite) | (with_reducible apply kept_ite_fst)
    | (with_reducible apply out_next) | (with_reducible apply out_ite) | (with_reducible apply kept_foldl)

theorem wagHello_kept {k : Keep} {s : State} {a1 a2 a3 a4} (h : s.Kept k) : (State.wagHello s a1 a2 a3 a4).Kept k := by
  unfold State.wagHello
  try simp only [kept_mk, kept_mk_hif, kept_mk_mem, kept_mk_both]
  repeat' first
    | (with_reducible assumption) | (with_reducible intro _) | (with_reducible apply wagServe_kept)
    | (with_reducible apply modWag_kept)

theorem wagSelect_kept {k : Keep} {s : State} {a1 a2} (h : s.Kept k) : (State.wagSelect s a1 a2).Kept k := by
  unfold State.wagSelect
  try simp only [kept_mk, kept_mk_hif, kept_mk_mem, kept_mk_both]
  repeat' first
    | (with_reducible assumption) | (with_reducible intro _) | (with_reducible apply wagServe_kept)
    | (with_reducible apply modWag_kept)

theorem wagTrainingDone_kept {k : Keep} {s : State} {a1 a2 a3} (h : s.Kept k) : (State.wagTrainingDone s a1 a2 a3).Kept k := by
  unfold State.wagTrainingDone
  try simp only [kept_mk, kept_mk_hif, kept_mk_mem, kept_mk_both]
  repeat' first
    | (with_reducible assumption) | (with_reducible intro _) | (with_reducible apply wagSend_kept)
    | (with_reducible apply setWag_kept) | (with_reducible apply kept_ite)

theorem identDie_kept {k : Keep} {s : State} {a1 a2} (h : s.Kept k) : (State.identDie s a1 a2).Kept k := by
  unfold State.identDie
  try simp only [kept_mk, kept_mk_hif, kept_mk_mem, kept_mk_both]
  repeat' first
    | (with_reducible assumption) | (with_reducible intro _) | (with_reducible apply wagFail_kept)
    | (with_reducible apply setDieWord_kept) | (with_reducible apply wr_kept) | (with_reducible apply modWag_kept)
    | (with_reducible apply kept_ite)

theorem identPartner_kept {k : Keep} {s : State} {a1 a2} (h : s.Kept k) : (State.identPartner s a1 a2).Kept k := by
  unfold State.identPartner
  try simp only [kept_mk, kept_mk_hif, kept_mk_mem, kept_mk_both]
  repeat' first
    | (with_reducible assumption) | (with_reducible intro _) | (with_reducible apply modPkg_kept)
    | (with_reducible apply modWag_kept) | (with_reducible apply wagFail_kept) | (with_reducible apply kept_ite)

theorem wagIdent_kept {k : Keep} {s : State} {a1 a2 a3} (h : s.Kept k) : (State.wagIdent s a1 a2 a3).Kept k := by
  unfold State.wagIdent
  try simp only [kept_mk, kept_mk_hif, kept_mk_mem, kept_mk_both]
  repeat' first
    | (with_reducible assumption) | (with_reducible intro _) | (with_reducible apply wagReply_kept)
    | (with_reducible apply identPartner_kept) | (with_reducible apply modWag_kept) | (with_reducible apply identDie_kept)
    | (with_reducible apply kept_ite)

theorem sendSelect_kept {k : Keep} {s : State} {a1} (h : s.Kept k) : (State.sendSelect s a1).Kept k := by
  unfold State.sendSelect
  try simp only [kept_mk, kept_mk_hif, kept_mk_mem, kept_mk_both]
  repeat' first
    | (with_reducible assumption) | (with_reducible intro _) | (with_reducible apply wagRequest_kept)

theorem noteOffer_kept {k : Keep} {s : State} {a1 a2} (h : s.Kept k) : (State.noteOffer s a1 a2).Kept k := by
  unfold State.noteOffer
  try simp only [kept_mk, kept_mk_hif, kept_mk_mem, kept_mk_both]
  repeat' first
    | (with_reducible assumption) | (with_reducible intro _) | (with_reducible apply modWag_kept)

theorem wagOffer_kept {k : Keep} {s : State} {a1 a2} (h : s.Kept k) : (State.wagOffer s a1 a2).Kept k := by
  unfold State.wagOffer
  try simp only [kept_mk, kept_mk_hif, kept_mk_mem, kept_mk_both]
  repeat' first
    | (with_reducible assumption) | (with_reducible intro _) | (with_reducible apply wagReply_kept)
    | (with_reducible apply wagFail_kept) | (with_reducible apply noteOffer_kept) | (with_reducible apply sendSelect_kept)
    | (with_reducible apply kept_ite)

theorem wagConfirm_kept {k : Keep} {s : State} {a1 a2} (h : s.Kept k) : (State.wagConfirm s a1 a2).Kept k := by
  unfold State.wagConfirm
  try simp only [kept_mk, kept_mk_hif, kept_mk_mem, kept_mk_both]
  repeat' first
    | (with_reducible assumption) | (with_reducible intro _) | (with_reducible apply wagReply_kept)
    | (with_reducible apply modWag_kept) | (with_reducible apply kept_ite)

theorem stepDown_kept {k : Keep} {s : State} {a1} (h : s.Kept k) : (State.stepDown s a1).Kept k := by
  unfold State.stepDown
  try simp only [kept_mk, kept_mk_hif, kept_mk_mem, kept_mk_both]
  repeat' first
    | (with_reducible assumption) | (with_reducible intro _) | (with_reducible apply wagFail_kept)
    | (with_reducible apply sendSelect_kept) | (with_reducible apply setWag_kept) | (with_reducible apply kept_ite)

theorem sendDone_kept {k : Keep} {s : State} {a1} (h : s.Kept k) : (State.sendDone s a1).Kept k := by
  unfold State.sendDone
  try simp only [kept_mk, kept_mk_hif, kept_mk_mem, kept_mk_both]
  repeat' first
    | (with_reducible assumption) | (with_reducible intro _) | (with_reducible apply wagRequest_kept)

theorem ownTrained_kept {k : Keep} {s : State} {a1 a2} (h : s.Kept k) : (State.ownTrained s a1 a2).Kept k := by
  unfold State.ownTrained
  try simp only [kept_mk, kept_mk_hif, kept_mk_mem, kept_mk_both]
  repeat' first
    | (with_reducible assumption) | (with_reducible intro _) | (with_reducible apply wagReply_kept)
    | (with_reducible apply sendDone_kept) | (with_reducible apply modWag_kept) | (with_reducible apply stepDown_kept)
    | (with_reducible apply kept_ite)

theorem linkUp_kept {k : Keep} {s : State} {a1 a2 a3 a4} (h : s.Kept k) : (State.linkUp s a1 a2 a3 a4).Kept k := by
  unfold State.linkUp
  try simp only [kept_mk, kept_mk_hif, kept_mk_mem, kept_mk_both]
  repeat' first
    | (with_reducible assumption) | (with_reducible intro _) | (with_reducible apply wr_kept) | (with_reducible apply wrB_kept)
    | (with_reducible apply linkEvent_kept)

theorem ringTrained_kept {k : Keep} {s : State} {a1 a2} (h : s.Kept k) : (State.ringTrained s a1 a2).Kept k := by
  unfold State.ringTrained
  try simp only [kept_mk, kept_mk_hif, kept_mk_mem, kept_mk_both]
  repeat' first
    | (with_reducible assumption) | (with_reducible intro _) | (with_reducible apply wagSend_kept)
    | (with_reducible apply modWag_kept) | (with_reducible apply linkUp_kept) | (with_reducible apply linkEvent_kept)
    | (with_reducible apply linkDown_kept) | (with_reducible apply kept_ite)

theorem reportEchoed_kept {k : Keep} {s : State} {a1 a2} (h : s.Kept k) : (State.reportEchoed s a1 a2).Kept k := by
  unfold State.reportEchoed
  try simp only [kept_mk, kept_mk_hif, kept_mk_mem, kept_mk_both]
  repeat' first
    | (with_reducible assumption) | (with_reducible intro _) | (with_reducible apply wagSend_kept)
    | (with_reducible apply modWag_kept) | (with_reducible apply kept_ite)

theorem wagTrained_kept {k : Keep} {s : State} {a1 a2 a3} (h : s.Kept k) : (State.wagTrained s a1 a2 a3).Kept k := by
  unfold State.wagTrained
  try simp only [kept_mk, kept_mk_hif, kept_mk_mem, kept_mk_both]
  repeat' first
    | (with_reducible assumption) | (with_reducible intro _) | (with_reducible apply reportEchoed_kept)
    | (with_reducible apply ringTrained_kept) | (with_reducible apply ownTrained_kept) | (with_reducible apply kept_ite)

theorem startRings_kept {k : Keep} {s : State} {a1} (h : s.Kept k) : (State.startRings s a1).Kept k := by
  unfold State.startRings
  try simp only [kept_mk, kept_mk_hif, kept_mk_mem, kept_mk_both]
  repeat' first
    | (with_reducible assumption) | (with_reducible intro _) | (with_reducible apply wagStart_kept)
    | (with_reducible apply kept_ite) | (with_reducible apply kept_ite_fst) | (with_reducible apply out_next)
    | (with_reducible apply out_ite) | (with_reducible apply kept_foldl)

theorem grantPartner_kept {k : Keep} {s : State} (h : s.Kept k) : (State.grantPartner s).Kept k := by
  unfold State.grantPartner
  try simp only [kept_mk, kept_mk_hif, kept_mk_mem, kept_mk_both]
  repeat' first
    | (with_reducible assumption) | (with_reducible intro _) | (with_reducible apply kept_ite)
    | (with_reducible apply kept_ite_fst) | (with_reducible apply out_next) | (with_reducible apply out_ite)
    | (with_reducible apply kept_foldl) | (with_reducible apply kept_foldl_fst)
    | (with_reducible refine kept_fst ?_ (by assumption)) | (split) | (simp only [kept_mk, kept_mk_hif, kept_mk_mem, kept_mk_both])

theorem reachDone_kept {k : Keep} {s : State} {a1} (h : s.Kept k) : (State.reachDone s a1).Kept k := by
  unfold State.reachDone
  try simp only [kept_mk, kept_mk_hif, kept_mk_mem, kept_mk_both]
  repeat' first
    | (with_reducible assumption) | (with_reducible intro _) | (with_reducible apply setWag_kept)
    | (with_reducible apply sendReport_kept) | (with_reducible apply setDieWord_kept) | (with_reducible apply wr_kept)
    | (with_reducible apply linkUp_kept) | (with_reducible apply modPkg_kept) | (with_reducible apply grantPartner_kept)
    | (with_reducible apply startRings_kept) | (with_reducible apply showMixed_kept) | (with_reducible apply settleDies_kept)
    | (with_reducible apply kept_ite) | (with_reducible apply kept_ite_fst) | (with_reducible apply out_next)
    | (with_reducible apply out_ite) | (with_reducible apply kept_foldl) | (with_reducible apply kept_foldl_fst)
    | (with_reducible refine kept_fst ?_ (by assumption)) | (split)
    | (simp only [kept_mk, kept_mk_hif, kept_mk_mem, kept_mk_both])

theorem wagDone_kept {k : Keep} {s : State} {a1 a2 a3} (h : s.Kept k) : (State.wagDone s a1 a2 a3).Kept k := by
  unfold State.wagDone
  try simp only [kept_mk, kept_mk_hif, kept_mk_mem, kept_mk_both]
  repeat' first
    | (with_reducible assumption) | (with_reducible intro _) | (with_reducible apply wagServe_kept)
    | (with_reducible apply modWag_kept) | (with_reducible apply wagReply_kept) | (with_reducible apply reachDone_kept)
    | (with_reducible apply kept_ite)

theorem wagReject_kept {k : Keep} {s : State} {a1 a2} (h : s.Kept k) : (State.wagReject s a1 a2).Kept k := by
  unfold State.wagReject
  try simp only [kept_mk, kept_mk_hif, kept_mk_mem, kept_mk_both]
  repeat' first
    | (with_reducible assumption) | (with_reducible intro _) | (with_reducible apply modWag_kept)
    | (with_reducible apply wagSend_kept) | (with_reducible apply kept_ite)

theorem wagNak_kept {k : Keep} {s : State} {a1 a2 a3} (h : s.Kept k) : (State.wagNak s a1 a2 a3).Kept k := by
  unfold State.wagNak
  try simp only [kept_mk, kept_mk_hif, kept_mk_mem, kept_mk_both]
  repeat' first
    | (with_reducible assumption) | (with_reducible intro _) | (with_reducible apply wagNakReply_kept)
    | (with_reducible apply wagSend_kept) | (with_reducible apply wagRetry_kept) | (with_reducible apply reject_kept)
    | (with_reducible apply kept_ite) | (with_reducible apply kept_ite_fst) | (with_reducible apply out_next)
    | (with_reducible apply out_ite) | (with_reducible apply kept_foldl) | (with_reducible apply kept_foldl_fst)
    | (with_reducible refine kept_fst ?_ (by assumption)) | (split)
    | (simp only [kept_mk, kept_mk_hif, kept_mk_mem, kept_mk_both])

theorem startWaggle_kept {k : Keep} {s : State} (h : s.Kept k) : (State.startWaggle s).Kept k := by
  unfold State.startWaggle
  try simp only [kept_mk, kept_mk_hif, kept_mk_mem, kept_mk_both]
  repeat' first
    | (with_reducible assumption) | (with_reducible intro _) | (with_reducible apply wagStart_kept)
    | (with_reducible apply kept_ite) | (with_reducible apply kept_ite_fst) | (with_reducible apply out_next)
    | (with_reducible apply out_ite) | (with_reducible apply kept_foldl)

theorem warmTrainEnds_kept {k : Keep} {s : State} (h : s.Kept k) : (State.warmTrainEnds s).Kept k := by
  unfold State.warmTrainEnds
  try simp only [kept_mk, kept_mk_hif, kept_mk_mem, kept_mk_both]
  repeat' first
    | (with_reducible assumption) | (with_reducible intro _) | (with_reducible apply wrB_kept) | (with_reducible apply kept_ite)

theorem loseDie_kept {k : Keep} {s : State} {a1} (h : s.Kept k) : (State.loseDie s a1).Kept k := by
  unfold State.loseDie
  try simp only [kept_mk, kept_mk_hif, kept_mk_mem, kept_mk_both]
  repeat' first
    | (with_reducible assumption) | (with_reducible intro _) | (with_reducible apply linkDown_kept)
    | (with_reducible apply linkEvent_kept) | (with_reducible apply failLink_kept) | (with_reducible apply excludePair_kept)
    | (with_reducible apply replayHost_kept) | (with_reducible apply warmTrainEnds_kept) | (with_reducible apply bootWait_kept)
    | (with_reducible apply kept_ite) | (with_reducible apply kept_ite_fst) | (with_reducible apply out_next)
    | (with_reducible apply out_ite) | (with_reducible apply kept_foldl) | (with_reducible apply kept_foldl_fst)
    | (with_reducible refine kept_fst ?_ (by assumption)) | (split)
    | (simp only [kept_mk, kept_mk_hif, kept_mk_mem, kept_mk_both])

end Sys2Proof.Laws
end

