-- ==== Sys2Proof/Laws/KeptDramCmds.lean ====
section
/-! SUPPORT. What every operation of Machine/DramCmds.lean keeps (`State.Kept`): one lemma for each. -/
set_option linter.unusedSimpArgs false
namespace Sys2Proof.Laws
open Sys2Proof Sys2Proof.Machine

theorem execDramRequest_kept {k : Keep} {s : State} {a0} (h : s.Kept k) : OutKept k (execDramRequest a0 s) := by
  unfold execDramRequest
  try simp only [kept_mk, kept_mk_hif, kept_mk_mem, kept_mk_both]
  repeat' first
    | (with_reducible assumption) | (with_reducible intro _) | (with_reducible apply violation_kept)
    | (with_reducible apply respond_kept) | (with_reducible apply goOn_kept) | (with_reducible apply kept_ite)
    | (with_reducible apply kept_ite_fst) | (with_reducible apply out_next) | (with_reducible apply out_ite)
    | (with_reducible apply kept_foldl) | (with_reducible apply kept_foldl_fst)
    | (with_reducible refine kept_fst ?_ (by assumption)) | (split)
    | (simp only [kept_mk, kept_mk_hif, kept_mk_mem, kept_mk_both])

theorem idleRefresh_kept {k : Keep} {s : State} {a1 a2 a3} (h : s.Kept k) : (State.idleRefresh s a1 a2 a3).Kept k := by
  unfold State.idleRefresh
  try simp only [kept_mk, kept_mk_hif, kept_mk_mem, kept_mk_both]
  repeat' first
    | (with_reducible assumption) | (with_reducible intro _) | (with_reducible apply setChan_kept)
    | (with_reducible apply kept_ite)

theorem spoil_kept {k : Keep} {s : State} {a1 a2 a3 a4} (h : s.Kept k) : (State.spoil s a1 a2 a3 a4).Kept k := by
  unfold State.spoil
  try simp only [kept_mk, kept_mk_hif, kept_mk_mem, kept_mk_both]
  repeat' first
    | (with_reducible assumption) | (with_reducible intro _) | (with_reducible apply applyAt_kept)
    | (with_reducible apply setChan_kept) | (with_reducible apply poisonWord_kept) | (with_reducible apply kept_ite)
    | (with_reducible apply kept_ite_fst) | (with_reducible apply out_next) | (with_reducible apply out_ite)
    | (with_reducible apply kept_foldl)

theorem serveReq_kept {k : Keep} {s : State} {a1 a2 a3 a4 a5} (h : s.Kept k) : (State.serveReq s a1 a2 a3 a4 a5).Kept k := by
  unfold State.serveReq
  try simp only [kept_mk, kept_mk_hif, kept_mk_mem, kept_mk_both]
  repeat' first
    | (with_reducible assumption) | (with_reducible intro _) | (with_reducible apply noteTurn_kept)
    | (with_reducible apply carry_kept) | (with_reducible apply setChan_kept) | (with_reducible apply inc_kept)
    | (with_reducible apply afterAccess_kept) | (with_reducible apply spoil_kept) | (with_reducible apply logReq_kept)
    | (with_reducible apply respond_kept) | (with_reducible apply admitWaiting_kept) | (with_reducible apply drainMode_kept)
    | (with_reducible apply idleRefresh_kept) | (with_reducible apply kept_ite) | (with_reducible apply kept_ite_fst)
    | (with_reducible apply out_next) | (with_reducible apply out_ite) | (with_reducible apply kept_foldl)

theorem execDramChannelIssue_kept {k : Keep} {s : State} {a0 a1 a2} (h : s.Kept k) :
    OutKept k (execDramChannelIssue a0 a1 a2 s) := by
  unfold execDramChannelIssue
  try simp only [kept_mk, kept_mk_hif, kept_mk_mem, kept_mk_both]
  repeat' first
    | (with_reducible assumption) | (with_reducible intro _) | (with_reducible apply serveReq_kept)
    | (with_reducible apply kept_ite) | (with_reducible apply kept_ite_fst) | (with_reducible apply out_next)
    | (with_reducible apply out_ite) | (with_reducible apply kept_foldl) | (with_reducible apply kept_foldl_fst)
    | (with_reducible refine kept_fst ?_ (by assumption)) | (split)

theorem execRefreshDue_kept {k : Keep} {s : State} {a0 a1 a2} (h : s.Kept k) : OutKept k (execRefreshDue a0 a1 a2 s) := by
  unfold execRefreshDue
  try simp only [kept_mk, kept_mk_hif, kept_mk_mem, kept_mk_both]
  repeat' first
    | (with_reducible assumption) | (with_reducible intro _) | (with_reducible apply waitTo_kept)
    | (with_reducible apply raise_kept) | (with_reducible apply inc_kept) | (with_reducible apply setChan_kept)
    | (with_reducible apply kept_ite) | (with_reducible apply kept_ite_fst) | (with_reducible apply out_next)
    | (with_reducible apply out_ite)

theorem hastenRefresh_kept {k : Keep} {s : State} {a1} (h : s.Kept k) : (State.hastenRefresh s a1).Kept k := by
  unfold State.hastenRefresh
  try simp only [kept_mk, kept_mk_hif, kept_mk_mem, kept_mk_both]
  repeat' first
    | (with_reducible assumption) | (with_reducible intro _) | (with_reducible apply setDmc_kept)

theorem execMimiderSensorRead_kept {k : Keep} {s : State} {a0 a1} (h : s.Kept k) : OutKept k (execMimiderSensorRead a0 a1 s) := by
  unfold execMimiderSensorRead
  try simp only [kept_mk, kept_mk_hif, kept_mk_mem, kept_mk_both]
  repeat' first
    | (with_reducible assumption) | (with_reducible intro _) | (with_reducible apply wr_kept)
    | (with_reducible apply setDmc_kept) | (with_reducible apply hastenRefresh_kept) | (with_reducible apply kept_ite)
    | (with_reducible apply kept_ite_fst) | (with_reducible apply out_next) | (with_reducible apply out_ite)
    | (with_reducible apply kept_foldl) | (with_reducible apply kept_foldl_fst)
    | (with_reducible refine kept_fst ?_ (by assumption)) | (split)
    | (simp only [kept_mk, kept_mk_hif, kept_mk_mem, kept_mk_both])

theorem execRowIdleClose_kept {k : Keep} {s : State} {a0 a1 a2} (h : s.Kept k) : OutKept k (execRowIdleClose a0 a1 a2 s) := by
  unfold execRowIdleClose
  try simp only [kept_mk, kept_mk_hif, kept_mk_mem, kept_mk_both]
  repeat' first
    | (with_reducible assumption) | (with_reducible intro _) | (with_reducible apply waitTo_kept)
    | (with_reducible apply setChan_kept) | (with_reducible apply kept_ite) | (with_reducible apply kept_ite_fst)
    | (with_reducible apply out_next) | (with_reducible apply out_ite) | (with_reducible apply kept_foldl)
    | (with_reducible apply kept_foldl_fst) | (with_reducible refine kept_fst ?_ (by assumption)) | (split)

theorem failReq_kept {k : Keep} {s : State} {a1 a2 a3 a4 a5} (h : s.Kept k) : (State.failReq s a1 a2 a3 a4 a5).Kept k := by
  unfold State.failReq
  try simp only [kept_mk, kept_mk_hif, kept_mk_mem, kept_mk_both]
  repeat' first
    | (with_reducible assumption) | (with_reducible intro _) | (with_reducible apply respond_kept)
    | (with_reducible apply spoil_kept) | (with_reducible apply kept_ite) | (with_reducible apply kept_ite_fst)
    | (with_reducible apply out_next) | (with_reducible apply out_ite) | (with_reducible apply kept_foldl)
    | (with_reducible apply kept_foldl_fst) | (with_reducible refine kept_fst ?_ (by assumption)) | (split)
    | (simp only [kept_mk, kept_mk_hif, kept_mk_mem, kept_mk_both])

theorem execCommandParityFailure_kept {k : Keep} {s : State} {a0 a1 a2 a3} (h : s.Kept k) :
    OutKept k (execCommandParityFailure a0 a1 a2 a3 s) := by
  unfold execCommandParityFailure
  try simp only [kept_mk, kept_mk_hif, kept_mk_mem, kept_mk_both]
  repeat' first
    | (with_reducible assumption) | (with_reducible intro _) | (with_reducible apply setChan_kept)
    | (with_reducible apply failReq_kept) | (with_reducible apply logDram_kept) | (with_reducible apply logReq_kept)
    | (with_reducible apply idleRefresh_kept) | (with_reducible apply drainMode_kept)
    | (with_reducible apply admitWaiting_kept) | (with_reducible apply fin_kept) | (with_reducible apply loseDie_kept)
    | (with_reducible apply kept_ite) | (with_reducible apply kept_ite_fst) | (with_reducible apply out_next)
    | (with_reducible apply out_ite) | (with_reducible apply kept_foldl) | (with_reducible apply kept_foldl_fst)
    | (with_reducible refine kept_fst ?_ (by assumption)) | (split)
    | (simp only [kept_mk, kept_mk_hif, kept_mk_mem, kept_mk_both])

theorem execPatrolScrub_kept {k : Keep} {s : State} {a0 a1} (h : s.Kept k) : OutKept k (execPatrolScrub a0 a1 s) := by
  unfold execPatrolScrub
  try simp only [kept_mk, kept_mk_hif, kept_mk_mem, kept_mk_both]
  repeat' first
    | (with_reducible assumption) | (with_reducible intro _) | (with_reducible apply unlessStalled_kept)
    | (with_reducible apply setDmc_kept) | (with_reducible apply passBurst_kept) | (with_reducible apply inc_kept)
    | (with_reducible apply spoil_kept) | (with_reducible apply logDram_kept) | (with_reducible apply kept_ite)
    | (with_reducible apply kept_ite_fst) | (with_reducible apply out_next) | (with_reducible apply out_ite)
    | (with_reducible apply kept_foldl) | (with_reducible apply kept_foldl_fst)
    | (with_reducible refine kept_fst ?_ (by assumption)) | (split)
    | (simp only [kept_mk, kept_mk_hif, kept_mk_mem, kept_mk_both])

theorem execBwrClear_kept {k : Keep} {s : State} (h : s.Kept k) : OutKept k (execBwrClear s) := by
  unfold execBwrClear
  exact out_next ⟨fun e => ⟨(twf_filter _ (h.1 e).1).1, (h.1 e).2⟩, h.2⟩

end Sys2Proof.Laws
end

