-- ==== Sys2Proof/Laws/KeptFusionCmds.lean ====
section
/-! SUPPORT. What every operation of Machine/FusionCmds.lean keeps (`State.Kept`): one lemma for each. -/
set_option linter.unusedSimpArgs false
namespace Sys2Proof.Laws
open Sys2Proof Sys2Proof.Machine

theorem takeNectar_kept {k : Keep} {s : State} {a1 a2} (h : s.Kept k) (ha2 : ∀ x0 x1, x0.Kept k → (a2 x0 x1).Kept k) :
    (State.takeNectar s a1 a2).Kept k := by
  unfold State.takeNectar
  try simp only [kept_mk, kept_mk_hif, kept_mk_mem, kept_mk_both]
  repeat' first
    | (with_reducible assumption) | (with_reducible intro _) | (with_reducible apply ha2) | (with_reducible apply waitNs_kept) | (with_reducible apply kept_ite)
    | (with_reducible apply kept_ite_fst) | (with_reducible apply out_next) | (with_reducible apply out_ite)
    | (with_reducible apply kept_foldl) | (with_reducible apply kept_foldl_fst)
    | (with_reducible refine kept_fst ?_ (by assumption)) | (split) | (simp only [kept_mk, kept_mk_hif, kept_mk_mem, kept_mk_both])

theorem execLidarPacket_kept {k : Keep} {s : State} (h : s.Kept k) : OutKept k (execLidarPacket s) := by
  unfold execLidarPacket
  try simp only [kept_mk, kept_mk_hif, kept_mk_mem, kept_mk_both]
  repeat' first
    | (with_reducible assumption) | (with_reducible intro _) | (with_reducible apply takeNectar_kept)
    | (with_reducible apply takePacket_kept) | (with_reducible apply kept_ite) | (with_reducible apply kept_ite_fst)
    | (with_reducible apply out_next) | (with_reducible apply out_ite)

theorem execCameraFrame_kept {k : Keep} {s : State} (h : s.Kept k) : OutKept k (execCameraFrame s) := by
  unfold execCameraFrame
  try simp only [kept_mk, kept_mk_hif, kept_mk_mem, kept_mk_both]
  repeat' first
    | (with_reducible assumption) | (with_reducible intro _) | (with_reducible apply takeNectar_kept)
    | (with_reducible apply takeFrame_kept) | (with_reducible apply kept_ite) | (with_reducible apply kept_ite_fst)
    | (with_reducible apply out_next) | (with_reducible apply out_ite)

theorem execInstantClose_kept {k : Keep} {s : State} {a0 a1} (h : s.Kept k) : OutKept k (execInstantClose a0 a1 s) := by
  unfold execInstantClose
  try simp only [kept_mk, kept_mk_hif, kept_mk_mem, kept_mk_both]
  repeat' first
    | (with_reducible assumption) | (with_reducible intro _) | (with_reducible apply waitNs_kept)
    | (with_reducible apply closeInstant_kept) | (with_reducible apply kept_ite) | (with_reducible apply kept_ite_fst)
    | (with_reducible apply out_next) | (with_reducible apply out_ite)

theorem camTable_kept {k : Keep} {s : State} {a1 a2} (h : s.Kept k) : (State.camTable s a1 a2).1.Kept k := by
  unfold State.camTable
  try simp only [kept_mk, kept_mk_hif, kept_mk_mem, kept_mk_both]
  repeat' first
    | (with_reducible assumption) | (with_reducible intro _) | (with_reducible apply objLoad_kept)
    | (with_reducible apply kept_ite) | (with_reducible apply kept_ite_fst) | (with_reducible apply out_next)
    | (with_reducible apply out_ite) | (with_reducible apply kept_foldl) | (with_reducible apply kept_foldl_fst)
    | (with_reducible refine kept_fst ?_ (by assumption)) | (split)
    | (simp only [kept_mk, kept_mk_hif, kept_mk_mem, kept_mk_both])

theorem execFuseCollect_kept {k : Keep} {s : State} {a0} (h : s.Kept k) : OutKept k (execFuseCollect a0 s) := by
  unfold execFuseCollect
  try simp only [kept_mk, kept_mk_hif, kept_mk_mem, kept_mk_both]
  repeat' first
    | (with_reducible assumption) | (with_reducible intro _) | (with_reducible apply unlessStalled_kept)
    | (with_reducible apply checkReads_kept) | (with_reducible apply camTable_kept) | (with_reducible apply fin_kept)
    | (with_reducible apply runOp_kept) | (with_reducible apply modRec_kept) | (with_reducible apply kept_ite)
    | (with_reducible apply kept_ite_fst) | (with_reducible apply out_next) | (with_reducible apply out_ite)
    | (with_reducible apply kept_foldl) | (with_reducible apply kept_foldl_fst)
    | (with_reducible refine kept_fst ?_ (by assumption)) | (split)
    | (simp only [kept_mk, kept_mk_hif, kept_mk_mem, kept_mk_both])

theorem storeAll_kept {k : Keep} {s : State} {a1 a2 a3 a4} (h : s.Kept k) : (State.storeAll s a1 a2 a3 a4).1.Kept k := by
  unfold State.storeAll
  try simp only [kept_mk, kept_mk_hif, kept_mk_mem, kept_mk_both]
  repeat' first
    | (with_reducible assumption) | (with_reducible intro _) | (with_reducible apply objStore_kept)
    | (with_reducible apply kept_ite) | (with_reducible apply kept_ite_fst) | (with_reducible apply out_next)
    | (with_reducible apply out_ite) | (with_reducible apply kept_foldl) | (with_reducible apply kept_foldl_fst)

theorem collect_kept {k : Keep} {s : State} {a1 a2 a3} (h : s.Kept k) : (State.collect s a1 a2 a3).1.Kept k := by
  unfold State.collect
  try simp only [kept_mk, kept_mk_hif, kept_mk_mem, kept_mk_both]
  repeat' first
    | (with_reducible assumption) | (with_reducible intro _) | (with_reducible apply storeAll_kept)
    | (with_reducible apply objStore_kept) | (with_reducible apply kept_ite) | (with_reducible apply kept_ite_fst)
    | (with_reducible apply out_next) | (with_reducible apply out_ite) | (with_reducible apply kept_foldl)
    | (with_reducible apply kept_foldl_fst) | (with_reducible refine kept_fst ?_ (by assumption)) | (split)

theorem execFusionOutputDone_kept {k : Keep} {s : State} (h : s.Kept k) : OutKept k (execFusionOutputDone s) := by
  unfold execFusionOutputDone
  try simp only [kept_mk, kept_mk_hif, kept_mk_mem, kept_mk_both]
  repeat' first
    | (with_reducible assumption) | (with_reducible intro _) | (with_reducible apply unlessStalled_kept)
    | (with_reducible apply collect_kept) | (with_reducible apply fin_kept) | (with_reducible apply completeRec_kept)
    | (with_reducible apply spoilOutputs_kept) | (with_reducible apply faultRec_kept) | (with_reducible apply kept_ite)
    | (with_reducible apply kept_ite_fst) | (with_reducible apply out_next) | (with_reducible apply out_ite)
    | (with_reducible apply kept_foldl) | (with_reducible apply kept_foldl_fst)
    | (with_reducible refine kept_fst ?_ (by assumption)) | (split)
    | (simp only [kept_mk, kept_mk_hif, kept_mk_mem, kept_mk_both])

theorem execFuseConfig_kept {k : Keep} {s : State} {a0} (h : s.Kept k) : OutKept k (execFuseConfig a0 s) := by
  unfold execFuseConfig
  try simp only [kept_mk, kept_mk_hif, kept_mk_mem, kept_mk_both]
  repeat' first
    | (with_reducible assumption) | (with_reducible intro _) | (with_reducible apply fin_kept) | (with_reducible apply runOp_kept)
    | (with_reducible apply discardOpen_kept) | (with_reducible apply completeRec_kept) | (with_reducible apply wr_kept)
    | (with_reducible apply kept_ite) | (with_reducible apply kept_ite_fst) | (with_reducible apply out_next)
    | (with_reducible apply out_ite) | (with_reducible apply kept_foldl) | (with_reducible apply kept_foldl_fst)
    | (with_reducible refine kept_fst ?_ (by assumption)) | (split) | (simp only [kept_mk, kept_mk_hif, kept_mk_mem, kept_mk_both])

theorem calibObj_kept {k : Keep} {s : State} {a1 a2} (h : s.Kept k) : (State.calibObj s a1 a2).1.Kept k := by
  unfold State.calibObj
  try simp only [kept_mk, kept_mk_hif, kept_mk_mem, kept_mk_both]
  repeat' first
    | (with_reducible assumption) | (with_reducible intro _) | (with_reducible apply objLoad_kept)
    | (with_reducible apply kept_ite) | (with_reducible apply kept_ite_fst) | (with_reducible apply out_next)
    | (with_reducible apply out_ite) | (with_reducible apply kept_foldl) | (with_reducible apply kept_foldl_fst)
    | (with_reducible refine kept_fst ?_ (by assumption)) | (split)
    | (simp only [kept_mk, kept_mk_hif, kept_mk_mem, kept_mk_both])

theorem execCalibLoad_kept {k : Keep} {s : State} {a0} (h : s.Kept k) : OutKept k (execCalibLoad a0 s) := by
  unfold execCalibLoad
  try simp only [kept_mk, kept_mk_hif, kept_mk_mem, kept_mk_both]
  repeat' first
    | (with_reducible assumption) | (with_reducible intro _) | (with_reducible apply unlessStalled_kept)
    | (with_reducible apply checkReads_kept) | (with_reducible apply calibObj_kept) | (with_reducible apply fin_kept)
    | (with_reducible apply runOp_kept) | (with_reducible apply dropSlot_kept) | (with_reducible apply completeRec_kept)
    | (with_reducible apply kept_ite) | (with_reducible apply kept_ite_fst) | (with_reducible apply out_next)
    | (with_reducible apply out_ite) | (with_reducible apply kept_foldl) | (with_reducible apply kept_foldl_fst)
    | (with_reducible refine kept_fst ?_ (by assumption)) | (split)
    | (simp only [kept_mk, kept_mk_hif, kept_mk_mem, kept_mk_both])

theorem execCalibRemove_kept {k : Keep} {s : State} {a0} (h : s.Kept k) : OutKept k (execCalibRemove a0 s) := by
  unfold execCalibRemove
  try simp only [kept_mk, kept_mk_hif, kept_mk_mem, kept_mk_both]
  repeat' first
    | (with_reducible assumption) | (with_reducible intro _) | (with_reducible apply fin_kept) | (with_reducible apply runOp_kept)
    | (with_reducible apply dropSlot_kept) | (with_reducible apply completeRec_kept) | (with_reducible apply kept_ite)
    | (with_reducible apply kept_ite_fst) | (with_reducible apply out_next) | (with_reducible apply out_ite)
    | (with_reducible apply kept_foldl) | (with_reducible apply kept_foldl_fst)
    | (with_reducible refine kept_fst ?_ (by assumption)) | (split) | (simp only [kept_mk, kept_mk_hif, kept_mk_mem, kept_mk_both])

end Sys2Proof.Laws
end

