-- ==== Sys2Proof/Laws/KeptJoin.lean ====
section
/-! SUPPORT. What every operation of Machine/Join.lean keeps (`State.Kept`): one lemma for each. -/
set_option linter.unusedSimpArgs false
namespace Sys2Proof.Laws
open Sys2Proof Sys2Proof.Machine

theorem modJoin_kept {k : Keep} {s : State} {a1} (h : s.Kept k) : (State.modJoin s a1).Kept k := by
  unfold State.modJoin
  try simp only [kept_mk, kept_mk_hif, kept_mk_mem, kept_mk_both]
  repeat' first
    | (with_reducible assumption)

theorem joinSend_kept {k : Keep} {s : State} {a1 a2} (h : s.Kept k) : (State.joinSend s a1 a2).Kept k := by
  unfold State.joinSend
  try simp only [kept_mk, kept_mk_hif, kept_mk_mem, kept_mk_both]
  repeat' first
    | (with_reducible assumption) | (with_reducible intro _) | (with_reducible apply modJoin_kept)

theorem sendHello_kept {k : Keep} {s : State} (h : s.Kept k) : (State.sendHello s).Kept k := by
  unfold State.sendHello
  try simp only [kept_mk, kept_mk_hif, kept_mk_mem, kept_mk_both]
  repeat' first
    | (with_reducible assumption) | (with_reducible intro _) | (with_reducible apply modJoin_kept)
    | (with_reducible apply joinSend_kept) | (with_reducible apply draw_kept)

theorem joinStart_kept {k : Keep} {s : State} (h : s.Kept k) : (State.joinStart s).Kept k := by
  unfold State.joinStart
  try simp only [kept_mk, kept_mk_hif, kept_mk_mem, kept_mk_both]
  repeat' first
    | (with_reducible assumption) | (with_reducible intro _) | (with_reducible apply sendHello_kept)
    | (with_reducible apply modJoin_kept)

theorem joinFail_kept {k : Keep} {s : State} {a1} (h : s.Kept k) : (State.joinFail s a1).Kept k := by
  unfold State.joinFail
  try simp only [kept_mk, kept_mk_hif, kept_mk_mem, kept_mk_both]
  repeat' first
    | (with_reducible assumption) | (with_reducible intro _) | (with_reducible apply wr_kept) | (with_reducible apply modJoin_kept)
    | (with_reducible apply kept_ite)

theorem joinHello_kept {k : Keep} {s : State} {a1 a2} (h : s.Kept k) : (State.joinHello s a1 a2).Kept k := by
  unfold State.joinHello
  try simp only [kept_mk, kept_mk_hif, kept_mk_mem, kept_mk_both]
  repeat' first
    | (with_reducible assumption) | (with_reducible intro _) | (with_reducible apply joinSend_kept)
    | (with_reducible apply modJoin_kept) | (with_reducible apply kept_ite) | (with_reducible apply kept_ite_fst)
    | (with_reducible apply out_next) | (with_reducible apply out_ite) | (with_reducible apply kept_foldl)
    | (with_reducible apply kept_foldl_fst) | (with_reducible refine kept_fst ?_ (by assumption)) | (split)
    | (simp only [kept_mk, kept_mk_hif, kept_mk_mem, kept_mk_both])

theorem joinResp_kept {k : Keep} {s : State} {a1} (h : s.Kept k) : (State.joinResp s a1).Kept k := by
  unfold State.joinResp
  try simp only [kept_mk, kept_mk_hif, kept_mk_mem, kept_mk_both]
  repeat' first
    | (with_reducible assumption) | (with_reducible intro _) | (with_reducible apply joinFail_kept)
    | (with_reducible apply setDieWord_kept) | (with_reducible apply wr_kept) | (with_reducible apply joinSend_kept)
    | (with_reducible apply modJoin_kept) | (with_reducible apply kept_ite) | (with_reducible apply kept_ite_fst)
    | (with_reducible apply out_next) | (with_reducible apply out_ite) | (with_reducible apply kept_foldl)
    | (with_reducible apply kept_foldl_fst) | (with_reducible refine kept_fst ?_ (by assumption)) | (split)
    | (simp only [kept_mk, kept_mk_hif, kept_mk_mem, kept_mk_both])

theorem joinConfirm_kept {k : Keep} {s : State} {a1} (h : s.Kept k) : (State.joinConfirm s a1).Kept k := by
  unfold State.joinConfirm
  try simp only [kept_mk, kept_mk_hif, kept_mk_mem, kept_mk_both]
  repeat' first
    | (with_reducible assumption) | (with_reducible intro _) | (with_reducible apply joinSend_kept)
    | (with_reducible apply joinFail_kept) | (with_reducible apply kept_ite) | (with_reducible apply kept_ite_fst)
    | (with_reducible apply out_next) | (with_reducible apply out_ite) | (with_reducible apply kept_foldl)
    | (with_reducible apply kept_foldl_fst) | (with_reducible refine kept_fst ?_ (by assumption)) | (split)
    | (simp only [kept_mk, kept_mk_hif, kept_mk_mem, kept_mk_both])

theorem showIslandB_kept {k : Keep} {s : State} (h : s.Kept k) : (State.showIslandB s).Kept k := by
  unfold State.showIslandB
  try simp only [kept_mk, kept_mk_hif, kept_mk_mem, kept_mk_both]
  repeat' first
    | (with_reducible assumption) | (with_reducible intro _) | (with_reducible apply setReg_kept)
    | (with_reducible apply showFault_kept) | (with_reducible apply wrB_kept) | (with_reducible apply wr_kept)
    | (with_reducible apply kept_ite) | (with_reducible apply kept_ite_fst) | (with_reducible apply out_next)
    | (with_reducible apply out_ite) | (with_reducible apply kept_foldl) | (with_reducible apply kept_foldl_fst)
    | (with_reducible refine kept_fst ?_ (by assumption)) | (split)
    | (simp only [kept_mk, kept_mk_hif, kept_mk_mem, kept_mk_both])

theorem joinDone_kept {k : Keep} {s : State} {a1 a2} (h : s.Kept k) : (State.joinDone s a1 a2).Kept k := by
  unfold State.joinDone
  try simp only [kept_mk, kept_mk_hif, kept_mk_mem, kept_mk_both]
  repeat' first
    | (with_reducible assumption) | (with_reducible intro _) | (with_reducible apply partWindow_kept)
    | (with_reducible apply wr_kept) | (with_reducible apply wrB_kept) | (with_reducible apply modIslB_kept)
    | (with_reducible apply showIslandB_kept) | (with_reducible apply linkUp_kept) | (with_reducible apply modJoin_kept)
    | (with_reducible apply modPwr_kept) | (with_reducible apply kept_ite) | (with_reducible apply kept_ite_fst)
    | (with_reducible apply out_next) | (with_reducible apply out_ite) | (with_reducible apply kept_foldl)
    | (with_reducible apply kept_foldl_fst) | (with_reducible refine kept_fst ?_ (by assumption)) | (split)
    | (simp only [kept_mk, kept_mk_hif, kept_mk_mem, kept_mk_both])

theorem joinRetry_kept {k : Keep} {s : State} (h : s.Kept k) : (State.joinRetry s).Kept k := by
  unfold State.joinRetry
  try simp only [kept_mk, kept_mk_hif, kept_mk_mem, kept_mk_both]
  repeat' first
    | (with_reducible assumption) | (with_reducible intro _) | (with_reducible apply sendHello_kept)
    | (with_reducible apply waitTo_kept) | (with_reducible apply kept_ite)

theorem joinTimeout_kept {k : Keep} {s : State} (h : s.Kept k) : (State.joinTimeout s).Kept k := by
  unfold State.joinTimeout
  try simp only [kept_mk, kept_mk_hif, kept_mk_mem, kept_mk_both]
  repeat' first
    | (with_reducible assumption) | (with_reducible intro _) | (with_reducible apply waitTo_kept)
    | (with_reducible apply joinFail_kept) | (with_reducible apply kept_ite) | (with_reducible apply kept_ite_fst)
    | (with_reducible apply out_next) | (with_reducible apply out_ite) | (with_reducible apply kept_foldl)
    | (with_reducible apply kept_foldl_fst) | (with_reducible refine kept_fst ?_ (by assumption)) | (split)
    | (simp only [kept_mk, kept_mk_hif, kept_mk_mem, kept_mk_both])

end Sys2Proof.Laws
end

