-- ==== Sys2Proof/Laws/KeptIslandCmds.lean ====
section
/-! SUPPORT. What every operation of Machine/IslandCmds.lean keeps (`State.Kept`): one lemma for each. -/
set_option linter.unusedSimpArgs false
namespace Sys2Proof.Laws
open Sys2Proof Sys2Proof.Machine

theorem modIsland_kept {k : Keep} {s : State} {a1 a2} (h : s.Kept k) : (State.modIsland s a1 a2).Kept k := by
  unfold State.modIsland
  try simp only [kept_mk, kept_mk_hif, kept_mk_mem, kept_mk_both]
  repeat' first
    | (with_reducible assumption) | (with_reducible intro _) | (with_reducible apply modIslA_kept)
    | (with_reducible apply modIslB_kept) | (with_reducible apply kept_ite)

theorem collectFault_kept {k : Keep} {s : State} {a1 a2 a3 a4} (h : s.Kept k) : (State.collectFault s a1 a2 a3 a4).Kept k := by
  unfold State.collectFault
  try simp only [kept_mk, kept_mk_hif, kept_mk_mem, kept_mk_both]
  repeat' first
    | (with_reducible assumption) | (with_reducible intro _) | (with_reducible apply recordFault_kept)
    | (with_reducible apply reactA_kept) | (with_reducible apply reactB_kept) | (with_reducible apply kept_ite)

theorem execIslandFaultMessage_kept {k : Keep} {s : State} {a0} (h : s.Kept k) : OutKept k (execIslandFaultMessage a0 s) := by
  unfold execIslandFaultMessage
  try simp only [kept_mk, kept_mk_hif, kept_mk_mem, kept_mk_both]
  repeat' first
    | (with_reducible assumption) | (with_reducible intro _) | (with_reducible apply fin_kept)
    | (with_reducible apply loseIslandB_kept) | (with_reducible apply wr_kept) | (with_reducible apply stopB_kept)
    | (with_reducible apply kept_ite) | (with_reducible apply kept_ite_fst) | (with_reducible apply out_next)
    | (with_reducible apply out_ite)

theorem execCompareMismatch_kept {k : Keep} {s : State} {a0 a1 a2} (h : s.Kept k) : OutKept k (execCompareMismatch a0 a1 a2 s) := by
  unfold execCompareMismatch
  try simp only [kept_mk, kept_mk_hif, kept_mk_mem, kept_mk_both]
  repeat' first
    | (with_reducible assumption) | (with_reducible intro _) | (with_reducible apply fin_kept)
    | (with_reducible apply collectFault_kept) | (with_reducible apply kept_ite) | (with_reducible apply kept_ite_fst)
    | (with_reducible apply out_next) | (with_reducible apply out_ite)

theorem execIslandMemoryUe_kept {k : Keep} {s : State} {a0} (h : s.Kept k) : OutKept k (execIslandMemoryUe a0 s) := by
  unfold execIslandMemoryUe
  try simp only [kept_mk, kept_mk_hif, kept_mk_mem, kept_mk_both]
  repeat' first
    | (with_reducible assumption) | (with_reducible intro _) | (with_reducible apply fin_kept)
    | (with_reducible apply collectFault_kept) | (with_reducible apply kept_ite) | (with_reducible apply kept_ite_fst)
    | (with_reducible apply out_next) | (with_reducible apply out_ite)

theorem execIslandMemoryScrub_kept {k : Keep} {s : State} {a0 a1} (h : s.Kept k) : OutKept k (execIslandMemoryScrub a0 a1 s) := by
  unfold execIslandMemoryScrub
  try simp only [kept_mk, kept_mk_hif, kept_mk_mem, kept_mk_both]
  repeat' first
    | (with_reducible assumption) | (with_reducible intro _) | (with_reducible apply inc_kept)
    | (with_reducible apply modIslB_kept) | (with_reducible apply wr_kept) | (with_reducible apply kept_ite)
    | (with_reducible apply kept_ite_fst) | (with_reducible apply out_next) | (with_reducible apply out_ite)

theorem recordTest_kept {k : Keep} {s : State} {a1 a2} (h : s.Kept k) : (State.recordTest s a1 a2).Kept k := by
  unfold State.recordTest
  try simp only [kept_mk, kept_mk_hif, kept_mk_mem, kept_mk_both]
  repeat' first
    | (with_reducible assumption) | (with_reducible intro _) | (with_reducible apply modIsland_kept)
    | (with_reducible apply wr_kept) | (with_reducible apply setReg_kept) | (with_reducible apply kept_ite)

theorem testEnds_kept {k : Keep} {s : State} {a1} (h : s.Kept k) : (State.testEnds s a1).Kept k := by
  unfold State.testEnds
  try simp only [kept_mk, kept_mk_hif, kept_mk_mem, kept_mk_both]
  repeat' first
    | (with_reducible assumption) | (with_reducible intro _) | (with_reducible apply commandDone_kept)
    | (with_reducible apply wr_kept) | (with_reducible apply collectFault_kept) | (with_reducible apply modIsland_kept)
    | (with_reducible apply kept_ite) | (with_reducible apply kept_ite_fst) | (with_reducible apply out_next)
    | (with_reducible apply out_ite) | (with_reducible apply kept_foldl) | (with_reducible apply kept_foldl_fst)
    | (with_reducible refine kept_fst ?_ (by assumption)) | (split) | (simp only [kept_mk, kept_mk_hif, kept_mk_mem, kept_mk_both])

theorem execComparatorTestRun_kept {k : Keep} {s : State} {a0 a1 a2} (h : s.Kept k) :
    OutKept k (execComparatorTestRun a0 a1 a2 s) := by
  unfold execComparatorTestRun
  try simp only [kept_mk, kept_mk_hif, kept_mk_mem, kept_mk_both]
  repeat' first
    | (with_reducible assumption) | (with_reducible intro _) | (with_reducible apply fin_kept)
    | (with_reducible apply testEnds_kept) | (with_reducible apply elapse_kept) | (with_reducible apply collectFault_kept)
    | (with_reducible apply recordTest_kept) | (with_reducible apply kept_ite) | (with_reducible apply kept_ite_fst)
    | (with_reducible apply out_next) | (with_reducible apply out_ite) | (with_reducible apply kept_foldl)
    | (with_reducible apply kept_foldl_fst) | (with_reducible refine kept_fst ?_ (by assumption)) | (split)
    | (simp only [kept_mk, kept_mk_hif, kept_mk_mem, kept_mk_both])

theorem execCmpTestOverdue_kept {k : Keep} {s : State} {a0} (h : s.Kept k) : OutKept k (execCmpTestOverdue a0 s) := by
  unfold execCmpTestOverdue
  try simp only [kept_mk, kept_mk_hif, kept_mk_mem, kept_mk_both]
  repeat' first
    | (with_reducible assumption) | (with_reducible intro _) | (with_reducible apply elapse_kept)
    | (with_reducible apply modIsland_kept) | (with_reducible apply event_kept) | (with_reducible apply wr_kept)
    | (with_reducible apply kept_ite) | (with_reducible apply kept_ite_fst) | (with_reducible apply out_next)
    | (with_reducible apply out_ite)

theorem execDebugEnable_kept {k : Keep} {s : State} {a0 a1} (h : s.Kept k) : OutKept k (execDebugEnable a0 a1 s) := by
  unfold execDebugEnable
  try simp only [kept_mk, kept_mk_hif, kept_mk_mem, kept_mk_both]
  repeat' first
    | (with_reducible assumption) | (with_reducible intro _) | (with_reducible apply fin_kept) | (with_reducible apply stopA_kept)
    | (with_reducible apply wr_kept) | (with_reducible apply modIslA_kept) | (with_reducible apply modIslB_kept)
    | (with_reducible apply stopB_kept) | (with_reducible apply kept_ite) | (with_reducible apply kept_ite_fst)
    | (with_reducible apply out_next) | (with_reducible apply out_ite)

theorem debugAct_kept {k : Keep} {s : State} {a1 a2 a3} (h : s.Kept k) : (State.debugAct s a1 a2 a3).Kept k := by
  unfold State.debugAct
  try simp only [kept_mk, kept_mk_hif, kept_mk_mem, kept_mk_both]
  repeat' first
    | (with_reducible assumption) | (with_reducible intro _) | (with_reducible apply draw_kept)
    | (with_reducible apply modIsland_kept) | (with_reducible apply kept_ite)

theorem showRun_kept {k : Keep} {s : State} (h : s.Kept k) : (State.showRun s).Kept k := by
  unfold State.showRun
  try simp only [kept_mk, kept_mk_hif, kept_mk_mem, kept_mk_both]
  repeat' first
    | (with_reducible assumption) | (with_reducible intro _) | (with_reducible apply wrB_kept)
    | (with_reducible apply kept_ite) | (with_reducible apply kept_ite_fst) | (with_reducible apply out_next)
    | (with_reducible apply out_ite) | (with_reducible apply kept_foldl) | (with_reducible apply kept_foldl_fst)
    | (with_reducible refine kept_fst ?_ (by assumption)) | (split)
    | (simp only [kept_mk, kept_mk_hif, kept_mk_mem, kept_mk_both])

theorem execDebugHalt_kept {k : Keep} {s : State} {a0} (h : s.Kept k) : OutKept k (execDebugHalt a0 s) := by
  unfold execDebugHalt
  try simp only [kept_mk, kept_mk_hif, kept_mk_mem, kept_mk_both]
  repeat' first
    | (with_reducible assumption) | (with_reducible intro _) | (with_reducible apply debugAct_kept)
    | (with_reducible apply showRun_kept) | (with_reducible apply kept_ite) | (with_reducible apply kept_ite_fst)
    | (with_reducible apply out_next) | (with_reducible apply out_ite) | (with_reducible apply kept_foldl)
    | (with_reducible apply kept_foldl_fst) | (with_reducible refine kept_fst ?_ (by assumption)) | (split)
    | (simp only [kept_mk, kept_mk_hif, kept_mk_mem, kept_mk_both])

theorem execDebugResume_kept {k : Keep} {s : State} {a0} (h : s.Kept k) : OutKept k (execDebugResume a0 s) := by
  unfold execDebugResume
  try simp only [kept_mk, kept_mk_hif, kept_mk_mem, kept_mk_both]
  repeat' first
    | (with_reducible assumption) | (with_reducible intro _) | (with_reducible apply debugAct_kept)
    | (with_reducible apply showRun_kept) | (with_reducible apply kept_ite) | (with_reducible apply kept_ite_fst)
    | (with_reducible apply out_next) | (with_reducible apply out_ite) | (with_reducible apply kept_foldl)
    | (with_reducible apply kept_foldl_fst) | (with_reducible refine kept_fst ?_ (by assumption)) | (split)
    | (simp only [kept_mk, kept_mk_hif, kept_mk_mem, kept_mk_both])

theorem execDebugSingleStep_kept {k : Keep} {s : State} {a0} (h : s.Kept k) : OutKept k (execDebugSingleStep a0 s) := by
  unfold execDebugSingleStep
  try simp only [kept_mk, kept_mk_hif, kept_mk_mem, kept_mk_both]
  repeat' first
    | (with_reducible assumption) | (with_reducible intro _) | (with_reducible apply debugAct_kept)
    | (with_reducible apply kept_ite) | (with_reducible apply kept_ite_fst) | (with_reducible apply out_next)

theorem execDebugBreakpointSet_kept {k : Keep} {s : State} {a0 a1} (h : s.Kept k) : OutKept k (execDebugBreakpointSet a0 a1 s) := by
  unfold execDebugBreakpointSet
  try simp only [kept_mk, kept_mk_hif, kept_mk_mem, kept_mk_both]
  repeat' first
    | (with_reducible assumption) | (with_reducible intro _) | (with_reducible apply debugAct_kept)
    | (with_reducible apply kept_ite) | (with_reducible apply kept_ite_fst) | (with_reducible apply out_next)

theorem execDebugRegisterRead_kept {k : Keep} {s : State} {a0 a1} (h : s.Kept k) : OutKept k (execDebugRegisterRead a0 a1 s) := by
  unfold execDebugRegisterRead
  try simp only [kept_mk, kept_mk_hif, kept_mk_mem, kept_mk_both]
  repeat' first
    | (with_reducible assumption) | (with_reducible intro _) | (with_reducible apply debugAct_kept)
    | (with_reducible apply kept_ite) | (with_reducible apply kept_ite_fst) | (with_reducible apply out_next)

theorem execDebugRegisterWrite_kept {k : Keep} {s : State} {a0 a1 a2} (h : s.Kept k) :
    OutKept k (execDebugRegisterWrite a0 a1 a2 s) := by
  unfold execDebugRegisterWrite
  try simp only [kept_mk, kept_mk_hif, kept_mk_mem, kept_mk_both]
  repeat' first
    | (with_reducible assumption) | (with_reducible intro _) | (with_reducible apply debugAct_kept)
    | (with_reducible apply kept_ite) | (with_reducible apply kept_ite_fst) | (with_reducible apply out_next)

theorem execDebugMemoryRead_kept {k : Keep} {s : State} {a0 a1 a2} (h : s.Kept k) : OutKept k (execDebugMemoryRead a0 a1 a2 s) := by
  unfold execDebugMemoryRead
  try simp only [kept_mk, kept_mk_hif, kept_mk_mem, kept_mk_both]
  repeat' first
    | (with_reducible assumption) | (with_reducible intro _) | (with_reducible apply debugAct_kept)
    | (with_reducible apply kept_ite) | (with_reducible apply kept_ite_fst) | (with_reducible apply out_next)
    | (with_reducible apply out_ite)

theorem execDebugMemoryWrite_kept {k : Keep} {s : State} {a0 a1 a2} (h : s.Kept k) :
    OutKept k (execDebugMemoryWrite a0 a1 a2 s) := by
  unfold execDebugMemoryWrite
  try simp only [kept_mk, kept_mk_hif, kept_mk_mem, kept_mk_both]
  repeat' first
    | (with_reducible assumption) | (with_reducible intro _) | (with_reducible apply debugAct_kept)
    | (with_reducible apply kept_ite) | (with_reducible apply kept_ite_fst) | (with_reducible apply out_next)
    | (with_reducible apply out_ite)

theorem execConfigRecordWrite_kept {k : Keep} {s : State} (h : s.Kept k) : OutKept k (execConfigRecordWrite s) := by
  unfold execConfigRecordWrite
  try simp only [kept_mk, kept_mk_hif, kept_mk_mem, kept_mk_both]
  repeat' first
    | (with_reducible assumption) | (with_reducible intro _) | (with_reducible apply wr_kept) | (with_reducible apply kept_ite)
    | (with_reducible apply kept_ite_fst) | (with_reducible apply out_next) | (with_reducible apply out_ite)
    | (with_reducible apply kept_foldl) | (with_reducible apply kept_foldl_fst)
    | (with_reducible refine kept_fst ?_ (by assumption)) | (split) | (simp only [kept_mk, kept_mk_hif, kept_mk_mem, kept_mk_both])

theorem execConfigRecordWriteDone_kept {k : Keep} {s : State} (h : s.Kept k) : OutKept k (execConfigRecordWriteDone s) := by
  unfold execConfigRecordWriteDone
  try simp only [kept_mk, kept_mk_hif, kept_mk_mem, kept_mk_both]
  repeat' first
    | (with_reducible assumption) | (with_reducible intro _) | (with_reducible apply wr_kept) | (with_reducible apply fin_kept)
    | (with_reducible apply applyRecord_kept) | (with_reducible apply kept_ite) | (with_reducible apply kept_ite_fst)
    | (with_reducible apply out_next) | (with_reducible apply out_ite) | (with_reducible apply kept_foldl)
    | (with_reducible apply kept_foldl_fst) | (with_reducible refine kept_fst ?_ (by assumption)) | (split)
    | (simp only [kept_mk, kept_mk_hif, kept_mk_mem, kept_mk_both])

theorem execConfigRecordRead_kept {k : Keep} {s : State} (h : s.Kept k) : OutKept k (execConfigRecordRead s) := by
  unfold execConfigRecordRead
  try simp only [kept_mk, kept_mk_hif, kept_mk_mem, kept_mk_both]
  repeat' first
    | (with_reducible assumption) | (with_reducible intro _) | (with_reducible apply wr_kept) | (with_reducible apply kept_ite)
    | (with_reducible apply kept_ite_fst) | (with_reducible apply out_next) | (with_reducible apply out_ite)
    | (with_reducible apply kept_foldl) | (with_reducible apply kept_foldl_fst)
    | (with_reducible refine kept_fst ?_ (by assumption)) | (split)

theorem upset_kept {k : Keep} {s : State} {a1} (h : s.Kept k) : (State.upset s a1).Kept k := by
  unfold State.upset
  try simp only [kept_mk, kept_mk_hif, kept_mk_mem, kept_mk_both]
  repeat' first
    | (with_reducible assumption)

theorem execConfigVoteScrub_kept {k : Keep} {s : State} {a0} (h : s.Kept k) : OutKept k (execConfigVoteScrub a0 s) := by
  unfold execConfigVoteScrub
  try simp only [kept_mk, kept_mk_hif, kept_mk_mem, kept_mk_both]
  repeat' first
    | (with_reducible assumption) | (with_reducible intro _) | (with_reducible apply upset_kept)
    | (with_reducible apply voteAll_kept) | (with_reducible apply fin_kept) | (with_reducible apply refuseIslands_kept)
    | (with_reducible apply kept_ite) | (with_reducible apply kept_ite_fst) | (with_reducible apply out_next)
    | (with_reducible apply out_ite) | (with_reducible apply kept_foldl) | (with_reducible apply kept_foldl_fst)
    | (with_reducible refine kept_fst ?_ (by assumption)) | (split)
    | (simp only [kept_mk, kept_mk_hif, kept_mk_mem, kept_mk_both])

theorem execGuardExpiry_kept {k : Keep} {s : State} {a0} (h : s.Kept k) : OutKept k (execGuardExpiry a0 s) := by
  unfold execGuardExpiry
  try simp only [kept_mk, kept_mk_hif, kept_mk_mem, kept_mk_both]
  repeat' first
    | (with_reducible assumption) | (with_reducible intro _) | (with_reducible apply fin_kept)
    | (with_reducible apply expireGuard_kept) | (with_reducible apply kept_ite) | (with_reducible apply kept_ite_fst)
    | (with_reducible apply out_next) | (with_reducible apply out_ite)

theorem execDeadlineMiss_kept {k : Keep} {s : State} {a0} (h : s.Kept k) : OutKept k (execDeadlineMiss a0 s) := by
  unfold execDeadlineMiss
  try simp only [kept_mk, kept_mk_hif, kept_mk_mem, kept_mk_both]
  repeat' first
    | (with_reducible assumption) | (with_reducible intro _) | (with_reducible apply fin_kept)
    | (with_reducible apply expireInterval_kept) | (with_reducible apply kept_ite) | (with_reducible apply kept_ite_fst)
    | (with_reducible apply out_next) | (with_reducible apply out_ite)

theorem execCheckerSummaryCopy_kept {k : Keep} {s : State} {a0} (h : s.Kept k) : OutKept k (execCheckerSummaryCopy a0 s) := by
  unfold execCheckerSummaryCopy
  try simp only [kept_mk, kept_mk_hif, kept_mk_mem, kept_mk_both]
  repeat' first
    | (with_reducible assumption) | (with_reducible intro _) | (with_reducible apply fin_kept)
    | (with_reducible apply copySummaries_kept) | (with_reducible apply kept_ite) | (with_reducible apply kept_ite_fst)
    | (with_reducible apply out_next) | (with_reducible apply out_ite)

theorem execCheckerLagExpiry_kept {k : Keep} {s : State} {a0} (h : s.Kept k) : OutKept k (execCheckerLagExpiry a0 s) := by
  unfold execCheckerLagExpiry
  try simp only [kept_mk, kept_mk_hif, kept_mk_mem, kept_mk_both]
  repeat' first
    | (with_reducible assumption) | (with_reducible intro _) | (with_reducible apply fin_kept)
    | (with_reducible apply expireLag_kept) | (with_reducible apply kept_ite) | (with_reducible apply kept_ite_fst)
    | (with_reducible apply out_next) | (with_reducible apply out_ite)

theorem execFunctionRestartResume_kept {k : Keep} {s : State} {a0} (h : s.Kept k) :
    OutKept k (execFunctionRestartResume a0 s) := by
  unfold execFunctionRestartResume
  try simp only [kept_mk, kept_mk_hif, kept_mk_mem, kept_mk_both]
  repeat' first
    | (with_reducible assumption) | (with_reducible intro _) | (with_reducible apply unlessStalled_kept)
    | (with_reducible apply fin_kept) | (with_reducible apply endRestart_kept) | (with_reducible apply kept_ite)
    | (with_reducible apply kept_ite_fst) | (with_reducible apply out_next) | (with_reducible apply out_ite)
    | (with_reducible apply kept_foldl) | (with_reducible apply kept_foldl_fst)
    | (with_reducible refine kept_fst ?_ (by assumption)) | (split)
    | (simp only [kept_mk, kept_mk_hif, kept_mk_mem, kept_mk_both])

theorem execRestartOverrun_kept {k : Keep} {s : State} {a0} (h : s.Kept k) : OutKept k (execRestartOverrun a0 s) := by
  unfold execRestartOverrun
  try simp only [kept_mk, kept_mk_hif, kept_mk_mem, kept_mk_both]
  repeat' first
    | (with_reducible assumption) | (with_reducible intro _) | (with_reducible apply waitTo_kept) | (with_reducible apply fin_kept)
    | (with_reducible apply stopB_kept) | (with_reducible apply kept_ite) | (with_reducible apply kept_ite_fst)
    | (with_reducible apply out_next) | (with_reducible apply out_ite) | (with_reducible apply kept_foldl)
    | (with_reducible apply kept_foldl_fst) | (with_reducible refine kept_fst ?_ (by assumption)) | (split)
    | (simp only [kept_mk, kept_mk_hif, kept_mk_mem, kept_mk_both])

theorem execStopFrameRepeat_kept {k : Keep} {s : State} {a0 a1} (h : s.Kept k) : OutKept k (execStopFrameRepeat a0 a1 s) := by
  unfold execStopFrameRepeat
  try simp only [kept_mk, kept_mk_hif, kept_mk_mem, kept_mk_both]
  repeat' first
    | (with_reducible assumption) | (with_reducible intro _) | (with_reducible apply sendStop_kept)
    | (with_reducible apply waitTo_kept) | (with_reducible apply kept_ite) | (with_reducible apply kept_ite_fst)
    | (with_reducible apply out_next) | (with_reducible apply out_ite) | (with_reducible apply kept_foldl)
    | (with_reducible apply kept_foldl_fst) | (with_reducible refine kept_fst ?_ (by assumption)) | (split)

end Sys2Proof.Laws
end

