-- ==== Sys2Proof/Laws/KeptMailbox.lean ====
section
/-! SUPPORT. What every operation of Machine/Mailbox.lean keeps (`State.Kept`): one lemma for each. -/
set_option linter.unusedSimpArgs false
namespace Sys2Proof.Laws
open Sys2Proof Sys2Proof.Machine

theorem setMbx_kept {k : Keep} {s : State} {a1 a2} (h : s.Kept k) : (State.setMbx s a1 a2).Kept k := by
  unfold State.setMbx
  try simp only [kept_mk, kept_mk_hif, kept_mk_mem, kept_mk_both]
  repeat' first
    | (with_reducible assumption)

theorem mbxWrite_kept {k : Keep} {s : State} {a1 a2 a3} (h : s.Kept k) : (State.mbxWrite s a1 a2 a3).Kept k := by
  unfold State.mbxWrite
  try simp only [kept_mk, kept_mk_hif, kept_mk_mem, kept_mk_both]
  repeat' first
    | (with_reducible assumption) | (with_reducible intro _) | (with_reducible apply wr_kept) | (with_reducible apply setMbx_kept)
    | (with_reducible apply kept_ite)

theorem mbxDoorbell_kept {k : Keep} {s : State} {a1} (h : s.Kept k) : (State.mbxDoorbell s a1).Kept k := by
  unfold State.mbxDoorbell
  try simp only [kept_mk, kept_mk_hif, kept_mk_mem, kept_mk_both]
  repeat' first
    | (with_reducible assumption) | (with_reducible intro _) | (with_reducible apply wr_kept) | (with_reducible apply setMbx_kept)
    | (with_reducible apply kept_ite)

theorem mbxAck_kept {k : Keep} {s : State} {a1} (h : s.Kept k) : (State.mbxAck s a1).Kept k := by
  unfold State.mbxAck
  try simp only [kept_mk, kept_mk_hif, kept_mk_mem, kept_mk_both]
  repeat' first
    | (with_reducible assumption) | (with_reducible intro _) | (with_reducible apply wr_kept) | (with_reducible apply kept_ite)

theorem mbxDone_kept {k : Keep} {s : State} {a1 a2} (h : s.Kept k) : (State.mbxDone s a1 a2).Kept k := by
  unfold State.mbxDone
  try simp only [kept_mk, kept_mk_hif, kept_mk_mem, kept_mk_both]
  repeat' first
    | (with_reducible assumption) | (with_reducible intro _) | (with_reducible apply wr_kept) | (with_reducible apply setMbx_kept)
    | (with_reducible apply msix_kept) | (with_reducible apply kept_ite)

theorem answer_kept {k : Keep} {s : State} {a1 a2 a3} (h : s.Kept k) : (State.answer s a1 a2 a3).Kept k := by
  unfold State.answer
  try simp only [kept_mk, kept_mk_hif, kept_mk_mem, kept_mk_both]
  repeat' first
    | (with_reducible assumption) | (with_reducible intro _) | (with_reducible apply setMbx_kept)
    | (with_reducible apply mbxDone_kept)

theorem reject_kept {k : Keep} {s : State} {a1 a2 a3} (h : s.Kept k) : (State.reject s a1 a2 a3).Kept k := by
  unfold State.reject
  try simp only [kept_mk, kept_mk_hif, kept_mk_mem, kept_mk_both]
  repeat' first
    | (with_reducible assumption) | (with_reducible intro _) | (with_reducible apply mbxDone_kept)

theorem serve_kept {k : Keep} {s : State} {a1 a2 a3} (h : s.Kept k) (ha3 : ∀ x0 x1 x2, x0.Kept k → (a3 x0 x1 x2).1.Kept k) :
    (State.serve s a1 a2 a3).Kept k := by
  unfold State.serve
  try simp only [kept_mk, kept_mk_hif, kept_mk_mem, kept_mk_both]
  repeat' first
    | (with_reducible assumption) | (with_reducible intro _) | (with_reducible apply ha3) | (with_reducible apply reject_kept)
    | (with_reducible apply mbxDone_kept) | (with_reducible apply answer_kept) | (with_reducible apply kept_ite)
    | (with_reducible apply kept_ite_fst) | (with_reducible apply out_next) | (with_reducible apply out_ite)
    | (with_reducible apply kept_foldl) | (with_reducible apply kept_foldl_fst)
    | (with_reducible refine kept_fst ?_ (by assumption)) | (split)

end Sys2Proof.Laws
end

