-- ==== Sys2Proof/Laws/KeptMailboxCmds.lean ====
section
/-! SUPPORT. What every operation of Machine/MailboxCmds.lean keeps (`State.Kept`): one lemma for each. -/
set_option linter.unusedSimpArgs false
namespace Sys2Proof.Laws
open Sys2Proof Sys2Proof.Machine

theorem execMbxReqWrite_kept {k : Keep} {s : State} {a0 a1 a2} (h : s.Kept k) : OutKept k (execMbxReqWrite a0 a1 a2 s) := by
  unfold execMbxReqWrite
  try simp only [kept_mk, kept_mk_hif, kept_mk_mem, kept_mk_both]
  repeat' first
    | (with_reducible assumption) | (with_reducible intro _) | (with_reducible apply mbxWrite_kept)
    | (with_reducible apply kept_ite) | (with_reducible apply kept_ite_fst) | (with_reducible apply out_next)
    | (with_reducible apply out_ite)

theorem execMbxDoorbellRefused_kept {k : Keep} {s : State} {a0} (h : s.Kept k) : OutKept k (execMbxDoorbellRefused a0 s) := by
  unfold execMbxDoorbellRefused
  try simp only [kept_mk, kept_mk_hif, kept_mk_mem, kept_mk_both]
  repeat' first
    | (with_reducible assumption) | (with_reducible intro _) | (with_reducible apply mbxDoorbell_kept)
    | (with_reducible apply kept_ite) | (with_reducible apply kept_ite_fst) | (with_reducible apply out_next)
    | (with_reducible apply out_ite)

theorem execMbxAck_kept {k : Keep} {s : State} {a0} (h : s.Kept k) : OutKept k (execMbxAck a0 s) := by
  unfold execMbxAck
  try simp only [kept_mk, kept_mk_hif, kept_mk_mem, kept_mk_both]
  repeat' first
    | (with_reducible assumption) | (with_reducible intro _) | (with_reducible apply mbxAck_kept) | (with_reducible apply kept_ite)
    | (with_reducible apply kept_ite_fst) | (with_reducible apply out_next) | (with_reducible apply out_ite)

theorem acceptColony_kept {k : Keep} {s : State} {a1 a2} (h : s.Kept k) : (State.acceptColony s a1 a2).Kept k := by
  unfold State.acceptColony
  try simp only [kept_mk, kept_mk_hif, kept_mk_mem, kept_mk_both]
  repeat' first
    | (with_reducible assumption) | (with_reducible intro _) | (with_reducible apply answer_kept)
    | (with_reducible apply setColony_kept)

theorem acceptDestroy_kept {k : Keep} {s : State} {a1 a2} (h : s.Kept k) : (State.acceptDestroy s a1 a2).Kept k := by
  unfold State.acceptDestroy
  try simp only [kept_mk, kept_mk_hif, kept_mk_mem, kept_mk_both]
  repeat' first
    | (with_reducible assumption) | (with_reducible intro _) | (with_reducible apply setQueue_kept)
    | (with_reducible apply answer_kept) | (with_reducible apply kept_ite) | (with_reducible apply kept_ite_fst)
    | (with_reducible apply out_next) | (with_reducible apply out_ite) | (with_reducible apply kept_foldl)
    | (with_reducible apply kept_foldl_fst) | (with_reducible refine kept_fst ?_ (by assumption)) | (split)
    | (simp only [kept_mk, kept_mk_hif, kept_mk_mem, kept_mk_both])

theorem mbxCancel_kept {k : Keep} {s : State} {a1} (h : s.Kept k) : (State.mbxCancel s a1).Kept k := by
  unfold State.mbxCancel
  try simp only [kept_mk, kept_mk_hif, kept_mk_mem, kept_mk_both]
  repeat' first
    | (with_reducible assumption) | (with_reducible intro _) | (with_reducible apply acceptColony_kept)
    | (with_reducible apply acceptDestroy_kept) | (with_reducible apply reject_kept) | (with_reducible apply kept_ite)
    | (with_reducible apply kept_ite_fst) | (with_reducible apply out_next) | (with_reducible apply out_ite)
    | (with_reducible apply kept_foldl) | (with_reducible apply kept_foldl_fst)
    | (with_reducible refine kept_fst ?_ (by assumption)) | (split)
    | (simp only [kept_mk, kept_mk_hif, kept_mk_mem, kept_mk_both])

theorem execMbxCancel_kept {k : Keep} {s : State} {a0} (h : s.Kept k) : OutKept k (execMbxCancel a0 s) := by
  unfold execMbxCancel
  try simp only [kept_mk, kept_mk_hif, kept_mk_mem, kept_mk_both]
  repeat' first
    | (with_reducible assumption) | (with_reducible intro _) | (with_reducible apply mbxCancel_kept)
    | (with_reducible apply kept_ite) | (with_reducible apply kept_ite_fst) | (with_reducible apply out_next)
    | (with_reducible apply out_ite)

theorem execHello_kept {k : Keep} {s : State} {a0} (h : s.Kept k) : OutKept k (execHello a0 s) := by
  unfold execHello
  try simp only [kept_mk, kept_mk_hif, kept_mk_mem, kept_mk_both]
  repeat' first
    | (with_reducible assumption) | (with_reducible intro _) | (with_reducible apply serve_kept) | (with_reducible apply draw_kept)
    | (with_reducible apply setMbx_kept) | (with_reducible apply kept_ite) | (with_reducible apply kept_ite_fst)
    | (with_reducible apply out_next)

theorem execGetInfo_kept {k : Keep} {s : State} {a0} (h : s.Kept k) : OutKept k (execGetInfo a0 s) := by
  unfold execGetInfo
  try simp only [kept_mk, kept_mk_hif, kept_mk_mem, kept_mk_both]
  repeat' first
    | (with_reducible assumption) | (with_reducible intro _) | (with_reducible apply serve_kept) | (with_reducible apply kept_ite)
    | (with_reducible apply kept_ite_fst) | (with_reducible apply out_next)

theorem memAlloc_kept {k : Keep} {s : State} {a1 a2} (h : s.Kept k) : (State.memAlloc s a1 a2).Kept k := by
  unfold State.memAlloc
  try simp only [kept_mk, kept_mk_hif, kept_mk_mem, kept_mk_both]
  repeat' first
    | (with_reducible assumption) | (with_reducible intro _) | (with_reducible apply zeroRange_kept)
    | (with_reducible apply setColony_kept) | (with_reducible apply kept_ite) | (with_reducible apply kept_ite_fst)
    | (with_reducible apply out_next) | (with_reducible apply out_ite) | (with_reducible apply kept_foldl)
    | (with_reducible apply kept_foldl_fst) | (with_reducible refine kept_fst ?_ (by assumption)) | (split)
    | (simp only [kept_mk, kept_mk_hif, kept_mk_mem, kept_mk_both])

theorem execMemAlloc_kept {k : Keep} {s : State} {a0 a1} (h : s.Kept k) : OutKept k (execMemAlloc a0 a1 s) := by
  unfold execMemAlloc
  try simp only [kept_mk, kept_mk_hif, kept_mk_mem, kept_mk_both]
  repeat' first
    | (with_reducible assumption) | (with_reducible intro _) | (with_reducible apply serve_kept)
    | (with_reducible apply memAlloc_kept) | (with_reducible apply kept_ite) | (with_reducible apply kept_ite_fst)
    | (with_reducible apply out_next)

theorem memFree_kept {k : Keep} {s : State} {a1 a2} (h : s.Kept k) : (State.memFree s a1 a2).Kept k := by
  unfold State.memFree
  try simp only [kept_mk, kept_mk_hif, kept_mk_mem, kept_mk_both]
  repeat' first
    | (with_reducible assumption) | (with_reducible intro _) | (with_reducible apply setColony_kept)
    | (with_reducible apply kept_ite) | (with_reducible apply kept_ite_fst) | (with_reducible apply out_next)
    | (with_reducible apply out_ite) | (with_reducible apply kept_foldl) | (with_reducible apply kept_foldl_fst)
    | (with_reducible refine kept_fst ?_ (by assumption)) | (split) | (simp only [kept_mk, kept_mk_hif, kept_mk_mem, kept_mk_both])

theorem execMemFree_kept {k : Keep} {s : State} {a0} (h : s.Kept k) : OutKept k (execMemFree a0 s) := by
  unfold execMemFree
  try simp only [kept_mk, kept_mk_hif, kept_mk_mem, kept_mk_both]
  repeat' first
    | (with_reducible assumption) | (with_reducible intro _) | (with_reducible apply serve_kept)
    | (with_reducible apply memFree_kept) | (with_reducible apply kept_ite) | (with_reducible apply kept_ite_fst)
    | (with_reducible apply out_next) | (with_reducible apply out_ite) | (with_reducible apply kept_foldl)
    | (with_reducible apply kept_foldl_fst) | (with_reducible refine kept_fst ?_ (by assumption)) | (split)

theorem execMemoryClearDone_kept {k : Keep} {s : State} {a0} (h : s.Kept k) : OutKept k (execMemoryClearDone a0 s) := by
  unfold execMemoryClearDone
  try simp only [kept_mk, kept_mk_hif, kept_mk_mem, kept_mk_both]
  repeat' first
    | (with_reducible assumption) | (with_reducible intro _) | (with_reducible apply unlessStalled_kept)
    | (with_reducible apply passSpan_kept) | (with_reducible apply zeroRange_kept) | (with_reducible apply kept_ite)
    | (with_reducible apply kept_ite_fst) | (with_reducible apply out_next) | (with_reducible apply out_ite)
    | (with_reducible apply kept_foldl) | (with_reducible apply kept_foldl_fst)
    | (with_reducible refine kept_fst ?_ (by assumption)) | (split)
    | (simp only [kept_mk, kept_mk_hif, kept_mk_mem, kept_mk_both])

theorem execMemInfo_kept {k : Keep} {s : State} {a0} (h : s.Kept k) : OutKept k (execMemInfo a0 s) := by
  unfold execMemInfo
  try simp only [kept_mk, kept_mk_hif, kept_mk_mem, kept_mk_both]
  repeat' first
    | (with_reducible assumption) | (with_reducible intro _) | (with_reducible apply serve_kept) | (with_reducible apply kept_ite)
    | (with_reducible apply kept_ite_fst) | (with_reducible apply out_next) | (with_reducible apply out_ite)
    | (with_reducible apply kept_foldl) | (with_reducible apply kept_foldl_fst)
    | (with_reducible refine kept_fst ?_ (by assumption)) | (split)

theorem createColony_kept {k : Keep} {s : State} {a1} (h : s.Kept k) : (State.createColony s a1).Kept k := by
  unfold State.createColony
  try simp only [kept_mk, kept_mk_hif, kept_mk_mem, kept_mk_both]
  repeat' first
    | (with_reducible assumption) | (with_reducible intro _) | (with_reducible apply clearCredits_kept)
    | (with_reducible apply reserveCombs_kept) | (with_reducible apply setStep_kept) | (with_reducible apply setColony_kept)

theorem execColonyCreate_kept {k : Keep} {s : State} {a0} (h : s.Kept k) : OutKept k (execColonyCreate a0 s) := by
  unfold execColonyCreate
  try simp only [kept_mk, kept_mk_hif, kept_mk_mem, kept_mk_both]
  repeat' first
    | (with_reducible assumption) | (with_reducible intro _) | (with_reducible apply serve_kept)
    | (with_reducible apply createColony_kept) | (with_reducible apply setColony_kept) | (with_reducible apply kept_ite)
    | (with_reducible apply kept_ite_fst) | (with_reducible apply out_next)

theorem execColonyReservationComplete_kept {k : Keep} {s : State} {a0} (h : s.Kept k) :
    OutKept k (execColonyReservationComplete a0 s) := by
  unfold execColonyReservationComplete
  try simp only [kept_mk, kept_mk_hif, kept_mk_mem, kept_mk_both]
  repeat' first
    | (with_reducible assumption) | (with_reducible intro _) | (with_reducible apply setColony_kept)
    | (with_reducible apply commandDone_kept) | (with_reducible apply answer_kept) | (with_reducible apply acceptColony_kept)
    | (with_reducible apply kept_ite) | (with_reducible apply kept_ite_fst) | (with_reducible apply out_next)
    | (with_reducible apply out_ite) | (with_reducible apply kept_foldl) | (with_reducible apply kept_foldl_fst)
    | (with_reducible refine kept_fst ?_ (by assumption)) | (split)

theorem execColonyDestroy_kept {k : Keep} {s : State} {a0} (h : s.Kept k) : OutKept k (execColonyDestroy a0 s) := by
  unfold execColonyDestroy
  try simp only [kept_mk, kept_mk_hif, kept_mk_mem, kept_mk_both]
  repeat' first
    | (with_reducible assumption) | (with_reducible intro _) | (with_reducible apply fin_kept) | (with_reducible apply serve_kept)
    | (with_reducible apply setColony_kept) | (with_reducible apply modComb_kept) | (with_reducible apply showColony_kept)
    | (with_reducible apply commandDone_kept) | (with_reducible apply reject_kept) | (with_reducible apply kept_ite)
    | (with_reducible apply kept_ite_fst) | (with_reducible apply out_next) | (with_reducible apply out_ite)
    | (with_reducible apply kept_foldl) | (with_reducible apply kept_foldl_fst)
    | (with_reducible refine kept_fst ?_ (by assumption)) | (split)

theorem clearSlot_kept {k : Keep} {s : State} {a1 a2} (h : s.Kept k) : (State.clearSlot s a1 a2).Kept k := by
  unfold State.clearSlot
  try simp only [kept_mk, kept_mk_hif, kept_mk_mem, kept_mk_both]
  repeat' first
    | (with_reducible assumption) | (with_reducible intro _) | (with_reducible apply setReg_kept) | (with_reducible apply wr_kept)

theorem createQueue_kept {k : Keep} {s : State} {a1 a2} (h : s.Kept k) : (State.createQueue s a1 a2).Kept k := by
  unfold State.createQueue
  try simp only [kept_mk, kept_mk_hif, kept_mk_mem, kept_mk_both]
  repeat' first
    | (with_reducible assumption) | (with_reducible intro _) | (with_reducible apply clearSlot_kept)
    | (with_reducible apply setQueue_kept) | (with_reducible apply cvBind_kept) | (with_reducible apply kept_ite)

theorem execQueueCreate_kept {k : Keep} {s : State} {a0} (h : s.Kept k) : OutKept k (execQueueCreate a0 s) := by
  unfold execQueueCreate
  try simp only [kept_mk, kept_mk_hif, kept_mk_mem, kept_mk_both]
  repeat' first
    | (with_reducible assumption) | (with_reducible intro _) | (with_reducible apply serve_kept)
    | (with_reducible apply createQueue_kept) | (with_reducible apply kept_ite) | (with_reducible apply kept_ite_fst)
    | (with_reducible apply out_next)

theorem freeSlot_kept {k : Keep} {s : State} {a1} (h : s.Kept k) : (State.freeSlot s a1).Kept k := by
  unfold State.freeSlot
  try simp only [kept_mk, kept_mk_hif, kept_mk_mem, kept_mk_both]
  repeat' first
    | (with_reducible assumption) | (with_reducible intro _) | (with_reducible apply clearSlot_kept)
    | (with_reducible apply setQueue_kept) | (with_reducible apply cvUnbind_kept)

theorem execQueueDestroy_kept {k : Keep} {s : State} {a0} (h : s.Kept k) : OutKept k (execQueueDestroy a0 s) := by
  unfold execQueueDestroy
  try simp only [kept_mk, kept_mk_hif, kept_mk_mem, kept_mk_both]
  repeat' first
    | (with_reducible assumption) | (with_reducible intro _) | (with_reducible apply fin_kept) | (with_reducible apply serve_kept)
    | (with_reducible apply setQueue_kept) | (with_reducible apply retire_kept) | (with_reducible apply cutRecs_kept)
    | (with_reducible apply freeSlot_kept) | (with_reducible apply kept_ite) | (with_reducible apply kept_ite_fst)
    | (with_reducible apply out_next) | (with_reducible apply out_ite) | (with_reducible apply kept_foldl)
    | (with_reducible apply kept_foldl_fst) | (with_reducible refine kept_fst ?_ (by assumption)) | (split)

theorem execQueueDestroyDone_kept {k : Keep} {s : State} {a0} (h : s.Kept k) : OutKept k (execQueueDestroyDone a0 s) := by
  unfold execQueueDestroyDone
  try simp only [kept_mk, kept_mk_hif, kept_mk_mem, kept_mk_both]
  repeat' first
    | (with_reducible assumption) | (with_reducible intro _) | (with_reducible apply waitTo_kept)
    | (with_reducible apply acceptDestroy_kept) | (with_reducible apply freeSlot_kept) | (with_reducible apply fin_kept)
    | (with_reducible apply commandDone_kept) | (with_reducible apply answer_kept) | (with_reducible apply kept_ite)
    | (with_reducible apply kept_ite_fst) | (with_reducible apply out_next) | (with_reducible apply out_ite)
    | (with_reducible apply kept_foldl) | (with_reducible apply kept_foldl_fst)
    | (with_reducible refine kept_fst ?_ (by assumption)) | (split)
    | (simp only [kept_mk, kept_mk_hif, kept_mk_mem, kept_mk_both])

theorem funcReinit_kept {k : Keep} {s : State} {a1} (h : s.Kept k) : (State.funcReinit s a1).Kept k := by
  unfold State.funcReinit
  try simp only [kept_mk, kept_mk_hif, kept_mk_mem, kept_mk_both]
  repeat' first
    | (with_reducible assumption) | (with_reducible intro _) | (with_reducible apply endRestart_kept)
    | (with_reducible apply safeAll_kept) | (with_reducible apply reinitQueue_kept) | (with_reducible apply resetClass_kept)
    | (with_reducible apply voteClass_kept) | (with_reducible apply wr_kept) | (with_reducible apply refuseClass_kept)
    | (with_reducible apply setChecker_kept) | (with_reducible apply event_kept) | (with_reducible apply kept_ite)
    | (with_reducible apply kept_ite_fst) | (with_reducible apply out_next) | (with_reducible apply out_ite)
    | (with_reducible apply kept_foldl)

theorem execFuncReinit_kept {k : Keep} {s : State} {a0} (h : s.Kept k) : OutKept k (execFuncReinit a0 s) := by
  unfold execFuncReinit
  try simp only [kept_mk, kept_mk_hif, kept_mk_mem, kept_mk_both]
  repeat' first
    | (with_reducible assumption) | (with_reducible intro _) | (with_reducible apply unlessStalled_kept)
    | (with_reducible apply fin_kept) | (with_reducible apply serve_kept) | (with_reducible apply funcReinit_kept)
    | (with_reducible apply kept_ite) | (with_reducible apply kept_ite_fst) | (with_reducible apply out_next)
    | (with_reducible apply out_ite) | (with_reducible apply kept_foldl) | (with_reducible apply kept_foldl_fst)
    | (with_reducible refine kept_fst ?_ (by assumption)) | (split)
    | (simp only [kept_mk, kept_mk_hif, kept_mk_mem, kept_mk_both])

theorem setPolicy_kept {k : Keep} {s : State} {a1 a2} (h : s.Kept k) : (State.setPolicy s a1 a2).Kept k := by
  unfold State.setPolicy
  try simp only [kept_mk, kept_mk_hif, kept_mk_mem, kept_mk_both]
  repeat' first
    | (with_reducible assumption) | (with_reducible intro _) | (with_reducible apply modPwr_kept)
    | (with_reducible apply demandDie_kept) | (with_reducible apply kept_ite) | (with_reducible apply kept_ite_fst)
    | (with_reducible apply out_next) | (with_reducible apply out_ite) | (with_reducible apply kept_foldl)

theorem execPowerPolicy_kept {k : Keep} {s : State} {a0} (h : s.Kept k) : OutKept k (execPowerPolicy a0 s) := by
  unfold execPowerPolicy
  try simp only [kept_mk, kept_mk_hif, kept_mk_mem, kept_mk_both]
  repeat' first
    | (with_reducible assumption) | (with_reducible intro _) | (with_reducible apply serve_kept)
    | (with_reducible apply setPolicy_kept) | (with_reducible apply kept_ite) | (with_reducible apply kept_ite_fst)
    | (with_reducible apply out_next)

theorem execSafetyTestInjection_kept {k : Keep} {s : State} {a0} (h : s.Kept k) : OutKept k (execSafetyTestInjection a0 s) := by
  unfold execSafetyTestInjection
  try simp only [kept_mk, kept_mk_hif, kept_mk_mem, kept_mk_both]
  repeat' first
    | (with_reducible assumption) | (with_reducible intro _) | (with_reducible apply serve_kept) | (with_reducible apply wr_kept)
    | (with_reducible apply kept_ite) | (with_reducible apply kept_ite_fst) | (with_reducible apply out_next)
    | (with_reducible apply out_ite) | (with_reducible apply kept_foldl) | (with_reducible apply kept_foldl_fst)
    | (with_reducible refine kept_fst ?_ (by assumption)) | (split) | (simp only [kept_mk, kept_mk_hif, kept_mk_mem, kept_mk_both])

theorem execSafetyTestVote_kept {k : Keep} {s : State} {a0} (h : s.Kept k) : OutKept k (execSafetyTestVote a0 s) := by
  unfold execSafetyTestVote
  try simp only [kept_mk, kept_mk_hif, kept_mk_mem, kept_mk_both]
  repeat' first
    | (with_reducible assumption) | (with_reducible intro _) | (with_reducible apply serve_kept)
    | (with_reducible apply voteAll_kept) | (with_reducible apply fin_kept) | (with_reducible apply commandDone_kept)
    | (with_reducible apply refuseIslands_kept) | (with_reducible apply kept_ite) | (with_reducible apply kept_ite_fst)
    | (with_reducible apply out_next) | (with_reducible apply out_ite) | (with_reducible apply kept_foldl)
    | (with_reducible apply kept_foldl_fst) | (with_reducible refine kept_fst ?_ (by assumption)) | (split)
    | (simp only [kept_mk, kept_mk_hif, kept_mk_mem, kept_mk_both])

theorem execLedgerRead_kept {k : Keep} {s : State} {a0} (h : s.Kept k) : OutKept k (execLedgerRead a0 s) := by
  unfold execLedgerRead
  try simp only [kept_mk, kept_mk_hif, kept_mk_mem, kept_mk_both]
  repeat' first
    | (with_reducible assumption) | (with_reducible intro _) | (with_reducible apply serve_kept) | (with_reducible apply kept_ite)
    | (with_reducible apply kept_ite_fst) | (with_reducible apply out_next)

theorem execLogRead_kept {k : Keep} {s : State} {a0} (h : s.Kept k) : OutKept k (execLogRead a0 s) := by
  unfold execLogRead
  try simp only [kept_mk, kept_mk_hif, kept_mk_mem, kept_mk_both]
  repeat' first
    | (with_reducible assumption) | (with_reducible intro _) | (with_reducible apply serve_kept) | (with_reducible apply kept_ite)
    | (with_reducible apply kept_ite_fst) | (with_reducible apply out_next) | (with_reducible apply out_ite)
    | (with_reducible apply kept_foldl) | (with_reducible apply kept_foldl_fst)
    | (with_reducible refine kept_fst ?_ (by assumption)) | (split) | (simp only [kept_mk, kept_mk_hif, kept_mk_mem, kept_mk_both])

theorem execLogReadDone_kept {k : Keep} {s : State} {a0} (h : s.Kept k) : OutKept k (execLogReadDone a0 s) := by
  unfold execLogReadDone
  try simp only [kept_mk, kept_mk_hif, kept_mk_mem, kept_mk_both]
  repeat' first
    | (with_reducible assumption) | (with_reducible intro _) | (with_reducible apply unlessStalled_kept)
    | (with_reducible apply devStore_kept) | (with_reducible apply commandDone_kept) | (with_reducible apply kept_ite)
    | (with_reducible apply kept_ite_fst) | (with_reducible apply out_next) | (with_reducible apply out_ite)
    | (with_reducible apply kept_foldl) | (with_reducible apply kept_foldl_fst)
    | (with_reducible refine kept_fst ?_ (by assumption)) | (split)
    | (simp only [kept_mk, kept_mk_hif, kept_mk_mem, kept_mk_both])

theorem execFwSlotWrite_kept {k : Keep} {s : State} {a0 a1} (h : s.Kept k) : OutKept k (execFwSlotWrite a0 a1 s) := by
  unfold execFwSlotWrite
  try simp only [kept_mk, kept_mk_hif, kept_mk_mem, kept_mk_both]
  repeat' first
    | (with_reducible assumption) | (with_reducible intro _) | (with_reducible apply serve_kept)
    | (with_reducible apply modPkg_kept) | (with_reducible apply kept_ite) | (with_reducible apply kept_ite_fst)
    | (with_reducible apply out_next)

theorem internalError_kept {k : Keep} {s : State} {a1 a2} (h : s.Kept k) : (State.internalError s a1 a2).Kept k := by
  unfold State.internalError
  try simp only [kept_mk, kept_mk_hif, kept_mk_mem, kept_mk_both]
  repeat' first
    | (with_reducible assumption) | (with_reducible intro _) | (with_reducible apply event_kept) | (with_reducible apply draw_kept)

theorem execFwSlotWriteDone_kept {k : Keep} {s : State} {a0} (h : s.Kept k) : OutKept k (execFwSlotWriteDone a0 s) := by
  unfold execFwSlotWriteDone
  try simp only [kept_mk, kept_mk_hif, kept_mk_mem, kept_mk_both]
  repeat' first
    | (with_reducible assumption) | (with_reducible intro _) | (with_reducible apply modPkg_kept)
    | (with_reducible apply commandDone_kept) | (with_reducible apply internalError_kept) | (with_reducible apply kept_ite)
    | (with_reducible apply kept_ite_fst) | (with_reducible apply out_next) | (with_reducible apply out_ite)
    | (with_reducible apply kept_foldl) | (with_reducible apply kept_foldl_fst)
    | (with_reducible refine kept_fst ?_ (by assumption)) | (split)

theorem execFwRollbackAdvance_kept {k : Keep} {s : State} {a0} (h : s.Kept k) : OutKept k (execFwRollbackAdvance a0 s) := by
  unfold execFwRollbackAdvance
  try simp only [kept_mk, kept_mk_hif, kept_mk_mem, kept_mk_both]
  repeat' first
    | (with_reducible assumption) | (with_reducible intro _) | (with_reducible apply serve_kept)
    | (with_reducible apply modPkg_kept) | (with_reducible apply kept_ite) | (with_reducible apply kept_ite_fst)
    | (with_reducible apply out_next)

theorem execFwRollbackAdvanceDone_kept {k : Keep} {s : State} (h : s.Kept k) : OutKept k (execFwRollbackAdvanceDone s) := by
  unfold execFwRollbackAdvanceDone
  try simp only [kept_mk, kept_mk_hif, kept_mk_mem, kept_mk_both]
  repeat' first
    | (with_reducible assumption) | (with_reducible intro _) | (with_reducible apply modPkg_kept)
    | (with_reducible apply commandDone_kept) | (with_reducible apply kept_ite) | (with_reducible apply kept_ite_fst)
    | (with_reducible apply out_next) | (with_reducible apply out_ite) | (with_reducible apply kept_foldl)
    | (with_reducible apply kept_foldl_fst) | (with_reducible refine kept_fst ?_ (by assumption)) | (split)

end Sys2Proof.Laws
end

