-- ==== Sys2Proof/Laws/KeptQueueCmds.lean ====
section
/-! SUPPORT. What every operation of Machine/QueueCmds.lean keeps (`State.Kept`): one lemma for each. -/
set_option linter.unusedSimpArgs false
namespace Sys2Proof.Laws
open Sys2Proof Sys2Proof.Machine

theorem doorbell_kept {k : Keep} {s : State} {a1 a2} (h : s.Kept k) : (State.doorbell s a1 a2).Kept k := by
  unfold State.doorbell
  try simp only [kept_mk, kept_mk_hif, kept_mk_mem, kept_mk_both]
  repeat' first
    | (with_reducible assumption) | (with_reducible intro _) | (with_reducible apply wr_kept)
    | (with_reducible apply setQueue_kept) | (with_reducible apply kept_ite)

theorem execQueueDoorbell_kept {k : Keep} {s : State} {a0 a1} (h : s.Kept k) : OutKept k (execQueueDoorbell a0 a1 s) := by
  unfold execQueueDoorbell
  try simp only [kept_mk, kept_mk_hif, kept_mk_mem, kept_mk_both]
  repeat' first
    | (with_reducible assumption) | (with_reducible intro _) | (with_reducible apply doorbell_kept)
    | (with_reducible apply kept_ite) | (with_reducible apply kept_ite_fst) | (with_reducible apply out_next)

theorem resumeQueue_kept {k : Keep} {s : State} {a1} (h : s.Kept k) : (State.resumeQueue s a1).Kept k := by
  unfold State.resumeQueue
  try simp only [kept_mk, kept_mk_hif, kept_mk_mem, kept_mk_both]
  repeat' first
    | (with_reducible assumption) | (with_reducible intro _) | (with_reducible apply wr_kept) | (with_reducible apply kept_ite)

theorem flushQueue_kept {k : Keep} {s : State} {a1} (h : s.Kept k) : (State.flushQueue s a1).Kept k := by
  unfold State.flushQueue
  try simp only [kept_mk, kept_mk_hif, kept_mk_mem, kept_mk_both]
  repeat' first
    | (with_reducible assumption) | (with_reducible intro _) | (with_reducible apply retire_kept)
    | (with_reducible apply cutRecs_kept) | (with_reducible apply setQueue_kept) | (with_reducible apply kept_ite)

theorem execQueueResume_kept {k : Keep} {s : State} {a0} (h : s.Kept k) : OutKept k (execQueueResume a0 s) := by
  unfold execQueueResume
  try simp only [kept_mk, kept_mk_hif, kept_mk_mem, kept_mk_both]
  repeat' first
    | (with_reducible assumption) | (with_reducible intro _) | (with_reducible apply resumeQueue_kept)
    | (with_reducible apply kept_ite) | (with_reducible apply kept_ite_fst) | (with_reducible apply out_next)

theorem execQueueFlush_kept {k : Keep} {s : State} {a0} (h : s.Kept k) : OutKept k (execQueueFlush a0 s) := by
  unfold execQueueFlush
  try simp only [kept_mk, kept_mk_hif, kept_mk_mem, kept_mk_both]
  repeat' first
    | (with_reducible assumption) | (with_reducible intro _) | (with_reducible apply fin_kept)
    | (with_reducible apply flushQueue_kept)

theorem cqTail_kept {k : Keep} {s : State} {a1 a2} (h : s.Kept k) : (State.cqTail s a1 a2).Kept k := by
  unfold State.cqTail
  try simp only [kept_mk, kept_mk_hif, kept_mk_mem, kept_mk_both]
  repeat' first
    | (with_reducible assumption) | (with_reducible intro _) | (with_reducible apply wr_kept) | (with_reducible apply retire_kept)
    | (with_reducible apply kept_ite)

theorem execCqtailWrite_kept {k : Keep} {s : State} {a0 a1} (h : s.Kept k) : OutKept k (execCqtailWrite a0 a1 s) := by
  unfold execCqtailWrite
  try simp only [kept_mk, kept_mk_hif, kept_mk_mem, kept_mk_both]
  repeat' first
    | (with_reducible assumption) | (with_reducible intro _) | (with_reducible apply fin_kept) | (with_reducible apply cqTail_kept)

theorem readRing_kept {k : Keep} {s : State} {a1} (h : s.Kept k) : (State.readRing s a1).Kept k := by
  unfold State.readRing
  try simp only [kept_mk, kept_mk_hif, kept_mk_mem, kept_mk_both]
  repeat' first
    | (with_reducible assumption) | (with_reducible intro _) | (with_reducible apply devLoad_kept)
    | (with_reducible apply kept_ite) | (with_reducible apply kept_ite_fst) | (with_reducible apply out_next)
    | (with_reducible apply out_ite) | (with_reducible apply kept_foldl) | (with_reducible apply kept_foldl_fst)
    | (with_reducible refine kept_fst ?_ (by assumption)) | (split)
    | (simp only [kept_mk, kept_mk_hif, kept_mk_mem, kept_mk_both])

theorem execRecordStart_kept {k : Keep} {s : State} {a0} (h : s.Kept k) : OutKept k (execRecordStart a0 s) := by
  unfold execRecordStart
  try simp only [kept_mk, kept_mk_hif, kept_mk_mem, kept_mk_both]
  repeat' first
    | (with_reducible assumption) | (with_reducible intro _) | (with_reducible apply unlessStalled_kept)
    | (with_reducible apply fin_kept) | (with_reducible apply readRing_kept) | (with_reducible apply fetchRecord_kept)
    | (with_reducible apply wr_kept) | (with_reducible apply kept_ite) | (with_reducible apply kept_ite_fst)
    | (with_reducible apply out_next) | (with_reducible apply out_ite) | (with_reducible apply kept_foldl)
    | (with_reducible apply kept_foldl_fst) | (with_reducible refine kept_fst ?_ (by assumption)) | (split)
    | (simp only [kept_mk, kept_mk_hif, kept_mk_mem, kept_mk_both])

theorem execNop_kept {k : Keep} {s : State} {a0} (h : s.Kept k) : OutKept k (execNop a0 s) := by
  unfold execNop
  try simp only [kept_mk, kept_mk_hif, kept_mk_mem, kept_mk_both]
  repeat' first
    | (with_reducible assumption) | (with_reducible intro _) | (with_reducible apply fin_kept) | (with_reducible apply runOp_kept)
    | (with_reducible apply completeRec_kept)

theorem putFence_kept {k : Keep} {s : State} {a1 a2 a3} (h : s.Kept k) : (State.putFence s a1 a2 a3).Kept k := by
  unfold State.putFence
  try simp only [kept_mk, kept_mk_hif, kept_mk_mem, kept_mk_both]
  repeat' first
    | (with_reducible assumption) | (with_reducible intro _) | (with_reducible apply devStore_kept)
    | (with_reducible apply faultRec_kept) | (with_reducible apply completeRec_kept) | (with_reducible apply kept_ite)

theorem execSignal_kept {k : Keep} {s : State} {a0} (h : s.Kept k) : OutKept k (execSignal a0 s) := by
  unfold execSignal
  try simp only [kept_mk, kept_mk_hif, kept_mk_mem, kept_mk_both]
  repeat' first
    | (with_reducible assumption) | (with_reducible intro _) | (with_reducible apply unlessStalled_kept)
    | (with_reducible apply fin_kept) | (with_reducible apply runOp_kept) | (with_reducible apply findSpan_kept)
    | (with_reducible apply passRequest_kept) | (with_reducible apply violation_kept) | (with_reducible apply faultRec_kept)
    | (with_reducible apply memStore_kept) | (with_reducible apply completeRec_kept) | (with_reducible apply kept_ite)
    | (with_reducible apply kept_ite_fst) | (with_reducible apply out_next) | (with_reducible apply out_ite)
    | (with_reducible apply kept_foldl) | (with_reducible apply kept_foldl_fst)
    | (with_reducible refine kept_fst ?_ (by assumption)) | (split)
    | (simp only [kept_mk, kept_mk_hif, kept_mk_mem, kept_mk_both])

theorem execWait_kept {k : Keep} {s : State} {a0} (h : s.Kept k) : OutKept k (execWait a0 s) := by
  unfold execWait
  try simp only [kept_mk, kept_mk_hif, kept_mk_mem, kept_mk_both]
  repeat' first
    | (with_reducible assumption) | (with_reducible intro _) | (with_reducible apply unlessStalled_kept)
    | (with_reducible apply fin_kept) | (with_reducible apply runOp_kept) | (with_reducible apply devLoad_kept)
    | (with_reducible apply faultRec_kept) | (with_reducible apply completeRec_kept) | (with_reducible apply wr_kept)
    | (with_reducible apply kept_ite) | (with_reducible apply kept_ite_fst) | (with_reducible apply out_next)
    | (with_reducible apply out_ite) | (with_reducible apply kept_foldl) | (with_reducible apply kept_foldl_fst)
    | (with_reducible refine kept_fst ?_ (by assumption)) | (split)
    | (simp only [kept_mk, kept_mk_hif, kept_mk_mem, kept_mk_both])

theorem execWaitRelease_kept {k : Keep} {s : State} {a0} (h : s.Kept k) : OutKept k (execWaitRelease a0 s) := by
  unfold execWaitRelease
  try simp only [kept_mk, kept_mk_hif, kept_mk_mem, kept_mk_both]
  repeat' first
    | (with_reducible assumption) | (with_reducible intro _) | (with_reducible apply fin_kept)
    | (with_reducible apply completeRec_kept) | (with_reducible apply kept_ite) | (with_reducible apply kept_ite_fst)
    | (with_reducible apply out_next) | (with_reducible apply out_ite) | (with_reducible apply kept_foldl)
    | (with_reducible apply kept_foldl_fst) | (with_reducible refine kept_fst ?_ (by assumption)) | (split)

theorem execWaitTimeout_kept {k : Keep} {s : State} {a0} (h : s.Kept k) : OutKept k (execWaitTimeout a0 s) := by
  unfold execWaitTimeout
  try simp only [kept_mk, kept_mk_hif, kept_mk_mem, kept_mk_both]
  repeat' first
    | (with_reducible assumption) | (with_reducible intro _) | (with_reducible apply fin_kept)
    | (with_reducible apply faultRec_kept) | (with_reducible apply waitTo_kept) | (with_reducible apply kept_ite)
    | (with_reducible apply kept_ite_fst) | (with_reducible apply out_next) | (with_reducible apply out_ite)
    | (with_reducible apply kept_foldl) | (with_reducible apply kept_foldl_fst)
    | (with_reducible refine kept_fst ?_ (by assumption)) | (split)

theorem execTimestamp_kept {k : Keep} {s : State} {a0} (h : s.Kept k) : OutKept k (execTimestamp a0 s) := by
  unfold execTimestamp
  try simp only [kept_mk, kept_mk_hif, kept_mk_mem, kept_mk_both]
  repeat' first
    | (with_reducible assumption) | (with_reducible intro _) | (with_reducible apply unlessStalled_kept)
    | (with_reducible apply fin_kept) | (with_reducible apply runOp_kept) | (with_reducible apply putFence_kept)
    | (with_reducible apply kept_ite) | (with_reducible apply kept_ite_fst) | (with_reducible apply out_next)
    | (with_reducible apply out_ite) | (with_reducible apply kept_foldl) | (with_reducible apply kept_foldl_fst)
    | (with_reducible refine kept_fst ?_ (by assumption)) | (split)
    | (simp only [kept_mk, kept_mk_hif, kept_mk_mem, kept_mk_both])

end Sys2Proof.Laws
end

