-- ==== Sys2Proof/Laws/KeptSwarm.lean ====
section
/-! SUPPORT. What every operation of Machine/Swarm.lean keeps (`State.Kept`): one lemma for each. -/
set_option linter.unusedSimpArgs false
namespace Sys2Proof.Laws
open Sys2Proof Sys2Proof.Machine

theorem modSwm_kept {k : Keep} {s : State} {a1} (h : s.Kept k) : (State.modSwm s a1).Kept k := by
  unfold State.modSwm
  try simp only [kept_mk, kept_mk_hif, kept_mk_mem, kept_mk_both]
  repeat' first
    | (with_reducible assumption)

theorem modPort_kept {k : Keep} {s : State} {a1 a2} (h : s.Kept k) : (State.modPort s a1 a2).Kept k := by
  unfold State.modPort
  try simp only [kept_mk, kept_mk_hif, kept_mk_mem, kept_mk_both]
  repeat' first
    | (with_reducible assumption) | (with_reducible intro _) | (with_reducible apply modSwm_kept)

theorem setSwState_kept {k : Keep} {s : State} {a1 a2} (h : s.Kept k) : (State.setSwState s a1 a2).Kept k := by
  unfold State.setSwState
  try simp only [kept_mk, kept_mk_hif, kept_mk_mem, kept_mk_both]
  repeat' first
    | (with_reducible assumption) | (with_reducible intro _) | (with_reducible apply event_kept) | (with_reducible apply wr_kept)
    | (with_reducible apply kept_ite)

theorem swPut_kept {k : Keep} {s : State} {a1 a2 a3 a4 a5 a6} (h : s.Kept k) : (State.swPut s a1 a2 a3 a4 a5 a6).Kept k := by
  unfold State.swPut
  try simp only [kept_mk, kept_mk_hif, kept_mk_mem, kept_mk_both]
  repeat' first
    | (with_reducible assumption) | (with_reducible intro _) | (with_reducible apply modPort_kept)
    | (with_reducible apply modSwm_kept) | (with_reducible apply kept_ite) | (with_reducible apply kept_ite_fst)
    | (with_reducible apply out_next) | (with_reducible apply out_ite) | (with_reducible apply kept_foldl)
    | (with_reducible apply kept_foldl_fst) | (with_reducible refine kept_fst ?_ (by assumption)) | (split)
    | (simp only [kept_mk, kept_mk_hif, kept_mk_mem, kept_mk_both])

theorem swSend_kept {k : Keep} {s : State} {a1 a2 a3 a4 a5 a6} (h : s.Kept k) : (State.swSend s a1 a2 a3 a4 a5 a6).Kept k := by
  unfold State.swSend
  try simp only [kept_mk, kept_mk_hif, kept_mk_mem, kept_mk_both]
  repeat' first
    | (with_reducible assumption) | (with_reducible intro _) | (with_reducible apply swPut_kept)
    | (with_reducible apply modPort_kept) | (with_reducible apply kept_ite) | (with_reducible apply kept_ite_fst)
    | (with_reducible apply out_next) | (with_reducible apply out_ite) | (with_reducible apply kept_foldl)
    | (with_reducible apply kept_foldl_fst) | (with_reducible refine kept_fst ?_ (by assumption)) | (split)
    | (simp only [kept_mk, kept_mk_hif, kept_mk_mem, kept_mk_both])

theorem swAckTo_kept {k : Keep} {s : State} {a1 a2} (h : s.Kept k) : (State.swAckTo s a1 a2).Kept k := by
  unfold State.swAckTo
  try simp only [kept_mk, kept_mk_hif, kept_mk_mem, kept_mk_both]
  repeat' first
    | (with_reducible assumption) | (with_reducible intro _) | (with_reducible apply swPut_kept)
    | (with_reducible apply modPort_kept) | (with_reducible apply kept_ite) | (with_reducible apply kept_ite_fst)
    | (with_reducible apply out_next) | (with_reducible apply out_ite) | (with_reducible apply kept_foldl)
    | (with_reducible apply kept_foldl_fst) | (with_reducible refine kept_fst ?_ (by assumption)) | (split)
    | (simp only [kept_mk, kept_mk_hif, kept_mk_mem, kept_mk_both])

theorem swAck_kept {k : Keep} {s : State} {a1} (h : s.Kept k) : (State.swAck s a1).Kept k := by
  unfold State.swAck
  try simp only [kept_mk, kept_mk_hif, kept_mk_mem, kept_mk_both]
  repeat' first
    | (with_reducible assumption) | (with_reducible intro _) | (with_reducible apply modSwm_kept)

theorem swTake_kept {k : Keep} {s : State} {a1 a2} (h : s.Kept k) : (State.swTake s a1 a2).1.Kept k := by
  unfold State.swTake
  try simp only [kept_mk, kept_mk_hif, kept_mk_mem, kept_mk_both]
  repeat' first
    | (with_reducible assumption) | (with_reducible intro _) | (with_reducible apply modPort_kept)
    | (with_reducible apply swAckTo_kept) | (with_reducible apply swAck_kept) | (with_reducible apply kept_ite)
    | (with_reducible apply kept_ite_fst) | (with_reducible apply out_next) | (with_reducible apply out_ite)
    | (with_reducible apply kept_foldl) | (with_reducible apply kept_foldl_fst)
    | (with_reducible refine kept_fst ?_ (by assumption)) | (split)
    | (simp only [kept_mk, kept_mk_hif, kept_mk_mem, kept_mk_both])

theorem swReplay_kept {k : Keep} {s : State} {a1 a2} (h : s.Kept k) : (State.swReplay s a1 a2).Kept k := by
  unfold State.swReplay
  try simp only [kept_mk, kept_mk_hif, kept_mk_mem, kept_mk_both]
  repeat' first
    | (with_reducible assumption) | (with_reducible intro _) | (with_reducible apply modSwm_kept)

theorem swFault_kept {k : Keep} {s : State} {a1 a2} (h : s.Kept k) : (State.swFault s a1 a2).Kept k := by
  unfold State.swFault
  try simp only [kept_mk, kept_mk_hif, kept_mk_mem, kept_mk_both]
  repeat' first
    | (with_reducible assumption) | (with_reducible intro _) | (with_reducible apply faultRec_kept)
    | (with_reducible apply modSwm_kept)

theorem swRoutes_kept {k : Keep} {s : State} (h : s.Kept k) : (State.swRoutes s).Kept k := by
  unfold State.swRoutes
  try simp only [kept_mk, kept_mk_hif, kept_mk_mem, kept_mk_both]
  repeat' first
    | (with_reducible assumption) | (with_reducible intro _) | (with_reducible apply modSwm_kept) | (with_reducible apply wr_kept)
    | (with_reducible apply swFault_kept) | (with_reducible apply kept_ite) | (with_reducible apply kept_ite_fst)
    | (with_reducible apply out_next) | (with_reducible apply out_ite) | (with_reducible apply kept_foldl)

theorem swBroadcast_kept {k : Keep} {s : State} {a1 a2} (h : s.Kept k) : (State.swBroadcast s a1 a2).Kept k := by
  unfold State.swBroadcast
  try simp only [kept_mk, kept_mk_hif, kept_mk_mem, kept_mk_both]
  repeat' first
    | (with_reducible assumption) | (with_reducible intro _) | (with_reducible apply swSend_kept) | (with_reducible apply kept_ite)
    | (with_reducible apply kept_ite_fst) | (with_reducible apply out_next) | (with_reducible apply out_ite)
    | (with_reducible apply kept_foldl)

theorem advertise_kept {k : Keep} {s : State} (h : s.Kept k) : (State.advertise s).Kept k := by
  unfold State.advertise
  try simp only [kept_mk, kept_mk_hif, kept_mk_mem, kept_mk_both]
  repeat' first
    | (with_reducible assumption) | (with_reducible intro _) | (with_reducible apply modSwm_kept)
    | (with_reducible apply swBroadcast_kept)

theorem swChanged_kept {k : Keep} {s : State} (h : s.Kept k) : (State.swChanged s).Kept k := by
  unfold State.swChanged
  try simp only [kept_mk, kept_mk_hif, kept_mk_mem, kept_mk_both]
  repeat' first
    | (with_reducible assumption) | (with_reducible intro _) | (with_reducible apply advertise_kept)
    | (with_reducible apply swRoutes_kept)

theorem swDown_kept {k : Keep} {s : State} {a1} (h : s.Kept k) : (State.swDown s a1).Kept k := by
  unfold State.swDown
  try simp only [kept_mk, kept_mk_hif, kept_mk_mem, kept_mk_both]
  repeat' first
    | (with_reducible assumption) | (with_reducible intro _) | (with_reducible apply modPort_kept)
    | (with_reducible apply setSwState_kept) | (with_reducible apply swChanged_kept) | (with_reducible apply kept_ite)

theorem takeAdvert_kept {k : Keep} {s : State} {a1 a2} (h : s.Kept k) : (State.takeAdvert s a1 a2).Kept k := by
  unfold State.takeAdvert
  try simp only [kept_mk, kept_mk_hif, kept_mk_mem, kept_mk_both]
  repeat' first
    | (with_reducible assumption) | (with_reducible intro _) | (with_reducible apply modSwm_kept)
    | (with_reducible apply swRoutes_kept) | (with_reducible apply swBroadcast_kept) | (with_reducible apply kept_ite)

theorem swWag_kept {k : Keep} {s : State} {a1 a2 a3 a4} (h : s.Kept k) : (State.swWag s a1 a2 a3 a4).Kept k := by
  unfold State.swWag
  try simp only [kept_mk, kept_mk_hif, kept_mk_mem, kept_mk_both]
  repeat' first
    | (with_reducible assumption) | (with_reducible intro _) | (with_reducible apply modPort_kept)
    | (with_reducible apply swSend_kept) | (with_reducible apply kept_ite)

theorem swRepeat_kept {k : Keep} {s : State} {a1} (h : s.Kept k) : (State.swRepeat s a1).Kept k := by
  unfold State.swRepeat
  try simp only [kept_mk, kept_mk_hif, kept_mk_mem, kept_mk_both]
  repeat' first
    | (with_reducible assumption) | (with_reducible intro _) | (with_reducible apply modPort_kept)
    | (with_reducible apply swSend_kept) | (with_reducible apply kept_ite) | (with_reducible apply kept_ite_fst)
    | (with_reducible apply out_next) | (with_reducible apply out_ite) | (with_reducible apply kept_foldl)
    | (with_reducible apply kept_foldl_fst) | (with_reducible refine kept_fst ?_ (by assumption)) | (split)
    | (simp only [kept_mk, kept_mk_hif, kept_mk_mem, kept_mk_both])

theorem swAgain_kept {k : Keep} {s : State} {a1 a2} (h : s.Kept k) (ha2 : ∀ x, x.Kept k → (a2 x).Kept k) :
    (State.swAgain s a1 a2).Kept k := by
  unfold State.swAgain
  repeat' first
    | (with_reducible assumption) | (with_reducible apply ha2) | (with_reducible apply swDown_kept)
    | (with_reducible apply modPort_kept) | (with_reducible apply kept_ite)

theorem swNak_kept {k : Keep} {s : State} {a1 a2} (h : s.Kept k) : (State.swNak s a1 a2).Kept k := by
  unfold State.swNak
  try simp only [kept_mk, kept_mk_hif, kept_mk_mem, kept_mk_both]
  repeat' first
    | (with_reducible assumption) | (with_reducible intro _) | (with_reducible apply swAgain_kept)
    | (with_reducible apply swRepeat_kept) | (with_reducible apply kept_ite) | (with_reducible apply kept_ite_fst)
    | (with_reducible apply out_next) | (with_reducible apply out_ite) | (with_reducible apply kept_foldl)
    | (with_reducible apply kept_foldl_fst) | (with_reducible refine kept_fst ?_ (by assumption)) | (split)
    | (simp only [kept_mk, kept_mk_hif, kept_mk_mem, kept_mk_both])

theorem swTimeout_kept {k : Keep} {s : State} {a1} (h : s.Kept k) : (State.swTimeout s a1).Kept k := by
  unfold State.swTimeout
  try simp only [kept_mk, kept_mk_hif, kept_mk_mem, kept_mk_both]
  repeat' first
    | (with_reducible assumption) | (with_reducible intro _) | (with_reducible apply waitTo_kept)
    | (with_reducible apply swAgain_kept) | (with_reducible apply swRepeat_kept) | (with_reducible apply kept_ite)
    | (with_reducible apply kept_ite_fst) | (with_reducible apply out_next) | (with_reducible apply out_ite)
    | (with_reducible apply kept_foldl) | (with_reducible apply kept_foldl_fst)
    | (with_reducible refine kept_fst ?_ (by assumption)) | (split)
    | (simp only [kept_mk, kept_mk_hif, kept_mk_mem, kept_mk_both])

theorem swReject_kept {k : Keep} {s : State} {a1 a2} (h : s.Kept k) : (State.swReject s a1 a2).Kept k := by
  unfold State.swReject
  try simp only [kept_mk, kept_mk_hif, kept_mk_mem, kept_mk_both]
  repeat' first
    | (with_reducible assumption) | (with_reducible intro _) | (with_reducible apply setSwState_kept)
    | (with_reducible apply wr_kept)

theorem swHello_kept {k : Keep} {s : State} {a1 a2} (h : s.Kept k) : (State.swHello s a1 a2).Kept k := by
  unfold State.swHello
  try simp only [kept_mk, kept_mk_hif, kept_mk_mem, kept_mk_both]
  repeat' first
    | (with_reducible assumption) | (with_reducible intro _) | (with_reducible apply swRepeat_kept)
    | (with_reducible apply swWag_kept) | (with_reducible apply swReject_kept) | (with_reducible apply modPort_kept)
    | (with_reducible apply kept_ite) | (with_reducible apply kept_ite_fst) | (with_reducible apply out_next)
    | (with_reducible apply out_ite) | (with_reducible apply kept_foldl) | (with_reducible apply kept_foldl_fst)
    | (with_reducible refine kept_fst ?_ (by assumption)) | (split)
    | (simp only [kept_mk, kept_mk_hif, kept_mk_mem, kept_mk_both])

theorem swDone_kept {k : Keep} {s : State} {a1 a2} (h : s.Kept k) : (State.swDone s a1 a2).Kept k := by
  unfold State.swDone
  try simp only [kept_mk, kept_mk_hif, kept_mk_mem, kept_mk_both]
  repeat' first
    | (with_reducible assumption) | (with_reducible intro _) | (with_reducible apply swWag_kept)
    | (with_reducible apply swChanged_kept) | (with_reducible apply setSwState_kept) | (with_reducible apply wr_kept)
    | (with_reducible apply kept_ite) | (with_reducible apply kept_ite_fst) | (with_reducible apply out_next)
    | (with_reducible apply out_ite) | (with_reducible apply kept_foldl) | (with_reducible apply kept_foldl_fst)
    | (with_reducible refine kept_fst ?_ (by assumption)) | (split)

theorem swRespond_kept {k : Keep} {s : State} {a1 a2 a3} (h : s.Kept k) : (State.swRespond s a1 a2 a3).Kept k := by
  unfold State.swRespond
  try simp only [kept_mk, kept_mk_hif, kept_mk_mem, kept_mk_both]
  repeat' first
    | (with_reducible assumption) | (with_reducible intro _) | (with_reducible apply swSend_kept) | (with_reducible apply kept_ite)
    | (with_reducible apply kept_ite_fst) | (with_reducible apply out_next) | (with_reducible apply out_ite)
    | (with_reducible apply kept_foldl) | (with_reducible apply kept_foldl_fst)
    | (with_reducible refine kept_fst ?_ (by assumption)) | (split)

theorem swApply_kept {k : Keep} {s : State} {a1} (h : s.Kept k) : (State.swApply s a1).1.Kept k := by
  unfold State.swApply
  try simp only [kept_mk, kept_mk_hif, kept_mk_mem, kept_mk_both]
  repeat' first
    | (with_reducible assumption) | (with_reducible intro _) | (with_reducible apply inc_kept)
    | (with_reducible apply violation_kept) | (with_reducible apply devStore_kept) | (with_reducible apply devLoad_kept)
    | (with_reducible apply kept_ite) | (with_reducible apply kept_ite_fst)

theorem swForward_kept {k : Keep} {s : State} {a1} (h : s.Kept k) : (State.swForward s a1).Kept k := by
  unfold State.swForward
  try simp only [kept_mk, kept_mk_hif, kept_mk_mem, kept_mk_both]
  repeat' first
    | (with_reducible assumption) | (with_reducible intro _) | (with_reducible apply inc_kept) | (with_reducible apply swSend_kept)
    | (with_reducible apply transferWords_kept) | (with_reducible apply kept_ite) | (with_reducible apply kept_ite_fst)
    | (with_reducible apply out_next) | (with_reducible apply out_ite) | (with_reducible apply kept_foldl)
    | (with_reducible apply kept_foldl_fst) | (with_reducible refine kept_fst ?_ (by assumption)) | (split)

theorem swTakeRequest_kept {k : Keep} {s : State} {a1} (h : s.Kept k) : (State.swTakeRequest s a1).Kept k := by
  unfold State.swTakeRequest
  try simp only [kept_mk, kept_mk_hif, kept_mk_mem, kept_mk_both]
  repeat' first
    | (with_reducible assumption) | (with_reducible intro _) | (with_reducible apply swForward_kept)
    | (with_reducible apply swApply_kept) | (with_reducible apply swRespond_kept) | (with_reducible apply kept_ite)
    | (with_reducible apply kept_ite_fst)

theorem swTakeResponse_kept {k : Keep} {s : State} {a1} (h : s.Kept k) : (State.swTakeResponse s a1).Kept k := by
  unfold State.swTakeResponse
  try simp only [kept_mk, kept_mk_hif, kept_mk_mem, kept_mk_both]
  repeat' first
    | (with_reducible assumption) | (with_reducible intro _) | (with_reducible apply swForward_kept)
    | (with_reducible apply swFault_kept) | (with_reducible apply completeRec_kept) | (with_reducible apply modSwm_kept)
    | (with_reducible apply kept_ite) | (with_reducible apply kept_ite_fst) | (with_reducible apply out_next)
    | (with_reducible apply out_ite) | (with_reducible apply kept_foldl) | (with_reducible apply kept_foldl_fst)
    | (with_reducible refine kept_fst ?_ (by assumption)) | (split)

end Sys2Proof.Laws
end

