-- ==== Sys2Proof/Laws/KeptSwarmCmds.lean ====
section
/-! SUPPORT. What every operation of Machine/SwarmCmds.lean keeps (`State.Kept`): one lemma for each. -/
set_option linter.unusedSimpArgs false
namespace Sys2Proof.Laws
open Sys2Proof Sys2Proof.Machine

theorem swEnable_kept {k : Keep} {s : State} {a1} (h : s.Kept k) : (State.swEnable s a1).Kept k := by
  unfold State.swEnable
  try simp only [kept_mk, kept_mk_hif, kept_mk_mem, kept_mk_both]
  repeat' first
    | (with_reducible assumption) | (with_reducible intro _) | (with_reducible apply setSwState_kept)
    | (with_reducible apply modPort_kept) | (with_reducible apply wr_kept) | (with_reducible apply kept_ite)

theorem swDisable_kept {k : Keep} {s : State} {a1} (h : s.Kept k) : (State.swDisable s a1).Kept k := by
  unfold State.swDisable
  try simp only [kept_mk, kept_mk_hif, kept_mk_mem, kept_mk_both]
  repeat' first
    | (with_reducible assumption) | (with_reducible intro _) | (with_reducible apply swDown_kept) | (with_reducible apply wr_kept)
    | (with_reducible apply kept_ite)

theorem execSwarmPortEnable_kept {k : Keep} {s : State} {a0} (h : s.Kept k) : OutKept k (execSwarmPortEnable a0 s) := by
  unfold execSwarmPortEnable
  try simp only [kept_mk, kept_mk_hif, kept_mk_mem, kept_mk_both]
  repeat' first
    | (with_reducible assumption) | (with_reducible intro _) | (with_reducible apply swEnable_kept)
    | (with_reducible apply kept_ite) | (with_reducible apply kept_ite_fst) | (with_reducible apply out_next)
    | (with_reducible apply out_ite)

theorem execSwarmPortDisable_kept {k : Keep} {s : State} {a0} (h : s.Kept k) : OutKept k (execSwarmPortDisable a0 s) := by
  unfold execSwarmPortDisable
  try simp only [kept_mk, kept_mk_hif, kept_mk_mem, kept_mk_both]
  repeat' first
    | (with_reducible assumption) | (with_reducible intro _) | (with_reducible apply fin_kept)
    | (with_reducible apply swDisable_kept) | (with_reducible apply kept_ite) | (with_reducible apply kept_ite_fst)
    | (with_reducible apply out_next) | (with_reducible apply out_ite)

theorem writeSwId_kept {k : Keep} {s : State} {a1 a2} (h : s.Kept k) : (State.writeSwId s a1 a2).Kept k := by
  unfold State.writeSwId
  try simp only [kept_mk, kept_mk_hif, kept_mk_mem, kept_mk_both]
  repeat' first
    | (with_reducible assumption) | (with_reducible intro _) | (with_reducible apply wr_kept) | (with_reducible apply kept_ite)

theorem execSwarmIdWrite_kept {k : Keep} {s : State} {a0 a1} (h : s.Kept k) : OutKept k (execSwarmIdWrite a0 a1 s) := by
  unfold execSwarmIdWrite
  try simp only [kept_mk, kept_mk_hif, kept_mk_mem, kept_mk_both]
  repeat' first
    | (with_reducible assumption) | (with_reducible intro _) | (with_reducible apply writeSwId_kept)
    | (with_reducible apply kept_ite) | (with_reducible apply kept_ite_fst) | (with_reducible apply out_next)

theorem execSwarmTrainingDone_kept {k : Keep} {s : State} {a0 a1} (h : s.Kept k) : OutKept k (execSwarmTrainingDone a0 a1 s) := by
  unfold execSwarmTrainingDone
  try simp only [kept_mk, kept_mk_hif, kept_mk_mem, kept_mk_both]
  repeat' first
    | (with_reducible assumption) | (with_reducible intro _) | (with_reducible apply modPort_kept)
    | (with_reducible apply setSwState_kept) | (with_reducible apply wrB_kept) | (with_reducible apply swWag_kept)
    | (with_reducible apply kept_ite) | (with_reducible apply kept_ite_fst) | (with_reducible apply out_next)
    | (with_reducible apply out_ite)

theorem swControl_kept {k : Keep} {s : State} {a1 a2 a3 a4} (h : s.Kept k) (ha4 : ∀ x0, x0.Kept k → (a4 x0).Kept k) :
    (State.swControl s a1 a2 a3 a4).Kept k := by
  unfold State.swControl
  try simp only [kept_mk, kept_mk_hif, kept_mk_mem, kept_mk_both]
  repeat' first
    | (with_reducible assumption) | (with_reducible intro _) | (with_reducible apply ha4) | (with_reducible apply swTake_kept)
    | (with_reducible apply kept_ite)

theorem swMessage_kept {k : Keep} {s : State} {a1 a2 a3 a4} (h : s.Kept k) (ha4 : ∀ x0 x1, x0.Kept k → (a4 x0 x1).Kept k) :
    (State.swMessage s a1 a2 a3 a4).Kept k := by
  unfold State.swMessage
  try simp only [kept_mk, kept_mk_hif, kept_mk_mem, kept_mk_both]
  repeat' first
    | (with_reducible assumption) | (with_reducible intro _) | (with_reducible apply ha4) | (with_reducible apply swControl_kept)
    | (with_reducible apply swAgain_kept)
    | (with_reducible apply swWag_kept) | (with_reducible apply swNak_kept) | (with_reducible apply kept_ite)

theorem execSwarmHello_kept {k : Keep} {s : State} {a0 a1} (h : s.Kept k) : OutKept k (execSwarmHello a0 a1 s) := by
  unfold execSwarmHello
  try simp only [kept_mk, kept_mk_hif, kept_mk_mem, kept_mk_both]
  repeat' first
    | (with_reducible assumption) | (with_reducible intro _) | (with_reducible apply swMessage_kept)
    | (with_reducible apply swHello_kept) | (with_reducible apply kept_ite) | (with_reducible apply kept_ite_fst)
    | (with_reducible apply out_next)

theorem execSwarmDone_kept {k : Keep} {s : State} {a0 a1} (h : s.Kept k) : OutKept k (execSwarmDone a0 a1 s) := by
  unfold execSwarmDone
  try simp only [kept_mk, kept_mk_hif, kept_mk_mem, kept_mk_both]
  repeat' first
    | (with_reducible assumption) | (with_reducible intro _) | (with_reducible apply fin_kept)
    | (with_reducible apply swMessage_kept) | (with_reducible apply swDone_kept)

theorem execSwarmReject_kept {k : Keep} {s : State} {a0 a1} (h : s.Kept k) : OutKept k (execSwarmReject a0 a1 s) := by
  unfold execSwarmReject
  try simp only [kept_mk, kept_mk_hif, kept_mk_mem, kept_mk_both]
  repeat' first
    | (with_reducible assumption) | (with_reducible intro _) | (with_reducible apply swMessage_kept)
    | (with_reducible apply swReject_kept) | (with_reducible apply kept_ite) | (with_reducible apply kept_ite_fst)
    | (with_reducible apply out_next)

theorem execSwarmAdvertisement_kept {k : Keep} {s : State} {a0 a1} (h : s.Kept k) : OutKept k (execSwarmAdvertisement a0 a1 s) := by
  unfold execSwarmAdvertisement
  try simp only [kept_mk, kept_mk_hif, kept_mk_mem, kept_mk_both]
  repeat' first
    | (with_reducible assumption) | (with_reducible intro _) | (with_reducible apply fin_kept)
    | (with_reducible apply swControl_kept) | (with_reducible apply takeAdvert_kept) | (with_reducible apply kept_ite)

theorem execSwarmAdvertiseTimer_kept {k : Keep} {s : State} (h : s.Kept k) : OutKept k (execSwarmAdvertiseTimer s) := by
  unfold execSwarmAdvertiseTimer
  try simp only [kept_mk, kept_mk_hif, kept_mk_mem, kept_mk_both]
  repeat' first
    | (with_reducible assumption) | (with_reducible intro _) | (with_reducible apply advertise_kept)
    | (with_reducible apply kept_ite) | (with_reducible apply kept_ite_fst) | (with_reducible apply out_next)
    | (with_reducible apply out_ite)

theorem execSwarmRequestFlit_kept {k : Keep} {s : State} {a0 a1} (h : s.Kept k) : OutKept k (execSwarmRequestFlit a0 a1 s) := by
  unfold execSwarmRequestFlit
  try simp only [kept_mk, kept_mk_hif, kept_mk_mem, kept_mk_both]
  repeat' first
    | (with_reducible assumption) | (with_reducible intro _) | (with_reducible apply unlessStalled_kept)
    | (with_reducible apply fin_kept) | (with_reducible apply swControl_kept) | (with_reducible apply transferWords_kept)
    | (with_reducible apply swTakeRequest_kept) | (with_reducible apply kept_ite) | (with_reducible apply kept_ite_fst)
    | (with_reducible apply out_next) | (with_reducible apply out_ite) | (with_reducible apply kept_foldl)
    | (with_reducible apply kept_foldl_fst) | (with_reducible refine kept_fst ?_ (by assumption)) | (split)
    | (simp only [kept_mk, kept_mk_hif, kept_mk_mem, kept_mk_both])

theorem execSwarmResponseFlit_kept {k : Keep} {s : State} {a0 a1} (h : s.Kept k) : OutKept k (execSwarmResponseFlit a0 a1 s) := by
  unfold execSwarmResponseFlit
  try simp only [kept_mk, kept_mk_hif, kept_mk_mem, kept_mk_both]
  repeat' first
    | (with_reducible assumption) | (with_reducible intro _) | (with_reducible apply fin_kept)
    | (with_reducible apply swControl_kept) | (with_reducible apply swTakeResponse_kept) | (with_reducible apply kept_ite)

theorem swAcked_kept {k : Keep} {s : State} {a1 a2} (h : s.Kept k) : (State.swAcked s a1 a2).Kept k := by
  unfold State.swAcked
  try simp only [kept_mk, kept_mk_hif, kept_mk_mem, kept_mk_both]
  repeat' first
    | (with_reducible assumption) | (with_reducible intro _) | (with_reducible apply modPort_kept)
    | (with_reducible apply inc_kept) | (with_reducible apply swReplay_kept) | (with_reducible apply kept_ite)

theorem execSwarmAckFlit_kept {k : Keep} {s : State} {a0 a1} (h : s.Kept k) : OutKept k (execSwarmAckFlit a0 a1 s) := by
  unfold execSwarmAckFlit
  try simp only [kept_mk, kept_mk_hif, kept_mk_mem, kept_mk_both]
  repeat' first
    | (with_reducible assumption) | (with_reducible intro _) | (with_reducible apply swTake_kept)
    | (with_reducible apply modPort_kept) | (with_reducible apply swAcked_kept) | (with_reducible apply swAckTo_kept)
    | (with_reducible apply kept_ite) | (with_reducible apply kept_ite_fst) | (with_reducible apply out_next)
    | (with_reducible apply out_ite) | (with_reducible apply kept_foldl) | (with_reducible apply kept_foldl_fst)
    | (with_reducible refine kept_fst ?_ (by assumption)) | (split)
    | (simp only [kept_mk, kept_mk_hif, kept_mk_mem, kept_mk_both])

theorem execSwarmRetrainDone_kept {k : Keep} {s : State} {a0} (h : s.Kept k) : OutKept k (execSwarmRetrainDone a0 s) := by
  unfold execSwarmRetrainDone
  try simp only [kept_mk, kept_mk_hif, kept_mk_mem, kept_mk_both]
  repeat' first
    | (with_reducible assumption) | (with_reducible intro _) | (with_reducible apply modPort_kept)
    | (with_reducible apply swReplay_kept) | (with_reducible apply kept_ite) | (with_reducible apply kept_ite_fst)
    | (with_reducible apply out_next) | (with_reducible apply out_ite) | (with_reducible apply kept_foldl)
    | (with_reducible apply kept_foldl_fst) | (with_reducible refine kept_fst ?_ (by assumption)) | (split)

theorem execSwarmRetrainTimeout_kept {k : Keep} {s : State} {a0} (h : s.Kept k) : OutKept k (execSwarmRetrainTimeout a0 s) := by
  unfold execSwarmRetrainTimeout
  try simp only [kept_mk, kept_mk_hif, kept_mk_mem, kept_mk_both]
  repeat' first
    | (with_reducible assumption) | (with_reducible intro _) | (with_reducible apply fin_kept) | (with_reducible apply swDown_kept)
    | (with_reducible apply waitTo_kept) | (with_reducible apply kept_ite) | (with_reducible apply kept_ite_fst)
    | (with_reducible apply out_next) | (with_reducible apply out_ite)

theorem execSwarmSilence_kept {k : Keep} {s : State} {a0} (h : s.Kept k) : OutKept k (execSwarmSilence a0 s) := by
  unfold execSwarmSilence
  try simp only [kept_mk, kept_mk_hif, kept_mk_mem, kept_mk_both]
  repeat' first
    | (with_reducible assumption) | (with_reducible intro _) | (with_reducible apply fin_kept) | (with_reducible apply swDown_kept)
    | (with_reducible apply waitTo_kept) | (with_reducible apply kept_ite) | (with_reducible apply kept_ite_fst)
    | (with_reducible apply out_next) | (with_reducible apply out_ite)

theorem swIssue_kept {k : Keep} {s : State} {a1 a2 a3} (h : s.Kept k) : (State.swIssue s a1 a2 a3).Kept k := by
  unfold State.swIssue
  try simp only [kept_mk, kept_mk_hif, kept_mk_mem, kept_mk_both]
  repeat' first
    | (with_reducible assumption) | (with_reducible intro _) | (with_reducible apply faultRec_kept)
    | (with_reducible apply modSwm_kept) | (with_reducible apply swSend_kept) | (with_reducible apply transferWords_kept)
    | (with_reducible apply kept_ite) | (with_reducible apply kept_ite_fst) | (with_reducible apply out_next)
    | (with_reducible apply out_ite) | (with_reducible apply kept_foldl) | (with_reducible apply kept_foldl_fst)
    | (with_reducible refine kept_fst ?_ (by assumption)) | (split)

theorem execSwarmCopy_kept {k : Keep} {s : State} {a0} (h : s.Kept k) : OutKept k (execSwarmCopy a0 s) := by
  unfold execSwarmCopy
  try simp only [kept_mk, kept_mk_hif, kept_mk_mem, kept_mk_both]
  repeat' first
    | (with_reducible assumption) | (with_reducible intro _) | (with_reducible apply unlessStalled_kept)
    | (with_reducible apply fin_kept) | (with_reducible apply runOp_kept) | (with_reducible apply objLoad_kept)
    | (with_reducible apply faultRec_kept) | (with_reducible apply swIssue_kept) | (with_reducible apply kept_ite)
    | (with_reducible apply kept_ite_fst) | (with_reducible apply out_next) | (with_reducible apply out_ite)
    | (with_reducible apply kept_foldl) | (with_reducible apply kept_foldl_fst)
    | (with_reducible refine kept_fst ?_ (by assumption)) | (split)
    | (simp only [kept_mk, kept_mk_hif, kept_mk_mem, kept_mk_both])

theorem execSwarmSignal_kept {k : Keep} {s : State} {a0} (h : s.Kept k) : OutKept k (execSwarmSignal a0 s) := by
  unfold execSwarmSignal
  try simp only [kept_mk, kept_mk_hif, kept_mk_mem, kept_mk_both]
  repeat' first
    | (with_reducible assumption) | (with_reducible intro _) | (with_reducible apply fin_kept) | (with_reducible apply runOp_kept)
    | (with_reducible apply swIssue_kept)

theorem writeExport_kept {k : Keep} {s : State} {a1 a2} (h : s.Kept k) : (State.writeExport s a1 a2).Kept k := by
  unfold State.writeExport
  try simp only [kept_mk, kept_mk_hif, kept_mk_mem, kept_mk_both]
  repeat' first
    | (with_reducible assumption) | (with_reducible intro _) | (with_reducible apply wr_kept) | (with_reducible apply kept_ite)

theorem execSwarmExportEnable_kept {k : Keep} {s : State} {a0} (h : s.Kept k) : OutKept k (execSwarmExportEnable a0 s) := by
  unfold execSwarmExportEnable
  try simp only [kept_mk, kept_mk_hif, kept_mk_mem, kept_mk_both]
  repeat' first
    | (with_reducible assumption) | (with_reducible intro _) | (with_reducible apply writeExport_kept)
    | (with_reducible apply kept_ite) | (with_reducible apply kept_ite_fst) | (with_reducible apply out_next)

end Sys2Proof.Laws
end

