-- ==== Sys2Proof/Laws/KeptPackageCmds.lean ====
section
/-! SUPPORT. What every operation of Machine/PackageCmds.lean keeps (`State.Kept`): one lemma for each. -/
set_option linter.unusedSimpArgs false
namespace Sys2Proof.Laws
open Sys2Proof Sys2Proof.Machine

theorem execPowerOn_kept {k : Keep} {s : State} {a0 a1} (h : s.Kept k) : OutKept k (execPowerOn a0 a1 s) := by
  unfold execPowerOn
  try simp only [kept_mk, kept_mk_hif, kept_mk_mem, kept_mk_both]
  repeat' first
    | (with_reducible assumption) | (with_reducible intro _) | (with_reducible apply modPkg_kept)
    | (with_reducible apply deviceReset_kept) | (with_reducible apply fin_kept) | (with_reducible apply powerIslandB_kept)
    | (with_reducible apply kept_ite) | (with_reducible apply kept_ite_fst) | (with_reducible apply out_next)
    | (with_reducible apply out_ite) | (with_reducible apply kept_foldl) | (with_reducible apply kept_foldl_fst)
    | (with_reducible refine kept_fst ?_ (by assumption)) | (split)

theorem execPerst_kept {k : Keep} {s : State} {a0} (h : s.Kept k) : OutKept k (execPerst a0 s) := by
  unfold execPerst
  try simp only [kept_mk, kept_mk_hif, kept_mk_mem, kept_mk_both]
  repeat' first
    | (with_reducible assumption) | (with_reducible intro _) | (with_reducible apply fin_kept)
    | (with_reducible apply deviceReset_kept) | (with_reducible apply modPkg_kept) | (with_reducible apply kept_ite)
    | (with_reducible apply kept_ite_fst) | (with_reducible apply out_next) | (with_reducible apply out_ite)

theorem enumerate_kept {k : Keep} {s : State} (h : s.Kept k) : (State.enumerate s).Kept k := by
  unfold State.enumerate
  try simp only [kept_mk, kept_mk_hif, kept_mk_mem, kept_mk_both]
  repeat' first
    | (with_reducible assumption)

theorem pcieTrained_kept {k : Keep} {s : State} {a1 a2} (h : s.Kept k) : (State.pcieTrained s a1 a2).Kept k := by
  unfold State.pcieTrained
  try simp only [kept_mk, kept_mk_hif, kept_mk_mem, kept_mk_both]
  repeat' first
    | (with_reducible assumption) | (with_reducible intro _) | (with_reducible apply enumerate_kept)
    | (with_reducible apply wrB_kept) | (with_reducible apply modPkg_kept)

theorem linkReset_kept {k : Keep} {s : State} {a1 a2} (h : s.Kept k) : (State.linkReset s a1 a2).Kept k := by
  unfold State.linkReset
  try simp only [kept_mk, kept_mk_hif, kept_mk_mem, kept_mk_both]
  repeat' first
    | (with_reducible assumption) | (with_reducible intro _) | (with_reducible apply deviceReset_kept)
    | (with_reducible apply pcieTrained_kept) | (with_reducible apply kept_ite)

theorem execHotReset_kept {k : Keep} {s : State} {a0} (h : s.Kept k) : OutKept k (execHotReset a0 s) := by
  unfold execHotReset
  try simp only [kept_mk, kept_mk_hif, kept_mk_mem, kept_mk_both]
  repeat' first
    | (with_reducible assumption) | (with_reducible intro _) | (with_reducible apply fin_kept)
    | (with_reducible apply linkReset_kept) | (with_reducible apply kept_ite) | (with_reducible apply kept_ite_fst)
    | (with_reducible apply out_next) | (with_reducible apply out_ite)

theorem execFunctionLevelReset_kept {k : Keep} {s : State} {a0} (h : s.Kept k) : OutKept k (execFunctionLevelReset a0 s) := by
  unfold execFunctionLevelReset
  try simp only [kept_mk, kept_mk_hif, kept_mk_mem, kept_mk_both]
  repeat' first
    | (with_reducible assumption) | (with_reducible intro _) | (with_reducible apply fin_kept)
    | (with_reducible apply linkReset_kept) | (with_reducible apply kept_ite) | (with_reducible apply kept_ite_fst)
    | (with_reducible apply out_next) | (with_reducible apply out_ite)

theorem execIslandBPowerOn_kept {k : Keep} {s : State} {a0} (h : s.Kept k) : OutKept k (execIslandBPowerOn a0 s) := by
  unfold execIslandBPowerOn
  try simp only [kept_mk, kept_mk_hif, kept_mk_mem, kept_mk_both]
  repeat' first
    | (with_reducible assumption) | (with_reducible intro _) | (with_reducible apply loseIslandB_kept)
    | (with_reducible apply fin_kept) | (with_reducible apply powerIslandB_kept) | (with_reducible apply kept_ite)

theorem execSysPwrokLoss_kept {k : Keep} {s : State} (h : s.Kept k) : OutKept k (execSysPwrokLoss s) := by
  unfold execSysPwrokLoss
  try simp only [kept_mk, kept_mk_hif, kept_mk_mem, kept_mk_both]
  repeat' first
    | (with_reducible assumption) | (with_reducible intro _) | (with_reducible apply afterReset_kept)
    | (with_reducible apply stopB_kept) | (with_reducible apply fin_kept) | (with_reducible apply modPkg_kept)
    | (with_reducible apply draw_kept)

theorem execPerstDeassert_kept {k : Keep} {s : State} {a0 a1} (h : s.Kept k) : OutKept k (execPerstDeassert a0 a1 s) := by
  unfold execPerstDeassert
  try simp only [kept_mk, kept_mk_hif, kept_mk_mem, kept_mk_both]
  repeat' first
    | (with_reducible assumption) | (with_reducible intro _) | (with_reducible apply pcieTrained_kept)
    | (with_reducible apply kept_ite) | (with_reducible apply kept_ite_fst) | (with_reducible apply out_next)
    | (with_reducible apply out_ite)

theorem execVddSfdLoss_kept {k : Keep} {s : State} (h : s.Kept k) : OutKept k (execVddSfdLoss s) := by
  unfold execVddSfdLoss
  try simp only [kept_mk, kept_mk_hif, kept_mk_mem, kept_mk_both]
  repeat' first
    | (with_reducible assumption) | (with_reducible intro _) | (with_reducible apply holdAge_kept)
    | (with_reducible apply modPkg_kept) | (with_reducible apply kept_ite) | (with_reducible apply kept_ite_fst)
    | (with_reducible apply out_next) | (with_reducible apply out_ite) | (with_reducible apply kept_foldl)
    | (with_reducible apply kept_foldl_fst) | (with_reducible refine kept_fst ?_ (by assumption)) | (split)
    | (simp only [kept_mk, kept_mk_hif, kept_mk_mem, kept_mk_both])

theorem execFirmwareVerified_kept {k : Keep} {s : State} (h : s.Kept k) : OutKept k (execFirmwareVerified s) := by
  unfold execFirmwareVerified
  try simp only [kept_mk, kept_mk_hif, kept_mk_mem, kept_mk_both]
  repeat' first
    | (with_reducible assumption) | (with_reducible intro _) | (with_reducible apply haltBoot_kept)
    | (with_reducible apply modPkg_kept) | (with_reducible apply wr_kept) | (with_reducible apply joinStart_kept)
    | (with_reducible apply startWaggle_kept) | (with_reducible apply kept_ite) | (with_reducible apply kept_ite_fst)
    | (with_reducible apply out_next) | (with_reducible apply out_ite) | (with_reducible apply kept_foldl)
    | (with_reducible apply kept_foldl_fst) | (with_reducible refine kept_fst ?_ (by assumption)) | (split)

theorem bootEvents_kept {k : Keep} {s : State} (h : s.Kept k) : (State.bootEvents s).Kept k := by
  unfold State.bootEvents
  try simp only [kept_mk, kept_mk_hif, kept_mk_mem, kept_mk_both]
  repeat' first
    | (with_reducible assumption) | (with_reducible intro _) | (with_reducible apply event_kept) | (with_reducible apply kept_ite)
    | (with_reducible apply kept_ite_fst) | (with_reducible apply out_next) | (with_reducible apply out_ite)
    | (with_reducible apply kept_foldl)

theorem layMemory_kept {k : Keep} {s : State} {a1} (h : s.Kept k) : (State.layMemory s a1).Kept k := by
  unfold State.layMemory
  try simp only [kept_mk, kept_mk_hif, kept_mk_mem, kept_mk_both]
  repeat' first
    | (with_reducible assumption) | (with_reducible intro _) | (with_reducible apply wr_kept) | (with_reducible apply wrB_kept)
    | (with_reducible apply grantPartner_kept) | (with_reducible apply kept_ite) | (with_reducible apply kept_ite_fst)
    | (with_reducible apply out_next) | (with_reducible apply out_ite) | (with_reducible apply kept_foldl)
    | (with_reducible apply kept_foldl_fst) | (with_reducible refine kept_fst ?_ (by assumption)) | (split)
    | (simp only [kept_mk, kept_mk_hif, kept_mk_mem, kept_mk_both])

/-- What memory objects can use changes nothing that `Kept` speaks of. -/
theorem setUnits_kept {k : Keep} {s : State} {u w : Nat} (h : s.Kept k) :
    ({ s with mem := { s.mem with dramUnits := u, winMax := w } } : State).Kept k :=
  kept_of h rfl rfl rfl rfl rfl rfl rfl rfl rfl

theorem planMemory_kept {k : Keep} {s : State} {a1} (h : s.Kept k) : (State.planMemory s a1).Kept k := by
  unfold State.planMemory
  exact setUnits_kept (layMemory_kept h)

theorem execMailboxReady_kept {k : Keep} {s : State} {a0} (h : s.Kept k) : OutKept k (execMailboxReady a0 s) := by
  unfold execMailboxReady
  refine out_ite (out_next h) ?_
  extract_lets s1 pwm _ s2
  have h1 : s1.Kept k := planMemory_kept (wr_kept (wr_kept (wr_kept (wr_kept h))))
  have h2 : s2.Kept k := kept_of h1 rfl rfl rfl rfl rfl rfl rfl rfl rfl
  exact fin_kept (bootWait_kept (bootEvents_kept (startPorts_kept h2)))

theorem trainLanes_kept {k : Keep} {s : State} {a1 a2} (h : s.Kept k) : (State.trainLanes s a1 a2).Kept k := by
  unfold State.trainLanes
  try simp only [kept_mk, kept_mk_hif, kept_mk_mem, kept_mk_both]
  repeat' first
    | (with_reducible assumption) | (with_reducible intro _) | (with_reducible apply wr_kept)

theorem trainingFails_kept {k : Keep} {s : State} {a1 a2} (h : s.Kept k) : (State.trainingFails s a1 a2).Kept k := by
  unfold State.trainingFails
  try simp only [kept_mk, kept_mk_hif, kept_mk_mem, kept_mk_both]
  repeat' first
    | (with_reducible assumption) | (with_reducible intro _) | (with_reducible apply wr_kept)
    | (with_reducible apply markExcluded_kept) | (with_reducible apply logDram_kept) | (with_reducible apply layMemory_kept)
    | (with_reducible apply kept_ite) | (with_reducible apply kept_ite_fst) | (with_reducible apply out_next)
    | (with_reducible apply out_ite) | (with_reducible apply kept_foldl) | (with_reducible apply kept_foldl_fst)
    | (with_reducible refine kept_fst ?_ (by assumption)) | (split)
    | (simp only [kept_mk, kept_mk_hif, kept_mk_mem, kept_mk_both])

theorem zeroDie_kept {k : Keep} {s : State} {a1} (h : s.Kept k) : (s.zeroDie a1).Kept k :=
  ⟨fun e => ⟨(h.1 e).1, (twf_filter _ (h.1 e).2.1).1, (h.1 e).2.2⟩, h.2⟩

theorem pairTrained_kept {k : Keep} {s : State} {a1 a2} (h : s.Kept k) : (State.pairTrained s a1 a2).Kept k := by
  unfold State.pairTrained
  try simp only [kept_mk, kept_mk_hif, kept_mk_mem, kept_mk_both]
  repeat' first
    | (with_reducible assumption) | (with_reducible intro _) | (with_reducible apply modPkg_kept) | (with_reducible apply wr_kept)
    | (with_reducible apply trainLanes_kept) | (with_reducible apply zeroDie_kept)

theorem execMemoryTrainingDone_kept {k : Keep} {s : State} {a0 a1 a2} (h : s.Kept k) :
    OutKept k (execMemoryTrainingDone a0 a1 a2 s) := by
  unfold execMemoryTrainingDone
  try simp only [kept_mk, kept_mk_hif, kept_mk_mem, kept_mk_both]
  repeat' first
    | (with_reducible assumption) | (with_reducible intro _) | (with_reducible apply fin_kept)
    | (with_reducible apply bootWait_kept) | (with_reducible apply warmTrainEnds_kept) | (with_reducible apply trainingFails_kept)
    | (with_reducible apply pairTrained_kept) | (with_reducible apply kept_ite) | (with_reducible apply kept_ite_fst)
    | (with_reducible apply out_next) | (with_reducible apply out_ite) | (with_reducible apply kept_foldl)
    | (with_reducible apply kept_foldl_fst) | (with_reducible refine kept_fst ?_ (by assumption)) | (split)

theorem execShortRetrainDone_kept {k : Keep} {s : State} {a0 a1 a2} (h : s.Kept k) : OutKept k (execShortRetrainDone a0 a1 a2 s) := by
  unfold execShortRetrainDone
  try simp only [kept_mk, kept_mk_hif, kept_mk_mem, kept_mk_both]
  repeat' first
    | (with_reducible assumption) | (with_reducible intro _) | (with_reducible apply modPkg_kept) | (with_reducible apply wr_kept)
    | (with_reducible apply pairTrained_kept) | (with_reducible apply fin_kept) | (with_reducible apply bootWait_kept)
    | (with_reducible apply warmTrainEnds_kept) | (with_reducible apply kept_ite) | (with_reducible apply kept_ite_fst)
    | (with_reducible apply out_next) | (with_reducible apply out_ite)

theorem execCombRelease_kept {k : Keep} {s : State} (h : s.Kept k) : OutKept k (execCombRelease s) := by
  unfold execCombRelease
  try simp only [kept_mk, kept_mk_hif, kept_mk_mem, kept_mk_both]
  repeat' first
    | (with_reducible assumption) | (with_reducible intro _) | (with_reducible apply wr_kept)
    | (with_reducible apply partWindow_kept) | (with_reducible apply useSched_kept) | (with_reducible apply kept_ite)
    | (with_reducible apply kept_ite_fst) | (with_reducible apply out_next) | (with_reducible apply out_ite)
    | (with_reducible apply kept_foldl) | (with_reducible apply kept_foldl_fst)
    | (with_reducible refine kept_fst ?_ (by assumption)) | (split)
    | (simp only [kept_mk, kept_mk_hif, kept_mk_mem, kept_mk_both])

theorem execIslandBReady_kept {k : Keep} {s : State} (h : s.Kept k) : OutKept k (execIslandBReady s) := by
  unfold execIslandBReady
  try simp only [kept_mk, kept_mk_hif, kept_mk_mem, kept_mk_both]
  repeat' first
    | (with_reducible assumption) | (with_reducible intro _) | (with_reducible apply modJoin_kept)
    | (with_reducible apply modPkg_kept) | (with_reducible apply kept_ite) | (with_reducible apply kept_ite_fst)
    | (with_reducible apply out_next) | (with_reducible apply out_ite) | (with_reducible apply kept_foldl)
    | (with_reducible apply kept_foldl_fst) | (with_reducible refine kept_fst ?_ (by assumption)) | (split)

theorem execWaggleHello_kept {k : Keep} {s : State} {a0 a1 a2 a3} (h : s.Kept k) : OutKept k (execWaggleHello a0 a1 a2 a3 s) := by
  unfold execWaggleHello
  try simp only [kept_mk, kept_mk_hif, kept_mk_mem, kept_mk_both]
  repeat' first
    | (with_reducible assumption) | (with_reducible intro _) | (with_reducible apply wagHello_kept)
    | (with_reducible apply kept_ite) | (with_reducible apply kept_ite_fst) | (with_reducible apply out_next)

theorem execWaggleIdent_kept {k : Keep} {s : State} {a0 a1 a2} (h : s.Kept k) : OutKept k (execWaggleIdent a0 a1 a2 s) := by
  unfold execWaggleIdent
  try simp only [kept_mk, kept_mk_hif, kept_mk_mem, kept_mk_both]
  repeat' first
    | (with_reducible assumption) | (with_reducible intro _) | (with_reducible apply wagIdent_kept)
    | (with_reducible apply kept_ite) | (with_reducible apply kept_ite_fst) | (with_reducible apply out_next)

theorem execWaggleOffer_kept {k : Keep} {s : State} {a0 a1} (h : s.Kept k) : OutKept k (execWaggleOffer a0 a1 s) := by
  unfold execWaggleOffer
  try simp only [kept_mk, kept_mk_hif, kept_mk_mem, kept_mk_both]
  repeat' first
    | (with_reducible assumption) | (with_reducible intro _) | (with_reducible apply wagOffer_kept)
    | (with_reducible apply kept_ite) | (with_reducible apply kept_ite_fst) | (with_reducible apply out_next)

theorem execWaggleSelect_kept {k : Keep} {s : State} {a0 a1} (h : s.Kept k) : OutKept k (execWaggleSelect a0 a1 s) := by
  unfold execWaggleSelect
  try simp only [kept_mk, kept_mk_hif, kept_mk_mem, kept_mk_both]
  repeat' first
    | (with_reducible assumption) | (with_reducible intro _) | (with_reducible apply wagSelect_kept)
    | (with_reducible apply kept_ite) | (with_reducible apply kept_ite_fst) | (with_reducible apply out_next)

theorem execWaggleConfirm_kept {k : Keep} {s : State} {a0 a1} (h : s.Kept k) : OutKept k (execWaggleConfirm a0 a1 s) := by
  unfold execWaggleConfirm
  try simp only [kept_mk, kept_mk_hif, kept_mk_mem, kept_mk_both]
  repeat' first
    | (with_reducible assumption) | (with_reducible intro _) | (with_reducible apply wagConfirm_kept)
    | (with_reducible apply kept_ite) | (with_reducible apply kept_ite_fst) | (with_reducible apply out_next)

theorem execMainbandTrainingDone_kept {k : Keep} {s : State} {a0 a1 a2} (h : s.Kept k) :
    OutKept k (execMainbandTrainingDone a0 a1 a2 s) := by
  unfold execMainbandTrainingDone
  try simp only [kept_mk, kept_mk_hif, kept_mk_mem, kept_mk_both]
  repeat' first
    | (with_reducible assumption) | (with_reducible intro _) | (with_reducible apply wagTrainingDone_kept)
    | (with_reducible apply kept_ite) | (with_reducible apply kept_ite_fst) | (with_reducible apply out_next)

theorem execWaggleTrained_kept {k : Keep} {s : State} {a0 a1} (h : s.Kept k) : OutKept k (execWaggleTrained a0 a1 s) := by
  unfold execWaggleTrained
  try simp only [kept_mk, kept_mk_hif, kept_mk_mem, kept_mk_both]
  repeat' first
    | (with_reducible assumption) | (with_reducible intro _) | (with_reducible apply wagTrained_kept)
    | (with_reducible apply kept_ite) | (with_reducible apply kept_ite_fst) | (with_reducible apply out_next)

theorem execWaggleDone_kept {k : Keep} {s : State} {a0 a1 a2} (h : s.Kept k) : OutKept k (execWaggleDone a0 a1 a2 s) := by
  unfold execWaggleDone
  try simp only [kept_mk, kept_mk_hif, kept_mk_mem, kept_mk_both]
  repeat' first
    | (with_reducible assumption) | (with_reducible intro _) | (with_reducible apply wagDone_kept)
    | (with_reducible apply kept_ite) | (with_reducible apply kept_ite_fst) | (with_reducible apply out_next)

theorem execWaggleReject_kept {k : Keep} {s : State} {a0 a1} (h : s.Kept k) : OutKept k (execWaggleReject a0 a1 s) := by
  unfold execWaggleReject
  try simp only [kept_mk, kept_mk_hif, kept_mk_mem, kept_mk_both]
  repeat' first
    | (with_reducible assumption) | (with_reducible intro _) | (with_reducible apply wagReject_kept)
    | (with_reducible apply kept_ite) | (with_reducible apply kept_ite_fst) | (with_reducible apply out_next)

theorem execWaggleNak_kept {k : Keep} {s : State} {a0 a1 a2} (h : s.Kept k) : OutKept k (execWaggleNak a0 a1 a2 s) := by
  unfold execWaggleNak
  try simp only [kept_mk, kept_mk_hif, kept_mk_mem, kept_mk_both]
  repeat' first
    | (with_reducible assumption) | (with_reducible intro _) | (with_reducible apply wagNak_kept) | (with_reducible apply kept_ite)
    | (with_reducible apply kept_ite_fst) | (with_reducible apply out_next)

theorem execWaggleReplyTimeout_kept {k : Keep} {s : State} {a0} (h : s.Kept k) : OutKept k (execWaggleReplyTimeout a0 s) := by
  unfold execWaggleReplyTimeout
  try simp only [kept_mk, kept_mk_hif, kept_mk_mem, kept_mk_both]
  repeat' first
    | (with_reducible assumption) | (with_reducible intro _) | (with_reducible apply swTimeout_kept)
    | (with_reducible apply waitTo_kept) | (with_reducible apply wagRetry_kept) | (with_reducible apply kept_ite)
    | (with_reducible apply kept_ite_fst) | (with_reducible apply out_next) | (with_reducible apply out_ite)
    | (with_reducible apply kept_foldl) | (with_reducible apply kept_foldl_fst)
    | (with_reducible refine kept_fst ?_ (by assumption)) | (split)
    | (simp only [kept_mk, kept_mk_hif, kept_mk_mem, kept_mk_both])

theorem execWaggleDoneTimeout_kept {k : Keep} {s : State} {a0} (h : s.Kept k) : OutKept k (execWaggleDoneTimeout a0 s) := by
  unfold execWaggleDoneTimeout
  try simp only [kept_mk, kept_mk_hif, kept_mk_mem, kept_mk_both]
  repeat' first
    | (with_reducible assumption) | (with_reducible intro _) | (with_reducible apply wagFail_kept)
    | (with_reducible apply waitTo_kept) | (with_reducible apply kept_ite) | (with_reducible apply kept_ite_fst)
    | (with_reducible apply out_next) | (with_reducible apply out_ite)

theorem execRingLinkTimeout_kept {k : Keep} {s : State} {a0} (h : s.Kept k) : OutKept k (execRingLinkTimeout a0 s) := by
  unfold execRingLinkTimeout
  try simp only [kept_mk, kept_mk_hif, kept_mk_mem, kept_mk_both]
  repeat' first
    | (with_reducible assumption) | (with_reducible intro _) | (with_reducible apply wagFail_kept)
    | (with_reducible apply waitTo_kept) | (with_reducible apply kept_ite) | (with_reducible apply kept_ite_fst)
    | (with_reducible apply out_next) | (with_reducible apply out_ite)

theorem execLinkUncorrectableError_kept {k : Keep} {s : State} {a0} (h : s.Kept k) :
    OutKept k (execLinkUncorrectableError a0 s) := by
  unfold execLinkUncorrectableError
  try simp only [kept_mk, kept_mk_hif, kept_mk_mem, kept_mk_both]
  repeat' first
    | (with_reducible assumption) | (with_reducible intro _) | (with_reducible apply modPkg_kept) | (with_reducible apply kept_ite)
    | (with_reducible apply kept_ite_fst) | (with_reducible apply out_next) | (with_reducible apply out_ite)

theorem retrainEnds_kept {k : Keep} {s : State} {a1} (h : s.Kept k) : (State.retrainEnds s a1).Kept k := by
  unfold State.retrainEnds
  try simp only [kept_mk, kept_mk_hif, kept_mk_mem, kept_mk_both]
  repeat' first
    | (with_reducible assumption) | (with_reducible intro _) | (with_reducible apply modPkg_kept)

theorem execLinkRetrainDone_kept {k : Keep} {s : State} {a0} (h : s.Kept k) : OutKept k (execLinkRetrainDone a0 s) := by
  unfold execLinkRetrainDone
  try simp only [kept_mk, kept_mk_hif, kept_mk_mem, kept_mk_both]
  repeat' first
    | (with_reducible assumption) | (with_reducible intro _) | (with_reducible apply retrainEnds_kept)
    | (with_reducible apply failLink_kept) | (with_reducible apply replayHost_kept) | (with_reducible apply wr_kept)
    | (with_reducible apply inc_kept) | (with_reducible apply linkEvent_kept) | (with_reducible apply resumeLink_kept)
    | (with_reducible apply kept_ite) | (with_reducible apply kept_ite_fst) | (with_reducible apply out_next)
    | (with_reducible apply out_ite) | (with_reducible apply kept_foldl) | (with_reducible apply kept_foldl_fst)
    | (with_reducible refine kept_fst ?_ (by assumption)) | (split)
    | (simp only [kept_mk, kept_mk_hif, kept_mk_mem, kept_mk_both])

theorem execLinkRetrainTimeout_kept {k : Keep} {s : State} {a0 a1} (h : s.Kept k) :
    OutKept k (execLinkRetrainTimeout a0 a1 s) := by
  unfold execLinkRetrainTimeout
  try simp only [kept_mk, kept_mk_hif, kept_mk_mem, kept_mk_both]
  repeat' first
    | (with_reducible assumption) | (with_reducible intro _) | (with_reducible apply retrainEnds_kept)
    | (with_reducible apply failLink_kept) | (with_reducible apply replayHost_kept) | (with_reducible apply waitTo_kept)
    | (with_reducible apply wr_kept) | (with_reducible apply linkEvent_kept) | (with_reducible apply resumeLink_kept)
    | (with_reducible apply fin_kept) | (with_reducible apply loseDie_kept) | (with_reducible apply modJoin_kept)
    | (with_reducible apply linkDown_kept) | (with_reducible apply kept_ite) | (with_reducible apply kept_ite_fst)
    | (with_reducible apply out_next) | (with_reducible apply out_ite) | (with_reducible apply kept_foldl)
    | (with_reducible apply kept_foldl_fst) | (with_reducible refine kept_fst ?_ (by assumption)) | (split)
    | (simp only [kept_mk, kept_mk_hif, kept_mk_mem, kept_mk_both])

theorem execRuradPllLockLoss_kept {k : Keep} {s : State} {a0} (h : s.Kept k) : OutKept k (execRuradPllLockLoss a0 s) := by
  unfold execRuradPllLockLoss
  try simp only [kept_mk, kept_mk_hif, kept_mk_mem, kept_mk_both]
  repeat' first
    | (with_reducible assumption) | (with_reducible intro _) | (with_reducible apply modPwr_kept) | (with_reducible apply wr_kept)
    | (with_reducible apply kept_ite) | (with_reducible apply kept_ite_fst) | (with_reducible apply out_next)
    | (with_reducible apply out_ite)

theorem execRuradLockLossConfirm_kept {k : Keep} {s : State} {a0} (h : s.Kept k) : OutKept k (execRuradLockLossConfirm a0 s) := by
  unfold execRuradLockLossConfirm
  try simp only [kept_mk, kept_mk_hif, kept_mk_mem, kept_mk_both]
  repeat' first
    | (with_reducible assumption) | (with_reducible intro _) | (with_reducible apply fin_kept)
    | (with_reducible apply loseDie_kept) | (with_reducible apply waitTo_kept) | (with_reducible apply kept_ite)
    | (with_reducible apply kept_ite_fst) | (with_reducible apply out_next) | (with_reducible apply out_ite)
    | (with_reducible apply kept_foldl) | (with_reducible apply kept_foldl_fst)
    | (with_reducible refine kept_fst ?_ (by assumption)) | (split)

theorem eztosClockLoss_kept {k : Keep} {s : State} (h : s.Kept k) : (State.eztosClockLoss s).Kept k := by
  unfold State.eztosClockLoss
  try simp only [kept_mk, kept_mk_hif, kept_mk_mem, kept_mk_both]
  repeat' first
    | (with_reducible assumption) | (with_reducible intro _) | (with_reducible apply modPkg_kept)
    | (with_reducible apply safeAll_kept) | (with_reducible apply modPwr_kept)

theorem execEztosPllLockLoss_kept {k : Keep} {s : State} (h : s.Kept k) : OutKept k (execEztosPllLockLoss s) := by
  unfold execEztosPllLockLoss
  try simp only [kept_mk, kept_mk_hif, kept_mk_mem, kept_mk_both]
  repeat' first
    | (with_reducible assumption) | (with_reducible intro _) | (with_reducible apply fin_kept)
    | (with_reducible apply eztosClockLoss_kept) | (with_reducible apply wr_kept) | (with_reducible apply kept_ite)
    | (with_reducible apply kept_ite_fst) | (with_reducible apply out_next) | (with_reducible apply out_ite)

theorem execReferenceLoss_kept {k : Keep} {s : State} {a0} (h : s.Kept k) : OutKept k (execReferenceLoss a0 s) := by
  unfold execReferenceLoss
  try simp only [kept_mk, kept_mk_hif, kept_mk_mem, kept_mk_both]
  repeat' first
    | (with_reducible assumption) | (with_reducible intro _) | (with_reducible apply wr_kept) | (with_reducible apply fin_kept)
    | (with_reducible apply modPwr_kept) | (with_reducible apply eztosClockLoss_kept) | (with_reducible apply kept_ite)
    | (with_reducible apply kept_ite_fst) | (with_reducible apply out_next) | (with_reducible apply out_ite)

theorem execHeartbeatSend_kept {k : Keep} {s : State} {a0 a1} (h : s.Kept k) : OutKept k (execHeartbeatSend a0 a1 s) := by
  unfold execHeartbeatSend
  try simp only [kept_mk, kept_mk_hif, kept_mk_mem, kept_mk_both]
  repeat' first
    | (with_reducible assumption) | (with_reducible intro _) | (with_reducible apply modPwr_kept) | (with_reducible apply kept_ite)
    | (with_reducible apply kept_ite_fst) | (with_reducible apply out_next) | (with_reducible apply out_ite)

theorem hbDeviates_kept {k : Keep} {s : State} {a1} (h : s.Kept k) : (State.hbDeviates s a1).Kept k := by
  unfold State.hbDeviates
  try simp only [kept_mk, kept_mk_hif, kept_mk_mem, kept_mk_both]
  repeat' first
    | (with_reducible assumption) | (with_reducible intro _) | (with_reducible apply modPwr_kept)
    | (with_reducible apply loseIslandB_kept) | (with_reducible apply wr_kept) | (with_reducible apply stopB_kept)
    | (with_reducible apply kept_ite)

theorem execHeartbeatReceive_kept {k : Keep} {s : State} {a0 a1 a2} (h : s.Kept k) :
    OutKept k (execHeartbeatReceive a0 a1 a2 s) := by
  unfold execHeartbeatReceive
  try simp only [kept_mk, kept_mk_hif, kept_mk_mem, kept_mk_both]
  repeat' first
    | (with_reducible assumption) | (with_reducible intro _) | (with_reducible apply wrB_kept) | (with_reducible apply fin_kept)
    | (with_reducible apply hbDeviates_kept) | (with_reducible apply modPwr_kept) | (with_reducible apply kept_ite)
    | (with_reducible apply kept_ite_fst) | (with_reducible apply out_next) | (with_reducible apply out_ite)

theorem execHeartbeatMissing_kept {k : Keep} {s : State} {a0} (h : s.Kept k) : OutKept k (execHeartbeatMissing a0 s) := by
  unfold execHeartbeatMissing
  try simp only [kept_mk, kept_mk_hif, kept_mk_mem, kept_mk_both]
  repeat' first
    | (with_reducible assumption) | (with_reducible intro _) | (with_reducible apply fin_kept)
    | (with_reducible apply hbDeviates_kept) | (with_reducible apply kept_ite) | (with_reducible apply kept_ite_fst)
    | (with_reducible apply out_next) | (with_reducible apply out_ite)

theorem execHifHeartbeatTick_kept {k : Keep} {s : State} (h : s.Kept k) : OutKept k (execHifHeartbeatTick s) := by
  unfold execHifHeartbeatTick
  try simp only [kept_mk, kept_mk_hif, kept_mk_mem, kept_mk_both]
  repeat' first
    | (with_reducible assumption) | (with_reducible intro _) | (with_reducible apply wr_kept) | (with_reducible apply kept_ite)
    | (with_reducible apply kept_ite_fst) | (with_reducible apply out_next) | (with_reducible apply out_ite)

theorem execAvsMonitor_kept {k : Keep} {s : State} {a0 a1} (h : s.Kept k) : OutKept k (execAvsMonitor a0 a1 s) := by
  unfold execAvsMonitor
  try simp only [kept_mk, kept_mk_hif, kept_mk_mem, kept_mk_both]
  repeat' first
    | (with_reducible assumption) | (with_reducible intro _) | (with_reducible apply modPwr_kept)
    | (with_reducible apply event_kept) | (with_reducible apply wr_kept) | (with_reducible apply fin_kept)
    | (with_reducible apply loseDie_kept) | (with_reducible apply kept_ite) | (with_reducible apply kept_ite_fst)
    | (with_reducible apply out_next) | (with_reducible apply out_ite)

theorem execAvsStep_kept {k : Keep} {s : State} {a0} (h : s.Kept k) : OutKept k (execAvsStep a0 s) := by
  unfold execAvsStep
  try simp only [kept_mk, kept_mk_hif, kept_mk_mem, kept_mk_both]
  repeat' first
    | (with_reducible assumption) | (with_reducible intro _) | (with_reducible apply modPwr_kept)
    | (with_reducible apply raise_kept) | (with_reducible apply wr_kept) | (with_reducible apply kept_ite)
    | (with_reducible apply kept_ite_fst) | (with_reducible apply out_next) | (with_reducible apply out_ite)

theorem execAvsbusNoAck_kept {k : Keep} {s : State} {a0} (h : s.Kept k) : OutKept k (execAvsbusNoAck a0 s) := by
  unfold execAvsbusNoAck
  try simp only [kept_mk, kept_mk_hif, kept_mk_mem, kept_mk_both]
  repeat' first
    | (with_reducible assumption) | (with_reducible intro _) | (with_reducible apply modPwr_kept)
    | (with_reducible apply event_kept) | (with_reducible apply wr_kept) | (with_reducible apply kept_ite)
    | (with_reducible apply kept_ite_fst) | (with_reducible apply out_next) | (with_reducible apply out_ite)

theorem execCombClockGate_kept {k : Keep} {s : State} {a0} (h : s.Kept k) : OutKept k (execCombClockGate a0 s) := by
  unfold execCombClockGate
  try simp only [kept_mk, kept_mk_hif, kept_mk_mem, kept_mk_both]
  repeat' first
    | (with_reducible assumption) | (with_reducible intro _) | (with_reducible apply wr_kept) | (with_reducible apply waitTo_kept)
    | (with_reducible apply kept_ite) | (with_reducible apply kept_ite_fst) | (with_reducible apply out_next)
    | (with_reducible apply out_ite)

theorem execDieStandbyEnter_kept {k : Keep} {s : State} {a0} (h : s.Kept k) : OutKept k (execDieStandbyEnter a0 s) := by
  unfold execDieStandbyEnter
  try simp only [kept_mk, kept_mk_hif, kept_mk_mem, kept_mk_both]
  repeat' first
    | (with_reducible assumption) | (with_reducible intro _) | (with_reducible apply wr_kept) | (with_reducible apply waitTo_kept)
    | (with_reducible apply selfRefresh_kept) | (with_reducible apply kept_ite) | (with_reducible apply kept_ite_fst)
    | (with_reducible apply out_next) | (with_reducible apply out_ite)

theorem execDieStandbyExitDone_kept {k : Keep} {s : State} {a0} (h : s.Kept k) : OutKept k (execDieStandbyExitDone a0 s) := by
  unfold execDieStandbyExitDone
  try simp only [kept_mk, kept_mk_hif, kept_mk_mem, kept_mk_both]
  repeat' first
    | (with_reducible assumption) | (with_reducible intro _) | (with_reducible apply modPwr_kept) | (with_reducible apply wr_kept)
    | (with_reducible apply useSched_kept) | (with_reducible apply kept_ite) | (with_reducible apply kept_ite_fst)
    | (with_reducible apply out_next) | (with_reducible apply out_ite) | (with_reducible apply kept_foldl)
    | (with_reducible apply kept_foldl_fst) | (with_reducible refine kept_fst ?_ (by assumption)) | (split)
    | (simp only [kept_mk, kept_mk_hif, kept_mk_mem, kept_mk_both])

theorem execD3hotEntry_kept {k : Keep} {s : State} (h : s.Kept k) : OutKept k (execD3hotEntry s) := by
  unfold execD3hotEntry
  try simp only [kept_mk, kept_mk_hif, kept_mk_mem, kept_mk_both]
  repeat' first
    | (with_reducible assumption) | (with_reducible intro _) | (with_reducible apply stopB_kept)
    | (with_reducible apply safeAll_kept) | (with_reducible apply selfRefresh_kept) | (with_reducible apply fin_kept)
    | (with_reducible apply wr_kept) | (with_reducible apply kept_ite) | (with_reducible apply kept_ite_fst)
    | (with_reducible apply out_next) | (with_reducible apply out_ite) | (with_reducible apply kept_foldl)
    | (with_reducible apply kept_foldl_fst) | (with_reducible refine kept_fst ?_ (by assumption)) | (split)
    | (simp only [kept_mk, kept_mk_hif, kept_mk_mem, kept_mk_both])

theorem execD0Entry_kept {k : Keep} {s : State} (h : s.Kept k) : OutKept k (execD0Entry s) := by
  unfold execD0Entry
  try simp only [kept_mk, kept_mk_hif, kept_mk_mem, kept_mk_both]
  repeat' first
    | (with_reducible assumption) | (with_reducible intro _) | (with_reducible apply wr_kept)
    | (with_reducible apply useSched_kept) | (with_reducible apply kept_ite) | (with_reducible apply kept_ite_fst)
    | (with_reducible apply out_next) | (with_reducible apply out_ite) | (with_reducible apply kept_foldl)
    | (with_reducible apply kept_foldl_fst) | (with_reducible refine kept_fst ?_ (by assumption)) | (split)
    | (simp only [kept_mk, kept_mk_hif, kept_mk_mem, kept_mk_both])

theorem execRampEstimate_kept {k : Keep} {s : State} {a0 a1} (h : s.Kept k) : OutKept k (execRampEstimate a0 a1 s) := by
  unfold execRampEstimate
  try simp only [kept_mk, kept_mk_hif, kept_mk_mem, kept_mk_both]
  repeat' first
    | (with_reducible assumption) | (with_reducible intro _) | (with_reducible apply modPwr_kept)
    | (with_reducible apply showRamp_kept) | (with_reducible apply kept_ite) | (with_reducible apply kept_ite_fst)
    | (with_reducible apply out_next) | (with_reducible apply out_ite)

theorem execJoinHello_kept {k : Keep} {s : State} {a0 a1 a2} (h : s.Kept k) : OutKept k (execJoinHello a0 a1 a2 s) := by
  unfold execJoinHello
  try simp only [kept_mk, kept_mk_hif, kept_mk_mem, kept_mk_both]
  repeat' first
    | (with_reducible assumption) | (with_reducible intro _) | (with_reducible apply joinHello_kept)
    | (with_reducible apply kept_ite) | (with_reducible apply kept_ite_fst) | (with_reducible apply out_next)
    | (with_reducible apply out_ite) | (with_reducible apply kept_foldl) | (with_reducible apply kept_foldl_fst)
    | (with_reducible refine kept_fst ?_ (by assumption)) | (split)
    | (simp only [kept_mk, kept_mk_hif, kept_mk_mem, kept_mk_both])

theorem execJoinResp_kept {k : Keep} {s : State} {a0 a1} (h : s.Kept k) : OutKept k (execJoinResp a0 a1 s) := by
  unfold execJoinResp
  try simp only [kept_mk, kept_mk_hif, kept_mk_mem, kept_mk_both]
  repeat' first
    | (with_reducible assumption) | (with_reducible intro _) | (with_reducible apply joinResp_kept)
    | (with_reducible apply kept_ite) | (with_reducible apply kept_ite_fst) | (with_reducible apply out_next)
    | (with_reducible apply out_ite) | (with_reducible apply kept_foldl) | (with_reducible apply kept_foldl_fst)
    | (with_reducible refine kept_fst ?_ (by assumption)) | (split)
    | (simp only [kept_mk, kept_mk_hif, kept_mk_mem, kept_mk_both])

theorem execJoinConfirm_kept {k : Keep} {s : State} {a0 a1} (h : s.Kept k) : OutKept k (execJoinConfirm a0 a1 s) := by
  unfold execJoinConfirm
  try simp only [kept_mk, kept_mk_hif, kept_mk_mem, kept_mk_both]
  repeat' first
    | (with_reducible assumption) | (with_reducible intro _) | (with_reducible apply joinConfirm_kept)
    | (with_reducible apply kept_ite) | (with_reducible apply kept_ite_fst) | (with_reducible apply out_next)
    | (with_reducible apply out_ite) | (with_reducible apply kept_foldl) | (with_reducible apply kept_foldl_fst)
    | (with_reducible refine kept_fst ?_ (by assumption)) | (split)
    | (simp only [kept_mk, kept_mk_hif, kept_mk_mem, kept_mk_both])

theorem execJoinDone_kept {k : Keep} {s : State} {a0} (h : s.Kept k) : OutKept k (execJoinDone a0 s) := by
  unfold execJoinDone
  try simp only [kept_mk, kept_mk_hif, kept_mk_mem, kept_mk_both]
  repeat' first
    | (with_reducible assumption) | (with_reducible intro _) | (with_reducible apply joinDone_kept)
    | (with_reducible apply kept_ite) | (with_reducible apply kept_ite_fst) | (with_reducible apply out_next)

theorem execJoinHelloRetry_kept {k : Keep} {s : State} (h : s.Kept k) : OutKept k (execJoinHelloRetry s) := by
  unfold execJoinHelloRetry
  try simp only [kept_mk, kept_mk_hif, kept_mk_mem, kept_mk_both]
  repeat' first
    | (with_reducible assumption) | (with_reducible intro _) | (with_reducible apply joinRetry_kept)
    | (with_reducible apply kept_ite) | (with_reducible apply kept_ite_fst) | (with_reducible apply out_next)

theorem execJoinTimeout_kept {k : Keep} {s : State} (h : s.Kept k) : OutKept k (execJoinTimeout s) := by
  unfold execJoinTimeout
  try simp only [kept_mk, kept_mk_hif, kept_mk_mem, kept_mk_both]
  repeat' first
    | (with_reducible assumption) | (with_reducible intro _) | (with_reducible apply joinTimeout_kept)
    | (with_reducible apply kept_ite) | (with_reducible apply kept_ite_fst) | (with_reducible apply out_next)

end Sys2Proof.Laws
end

