-- ==== Sys2Proof/Laws/KeptThermal.lean ====
section
/-! SUPPORT. What every operation of Machine/Thermal.lean keeps (`State.Kept`): one lemma for each. -/
set_option linter.unusedSimpArgs false
namespace Sys2Proof.Laws
open Sys2Proof Sys2Proof.Machine

theorem countOutliers_kept {k : Keep} {s : State} {a1 a2} (h : s.Kept k) : (State.countOutliers s a1 a2).Kept k := by
  unfold State.countOutliers
  try simp only [kept_mk, kept_mk_hif, kept_mk_mem, kept_mk_both]
  repeat' first
    | (with_reducible assumption) | (with_reducible intro _) | (with_reducible apply modThm_kept)
    | (with_reducible apply kept_ite) | (with_reducible apply kept_ite_fst) | (with_reducible apply out_next)
    | (with_reducible apply out_ite) | (with_reducible apply kept_foldl) | (with_reducible apply kept_foldl_fst)
    | (with_reducible refine kept_fst ?_ (by assumption)) | (split)
    | (simp only [kept_mk, kept_mk_hif, kept_mk_mem, kept_mk_both])

theorem readSensor_kept {k : Keep} {s : State} {a1 a2} (h : s.Kept k) : (State.readSensor s a1 a2).Kept k := by
  unfold State.readSensor
  try simp only [kept_mk, kept_mk_hif, kept_mk_mem, kept_mk_both]
  repeat' first
    | (with_reducible assumption) | (with_reducible intro _) | (with_reducible apply wr_kept)
    | (with_reducible apply modThm_kept) | (with_reducible apply kept_ite) | (with_reducible apply kept_ite_fst)
    | (with_reducible apply out_next) | (with_reducible apply out_ite) | (with_reducible apply kept_foldl)
    | (with_reducible apply kept_foldl_fst) | (with_reducible refine kept_fst ?_ (by assumption)) | (split)
    | (simp only [kept_mk, kept_mk_hif, kept_mk_mem, kept_mk_both])

theorem warn_kept {k : Keep} {s : State} {a1 a2 a3} (h : s.Kept k) : (State.warn s a1 a2 a3).Kept k := by
  unfold State.warn
  try simp only [kept_mk, kept_mk_hif, kept_mk_mem, kept_mk_both]
  repeat' first
    | (with_reducible assumption) | (with_reducible intro _) | (with_reducible apply event_kept)
    | (with_reducible apply modDom_kept) | (with_reducible apply kept_ite)

theorem hotSpot_kept {k : Keep} {s : State} {a1} (h : s.Kept k) : (State.hotSpot s a1).Kept k := by
  unfold State.hotSpot
  try simp only [kept_mk, kept_mk_hif, kept_mk_mem, kept_mk_both]
  repeat' first
    | (with_reducible assumption) | (with_reducible intro _) | (with_reducible apply modDom_kept) | (with_reducible apply wr_kept)
    | (with_reducible apply wrB_kept) | (with_reducible apply warn_kept) | (with_reducible apply kept_ite)
    | (with_reducible apply kept_ite_fst) | (with_reducible apply out_next) | (with_reducible apply out_ite)
    | (with_reducible apply kept_foldl) | (with_reducible apply kept_foldl_fst)
    | (with_reducible refine kept_fst ?_ (by assumption)) | (split)

theorem takeReadings_kept {k : Keep} {s : State} {a1 a2} (h : s.Kept k) : (State.takeReadings s a1 a2).Kept k := by
  unfold State.takeReadings
  try simp only [kept_mk, kept_mk_hif, kept_mk_mem, kept_mk_both]
  repeat' first
    | (with_reducible assumption) | (with_reducible intro _) | (with_reducible apply readSensor_kept)
    | (with_reducible apply modDom_kept) | (with_reducible apply hotSpot_kept) | (with_reducible apply kept_ite)
    | (with_reducible apply kept_ite_fst) | (with_reducible apply out_next) | (with_reducible apply out_ite)
    | (with_reducible apply kept_foldl)

theorem execSensorSample_kept {k : Keep} {s : State} {a0 a1} (h : s.Kept k) : OutKept k (execSensorSample a0 a1 s) := by
  unfold execSensorSample
  try simp only [kept_mk, kept_mk_hif, kept_mk_mem, kept_mk_both]
  repeat' first
    | (with_reducible assumption) | (with_reducible intro _) | (with_reducible apply countOutliers_kept)
    | (with_reducible apply modThm_kept) | (with_reducible apply takeReadings_kept) | (with_reducible apply kept_ite)
    | (with_reducible apply kept_ite_fst) | (with_reducible apply out_next) | (with_reducible apply out_ite)
    | (with_reducible apply kept_foldl) | (with_reducible apply kept_foldl_fst)
    | (with_reducible refine kept_fst ?_ (by assumption)) | (split)
    | (simp only [kept_mk, kept_mk_hif, kept_mk_mem, kept_mk_both])

theorem execUathalSensorReport_kept {k : Keep} {s : State} {a0 a1} (h : s.Kept k) : OutKept k (execUathalSensorReport a0 a1 s) := by
  unfold execUathalSensorReport
  try simp only [kept_mk, kept_mk_hif, kept_mk_mem, kept_mk_both]
  repeat' first
    | (with_reducible assumption) | (with_reducible intro _) | (with_reducible apply takeReadings_kept)
    | (with_reducible apply kept_ite) | (with_reducible apply kept_ite_fst) | (with_reducible apply out_next)
    | (with_reducible apply out_ite) | (with_reducible apply kept_foldl) | (with_reducible apply kept_foldl_fst)
    | (with_reducible refine kept_fst ?_ (by assumption)) | (split)
    | (simp only [kept_mk, kept_mk_hif, kept_mk_mem, kept_mk_both])

theorem watchStuck_kept {k : Keep} {s : State} {a1} (h : s.Kept k) : (State.watchStuck s a1).Kept k := by
  unfold State.watchStuck
  try simp only [kept_mk, kept_mk_hif, kept_mk_mem, kept_mk_both]
  repeat' first
    | (with_reducible assumption) | (with_reducible intro _) | (with_reducible apply modDom_kept)
    | (with_reducible apply warn_kept) | (with_reducible apply kept_ite) | (with_reducible apply kept_ite_fst)
    | (with_reducible apply out_next) | (with_reducible apply out_ite) | (with_reducible apply kept_foldl)
    | (with_reducible apply kept_foldl_fst) | (with_reducible refine kept_fst ?_ (by assumption)) | (split)
    | (simp only [kept_mk, kept_mk_hif, kept_mk_mem, kept_mk_both])

theorem forecastDomain_kept {k : Keep} {s : State} {a0 a2} (h : s.Kept k) : (State.forecastDomain a0 s a2).Kept k := by
  unfold State.forecastDomain
  try simp only [kept_mk, kept_mk_hif, kept_mk_mem, kept_mk_both]
  repeat' first
    | (with_reducible assumption) | (with_reducible intro _) | (with_reducible apply wr_kept)
    | (with_reducible apply warn_kept) | (with_reducible apply wrB_kept) | (with_reducible apply modDom_kept)
    | (with_reducible apply watchStuck_kept) | (with_reducible apply kept_ite) | (with_reducible apply kept_ite_fst)
    | (with_reducible apply out_next) | (with_reducible apply out_ite) | (with_reducible apply kept_foldl)
    | (with_reducible apply kept_foldl_fst) | (with_reducible refine kept_fst ?_ (by assumption)) | (split)
    | (simp only [kept_mk, kept_mk_hif, kept_mk_mem, kept_mk_both])

theorem execThermalForecast_kept {k : Keep} {s : State} {a0} (h : s.Kept k) : OutKept k (execThermalForecast a0 s) := by
  unfold execThermalForecast
  try simp only [kept_mk, kept_mk_hif, kept_mk_mem, kept_mk_both]
  repeat' first
    | (with_reducible assumption) | (with_reducible intro _) | (with_reducible apply forecastDomain_kept)
    | (with_reducible apply kept_ite) | (with_reducible apply kept_ite_fst) | (with_reducible apply out_next)
    | (with_reducible apply out_ite) | (with_reducible apply kept_foldl)

theorem reviewDie_kept {k : Keep} {s : State} {a1 a2} (h : s.Kept k) : (State.reviewDie s a1 a2).Kept k := by
  unfold State.reviewDie
  try simp only [kept_mk, kept_mk_hif, kept_mk_mem, kept_mk_both]
  repeat' first
    | (with_reducible assumption) | (with_reducible intro _) | (with_reducible apply wr_kept)
    | (with_reducible apply warn_kept) | (with_reducible apply watchStuck_kept) | (with_reducible apply kept_ite)
    | (with_reducible apply kept_ite_fst) | (with_reducible apply out_next) | (with_reducible apply out_ite)
    | (with_reducible apply kept_foldl) | (with_reducible apply kept_foldl_fst)
    | (with_reducible refine kept_fst ?_ (by assumption)) | (split)
    | (simp only [kept_mk, kept_mk_hif, kept_mk_mem, kept_mk_both])

theorem takeLimits_kept {k : Keep} {s : State} (h : s.Kept k) : (State.takeLimits s).Kept k := by
  unfold State.takeLimits
  try simp only [kept_mk, kept_mk_hif, kept_mk_mem, kept_mk_both]
  repeat' first
    | (with_reducible assumption) | (with_reducible intro _) | (with_reducible apply modThm_kept)
    | (with_reducible apply warn_kept) | (with_reducible apply kept_ite) | (with_reducible apply kept_ite_fst)
    | (with_reducible apply out_next) | (with_reducible apply out_ite) | (with_reducible apply kept_foldl)
    | (with_reducible apply kept_foldl_fst) | (with_reducible refine kept_fst ?_ (by assumption)) | (split)
    | (simp only [kept_mk, kept_mk_hif, kept_mk_mem, kept_mk_both])

theorem reviewDomain_kept {k : Keep} {s : State} {a0 a1 a3} (h : s.Kept k) : (State.reviewDomain a0 a1 s a3).Kept k := by
  unfold State.reviewDomain
  try simp only [kept_mk, kept_mk_hif, kept_mk_mem, kept_mk_both]
  repeat' first
    | (with_reducible assumption) | (with_reducible intro _) | (with_reducible apply warn_kept)
    | (with_reducible apply reviewDie_kept) | (with_reducible apply modDom_kept) | (with_reducible apply kept_ite)
    | (with_reducible apply kept_ite_fst) | (with_reducible apply out_next) | (with_reducible apply out_ite)
    | (with_reducible apply kept_foldl) | (with_reducible apply kept_foldl_fst)
    | (with_reducible refine kept_fst ?_ (by assumption)) | (split)
    | (simp only [kept_mk, kept_mk_hif, kept_mk_mem, kept_mk_both])

theorem countHot_kept {k : Keep} {s : State} {a1} (h : s.Kept k) : (State.countHot s a1).Kept k := by
  unfold State.countHot
  try simp only [kept_mk, kept_mk_hif, kept_mk_mem, kept_mk_both]
  repeat' first
    | (with_reducible assumption) | (with_reducible intro _) | (with_reducible apply modDom_kept) | (with_reducible apply kept_ite)

theorem execDutyReview_kept {k : Keep} {s : State} {a0 a1} (h : s.Kept k) : OutKept k (execDutyReview a0 a1 s) := by
  unfold execDutyReview
  try simp only [kept_mk, kept_mk_hif, kept_mk_mem, kept_mk_both]
  repeat' first
    | (with_reducible assumption) | (with_reducible intro _) | (with_reducible apply reviewDomain_kept)
    | (with_reducible apply takeLimits_kept) | (with_reducible apply countHot_kept) | (with_reducible apply inc_kept)
    | (with_reducible apply kept_ite) | (with_reducible apply kept_ite_fst) | (with_reducible apply out_next)
    | (with_reducible apply out_ite) | (with_reducible apply kept_foldl)

theorem endWindow_kept {k : Keep} {s : State} {a1 a2} (h : s.Kept k) : (State.endWindow s a1 a2).Kept k := by
  unfold State.endWindow
  try simp only [kept_mk, kept_mk_hif, kept_mk_mem, kept_mk_both]
  repeat' first
    | (with_reducible assumption) | (with_reducible intro _) | (with_reducible apply modDom_kept) | (with_reducible apply wr_kept)
    | (with_reducible apply warn_kept) | (with_reducible apply kept_ite)

theorem boundary_kept {k : Keep} {s : State} {a1} (h : s.Kept k) : (State.boundary s a1).Kept k := by
  unfold State.boundary
  try simp only [kept_mk, kept_mk_hif, kept_mk_mem, kept_mk_both]
  repeat' first
    | (with_reducible assumption) | (with_reducible intro _) | (with_reducible apply endWindow_kept)
    | (with_reducible apply dropWindow_kept) | (with_reducible apply kept_ite) | (with_reducible apply kept_ite_fst)
    | (with_reducible apply out_next) | (with_reducible apply out_ite) | (with_reducible apply kept_foldl)
    | (with_reducible apply kept_foldl_fst) | (with_reducible refine kept_fst ?_ (by assumption)) | (split)
    | (simp only [kept_mk, kept_mk_hif, kept_mk_mem, kept_mk_both])

theorem execSustainedWindow_kept {k : Keep} {s : State} (h : s.Kept k) : OutKept k (execSustainedWindow s) := by
  unfold execSustainedWindow
  try simp only [kept_mk, kept_mk_hif, kept_mk_mem, kept_mk_both]
  repeat' first
    | (with_reducible assumption) | (with_reducible intro _) | (with_reducible apply boundary_kept)
    | (with_reducible apply modThm_kept) | (with_reducible apply kept_ite) | (with_reducible apply kept_ite_fst)
    | (with_reducible apply out_next) | (with_reducible apply out_ite) | (with_reducible apply kept_foldl)
    | (with_reducible apply kept_foldl_fst) | (with_reducible refine kept_fst ?_ (by assumption)) | (split)
    | (simp only [kept_mk, kept_mk_hif, kept_mk_mem, kept_mk_both])

theorem coolingEvent_kept {k : Keep} {s : State} {a1} (h : s.Kept k) : (State.coolingEvent s a1).Kept k := by
  unfold State.coolingEvent
  try simp only [kept_mk, kept_mk_hif, kept_mk_mem, kept_mk_both]
  repeat' first
    | (with_reducible assumption) | (with_reducible intro _) | (with_reducible apply event_kept) | (with_reducible apply wr_kept)

theorem useEstimate_kept {k : Keep} {s : State} {a1} (h : s.Kept k) : (State.useEstimate s a1).Kept k := by
  unfold State.useEstimate
  try simp only [kept_mk, kept_mk_hif, kept_mk_mem, kept_mk_both]
  repeat' first
    | (with_reducible assumption) | (with_reducible intro _) | (with_reducible apply inc_kept) | (with_reducible apply wr_kept)
    | (with_reducible apply modThm_kept) | (with_reducible apply coolingEvent_kept) | (with_reducible apply kept_ite)

theorem execRthWindow_kept {k : Keep} {s : State} {a0 a1 a2 a3} (h : s.Kept k) : OutKept k (execRthWindow a0 a1 a2 a3 s) := by
  unfold execRthWindow
  try simp only [kept_mk, kept_mk_hif, kept_mk_mem, kept_mk_both]
  repeat' first
    | (with_reducible assumption) | (with_reducible intro _) | (with_reducible apply modThm_kept)
    | (with_reducible apply useEstimate_kept) | (with_reducible apply kept_ite) | (with_reducible apply kept_ite_fst)
    | (with_reducible apply out_next) | (with_reducible apply out_ite)

theorem execCoolantStale_kept {k : Keep} {s : State} (h : s.Kept k) : OutKept k (execCoolantStale s) := by
  unfold execCoolantStale
  try simp only [kept_mk, kept_mk_hif, kept_mk_mem, kept_mk_both]
  repeat' first
    | (with_reducible assumption) | (with_reducible intro _) | (with_reducible apply modThm_kept) | (with_reducible apply wr_kept)
    | (with_reducible apply waitTo_kept) | (with_reducible apply kept_ite) | (with_reducible apply kept_ite_fst)
    | (with_reducible apply out_next) | (with_reducible apply out_ite) | (with_reducible apply kept_foldl)
    | (with_reducible apply kept_foldl_fst) | (with_reducible refine kept_fst ?_ (by assumption)) | (split)

theorem writeCoolant_kept {k : Keep} {s : State} {a1} (h : s.Kept k) : (State.writeCoolant s a1).Kept k := by
  unfold State.writeCoolant
  try simp only [kept_mk, kept_mk_hif, kept_mk_mem, kept_mk_both]
  repeat' first
    | (with_reducible assumption) | (with_reducible intro _) | (with_reducible apply modThm_kept) | (with_reducible apply wr_kept)

theorem execCoolantWrite_kept {k : Keep} {s : State} {a0} (h : s.Kept k) : OutKept k (execCoolantWrite a0 s) := by
  unfold execCoolantWrite
  try simp only [kept_mk, kept_mk_hif, kept_mk_mem, kept_mk_both]
  repeat' first
    | (with_reducible assumption) | (with_reducible intro _) | (with_reducible apply writeCoolant_kept)
    | (with_reducible apply kept_ite) | (with_reducible apply kept_ite_fst) | (with_reducible apply out_next)

theorem writeBase_kept {k : Keep} {s : State} {a1} (h : s.Kept k) : (State.writeBase s a1).Kept k := by
  unfold State.writeBase
  try simp only [kept_mk, kept_mk_hif, kept_mk_mem, kept_mk_both]
  repeat' first
    | (with_reducible assumption) | (with_reducible intro _) | (with_reducible apply modThm_kept) | (with_reducible apply wr_kept)

theorem writeLimits_kept {k : Keep} {s : State} {a1} (h : s.Kept k) : (State.writeLimits s a1).Kept k := by
  unfold State.writeLimits
  try simp only [kept_mk, kept_mk_hif, kept_mk_mem, kept_mk_both]
  repeat' first
    | (with_reducible assumption) | (with_reducible intro _) | (with_reducible apply wr_kept) | (with_reducible apply kept_ite)

theorem execThermalLimitsWrite_kept {k : Keep} {s : State} {a0} (h : s.Kept k) : OutKept k (execThermalLimitsWrite a0 s) := by
  unfold execThermalLimitsWrite
  try simp only [kept_mk, kept_mk_hif, kept_mk_mem, kept_mk_both]
  repeat' first
    | (with_reducible assumption) | (with_reducible intro _) | (with_reducible apply writeLimits_kept)
    | (with_reducible apply kept_ite) | (with_reducible apply kept_ite_fst) | (with_reducible apply out_next)

theorem writeThmCtl_kept {k : Keep} {s : State} {a1} (h : s.Kept k) : (State.writeThmCtl s a1).Kept k := by
  unfold State.writeThmCtl
  try simp only [kept_mk, kept_mk_hif, kept_mk_mem, kept_mk_both]
  repeat' first
    | (with_reducible assumption) | (with_reducible intro _) | (with_reducible apply wr_kept) | (with_reducible apply kept_ite)

theorem execThermalCtlWrite_kept {k : Keep} {s : State} {a0} (h : s.Kept k) : OutKept k (execThermalCtlWrite a0 s) := by
  unfold execThermalCtlWrite
  try simp only [kept_mk, kept_mk_hif, kept_mk_mem, kept_mk_both]
  repeat' first
    | (with_reducible assumption) | (with_reducible intro _) | (with_reducible apply writeThmCtl_kept)
    | (with_reducible apply kept_ite) | (with_reducible apply kept_ite_fst) | (with_reducible apply out_next)
end Sys2Proof.Laws
end

