-- ==== Sys2Proof/Laws/KeptTimeCmds.lean ====
section
/-! SUPPORT. What every operation of Machine/TimeCmds.lean keeps (`State.Kept`): one lemma for each. -/
set_option linter.unusedSimpArgs false
namespace Sys2Proof.Laws
open Sys2Proof Sys2Proof.Machine

theorem timState_kept {k : Keep} {s : State} {a1} (h : s.Kept k) : (State.timState s a1).Kept k := by
  unfold State.timState
  try simp only [kept_mk, kept_mk_hif, kept_mk_mem, kept_mk_both]
  repeat' first
    | (with_reducible assumption) | (with_reducible intro _) | (with_reducible apply wr_kept) | (with_reducible apply kept_ite)

theorem applyTimCfg_kept {k : Keep} {s : State} (h : s.Kept k) : (State.applyTimCfg s).Kept k := by
  unfold State.applyTimCfg
  try simp only [kept_mk, kept_mk_hif, kept_mk_mem, kept_mk_both]
  repeat' first
    | (with_reducible assumption) | (with_reducible intro _) | (with_reducible apply wr_kept)
    | (with_reducible apply timState_kept) | (with_reducible apply kept_ite) | (with_reducible apply kept_ite_fst)
    | (with_reducible apply out_next) | (with_reducible apply out_ite) | (with_reducible apply kept_foldl)
    | (with_reducible apply kept_foldl_fst) | (with_reducible refine kept_fst ?_ (by assumption)) | (split)
    | (simp only [kept_mk, kept_mk_hif, kept_mk_mem, kept_mk_both])

theorem stepTime_kept {k : Keep} {s : State} {a1} (h : s.Kept k) : (State.stepTime s a1).Kept k := by
  unfold State.stepTime
  try simp only [kept_mk, kept_mk_hif, kept_mk_mem, kept_mk_both]
  repeat' first
    | (with_reducible assumption) | (with_reducible intro _) | (with_reducible apply wr_kept)
    | (with_reducible apply discardOpen_kept) | (with_reducible apply setTime96_kept)

theorem servoUpdate_kept {k : Keep} {s : State} {a1 a2 a3 a4 a5 a6} (h : s.Kept k) :
    (State.servoUpdate s a1 a2 a3 a4 a5 a6).Kept k := by
  unfold State.servoUpdate
  try simp only [kept_mk, kept_mk_hif, kept_mk_mem, kept_mk_both]
  repeat' first
    | (with_reducible assumption) | (with_reducible intro _) | (with_reducible apply timState_kept)
    | (with_reducible apply stepTime_kept) | (with_reducible apply wr_kept) | (with_reducible apply wrB_kept)
    | (with_reducible apply kept_ite) | (with_reducible apply kept_ite_fst) | (with_reducible apply out_next)
    | (with_reducible apply out_ite) | (with_reducible apply kept_foldl) | (with_reducible apply kept_foldl_fst)
    | (with_reducible refine kept_fst ?_ (by assumption)) | (split) | (simp only [kept_mk, kept_mk_hif, kept_mk_mem, kept_mk_both])

theorem execSyncMessage_kept {k : Keep} {s : State} {a0 a1 a2 a3 a4 a5 a6} (h : s.Kept k) :
    OutKept k (execSyncMessage a0 a1 a2 a3 a4 a5 a6 s) := by
  unfold execSyncMessage
  try simp only [kept_mk, kept_mk_hif, kept_mk_mem, kept_mk_both]
  repeat' first
    | (with_reducible assumption) | (with_reducible intro _) | (with_reducible apply applyTimCfg_kept)
    | (with_reducible apply servoUpdate_kept) | (with_reducible apply wr_kept) | (with_reducible apply kept_ite)
    | (with_reducible apply kept_ite_fst) | (with_reducible apply out_next) | (with_reducible apply out_ite)
    | (with_reducible apply kept_foldl) | (with_reducible apply kept_foldl_fst)
    | (with_reducible refine kept_fst ?_ (by assumption)) | (split) | (simp only [kept_mk, kept_mk_hif, kept_mk_mem, kept_mk_both])

theorem holdover_kept {k : Keep} {s : State} (h : s.Kept k) : (State.holdover s).Kept k := by
  unfold State.holdover
  try simp only [kept_mk, kept_mk_hif, kept_mk_mem, kept_mk_both]
  repeat' first
    | (with_reducible assumption) | (with_reducible intro _) | (with_reducible apply wr_kept)
    | (with_reducible apply timState_kept)

theorem execSyncTimeout_kept {k : Keep} {s : State} (h : s.Kept k) : OutKept k (execSyncTimeout s) := by
  unfold execSyncTimeout
  try simp only [kept_mk, kept_mk_hif, kept_mk_mem, kept_mk_both]
  repeat' first
    | (with_reducible assumption) | (with_reducible intro _) | (with_reducible apply applyTimCfg_kept)
    | (with_reducible apply wr_kept) | (with_reducible apply timState_kept) | (with_reducible apply holdover_kept)
    | (with_reducible apply kept_ite) | (with_reducible apply kept_ite_fst) | (with_reducible apply out_next)
    | (with_reducible apply out_ite) | (with_reducible apply kept_foldl) | (with_reducible apply kept_foldl_fst)
    | (with_reducible refine kept_fst ?_ (by assumption)) | (split) | (simp only [kept_mk, kept_mk_hif, kept_mk_mem, kept_mk_both])

theorem execHoldoverExpiry_kept {k : Keep} {s : State} (h : s.Kept k) : OutKept k (execHoldoverExpiry s) := by
  unfold execHoldoverExpiry
  try simp only [kept_mk, kept_mk_hif, kept_mk_mem, kept_mk_both]
  repeat' first
    | (with_reducible assumption) | (with_reducible intro _) | (with_reducible apply timState_kept)
    | (with_reducible apply waitTo_kept) | (with_reducible apply kept_ite) | (with_reducible apply kept_ite_fst)
    | (with_reducible apply out_next) | (with_reducible apply out_ite) | (with_reducible apply kept_foldl)
    | (with_reducible apply kept_foldl_fst) | (with_reducible refine kept_fst ?_ (by assumption)) | (split)

theorem execSyncTransmit_kept {k : Keep} {s : State} (h : s.Kept k) : OutKept k (execSyncTransmit s) := by
  unfold execSyncTransmit
  try simp only [kept_mk, kept_mk_hif, kept_mk_mem, kept_mk_both]
  repeat' first
    | (with_reducible assumption) | (with_reducible intro _) | (with_reducible apply applyTimCfg_kept)
    | (with_reducible apply draw_kept) | (with_reducible apply wr_kept) | (with_reducible apply kept_ite)
    | (with_reducible apply kept_ite_fst) | (with_reducible apply out_next) | (with_reducible apply out_ite)
    | (with_reducible apply kept_foldl) | (with_reducible apply kept_foldl_fst)
    | (with_reducible refine kept_fst ?_ (by assumption)) | (split)
    | (simp only [kept_mk, kept_mk_hif, kept_mk_mem, kept_mk_both])

theorem execTimCfgWrite_kept {k : Keep} {s : State} {a0} (h : s.Kept k) : OutKept k (execTimCfgWrite a0 s) := by
  unfold execTimCfgWrite
  try simp only [kept_mk, kept_mk_hif, kept_mk_mem, kept_mk_both]
  repeat' first
    | (with_reducible assumption) | (with_reducible intro _) | (with_reducible apply setReg_kept) | (with_reducible apply kept_ite)
    | (with_reducible apply kept_ite_fst) | (with_reducible apply out_next)

theorem execPpsEdge_kept {k : Keep} {s : State} {a0 a1 a2 a3 a4} (h : s.Kept k) : OutKept k (execPpsEdge a0 a1 a2 a3 a4 s) := by
  unfold execPpsEdge
  try simp only [kept_mk, kept_mk_hif, kept_mk_mem, kept_mk_both]
  repeat' first
    | (with_reducible assumption) | (with_reducible intro _) | (with_reducible apply wr_kept)
    | (with_reducible apply servoUpdate_kept) | (with_reducible apply kept_ite) | (with_reducible apply kept_ite_fst)
    | (with_reducible apply out_next) | (with_reducible apply out_ite) | (with_reducible apply kept_foldl)
    | (with_reducible apply kept_foldl_fst) | (with_reducible refine kept_fst ?_ (by assumption)) | (split)
    | (simp only [kept_mk, kept_mk_hif, kept_mk_mem, kept_mk_both])

theorem execPpsMissing_kept {k : Keep} {s : State} (h : s.Kept k) : OutKept k (execPpsMissing s) := by
  unfold execPpsMissing
  try simp only [kept_mk, kept_mk_hif, kept_mk_mem, kept_mk_both]
  repeat' first
    | (with_reducible assumption) | (with_reducible intro _) | (with_reducible apply wr_kept) | (with_reducible apply waitTo_kept)
    | (with_reducible apply kept_ite) | (with_reducible apply kept_ite_fst) | (with_reducible apply out_next)
    | (with_reducible apply out_ite) | (with_reducible apply kept_foldl) | (with_reducible apply kept_foldl_fst)
    | (with_reducible refine kept_fst ?_ (by assumption)) | (split)

end Sys2Proof.Laws
end

