-- ==== Sys2Proof/Laws/KeptRegWrite.lean ====
section
/-! SUPPORT. What every operation of Machine/RegWrite.lean keeps (`State.Kept`): one lemma for each. -/
set_option linter.unusedSimpArgs false
namespace Sys2Proof.Laws
open Sys2Proof Sys2Proof.Machine

theorem writeEvtCtrl_kept {k : Keep} {s : State} {a1} (h : s.Kept k) : (State.writeEvtCtrl s a1).Kept k := by
  unfold State.writeEvtCtrl
  try simp only [kept_mk, kept_mk_hif, kept_mk_mem, kept_mk_both]
  repeat' first
    | (with_reducible assumption) | (with_reducible intro _) | (with_reducible apply wr_kept) | (with_reducible apply kept_ite)

theorem writeEvtTail_kept {k : Keep} {s : State} {a1} (h : s.Kept k) : (State.writeEvtTail s a1).Kept k := by
  unfold State.writeEvtTail
  try simp only [kept_mk, kept_mk_hif, kept_mk_mem, kept_mk_both]
  repeat' first
    | (with_reducible assumption) | (with_reducible intro _) | (with_reducible apply wr_kept) | (with_reducible apply kept_ite)

theorem writeIMask_kept {k : Keep} {s : State} {a1} (h : s.Kept k) : (State.writeIMask s a1).Kept k := by
  unfold State.writeIMask
  try simp only [kept_mk, kept_mk_hif, kept_mk_mem, kept_mk_both]
  repeat' first
    | (with_reducible assumption) | (with_reducible intro _) | (with_reducible apply wr_kept) | (with_reducible apply msix_kept)
    | (with_reducible apply kept_ite)

theorem writeField_kept {k : Keep} {s : State} {a1 a2 a3 a4} (h : s.Kept k) : (State.writeField s a1 a2 a3 a4).Kept k := by
  unfold State.writeField
  try simp only [kept_mk, kept_mk_hif, kept_mk_mem, kept_mk_both]
  repeat' first
    | (with_reducible assumption) | (with_reducible intro _) | (with_reducible apply setReg_kept) | (with_reducible apply wr_kept)
    | (with_reducible apply kept_ite) | (with_reducible apply kept_ite_fst) | (with_reducible apply out_next)
    | (with_reducible apply out_ite) | (with_reducible apply kept_foldl) | (with_reducible apply kept_foldl_fst)
    | (with_reducible refine kept_fst ?_ (by assumption)) | (split)

theorem writeFields_kept {k : Keep} {s : State} {a1 a2 a3 a4} (h : s.Kept k) : (State.writeFields s a1 a2 a3 a4).Kept k := by
  unfold State.writeFields
  try simp only [kept_mk, kept_mk_hif, kept_mk_mem, kept_mk_both]
  repeat' first
    | (with_reducible assumption) | (with_reducible intro _) | (with_reducible apply writeField_kept)
    | (with_reducible apply kept_ite) | (with_reducible apply kept_ite_fst) | (with_reducible apply out_next)
    | (with_reducible apply out_ite) | (with_reducible apply kept_foldl)

theorem outState_kept {k : Keep} {s : State} {a1} (h : s.Kept k) (ho : OutKept k a1) : (outState s a1).Kept k := by
  cases a1 with
  | next t => exact ho t rfl
  | fault _ => exact h
  | refused _ => exact h

theorem writeSlotReg_kept {k : Keep} {s : State} {a1 a2 a3 a4 a5} (h : s.Kept k) :
    (State.writeSlotReg s a1 a2 a3 a4 a5).Kept k := by
  unfold State.writeSlotReg
  try simp only [kept_mk, kept_mk_hif, kept_mk_mem, kept_mk_both]
  repeat' first
    | (with_reducible assumption) | (with_reducible intro _) | (with_reducible apply doorbell_kept)
    | (with_reducible apply cqTail_kept) | (with_reducible apply flushQueue_kept) | (with_reducible apply resumeQueue_kept)
    | (with_reducible apply writeFields_kept) | (with_reducible apply kept_ite)

theorem writeMbxReg_kept {k : Keep} {s : State} {a1 a2 a3 a4 a5} (h : s.Kept k) : (State.writeMbxReg s a1 a2 a3 a4 a5).Kept k := by
  unfold State.writeMbxReg
  try simp only [kept_mk, kept_mk_hif, kept_mk_mem, kept_mk_both]
  repeat' first
    | (with_reducible assumption) | (with_reducible intro _) | (with_reducible apply mbxDoorbell_kept)
    | (with_reducible apply mbxAck_kept) | (with_reducible apply mbxCancel_kept) | (with_reducible apply writeFields_kept)
    | (with_reducible apply kept_ite)

theorem writeSwCtl_kept {k : Keep} {s : State} {a1} (h : s.Kept k) : (State.writeSwCtl s a1).Kept k := by
  unfold State.writeSwCtl
  try simp only [kept_mk, kept_mk_hif, kept_mk_mem, kept_mk_both]
  repeat' first
    | (with_reducible assumption) | (with_reducible intro _) | (with_reducible apply swEnable_kept)
    | (with_reducible apply swDisable_kept) | (with_reducible apply kept_ite) | (with_reducible apply kept_ite_fst)
    | (with_reducible apply out_next) | (with_reducible apply out_ite) | (with_reducible apply kept_foldl)

theorem writeSpdAddr_kept {k : Keep} {s : State} {a1} (h : s.Kept k) : (State.writeSpdAddr s a1).Kept k := by
  unfold State.writeSpdAddr
  try simp only [kept_mk, kept_mk_hif, kept_mk_mem, kept_mk_both]
  repeat' first
    | (with_reducible assumption) | (with_reducible intro _) | (with_reducible apply wr_kept)
    | (with_reducible apply startSpdRead_kept) | (with_reducible apply kept_ite)

theorem writeReg32_kept {k : Keep} {s : State} {a1 a2 a3} (h : s.Kept k) : (State.writeReg32 s a1 a2 a3).Kept k := by
  unfold State.writeReg32
  try simp only [kept_mk, kept_mk_hif, kept_mk_mem, kept_mk_both]
  repeat' first
    | (with_reducible assumption) | (with_reducible intro _) | (with_reducible apply writeSlotReg_kept)
    | (with_reducible apply writeMbxReg_kept) | (with_reducible apply writeIMask_kept) | (with_reducible apply writeFields_kept)
    | (with_reducible apply writeEvtCtrl_kept) | (with_reducible apply writeEvtTail_kept) | (with_reducible apply writeThmCtl_kept)
    | (with_reducible apply writeLimits_kept) | (with_reducible apply writeCoolant_kept) | (with_reducible apply writeBase_kept)
    | (with_reducible apply outState_kept) | (with_reducible apply execConfigRecordWrite_kept)
    | (with_reducible apply execConfigRecordRead_kept) | (with_reducible apply execBwrClear_kept)
    | (with_reducible apply writeSwId_kept) | (with_reducible apply writeSwCtl_kept) | (with_reducible apply writeExport_kept)
    | (with_reducible apply clearHolds_kept) | (with_reducible apply writeDbg_kept) | (with_reducible apply writeSpdAddr_kept)
    | (with_reducible apply kept_ite)

theorem writeReg64_kept {k : Keep} {s : State} {a1 a2 a3 a4} (h : s.Kept k) : (State.writeReg64 s a1 a2 a3 a4).Kept k := by
  unfold State.writeReg64
  try simp only [kept_mk, kept_mk_hif, kept_mk_mem, kept_mk_both]
  repeat' first
    | (with_reducible assumption) | (with_reducible intro _) | (with_reducible apply writeFields_kept)
    | (with_reducible apply kept_ite)

theorem setLatch_kept {k : Keep} {s : State} {a1 a2} (h : s.Kept k) : (State.setLatch s a1 a2).Kept k := by
  unfold State.setLatch
  try simp only [kept_mk, kept_mk_hif, kept_mk_mem, kept_mk_both]
  repeat' first
    | (with_reducible assumption)

theorem setHold_kept {k : Keep} {s : State} {a1 a2} (h : s.Kept k) : (State.setHold s a1 a2).Kept k := by
  unfold State.setHold
  try simp only [kept_mk, kept_mk_hif, kept_mk_mem, kept_mk_both]
  repeat' first
    | (with_reducible assumption)

theorem write32_kept {k : Keep} {s : State} {a1 a2} (h : s.Kept k) : (State.write32 s a1 a2).Kept k := by
  unfold State.write32
  try simp only [kept_mk, kept_mk_hif, kept_mk_mem, kept_mk_both]
  repeat' first
    | (with_reducible assumption) | (with_reducible intro _) | (with_reducible apply writeReg32_kept)
    | (with_reducible apply setHold_kept) | (with_reducible apply writeReg64_kept) | (with_reducible apply kept_ite)
    | (with_reducible apply kept_ite_fst) | (with_reducible apply out_next) | (with_reducible apply out_ite)
    | (with_reducible apply kept_foldl) | (with_reducible apply kept_foldl_fst)
    | (with_reducible refine kept_fst ?_ (by assumption)) | (split)

theorem clearRc_kept {k : Keep} {s : State} {a1 a2} (h : s.Kept k) : (State.clearRc s a1 a2).Kept k := by
  unfold State.clearRc
  try simp only [kept_mk, kept_mk_hif, kept_mk_mem, kept_mk_both]
  repeat' first
    | (with_reducible assumption) | (with_reducible intro _) | (with_reducible apply setReg_kept) | (with_reducible apply kept_ite)
    | (with_reducible apply kept_ite_fst) | (with_reducible apply out_next) | (with_reducible apply out_ite)
    | (with_reducible apply kept_foldl)

theorem read32_kept {k : Keep} {s : State} {a1} (h : s.Kept k) : (State.read32 s a1).1.Kept k := by
  unfold State.read32
  try simp only [kept_mk, kept_mk_hif, kept_mk_mem, kept_mk_both]
  repeat' first
    | (with_reducible assumption) | (with_reducible intro _) | (with_reducible apply setLatch_kept)
    | (with_reducible apply clearRc_kept) | (with_reducible apply kept_ite) | (with_reducible apply kept_ite_fst)
    | (with_reducible apply out_next) | (with_reducible apply out_ite) | (with_reducible apply kept_foldl)
    | (with_reducible apply kept_foldl_fst) | (with_reducible refine kept_fst ?_ (by assumption)) | (split)

theorem unmaskVector_kept {k : Keep} {s : State} {a1} (h : s.Kept k) : (State.unmaskVector s a1).Kept k := by
  unfold State.unmaskVector
  try simp only [kept_mk, kept_mk_hif, kept_mk_mem, kept_mk_both]
  repeat' first
    | (with_reducible assumption) | (with_reducible intro _) | (with_reducible apply kept_ite)
    | (with_reducible apply kept_ite_fst) | (with_reducible apply out_next) | (with_reducible apply out_ite)
    | (with_reducible apply kept_foldl) | (with_reducible apply kept_foldl_fst)
    | (with_reducible refine kept_fst ?_ (by assumption)) | (split) | (simp only [kept_mk, kept_mk_hif, kept_mk_mem, kept_mk_both])

theorem bar4Write_kept {k : Keep} {s : State} {a1 a2} (h : s.Kept k) : (State.bar4Write s a1 a2).Kept k := by
  unfold State.bar4Write
  try simp only [kept_mk, kept_mk_hif, kept_mk_mem, kept_mk_both]
  repeat' first
    | (with_reducible assumption) | (with_reducible intro _) | (with_reducible apply unmaskVector_kept)
    | (with_reducible apply kept_ite) | (with_reducible apply kept_ite_fst) | (with_reducible apply out_next)
    | (with_reducible apply out_ite) | (with_reducible apply kept_foldl) | (with_reducible apply kept_foldl_fst)
    | (with_reducible refine kept_fst ?_ (by assumption)) | (split) | (simp only [kept_mk, kept_mk_hif, kept_mk_mem, kept_mk_both])

theorem regWrite_kept {k : Keep} {s : State} {a1 a2} (h : s.Kept k) : (State.regWrite s a1 a2).Kept k := by
  unfold State.regWrite
  try simp only [kept_mk, kept_mk_hif, kept_mk_mem, kept_mk_both]
  repeat' first
    | (with_reducible assumption) | (with_reducible intro _) | (with_reducible apply wr_kept)
    | (with_reducible apply bar4Write_kept) | (with_reducible apply mbxWrite_kept) | (with_reducible apply write32_kept)
    | (with_reducible apply writeReg64_kept) | (with_reducible apply kept_ite) | (with_reducible apply kept_ite_fst)
    | (with_reducible apply out_next) | (with_reducible apply out_ite) | (with_reducible apply kept_foldl)
    | (with_reducible apply kept_foldl_fst) | (with_reducible refine kept_fst ?_ (by assumption)) | (split)

theorem regRead_kept {k : Keep} {s : State} {a1} (h : s.Kept k) : (State.regRead s a1).1.Kept k := by
  unfold State.regRead
  try simp only [kept_mk, kept_mk_hif, kept_mk_mem, kept_mk_both]
  repeat' first
    | (with_reducible assumption) | (with_reducible intro _) | (with_reducible apply wr_kept) | (with_reducible apply read32_kept)
    | (with_reducible apply kept_ite) | (with_reducible apply kept_ite_fst) | (with_reducible apply out_next)
    | (with_reducible apply out_ite) | (with_reducible apply kept_foldl) | (with_reducible apply kept_foldl_fst)
    | (with_reducible refine kept_fst ?_ (by assumption)) | (split)

end Sys2Proof.Laws
end

