-- ==== Sys2Proof/Laws/KeptHostCmds.lean ====
section
/-! SUPPORT. What every operation of Machine/HostCmds.lean keeps (`State.Kept`): one lemma for each. -/
set_option linter.unusedSimpArgs false
namespace Sys2Proof.Laws
open Sys2Proof Sys2Proof.Machine

theorem execWindowRead_kept {k : Keep} {s : State} {a0 a1} (h : s.Kept k) : OutKept k (execWindowRead a0 a1 s) := by
  unfold execWindowRead
  try simp only [kept_mk, kept_mk_hif, kept_mk_mem, kept_mk_both]
  repeat' first
    | (with_reducible assumption) | (with_reducible intro _) | (with_reducible apply hostAccess_kept)
    | (with_reducible apply kept_ite) | (with_reducible apply kept_ite_fst) | (with_reducible apply out_next)
    | (with_reducible apply out_ite) | (with_reducible apply kept_foldl) | (with_reducible apply kept_foldl_fst)
    | (with_reducible refine kept_fst ?_ (by assumption)) | (split)
    | (simp only [kept_mk, kept_mk_hif, kept_mk_mem, kept_mk_both])

theorem execWindowWrite_kept {k : Keep} {s : State} {a0 a1} (h : s.Kept k) : OutKept k (execWindowWrite a0 a1 s) := by
  unfold execWindowWrite
  try simp only [kept_mk, kept_mk_hif, kept_mk_mem, kept_mk_both]
  repeat' first
    | (with_reducible assumption) | (with_reducible intro _) | (with_reducible apply hostAccess_kept)
    | (with_reducible apply kept_ite) | (with_reducible apply kept_ite_fst) | (with_reducible apply out_next)
    | (with_reducible apply out_ite) | (with_reducible apply kept_foldl) | (with_reducible apply kept_foldl_fst)
    | (with_reducible refine kept_fst ?_ (by assumption)) | (split)
    | (simp only [kept_mk, kept_mk_hif, kept_mk_mem, kept_mk_both])

theorem execRegisterWrite_kept {k : Keep} {s : State} {a0 a1} (h : s.Kept k) : OutKept k (execRegisterWrite a0 a1 s) := by
  unfold execRegisterWrite
  try simp only [kept_mk, kept_mk_hif, kept_mk_mem, kept_mk_both]
  repeat' first
    | (with_reducible assumption) | (with_reducible intro _) | (with_reducible apply fin_kept)
    | (with_reducible apply regWrite_kept)

theorem execRcRead_kept {k : Keep} {s : State} {a0} (h : s.Kept k) : OutKept k (execRcRead a0 s) := by
  unfold execRcRead
  try simp only [kept_mk, kept_mk_hif, kept_mk_mem, kept_mk_both]
  repeat' first
    | (with_reducible assumption) | (with_reducible intro _) | (with_reducible apply hostGets_kept)
    | (with_reducible apply regRead_kept) | (with_reducible apply kept_ite) | (with_reducible apply kept_ite_fst)
    | (with_reducible apply out_next)

theorem hostRead32_kept {k : Keep} {s : State} {a1} (h : s.Kept k) : (State.hostRead32 s a1).Kept k := by
  unfold State.hostRead32
  try simp only [kept_mk, kept_mk_hif, kept_mk_mem, kept_mk_both]
  repeat' first
    | (with_reducible assumption) | (with_reducible intro _) | (with_reducible apply hostGets_kept)
    | (with_reducible apply wr_kept) | (with_reducible apply read32_kept) | (with_reducible apply kept_ite)

theorem execReg64LowRead_kept {k : Keep} {s : State} {a0} (h : s.Kept k) : OutKept k (execReg64LowRead a0 s) := by
  unfold execReg64LowRead
  try simp only [kept_mk, kept_mk_hif, kept_mk_mem, kept_mk_both]
  repeat' first
    | (with_reducible assumption) | (with_reducible intro _) | (with_reducible apply hostRead32_kept)
    | (with_reducible apply kept_ite) | (with_reducible apply kept_ite_fst) | (with_reducible apply out_next)

theorem execReg64HighRead_kept {k : Keep} {s : State} {a0} (h : s.Kept k) : OutKept k (execReg64HighRead a0 s) := by
  unfold execReg64HighRead
  try simp only [kept_mk, kept_mk_hif, kept_mk_mem, kept_mk_both]
  repeat' first
    | (with_reducible assumption) | (with_reducible intro _) | (with_reducible apply hostRead32_kept)
    | (with_reducible apply kept_ite) | (with_reducible apply kept_ite_fst) | (with_reducible apply out_next)

theorem execReg64LowWrite_kept {k : Keep} {s : State} {a0 a1} (h : s.Kept k) : OutKept k (execReg64LowWrite a0 a1 s) := by
  unfold execReg64LowWrite
  try simp only [kept_mk, kept_mk_hif, kept_mk_mem, kept_mk_both]
  repeat' first
    | (with_reducible assumption) | (with_reducible intro _) | (with_reducible apply fin_kept)
    | (with_reducible apply regWrite_kept)

theorem execReg64HighWrite_kept {k : Keep} {s : State} {a0 a1} (h : s.Kept k) : OutKept k (execReg64HighWrite a0 a1 s) := by
  unfold execReg64HighWrite
  try simp only [kept_mk, kept_mk_hif, kept_mk_mem, kept_mk_both]
  repeat' first
    | (with_reducible assumption) | (with_reducible intro _) | (with_reducible apply fin_kept)
    | (with_reducible apply regWrite_kept)

theorem execInvalidRegisterAccess_kept {k : Keep} {s : State} {a0 a1} (h : s.Kept k) :
    OutKept k (execInvalidRegisterAccess a0 a1 s) := by
  unfold execInvalidRegisterAccess
  try simp only [kept_mk, kept_mk_hif, kept_mk_mem, kept_mk_both]
  repeat' first
    | (with_reducible assumption) | (with_reducible intro _) | (with_reducible apply hostGets_kept)
    | (with_reducible apply wr_kept) | (with_reducible apply kept_ite) | (with_reducible apply kept_ite_fst)
    | (with_reducible apply out_next) | (with_reducible apply out_ite)

theorem execMsixUnmask_kept {k : Keep} {s : State} {a0} (h : s.Kept k) : OutKept k (execMsixUnmask a0 s) := by
  unfold execMsixUnmask
  try simp only [kept_mk, kept_mk_hif, kept_mk_mem, kept_mk_both]
  repeat' first
    | (with_reducible assumption) | (with_reducible intro _) | (with_reducible apply unmaskVector_kept)
    | (with_reducible apply kept_ite) | (with_reducible apply kept_ite_fst) | (with_reducible apply out_next)
    | (with_reducible apply out_ite) | (with_reducible apply kept_foldl) | (with_reducible apply kept_foldl_fst)
    | (with_reducible refine kept_fst ?_ (by assumption)) | (split) | (simp only [kept_mk, kept_mk_hif, kept_mk_mem, kept_mk_both])

theorem execImaskWrite_kept {k : Keep} {s : State} {a0} (h : s.Kept k) : OutKept k (execImaskWrite a0 s) := by
  unfold execImaskWrite
  try simp only [kept_mk, kept_mk_hif, kept_mk_mem, kept_mk_both]
  repeat' first
    | (with_reducible assumption) | (with_reducible intro _) | (with_reducible apply writeIMask_kept)
    | (with_reducible apply kept_ite) | (with_reducible apply kept_ite_fst) | (with_reducible apply out_next)

theorem execAerError_kept {k : Keep} {s : State} {a0} (h : s.Kept k) : OutKept k (execAerError a0 s) := by
  unfold execAerError
  try simp only [kept_mk, kept_mk_hif, kept_mk_mem, kept_mk_both]
  repeat' first
    | (with_reducible assumption) | (with_reducible intro _) | (with_reducible apply wr_kept) | (with_reducible apply msix_kept)
    | (with_reducible apply kept_ite) | (with_reducible apply kept_ite_fst) | (with_reducible apply out_next)
    | (with_reducible apply out_ite)

theorem execFwFatal_kept {k : Keep} {s : State} {a0 a1} (h : s.Kept k) : OutKept k (execFwFatal a0 a1 s) := by
  unfold execFwFatal
  try simp only [kept_mk, kept_mk_hif, kept_mk_mem, kept_mk_both]
  repeat' first
    | (with_reducible assumption) | (with_reducible intro _) | (with_reducible apply msix_kept) | (with_reducible apply wr_kept)
    | (with_reducible apply event_kept) | (with_reducible apply kept_ite) | (with_reducible apply kept_ite_fst)
    | (with_reducible apply out_next) | (with_reducible apply out_ite) | (with_reducible apply kept_foldl)
    | (with_reducible apply kept_foldl_fst) | (with_reducible refine kept_fst ?_ (by assumption)) | (split)
    | (simp only [kept_mk, kept_mk_hif, kept_mk_mem, kept_mk_both])

theorem execEvtEnable_kept {k : Keep} {s : State} {a0} (h : s.Kept k) : OutKept k (execEvtEnable a0 s) := by
  unfold execEvtEnable
  try simp only [kept_mk, kept_mk_hif, kept_mk_mem, kept_mk_both]
  repeat' first
    | (with_reducible assumption) | (with_reducible intro _) | (with_reducible apply writeEvtCtrl_kept)
    | (with_reducible apply kept_ite) | (with_reducible apply kept_ite_fst) | (with_reducible apply out_next)

theorem execEvtTailWrite_kept {k : Keep} {s : State} {a0} (h : s.Kept k) : OutKept k (execEvtTailWrite a0 s) := by
  unfold execEvtTailWrite
  try simp only [kept_mk, kept_mk_hif, kept_mk_mem, kept_mk_both]
  repeat' first
    | (with_reducible assumption) | (with_reducible intro _) | (with_reducible apply writeEvtTail_kept)
    | (with_reducible apply kept_ite) | (with_reducible apply kept_ite_fst) | (with_reducible apply out_next)

theorem ringMessage_kept {k : Keep} {s : State} (h : s.Kept k) : (State.ringMessage s).Kept k := by
  unfold State.ringMessage
  try simp only [kept_mk, kept_mk_hif, kept_mk_mem, kept_mk_both]
  repeat' first
    | (with_reducible assumption) | (with_reducible intro _) | (with_reducible apply msix_kept) | (with_reducible apply kept_ite)
    | (with_reducible apply kept_ite_fst) | (with_reducible apply out_next) | (with_reducible apply out_ite)
    | (with_reducible apply kept_foldl) | (with_reducible apply kept_foldl_fst)
    | (with_reducible refine kept_fst ?_ (by assumption)) | (split) | (simp only [kept_mk, kept_mk_hif, kept_mk_mem, kept_mk_both])

theorem overflowRecord_kept {k : Keep} {s : State} (h : s.Kept k) : (State.overflowRecord s).Kept k := by
  unfold State.overflowRecord
  try simp only [kept_mk, kept_mk_hif, kept_mk_mem, kept_mk_both]
  repeat' first
    | (with_reducible assumption) | (with_reducible intro _) | (with_reducible apply event_kept) | (with_reducible apply kept_ite)
    | (with_reducible apply kept_ite_fst) | (with_reducible apply out_next) | (with_reducible apply out_ite)
    | (with_reducible apply kept_foldl) | (with_reducible apply kept_foldl_fst)
    | (with_reducible refine kept_fst ?_ (by assumption)) | (split) | (simp only [kept_mk, kept_mk_hif, kept_mk_mem, kept_mk_both])

theorem advanceHead_kept {k : Keep} {s : State} (h : s.Kept k) : (State.advanceHead s).Kept k := by
  unfold State.advanceHead
  try simp only [kept_mk, kept_mk_hif, kept_mk_mem, kept_mk_both]
  repeat' first
    | (with_reducible assumption) | (with_reducible intro _) | (with_reducible apply wr_kept) | (with_reducible apply kept_ite)

theorem execEventRingWrite_kept {k : Keep} {s : State} (h : s.Kept k) : OutKept k (execEventRingWrite s) := by
  unfold execEventRingWrite
  split
  · exact out_next h
  · rename_i r rest hb
    split
    · exact out_next h
    · extract_lets a s1
      have h1 : s1.Kept k := advanceHead_kept (hostWrite_kept h)
      have hr : rest.length ≤ s.hif.evtBuf.length := by rw [hb]; exact Nat.le_succ _
      have hl : k.inv = true → s.hif.evtBuf.length ≤ 513 := fun i => (h.1 i).2.2.2.2.2.1
      clear_value s1
      refine out_next (ringMessage_kept (overflowRecord_kept ⟨fun i => ?_, h1.2⟩))
      obtain ⟨q1, q2, q3, q4, q5, q6, q7⟩ := h1.1 i
      exact ⟨q1, q2, q3, q4, q5, Nat.le_trans hr (hl i), q7⟩

theorem execEventCoalesceExpiry_kept {k : Keep} {s : State} (h : s.Kept k) : OutKept k (execEventCoalesceExpiry s) := by
  unfold execEventCoalesceExpiry
  try simp only [kept_mk, kept_mk_hif, kept_mk_mem, kept_mk_both]
  repeat' first
    | (with_reducible assumption) | (with_reducible intro _) | (with_reducible apply waitTo_kept)
    | (with_reducible apply msix_kept) | (with_reducible apply kept_ite) | (with_reducible apply kept_ite_fst)
    | (with_reducible apply out_next) | (with_reducible apply out_ite) | (with_reducible apply kept_foldl)
    | (with_reducible apply kept_foldl_fst) | (with_reducible refine kept_fst ?_ (by assumption)) | (split)
    | (simp only [kept_mk, kept_mk_hif, kept_mk_mem, kept_mk_both])

end Sys2Proof.Laws
end

