-- ==== Sys2Proof/Laws/KeptPlannerCmds.lean ====
section
/-! SUPPORT. What every operation of Machine/PlannerCmds.lean keeps (`State.Kept`): one lemma for each. -/
set_option linter.unusedSimpArgs false
namespace Sys2Proof.Laws
open Sys2Proof Sys2Proof.Machine

theorem modPln_kept {k : Keep} {s : State} {a1} (h : s.Kept k) : (State.modPln s a1).Kept k := by
  unfold State.modPln
  try simp only [kept_mk, kept_mk_hif, kept_mk_mem, kept_mk_both]
  repeat' first
    | (with_reducible assumption)

theorem readyRec_kept {k : Keep} {s : State} {a1 a2} (h : s.Kept k) : (State.readyRec s a1 a2).Kept k := by
  unfold State.readyRec
  try simp only [kept_mk, kept_mk_hif, kept_mk_mem, kept_mk_both]
  repeat' first
    | (with_reducible assumption) | (with_reducible intro _) | (with_reducible apply modRec_kept)

theorem takeLoad_kept {k : Keep} {s : State} (h : s.Kept k) : (State.takeLoad s).Kept k := by
  unfold State.takeLoad
  try simp only [kept_mk, kept_mk_hif, kept_mk_mem, kept_mk_both]
  repeat' first
    | (with_reducible assumption) | (with_reducible intro _) | (with_reducible apply runRec_kept) | (with_reducible apply wr_kept)
    | (with_reducible apply modPln_kept) | (with_reducible apply kept_ite) | (with_reducible apply kept_ite_fst)
    | (with_reducible apply out_next) | (with_reducible apply out_ite) | (with_reducible apply kept_foldl)
    | (with_reducible apply kept_foldl_fst) | (with_reducible refine kept_fst ?_ (by assumption)) | (split)

theorem startReady_kept {k : Keep} {s : State} {a1 a2 a3} (h : s.Kept k) : (State.startReady s a1 a2 a3).Kept k := by
  unfold State.startReady
  try simp only [kept_mk, kept_mk_hif, kept_mk_mem, kept_mk_both]
  repeat' first
    | (with_reducible assumption) | (with_reducible intro _) | (with_reducible apply wr_kept)
    | (with_reducible apply faultRec_kept) | (with_reducible apply readyRec_kept) | (with_reducible apply kept_ite)
    | (with_reducible apply kept_ite_fst) | (with_reducible apply out_next) | (with_reducible apply out_ite)
    | (with_reducible apply kept_foldl) | (with_reducible apply kept_foldl_fst)
    | (with_reducible refine kept_fst ?_ (by assumption)) | (split)

theorem execPlan_kept {k : Keep} {s : State} {a0} (h : s.Kept k) : OutKept k (execPlan a0 s) := by
  unfold execPlan
  try simp only [kept_mk, kept_mk_hif, kept_mk_mem, kept_mk_both]
  repeat' first
    | (with_reducible assumption) | (with_reducible intro _) | (with_reducible apply fin_kept)
    | (with_reducible apply startReady_kept)

theorem execPlanStart_kept {k : Keep} {s : State} (h : s.Kept k) : OutKept k (execPlanStart s) := by
  unfold execPlanStart
  try simp only [kept_mk, kept_mk_hif, kept_mk_mem, kept_mk_both]
  repeat' first
    | (with_reducible assumption) | (with_reducible intro _) | (with_reducible apply wr_kept) | (with_reducible apply modPln_kept)
    | (with_reducible apply fin_kept) | (with_reducible apply runRec_kept) | (with_reducible apply kept_ite)
    | (with_reducible apply kept_ite_fst) | (with_reducible apply out_next) | (with_reducible apply out_ite)
    | (with_reducible apply kept_foldl) | (with_reducible apply kept_foldl_fst)
    | (with_reducible refine kept_fst ?_ (by assumption)) | (split)

theorem execPlanSearchEnd_kept {k : Keep} {s : State} {a0 a1 a2} (h : s.Kept k) : OutKept k (execPlanSearchEnd a0 a1 a2 s) := by
  unfold execPlanSearchEnd
  try simp only [kept_mk, kept_mk_hif, kept_mk_mem, kept_mk_both]
  repeat' first
    | (with_reducible assumption) | (with_reducible intro _) | (with_reducible apply waitTo_kept)
    | (with_reducible apply modPln_kept) | (with_reducible apply inc_kept) | (with_reducible apply wr_kept)
    | (with_reducible apply takeLoad_kept) | (with_reducible apply kept_ite) | (with_reducible apply kept_ite_fst)
    | (with_reducible apply out_next) | (with_reducible apply out_ite) | (with_reducible apply kept_foldl)
    | (with_reducible apply kept_foldl_fst) | (with_reducible refine kept_fst ?_ (by assumption)) | (split)
    | (simp only [kept_mk, kept_mk_hif, kept_mk_mem, kept_mk_both])

theorem execPlanOutputDone_kept {k : Keep} {s : State} (h : s.Kept k) : OutKept k (execPlanOutputDone s) := by
  unfold execPlanOutputDone
  try simp only [kept_mk, kept_mk_hif, kept_mk_mem, kept_mk_both]
  repeat' first
    | (with_reducible assumption) | (with_reducible intro _) | (with_reducible apply unlessStalled_kept)
    | (with_reducible apply objStore_kept) | (with_reducible apply modPln_kept) | (with_reducible apply wr_kept)
    | (with_reducible apply fin_kept) | (with_reducible apply spoilPlan_kept) | (with_reducible apply faultRec_kept)
    | (with_reducible apply takeLoad_kept) | (with_reducible apply deliverTraj_kept) | (with_reducible apply inc_kept)
    | (with_reducible apply raise_kept) | (with_reducible apply statusRec_kept) | (with_reducible apply completeRec_kept)
    | (with_reducible apply kept_ite) | (with_reducible apply kept_ite_fst) | (with_reducible apply out_next)
    | (with_reducible apply out_ite) | (with_reducible apply kept_foldl) | (with_reducible apply kept_foldl_fst)
    | (with_reducible refine kept_fst ?_ (by assumption)) | (split)
    | (simp only [kept_mk, kept_mk_hif, kept_mk_mem, kept_mk_both])

theorem execOccLoad_kept {k : Keep} {s : State} {a0} (h : s.Kept k) : OutKept k (execOccLoad a0 s) := by
  unfold execOccLoad
  try simp only [kept_mk, kept_mk_hif, kept_mk_mem, kept_mk_both]
  repeat' first
    | (with_reducible assumption) | (with_reducible intro _) | (with_reducible apply fin_kept)
    | (with_reducible apply takeLoad_kept) | (with_reducible apply startReady_kept)

theorem freeLoad_kept {k : Keep} {s : State} (h : s.Kept k) : (State.freeLoad s).Kept k := by
  unfold State.freeLoad
  try simp only [kept_mk, kept_mk_hif, kept_mk_mem, kept_mk_both]
  repeat' first
    | (with_reducible assumption) | (with_reducible intro _) | (with_reducible apply wr_kept) | (with_reducible apply modPln_kept)

theorem execOccLoadDone_kept {k : Keep} {s : State} (h : s.Kept k) : OutKept k (execOccLoadDone s) := by
  unfold execOccLoadDone
  try simp only [kept_mk, kept_mk_hif, kept_mk_mem, kept_mk_both]
  repeat' first
    | (with_reducible assumption) | (with_reducible intro _) | (with_reducible apply unlessStalled_kept)
    | (with_reducible apply objLoad_kept) | (with_reducible apply fin_kept) | (with_reducible apply freeLoad_kept)
    | (with_reducible apply faultRec_kept) | (with_reducible apply takeLoad_kept) | (with_reducible apply modPln_kept)
    | (with_reducible apply wr_kept) | (with_reducible apply completeRec_kept) | (with_reducible apply kept_ite)
    | (with_reducible apply kept_ite_fst) | (with_reducible apply out_next) | (with_reducible apply out_ite)
    | (with_reducible apply kept_foldl) | (with_reducible apply kept_foldl_fst)
    | (with_reducible refine kept_fst ?_ (by assumption)) | (split)
    | (simp only [kept_mk, kept_mk_hif, kept_mk_mem, kept_mk_both])

theorem execLibLoad_kept {k : Keep} {s : State} {a0} (h : s.Kept k) : OutKept k (execLibLoad a0 s) := by
  unfold execLibLoad
  try simp only [kept_mk, kept_mk_hif, kept_mk_mem, kept_mk_both]
  repeat' first
    | (with_reducible assumption) | (with_reducible intro _) | (with_reducible apply fin_kept)
    | (with_reducible apply takeLoad_kept) | (with_reducible apply startReady_kept)

theorem execLibLoadDone_kept {k : Keep} {s : State} (h : s.Kept k) : OutKept k (execLibLoadDone s) := by
  unfold execLibLoadDone
  try simp only [kept_mk, kept_mk_hif, kept_mk_mem, kept_mk_both]
  repeat' first
    | (with_reducible assumption) | (with_reducible intro _) | (with_reducible apply unlessStalled_kept)
    | (with_reducible apply objLoad_kept) | (with_reducible apply fin_kept) | (with_reducible apply freeLoad_kept)
    | (with_reducible apply faultRec_kept) | (with_reducible apply takeLoad_kept) | (with_reducible apply modPln_kept)
    | (with_reducible apply wr_kept) | (with_reducible apply completeRec_kept) | (with_reducible apply kept_ite)
    | (with_reducible apply kept_ite_fst) | (with_reducible apply out_next) | (with_reducible apply out_ite)
    | (with_reducible apply kept_foldl) | (with_reducible apply kept_foldl_fst)
    | (with_reducible refine kept_fst ?_ (by assumption)) | (split)
    | (simp only [kept_mk, kept_mk_hif, kept_mk_mem, kept_mk_both])

end Sys2Proof.Laws
end

