-- ==== Sys2Proof/Laws/KeptPortCmds.lean ====
section
/-! SUPPORT. What every operation of Machine/PortCmds.lean keeps (`State.Kept`): one lemma for each. -/
set_option linter.unusedSimpArgs false
namespace Sys2Proof.Laws
open Sys2Proof Sys2Proof.Machine

theorem setCsi_kept {k : Keep} {s : State} {a1 a2 a3} (h : s.Kept k) : (State.setCsi s a1 a2 a3).Kept k := by
  unfold State.setCsi
  try simp only [kept_mk, kept_mk_hif, kept_mk_mem, kept_mk_both]
  repeat' first
    | (with_reducible assumption)

theorem endFrame_kept {k : Keep} {s : State} {a1 a2 a3} (h : s.Kept k) : (State.endFrame s a1 a2 a3).Kept k := by
  unfold State.endFrame
  try simp only [kept_mk, kept_mk_hif, kept_mk_mem, kept_mk_both]
  repeat' first
    | (with_reducible assumption) | (with_reducible intro _) | (with_reducible apply setCsi_kept)
    | (with_reducible apply deliver_kept) | (with_reducible apply kept_ite) | (with_reducible apply kept_ite_fst)
    | (with_reducible apply out_next) | (with_reducible apply out_ite) | (with_reducible apply kept_foldl)
    | (with_reducible apply kept_foldl_fst) | (with_reducible refine kept_fst ?_ (by assumption)) | (split)

theorem startFrame_kept {k : Keep} {s : State} {a1 a2} (h : s.Kept k) : (State.startFrame s a1 a2).Kept k := by
  unfold State.startFrame
  try simp only [kept_mk, kept_mk_hif, kept_mk_mem, kept_mk_both]
  repeat' first
    | (with_reducible assumption) | (with_reducible intro _) | (with_reducible apply endFrame_kept)
    | (with_reducible apply attach_kept) | (with_reducible apply setCsi_kept) | (with_reducible apply kept_ite)
    | (with_reducible apply kept_ite_fst) | (with_reducible apply out_next) | (with_reducible apply out_ite)
    | (with_reducible apply kept_foldl) | (with_reducible apply kept_foldl_fst)
    | (with_reducible refine kept_fst ?_ (by assumption)) | (split)

theorem csiItem_kept {k : Keep} {s : State} {a1 a2} (h : s.Kept k) : (State.csiItem s a1 a2).Kept k := by
  unfold State.csiItem
  try simp only [kept_mk, kept_mk_hif, kept_mk_mem, kept_mk_both]
  repeat' first
    | (with_reducible assumption) | (with_reducible intro _) | (with_reducible apply checkItem_kept)
    | (with_reducible apply setCsi_kept) | (with_reducible apply kept_ite) | (with_reducible apply kept_ite_fst)
    | (with_reducible apply out_next) | (with_reducible apply out_ite) | (with_reducible apply kept_foldl)
    | (with_reducible apply kept_foldl_fst) | (with_reducible refine kept_fst ?_ (by assumption)) | (split)

theorem csiPayload_kept {k : Keep} {s : State} {a1 a2 a3} (h : s.Kept k) : (State.csiPayload s a1 a2 a3).Kept k := by
  unfold State.csiPayload
  try simp only [kept_mk, kept_mk_hif, kept_mk_mem, kept_mk_both]
  repeat' first
    | (with_reducible assumption) | (with_reducible intro _) | (with_reducible apply setCsi_kept) | (with_reducible apply kept_ite)

theorem execCsiPacket_kept {k : Keep} {s : State} {a0 a1 a2} (h : s.Kept k) : OutKept k (execCsiPacket a0 a1 a2 s) := by
  unfold execCsiPacket
  try simp only [kept_mk, kept_mk_hif, kept_mk_mem, kept_mk_both]
  repeat' first
    | (with_reducible assumption) | (with_reducible intro _) | (with_reducible apply heard_kept)
    | (with_reducible apply setCsi_kept) | (with_reducible apply startFrame_kept) | (with_reducible apply endFrame_kept)
    | (with_reducible apply csiPayload_kept) | (with_reducible apply csiItem_kept) | (with_reducible apply kept_ite)
    | (with_reducible apply kept_ite_fst) | (with_reducible apply out_next) | (with_reducible apply out_ite)
    | (with_reducible apply kept_foldl) | (with_reducible apply kept_foldl_fst)
    | (with_reducible refine kept_fst ?_ (by assumption)) | (split) | (simp only [kept_mk, kept_mk_hif, kept_mk_mem, kept_mk_both])

theorem execCsiStopState_kept {k : Keep} {s : State} {a0} (h : s.Kept k) : OutKept k (execCsiStopState a0 s) := by
  unfold execCsiStopState
  try simp only [kept_mk, kept_mk_hif, kept_mk_mem, kept_mk_both]
  repeat' first
    | (with_reducible assumption) | (with_reducible intro _) | (with_reducible apply kept_ite)
    | (with_reducible apply kept_ite_fst) | (with_reducible apply out_next) | (with_reducible apply out_ite)
    | (with_reducible apply kept_foldl) | (with_reducible apply kept_foldl_fst)
    | (with_reducible refine kept_fst ?_ (by assumption)) | (split) | (simp only [kept_mk, kept_mk_hif, kept_mk_mem, kept_mk_both])

theorem dropFrame_kept {k : Keep} {s : State} {a1 a2} (h : s.Kept k) : (State.dropFrame s a1 a2).Kept k := by
  unfold State.dropFrame
  try simp only [kept_mk, kept_mk_hif, kept_mk_mem, kept_mk_both]
  repeat' first
    | (with_reducible assumption) | (with_reducible intro _) | (with_reducible apply dropItem_kept)
    | (with_reducible apply kept_ite) | (with_reducible apply kept_ite_fst) | (with_reducible apply out_next)
    | (with_reducible apply out_ite) | (with_reducible apply kept_foldl) | (with_reducible apply kept_foldl_fst)
    | (with_reducible refine kept_fst ?_ (by assumption)) | (split) | (simp only [kept_mk, kept_mk_hif, kept_mk_mem, kept_mk_both])

theorem execEthFrameReceive_kept {k : Keep} {s : State} {a0 a1 a2 a3 a4} (h : s.Kept k) :
    OutKept k (execEthFrameReceive a0 a1 a2 a3 a4 s) := by
  unfold execEthFrameReceive
  try simp only [kept_mk, kept_mk_hif, kept_mk_mem, kept_mk_both]
  repeat' first
    | (with_reducible assumption) | (with_reducible intro _) | (with_reducible apply dropFrame_kept)
    | (with_reducible apply checkItem_kept) | (with_reducible apply heard_kept) | (with_reducible apply deliver_kept)
    | (with_reducible apply dropItem_kept) | (with_reducible apply attach_kept) | (with_reducible apply kept_ite)
    | (with_reducible apply kept_ite_fst) | (with_reducible apply out_next) | (with_reducible apply out_ite)
    | (with_reducible apply kept_foldl) | (with_reducible apply kept_foldl_fst)
    | (with_reducible refine kept_fst ?_ (by assumption)) | (split) | (simp only [kept_mk, kept_mk_hif, kept_mk_mem, kept_mk_both])

theorem execEthLinkUp_kept {k : Keep} {s : State} {a0} (h : s.Kept k) : OutKept k (execEthLinkUp a0 s) := by
  unfold execEthLinkUp
  try simp only [kept_mk, kept_mk_hif, kept_mk_mem, kept_mk_both]
  repeat' first
    | (with_reducible assumption) | (with_reducible intro _) | (with_reducible apply kept_ite)
    | (with_reducible apply kept_ite_fst) | (with_reducible apply out_next) | (with_reducible apply out_ite)
    | (with_reducible apply kept_foldl) | (with_reducible apply kept_foldl_fst)
    | (with_reducible refine kept_fst ?_ (by assumption)) | (split) | (simp only [kept_mk, kept_mk_hif, kept_mk_mem, kept_mk_both])

theorem execEthLinkDown_kept {k : Keep} {s : State} {a0} (h : s.Kept k) : OutKept k (execEthLinkDown a0 s) := by
  unfold execEthLinkDown
  try simp only [kept_mk, kept_mk_hif, kept_mk_mem, kept_mk_both]
  repeat' first
    | (with_reducible assumption) | (with_reducible intro _) | (with_reducible apply kept_ite)
    | (with_reducible apply kept_ite_fst) | (with_reducible apply out_next) | (with_reducible apply out_ite)
    | (with_reducible apply kept_foldl) | (with_reducible apply kept_foldl_fst)
    | (with_reducible refine kept_fst ?_ (by assumption)) | (split) | (simp only [kept_mk, kept_mk_hif, kept_mk_mem, kept_mk_both])

theorem execPortDetach_kept {k : Keep} {s : State} {a0 a1} (h : s.Kept k) : OutKept k (execPortDetach a0 a1 s) := by
  unfold execPortDetach
  try simp only [kept_mk, kept_mk_hif, kept_mk_mem, kept_mk_both]
  repeat' first
    | (with_reducible assumption) | (with_reducible intro _) | (with_reducible apply waitTo_kept)
    | (with_reducible apply detach_kept) | (with_reducible apply detachPort_kept) | (with_reducible apply kept_ite)
    | (with_reducible apply kept_ite_fst) | (with_reducible apply out_next) | (with_reducible apply out_ite)
    | (with_reducible apply kept_foldl) | (with_reducible apply kept_foldl_fst)
    | (with_reducible refine kept_fst ?_ (by assumption)) | (split)

theorem execCanMessageReceive_kept {k : Keep} {s : State} {a0 a1 a2} (h : s.Kept k) :
    OutKept k (execCanMessageReceive a0 a1 a2 s) := by
  unfold execCanMessageReceive
  try simp only [kept_mk, kept_mk_hif, kept_mk_mem, kept_mk_both]
  repeat' first
    | (with_reducible assumption) | (with_reducible intro _) | (with_reducible apply dropItem_kept)
    | (with_reducible apply controlCan_kept) | (with_reducible apply isobusMessage_kept) | (with_reducible apply kept_ite)
    | (with_reducible apply kept_ite_fst) | (with_reducible apply out_next) | (with_reducible apply out_ite)
    | (with_reducible apply kept_foldl) | (with_reducible apply kept_foldl_fst)
    | (with_reducible refine kept_fst ?_ (by assumption)) | (split) | (simp only [kept_mk, kept_mk_hif, kept_mk_mem, kept_mk_both])

theorem execCanFrameSent_kept {k : Keep} {s : State} {a0} (h : s.Kept k) : OutKept k (execCanFrameSent a0 s) := by
  unfold execCanFrameSent
  refine out_next ?_
  cases s.canNext a0.port with
  | none => exact h
  | some x => exact kept_of h rfl rfl rfl rfl rfl rfl rfl rfl rfl

theorem execIsobusClaimSettled_kept {k : Keep} {s : State} {a0} (h : s.Kept k) : OutKept k (execIsobusClaimSettled a0 s) := by
  unfold execIsobusClaimSettled
  try simp only [kept_mk, kept_mk_hif, kept_mk_mem, kept_mk_both]
  repeat' first
    | (with_reducible assumption) | (with_reducible intro _) | (with_reducible apply setIsobus_kept)
    | (with_reducible apply waitTo_kept) | (with_reducible apply kept_ite) | (with_reducible apply kept_ite_fst)
    | (with_reducible apply out_next) | (with_reducible apply out_ite)

theorem execSpiTransfer_kept {k : Keep} {s : State} {a0 a1 a2 a3} (h : s.Kept k) : OutKept k (execSpiTransfer a0 a1 a2 a3 s) := by
  unfold execSpiTransfer
  try simp only [kept_mk, kept_mk_hif, kept_mk_mem, kept_mk_both]
  repeat' first
    | (with_reducible assumption) | (with_reducible intro _) | (with_reducible apply controlSpi_kept)
    | (with_reducible apply checkItem_kept) | (with_reducible apply heard_kept) | (with_reducible apply deliver_kept)
    | (with_reducible apply dropItem_kept) | (with_reducible apply kept_ite) | (with_reducible apply kept_ite_fst)
    | (with_reducible apply out_next) | (with_reducible apply out_ite) | (with_reducible apply kept_foldl)
    | (with_reducible apply kept_foldl_fst) | (with_reducible refine kept_fst ?_ (by assumption)) | (split)
    | (simp only [kept_mk, kept_mk_hif, kept_mk_mem, kept_mk_both])

theorem execSpiDataReady_kept {k : Keep} {s : State} {a0} (h : s.Kept k) : OutKept k (execSpiDataReady a0 s) := by
  unfold execSpiDataReady
  try simp only [kept_mk, kept_mk_hif, kept_mk_mem, kept_mk_both]
  repeat' first
    | (with_reducible assumption) | (with_reducible intro _) | (with_reducible apply kept_ite)
    | (with_reducible apply kept_ite_fst) | (with_reducible apply out_next) | (with_reducible apply out_ite)
    | (with_reducible apply kept_foldl) | (with_reducible apply kept_foldl_fst)
    | (with_reducible refine kept_fst ?_ (by assumption)) | (split) | (simp only [kept_mk, kept_mk_hif, kept_mk_mem, kept_mk_both])

theorem execGpioEdge_kept {k : Keep} {s : State} {a0 a1} (h : s.Kept k) : OutKept k (execGpioEdge a0 a1 s) := by
  unfold execGpioEdge
  try simp only [kept_mk, kept_mk_hif, kept_mk_mem, kept_mk_both]
  repeat' first
    | (with_reducible assumption) | (with_reducible intro _) | (with_reducible apply controlGpio_kept)
    | (with_reducible apply kept_ite) | (with_reducible apply kept_ite_fst) | (with_reducible apply out_next)
    | (with_reducible apply out_ite) | (with_reducible apply kept_foldl) | (with_reducible apply kept_foldl_fst)
    | (with_reducible refine kept_fst ?_ (by assumption)) | (split) | (simp only [kept_mk, kept_mk_hif, kept_mk_mem, kept_mk_both])

theorem gnssSentence_kept {k : Keep} {s : State} {a1 a2 a3} (h : s.Kept k) : (State.gnssSentence s a1 a2 a3).Kept k := by
  unfold State.gnssSentence
  try simp only [kept_mk, kept_mk_hif, kept_mk_mem, kept_mk_both]
  repeat' first
    | (with_reducible assumption) | (with_reducible intro _) | (with_reducible apply heard_kept)
    | (with_reducible apply deliver_kept) | (with_reducible apply kept_ite) | (with_reducible apply kept_ite_fst)
    | (with_reducible apply out_next) | (with_reducible apply out_ite) | (with_reducible apply kept_foldl)
    | (with_reducible apply kept_foldl_fst) | (with_reducible refine kept_fst ?_ (by assumption)) | (split)
    | (simp only [kept_mk, kept_mk_hif, kept_mk_mem, kept_mk_both])

theorem execGnssUartByte_kept {k : Keep} {s : State} {a0 a1} (h : s.Kept k) : OutKept k (execGnssUartByte a0 a1 s) := by
  unfold execGnssUartByte
  try simp only [kept_mk, kept_mk_hif, kept_mk_mem, kept_mk_both]
  repeat' first
    | (with_reducible assumption) | (with_reducible intro _) | (with_reducible apply gnssSentence_kept)
    | (with_reducible apply kept_ite) | (with_reducible apply kept_ite_fst) | (with_reducible apply out_next)
    | (with_reducible apply out_ite) | (with_reducible apply kept_foldl) | (with_reducible apply kept_foldl_fst)
    | (with_reducible refine kept_fst ?_ (by assumption)) | (split)
    | (simp only [kept_mk, kept_mk_hif, kept_mk_mem, kept_mk_both])

theorem execPwmPeriodStart_kept {k : Keep} {s : State} {a0} (h : s.Kept k) : OutKept k (execPwmPeriodStart a0 s) := by
  unfold execPwmPeriodStart
  try simp only [kept_mk, kept_mk_hif, kept_mk_mem, kept_mk_both]
  repeat' first
    | (with_reducible assumption) | (with_reducible intro _) | (with_reducible apply kept_ite)
    | (with_reducible apply kept_ite_fst) | (with_reducible apply out_next) | (with_reducible apply out_ite)
    | (with_reducible apply kept_foldl) | (with_reducible apply kept_foldl_fst)
    | (with_reducible refine kept_fst ?_ (by assumption)) | (split) | (simp only [kept_mk, kept_mk_hif, kept_mk_mem, kept_mk_both])

theorem registry_kept {k : Keep} {s : State} {a1 a2 a3} (h : s.Kept k) (ha3 : ∀ x0 x1, x0.Kept k → (a3 x0 x1).Kept k) :
    (State.registry s a1 a2 a3).Kept k := by
  unfold State.registry
  try simp only [kept_mk, kept_mk_hif, kept_mk_mem, kept_mk_both]
  repeat' first
    | (with_reducible assumption) | (with_reducible intro _) | (with_reducible apply ha3) | (with_reducible apply runOp_kept)

theorem registryRead_kept {k : Keep} {s : State} {a0 a2} (h : s.Kept k) : (State.registryRead a0 s a2).Kept k := by
  unfold State.registryRead
  try simp only [kept_mk, kept_mk_hif, kept_mk_mem, kept_mk_both]
  repeat' first
    | (with_reducible assumption) | (with_reducible intro _) | (with_reducible apply objStore_kept)
    | (with_reducible apply completeRec_kept) | (with_reducible apply undefineFor_kept) | (with_reducible apply faultRec_kept)
    | (with_reducible apply kept_ite) | (with_reducible apply kept_ite_fst) | (with_reducible apply out_next)
    | (with_reducible apply out_ite) | (with_reducible apply kept_foldl) | (with_reducible apply kept_foldl_fst)
    | (with_reducible refine kept_fst ?_ (by assumption)) | (split)
    | (simp only [kept_mk, kept_mk_hif, kept_mk_mem, kept_mk_both])

theorem execRegistryRead_kept {k : Keep} {s : State} {a0} (h : s.Kept k) : OutKept k (execRegistryRead a0 s) := by
  unfold execRegistryRead
  try simp only [kept_mk, kept_mk_hif, kept_mk_mem, kept_mk_both]
  repeat' first
    | (with_reducible assumption) | (with_reducible intro _) | (with_reducible apply unlessStalled_kept)
    | (with_reducible apply fin_kept) | (with_reducible apply registry_kept) | (with_reducible apply registryRead_kept)
    | (with_reducible apply kept_ite) | (with_reducible apply kept_ite_fst) | (with_reducible apply out_next)
    | (with_reducible apply out_ite) | (with_reducible apply kept_foldl) | (with_reducible apply kept_foldl_fst)
    | (with_reducible refine kept_fst ?_ (by assumption)) | (split)
    | (simp only [kept_mk, kept_mk_hif, kept_mk_mem, kept_mk_both])

theorem execRegistryBind_kept {k : Keep} {s : State} {a0} (h : s.Kept k) : OutKept k (execRegistryBind a0 s) := by
  unfold execRegistryBind
  try simp only [kept_mk, kept_mk_hif, kept_mk_mem, kept_mk_both]
  repeat' first
    | (with_reducible assumption) | (with_reducible intro _) | (with_reducible apply fin_kept)
    | (with_reducible apply registry_kept) | (with_reducible apply completeRec_kept) | (with_reducible apply setEntry_kept)

theorem execRegistryUnbind_kept {k : Keep} {s : State} {a0} (h : s.Kept k) : OutKept k (execRegistryUnbind a0 s) := by
  unfold execRegistryUnbind
  try simp only [kept_mk, kept_mk_hif, kept_mk_mem, kept_mk_both]
  repeat' first
    | (with_reducible assumption) | (with_reducible intro _) | (with_reducible apply fin_kept)
    | (with_reducible apply registry_kept) | (with_reducible apply completeRec_kept) | (with_reducible apply setEntry_kept)

end Sys2Proof.Laws
end

