-- ==== Sys2Proof/Laws/Ops.lean ====
section
/-! SUPPORT. What the shared operations do: registers, MSI-X, events, and a request that a mailbox serves. -/
namespace Sys2Proof.Laws
open Sys2Proof Sys2Proof.Machine

variable (s : State)

/-! ## Registers -/

/-- A register just written, and every other register. -/
theorem reg_setReg_same {s : State} {a : Nat} {v : Word64} (h : s.Inv) : (s.setReg a v).reg a = v := tget_tset_same h.1
theorem reg_setReg_other {s : State} {a b : Nat} {v : Word64} (h : b ≠ a) : (s.setReg a v).reg b = s.reg b := tget_tset_other h

/-- A field of another register. -/
theorem rd_wr_other {s : State} {f g : Fld} {x : Nat} (h : g.off ≠ f.off) : (s.wr f x).rd g = s.rd g := by
  unfold State.rd State.wr; rw [reg_setReg_other h]

/-! ## MSI-X and events -/

/-- A message is sent, or its pending bit is set (R96). -/
theorem msix_cases (v : Nat) :
    (s.hif.msixEnable = true ∧ s.hif.msixMask.getLsbD v = false ∧ s.msix v = { s with hif := { s.hif with msixSent := s.hif.msixSent ++ [v] } }) ∨
    (¬(s.hif.msixEnable = true ∧ s.hif.msixMask.getLsbD v = false) ∧
      s.msix v = { s with hif := { s.hif with msixPend := s.hif.msixPend ||| (1 <<< v) } }) := by
  by_cases h : s.hif.msixEnable = true ∧ s.hif.msixMask.getLsbD v = false
  · exact .inl ⟨h.1, h.2, by unfold State.msix; rw [if_pos h]⟩
  · exact .inr ⟨h, by unfold State.msix; rw [if_neg h]⟩

@[simp] theorem msix_pending (v : Nat) : (s.msix v).pending = s.pending := by unfold State.msix; split <;> rfl
@[simp] theorem msix_tclk (v : Nat) : (s.msix v).tclk = s.tclk := by unfold State.msix; split <;> rfl
@[simp] theorem msix_free (v : Nat) : (s.msix v).free = s.free := by unfold State.msix; split <;> rfl
@[simp] theorem msix_regs (v : Nat) : (s.msix v).regs = s.regs := by unfold State.msix; split <;> rfl
@[simp] theorem msix_pkg (v : Nat) : (s.msix v).pkg = s.pkg := by unfold State.msix; split <;> rfl
@[simp] theorem msix_pwr (v : Nat) : (s.msix v).pwr = s.pwr := by unfold State.msix; split <;> rfl
@[simp] theorem msix_queues (v : Nat) : (s.msix v).queues = s.queues := by unfold State.msix; split <;> rfl
@[simp] theorem msix_objs (v : Nat) : (s.msix v).objs = s.objs := by unfold State.msix; split <;> rfl
@[simp] theorem msix_listEnds (v : Nat) : (s.msix v).listEnds = s.listEnds := by unfold State.msix; split <;> rfl
@[simp] theorem msix_listStarts (v : Nat) : (s.msix v).listStarts = s.listStarts := by unfold State.msix; split <;> rfl
@[simp] theorem msix_dram (v : Nat) : (s.msix v).dram = s.dram := by unfold State.msix; split <;> rfl
@[simp] theorem msix_poison (v : Nat) : (s.msix v).poison = s.poison := by unfold State.msix; split <;> rfl
@[simp] theorem msix_combs (v : Nat) : (s.msix v).combs = s.combs := by unfold State.msix; split <;> rfl
@[simp] theorem msix_spdRead (v : Nat) : (s.msix v).spdRead = s.spdRead := by unfold State.msix; split <;> rfl
@[simp] theorem msix_honey (v : Nat) : (s.msix v).honey = s.honey := by unfold State.msix; split <;> rfl
@[simp] theorem msix_brood (v : Nat) : (s.msix v).brood = s.brood := by unfold State.msix; split <;> rfl
@[simp] theorem msix_colonies (v : Nat) : (s.msix v).colonies = s.colonies := by unfold State.msix; split <;> rfl
@[simp] theorem msix_jobs (v : Nat) : (s.msix v).jobs = s.jobs := by unfold State.msix; split <;> rfl
@[simp] theorem msix_unsaved (v : Nat) : (s.msix v).unsaved = s.unsaved := by unfold State.msix; split <;> rfl
@[simp] theorem msix_mem (v : Nat) : (s.msix v).mem = s.mem := by unfold State.msix; split <;> rfl
@[simp] theorem msix_ports (v : Nat) : (s.msix v).ports = s.ports := by unfold State.msix; split <;> rfl
@[simp] theorem msix_servo (v : Nat) : (s.msix v).servo = s.servo := by unfold State.msix; split <;> rfl
@[simp] theorem msix_fus (v : Nat) : (s.msix v).fus = s.fus := by unfold State.msix; split <;> rfl
@[simp] theorem msix_pln (v : Nat) : (s.msix v).pln = s.pln := by unfold State.msix; split <;> rfl
@[simp] theorem msix_ctl (v : Nat) : (s.msix v).ctl = s.ctl := by unfold State.msix; split <;> rfl
@[simp] theorem msix_cv (v : Nat) : (s.msix v).cv = s.cv := by unfold State.msix; split <;> rfl
@[simp] theorem msix_saf (v : Nat) : (s.msix v).saf = s.saf := by unfold State.msix; split <;> rfl
@[simp] theorem msix_thm (v : Nat) : (s.msix v).thm = s.thm := by unfold State.msix; split <;> rfl
@[simp] theorem msix_swm (v : Nat) : (s.msix v).swm = s.swm := by unfold State.msix; split <;> rfl

@[simp] theorem event_pending (c o j t : Nat) (d : List Byte) : (s.event c o j t d).pending = s.pending := by
  unfold State.event; generalize (65536 : Nat) = n; extract_lets h r h'; split <;> rfl
@[simp] theorem event_tclk (c o j t : Nat) (d : List Byte) : (s.event c o j t d).tclk = s.tclk := by
  unfold State.event; generalize (65536 : Nat) = n; extract_lets h r h'; split <;> rfl
@[simp] theorem event_free (c o j t : Nat) (d : List Byte) : (s.event c o j t d).free = s.free := by
  unfold State.event; generalize (65536 : Nat) = n; extract_lets h r h'; split <;> rfl
@[simp] theorem event_pkg (c o j t : Nat) (d : List Byte) : (s.event c o j t d).pkg = s.pkg := by
  unfold State.event; generalize (65536 : Nat) = n; extract_lets h r h'; split <;> rfl
@[simp] theorem event_pwr (c o j t : Nat) (d : List Byte) : (s.event c o j t d).pwr = s.pwr := by
  unfold State.event; generalize (65536 : Nat) = n; extract_lets h r h'; split <;> rfl
@[simp] theorem event_queues (c o j t : Nat) (d : List Byte) : (s.event c o j t d).queues = s.queues := by
  unfold State.event; generalize (65536 : Nat) = n; extract_lets h r h'; split <;> rfl
@[simp] theorem event_objs (c o j t : Nat) (d : List Byte) : (s.event c o j t d).objs = s.objs := by
  unfold State.event; generalize (65536 : Nat) = n; extract_lets h r h'; split <;> rfl
@[simp] theorem event_listEnds (c o j t : Nat) (d : List Byte) : (s.event c o j t d).listEnds = s.listEnds := by
  unfold State.event; generalize (65536 : Nat) = n; extract_lets h r h'; split <;> rfl
@[simp] theorem event_listStarts (c o j t : Nat) (d : List Byte) : (s.event c o j t d).listStarts = s.listStarts := by
  unfold State.event; generalize (65536 : Nat) = n; extract_lets h r h'; split <;> rfl
@[simp] theorem event_dram (c o j t : Nat) (d : List Byte) : (s.event c o j t d).dram = s.dram := by
  unfold State.event; generalize (65536 : Nat) = n; extract_lets h r h'; split <;> rfl
@[simp] theorem event_poison (c o j t : Nat) (d : List Byte) : (s.event c o j t d).poison = s.poison := by
  unfold State.event; generalize (65536 : Nat) = n; extract_lets h r h'; split <;> rfl
@[simp] theorem event_combs (c o j t : Nat) (d : List Byte) : (s.event c o j t d).combs = s.combs := by
  unfold State.event; generalize (65536 : Nat) = n; extract_lets h r h'; split <;> rfl
@[simp] theorem event_spdRead (c o j t : Nat) (d : List Byte) : (s.event c o j t d).spdRead = s.spdRead := by
  unfold State.event; generalize (65536 : Nat) = n; extract_lets h r h'; split <;> rfl
@[simp] theorem event_honey (c o j t : Nat) (d : List Byte) : (s.event c o j t d).honey = s.honey := by
  unfold State.event; generalize (65536 : Nat) = n; extract_lets h r h'; split <;> rfl
@[simp] theorem event_brood (c o j t : Nat) (d : List Byte) : (s.event c o j t d).brood = s.brood := by
  unfold State.event; generalize (65536 : Nat) = n; extract_lets h r h'; split <;> rfl
@[simp] theorem event_colonies (c o j t : Nat) (d : List Byte) : (s.event c o j t d).colonies = s.colonies := by
  unfold State.event; generalize (65536 : Nat) = n; extract_lets h r h'; split <;> rfl
@[simp] theorem event_jobs (c o j t : Nat) (d : List Byte) : (s.event c o j t d).jobs = s.jobs := by
  unfold State.event; generalize (65536 : Nat) = n; extract_lets h r h'; split <;> rfl
@[simp] theorem event_unsaved (c o j t : Nat) (d : List Byte) : (s.event c o j t d).unsaved = s.unsaved := by
  unfold State.event; generalize (65536 : Nat) = n; extract_lets h r h'; split <;> rfl
@[simp] theorem event_mem (c o j t : Nat) (d : List Byte) : (s.event c o j t d).mem = s.mem := by
  unfold State.event; generalize (65536 : Nat) = n; extract_lets h r h'; split <;> rfl
@[simp] theorem event_ports (c o j t : Nat) (d : List Byte) : (s.event c o j t d).ports = s.ports := by
  unfold State.event; generalize (65536 : Nat) = n; extract_lets h r h'; split <;> rfl
@[simp] theorem event_servo (c o j t : Nat) (d : List Byte) : (s.event c o j t d).servo = s.servo := by
  unfold State.event; generalize (65536 : Nat) = n; extract_lets h r h'; split <;> rfl
@[simp] theorem event_fus (c o j t : Nat) (d : List Byte) : (s.event c o j t d).fus = s.fus := by
  unfold State.event; generalize (65536 : Nat) = n; extract_lets h r h'; split <;> rfl
@[simp] theorem event_pln (c o j t : Nat) (d : List Byte) : (s.event c o j t d).pln = s.pln := by
  unfold State.event; generalize (65536 : Nat) = n; extract_lets h r h'; split <;> rfl
@[simp] theorem event_ctl (c o j t : Nat) (d : List Byte) : (s.event c o j t d).ctl = s.ctl := by
  unfold State.event; generalize (65536 : Nat) = n; extract_lets h r h'; split <;> rfl
@[simp] theorem event_cv (c o j t : Nat) (d : List Byte) : (s.event c o j t d).cv = s.cv := by
  unfold State.event; generalize (65536 : Nat) = n; extract_lets h r h'; split <;> rfl
@[simp] theorem event_saf (c o j t : Nat) (d : List Byte) : (s.event c o j t d).saf = s.saf := by
  unfold State.event; generalize (65536 : Nat) = n; extract_lets h r h'; split <;> rfl
@[simp] theorem event_thm (c o j t : Nat) (d : List Byte) : (s.event c o j t d).thm = s.thm := by
  unfold State.event; generalize (65536 : Nat) = n; extract_lets h r h'; split <;> rfl
@[simp] theorem event_swm (c o j t : Nat) (d : List Byte) : (s.event c o j t d).swm = s.swm := by
  unfold State.event; generalize (65536 : Nat) = n; extract_lets h r h'; split <;> rfl

/-! ## Mailboxes -/

/-- A request that its mailbox serves runs its command, which answers now or later (R83-R89). -/
theorem serve_serving {s : State} {m cmd : Nat} {h : State → List Byte → BitVec 16 → State × Option Answer} (hs : s.serving m cmd) :
    s.serve m cmd h = match (h s (s.request m) (s.requestTag m)).2 with
      | some a => (h s (s.request m) (s.requestTag m)).1.answer m cmd a
      | none => (h s (s.request m) (s.requestTag m)).1 := by
  obtain ⟨h1, h2, h3, h4, h5, h6⟩ := hs
  have hc : s.servesCmd m cmd = true := by unfold State.servesCmd; simp [h1, h2, h3, h4]
  unfold State.serve
  rw [if_neg (by simp [hc])]
  dsimp only
  rw [if_neg (by simp [h5])]
  unfold State.requestTag at h6
  rw [h6]
  rfl

/-- A request that a mailbox does not serve with this command changes nothing. -/
theorem serve_other {s : State} {m cmd : Nat} {h : State → List Byte → BitVec 16 → State × Option Answer}
    (hs : s.servesCmd m cmd = false) : s.serve m cmd h = s := by
  unfold State.serve; rw [if_pos hs]

/-! ## Records -/

/-- What checks 9 and 10 of R115 give for a record that passes them. -/
theorem checks_pass {s : State} {cls : Nat} {r : Nat × Nat} (h : (s.checks cls r).1 = 0) : r.1 = 0 ∧ s.check10 cls = 0 := by
  unfold State.checks at h
  split at h
  · rename_i hr; exact absurd h hr
  · rename_i hr; exact ⟨by omega, h⟩

/-- A record that is next and passes its checks has its effect (R115). -/
theorem runOp_startable {s : State} {d op : Nat} {r : Rec} {check : Rec → Nat × Nat} {eff : State → Rec → State}
    (h : s.startable d op r check) : s.runOp d op (fun _ => true) check eff = eff (s.runRec d r.seq) r := by
  unfold State.runOp
  rw [h.1]
  dsimp only
  rw [if_neg (by rw [h.2.1]; decide), if_neg (by rw [h.2.2]; decide)]

/-- A record that is next and passes its checks is ready for its engine (R115, R388). -/
theorem startReady_startable {s : State} {d op : Nat} {r : Rec} {check : Rec → Nat × Nat} (h : s.startable d op r check) :
    s.startReady d op check = s.readyRec d r.seq := by
  unfold State.startReady
  rw [h.1]
  dsimp only
  rw [if_neg (by rw [h.2.1]; decide), if_neg (by rw [h.2.2]; decide)]

end Sys2Proof.Laws
end

