-- ==== Sys2Proof/Laws/Regs.lean ====
section
/-! SUPPORT. The register map: where its 64-bit registers lie. -/
namespace Sys2Proof.Laws
open Sys2Proof Sys2Proof.Machine

/-- The row that an offset finds is in the map, and the copy is one of its copies. -/
theorem findRegIn_mem {l : List RegDesc} {off : Nat} {x : RegDesc} {i : Nat} (h : findRegIn l off = some (x, i)) :
    x ∈ l ∧ i < x.count := by
  induction l with
  | nil => cases h
  | cons d ds ih =>
    unfold findRegIn at h
    split at h
    · rename_i j hj
      obtain ⟨rfl, rfl⟩ := Prod.mk.inj (Option.some.inj h)
      refine ⟨List.mem_cons_self, ?_⟩
      unfold RegDesc.copyAt at hj
      extract_lets size at hj
      split at hj
      · cases hj
      · split at hj
        · split at hj
          · obtain rfl := Option.some.inj hj; omega
          · cases hj
        · split at hj
          · obtain rfl := Option.some.inj hj; omega
          · cases hj
    · exact ⟨List.mem_cons_of_mem _ (ih h).1, (ih h).2⟩

/-- What holds of the offset of copy `i` of a 64-bit register. -/
def wideOk (x : RegDesc) (i : Nat) : Bool :=
  x.offAt i % 8 == 0 && (mbxBuffer (x.offAt i)).isNone && (mbxBuffer (x.offAt i + 4)).isNone && findReg (x.offAt i + 4) == some (x, i)
    && x.offAt i != 0x20

theorem wides_ok : (regMap.all fun x => (!x.wide || (List.range x.count).all (wideOk x))) = true := by
  decide +kernel

/-- A 64-bit register is aligned to 8 bytes, is no mailbox buffer, and its high half is found where its low half is. -/
theorem wide_register {base i : Nat} {x : RegDesc} (h : findReg base = some (x, i)) (hw : x.wide = true)
    (hb : x.offAt i = base) : base % 8 = 0 ∧ mbxBuffer base = none ∧ mbxBuffer (base + 4) = none ∧ findReg (base + 4) = some (x, i) ∧
      base ≠ 0x20 := by
  have hall := List.all_eq_true.1 wides_ok x (findRegIn_mem h).1
  simp only [hw, Bool.not_true, Bool.false_or] at hall
  have hk := List.all_eq_true.1 hall i (List.mem_range.2 (findRegIn_mem h).2)
  simpa [wideOk, hb, Option.isNone_iff_eq_none, and_assoc] using hk

end Sys2Proof.Laws
end

