-- ==== Sys2Proof/Laws/State.lean ====
section
/-! SUPPORT. What the small updates of State change: one lemma for each update and each field that it leaves alone. -/
namespace Sys2Proof.Laws
open Sys2Proof Sys2Proof.Machine

variable (s : State)

@[simp] theorem setReg_pending (a : Nat) (v : Word64) : (s.setReg a v).pending = s.pending := rfl
@[simp] theorem setReg_tclk (a : Nat) (v : Word64) : (s.setReg a v).tclk = s.tclk := rfl
@[simp] theorem setReg_free (a : Nat) (v : Word64) : (s.setReg a v).free = s.free := rfl
@[simp] theorem setReg_pkg (a : Nat) (v : Word64) : (s.setReg a v).pkg = s.pkg := rfl
@[simp] theorem setReg_pwr (a : Nat) (v : Word64) : (s.setReg a v).pwr = s.pwr := rfl
@[simp] theorem setReg_hif (a : Nat) (v : Word64) : (s.setReg a v).hif = s.hif := rfl
@[simp] theorem setReg_queues (a : Nat) (v : Word64) : (s.setReg a v).queues = s.queues := rfl
@[simp] theorem setReg_objs (a : Nat) (v : Word64) : (s.setReg a v).objs = s.objs := rfl
@[simp] theorem setReg_listEnds (a : Nat) (v : Word64) : (s.setReg a v).listEnds = s.listEnds := rfl
@[simp] theorem setReg_listStarts (a : Nat) (v : Word64) : (s.setReg a v).listStarts = s.listStarts := rfl
@[simp] theorem setReg_dram (a : Nat) (v : Word64) : (s.setReg a v).dram = s.dram := rfl
@[simp] theorem setReg_poison (a : Nat) (v : Word64) : (s.setReg a v).poison = s.poison := rfl
@[simp] theorem setReg_combs (a : Nat) (v : Word64) : (s.setReg a v).combs = s.combs := rfl
@[simp] theorem setReg_spdRead (a : Nat) (v : Word64) : (s.setReg a v).spdRead = s.spdRead := rfl
@[simp] theorem setReg_honey (a : Nat) (v : Word64) : (s.setReg a v).honey = s.honey := rfl
@[simp] theorem setReg_brood (a : Nat) (v : Word64) : (s.setReg a v).brood = s.brood := rfl
@[simp] theorem setReg_colonies (a : Nat) (v : Word64) : (s.setReg a v).colonies = s.colonies := rfl
@[simp] theorem setReg_jobs (a : Nat) (v : Word64) : (s.setReg a v).jobs = s.jobs := rfl
@[simp] theorem setReg_unsaved (a : Nat) (v : Word64) : (s.setReg a v).unsaved = s.unsaved := rfl
@[simp] theorem setReg_mem (a : Nat) (v : Word64) : (s.setReg a v).mem = s.mem := rfl
@[simp] theorem setReg_ports (a : Nat) (v : Word64) : (s.setReg a v).ports = s.ports := rfl
@[simp] theorem setReg_servo (a : Nat) (v : Word64) : (s.setReg a v).servo = s.servo := rfl
@[simp] theorem setReg_fus (a : Nat) (v : Word64) : (s.setReg a v).fus = s.fus := rfl
@[simp] theorem setReg_pln (a : Nat) (v : Word64) : (s.setReg a v).pln = s.pln := rfl
@[simp] theorem setReg_ctl (a : Nat) (v : Word64) : (s.setReg a v).ctl = s.ctl := rfl
@[simp] theorem setReg_cv (a : Nat) (v : Word64) : (s.setReg a v).cv = s.cv := rfl
@[simp] theorem setReg_saf (a : Nat) (v : Word64) : (s.setReg a v).saf = s.saf := rfl
@[simp] theorem setReg_thm (a : Nat) (v : Word64) : (s.setReg a v).thm = s.thm := rfl
@[simp] theorem setReg_swm (a : Nat) (v : Word64) : (s.setReg a v).swm = s.swm := rfl

@[simp] theorem wr_pending (f : Fld) (x : Nat) : (s.wr f x).pending = s.pending := rfl
@[simp] theorem wr_tclk (f : Fld) (x : Nat) : (s.wr f x).tclk = s.tclk := rfl
@[simp] theorem wr_free (f : Fld) (x : Nat) : (s.wr f x).free = s.free := rfl
@[simp] theorem wr_pkg (f : Fld) (x : Nat) : (s.wr f x).pkg = s.pkg := rfl
@[simp] theorem wr_pwr (f : Fld) (x : Nat) : (s.wr f x).pwr = s.pwr := rfl
@[simp] theorem wr_hif (f : Fld) (x : Nat) : (s.wr f x).hif = s.hif := rfl
@[simp] theorem wr_queues (f : Fld) (x : Nat) : (s.wr f x).queues = s.queues := rfl
@[simp] theorem wr_objs (f : Fld) (x : Nat) : (s.wr f x).objs = s.objs := rfl
@[simp] theorem wr_listEnds (f : Fld) (x : Nat) : (s.wr f x).listEnds = s.listEnds := rfl
@[simp] theorem wr_listStarts (f : Fld) (x : Nat) : (s.wr f x).listStarts = s.listStarts := rfl
@[simp] theorem wr_dram (f : Fld) (x : Nat) : (s.wr f x).dram = s.dram := rfl
@[simp] theorem wr_poison (f : Fld) (x : Nat) : (s.wr f x).poison = s.poison := rfl
@[simp] theorem wr_combs (f : Fld) (x : Nat) : (s.wr f x).combs = s.combs := rfl
@[simp] theorem wr_spdRead (f : Fld) (x : Nat) : (s.wr f x).spdRead = s.spdRead := rfl
@[simp] theorem wr_honey (f : Fld) (x : Nat) : (s.wr f x).honey = s.honey := rfl
@[simp] theorem wr_brood (f : Fld) (x : Nat) : (s.wr f x).brood = s.brood := rfl
@[simp] theorem wr_colonies (f : Fld) (x : Nat) : (s.wr f x).colonies = s.colonies := rfl
@[simp] theorem wr_jobs (f : Fld) (x : Nat) : (s.wr f x).jobs = s.jobs := rfl
@[simp] theorem wr_unsaved (f : Fld) (x : Nat) : (s.wr f x).unsaved = s.unsaved := rfl
@[simp] theorem wr_mem (f : Fld) (x : Nat) : (s.wr f x).mem = s.mem := rfl
@[simp] theorem wr_ports (f : Fld) (x : Nat) : (s.wr f x).ports = s.ports := rfl
@[simp] theorem wr_servo (f : Fld) (x : Nat) : (s.wr f x).servo = s.servo := rfl
@[simp] theorem wr_fus (f : Fld) (x : Nat) : (s.wr f x).fus = s.fus := rfl
@[simp] theorem wr_pln (f : Fld) (x : Nat) : (s.wr f x).pln = s.pln := rfl
@[simp] theorem wr_ctl (f : Fld) (x : Nat) : (s.wr f x).ctl = s.ctl := rfl
@[simp] theorem wr_cv (f : Fld) (x : Nat) : (s.wr f x).cv = s.cv := rfl
@[simp] theorem wr_saf (f : Fld) (x : Nat) : (s.wr f x).saf = s.saf := rfl
@[simp] theorem wr_thm (f : Fld) (x : Nat) : (s.wr f x).thm = s.thm := rfl
@[simp] theorem wr_swm (f : Fld) (x : Nat) : (s.wr f x).swm = s.swm := rfl

@[simp] theorem wrB_pending (f : Fld) (b : Bool) : (s.wrB f b).pending = s.pending := rfl
@[simp] theorem wrB_tclk (f : Fld) (b : Bool) : (s.wrB f b).tclk = s.tclk := rfl
@[simp] theorem wrB_free (f : Fld) (b : Bool) : (s.wrB f b).free = s.free := rfl
@[simp] theorem wrB_pkg (f : Fld) (b : Bool) : (s.wrB f b).pkg = s.pkg := rfl
@[simp] theorem wrB_pwr (f : Fld) (b : Bool) : (s.wrB f b).pwr = s.pwr := rfl
@[simp] theorem wrB_hif (f : Fld) (b : Bool) : (s.wrB f b).hif = s.hif := rfl
@[simp] theorem wrB_queues (f : Fld) (b : Bool) : (s.wrB f b).queues = s.queues := rfl
@[simp] theorem wrB_objs (f : Fld) (b : Bool) : (s.wrB f b).objs = s.objs := rfl
@[simp] theorem wrB_listEnds (f : Fld) (b : Bool) : (s.wrB f b).listEnds = s.listEnds := rfl
@[simp] theorem wrB_listStarts (f : Fld) (b : Bool) : (s.wrB f b).listStarts = s.listStarts := rfl
@[simp] theorem wrB_dram (f : Fld) (b : Bool) : (s.wrB f b).dram = s.dram := rfl
@[simp] theorem wrB_poison (f : Fld) (b : Bool) : (s.wrB f b).poison = s.poison := rfl
@[simp] theorem wrB_combs (f : Fld) (b : Bool) : (s.wrB f b).combs = s.combs := rfl
@[simp] theorem wrB_spdRead (f : Fld) (b : Bool) : (s.wrB f b).spdRead = s.spdRead := rfl
@[simp] theorem wrB_honey (f : Fld) (b : Bool) : (s.wrB f b).honey = s.honey := rfl
@[simp] theorem wrB_brood (f : Fld) (b : Bool) : (s.wrB f b).brood = s.brood := rfl
@[simp] theorem wrB_colonies (f : Fld) (b : Bool) : (s.wrB f b).colonies = s.colonies := rfl
@[simp] theorem wrB_jobs (f : Fld) (b : Bool) : (s.wrB f b).jobs = s.jobs := rfl
@[simp] theorem wrB_unsaved (f : Fld) (b : Bool) : (s.wrB f b).unsaved = s.unsaved := rfl
@[simp] theorem wrB_mem (f : Fld) (b : Bool) : (s.wrB f b).mem = s.mem := rfl
@[simp] theorem wrB_ports (f : Fld) (b : Bool) : (s.wrB f b).ports = s.ports := rfl
@[simp] theorem wrB_servo (f : Fld) (b : Bool) : (s.wrB f b).servo = s.servo := rfl
@[simp] theorem wrB_fus (f : Fld) (b : Bool) : (s.wrB f b).fus = s.fus := rfl
@[simp] theorem wrB_pln (f : Fld) (b : Bool) : (s.wrB f b).pln = s.pln := rfl
@[simp] theorem wrB_ctl (f : Fld) (b : Bool) : (s.wrB f b).ctl = s.ctl := rfl
@[simp] theorem wrB_cv (f : Fld) (b : Bool) : (s.wrB f b).cv = s.cv := rfl
@[simp] theorem wrB_saf (f : Fld) (b : Bool) : (s.wrB f b).saf = s.saf := rfl
@[simp] theorem wrB_thm (f : Fld) (b : Bool) : (s.wrB f b).thm = s.thm := rfl
@[simp] theorem wrB_swm (f : Fld) (b : Bool) : (s.wrB f b).swm = s.swm := rfl

@[simp] theorem inc_pending (f : Fld) (n : Nat) : (s.inc f n).pending = s.pending := rfl
@[simp] theorem inc_tclk (f : Fld) (n : Nat) : (s.inc f n).tclk = s.tclk := rfl
@[simp] theorem inc_free (f : Fld) (n : Nat) : (s.inc f n).free = s.free := rfl
@[simp] theorem inc_pkg (f : Fld) (n : Nat) : (s.inc f n).pkg = s.pkg := rfl
@[simp] theorem inc_pwr (f : Fld) (n : Nat) : (s.inc f n).pwr = s.pwr := rfl
@[simp] theorem inc_hif (f : Fld) (n : Nat) : (s.inc f n).hif = s.hif := rfl
@[simp] theorem inc_queues (f : Fld) (n : Nat) : (s.inc f n).queues = s.queues := rfl
@[simp] theorem inc_objs (f : Fld) (n : Nat) : (s.inc f n).objs = s.objs := rfl
@[simp] theorem inc_listEnds (f : Fld) (n : Nat) : (s.inc f n).listEnds = s.listEnds := rfl
@[simp] theorem inc_listStarts (f : Fld) (n : Nat) : (s.inc f n).listStarts = s.listStarts := rfl
@[simp] theorem inc_dram (f : Fld) (n : Nat) : (s.inc f n).dram = s.dram := rfl
@[simp] theorem inc_poison (f : Fld) (n : Nat) : (s.inc f n).poison = s.poison := rfl
@[simp] theorem inc_combs (f : Fld) (n : Nat) : (s.inc f n).combs = s.combs := rfl
@[simp] theorem inc_spdRead (f : Fld) (n : Nat) : (s.inc f n).spdRead = s.spdRead := rfl
@[simp] theorem inc_honey (f : Fld) (n : Nat) : (s.inc f n).honey = s.honey := rfl
@[simp] theorem inc_brood (f : Fld) (n : Nat) : (s.inc f n).brood = s.brood := rfl
@[simp] theorem inc_colonies (f : Fld) (n : Nat) : (s.inc f n).colonies = s.colonies := rfl
@[simp] theorem inc_jobs (f : Fld) (n : Nat) : (s.inc f n).jobs = s.jobs := rfl
@[simp] theorem inc_unsaved (f : Fld) (n : Nat) : (s.inc f n).unsaved = s.unsaved := rfl
@[simp] theorem inc_mem (f : Fld) (n : Nat) : (s.inc f n).mem = s.mem := rfl
@[simp] theorem inc_ports (f : Fld) (n : Nat) : (s.inc f n).ports = s.ports := rfl
@[simp] theorem inc_servo (f : Fld) (n : Nat) : (s.inc f n).servo = s.servo := rfl
@[simp] theorem inc_fus (f : Fld) (n : Nat) : (s.inc f n).fus = s.fus := rfl
@[simp] theorem inc_pln (f : Fld) (n : Nat) : (s.inc f n).pln = s.pln := rfl
@[simp] theorem inc_ctl (f : Fld) (n : Nat) : (s.inc f n).ctl = s.ctl := rfl
@[simp] theorem inc_cv (f : Fld) (n : Nat) : (s.inc f n).cv = s.cv := rfl
@[simp] theorem inc_saf (f : Fld) (n : Nat) : (s.inc f n).saf = s.saf := rfl
@[simp] theorem inc_thm (f : Fld) (n : Nat) : (s.inc f n).thm = s.thm := rfl
@[simp] theorem inc_swm (f : Fld) (n : Nat) : (s.inc f n).swm = s.swm := rfl

@[simp] theorem raise_pending (f : Fld) (n : Nat) : (s.raise f n).pending = s.pending := rfl
@[simp] theorem raise_tclk (f : Fld) (n : Nat) : (s.raise f n).tclk = s.tclk := rfl
@[simp] theorem raise_free (f : Fld) (n : Nat) : (s.raise f n).free = s.free := rfl
@[simp] theorem raise_pkg (f : Fld) (n : Nat) : (s.raise f n).pkg = s.pkg := rfl
@[simp] theorem raise_pwr (f : Fld) (n : Nat) : (s.raise f n).pwr = s.pwr := rfl
@[simp] theorem raise_hif (f : Fld) (n : Nat) : (s.raise f n).hif = s.hif := rfl
@[simp] theorem raise_queues (f : Fld) (n : Nat) : (s.raise f n).queues = s.queues := rfl
@[simp] theorem raise_objs (f : Fld) (n : Nat) : (s.raise f n).objs = s.objs := rfl
@[simp] theorem raise_listEnds (f : Fld) (n : Nat) : (s.raise f n).listEnds = s.listEnds := rfl
@[simp] theorem raise_listStarts (f : Fld) (n : Nat) : (s.raise f n).listStarts = s.listStarts := rfl
@[simp] theorem raise_dram (f : Fld) (n : Nat) : (s.raise f n).dram = s.dram := rfl
@[simp] theorem raise_poison (f : Fld) (n : Nat) : (s.raise f n).poison = s.poison := rfl
@[simp] theorem raise_combs (f : Fld) (n : Nat) : (s.raise f n).combs = s.combs := rfl
@[simp] theorem raise_spdRead (f : Fld) (n : Nat) : (s.raise f n).spdRead = s.spdRead := rfl
@[simp] theorem raise_honey (f : Fld) (n : Nat) : (s.raise f n).honey = s.honey := rfl
@[simp] theorem raise_brood (f : Fld) (n : Nat) : (s.raise f n).brood = s.brood := rfl
@[simp] theorem raise_colonies (f : Fld) (n : Nat) : (s.raise f n).colonies = s.colonies := rfl
@[simp] theorem raise_jobs (f : Fld) (n : Nat) : (s.raise f n).jobs = s.jobs := rfl
@[simp] theorem raise_unsaved (f : Fld) (n : Nat) : (s.raise f n).unsaved = s.unsaved := rfl
@[simp] theorem raise_mem (f : Fld) (n : Nat) : (s.raise f n).mem = s.mem := rfl
@[simp] theorem raise_ports (f : Fld) (n : Nat) : (s.raise f n).ports = s.ports := rfl
@[simp] theorem raise_servo (f : Fld) (n : Nat) : (s.raise f n).servo = s.servo := rfl
@[simp] theorem raise_fus (f : Fld) (n : Nat) : (s.raise f n).fus = s.fus := rfl
@[simp] theorem raise_pln (f : Fld) (n : Nat) : (s.raise f n).pln = s.pln := rfl
@[simp] theorem raise_ctl (f : Fld) (n : Nat) : (s.raise f n).ctl = s.ctl := rfl
@[simp] theorem raise_cv (f : Fld) (n : Nat) : (s.raise f n).cv = s.cv := rfl
@[simp] theorem raise_saf (f : Fld) (n : Nat) : (s.raise f n).saf = s.saf := rfl
@[simp] theorem raise_thm (f : Fld) (n : Nat) : (s.raise f n).thm = s.thm := rfl
@[simp] theorem raise_swm (f : Fld) (n : Nat) : (s.raise f n).swm = s.swm := rfl

@[simp] theorem setTime96_pending (n : Nat) : (s.setTime96 n).pending = s.pending := rfl
@[simp] theorem setTime96_tclk (n : Nat) : (s.setTime96 n).tclk = s.tclk := rfl
@[simp] theorem setTime96_free (n : Nat) : (s.setTime96 n).free = s.free := rfl
@[simp] theorem setTime96_pkg (n : Nat) : (s.setTime96 n).pkg = s.pkg := rfl
@[simp] theorem setTime96_pwr (n : Nat) : (s.setTime96 n).pwr = s.pwr := rfl
@[simp] theorem setTime96_hif (n : Nat) : (s.setTime96 n).hif = s.hif := rfl
@[simp] theorem setTime96_queues (n : Nat) : (s.setTime96 n).queues = s.queues := rfl
@[simp] theorem setTime96_objs (n : Nat) : (s.setTime96 n).objs = s.objs := rfl
@[simp] theorem setTime96_listEnds (n : Nat) : (s.setTime96 n).listEnds = s.listEnds := rfl
@[simp] theorem setTime96_listStarts (n : Nat) : (s.setTime96 n).listStarts = s.listStarts := rfl
@[simp] theorem setTime96_dram (n : Nat) : (s.setTime96 n).dram = s.dram := rfl
@[simp] theorem setTime96_poison (n : Nat) : (s.setTime96 n).poison = s.poison := rfl
@[simp] theorem setTime96_combs (n : Nat) : (s.setTime96 n).combs = s.combs := rfl
@[simp] theorem setTime96_spdRead (n : Nat) : (s.setTime96 n).spdRead = s.spdRead := rfl
@[simp] theorem setTime96_honey (n : Nat) : (s.setTime96 n).honey = s.honey := rfl
@[simp] theorem setTime96_brood (n : Nat) : (s.setTime96 n).brood = s.brood := rfl
@[simp] theorem setTime96_colonies (n : Nat) : (s.setTime96 n).colonies = s.colonies := rfl
@[simp] theorem setTime96_jobs (n : Nat) : (s.setTime96 n).jobs = s.jobs := rfl
@[simp] theorem setTime96_unsaved (n : Nat) : (s.setTime96 n).unsaved = s.unsaved := rfl
@[simp] theorem setTime96_mem (n : Nat) : (s.setTime96 n).mem = s.mem := rfl
@[simp] theorem setTime96_ports (n : Nat) : (s.setTime96 n).ports = s.ports := rfl
@[simp] theorem setTime96_servo (n : Nat) : (s.setTime96 n).servo = s.servo := rfl
@[simp] theorem setTime96_fus (n : Nat) : (s.setTime96 n).fus = s.fus := rfl
@[simp] theorem setTime96_pln (n : Nat) : (s.setTime96 n).pln = s.pln := rfl
@[simp] theorem setTime96_ctl (n : Nat) : (s.setTime96 n).ctl = s.ctl := rfl
@[simp] theorem setTime96_cv (n : Nat) : (s.setTime96 n).cv = s.cv := rfl
@[simp] theorem setTime96_saf (n : Nat) : (s.setTime96 n).saf = s.saf := rfl
@[simp] theorem setTime96_thm (n : Nat) : (s.setTime96 n).thm = s.thm := rfl
@[simp] theorem setTime96_swm (n : Nat) : (s.setTime96 n).swm = s.swm := rfl

@[simp] theorem draw_pending (n : Nat) : (s.draw n).pending = s.pending := rfl
@[simp] theorem draw_tclk (n : Nat) : (s.draw n).tclk = s.tclk := rfl
@[simp] theorem draw_regs (n : Nat) : (s.draw n).regs = s.regs := rfl
@[simp] theorem draw_pkg (n : Nat) : (s.draw n).pkg = s.pkg := rfl
@[simp] theorem draw_pwr (n : Nat) : (s.draw n).pwr = s.pwr := rfl
@[simp] theorem draw_hif (n : Nat) : (s.draw n).hif = s.hif := rfl
@[simp] theorem draw_queues (n : Nat) : (s.draw n).queues = s.queues := rfl
@[simp] theorem draw_objs (n : Nat) : (s.draw n).objs = s.objs := rfl
@[simp] theorem draw_listEnds (n : Nat) : (s.draw n).listEnds = s.listEnds := rfl
@[simp] theorem draw_listStarts (n : Nat) : (s.draw n).listStarts = s.listStarts := rfl
@[simp] theorem draw_dram (n : Nat) : (s.draw n).dram = s.dram := rfl
@[simp] theorem draw_poison (n : Nat) : (s.draw n).poison = s.poison := rfl
@[simp] theorem draw_combs (n : Nat) : (s.draw n).combs = s.combs := rfl
@[simp] theorem draw_spdRead (n : Nat) : (s.draw n).spdRead = s.spdRead := rfl
@[simp] theorem draw_honey (n : Nat) : (s.draw n).honey = s.honey := rfl
@[simp] theorem draw_brood (n : Nat) : (s.draw n).brood = s.brood := rfl
@[simp] theorem draw_colonies (n : Nat) : (s.draw n).colonies = s.colonies := rfl
@[simp] theorem draw_jobs (n : Nat) : (s.draw n).jobs = s.jobs := rfl
@[simp] theorem draw_unsaved (n : Nat) : (s.draw n).unsaved = s.unsaved := rfl
@[simp] theorem draw_mem (n : Nat) : (s.draw n).mem = s.mem := rfl
@[simp] theorem draw_ports (n : Nat) : (s.draw n).ports = s.ports := rfl
@[simp] theorem draw_servo (n : Nat) : (s.draw n).servo = s.servo := rfl
@[simp] theorem draw_fus (n : Nat) : (s.draw n).fus = s.fus := rfl
@[simp] theorem draw_pln (n : Nat) : (s.draw n).pln = s.pln := rfl
@[simp] theorem draw_ctl (n : Nat) : (s.draw n).ctl = s.ctl := rfl
@[simp] theorem draw_cv (n : Nat) : (s.draw n).cv = s.cv := rfl
@[simp] theorem draw_saf (n : Nat) : (s.draw n).saf = s.saf := rfl
@[simp] theorem draw_thm (n : Nat) : (s.draw n).thm = s.thm := rfl
@[simp] theorem draw_swm (n : Nat) : (s.draw n).swm = s.swm := rfl

@[simp] theorem hostWrite_pending (a : Nat) (bs : List Byte) : (s.hostWrite a bs).pending = s.pending := rfl
@[simp] theorem hostWrite_tclk (a : Nat) (bs : List Byte) : (s.hostWrite a bs).tclk = s.tclk := rfl
@[simp] theorem hostWrite_free (a : Nat) (bs : List Byte) : (s.hostWrite a bs).free = s.free := rfl
@[simp] theorem hostWrite_regs (a : Nat) (bs : List Byte) : (s.hostWrite a bs).regs = s.regs := rfl
@[simp] theorem hostWrite_pkg (a : Nat) (bs : List Byte) : (s.hostWrite a bs).pkg = s.pkg := rfl
@[simp] theorem hostWrite_pwr (a : Nat) (bs : List Byte) : (s.hostWrite a bs).pwr = s.pwr := rfl
@[simp] theorem hostWrite_queues (a : Nat) (bs : List Byte) : (s.hostWrite a bs).queues = s.queues := rfl
@[simp] theorem hostWrite_objs (a : Nat) (bs : List Byte) : (s.hostWrite a bs).objs = s.objs := rfl
@[simp] theorem hostWrite_listEnds (a : Nat) (bs : List Byte) : (s.hostWrite a bs).listEnds = s.listEnds := rfl
@[simp] theorem hostWrite_listStarts (a : Nat) (bs : List Byte) : (s.hostWrite a bs).listStarts = s.listStarts := rfl
@[simp] theorem hostWrite_dram (a : Nat) (bs : List Byte) : (s.hostWrite a bs).dram = s.dram := rfl
@[simp] theorem hostWrite_poison (a : Nat) (bs : List Byte) : (s.hostWrite a bs).poison = s.poison := rfl
@[simp] theorem hostWrite_combs (a : Nat) (bs : List Byte) : (s.hostWrite a bs).combs = s.combs := rfl
@[simp] theorem hostWrite_spdRead (a : Nat) (bs : List Byte) : (s.hostWrite a bs).spdRead = s.spdRead := rfl
@[simp] theorem hostWrite_honey (a : Nat) (bs : List Byte) : (s.hostWrite a bs).honey = s.honey := rfl
@[simp] theorem hostWrite_brood (a : Nat) (bs : List Byte) : (s.hostWrite a bs).brood = s.brood := rfl
@[simp] theorem hostWrite_colonies (a : Nat) (bs : List Byte) : (s.hostWrite a bs).colonies = s.colonies := rfl
@[simp] theorem hostWrite_jobs (a : Nat) (bs : List Byte) : (s.hostWrite a bs).jobs = s.jobs := rfl
@[simp] theorem hostWrite_unsaved (a : Nat) (bs : List Byte) : (s.hostWrite a bs).unsaved = s.unsaved := rfl
@[simp] theorem hostWrite_mem (a : Nat) (bs : List Byte) : (s.hostWrite a bs).mem = s.mem := rfl
@[simp] theorem hostWrite_ports (a : Nat) (bs : List Byte) : (s.hostWrite a bs).ports = s.ports := rfl
@[simp] theorem hostWrite_servo (a : Nat) (bs : List Byte) : (s.hostWrite a bs).servo = s.servo := rfl
@[simp] theorem hostWrite_fus (a : Nat) (bs : List Byte) : (s.hostWrite a bs).fus = s.fus := rfl
@[simp] theorem hostWrite_pln (a : Nat) (bs : List Byte) : (s.hostWrite a bs).pln = s.pln := rfl
@[simp] theorem hostWrite_ctl (a : Nat) (bs : List Byte) : (s.hostWrite a bs).ctl = s.ctl := rfl
@[simp] theorem hostWrite_cv (a : Nat) (bs : List Byte) : (s.hostWrite a bs).cv = s.cv := rfl
@[simp] theorem hostWrite_saf (a : Nat) (bs : List Byte) : (s.hostWrite a bs).saf = s.saf := rfl
@[simp] theorem hostWrite_thm (a : Nat) (bs : List Byte) : (s.hostWrite a bs).thm = s.thm := rfl
@[simp] theorem hostWrite_swm (a : Nat) (bs : List Byte) : (s.hostWrite a bs).swm = s.swm := rfl

@[simp] theorem hostGets_pending (r : HostRead) : (s.hostGets r).pending = s.pending := rfl
@[simp] theorem hostGets_tclk (r : HostRead) : (s.hostGets r).tclk = s.tclk := rfl
@[simp] theorem hostGets_free (r : HostRead) : (s.hostGets r).free = s.free := rfl
@[simp] theorem hostGets_regs (r : HostRead) : (s.hostGets r).regs = s.regs := rfl
@[simp] theorem hostGets_pkg (r : HostRead) : (s.hostGets r).pkg = s.pkg := rfl
@[simp] theorem hostGets_pwr (r : HostRead) : (s.hostGets r).pwr = s.pwr := rfl
@[simp] theorem hostGets_queues (r : HostRead) : (s.hostGets r).queues = s.queues := rfl
@[simp] theorem hostGets_objs (r : HostRead) : (s.hostGets r).objs = s.objs := rfl
@[simp] theorem hostGets_listEnds (r : HostRead) : (s.hostGets r).listEnds = s.listEnds := rfl
@[simp] theorem hostGets_listStarts (r : HostRead) : (s.hostGets r).listStarts = s.listStarts := rfl
@[simp] theorem hostGets_dram (r : HostRead) : (s.hostGets r).dram = s.dram := rfl
@[simp] theorem hostGets_poison (r : HostRead) : (s.hostGets r).poison = s.poison := rfl
@[simp] theorem hostGets_combs (r : HostRead) : (s.hostGets r).combs = s.combs := rfl
@[simp] theorem hostGets_spdRead (r : HostRead) : (s.hostGets r).spdRead = s.spdRead := rfl
@[simp] theorem hostGets_honey (r : HostRead) : (s.hostGets r).honey = s.honey := rfl
@[simp] theorem hostGets_brood (r : HostRead) : (s.hostGets r).brood = s.brood := rfl
@[simp] theorem hostGets_colonies (r : HostRead) : (s.hostGets r).colonies = s.colonies := rfl
@[simp] theorem hostGets_jobs (r : HostRead) : (s.hostGets r).jobs = s.jobs := rfl
@[simp] theorem hostGets_unsaved (r : HostRead) : (s.hostGets r).unsaved = s.unsaved := rfl
@[simp] theorem hostGets_mem (r : HostRead) : (s.hostGets r).mem = s.mem := rfl
@[simp] theorem hostGets_ports (r : HostRead) : (s.hostGets r).ports = s.ports := rfl
@[simp] theorem hostGets_servo (r : HostRead) : (s.hostGets r).servo = s.servo := rfl
@[simp] theorem hostGets_fus (r : HostRead) : (s.hostGets r).fus = s.fus := rfl
@[simp] theorem hostGets_pln (r : HostRead) : (s.hostGets r).pln = s.pln := rfl
@[simp] theorem hostGets_ctl (r : HostRead) : (s.hostGets r).ctl = s.ctl := rfl
@[simp] theorem hostGets_cv (r : HostRead) : (s.hostGets r).cv = s.cv := rfl
@[simp] theorem hostGets_saf (r : HostRead) : (s.hostGets r).saf = s.saf := rfl
@[simp] theorem hostGets_thm (r : HostRead) : (s.hostGets r).thm = s.thm := rfl
@[simp] theorem hostGets_swm (r : HostRead) : (s.hostGets r).swm = s.swm := rfl

@[simp] theorem setLatch_pending (a : Nat) (v : Option (BitVec 32)) : (s.setLatch a v).pending = s.pending := rfl
@[simp] theorem setLatch_tclk (a : Nat) (v : Option (BitVec 32)) : (s.setLatch a v).tclk = s.tclk := rfl
@[simp] theorem setLatch_free (a : Nat) (v : Option (BitVec 32)) : (s.setLatch a v).free = s.free := rfl
@[simp] theorem setLatch_regs (a : Nat) (v : Option (BitVec 32)) : (s.setLatch a v).regs = s.regs := rfl
@[simp] theorem setLatch_pkg (a : Nat) (v : Option (BitVec 32)) : (s.setLatch a v).pkg = s.pkg := rfl
@[simp] theorem setLatch_pwr (a : Nat) (v : Option (BitVec 32)) : (s.setLatch a v).pwr = s.pwr := rfl
@[simp] theorem setLatch_queues (a : Nat) (v : Option (BitVec 32)) : (s.setLatch a v).queues = s.queues := rfl
@[simp] theorem setLatch_objs (a : Nat) (v : Option (BitVec 32)) : (s.setLatch a v).objs = s.objs := rfl
@[simp] theorem setLatch_listEnds (a : Nat) (v : Option (BitVec 32)) : (s.setLatch a v).listEnds = s.listEnds := rfl
@[simp] theorem setLatch_listStarts (a : Nat) (v : Option (BitVec 32)) : (s.setLatch a v).listStarts = s.listStarts := rfl
@[simp] theorem setLatch_dram (a : Nat) (v : Option (BitVec 32)) : (s.setLatch a v).dram = s.dram := rfl
@[simp] theorem setLatch_poison (a : Nat) (v : Option (BitVec 32)) : (s.setLatch a v).poison = s.poison := rfl
@[simp] theorem setLatch_combs (a : Nat) (v : Option (BitVec 32)) : (s.setLatch a v).combs = s.combs := rfl
@[simp] theorem setLatch_spdRead (a : Nat) (v : Option (BitVec 32)) : (s.setLatch a v).spdRead = s.spdRead := rfl
@[simp] theorem setLatch_honey (a : Nat) (v : Option (BitVec 32)) : (s.setLatch a v).honey = s.honey := rfl
@[simp] theorem setLatch_brood (a : Nat) (v : Option (BitVec 32)) : (s.setLatch a v).brood = s.brood := rfl
@[simp] theorem setLatch_colonies (a : Nat) (v : Option (BitVec 32)) : (s.setLatch a v).colonies = s.colonies := rfl
@[simp] theorem setLatch_jobs (a : Nat) (v : Option (BitVec 32)) : (s.setLatch a v).jobs = s.jobs := rfl
@[simp] theorem setLatch_unsaved (a : Nat) (v : Option (BitVec 32)) : (s.setLatch a v).unsaved = s.unsaved := rfl
@[simp] theorem setLatch_mem (a : Nat) (v : Option (BitVec 32)) : (s.setLatch a v).mem = s.mem := rfl
@[simp] theorem setLatch_ports (a : Nat) (v : Option (BitVec 32)) : (s.setLatch a v).ports = s.ports := rfl
@[simp] theorem setLatch_servo (a : Nat) (v : Option (BitVec 32)) : (s.setLatch a v).servo = s.servo := rfl
@[simp] theorem setLatch_fus (a : Nat) (v : Option (BitVec 32)) : (s.setLatch a v).fus = s.fus := rfl
@[simp] theorem setLatch_pln (a : Nat) (v : Option (BitVec 32)) : (s.setLatch a v).pln = s.pln := rfl
@[simp] theorem setLatch_ctl (a : Nat) (v : Option (BitVec 32)) : (s.setLatch a v).ctl = s.ctl := rfl
@[simp] theorem setLatch_cv (a : Nat) (v : Option (BitVec 32)) : (s.setLatch a v).cv = s.cv := rfl
@[simp] theorem setLatch_saf (a : Nat) (v : Option (BitVec 32)) : (s.setLatch a v).saf = s.saf := rfl
@[simp] theorem setLatch_thm (a : Nat) (v : Option (BitVec 32)) : (s.setLatch a v).thm = s.thm := rfl
@[simp] theorem setLatch_swm (a : Nat) (v : Option (BitVec 32)) : (s.setLatch a v).swm = s.swm := rfl

@[simp] theorem setHold_pending (a : Nat) (v : Option (BitVec 32)) : (s.setHold a v).pending = s.pending := rfl
@[simp] theorem setHold_tclk (a : Nat) (v : Option (BitVec 32)) : (s.setHold a v).tclk = s.tclk := rfl
@[simp] theorem setHold_free (a : Nat) (v : Option (BitVec 32)) : (s.setHold a v).free = s.free := rfl
@[simp] theorem setHold_regs (a : Nat) (v : Option (BitVec 32)) : (s.setHold a v).regs = s.regs := rfl
@[simp] theorem setHold_pkg (a : Nat) (v : Option (BitVec 32)) : (s.setHold a v).pkg = s.pkg := rfl
@[simp] theorem setHold_pwr (a : Nat) (v : Option (BitVec 32)) : (s.setHold a v).pwr = s.pwr := rfl
@[simp] theorem setHold_queues (a : Nat) (v : Option (BitVec 32)) : (s.setHold a v).queues = s.queues := rfl
@[simp] theorem setHold_objs (a : Nat) (v : Option (BitVec 32)) : (s.setHold a v).objs = s.objs := rfl
@[simp] theorem setHold_listEnds (a : Nat) (v : Option (BitVec 32)) : (s.setHold a v).listEnds = s.listEnds := rfl
@[simp] theorem setHold_listStarts (a : Nat) (v : Option (BitVec 32)) : (s.setHold a v).listStarts = s.listStarts := rfl
@[simp] theorem setHold_dram (a : Nat) (v : Option (BitVec 32)) : (s.setHold a v).dram = s.dram := rfl
@[simp] theorem setHold_poison (a : Nat) (v : Option (BitVec 32)) : (s.setHold a v).poison = s.poison := rfl
@[simp] theorem setHold_combs (a : Nat) (v : Option (BitVec 32)) : (s.setHold a v).combs = s.combs := rfl
@[simp] theorem setHold_spdRead (a : Nat) (v : Option (BitVec 32)) : (s.setHold a v).spdRead = s.spdRead := rfl
@[simp] theorem setHold_honey (a : Nat) (v : Option (BitVec 32)) : (s.setHold a v).honey = s.honey := rfl
@[simp] theorem setHold_brood (a : Nat) (v : Option (BitVec 32)) : (s.setHold a v).brood = s.brood := rfl
@[simp] theorem setHold_colonies (a : Nat) (v : Option (BitVec 32)) : (s.setHold a v).colonies = s.colonies := rfl
@[simp] theorem setHold_jobs (a : Nat) (v : Option (BitVec 32)) : (s.setHold a v).jobs = s.jobs := rfl
@[simp] theorem setHold_unsaved (a : Nat) (v : Option (BitVec 32)) : (s.setHold a v).unsaved = s.unsaved := rfl
@[simp] theorem setHold_mem (a : Nat) (v : Option (BitVec 32)) : (s.setHold a v).mem = s.mem := rfl
@[simp] theorem setHold_ports (a : Nat) (v : Option (BitVec 32)) : (s.setHold a v).ports = s.ports := rfl
@[simp] theorem setHold_servo (a : Nat) (v : Option (BitVec 32)) : (s.setHold a v).servo = s.servo := rfl
@[simp] theorem setHold_fus (a : Nat) (v : Option (BitVec 32)) : (s.setHold a v).fus = s.fus := rfl
@[simp] theorem setHold_pln (a : Nat) (v : Option (BitVec 32)) : (s.setHold a v).pln = s.pln := rfl
@[simp] theorem setHold_ctl (a : Nat) (v : Option (BitVec 32)) : (s.setHold a v).ctl = s.ctl := rfl
@[simp] theorem setHold_cv (a : Nat) (v : Option (BitVec 32)) : (s.setHold a v).cv = s.cv := rfl
@[simp] theorem setHold_saf (a : Nat) (v : Option (BitVec 32)) : (s.setHold a v).saf = s.saf := rfl
@[simp] theorem setHold_thm (a : Nat) (v : Option (BitVec 32)) : (s.setHold a v).thm = s.thm := rfl
@[simp] theorem setHold_swm (a : Nat) (v : Option (BitVec 32)) : (s.setHold a v).swm = s.swm := rfl

@[simp] theorem setMbx_pending (m : Nat) (x : Mailbox) : (s.setMbx m x).pending = s.pending := rfl
@[simp] theorem setMbx_tclk (m : Nat) (x : Mailbox) : (s.setMbx m x).tclk = s.tclk := rfl
@[simp] theorem setMbx_free (m : Nat) (x : Mailbox) : (s.setMbx m x).free = s.free := rfl
@[simp] theorem setMbx_regs (m : Nat) (x : Mailbox) : (s.setMbx m x).regs = s.regs := rfl
@[simp] theorem setMbx_pkg (m : Nat) (x : Mailbox) : (s.setMbx m x).pkg = s.pkg := rfl
@[simp] theorem setMbx_pwr (m : Nat) (x : Mailbox) : (s.setMbx m x).pwr = s.pwr := rfl
@[simp] theorem setMbx_queues (m : Nat) (x : Mailbox) : (s.setMbx m x).queues = s.queues := rfl
@[simp] theorem setMbx_objs (m : Nat) (x : Mailbox) : (s.setMbx m x).objs = s.objs := rfl
@[simp] theorem setMbx_listEnds (m : Nat) (x : Mailbox) : (s.setMbx m x).listEnds = s.listEnds := rfl
@[simp] theorem setMbx_listStarts (m : Nat) (x : Mailbox) : (s.setMbx m x).listStarts = s.listStarts := rfl
@[simp] theorem setMbx_dram (m : Nat) (x : Mailbox) : (s.setMbx m x).dram = s.dram := rfl
@[simp] theorem setMbx_poison (m : Nat) (x : Mailbox) : (s.setMbx m x).poison = s.poison := rfl
@[simp] theorem setMbx_combs (m : Nat) (x : Mailbox) : (s.setMbx m x).combs = s.combs := rfl
@[simp] theorem setMbx_spdRead (m : Nat) (x : Mailbox) : (s.setMbx m x).spdRead = s.spdRead := rfl
@[simp] theorem setMbx_honey (m : Nat) (x : Mailbox) : (s.setMbx m x).honey = s.honey := rfl
@[simp] theorem setMbx_brood (m : Nat) (x : Mailbox) : (s.setMbx m x).brood = s.brood := rfl
@[simp] theorem setMbx_colonies (m : Nat) (x : Mailbox) : (s.setMbx m x).colonies = s.colonies := rfl
@[simp] theorem setMbx_jobs (m : Nat) (x : Mailbox) : (s.setMbx m x).jobs = s.jobs := rfl
@[simp] theorem setMbx_unsaved (m : Nat) (x : Mailbox) : (s.setMbx m x).unsaved = s.unsaved := rfl
@[simp] theorem setMbx_mem (m : Nat) (x : Mailbox) : (s.setMbx m x).mem = s.mem := rfl
@[simp] theorem setMbx_ports (m : Nat) (x : Mailbox) : (s.setMbx m x).ports = s.ports := rfl
@[simp] theorem setMbx_servo (m : Nat) (x : Mailbox) : (s.setMbx m x).servo = s.servo := rfl
@[simp] theorem setMbx_fus (m : Nat) (x : Mailbox) : (s.setMbx m x).fus = s.fus := rfl
@[simp] theorem setMbx_pln (m : Nat) (x : Mailbox) : (s.setMbx m x).pln = s.pln := rfl
@[simp] theorem setMbx_ctl (m : Nat) (x : Mailbox) : (s.setMbx m x).ctl = s.ctl := rfl
@[simp] theorem setMbx_cv (m : Nat) (x : Mailbox) : (s.setMbx m x).cv = s.cv := rfl
@[simp] theorem setMbx_saf (m : Nat) (x : Mailbox) : (s.setMbx m x).saf = s.saf := rfl
@[simp] theorem setMbx_thm (m : Nat) (x : Mailbox) : (s.setMbx m x).thm = s.thm := rfl
@[simp] theorem setMbx_swm (m : Nat) (x : Mailbox) : (s.setMbx m x).swm = s.swm := rfl

@[simp] theorem setQueue_pending (d : Nat) (q : Queue) : (s.setQueue d q).pending = s.pending := rfl
@[simp] theorem setQueue_tclk (d : Nat) (q : Queue) : (s.setQueue d q).tclk = s.tclk := rfl
@[simp] theorem setQueue_free (d : Nat) (q : Queue) : (s.setQueue d q).free = s.free := rfl
@[simp] theorem setQueue_regs (d : Nat) (q : Queue) : (s.setQueue d q).regs = s.regs := rfl
@[simp] theorem setQueue_pkg (d : Nat) (q : Queue) : (s.setQueue d q).pkg = s.pkg := rfl
@[simp] theorem setQueue_pwr (d : Nat) (q : Queue) : (s.setQueue d q).pwr = s.pwr := rfl
@[simp] theorem setQueue_hif (d : Nat) (q : Queue) : (s.setQueue d q).hif = s.hif := rfl
@[simp] theorem setQueue_objs (d : Nat) (q : Queue) : (s.setQueue d q).objs = s.objs := rfl
@[simp] theorem setQueue_listEnds (d : Nat) (q : Queue) : (s.setQueue d q).listEnds = s.listEnds := rfl
@[simp] theorem setQueue_listStarts (d : Nat) (q : Queue) : (s.setQueue d q).listStarts = s.listStarts := rfl
@[simp] theorem setQueue_dram (d : Nat) (q : Queue) : (s.setQueue d q).dram = s.dram := rfl
@[simp] theorem setQueue_poison (d : Nat) (q : Queue) : (s.setQueue d q).poison = s.poison := rfl
@[simp] theorem setQueue_combs (d : Nat) (q : Queue) : (s.setQueue d q).combs = s.combs := rfl
@[simp] theorem setQueue_spdRead (d : Nat) (q : Queue) : (s.setQueue d q).spdRead = s.spdRead := rfl
@[simp] theorem setQueue_honey (d : Nat) (q : Queue) : (s.setQueue d q).honey = s.honey := rfl
@[simp] theorem setQueue_brood (d : Nat) (q : Queue) : (s.setQueue d q).brood = s.brood := rfl
@[simp] theorem setQueue_colonies (d : Nat) (q : Queue) : (s.setQueue d q).colonies = s.colonies := rfl
@[simp] theorem setQueue_jobs (d : Nat) (q : Queue) : (s.setQueue d q).jobs = s.jobs := rfl
@[simp] theorem setQueue_unsaved (d : Nat) (q : Queue) : (s.setQueue d q).unsaved = s.unsaved := rfl
@[simp] theorem setQueue_mem (d : Nat) (q : Queue) : (s.setQueue d q).mem = s.mem := rfl
@[simp] theorem setQueue_ports (d : Nat) (q : Queue) : (s.setQueue d q).ports = s.ports := rfl
@[simp] theorem setQueue_servo (d : Nat) (q : Queue) : (s.setQueue d q).servo = s.servo := rfl
@[simp] theorem setQueue_fus (d : Nat) (q : Queue) : (s.setQueue d q).fus = s.fus := rfl
@[simp] theorem setQueue_pln (d : Nat) (q : Queue) : (s.setQueue d q).pln = s.pln := rfl
@[simp] theorem setQueue_ctl (d : Nat) (q : Queue) : (s.setQueue d q).ctl = s.ctl := rfl
@[simp] theorem setQueue_cv (d : Nat) (q : Queue) : (s.setQueue d q).cv = s.cv := rfl
@[simp] theorem setQueue_saf (d : Nat) (q : Queue) : (s.setQueue d q).saf = s.saf := rfl
@[simp] theorem setQueue_thm (d : Nat) (q : Queue) : (s.setQueue d q).thm = s.thm := rfl
@[simp] theorem setQueue_swm (d : Nat) (q : Queue) : (s.setQueue d q).swm = s.swm := rfl

@[simp] theorem setColony_pending (c : Nat) (x : Colony) : (s.setColony c x).pending = s.pending := rfl
@[simp] theorem setColony_tclk (c : Nat) (x : Colony) : (s.setColony c x).tclk = s.tclk := rfl
@[simp] theorem setColony_free (c : Nat) (x : Colony) : (s.setColony c x).free = s.free := rfl
@[simp] theorem setColony_regs (c : Nat) (x : Colony) : (s.setColony c x).regs = s.regs := rfl
@[simp] theorem setColony_pkg (c : Nat) (x : Colony) : (s.setColony c x).pkg = s.pkg := rfl
@[simp] theorem setColony_pwr (c : Nat) (x : Colony) : (s.setColony c x).pwr = s.pwr := rfl
@[simp] theorem setColony_hif (c : Nat) (x : Colony) : (s.setColony c x).hif = s.hif := rfl
@[simp] theorem setColony_queues (c : Nat) (x : Colony) : (s.setColony c x).queues = s.queues := rfl
@[simp] theorem setColony_objs (c : Nat) (x : Colony) : (s.setColony c x).objs = s.objs := rfl
@[simp] theorem setColony_listEnds (c : Nat) (x : Colony) : (s.setColony c x).listEnds = s.listEnds := rfl
@[simp] theorem setColony_listStarts (c : Nat) (x : Colony) : (s.setColony c x).listStarts = s.listStarts := rfl
@[simp] theorem setColony_dram (c : Nat) (x : Colony) : (s.setColony c x).dram = s.dram := rfl
@[simp] theorem setColony_poison (c : Nat) (x : Colony) : (s.setColony c x).poison = s.poison := rfl
@[simp] theorem setColony_combs (c : Nat) (x : Colony) : (s.setColony c x).combs = s.combs := rfl
@[simp] theorem setColony_spdRead (c : Nat) (x : Colony) : (s.setColony c x).spdRead = s.spdRead := rfl
@[simp] theorem setColony_honey (c : Nat) (x : Colony) : (s.setColony c x).honey = s.honey := rfl
@[simp] theorem setColony_brood (c : Nat) (x : Colony) : (s.setColony c x).brood = s.brood := rfl
@[simp] theorem setColony_jobs (c : Nat) (x : Colony) : (s.setColony c x).jobs = s.jobs := rfl
@[simp] theorem setColony_unsaved (c : Nat) (x : Colony) : (s.setColony c x).unsaved = s.unsaved := rfl
@[simp] theorem setColony_mem (c : Nat) (x : Colony) : (s.setColony c x).mem = s.mem := rfl
@[simp] theorem setColony_ports (c : Nat) (x : Colony) : (s.setColony c x).ports = s.ports := rfl
@[simp] theorem setColony_servo (c : Nat) (x : Colony) : (s.setColony c x).servo = s.servo := rfl
@[simp] theorem setColony_fus (c : Nat) (x : Colony) : (s.setColony c x).fus = s.fus := rfl
@[simp] theorem setColony_pln (c : Nat) (x : Colony) : (s.setColony c x).pln = s.pln := rfl
@[simp] theorem setColony_ctl (c : Nat) (x : Colony) : (s.setColony c x).ctl = s.ctl := rfl
@[simp] theorem setColony_cv (c : Nat) (x : Colony) : (s.setColony c x).cv = s.cv := rfl
@[simp] theorem setColony_saf (c : Nat) (x : Colony) : (s.setColony c x).saf = s.saf := rfl
@[simp] theorem setColony_thm (c : Nat) (x : Colony) : (s.setColony c x).thm = s.thm := rfl
@[simp] theorem setColony_swm (c : Nat) (x : Colony) : (s.setColony c x).swm = s.swm := rfl

@[simp] theorem setJob_pending (k : Nat) (j : Job) : (s.setJob k j).pending = s.pending := rfl
@[simp] theorem setJob_tclk (k : Nat) (j : Job) : (s.setJob k j).tclk = s.tclk := rfl
@[simp] theorem setJob_free (k : Nat) (j : Job) : (s.setJob k j).free = s.free := rfl
@[simp] theorem setJob_regs (k : Nat) (j : Job) : (s.setJob k j).regs = s.regs := rfl
@[simp] theorem setJob_pkg (k : Nat) (j : Job) : (s.setJob k j).pkg = s.pkg := rfl
@[simp] theorem setJob_pwr (k : Nat) (j : Job) : (s.setJob k j).pwr = s.pwr := rfl
@[simp] theorem setJob_hif (k : Nat) (j : Job) : (s.setJob k j).hif = s.hif := rfl
@[simp] theorem setJob_queues (k : Nat) (j : Job) : (s.setJob k j).queues = s.queues := rfl
@[simp] theorem setJob_objs (k : Nat) (j : Job) : (s.setJob k j).objs = s.objs := rfl
@[simp] theorem setJob_listEnds (k : Nat) (j : Job) : (s.setJob k j).listEnds = s.listEnds := rfl
@[simp] theorem setJob_listStarts (k : Nat) (j : Job) : (s.setJob k j).listStarts = s.listStarts := rfl
@[simp] theorem setJob_dram (k : Nat) (j : Job) : (s.setJob k j).dram = s.dram := rfl
@[simp] theorem setJob_poison (k : Nat) (j : Job) : (s.setJob k j).poison = s.poison := rfl
@[simp] theorem setJob_combs (k : Nat) (j : Job) : (s.setJob k j).combs = s.combs := rfl
@[simp] theorem setJob_spdRead (k : Nat) (j : Job) : (s.setJob k j).spdRead = s.spdRead := rfl
@[simp] theorem setJob_honey (k : Nat) (j : Job) : (s.setJob k j).honey = s.honey := rfl
@[simp] theorem setJob_brood (k : Nat) (j : Job) : (s.setJob k j).brood = s.brood := rfl
@[simp] theorem setJob_colonies (k : Nat) (j : Job) : (s.setJob k j).colonies = s.colonies := rfl
@[simp] theorem setJob_unsaved (k : Nat) (j : Job) : (s.setJob k j).unsaved = s.unsaved := rfl
@[simp] theorem setJob_mem (k : Nat) (j : Job) : (s.setJob k j).mem = s.mem := rfl
@[simp] theorem setJob_ports (k : Nat) (j : Job) : (s.setJob k j).ports = s.ports := rfl
@[simp] theorem setJob_servo (k : Nat) (j : Job) : (s.setJob k j).servo = s.servo := rfl
@[simp] theorem setJob_fus (k : Nat) (j : Job) : (s.setJob k j).fus = s.fus := rfl
@[simp] theorem setJob_pln (k : Nat) (j : Job) : (s.setJob k j).pln = s.pln := rfl
@[simp] theorem setJob_ctl (k : Nat) (j : Job) : (s.setJob k j).ctl = s.ctl := rfl
@[simp] theorem setJob_cv (k : Nat) (j : Job) : (s.setJob k j).cv = s.cv := rfl
@[simp] theorem setJob_saf (k : Nat) (j : Job) : (s.setJob k j).saf = s.saf := rfl
@[simp] theorem setJob_thm (k : Nat) (j : Job) : (s.setJob k j).thm = s.thm := rfl
@[simp] theorem setJob_swm (k : Nat) (j : Job) : (s.setJob k j).swm = s.swm := rfl

@[simp] theorem modPkg_pending (f : Package → Package) : (s.modPkg f).pending = s.pending := rfl
@[simp] theorem modPkg_tclk (f : Package → Package) : (s.modPkg f).tclk = s.tclk := rfl
@[simp] theorem modPkg_free (f : Package → Package) : (s.modPkg f).free = s.free := rfl
@[simp] theorem modPkg_regs (f : Package → Package) : (s.modPkg f).regs = s.regs := rfl
@[simp] theorem modPkg_pwr (f : Package → Package) : (s.modPkg f).pwr = s.pwr := rfl
@[simp] theorem modPkg_hif (f : Package → Package) : (s.modPkg f).hif = s.hif := rfl
@[simp] theorem modPkg_queues (f : Package → Package) : (s.modPkg f).queues = s.queues := rfl
@[simp] theorem modPkg_objs (f : Package → Package) : (s.modPkg f).objs = s.objs := rfl
@[simp] theorem modPkg_listEnds (f : Package → Package) : (s.modPkg f).listEnds = s.listEnds := rfl
@[simp] theorem modPkg_listStarts (f : Package → Package) : (s.modPkg f).listStarts = s.listStarts := rfl
@[simp] theorem modPkg_dram (f : Package → Package) : (s.modPkg f).dram = s.dram := rfl
@[simp] theorem modPkg_poison (f : Package → Package) : (s.modPkg f).poison = s.poison := rfl
@[simp] theorem modPkg_combs (f : Package → Package) : (s.modPkg f).combs = s.combs := rfl
@[simp] theorem modPkg_spdRead (f : Package → Package) : (s.modPkg f).spdRead = s.spdRead := rfl
@[simp] theorem modPkg_honey (f : Package → Package) : (s.modPkg f).honey = s.honey := rfl
@[simp] theorem modPkg_brood (f : Package → Package) : (s.modPkg f).brood = s.brood := rfl
@[simp] theorem modPkg_colonies (f : Package → Package) : (s.modPkg f).colonies = s.colonies := rfl
@[simp] theorem modPkg_jobs (f : Package → Package) : (s.modPkg f).jobs = s.jobs := rfl
@[simp] theorem modPkg_unsaved (f : Package → Package) : (s.modPkg f).unsaved = s.unsaved := rfl
@[simp] theorem modPkg_mem (f : Package → Package) : (s.modPkg f).mem = s.mem := rfl
@[simp] theorem modPkg_ports (f : Package → Package) : (s.modPkg f).ports = s.ports := rfl
@[simp] theorem modPkg_servo (f : Package → Package) : (s.modPkg f).servo = s.servo := rfl
@[simp] theorem modPkg_fus (f : Package → Package) : (s.modPkg f).fus = s.fus := rfl
@[simp] theorem modPkg_pln (f : Package → Package) : (s.modPkg f).pln = s.pln := rfl
@[simp] theorem modPkg_ctl (f : Package → Package) : (s.modPkg f).ctl = s.ctl := rfl
@[simp] theorem modPkg_cv (f : Package → Package) : (s.modPkg f).cv = s.cv := rfl
@[simp] theorem modPkg_saf (f : Package → Package) : (s.modPkg f).saf = s.saf := rfl
@[simp] theorem modPkg_thm (f : Package → Package) : (s.modPkg f).thm = s.thm := rfl
@[simp] theorem modPkg_swm (f : Package → Package) : (s.modPkg f).swm = s.swm := rfl

@[simp] theorem modPwr_pending (f : Power → Power) : (s.modPwr f).pending = s.pending := rfl
@[simp] theorem modPwr_tclk (f : Power → Power) : (s.modPwr f).tclk = s.tclk := rfl
@[simp] theorem modPwr_free (f : Power → Power) : (s.modPwr f).free = s.free := rfl
@[simp] theorem modPwr_regs (f : Power → Power) : (s.modPwr f).regs = s.regs := rfl
@[simp] theorem modPwr_pkg (f : Power → Power) : (s.modPwr f).pkg = s.pkg := rfl
@[simp] theorem modPwr_hif (f : Power → Power) : (s.modPwr f).hif = s.hif := rfl
@[simp] theorem modPwr_queues (f : Power → Power) : (s.modPwr f).queues = s.queues := rfl
@[simp] theorem modPwr_objs (f : Power → Power) : (s.modPwr f).objs = s.objs := rfl
@[simp] theorem modPwr_listEnds (f : Power → Power) : (s.modPwr f).listEnds = s.listEnds := rfl
@[simp] theorem modPwr_listStarts (f : Power → Power) : (s.modPwr f).listStarts = s.listStarts := rfl
@[simp] theorem modPwr_dram (f : Power → Power) : (s.modPwr f).dram = s.dram := rfl
@[simp] theorem modPwr_poison (f : Power → Power) : (s.modPwr f).poison = s.poison := rfl
@[simp] theorem modPwr_combs (f : Power → Power) : (s.modPwr f).combs = s.combs := rfl
@[simp] theorem modPwr_spdRead (f : Power → Power) : (s.modPwr f).spdRead = s.spdRead := rfl
@[simp] theorem modPwr_honey (f : Power → Power) : (s.modPwr f).honey = s.honey := rfl
@[simp] theorem modPwr_brood (f : Power → Power) : (s.modPwr f).brood = s.brood := rfl
@[simp] theorem modPwr_colonies (f : Power → Power) : (s.modPwr f).colonies = s.colonies := rfl
@[simp] theorem modPwr_jobs (f : Power → Power) : (s.modPwr f).jobs = s.jobs := rfl
@[simp] theorem modPwr_unsaved (f : Power → Power) : (s.modPwr f).unsaved = s.unsaved := rfl
@[simp] theorem modPwr_mem (f : Power → Power) : (s.modPwr f).mem = s.mem := rfl
@[simp] theorem modPwr_ports (f : Power → Power) : (s.modPwr f).ports = s.ports := rfl
@[simp] theorem modPwr_servo (f : Power → Power) : (s.modPwr f).servo = s.servo := rfl
@[simp] theorem modPwr_fus (f : Power → Power) : (s.modPwr f).fus = s.fus := rfl
@[simp] theorem modPwr_pln (f : Power → Power) : (s.modPwr f).pln = s.pln := rfl
@[simp] theorem modPwr_ctl (f : Power → Power) : (s.modPwr f).ctl = s.ctl := rfl
@[simp] theorem modPwr_cv (f : Power → Power) : (s.modPwr f).cv = s.cv := rfl
@[simp] theorem modPwr_saf (f : Power → Power) : (s.modPwr f).saf = s.saf := rfl
@[simp] theorem modPwr_thm (f : Power → Power) : (s.modPwr f).thm = s.thm := rfl
@[simp] theorem modPwr_swm (f : Power → Power) : (s.modPwr f).swm = s.swm := rfl

@[simp] theorem modSwm_pending (f : Swarm → Swarm) : (s.modSwm f).pending = s.pending := rfl
@[simp] theorem modSwm_tclk (f : Swarm → Swarm) : (s.modSwm f).tclk = s.tclk := rfl
@[simp] theorem modSwm_free (f : Swarm → Swarm) : (s.modSwm f).free = s.free := rfl
@[simp] theorem modSwm_regs (f : Swarm → Swarm) : (s.modSwm f).regs = s.regs := rfl
@[simp] theorem modSwm_pkg (f : Swarm → Swarm) : (s.modSwm f).pkg = s.pkg := rfl
@[simp] theorem modSwm_pwr (f : Swarm → Swarm) : (s.modSwm f).pwr = s.pwr := rfl
@[simp] theorem modSwm_hif (f : Swarm → Swarm) : (s.modSwm f).hif = s.hif := rfl
@[simp] theorem modSwm_queues (f : Swarm → Swarm) : (s.modSwm f).queues = s.queues := rfl
@[simp] theorem modSwm_objs (f : Swarm → Swarm) : (s.modSwm f).objs = s.objs := rfl
@[simp] theorem modSwm_listEnds (f : Swarm → Swarm) : (s.modSwm f).listEnds = s.listEnds := rfl
@[simp] theorem modSwm_listStarts (f : Swarm → Swarm) : (s.modSwm f).listStarts = s.listStarts := rfl
@[simp] theorem modSwm_dram (f : Swarm → Swarm) : (s.modSwm f).dram = s.dram := rfl
@[simp] theorem modSwm_poison (f : Swarm → Swarm) : (s.modSwm f).poison = s.poison := rfl
@[simp] theorem modSwm_combs (f : Swarm → Swarm) : (s.modSwm f).combs = s.combs := rfl
@[simp] theorem modSwm_spdRead (f : Swarm → Swarm) : (s.modSwm f).spdRead = s.spdRead := rfl
@[simp] theorem modSwm_honey (f : Swarm → Swarm) : (s.modSwm f).honey = s.honey := rfl
@[simp] theorem modSwm_brood (f : Swarm → Swarm) : (s.modSwm f).brood = s.brood := rfl
@[simp] theorem modSwm_colonies (f : Swarm → Swarm) : (s.modSwm f).colonies = s.colonies := rfl
@[simp] theorem modSwm_jobs (f : Swarm → Swarm) : (s.modSwm f).jobs = s.jobs := rfl
@[simp] theorem modSwm_unsaved (f : Swarm → Swarm) : (s.modSwm f).unsaved = s.unsaved := rfl
@[simp] theorem modSwm_mem (f : Swarm → Swarm) : (s.modSwm f).mem = s.mem := rfl
@[simp] theorem modSwm_ports (f : Swarm → Swarm) : (s.modSwm f).ports = s.ports := rfl
@[simp] theorem modSwm_servo (f : Swarm → Swarm) : (s.modSwm f).servo = s.servo := rfl
@[simp] theorem modSwm_fus (f : Swarm → Swarm) : (s.modSwm f).fus = s.fus := rfl
@[simp] theorem modSwm_pln (f : Swarm → Swarm) : (s.modSwm f).pln = s.pln := rfl
@[simp] theorem modSwm_ctl (f : Swarm → Swarm) : (s.modSwm f).ctl = s.ctl := rfl
@[simp] theorem modSwm_cv (f : Swarm → Swarm) : (s.modSwm f).cv = s.cv := rfl
@[simp] theorem modSwm_saf (f : Swarm → Swarm) : (s.modSwm f).saf = s.saf := rfl
@[simp] theorem modSwm_thm (f : Swarm → Swarm) : (s.modSwm f).thm = s.thm := rfl

@[simp] theorem modPort_pending (n : Nat) (f : SwPort → SwPort) : (s.modPort n f).pending = s.pending := rfl
@[simp] theorem modPort_tclk (n : Nat) (f : SwPort → SwPort) : (s.modPort n f).tclk = s.tclk := rfl
@[simp] theorem modPort_free (n : Nat) (f : SwPort → SwPort) : (s.modPort n f).free = s.free := rfl
@[simp] theorem modPort_regs (n : Nat) (f : SwPort → SwPort) : (s.modPort n f).regs = s.regs := rfl
@[simp] theorem modPort_pkg (n : Nat) (f : SwPort → SwPort) : (s.modPort n f).pkg = s.pkg := rfl
@[simp] theorem modPort_pwr (n : Nat) (f : SwPort → SwPort) : (s.modPort n f).pwr = s.pwr := rfl
@[simp] theorem modPort_hif (n : Nat) (f : SwPort → SwPort) : (s.modPort n f).hif = s.hif := rfl
@[simp] theorem modPort_queues (n : Nat) (f : SwPort → SwPort) : (s.modPort n f).queues = s.queues := rfl
@[simp] theorem modPort_objs (n : Nat) (f : SwPort → SwPort) : (s.modPort n f).objs = s.objs := rfl
@[simp] theorem modPort_listEnds (n : Nat) (f : SwPort → SwPort) : (s.modPort n f).listEnds = s.listEnds := rfl
@[simp] theorem modPort_listStarts (n : Nat) (f : SwPort → SwPort) : (s.modPort n f).listStarts = s.listStarts := rfl
@[simp] theorem modPort_dram (n : Nat) (f : SwPort → SwPort) : (s.modPort n f).dram = s.dram := rfl
@[simp] theorem modPort_poison (n : Nat) (f : SwPort → SwPort) : (s.modPort n f).poison = s.poison := rfl
@[simp] theorem modPort_combs (n : Nat) (f : SwPort → SwPort) : (s.modPort n f).combs = s.combs := rfl
@[simp] theorem modPort_spdRead (n : Nat) (f : SwPort → SwPort) : (s.modPort n f).spdRead = s.spdRead := rfl
@[simp] theorem modPort_honey (n : Nat) (f : SwPort → SwPort) : (s.modPort n f).honey = s.honey := rfl
@[simp] theorem modPort_brood (n : Nat) (f : SwPort → SwPort) : (s.modPort n f).brood = s.brood := rfl
@[simp] theorem modPort_colonies (n : Nat) (f : SwPort → SwPort) : (s.modPort n f).colonies = s.colonies := rfl
@[simp] theorem modPort_jobs (n : Nat) (f : SwPort → SwPort) : (s.modPort n f).jobs = s.jobs := rfl
@[simp] theorem modPort_unsaved (n : Nat) (f : SwPort → SwPort) : (s.modPort n f).unsaved = s.unsaved := rfl
@[simp] theorem modPort_mem (n : Nat) (f : SwPort → SwPort) : (s.modPort n f).mem = s.mem := rfl
@[simp] theorem modPort_ports (n : Nat) (f : SwPort → SwPort) : (s.modPort n f).ports = s.ports := rfl
@[simp] theorem modPort_servo (n : Nat) (f : SwPort → SwPort) : (s.modPort n f).servo = s.servo := rfl
@[simp] theorem modPort_fus (n : Nat) (f : SwPort → SwPort) : (s.modPort n f).fus = s.fus := rfl
@[simp] theorem modPort_pln (n : Nat) (f : SwPort → SwPort) : (s.modPort n f).pln = s.pln := rfl
@[simp] theorem modPort_ctl (n : Nat) (f : SwPort → SwPort) : (s.modPort n f).ctl = s.ctl := rfl
@[simp] theorem modPort_cv (n : Nat) (f : SwPort → SwPort) : (s.modPort n f).cv = s.cv := rfl
@[simp] theorem modPort_saf (n : Nat) (f : SwPort → SwPort) : (s.modPort n f).saf = s.saf := rfl
@[simp] theorem modPort_thm (n : Nat) (f : SwPort → SwPort) : (s.modPort n f).thm = s.thm := rfl

@[simp] theorem modPln_pending (f : Planner → Planner) : (s.modPln f).pending = s.pending := rfl
@[simp] theorem modPln_tclk (f : Planner → Planner) : (s.modPln f).tclk = s.tclk := rfl
@[simp] theorem modPln_free (f : Planner → Planner) : (s.modPln f).free = s.free := rfl
@[simp] theorem modPln_regs (f : Planner → Planner) : (s.modPln f).regs = s.regs := rfl
@[simp] theorem modPln_pkg (f : Planner → Planner) : (s.modPln f).pkg = s.pkg := rfl
@[simp] theorem modPln_pwr (f : Planner → Planner) : (s.modPln f).pwr = s.pwr := rfl
@[simp] theorem modPln_hif (f : Planner → Planner) : (s.modPln f).hif = s.hif := rfl
@[simp] theorem modPln_queues (f : Planner → Planner) : (s.modPln f).queues = s.queues := rfl
@[simp] theorem modPln_objs (f : Planner → Planner) : (s.modPln f).objs = s.objs := rfl
@[simp] theorem modPln_listEnds (f : Planner → Planner) : (s.modPln f).listEnds = s.listEnds := rfl
@[simp] theorem modPln_listStarts (f : Planner → Planner) : (s.modPln f).listStarts = s.listStarts := rfl
@[simp] theorem modPln_dram (f : Planner → Planner) : (s.modPln f).dram = s.dram := rfl
@[simp] theorem modPln_poison (f : Planner → Planner) : (s.modPln f).poison = s.poison := rfl
@[simp] theorem modPln_combs (f : Planner → Planner) : (s.modPln f).combs = s.combs := rfl
@[simp] theorem modPln_spdRead (f : Planner → Planner) : (s.modPln f).spdRead = s.spdRead := rfl
@[simp] theorem modPln_honey (f : Planner → Planner) : (s.modPln f).honey = s.honey := rfl
@[simp] theorem modPln_brood (f : Planner → Planner) : (s.modPln f).brood = s.brood := rfl
@[simp] theorem modPln_colonies (f : Planner → Planner) : (s.modPln f).colonies = s.colonies := rfl
@[simp] theorem modPln_jobs (f : Planner → Planner) : (s.modPln f).jobs = s.jobs := rfl
@[simp] theorem modPln_unsaved (f : Planner → Planner) : (s.modPln f).unsaved = s.unsaved := rfl
@[simp] theorem modPln_mem (f : Planner → Planner) : (s.modPln f).mem = s.mem := rfl
@[simp] theorem modPln_ports (f : Planner → Planner) : (s.modPln f).ports = s.ports := rfl
@[simp] theorem modPln_servo (f : Planner → Planner) : (s.modPln f).servo = s.servo := rfl
@[simp] theorem modPln_fus (f : Planner → Planner) : (s.modPln f).fus = s.fus := rfl
@[simp] theorem modPln_ctl (f : Planner → Planner) : (s.modPln f).ctl = s.ctl := rfl
@[simp] theorem modPln_cv (f : Planner → Planner) : (s.modPln f).cv = s.cv := rfl
@[simp] theorem modPln_saf (f : Planner → Planner) : (s.modPln f).saf = s.saf := rfl
@[simp] theorem modPln_thm (f : Planner → Planner) : (s.modPln f).thm = s.thm := rfl
@[simp] theorem modPln_swm (f : Planner → Planner) : (s.modPln f).swm = s.swm := rfl

@[simp] theorem modDom_pending (e : Nat) (f : Domain → Domain) : (s.modDom e f).pending = s.pending := rfl
@[simp] theorem modDom_tclk (e : Nat) (f : Domain → Domain) : (s.modDom e f).tclk = s.tclk := rfl
@[simp] theorem modDom_free (e : Nat) (f : Domain → Domain) : (s.modDom e f).free = s.free := rfl
@[simp] theorem modDom_regs (e : Nat) (f : Domain → Domain) : (s.modDom e f).regs = s.regs := rfl
@[simp] theorem modDom_pkg (e : Nat) (f : Domain → Domain) : (s.modDom e f).pkg = s.pkg := rfl
@[simp] theorem modDom_pwr (e : Nat) (f : Domain → Domain) : (s.modDom e f).pwr = s.pwr := rfl
@[simp] theorem modDom_hif (e : Nat) (f : Domain → Domain) : (s.modDom e f).hif = s.hif := rfl
@[simp] theorem modDom_queues (e : Nat) (f : Domain → Domain) : (s.modDom e f).queues = s.queues := rfl
@[simp] theorem modDom_objs (e : Nat) (f : Domain → Domain) : (s.modDom e f).objs = s.objs := rfl
@[simp] theorem modDom_listEnds (e : Nat) (f : Domain → Domain) : (s.modDom e f).listEnds = s.listEnds := rfl
@[simp] theorem modDom_listStarts (e : Nat) (f : Domain → Domain) : (s.modDom e f).listStarts = s.listStarts := rfl
@[simp] theorem modDom_dram (e : Nat) (f : Domain → Domain) : (s.modDom e f).dram = s.dram := rfl
@[simp] theorem modDom_poison (e : Nat) (f : Domain → Domain) : (s.modDom e f).poison = s.poison := rfl
@[simp] theorem modDom_combs (e : Nat) (f : Domain → Domain) : (s.modDom e f).combs = s.combs := rfl
@[simp] theorem modDom_spdRead (e : Nat) (f : Domain → Domain) : (s.modDom e f).spdRead = s.spdRead := rfl
@[simp] theorem modDom_honey (e : Nat) (f : Domain → Domain) : (s.modDom e f).honey = s.honey := rfl
@[simp] theorem modDom_brood (e : Nat) (f : Domain → Domain) : (s.modDom e f).brood = s.brood := rfl
@[simp] theorem modDom_colonies (e : Nat) (f : Domain → Domain) : (s.modDom e f).colonies = s.colonies := rfl
@[simp] theorem modDom_jobs (e : Nat) (f : Domain → Domain) : (s.modDom e f).jobs = s.jobs := rfl
@[simp] theorem modDom_unsaved (e : Nat) (f : Domain → Domain) : (s.modDom e f).unsaved = s.unsaved := rfl
@[simp] theorem modDom_mem (e : Nat) (f : Domain → Domain) : (s.modDom e f).mem = s.mem := rfl
@[simp] theorem modDom_ports (e : Nat) (f : Domain → Domain) : (s.modDom e f).ports = s.ports := rfl
@[simp] theorem modDom_servo (e : Nat) (f : Domain → Domain) : (s.modDom e f).servo = s.servo := rfl
@[simp] theorem modDom_fus (e : Nat) (f : Domain → Domain) : (s.modDom e f).fus = s.fus := rfl
@[simp] theorem modDom_pln (e : Nat) (f : Domain → Domain) : (s.modDom e f).pln = s.pln := rfl
@[simp] theorem modDom_ctl (e : Nat) (f : Domain → Domain) : (s.modDom e f).ctl = s.ctl := rfl
@[simp] theorem modDom_cv (e : Nat) (f : Domain → Domain) : (s.modDom e f).cv = s.cv := rfl
@[simp] theorem modDom_saf (e : Nat) (f : Domain → Domain) : (s.modDom e f).saf = s.saf := rfl
@[simp] theorem modDom_swm (e : Nat) (f : Domain → Domain) : (s.modDom e f).swm = s.swm := rfl

@[simp] theorem setLoop_pending (n : Nat) (l : Loop) : (s.setLoop n l).pending = s.pending := rfl
@[simp] theorem setLoop_tclk (n : Nat) (l : Loop) : (s.setLoop n l).tclk = s.tclk := rfl
@[simp] theorem setLoop_free (n : Nat) (l : Loop) : (s.setLoop n l).free = s.free := rfl
@[simp] theorem setLoop_regs (n : Nat) (l : Loop) : (s.setLoop n l).regs = s.regs := rfl
@[simp] theorem setLoop_pkg (n : Nat) (l : Loop) : (s.setLoop n l).pkg = s.pkg := rfl
@[simp] theorem setLoop_pwr (n : Nat) (l : Loop) : (s.setLoop n l).pwr = s.pwr := rfl
@[simp] theorem setLoop_hif (n : Nat) (l : Loop) : (s.setLoop n l).hif = s.hif := rfl
@[simp] theorem setLoop_queues (n : Nat) (l : Loop) : (s.setLoop n l).queues = s.queues := rfl
@[simp] theorem setLoop_objs (n : Nat) (l : Loop) : (s.setLoop n l).objs = s.objs := rfl
@[simp] theorem setLoop_listEnds (n : Nat) (l : Loop) : (s.setLoop n l).listEnds = s.listEnds := rfl
@[simp] theorem setLoop_listStarts (n : Nat) (l : Loop) : (s.setLoop n l).listStarts = s.listStarts := rfl
@[simp] theorem setLoop_dram (n : Nat) (l : Loop) : (s.setLoop n l).dram = s.dram := rfl
@[simp] theorem setLoop_poison (n : Nat) (l : Loop) : (s.setLoop n l).poison = s.poison := rfl
@[simp] theorem setLoop_combs (n : Nat) (l : Loop) : (s.setLoop n l).combs = s.combs := rfl
@[simp] theorem setLoop_spdRead (n : Nat) (l : Loop) : (s.setLoop n l).spdRead = s.spdRead := rfl
@[simp] theorem setLoop_honey (n : Nat) (l : Loop) : (s.setLoop n l).honey = s.honey := rfl
@[simp] theorem setLoop_brood (n : Nat) (l : Loop) : (s.setLoop n l).brood = s.brood := rfl
@[simp] theorem setLoop_colonies (n : Nat) (l : Loop) : (s.setLoop n l).colonies = s.colonies := rfl
@[simp] theorem setLoop_jobs (n : Nat) (l : Loop) : (s.setLoop n l).jobs = s.jobs := rfl
@[simp] theorem setLoop_unsaved (n : Nat) (l : Loop) : (s.setLoop n l).unsaved = s.unsaved := rfl
@[simp] theorem setLoop_mem (n : Nat) (l : Loop) : (s.setLoop n l).mem = s.mem := rfl
@[simp] theorem setLoop_ports (n : Nat) (l : Loop) : (s.setLoop n l).ports = s.ports := rfl
@[simp] theorem setLoop_servo (n : Nat) (l : Loop) : (s.setLoop n l).servo = s.servo := rfl
@[simp] theorem setLoop_fus (n : Nat) (l : Loop) : (s.setLoop n l).fus = s.fus := rfl
@[simp] theorem setLoop_pln (n : Nat) (l : Loop) : (s.setLoop n l).pln = s.pln := rfl
@[simp] theorem setLoop_cv (n : Nat) (l : Loop) : (s.setLoop n l).cv = s.cv := rfl
@[simp] theorem setLoop_saf (n : Nat) (l : Loop) : (s.setLoop n l).saf = s.saf := rfl
@[simp] theorem setLoop_thm (n : Nat) (l : Loop) : (s.setLoop n l).thm = s.thm := rfl
@[simp] theorem setLoop_swm (n : Nat) (l : Loop) : (s.setLoop n l).swm = s.swm := rfl

@[simp] theorem setDmc_pending (d : Nat) (x : Dmc) : (s.setDmc d x).pending = s.pending := rfl
@[simp] theorem setDmc_tclk (d : Nat) (x : Dmc) : (s.setDmc d x).tclk = s.tclk := rfl
@[simp] theorem setDmc_free (d : Nat) (x : Dmc) : (s.setDmc d x).free = s.free := rfl
@[simp] theorem setDmc_regs (d : Nat) (x : Dmc) : (s.setDmc d x).regs = s.regs := rfl
@[simp] theorem setDmc_pkg (d : Nat) (x : Dmc) : (s.setDmc d x).pkg = s.pkg := rfl
@[simp] theorem setDmc_pwr (d : Nat) (x : Dmc) : (s.setDmc d x).pwr = s.pwr := rfl
@[simp] theorem setDmc_hif (d : Nat) (x : Dmc) : (s.setDmc d x).hif = s.hif := rfl
@[simp] theorem setDmc_queues (d : Nat) (x : Dmc) : (s.setDmc d x).queues = s.queues := rfl
@[simp] theorem setDmc_objs (d : Nat) (x : Dmc) : (s.setDmc d x).objs = s.objs := rfl
@[simp] theorem setDmc_listEnds (d : Nat) (x : Dmc) : (s.setDmc d x).listEnds = s.listEnds := rfl
@[simp] theorem setDmc_listStarts (d : Nat) (x : Dmc) : (s.setDmc d x).listStarts = s.listStarts := rfl
@[simp] theorem setDmc_dram (d : Nat) (x : Dmc) : (s.setDmc d x).dram = s.dram := rfl
@[simp] theorem setDmc_poison (d : Nat) (x : Dmc) : (s.setDmc d x).poison = s.poison := rfl
@[simp] theorem setDmc_combs (d : Nat) (x : Dmc) : (s.setDmc d x).combs = s.combs := rfl
@[simp] theorem setDmc_spdRead (d : Nat) (x : Dmc) : (s.setDmc d x).spdRead = s.spdRead := rfl
@[simp] theorem setDmc_honey (d : Nat) (x : Dmc) : (s.setDmc d x).honey = s.honey := rfl
@[simp] theorem setDmc_brood (d : Nat) (x : Dmc) : (s.setDmc d x).brood = s.brood := rfl
@[simp] theorem setDmc_colonies (d : Nat) (x : Dmc) : (s.setDmc d x).colonies = s.colonies := rfl
@[simp] theorem setDmc_jobs (d : Nat) (x : Dmc) : (s.setDmc d x).jobs = s.jobs := rfl
@[simp] theorem setDmc_unsaved (d : Nat) (x : Dmc) : (s.setDmc d x).unsaved = s.unsaved := rfl
@[simp] theorem setDmc_ports (d : Nat) (x : Dmc) : (s.setDmc d x).ports = s.ports := rfl
@[simp] theorem setDmc_servo (d : Nat) (x : Dmc) : (s.setDmc d x).servo = s.servo := rfl
@[simp] theorem setDmc_fus (d : Nat) (x : Dmc) : (s.setDmc d x).fus = s.fus := rfl
@[simp] theorem setDmc_pln (d : Nat) (x : Dmc) : (s.setDmc d x).pln = s.pln := rfl
@[simp] theorem setDmc_ctl (d : Nat) (x : Dmc) : (s.setDmc d x).ctl = s.ctl := rfl
@[simp] theorem setDmc_cv (d : Nat) (x : Dmc) : (s.setDmc d x).cv = s.cv := rfl
@[simp] theorem setDmc_saf (d : Nat) (x : Dmc) : (s.setDmc d x).saf = s.saf := rfl
@[simp] theorem setDmc_thm (d : Nat) (x : Dmc) : (s.setDmc d x).thm = s.thm := rfl
@[simp] theorem setDmc_swm (d : Nat) (x : Dmc) : (s.setDmc d x).swm = s.swm := rfl

@[simp] theorem poisonWord_pending (w : Nat) : (s.poisonWord w).pending = s.pending := rfl
@[simp] theorem poisonWord_tclk (w : Nat) : (s.poisonWord w).tclk = s.tclk := rfl
@[simp] theorem poisonWord_free (w : Nat) : (s.poisonWord w).free = s.free := rfl
@[simp] theorem poisonWord_regs (w : Nat) : (s.poisonWord w).regs = s.regs := rfl
@[simp] theorem poisonWord_pkg (w : Nat) : (s.poisonWord w).pkg = s.pkg := rfl
@[simp] theorem poisonWord_pwr (w : Nat) : (s.poisonWord w).pwr = s.pwr := rfl
@[simp] theorem poisonWord_hif (w : Nat) : (s.poisonWord w).hif = s.hif := rfl
@[simp] theorem poisonWord_queues (w : Nat) : (s.poisonWord w).queues = s.queues := rfl
@[simp] theorem poisonWord_objs (w : Nat) : (s.poisonWord w).objs = s.objs := rfl
@[simp] theorem poisonWord_listEnds (w : Nat) : (s.poisonWord w).listEnds = s.listEnds := rfl
@[simp] theorem poisonWord_listStarts (w : Nat) : (s.poisonWord w).listStarts = s.listStarts := rfl
@[simp] theorem poisonWord_dram (w : Nat) : (s.poisonWord w).dram = s.dram := rfl
@[simp] theorem poisonWord_combs (w : Nat) : (s.poisonWord w).combs = s.combs := rfl
@[simp] theorem poisonWord_spdRead (w : Nat) : (s.poisonWord w).spdRead = s.spdRead := rfl
@[simp] theorem poisonWord_honey (w : Nat) : (s.poisonWord w).honey = s.honey := rfl
@[simp] theorem poisonWord_brood (w : Nat) : (s.poisonWord w).brood = s.brood := rfl
@[simp] theorem poisonWord_colonies (w : Nat) : (s.poisonWord w).colonies = s.colonies := rfl
@[simp] theorem poisonWord_jobs (w : Nat) : (s.poisonWord w).jobs = s.jobs := rfl
@[simp] theorem poisonWord_unsaved (w : Nat) : (s.poisonWord w).unsaved = s.unsaved := rfl
@[simp] theorem poisonWord_mem (w : Nat) : (s.poisonWord w).mem = s.mem := rfl
@[simp] theorem poisonWord_ports (w : Nat) : (s.poisonWord w).ports = s.ports := rfl
@[simp] theorem poisonWord_servo (w : Nat) : (s.poisonWord w).servo = s.servo := rfl
@[simp] theorem poisonWord_fus (w : Nat) : (s.poisonWord w).fus = s.fus := rfl
@[simp] theorem poisonWord_pln (w : Nat) : (s.poisonWord w).pln = s.pln := rfl
@[simp] theorem poisonWord_ctl (w : Nat) : (s.poisonWord w).ctl = s.ctl := rfl
@[simp] theorem poisonWord_cv (w : Nat) : (s.poisonWord w).cv = s.cv := rfl
@[simp] theorem poisonWord_saf (w : Nat) : (s.poisonWord w).saf = s.saf := rfl
@[simp] theorem poisonWord_thm (w : Nat) : (s.poisonWord w).thm = s.thm := rfl
@[simp] theorem poisonWord_swm (w : Nat) : (s.poisonWord w).swm = s.swm := rfl

@[simp] theorem zeroRange_pending (a n : Nat) : (s.zeroRange a n).pending = s.pending := rfl
@[simp] theorem zeroRange_tclk (a n : Nat) : (s.zeroRange a n).tclk = s.tclk := rfl
@[simp] theorem zeroRange_free (a n : Nat) : (s.zeroRange a n).free = s.free := rfl
@[simp] theorem zeroRange_regs (a n : Nat) : (s.zeroRange a n).regs = s.regs := rfl
@[simp] theorem zeroRange_pkg (a n : Nat) : (s.zeroRange a n).pkg = s.pkg := rfl
@[simp] theorem zeroRange_pwr (a n : Nat) : (s.zeroRange a n).pwr = s.pwr := rfl
@[simp] theorem zeroRange_hif (a n : Nat) : (s.zeroRange a n).hif = s.hif := rfl
@[simp] theorem zeroRange_queues (a n : Nat) : (s.zeroRange a n).queues = s.queues := rfl
@[simp] theorem zeroRange_objs (a n : Nat) : (s.zeroRange a n).objs = s.objs := rfl
@[simp] theorem zeroRange_listEnds (a n : Nat) : (s.zeroRange a n).listEnds = s.listEnds := rfl
@[simp] theorem zeroRange_listStarts (a n : Nat) : (s.zeroRange a n).listStarts = s.listStarts := rfl
@[simp] theorem zeroRange_combs (a n : Nat) : (s.zeroRange a n).combs = s.combs := rfl
@[simp] theorem zeroRange_spdRead (a n : Nat) : (s.zeroRange a n).spdRead = s.spdRead := rfl
@[simp] theorem zeroRange_honey (a n : Nat) : (s.zeroRange a n).honey = s.honey := rfl
@[simp] theorem zeroRange_brood (a n : Nat) : (s.zeroRange a n).brood = s.brood := rfl
@[simp] theorem zeroRange_colonies (a n : Nat) : (s.zeroRange a n).colonies = s.colonies := rfl
@[simp] theorem zeroRange_jobs (a n : Nat) : (s.zeroRange a n).jobs = s.jobs := rfl
@[simp] theorem zeroRange_unsaved (a n : Nat) : (s.zeroRange a n).unsaved = s.unsaved := rfl
@[simp] theorem zeroRange_mem (a n : Nat) : (s.zeroRange a n).mem = s.mem := rfl
@[simp] theorem zeroRange_ports (a n : Nat) : (s.zeroRange a n).ports = s.ports := rfl
@[simp] theorem zeroRange_servo (a n : Nat) : (s.zeroRange a n).servo = s.servo := rfl
@[simp] theorem zeroRange_fus (a n : Nat) : (s.zeroRange a n).fus = s.fus := rfl
@[simp] theorem zeroRange_pln (a n : Nat) : (s.zeroRange a n).pln = s.pln := rfl
@[simp] theorem zeroRange_ctl (a n : Nat) : (s.zeroRange a n).ctl = s.ctl := rfl
@[simp] theorem zeroRange_cv (a n : Nat) : (s.zeroRange a n).cv = s.cv := rfl
@[simp] theorem zeroRange_saf (a n : Nat) : (s.zeroRange a n).saf = s.saf := rfl
@[simp] theorem zeroRange_thm (a n : Nat) : (s.zeroRange a n).thm = s.thm := rfl
@[simp] theorem zeroRange_swm (a n : Nat) : (s.zeroRange a n).swm = s.swm := rfl

@[simp] theorem markWaits_pending : (s.markWaits).pending = s.pending := rfl
@[simp] theorem markWaits_tclk : (s.markWaits).tclk = s.tclk := rfl
@[simp] theorem markWaits_free : (s.markWaits).free = s.free := rfl
@[simp] theorem markWaits_regs : (s.markWaits).regs = s.regs := rfl
@[simp] theorem markWaits_pkg : (s.markWaits).pkg = s.pkg := rfl
@[simp] theorem markWaits_pwr : (s.markWaits).pwr = s.pwr := rfl
@[simp] theorem markWaits_hif : (s.markWaits).hif = s.hif := rfl
@[simp] theorem markWaits_objs : (s.markWaits).objs = s.objs := rfl
@[simp] theorem markWaits_listEnds : (s.markWaits).listEnds = s.listEnds := rfl
@[simp] theorem markWaits_listStarts : (s.markWaits).listStarts = s.listStarts := rfl
@[simp] theorem markWaits_dram : (s.markWaits).dram = s.dram := rfl
@[simp] theorem markWaits_poison : (s.markWaits).poison = s.poison := rfl
@[simp] theorem markWaits_combs : (s.markWaits).combs = s.combs := rfl
@[simp] theorem markWaits_spdRead : (s.markWaits).spdRead = s.spdRead := rfl
@[simp] theorem markWaits_honey : (s.markWaits).honey = s.honey := rfl
@[simp] theorem markWaits_brood : (s.markWaits).brood = s.brood := rfl
@[simp] theorem markWaits_colonies : (s.markWaits).colonies = s.colonies := rfl
@[simp] theorem markWaits_jobs : (s.markWaits).jobs = s.jobs := rfl
@[simp] theorem markWaits_unsaved : (s.markWaits).unsaved = s.unsaved := rfl
@[simp] theorem markWaits_mem : (s.markWaits).mem = s.mem := rfl
@[simp] theorem markWaits_ports : (s.markWaits).ports = s.ports := rfl
@[simp] theorem markWaits_servo : (s.markWaits).servo = s.servo := rfl
@[simp] theorem markWaits_fus : (s.markWaits).fus = s.fus := rfl
@[simp] theorem markWaits_pln : (s.markWaits).pln = s.pln := rfl
@[simp] theorem markWaits_ctl : (s.markWaits).ctl = s.ctl := rfl
@[simp] theorem markWaits_cv : (s.markWaits).cv = s.cv := rfl
@[simp] theorem markWaits_saf : (s.markWaits).saf = s.saf := rfl
@[simp] theorem markWaits_thm : (s.markWaits).thm = s.thm := rfl
@[simp] theorem markWaits_swm : (s.markWaits).swm = s.swm := rfl

end Sys2Proof.Laws
end

