-- ==== Sys2Proof/Laws/Swarm.lean ====
section
/-! SUPPORT. Flits and the port that takes one (R501, R502). -/
namespace Sys2Proof.Laws
open Sys2Proof Sys2Proof.Machine

/-- A reversed register has no bit at or above its width. -/
theorem cvReverse_high (w j : Nat) (x : Word64) (hw : 0 < w) (hj : w ≤ j) : (cvReverse w x).getLsbD j = false := by
  have key : ∀ (l : List Nat) (a : Word64), a.getLsbD j = false →
      (l.foldl (fun a i => a ||| (if x.getLsbD i then 1#64 <<< (w - 1 - i) else 0)) a).getLsbD j = false := by
    intro l
    induction l with
    | nil => exact fun a h => h
    | cons i l ih =>
      intro a h
      refine ih _ ?_
      rw [BitVec.getLsbD_or, h]
      split
      · simp [BitVec.getLsbD_shiftLeft, BitVec.getLsbD_one]; omega
      · simp
  exact key _ _ (by simp)

/-- A flit's CRC fits its four bytes. -/
theorem flitCrc_lt (f : List Byte) : flitCrc f < 2 ^ 32 := by
  have hx : (cvXor crc32cParams).setWidth 32 = (0xFFFFFFFF : BitVec 32) ∧ cvXor crc32cParams = 0xFFFFFFFF#64 := by decide +kernel
  have hr : cvRefOut crc32cParams = true := by decide +kernel
  have hw : cvWidth crc32cParams = 32 := by decide +kernel
  unfold flitCrc cvValue
  rw [if_pos hr, hw, hx.2]
  refine Nat.lt_pow_two_of_testBit _ fun j hj => ?_
  rw [BitVec.testBit_toNat, BitVec.getLsbD_xor, cvReverse_high 32 j _ (by decide) hj, Bool.false_xor]
  show (0xFFFFFFFF#64).toNat.testBit j = false
  exact Nat.testBit_lt_two_pow (Nat.lt_of_lt_of_le (by decide : (0xFFFFFFFF#64).toNat < 2 ^ 32) (Nat.pow_le_pow_right (by decide) hj))

/-- A flit's CRC depends on its first 252 bytes. -/
theorem flitCrc_take (f : List Byte) : flitCrc f = flitCrc (f.take 252) := by
  unfold flitCrc; rw [List.take_take]; rfl

/-- A flit that a port builds passes its check (R501). -/
theorem flitOk_mkFlit (type hops seq ack dst src : Nat) (pay : List Byte) : flitOk (mkFlit type hops seq ack dst src pay) = true := by
  unfold flitOk mkFlit
  extract_lets b
  have hb : b.length = 252 := by simp [b]
  have hf : (b ++ leBytes 4 (flitCrc b)).take 252 = b := by rw [← hb]; exact List.take_left ..
  have hc : flitCrc (b ++ leBytes 4 (flitCrc b)) = flitCrc b := by
    rw [flitCrc_take, hf]
  have hd : field (b ++ leBytes 4 (flitCrc b)) 252 4 = flitCrc b := by
    unfold field
    rw [show 252 = b.length from hb.symm, List.drop_left, List.take_of_length_le (by simp), leNat_leBytes, Nat.mod_eq_of_lt (Nat.lt_of_lt_of_eq (flitCrc_lt b) (by decide))]
  simp [hb, hc, hd]

/-- A flit put on a port leaves the register file. -/
@[simp] theorem swPut_regs (s : State) (n type hops dst src : Nat) (pay : List Byte) : (s.swPut n type hops dst src pay).regs = s.regs := by
  unfold State.swPut; extract_lets p f s1; split <;> rfl

/-- A peer's ACK field leaves the register file. -/
@[simp] theorem swAckTo_regs (s : State) (n ack : Nat) : (s.swAckTo n ack).regs = s.regs := by
  have hf : ∀ (l : List HeldFlit) (t : State), (l.foldl (fun s h => s.swPut n h.type h.hops h.dst h.src h.payload) t).regs = t.regs := by
    intro l
    induction l with
    | nil => intro t; rfl
    | cons x l ih => intro t; rw [List.foldl_cons, ih, swPut_regs]
  unfold State.swAckTo
  extract_lets p q k
  split
  · rfl
  · rw [hf]; rfl

/-- A peer's ACK field leaves the states of the ports. -/
theorem swAckTo_swState (s : State) (n ack k : Nat) : (s.swAckTo n ack).swState k = s.swState k := by
  unfold State.swState State.rd State.reg; rw [swAckTo_regs]

/-- An expected flit that passes its check is taken, and the states of the ports stay. -/
theorem swTake_ok (s : State) (n : Nat) (f : List Byte) (h : flitOk f = true) (hs : flitSeq f = (s.swPort n).rxNext) :
    (s.swTake n f).2 = true ∧ ∀ k, (s.swTake n f).1.swState k = s.swState k := by
  unfold State.swTake
  extract_lets p s1 done s2
  have : flitOk f = true ∧ flitSeq f = p.rxNext := ⟨h, hs⟩
  rw [if_pos this]
  exact ⟨rfl, fun k => swAckTo_swState ..⟩

end Sys2Proof.Laws
end

