-- ==== Sys2Proof/Tests/Slice0.lean ====
section
/-! SUPPORT. Tests: for every statement with hypotheses a state and operands that meet them together (witness_…), an ill-formed command
for every check of WellFormed (smoke tests), and worked examples of spec/ calculated by hand from its text (test_…). -/
namespace Sys2Proof.Tests
open Sys2Proof Sys2Proof.Machine
set_option Elab.async false

/-- A small state: the state after reset with some fields set. -/
def withFields (l : List (Fld × Nat)) : State := l.foldl (fun s f => s.wr f.1 f.2) State.reset

/-- The state after reset with one waggle link. -/
def withLink (k : Nat) (x : WagLink) : State := State.reset.setWag k x

/-- A small state with one shared object of 1 MiB (handle 0x10000001) and one latency-critical colony of one comb and label 0. -/
def withObject : State :=
  { State.reset with
    objs := [(1, { live := true, size := 1048576, partition := 16, hostVisible := true })]
    colonies := [(0, { live := true, lc := true, ncomb := 1, labels := 1, classMap := 1, reserved := [0] })]
    mem := { State.reset.mem with ranges := [⟨0, 1048576, 16, true⟩], dramUnits := 65536 } }

/-- The handle of that object. -/
abbrev hObj : Nat := 0x10000001

/-- The bytes of a record or message: fields as (offset, bytes, value). -/
def bytesOf (n : Nat) (l : List (Nat × Nat × Nat)) : List Byte :=
  l.foldl (fun b f => patch b f.1 (leBytes f.2.1 f.2.2)) (List.replicate n 0)

/-- A record: opcode, LEN, and its payload fields. -/
def recOf (op : Nat) (l : List (Nat × Nat × Nat)) (len : Nat := 1) : Rec :=
  { seq := 0, list := 0, bytes := bytesOf (64 * len) ((0, 1, op) :: (2, 1, len) :: l) }

/-- A record alone on queue 0 of a class, which is RUNNING. -/
def withRec (cls : Nat) (r : Rec) (s : State := withObject) : State :=
  (s.setQueue 0 { live := true, cls := cls, log2n := 4, colony := some 0, ring := 1, labelMask := 1, cqLog2n := 4, recs := [r] }).wr
    (HIF_QSTAT_STATE.idx 0) 1

/-- A request of command `cmd` of LEN `len` in BUSY on mailbox 0, with session 7. -/
def withRequest (cmd len : Nat) (l : List (Nat × Nat × Nat)) (s : State := withObject) : State :=
  (s.setMbx 0 { copy := bytesOf 256 ((0, 2, cmd) :: (4, 2, len) :: (8, 4, 7) :: l), session := some 7 }).wr (MBX_STAT_STATE.idx 0) 1

/-- A firmware slot that the boot ROM accepts on revision 0. -/
def goodSlot : FwSlot := { image := { sigOk := true, revisions := [0] } }

/-- Every hypothesis of BootCommandsComplete is met somewhere. -/
theorem witness_BootCommandsComplete :
    (∃ s : State, s.pkg.heldInReset = false ∧ s.pkg.perstLow = false) ∧
    (∃ s : State, s.on SAF_ISL_STATUS_B_JOINED = false) ∧ (∃ s : State, s.on SAF_ISL_STATUS_B_JOINED = true ∧ s.pkg.sfdPowered = true) ∧
    (∃ s : State, s.rd IDN_BOOT_STAGE = 1 ∧ s.pkg.heldInReset = false ∧
      pickSlot s.pkg.iodFlash s.pkg.iodFuse (BitVec.ofNat 8 (s.rd (IDN_DIE_REV.idx 8))) = some 0) ∧
    (∃ s : State, s.rd IDN_BOOT_STAGE = 3 ∧ s.diesSettled = true ∧ s.includedDies ≠ [] ∧ s.pkg.heldInReset = false) ∧
    (∃ s : State, s.mayTrain 0 = true ∧ s.pkg.warmReset = false ∧ ([9].take 0).findIdx? (8 < ·) = none) ∧
    (∃ s : State, s.mayTrain 0 = true ∧ s.pkg.warmReset = true ∧ s.pkg.shortTrainEnded.getLsbD 0 = false) ∧
    (∃ s : State, (s.rd IDN_BOOT_STAGE = 4 ∨ s.rd IDN_BOOT_STAGE = 5) ∧ s.rd IDN_BOOT_ERROR = 0 ∧ s.includedDies ≠ [] ∧
      (s.includedDies.all fun d => s.on (DMC_STATUS_TRAINED.idx d)) = true ∧ s.ringsSettled = true ∧ s.on IDN_BOOT_ISLAND_B = true) ∧
    (∃ s : State, s.pkg.sfdPowered = true ∧ pickSlot s.pkg.sfdFlash s.pkg.sfdFuse (identRev s.pkg.sfd.ident) = some 0 ∧ s.saf.join.ready = false) :=
  ⟨⟨State.reset, by decide +kernel⟩, ⟨State.reset, by decide +kernel⟩,
   ⟨(withFields [(SAF_ISL_STATUS_B_JOINED, 1)]).modPkg fun p => { p with sfdPowered := true }, by decide +kernel⟩,
   ⟨(withFields [(IDN_BOOT_STAGE, 1)]).modPkg fun p => { p with iodFlash := [goodSlot] }, by decide +kernel⟩,
   ⟨(withFields [(IDN_BOOT_STAGE, 3), (IDN_PKG_INCLUDED.bit 0, 1)]).modPkg fun p =>
      { p with links := (List.range 4).map fun k => (k, { phase := .complete }) }, by decide +kernel⟩,
   ⟨withFields [(IDN_PKG_INCLUDED.bit 0, 1), (IDN_BOOT_STAGE, 4)], by decide +kernel⟩,
   ⟨(withFields [(IDN_PKG_INCLUDED.bit 0, 1), (IDN_BOOT_STAGE, 4)]).modPkg fun p => { p with warmReset := true }, by decide +kernel⟩,
   ⟨withFields [(IDN_BOOT_STAGE, 5), (IDN_PKG_INCLUDED.bit 0, 1), (DMC_STATUS_TRAINED.idx 0, 1), (IDN_BOOT_ISLAND_B, 1)],
    by decide +kernel⟩,
   ⟨State.reset.modPkg fun p => { p with sfdPowered := true, sfdFlash := [goodSlot] }, by decide +kernel⟩⟩

/-- Every hypothesis of WaggleCommandsComplete is met somewhere. -/
theorem witness_WaggleCommandsComplete :
    (∃ (s : State) (k : Nat) (m : WaggleMsg), s.takesRequest k m 1) ∧
    (∃ (s : State) (k : Nat) (m : WaggleMsg), s.takesReply k m 2 .hello ∧ isRing k = true) ∧
    (∃ (s : State) (m : WaggleMsg), s.takesReply 9 m 2 .hello ∧ s.rd IDN_PKG_VARIANT = 2) ∧
    (∃ (s : State) (k : Nat) (m : WaggleMsg), s.takesReply k m 2 .hello ∧ k < 4 ∧ bitsOf (wPay m 0 2) 0 3 = k ∧
      bitsOf (wPay m 0 2) 3 2 = 0 ∧ bitsOf (wPay m 0 2) 5 4 = s.rd IDN_PKG_VARIANT ∧ bitsOf (wPay m 2 8) 12 1 = 1 ∧
      bitsOf (wPay m 10 8) 12 1 = 1 ∧ s.recognised 1 (BitVec.ofNat 8 (bitsOf (wPay m 2 8) 4 8)) = true ∧
      s.recognised 2 (BitVec.ofNat 8 (bitsOf (wPay m 10 8) 4 8)) = true) ∧
    (∃ (s : State) (k : Nat) (m : WaggleMsg), s.takesReply k m 3 .offer ∧ s.selectMods k m ≠ 0 ∧
      enough k (s.selectRate k m) (s.selectMods k m) = true) ∧
    (∃ (s : State) (k : Nat) (m : WaggleMsg), s.takesRequest k m 4) ∧
    (∃ (s : State) (k : Nat) (m : WaggleMsg), s.takesReply k m 5 .select ∧
      (m.drop 4).take 24 = ((s.wag k).request.drop 4).take 24) ∧
    (∃ (s : State) (k : Nat), (s.wag k).folTraining = true) ∧
    (∃ (s : State) (k : Nat) (m : WaggleMsg), s.takesReply k m 6 .training ∧ wPay m 0 1 = 0 ∧ BitVec.ofNat 4 (wPay m 1 1) ≠ 0 ∧
       enough k (wPay m 2 1) (BitVec.ofNat 4 (wPay m 1 1)) = true) ∧
    (∃ (s : State) (k : Nat) (m : WaggleMsg), s.takesRequest k m 7) ∧
    (∃ (s : State) (k : Nat) (m : WaggleMsg), s.takesReply k m 7 .done) ∧
    (∃ m : WaggleMsg, wOk m = true ∧ wType m = 14) ∧
    (∃ (s : State) (k : Nat) (m : WaggleMsg), wOk m = true ∧ wType m = 15 ∧ (s.wag k).isOver = false ∧
      wPay m 0 1 = (s.wag k).seq.toNat ∧ (s.wag k).retrans < 3) ∧
    (∃ (s : State) (k : Nat) (m : WaggleMsg), wOk m = true ∧ wType m = 15 ∧ (s.wag k).folSeq = some (BitVec.ofNat 8 (wPay m 0 1))) ∧
    (∃ (s : State) (k : Nat), (s.wag k).awaits = true ∧ (s.wag k).retrans < 3) ∧
    (∃ (s : State) (k : Nat), (k < 4 ∨ k = 9) ∧ (s.wag k).isOver = false ∧ (s.wag k).phase ≠ .idle) ∧
    (∃ (s : State) (k : Nat), isRing k = true ∧ (s.wag k).isOver = false ∧ (s.wag k).phase ≠ .idle) :=
  ⟨⟨withLink 0 {}, 0, wagMsg 1 0 4 0 [], by decide +kernel⟩,
   ⟨withLink 4 { phase := .hello }, 4, wagMsg 2 0 1 4 [], by decide +kernel⟩,
   ⟨(withLink 9 { phase := .hello }).wr IDN_PKG_VARIANT 2, wagMsg 2 0 6 9 [], by decide +kernel⟩,
   ⟨((withLink 1 { phase := .hello }).wr IDN_PKG_VARIANT 1).modPkg fun p => { p with iodImage := { recognised := [(1, 0), (2, 0)] } },
    1, wagMsg 2 0 1 1 (leBytes 2 0x21 ++ leBytes 8 0x1001 ++ leBytes 8 0x1002), by decide +kernel⟩,
   ⟨withLink 9 { phase := .offer }, 9, wagMsg 3 0 6 9 (leBytes 4 1 ++ [3, 1]), by decide +kernel⟩,
   ⟨withLink 0 {}, 0, wagMsg 4 1 4 0 [], by decide +kernel⟩,
   ⟨withLink 0 { phase := .select, request := wagMsg 5 0 4 0 [] }, 0, wagMsg 5 0 4 0 [], by decide +kernel⟩,
   ⟨withLink 0 { folTraining := true }, 0, by decide +kernel⟩,
   ⟨withLink 0 { phase := .training }, 0, wagMsg 6 0 0 0 [0, 15, 5], by decide +kernel⟩,
   ⟨withLink 0 {}, 0, wagMsg 7 2 4 0 [], by decide +kernel⟩,
   ⟨withLink 0 { phase := .done }, 0, wagMsg 7 0 0 0 [], by decide +kernel⟩,
   ⟨wagMsg 14 0 4 0 [], by decide +kernel⟩,
   ⟨withLink 0 { phase := .offer, seq := 7 }, 0, wagMsg 15 0 0 0 [7], by decide +kernel⟩,
   ⟨withLink 0 { folSeq := some 7 }, 0, wagMsg 15 0 4 0 [7], by decide +kernel⟩,
   ⟨withLink 0 { phase := .hello }, 0, by decide +kernel⟩,
   ⟨withLink 9 { phase := .hello }, 9, by decide +kernel⟩,
   ⟨withLink 7 { phase := .hello }, 7, by decide +kernel⟩⟩

/-- Every hypothesis of LinkAndClockCommandsComplete is met somewhere. -/
theorem witness_LinkAndClockCommandsComplete :
    (∃ s : State, s.on (IDN_LINK_DOWN.idx 9) = false ∧ s.pkg.retraining.getLsbD 9 = false) ∧
    (∃ s : State, s.pkg.retraining.getLsbD 3 = true ∧
      s.on (IDN_LINK_DOWN.idx 3) = false ∧
      15#4 &&& BitVec.ofNat 4 (((s.waitTo (tget 0 s.pkg.retrainAt 3 + 125000)).retrainEnds 3).rd (IDN_LINK_MOD_UP.idx 3)) ≠ 0 ∧
      0#4 &&& BitVec.ofNat 4 (((s.waitTo (tget 0 s.pkg.retrainAt 3 + 125000)).retrainEnds 3).rd (IDN_LINK_MOD_UP.idx 3)) = 0) ∧
    (∃ s : State, s.on (PWR_STATUS_PLL_LOCK_CD.bit 3) = true ∧ tget none s.pwr.cdLossAt 2 = some 5 ∧ s.pwr.refLost = false ∧
      s.on PWR_STATUS_PLL_LOCK_IOD = true ∧ s.pkg.heldInReset = false) ∧
    (∃ s : State, s.on SAF_ISL_STATUS_B_JOINED = true ∧ s.link8 = true ∧ s.pairRuns true = true ∧ s.pairRuns false = true ∧
      s.pwr.hbDevA = 2 ∧ s.pwr.hbDevB = 2) ∧ (∃ s : State, s.link8 = false) ∧
    (∃ s : State, s.on SAF_ISL_STATUS_B_JOINED = true ∧ s.pwr.hbDevA + 1 < 3) ∧
    (∃ s : State, s.pkg.iodSlot.isSome = true ∧ s.hif.fwStopped = false) :=
  ⟨⟨withFields [(IDN_LINK_DOWN.idx 9, 0)], by decide +kernel⟩,
   ⟨(withFields [(IDN_LINK_MOD_UP.idx 3, 15), (IDN_LINK_DOWN.idx 3, 0)]).modPkg fun p => { p with retraining := 8 }, by decide +kernel⟩,
   ⟨(withFields [(PWR_STATUS_PLL_LOCK_CD, 15), (PWR_STATUS_PLL_LOCK_IOD, 1)]).modPwr fun p => { p with cdLossAt := [(2, some 5)] },
    by decide +kernel⟩,
   ⟨((withFields [(SAF_ISL_STATUS_B_JOINED, 1), (SAF_ISL_STATUS_A_RUN, 1)]).modPkg fun p => { p with sfdPowered := true }).modPwr fun p =>
      { p with hbDevA := 2, hbDevB := 2 }, by decide +kernel⟩, ⟨State.reset.modPkg fun p => { p with retraining := 256 }, by decide +kernel⟩,
   ⟨withFields [(SAF_ISL_STATUS_B_JOINED, 1)], by decide +kernel⟩, ⟨State.reset.modPkg fun p => { p with iodSlot := some 0 }, by decide +kernel⟩⟩

/-- Every hypothesis of PowerCommandsComplete is met somewhere. -/
theorem witness_PowerCommandsComplete :
    (∃ s : State, s.dieIncluded 3 = true ∧ s.rd (PWR_VDD_VSET.idx 3) = 800 ∧ s.avsHeld 3 = false) ∧
    (∃ s : State, s.avsHeld 3 = false ∧ tget 0 s.pwr.avsTarget 3 ≠ 0 ∧ s.rd (PWR_VDD_VSET.idx 3) < tget 0 s.pwr.avsTarget 3) ∧
    (∃ s : State, s.avsHeld 3 = false ∧ tget 0 s.pwr.avsTarget 3 ≠ 0 ∧ tget 0 s.pwr.avsTarget 3 + 5 ≤ s.rd (PWR_VDD_VSET.idx 3)) ∧
    (∃ s : State, tget 0 s.pwr.avsNak 0 < 2) ∧ (∃ s : State, tget 0 s.pwr.avsNak 0 = 2) ∧
    (∃ s : State, s.rd (CMB_STATE_STATE.idx 63) = 1 ∧ s.combFree 63 = true ∧ s.pwr.filler.getLsbD 63 = false ∧
      (tget ({} : Domain) s.thm.doms 3).filler = 0) ∧
    (∃ s : State, s.mayStandby 3 = true) ∧
    (∃ s : State, s.Inv ∧ s.on (PWR_STATUS_STANDBY.bit 3) = true ∧ tget none s.pwr.standbyExitAt 3 ≠ none) ∧
    (∃ s : State, s.on PWR_STATUS_LOW_POWER = false ∧ s.on MBX_CTRL_READY = true) ∧
    (∃ s : State, s.Inv ∧ s.on PWR_STATUS_LOW_POWER = true) ∧
    (∃ s : State, s.pkg.heldInReset = false ∧ tget 0 s.pwr.rampCnt 4 + 1 < 25) ∧
    (∃ s : State, s.pkg.heldInReset = false ∧ 24 ≤ tget 0 s.pwr.rampCnt 4) :=
  ⟨⟨withFields [(IDN_PKG_INCLUDED.bit 3, 1), (PWR_VDD_VSET.idx 3, 800)], by decide +kernel⟩,
   ⟨State.reset.modPwr fun p => { p with avsTarget := [(3, 800)] }, by decide +kernel⟩,
   ⟨(withFields [(PWR_VDD_VSET.idx 3, 800)]).modPwr fun p => { p with avsTarget := [(3, 700)] }, by decide +kernel⟩,
   ⟨State.reset, by decide +kernel⟩, ⟨State.reset.modPwr fun p => { p with avsNak := [(0, 2)] }, by decide +kernel⟩,
   ⟨withFields [(CMB_STATE_STATE.idx 63, 1)], by decide +kernel⟩,
   ⟨(withFields [(IDN_BOOT_STAGE, 6), (IDN_PKG_INCLUDED.bit 3, 1)]).modPwr fun p => { p with standbyOk := true }, by decide +kernel⟩,
   ⟨(withFields [(PWR_STATUS_STANDBY.bit 3, 1)]).modPwr fun p => { p with standbyExitAt := [(3, some 1)] },
    by unfold State.Inv; decide +kernel⟩,
   ⟨withFields [(MBX_CTRL_READY, 1)], by decide +kernel⟩, ⟨withFields [(PWR_STATUS_LOW_POWER, 1)], by unfold State.Inv; decide +kernel⟩,
   ⟨State.reset, by decide +kernel⟩, ⟨State.reset.modPwr fun p => { p with rampCnt := [(4, 24)] }, by decide +kernel⟩⟩

/-- The state in which island A awaits JOIN_RESP, and a JOIN_RESP with its MAC_B. -/
def joinWaits : State :=
  ((withFields [(IDN_PKG_VARIANT, 1), (SAF_ISL_STATUS_A_RUN, 1)]).modPkg fun p => { p with iodImage := { recognised := [(4, 0)] } }).modJoin fun j =>
    { j with trying := true, firstAt := some 0, na := List.replicate 16 1, olds := [List.replicate 16 2] }
def joinAnswer (na : List Byte) : List Byte :=
  let c := padTo 32 (leBytes 8 0 ++ leBytes 2 0x35)
  joinMsg (c ++ joinWaits.macB na c)

/-- Every hypothesis of JoinCommandsComplete is met somewhere. -/
theorem witness_JoinCommandsComplete :
    (∃ (s : State) (m : List Byte), s.link8 = true ∧ s.pairRuns false = true ∧ s.saf.join.ready = true ∧ s.islandBRefused = false ∧
      joinOk 26 m = true) ∧
    (∃ (s : State) (m : List Byte), s.link8 = true ∧ s.islandARuns = true ∧ s.saf.join.trying = true ∧ s.saf.join.confirmSent = false ∧
      joinOk 48 m = true ∧ (m.drop 32).take 16 = s.macB s.saf.join.na m ∧ field m 10 1 = 0 ∧
      s.recognised 4 (BitVec.ofNat 8 (bitsOf (field m 0 8) 4 8)) = true ∧ field m 15 1 = 0 ∧ s.pkg.iodTestFail = 0 ∧
      s.pkg.iodTimersOk = true ∧ s.pkg.iodImage.minB ≤ field m 11 4 ∧ bitsOf (field m 8 2) 0 3 = 5 ∧ bitsOf (field m 8 2) 3 2 = 2 ∧
      bitsOf (field m 8 2) 5 4 = s.rd IDN_PKG_VARIANT) ∧
    (∃ (s : State) (m : List Byte), s.link8 = true ∧ s.islandARuns = true ∧ s.saf.join.trying = true ∧ s.saf.join.confirmSent = false ∧
      joinOk 48 m = true ∧ (m.drop 32).take 16 ≠ s.macB s.saf.join.na m ∧
      (s.saf.join.olds.any fun na => (m.drop 32).take 16 == s.macB na m) = true ∧ s.saf.join.firstAt = some 0) ∧
    (∃ (s : State) (m : List Byte), s.link8 = true ∧ joinOk 48 m = true ∧ (m.drop 32).take 16 ≠ s.macB s.saf.join.na m ∧
      (s.saf.join.olds.any fun na => (m.drop 32).take 16 == s.macB na m) = false) ∧
    (∃ (s : State) (m : List Byte), s.link8 = true ∧ s.pairRuns false = true ∧ s.saf.join.ready = true ∧ s.saf.join.bNa ≠ [] ∧
      s.saf.join.confirmSent = true ∧ joinOk 16 m = true) ∧
    (∃ (s : State) (m : List Byte), s.Inv ∧ s.link8 = true ∧ s.islandARuns = true ∧ s.saf.join.confirmSent = true ∧ joinOk 1 m = true ∧
      field m 0 1 = 0) :=
  ⟨⟨(State.reset.modPkg fun p => { p with sfdPowered := true }).modJoin fun j => { j with ready := true },
    joinMsg (List.replicate 26 0), by decide +kernel⟩,
   ⟨joinWaits, joinAnswer (List.replicate 16 1), by decide +kernel⟩, ⟨joinWaits, joinAnswer (List.replicate 16 2), by decide +kernel⟩,
   ⟨joinWaits, joinAnswer (List.replicate 16 3), by decide +kernel⟩,
   ⟨(State.reset.modPkg fun p => { p with sfdPowered := true }).modJoin fun j => { j with ready := true, confirmSent := true, bNa := [0] },
    joinMsg (List.replicate 16 0), by decide +kernel⟩,
   ⟨(withFields [(SAF_ISL_STATUS_A_RUN, 1)]).modJoin fun j => { j with confirmSent := true }, joinMsg [0],
    by unfold State.Inv; decide +kernel⟩⟩

/-- The first test value of SHA-256 (FIPS 180-4): "abc". -/
theorem test_sha256 : sha256 [0x61, 0x62, 0x63] =
    [0xBA, 0x78, 0x16, 0xBF, 0x8F, 0x01, 0xCF, 0xEA, 0x41, 0x41, 0x40, 0xDE, 0x5D, 0xAE, 0x22, 0x23, 0xB0, 0x03, 0x61, 0xA3, 0x96, 0x17,
     0x7A, 0x9C, 0xB4, 0x10, 0xFF, 0x61, 0xF2, 0x00, 0x15, 0xAD] := by decide +kernel

/-- Every hypothesis of MailboxRegistersComplete is met somewhere. -/
theorem witness_MailboxRegistersComplete :
    (∃ s : State, s.mbxState 15 ≠ 0 ∨ s.on MBX_CTRL_READY = false) ∧ (∃ s : State, s.mbxState 15 = 2) ∧
    (∃ s : State, s.mbxState 15 = 1 ∧ s.hif.fwStopped = false ∧ s.creating 15 = none ∧ s.destroying 15 = none) ∧
    (∃ s : State, s.mbxState 15 = 1 ∧ s.hif.fwStopped = false ∧ s.creating 15 = some 7) ∧
    (∃ s : State, s.mbxState 15 = 1 ∧ s.hif.fwStopped = false ∧ s.creating 15 = none ∧ s.destroying 15 = some 100) :=
  ⟨⟨State.reset, by decide +kernel⟩, ⟨withFields [(MBX_STAT_STATE.idx 15, 2)], by decide +kernel⟩,
   ⟨withFields [(MBX_STAT_STATE.idx 15, 1)], by decide +kernel⟩,
   ⟨(withFields [(MBX_STAT_STATE.idx 15, 1)]).setColony 7 { live := true, waiter := some (15, 0) }, by decide +kernel⟩,
   ⟨(withFields [(MBX_STAT_STATE.idx 15, 1)]).setQueue 100 { destroying := some ⟨15, 0, 0, false⟩ }, by decide +kernel⟩⟩

/-- Every hypothesis of MailboxStates is met somewhere. -/
theorem witness_MailboxStates :
    (∃ s : State, s.mbxState 15 = 0 ∧ s.on MBX_CTRL_READY = false) ∧ (∃ s : State, s.mbxState 15 = 2) ∧
    (∃ s : State, s.mbxState 15 = 1 ∧ s.hif.fwStopped = false ∧ s.creating 15 = none ∧ s.destroying 15 = none) :=
  ⟨⟨State.reset, by decide +kernel⟩, ⟨withFields [(MBX_STAT_STATE.idx 15, 2)], by decide +kernel⟩,
   ⟨withFields [(MBX_STAT_STATE.idx 15, 1)], by decide +kernel⟩⟩

/-- Every hypothesis of MailboxCommandsComplete is met somewhere. -/
theorem witness_MailboxCommandsComplete :
    (∃ s : State, s.serving 0 0x0001 ∧ payloadOk [(16, 0, 8), (17, 0, 8)] (s.request 0) = true ∧
      field (s.request 0) 16 1 = s.rd MBX_CTRL_HIF_MAJOR ∧ field (s.request 0) 17 1 ≤ s.rd MBX_CTRL_HIF_MINOR) ∧
    (∃ s : State, s.serving 0 0x0002) ∧
    (∃ s : State, s.serving 0 0x0100 ∧ s.memAllocCheck 0x100000 (s.request 0) = 0) ∧
    (∃ (s : State) (o : MemObj), s.serving 0 0x0101 ∧ s.handleIdx 1 (field (s.request 0) 16 4) = some 1 ∧ s.obj 1 = some o ∧
      s.objBusy 1 = false) ∧
    (∃ s : State, s.unhindered = true ∧ s.mem.clearing[0]? = some (0, 4096) ∧ s.stretchBusy 0 4096 = false) ∧
    (∃ (s : State) (o : MemObj), s.serving 0 0x0102 ∧ s.objOf (field (s.request 0) 16 4) = some o) ∧
    (∃ s : State, s.serving 0 0x0200 ∧ s.colonyCreateCheck (s.request 0) = 0 ∧
      ((s.createColony (s.request 0)).colony (s.freeColony.getD 0)).joining = []) ∧
    (∃ s : State, (s.colony 0).waiter = some (0, s.requestTag 0) ∧ (s.colony 0).joining = [] ∧ (s.colony 0).accepted = true) ∧
    (∃ s : State, (s.colony 0).waiter = some (0, s.requestTag 0) ∧ (s.colony 0).joining = [] ∧ (s.colony 0).accepted = false) ∧
    (∃ s : State, s.serving 0 0x0201 ∧ s.colonyOf (field (s.request 0) 16 4) = some 0 ∧ s.colonyBusy 0 = false ∧
      (s.colony 0).waiter = none) ∧
    (∃ s : State, s.serving 0 0x0300 ∧ s.queueCreateCheck (s.request 0) = 0) ∧
    (∃ s : State, s.serving 0 0x0301 ∧ s.handleIdx 3 (field (s.request 0) 16 4) = some 0 ∧ (s.queue 0).live = true ∧
      (s.queue 0).destroying = none) ∧
    (∃ (s : State) (l : Leaving), (s.queue 0).destroying = some l ∧ (s.queue 0).recs = [] ∧ l.accepted = true) ∧
    (∃ (s : State) (l : Leaving), (s.queue 0).destroying = some l ∧ (s.queue 0).recs = [] ∧ l.accepted = false ∧ s.tclk ≤ l.since + 1250000) ∧
    (∃ (s : State) (l : Leaving), (s.queue 0).destroying = some l ∧ (s.queue 0).recs = [] ∧ l.accepted = false ∧ l.since + 1250000 < s.tclk) ∧
    (∃ (s : State) (l : Leaving), (s.queue 0).destroying = some l ∧ (s.queue 0).recs ≠ [] ∧ l.accepted = false) ∧
    (∃ s : State, s.serving 0 0x0400 ∧ s.handleIdx 4 (field (s.request 0) 16 4) = some 5 ∧ s.unhindered = true ∧ s.voteWaits (s.reinitClass 0) = false) :=
  ⟨⟨withRequest 1 20 [(8, 4, 0), (16, 1, 1)] (withObject.wr MBX_CTRL_HIF_MAJOR 1), by decide +kernel⟩,
   ⟨withRequest 2 16 [], by decide +kernel⟩,
   ⟨withRequest 0x100 32 [(16, 4, 1), (25, 1, 12)] ((withObject.wr DMC_MAP_ISHARE 4).wr IDN_PKG_INCLUDED 0x1F), by decide +kernel⟩,
   ⟨withRequest 0x101 20 [(16, 4, hObj)], { live := true, size := 1048576, partition := 16, hostVisible := true }, by decide +kernel⟩,
   ⟨{ State.reset with mem := { State.reset.mem with clearing := [(0, 4096)] } }, by decide +kernel⟩,
   ⟨withRequest 0x102 20 [(16, 4, hObj)], { live := true, size := 1048576, partition := 16, hostVisible := true }, by decide +kernel⟩,
   ⟨withRequest 0x200 48 [(16, 1, 1), (17, 1, 2), (18, 2, 4), (20, 4, 0x10), (24, 2, 100), (36, 4, 16)], by decide +kernel⟩,
   ⟨State.reset.setColony 0 { waiter := some (0, 0), accepted := true }, by decide +kernel⟩,
   ⟨State.reset.setColony 0 { waiter := some (0, 0) }, by decide +kernel⟩,
   ⟨withRequest 0x201 20 [(16, 4, 0x20000000)], by decide +kernel⟩,
   ⟨withRequest 0x300 48 [(16, 1, 0), (17, 1, 4), (18, 1, 0xFF), (20, 4, 0x20000000), (24, 4, hObj), (28, 2, 1), (40, 1, 4)],
    by decide +kernel⟩,
   ⟨withRequest 0x301 20 [(16, 4, 0x30000000)] (withObject.setQueue 0 { live := true }), by decide +kernel⟩,
   ⟨State.reset.setQueue 0 { destroying := some ⟨0, 0, 0, true⟩ }, ⟨0, 0, 0, true⟩, by decide +kernel⟩,
   ⟨State.reset.setQueue 0 { destroying := some ⟨0, 0, 0, false⟩ }, ⟨0, 0, 0, false⟩, by decide +kernel⟩,
   ⟨{ State.reset.setQueue 0 { destroying := some ⟨0, 0, 0, false⟩ } with tclk := 1250001 }, ⟨0, 0, 0, false⟩, by decide +kernel⟩,
   ⟨State.reset.setQueue 0 { destroying := some ⟨0, 0, 0, false⟩, recs := [recOf 0 []] }, ⟨0, 0, 0, false⟩, by decide +kernel⟩,
   ⟨withRequest 0x400 20 [(16, 4, 0x40000005)], by decide +kernel⟩⟩

/-- An image that the slot checks accept on revision 0. -/
def goodImage : FwImage := { sigOk := true, revisions := [0] }

/-- Every hypothesis of ServiceCommandsComplete is met somewhere. -/
theorem witness_ServiceCommandsComplete :
    (∃ s : State, s.serving 0 0x0401 ∧ payloadOk [(16, 0, 1), (17, 0, 8)] (s.request 0) = true ∧ 1 ≤ field (s.request 0) 17 1 ∧
      field (s.request 0) 17 1 ≤ 200) ∧
    (∃ s : State, s.serving 0 0x0500 ∧ s.safetyTestCheck (s.request 0) = 0 ∧ s.testIs 0 1 = true) ∧
    (∃ s : State, s.serving 0 0x0500 ∧ s.safetyTestCheck (s.request 0) = 0 ∧ s.testIs 0 2 = true ∧ s.saf.restarts = [] ∧
      s.saf.write = none) ∧
    (∃ s : State, s.serving 0 0x0501) ∧ (∃ s : State, s.serving 0 0x0502 ∧ s.logReadCheck (s.request 0) = 0) ∧
    (∃ (s : State) (r : LogRead), s.unhindered = true ∧ s.saf.logReads[0]? = some r) ∧
    (∃ s : State, s.serving 0 0x0600 ∧ s.fwSlotCheck goodImage (s.request 0) = 0) ∧
    (∃ (s : State) (w : FwWrite), s.pkg.fwWrite = some w) ∧
    (∃ s : State, s.serving 0 0x0601 ∧ s.fwAdvanceCheck (s.request 0) = 0 ∧ bitsOf (field (s.request 0) 16 1) 0 1 = 0 ∧
      s.pkg.iodFuse < field (s.request 0) 20 4) ∧
    (∃ (s : State) (a : FwAdvance), s.pkg.fwAdvance = some a) :=
  ⟨⟨withRequest 0x401 24 [(16, 1, 1), (17, 1, 200)], by decide +kernel⟩,
   ⟨withRequest 0x500 24 [(16, 1, 1), (17, 1, 1)], by decide +kernel⟩,
   ⟨withRequest 0x500 24 [(16, 1, 2), (17, 1, 1)], by decide +kernel⟩, ⟨withRequest 0x501 16 [], by decide +kernel⟩,
   ⟨withRequest 0x502 40 [(20, 4, hObj), (28, 2, 1)], by decide +kernel⟩,
   ⟨{ withObject with saf := { withObject.saf with logReads := [⟨0, 0, 0, []⟩] } }, ⟨0, 0, 0, []⟩, by decide +kernel⟩,
   ⟨withRequest 0x600 32 [(20, 4, hObj), (24, 4, 4096)], by decide +kernel⟩,
   ⟨State.reset.modPkg fun p => { p with fwWrite := some ⟨0, 0, false, 0, {}⟩ }, _, rfl⟩,
   ⟨withRequest 0x601 24 [(20, 4, 1)] (withObject.modPkg fun p => { p with iodImage := { version := 1 } }), by decide +kernel⟩,
   ⟨State.reset.modPkg fun p => { p with fwAdvance := some ⟨0, 0, false, 1⟩ }, _, rfl⟩⟩

/-- Every hypothesis of HostAccessesComplete is met somewhere. -/
theorem witness_HostAccessesComplete :
    (∃ s : State, s.unhindered = true ∧ s.inWindow 0 64 = true ∧ s.spanExcluded (s.winAddr 0) 64 = false ∧
      s.spanVisible (s.winAddr 0) 64 = true) ∧
    (∃ s : State, s.unhindered = true ∧ s.inWindow 0 64 = true ∧ s.spanExcluded (s.winAddr 0) 64 = true) ∧
    (∃ s : State, s.unhindered = true ∧ s.inWindow 0 64 = true ∧ s.spanExcluded (s.winAddr 0) 64 = false ∧
      s.spanVisible (s.winAddr 0) 64 = false) ∧
    accessOk 6 4 = false :=
  ⟨⟨withObject, by decide +kernel⟩, ⟨withFields [(DMC_STATUS_EXCLUDED.idx 0, 1)], by decide +kernel⟩, ⟨State.reset, by decide +kernel⟩,
   by decide +kernel⟩

/-- Every hypothesis of HostEventsComplete is met somewhere. -/
theorem witness_HostEventsComplete :
    (∃ s : State, s.hif.msixPend.getLsbD 63 = true) ∧ (∃ s : State, s.hif.msixPend.getLsbD 63 = false ∧ s.hif.fwStopped = false) ∧
    (∃ (s : State) (r : EventRec), s.hif.evtBuf = [r] ∧ s.ringRoom = true) ∧ (∃ s : State, s.hif.evtDelay = some 5) :=
  ⟨⟨{ State.reset with hif := { State.reset.hif with msixPend := 1#64 <<< 63 } }, by decide +kernel⟩, ⟨State.reset, by decide +kernel⟩,
   ⟨(withFields [(EVT_CTRL_ENABLE, 1), (EVT_SIZE_LOG2N, 6)]).event 2 0x1F 0 0 [], ⟨2, 0x1F, 0, 0, 0, 0, 0, List.replicate 10 0⟩,
    by decide +kernel⟩,
   ⟨{ State.reset with hif := { State.reset.hif with evtDelay := some 5 } }, by decide +kernel⟩⟩

/-- Every hypothesis of QueueCommandsComplete is met somewhere. -/
theorem witness_QueueCommandsComplete :
    (∃ (s : State) (t : BitVec 16), (s.queue 0).live = true ∧ (s.queue 0).destroying = none ∧ s.rd (HIF_QSTAT_STATE.idx 0) ≠ qReset ∧
      t.toNat ≠ s.rd (HIF_QTAIL_INDEX.idx 0) ∧
      doorbellFits (2 ^ (s.queue 0).log2n) (s.rd (HIF_QTAIL_INDEX.idx 0)) (s.rd (HIF_QHEAD_INDEX.idx 0)) t.toNat = true) ∧
    (∃ (s : State) (t : BitVec 16), (s.queue 0).live = true ∧ s.rd (HIF_QSTAT_STATE.idx 0) = qHalted ∧ t.toNat < 2 ^ (s.queue 0).cqLog2n) ∧
    (∃ s : State, s.unhindered = true ∧ s.canFetch 0 = true ∧ s.cqRoom 0 (s.queue 0) = true) ∧
    (∃ s : State, s.unhindered = true ∧ s.canFetch 0 = true ∧ s.cqRoom 0 (s.queue 0) = false) ∧
    (∃ (s : State) (r : Rec), s.startable 0 0x00 r (fun _ => (0, 0xFFFF))) ∧
    (∃ (s u : State) (r : Rec), s.unhindered = true ∧ s.startable 0 0x01 r s.fenceCheck ∧
      u = (s.runRec 0 r.seq).findSpan ((s.runRec 0 r.seq).fenceWho 0 r) ((s.runRec 0 r.seq).fenceAddr r) 8 ∧
      u.allowed ((s.runRec 0 r.seq).fenceWho 0 r) ((s.runRec 0 r.seq).fenceAddr r) = true ∧
      u.burstStatus ((s.runRec 0 r.seq).fenceWho 0 r) false ((s.runRec 0 r.seq).fenceAddr r) 8 = 0) ∧
    (∃ (s : State) (r : Rec), s.unhindered = true ∧ s.startable 0 0x02 r s.fenceCheck ∧
      ((s.runRec 0 r.seq).devLoad ((s.runRec 0 r.seq).fenceWho 0 r) ((s.runRec 0 r.seq).fenceAddr r) 8).2.1 = 0) ∧
    (∃ (s : State) (r : Rec), s.runningRec 0 2 = some r ∧ r.met = true) ∧
    (∃ (s : State) (r : Rec), s.runningRec 0 2 = some r ∧ r.met = false ∧ field r.bytes 40 4 ≠ 0xFFFFFFFF) ∧
    (∃ (s : State) (r : Rec), s.unhindered = true ∧ s.startable 0 0x03 r s.fenceCheck ∧
      ((s.runRec 0 r.seq).devStore ((s.runRec 0 r.seq).fenceWho 0 r) ((s.runRec 0 r.seq).fenceAddr r)
        (leBytes 8 (s.runRec 0 r.seq).now)).2 = 0) :=
  ⟨⟨withRec 0 (recOf 0 []), 1, by decide +kernel⟩,
   ⟨(withRec 0 (recOf 0 [])).wr (HIF_QSTAT_STATE.idx 0) 2, 15, by decide +kernel⟩,
   ⟨((withRec 0 (recOf 0 [])).setQueue 0 { live := true, log2n := 4, cqLog2n := 4 }).wr (HIF_QSTAT_STATE.idx 0) 1, by decide +kernel⟩,
   ⟨(((withRec 0 (recOf 0 [])).setQueue 0 { live := true, log2n := 4, cqLog2n := 4 }).wr (HIF_QSTAT_STATE.idx 0) 1).wr
      (HIF_CQHEAD_INDEX.idx 0) 15, by decide +kernel⟩,
   ⟨withRec 0 (recOf 0 []), recOf 0 [], by decide +kernel⟩,
   ⟨withRec 0 (recOf 1 [(16, 4, hObj), (32, 8, 5)]), _, recOf 1 [(16, 4, hObj), (32, 8, 5)], by decide +kernel, by decide +kernel, rfl,
    by decide +kernel, by decide +kernel⟩,
   ⟨withRec 0 (recOf 2 [(16, 4, hObj), (32, 8, 5)]), recOf 2 [(16, 4, hObj), (32, 8, 5)], by decide +kernel⟩,
   ⟨withRec 0 { recOf 2 [] with phase := .running, met := true }, { recOf 2 [] with phase := .running, met := true }, by decide +kernel⟩,
   ⟨withRec 0 { recOf 2 [] with phase := .running }, { recOf 2 [] with phase := .running }, by decide +kernel⟩,
   ⟨withRec 0 (recOf 3 [(16, 4, hObj)]), recOf 3 [(16, 4, hObj)], by decide +kernel⟩⟩

/-- A JOB_RUN record of one comb and one tick of budget; a STEP_RUN adds the fields of R252. -/
def jobFields : List (Nat × Nat × Nat) := [(16, 4, hObj), (24, 4, hObj), (32, 4, 1 + 2 ^ 20)]

/-- A job on key 1. -/
def withJob (j : Job) : State := withObject.setJob 1 j

/-- The same, ready at queue 0 with combs released, its record in progress. -/
def readyJob (j : Job) : State :=
  ((withRec 1 { recOf 0x30 [] with seq := j.seq, phase := .running }).setJob 1 j).wr IDN_BOOT_STAGE 6

/-- Every hypothesis of JobCommandsComplete is met somewhere. -/
theorem witness_JobCommandsComplete :
    (∃ (s : State) (r : Rec), s.startable 0 0x30 r (s.fgCheck 0)) ∧ (∃ (s : State) (r : Rec), s.startable 0 0x31 r (s.fgCheck 0)) ∧
    (∃ (s w : State) (r : Rec), s.unhindered = true ∧ w = s.checkReads 0 0x10 (fun _ => true) (State.readLive 0) ∧
      w.startable 0 0x10 r (fun r => w.jobCheck (w.recColony 0 r) r.bytes 1 0)) ∧
    (∃ (s : State) (j : Job), earliest (s.readyList 0) = some (1, j) ∧ s.combsServe = true ∧ s.unreachable 0 j = false ∧
      s.mayStart 0 1 j = true ∧ (j.forager = true → s.cqRoom j.slot (s.queue j.slot) = true)) ∧
    (∃ (s : State) (j : Job), s.job 1 = j ∧ j.live = true ∧ j.phase = .switching ∧ s.switchEnds j = true ∧ s.workHeld = false ∧
      s.jobClocked j = true) ∧
    (∃ (s : State) (j : Job), s.job 1 = j ∧ j.live = true ∧ j.phase = .running ∧ j.forager = true ∧ s.jobClocked j = true) ∧
    (∃ (s : State) (j : Job), s.job 1 = j ∧ j.live = true ∧ j.phase = .running ∧ j.forager = false ∧ j.combs.all s.combEnded = true ∧
      s.jobClocked j = true ∧ s.jobHalted j = false) ∧
    (∃ (s : State) (j : Job), s.job 1 = j ∧ j.live = true ∧ j.phase = .saving ∧ s.jobClocked j = true) ∧
    (∃ (s : State) (j : Job), s.job 1 = j ∧ j.live = true ∧ j.phase = .releasing) ∧
    (∃ (s : State) (j : Job), earliest (s.readyList 16) = some (1, j) ∧ s.poolLists.contains 16 = true) :=
  ⟨⟨withRec 1 (recOf 0x30 [(16, 4, hObj), (20, 4, hObj), (32, 8, 4096), (40, 4, 64)]),
    recOf 0x30 [(16, 4, hObj), (20, 4, hObj), (32, 8, 4096), (40, 4, 64)], by decide +kernel⟩,
   ⟨withRec 1 (recOf 0x31 [(20, 4, hObj), (40, 4, 64)]), recOf 0x31 [(20, 4, hObj), (40, 4, 64)], by decide +kernel⟩,
   ⟨withRec 0 (recOf 0x10 jobFields), _, recOf 0x10 jobFields, by decide +kernel, rfl, by decide +kernel⟩,
   ⟨readyJob { live := true, ncomb := 1, colony := some 0 }, { live := true, ncomb := 1, colony := some 0 }, by decide +kernel⟩,
   ⟨withJob { live := true, phase := .switching, combs := [0] }, { live := true, phase := .switching, combs := [0] }, by decide +kernel⟩,
   ⟨withJob { live := true, phase := .running, forager := true }, { live := true, phase := .running, forager := true }, by decide +kernel⟩,
   ⟨(withJob { live := true, phase := .running, combs := [0] }).modComb 0 fun c => { c with lastIssued := true },
    { live := true, phase := .running, combs := [0] }, by decide +kernel⟩,
   ⟨withJob { live := true, phase := .saving }, { live := true, phase := .saving }, by decide +kernel⟩,
   ⟨withJob { live := true, phase := .releasing }, { live := true, phase := .releasing }, by decide +kernel⟩,
   ⟨readyJob { live := true, forager := true, ncomb := 1 }, { live := true, forager := true, ncomb := 1 }, by decide +kernel⟩⟩

/-- A SEQ_JOIN record's fields: 1 page of 16 positions, KV format 3, list in the object. -/
def joinFields : List (Nat × Nat × Nat) := [(16, 4, hObj), (24, 2, 1), (26, 1, 3), (36, 4, 1), (40, 4, 16)]

/-- A live sequence of colony 0 with OWNER 1. -/
def withSeq (s : State) : State := s.setSeq false 0 { state := 1, owner := 1, g := 1, kvFmt := 3, limit := 16 }

/-- Every hypothesis of SequenceCommandsComplete is met somewhere. -/
theorem witness_SequenceCommandsComplete :
    (∃ (s : State) (a : AllocReq), s.unhindered = true ∧ s.pwr.enginesHeld = false ∧ pickReq s.honey.reqs = some a) ∧
    (∃ (s w : State) (r : Rec), s.unhindered = true ∧ w = s.checkReads 0 0x20 (fun _ => true) (State.readPrefix 0) ∧
      w.startable 0 0x20 r (fun r => w.joinCheck (w.recColony 0 r) r.bytes)) ∧
    (∃ (s : State) (r : Rec), s.startable 0 0x21 r (fun r => firstField [(s.ownerOk (s.recColony 0 r) r.bytes, E_RANGE, 16)])) ∧
    (∀ op ∈ [1, 2, 3, 4, 5], ∃ (s : State) (r : Rec), s.pickRec 0 0x22 (fun x => field x.bytes 20 1 == op ||
      !decide (1 ≤ field x.bytes 20 1 ∧ field x.bytes 20 1 ≤ 5)) = some r ∧ s.cqRoom 0 (s.queue 0) = true ∧ field r.bytes 20 1 = op ∧
      s.ownerOk (s.recColony 0 r) r.bytes = true ∧ s.check10 (s.queue 0).cls = 0) ∧
    (∃ (s w : State) (r : Rec), s.unhindered = true ∧ w = s.checkReads 0 0x23 (fun _ => true) (State.readLive 0) ∧
      w.pickRec 0 0x23 (fun _ => true) = some r ∧ w.cqRoom 0 (w.queue 0) = true ∧ (w.jobCheck (w.recColony 0 r) r.bytes 1 0).1 = 0 ∧
      (w.stepCheck r.bytes).1 = 0 ∧ w.check10 (w.queue 0).cls = 0) ∧
    (∃ (s : State) (j : Job), s.job 1 = j ∧ j.live = true ∧ j.phase = .building ∧ (s.stepOf (j.colony.getD 0)).job = none) :=
  ⟨⟨{ State.reset with honey := { State.reset.honey with reqs := [{ step := false, comb := 0, job := 1, item := none, lpage := 0 }] } },
    { step := false, comb := 0, job := 1, item := none, lpage := 0 }, by decide +kernel⟩,
   ⟨withRec 0 (recOf 0x20 joinFields), _, recOf 0x20 joinFields, by decide +kernel, rfl, by decide +kernel⟩,
   ⟨withSeq (withRec 0 (recOf 0x21 [(16, 3, 1)])), recOf 0x21 [(16, 3, 1)], by decide +kernel⟩,
   by
    intro op h
    simp only [List.mem_cons, List.not_mem_nil, or_false] at h
    rcases h with rfl | rfl | rfl | rfl | rfl
    · exact ⟨withSeq (withRec 0 (recOf 0x22 [(16, 3, 1), (20, 1, 1)])), recOf 0x22 [(16, 3, 1), (20, 1, 1)], by decide +kernel⟩
    · exact ⟨withSeq (withRec 0 (recOf 0x22 [(16, 3, 1), (20, 1, 2)])), recOf 0x22 [(16, 3, 1), (20, 1, 2)], by decide +kernel⟩
    · exact ⟨withSeq (withRec 0 (recOf 0x22 [(16, 3, 1), (20, 1, 3)])), recOf 0x22 [(16, 3, 1), (20, 1, 3)], by decide +kernel⟩
    · exact ⟨withSeq (withRec 0 (recOf 0x22 [(16, 3, 1), (20, 1, 4)])), recOf 0x22 [(16, 3, 1), (20, 1, 4)], by decide +kernel⟩
    · exact ⟨withSeq (withRec 0 (recOf 0x22 [(16, 3, 1), (20, 1, 5)])), recOf 0x22 [(16, 3, 1), (20, 1, 5)], by decide +kernel⟩,
   ⟨withRec 0 (recOf 0x23 (jobFields ++ [(64, 4, hObj), (72, 2, 1), (76, 2, 1), (78, 1, 1)]) 2), _,
    recOf 0x23 (jobFields ++ [(64, 4, hObj), (72, 2, 1), (76, 2, 1), (78, 1, 1)]) 2, by decide +kernel, rfl, by decide +kernel⟩,
   ⟨withJob { live := true, phase := .building }, { live := true, phase := .building }, by decide +kernel⟩⟩

/-- A comb that runs job 1 of queue 0. -/
def withComb (c : Comb) : State :=
  (withRec 0 (recOf 0x10 []) (withObject.setJob 1 { live := true, phase := .running, combs := [0], colony := some 0 })).modComb 0 fun _ =>
    { c with job := some 1 }

/-- A comb whose forager 0 has a queue or executes a descriptor. -/
def withForager (f : Forager) : State := withComb { foragers := [(0, f)] }

/-- A scratchpad operation of one 32-byte word, or on the whole cache. -/
def spBytes (op : Nat) : List Byte := bytesOf 32 [(0, 1, op), (12, 4, 1)]

/-- A transfer of 32 bytes to the scratchpad of comb 0. -/
abbrev xferIn : DramXfer := { toSpad := true, obj := hObj, off := 0, comb := 0, spad := 0, size := 32 }
/-- A transfer of 32 bytes from it. -/
abbrev xferOut : DramXfer := { toSpad := false, obj := hObj, off := 0, comb := 0, spad := 0, size := 32 }

/-- Every hypothesis of ForagerCommandsComplete is met somewhere. -/
theorem witness_ForagerCommandsComplete :
    (∃ s : State, s.unhindered = true ∧ s.combRuns 0 = true ∧ (s.comb 0).lastIssued = false ∧ s.dieRuns (0 / 16) = true) ∧
    (∃ (s : State) (ops : List BOp) (x : Nat × Bool), s.unhindered = true ∧ (s.comb 0).held = some (ops, false) ∧ ((s.comb 0).endCycle none).waitSlot ops = some x ∧
      s.combRuns 0 = true ∧ s.on (CMB_DBG_HALT.idx 0) = false) ∧
    (∃ (s : State) (t : Xfer), s.unhindered = true ∧ (s.forager 0 0).cur = some t ∧ (s.xferWaits 0 t).isSome = true ∧
      s.dieRuns (0 / 16) = true) ∧
    (∃ (s : State) (x : DramXfer), s.unhindered = true ∧ (s.forager 0 0).cur = none ∧ (s.forager 0 0).queue = [(.dram x, 0)] ∧ s.dramCheck 0 x = 0) ∧
    (∃ (s : State) (x : DramXfer) (n : Nat), s.unhindered = true ∧ (s.forager 0 0).cur = some ⟨.dram x, 0, n, 0⟩ ∧ n = (xferSlots 0 (.dram x)).length ∧
      x.toSpad = true ∧ ((s.setForager 0 0 { s.forager 0 0 with cur := none }).objLoad (s.xferWho 0 x) x.obj x.off x.size).2.1 = 0) ∧
    (∃ (s : State) (x : DramXfer) (n : Nat), s.unhindered = true ∧ (s.forager 0 0).cur = some ⟨.dram x, 0, n, 0⟩ ∧ n = (xferSlots 0 (.dram x)).length ∧
      x.toSpad = false ∧ ((s.setForager 0 0 { s.forager 0 0 with cur := none }).objStore (s.xferWho 0 x) x.obj x.off
        (((s.setForager 0 0 { s.forager 0 0 with cur := none }).comb x.comb).bytes x.comb x.spad x.size)).2 = 0) ∧
    (∀ op ∈ [8, 9, 10, 11, 12], ∃ (s : State) (b : List Byte), s.unhindered = true ∧ (s.forager 0 0).cur = none ∧ (s.forager 0 0).queue = [(.op b, 0)] ∧
      (s.comb 0).spCheck b = 0 ∧ (SpOp.ofBytes b).op = op) ∧
    (∃ (s : State) (b : List Byte) (n : Nat), s.unhindered = true ∧ (s.forager 0 0).cur = some ⟨.op b, 0, n, 0⟩ ∧ n = (xferSlots 0 (.op b)).length) :=
  ⟨⟨withComb {}, by decide +kernel⟩,
   ⟨withComb { held := some ([.read false 0 (.vreg 0 0) false 0], false) }, [.read false 0 (.vreg 0 0) false 0], (0, false), by decide +kernel⟩,
   ⟨withForager { cur := some { desc := .dram xferOut, sched := 0 } }, { desc := .dram xferOut, sched := 0 }, by decide +kernel⟩,
   ⟨withForager { queue := [(.dram xferIn, 0)] }, xferIn, by decide +kernel⟩,
   ⟨withForager { cur := some { desc := .dram xferIn, sched := 0, admitted := 1 } }, xferIn, 1, by decide +kernel⟩,
   ⟨withForager { cur := some { desc := .dram xferOut, sched := 0, admitted := 1 } }, xferOut, 1, by decide +kernel⟩,
   by
    intro op h
    refine ⟨withForager { queue := [(.op (spBytes op), 0)] }, spBytes op, ?_⟩
    simp only [List.mem_cons, List.not_mem_nil, or_false] at h
    rcases h with rfl | rfl | rfl | rfl | rfl <;> decide +kernel,
   ⟨withForager { cur := some { desc := .op (spBytes 8), sched := 0, admitted := 1 } }, spBytes 8, 1, by decide +kernel⟩⟩

/-- Every hypothesis of CombDebugCommandsComplete is met somewhere. -/
theorem witness_CombDebugCommandsComplete :
    (∃ s : State, s.unhindered = true ∧ (s.drainWriteBacks 0).2 = 0 ∧ ((s.drainWriteBacks 0).1.comb 0).fill = none) ∧
    (∃ (s : State) (x : Nat × Nat), s.unhindered = true ∧ (s.drainWriteBacks 0).2 = 0 ∧ ((s.drainWriteBacks 0).1.comb 0).fill = some x ∧
      ((s.drainWriteBacks 0).1.devLoad ((s.drainWriteBacks 0).1.combWho 0) x.1 512).2.1 = 0) ∧
    (∃ s : State, s.unhindered = true ∧ s.isLc 0 = false ∧ s.on HIF_LOCKCFG_CMB_HALT_DENY = false ∧ (s.wrB (CMB_DBG_HALT.idx 0) true).combRuns 0 = true) ∧
    (∃ s : State, s.unhindered = true ∧ s.isLc 0 = true) ∧ (∃ s : State, s.unhindered = true ∧ (s.wrB (CMB_DBG_HALT.idx 0) false).on (CMB_DBG_HALTED.idx 0) = true) ∧
    (∃ s : State, s.unhindered = true ∧ s.isLc 0 = false ∧ s.on HIF_LOCKCFG_CMB_HALT_DENY = false ∧ s.on (CMB_DBG_HALT.idx 0) = true ∧
      s.on (CMB_DBG_HALTED.idx 0) = true ∧ (s.wrB (CMB_DBG_HALT.idx 0) true).combRuns 0 = true) ∧
    (∃ s : State, s.unhindered = true ∧ (s.wr CMB_SPD_ADDR_ADDR 0).on CMB_SPD_ADDR_BUSY = false) ∧ (∃ s : State, s.unhindered = true ∧ s.spdRead = some (0, 0)) :=
  let be (s : State) : State := { s with colonies := [(0, { live := true, ncomb := 1, labels := 1, classMap := 1 })] }
  ⟨⟨State.reset, by decide +kernel⟩, ⟨withComb { fill := some (0, 0) }, (0, 0), by decide +kernel⟩,
   ⟨be (withComb {}), by decide +kernel⟩, ⟨withComb {}, by decide +kernel⟩, ⟨State.reset.wr (CMB_DBG_HALTED.idx 0) 1, by decide +kernel⟩,
   ⟨((be (withComb {})).wr (CMB_DBG_HALTED.idx 0) 1).wr (CMB_DBG_HALT.idx 0) 1, by decide +kernel⟩,
   ⟨State.reset, by decide +kernel⟩, ⟨{ State.reset with spdRead := some (0, 0) }, by decide +kernel⟩⟩

/-- A request of one word, of comb 0 unless another source is given. -/
def dramReq (kind : Nat) (source : Nat := 0x47) (addr : Nat := 0) : DramReq :=
  { kind := kind, addr := addr, words := 1, mask := [0xFFFF_FFFF_FFFF_FFFF], data := List.replicate 64 1, hint := 0, label := 0, honey := false,
    deadline := none, poison := [false], source := source }

/-- The same on its way. -/
def chanReq (kind : Nat) : ChanReq := { req := dramReq kind, colony := 0, cls := 3 }

/-- Pair 0 trained, with one channel. -/
def withChan (c : Chan) (s : State := withObject) : State := (s.setChan 0 0 c).wr (DMC_STATUS_TRAINED.idx 0) 1

/-- The same with requests in the queues of channel 0. -/
def fullChan : State := withChan { reads := List.replicate 64 (chanReq 0) }

/-- Every hypothesis of DramCommandsComplete is met somewhere. -/
theorem witness_DramCommandsComplete :
    (∃ (s : State) (r : DramReq), s.niSource r = false) ∧
    (∃ (s : State) (r : DramReq), s.niSource r = true ∧ s.allowed (reqWho (s.niReq r)) r.addr = false) ∧
    (∃ (s : State) (r : DramReq) (q : ChanReq), s.niSource r = true ∧ s.dieRoute r.source (s.dieOffset r.addr).1 = [] ∧
      (s.dieOffset r.addr).1 = 0 ∧ offCh (s.dieOffset r.addr).2 = 0 ∧ q = s.leavePoint (s.niReq r) ∧ s.allowed (reqWho (s.niReq r)) r.addr = true ∧
      s.addrExcluded r.addr = true) ∧
    (∃ (s : State) (r : DramReq) (q : ChanReq), s.niSource r = true ∧ s.dieRoute r.source (s.dieOffset r.addr).1 = [] ∧
      (s.dieOffset r.addr).1 = 0 ∧ offCh (s.dieOffset r.addr).2 = 0 ∧ q = s.leavePoint (s.niReq r) ∧ s.allowed (reqWho (s.niReq r)) r.addr = true ∧
      s.addrExcluded r.addr = false ∧ (s.chan 0 0).full q.req = true) ∧
    (∀ kind ∈ [0, 1, 2], ∃ (s : State) (r : DramReq) (q : ChanReq), s.niSource r = true ∧
      s.dieRoute r.source (s.dieOffset r.addr).1 = [] ∧
      (s.dieOffset r.addr).1 = 0 ∧ offCh (s.dieOffset r.addr).2 = 0 ∧ q = s.leavePoint (s.niReq r) ∧ s.allowed (reqWho (s.niReq r)) r.addr = true ∧
      s.addrExcluded r.addr = false ∧ r.kind = kind ∧
      (s.mem.waiting.any fun m => m.place == 24 && shareWord m.req.req q.req) = false ∧ (s.chan 0 0).reads.length < 64 ∧ (s.chan 0 0).writes.length < 64) ∧
    (∃ (s : State) (q : ChanReq), s.nextReq 0 0 = some (true, q)) ∧ (∃ s : State, s.nextReq 0 0 = none) ∧
    (∀ debt ∈ [0, 7], ∀ wanted : Bool, ∃ (s : State) (due : Nat), s.on (DMC_STATUS_SELF_REFRESH.idx 0) = false ∧
      s.on (DMC_STATUS_TRAINED.idx 0) = true ∧
      due = 8 * s.tclk + s.trefi 0 ∧ ((s.chan 0 0).bank 0).due = 0 ∧ (((s.waitTo (ceilDiv due 8)).chan 0 0).bank 0).debt = debt ∧
      ((s.waitTo (ceilDiv due 8)).raise (DMC_REF_MAX_DEBT.idx 0) (debt + 1)).bankWanted 0 0 0 = wanted) ∧
    (∃ (s : State) (t : Int), s.mimiderTemps 0 = [t] ∧ 1344 < t ∧
      (s.wr (DMC_STATUS_TEMP_MAX.idx 0) (ofInt 8 (t / 16))).on (DMC_STATUS_HOT.idx 0) = false) ∧
    (∃ s : State, ((s.chan 0 0).bank 0).row = some 0 ∧ ((s.chan 0 0).bank 0).policy = 0 ∧
      (((s.chan 0 0).reads ++ (s.chan 0 0).writes).any fun q =>
        offBank (s.dieOffset q.req.addr).2 == 0 && offRow (s.dieOffset q.req.addr).2 == 0) = false) ∧
    (∃ s : State, s.unhindered = true ∧ s.on (DMC_STATUS_TRAINED.idx 0) = true ∧ s.on (DMC_STATUS_EXCLUDED.idx 0) = false ∧
      ((s.setDmc 0 { s.dmc 0 with scrub := ((s.dmc 0).scrub + 1) % 2 ^ 28 }).passBurst scrubWho false (s.addrOf 0 (64 * (s.dmc 0).scrub))
        64).isPoisoned (s.addrOf 0 (64 * (s.dmc 0).scrub) / 64) = false) :=
  ⟨⟨State.reset, dramReq 0 0x48, by decide +kernel⟩,
   ⟨withObject, dramReq 0 0x45 0x200000, by decide +kernel⟩,
   ⟨withObject.wr (DMC_STATUS_EXCLUDED.idx 0) 1, dramReq 0, _, by decide +kernel, by decide +kernel, by decide +kernel, by decide +kernel, rfl,
     by decide +kernel, by decide +kernel⟩,
   ⟨fullChan, dramReq 0, _, by decide +kernel, by decide +kernel, by decide +kernel, by decide +kernel, rfl, by decide +kernel,
     by decide +kernel, by decide +kernel⟩,
   by
    intro k h
    refine ⟨withObject, dramReq k, withObject.leavePoint (withObject.niReq (dramReq k)), ?_⟩
    simp only [List.mem_cons, List.not_mem_nil, or_false] at h
    rcases h with rfl | rfl | rfl <;>
      decide +kernel,
   ⟨withChan { reads := [chanReq 0] }, chanReq 0, by decide +kernel⟩, ⟨State.reset, by decide +kernel⟩,
   by
    intro k h w
    refine ⟨withChan { reads := if w then [chanReq 0] else [], banks := [(0, { debt := k })] }, 3900, ?_⟩
    simp only [List.mem_cons, List.not_mem_nil, or_false] at h
    rcases h with rfl | rfl <;> cases w <;> decide +kernel,
   ⟨((withChan {}).wr (THM_SENSOR_VALID.bank 55) 1).wr (THM_SENSOR_TEMP.bank 55) 1345, 1345, by decide +kernel⟩,
   ⟨withChan { banks := [(0, { row := some 0 })] }, by decide +kernel⟩,
   ⟨withChan {}, by decide +kernel⟩⟩

/-- Every hypothesis of ParityFailureCompletes is met somewhere. -/
theorem witness_ParityFailureCompletes :
    (∃ x : Chan, x.reads.filter (fun q => q.req.addr / 512 == 0 / 512) ++ (x.writes.filter fun q => q.req.addr / 512 == 0 / 512 && isRmw q.req)
      = [chanReq 0, chanReq 2] ∧ x.parityAt = none) ∧
    (∃ (s : State) (x : Chan), x.reads.filter (fun q => q.req.addr / 512 == 0 / 512) = [chanReq 0] ∧ x.parityAt = some 0 ∧
      s.tclk < 0 + 125000 ∧ x = s.chan 0 0) ∧
    (∃ x : Chan, x.writes.filter (fun q => q.req.addr / 512 == 0 / 512) = [chanReq 1] ∧ x.parityAt = none) ∧
    (∃ (s : State) (x : Chan), x = s.chan 0 0 ∧ x.reads.filter (fun q => offBank (s.dieOffset q.req.addr).2 == 1) = [] ∧
      x.writes.filter (fun q => offBank (s.dieOffset q.req.addr).2 == 1) = [] ∧ x.parityAt = none) :=
  ⟨⟨{ reads := [chanReq 0], writes := [chanReq 2] }, by decide +kernel⟩,
   ⟨withChan { reads := [chanReq 0], parityAt := some 0 }, { reads := [chanReq 0], parityAt := some 0 }, by decide +kernel⟩,
   ⟨{ writes := [chanReq 1] }, by decide +kernel⟩,
   ⟨withChan { reads := [chanReq 0] }, { reads := [chanReq 0] }, by decide +kernel⟩⟩

/-- One ATTACHED registry entry. -/
def withEntry (kind port key : Nat) (s : State := State.reset) : State :=
  s.setEntry 0 { state := 1, kind := kind, port := port, key := key, gen := 1 }

/-- An empty frame, and one for the time service. -/
def plainFrame : List Byte := List.replicate 64 0
def timeFrame : List Byte := patch plainFrame 12 [0x88, 0xF7]

/-- Every hypothesis of NectarPortEventsComplete is met somewhere. -/
theorem witness_NectarPortEventsComplete :
    (∀ t ∈ [0, 1, 2], ∃ (s : State) (p : CsiPacket), 0 ≤ tget 0 s.ports.csiFill 0 ∧ tget 0 s.ports.csiFill 0 - 0 + p.payload.length ≤ 524288 ∧
      p.header = 0 ∧ p.dtype = t ∧ ({ s with ports := { s.ports with
        csiStop := tset none s.ports.csiStop 0 none
        csiFill := tset 0 s.ports.csiFill 0 (tget 0 s.ports.csiFill 0 - 0 + p.payload.length) } } : State).attached 1 0x100 p.vc = some 0) ∧
    (∃ (s : State) (p : CsiPacket), p.header = 0 ∧ p.dtype = 0 ∧ tget 0 s.ports.csiFill 0 - 0 + p.payload.length ≤ 524288 ∧
      ({ s with ports := { s.ports with
        csiStop := tset none s.ports.csiStop 0 none
        csiFill := tset 0 s.ports.csiFill 0 (tget 0 s.ports.csiFill 0 - 0 + p.payload.length) } } : State).attached 1 0x100 p.vc = none) ∧
    (timeFrame.length ≤ 9216 ∧ isTimeMsg timeFrame = true) ∧
    (∃ s : State, plainFrame.length ≤ 9216 ∧ isTimeMsg plainFrame = false ∧
      ({ s with ports := { s.ports with ethFill := tset 0 (tset 0 s.ports.ethFill 0 0) 0 64 } } : State).attached 2 0x200 (ethKey plainFrame)
        = some 0) ∧
    (∃ s u : State, u = { s with ports := { s.ports with ethFill := tset 0 (tset 0 s.ports.ethFill 0 0) 0 64 } } ∧
      u.attached 2 0x200 (ethKey plainFrame) = none ∧ u.ethSteady 0 = true ∧
      (u.attach 2 0x200 (ethKey plainFrame) 0).attached 2 0x200 (ethKey plainFrame) = some 0) ∧
    (∃ s : State, s.detachDue 0 2 = some 25000000) :=
  ⟨by
    intro t h
    refine ⟨withEntry 1 0x100 0, { vc := 0, dtype := t }, ?_⟩
    simp only [List.mem_cons, List.not_mem_nil, or_false] at h
    rcases h with rfl | rfl | rfl <;> decide +kernel,
   ⟨State.reset, { vc := 0, dtype := 0 }, by decide +kernel⟩, by decide +kernel, ⟨withEntry 2 0x200 0, by decide +kernel⟩,
   ⟨{ State.reset with tclk := 12500000, ports := { State.reset.ports with ethUp := [(0, some 0)] } }, _, rfl, by decide +kernel⟩,
   ⟨withEntry 1 0x100 0, by decide +kernel⟩⟩

/-- Every hypothesis of ControlPortEventsComplete is met somewhere. -/
theorem witness_ControlPortEventsComplete :
    (∃ (s : State) (f : CanFrame), s.canCarries 0 f = true ∧ ((tget ([] : List CanFrame) s.ports.canRx 0).drop 0).length < 64) ∧
    (∃ s : State, s.canNext 0 = some (0, {})) ∧
    (∃ s : State, (s.isobusOf 0).on = true ∧ (s.isobusOf 0).silent = false) ∧
    (∃ s : State, (({ s with ports := { s.ports with spiCapture := tset 0 s.ports.spiCapture (4 * 0 + 0) (s.now - 0) } } : State).controlSpi
      0x400 0 [] (s.now - 0)).attached 4 0x400 0 = none) ∧
    (∃ s : State, (({ s with ports := { s.ports with spiCapture := tset 0 s.ports.spiCapture (4 * 0 + 0) (s.now - 0) } } : State).controlSpi
      0x400 0 [] (s.now - 0)).attached 4 0x400 0 = some 0) ∧
    (∃ s : State, s.ports.cfg.gpioOut.getLsbD 0 = false ∧ false = s.ports.cfg.gpioPol.getLsbD 0 ∧ tget ([] : List Nat) s.ports.gpioEdges 0 = [0] ∧ 0 + 16 ≤ s.now) ∧
    (∃ s : State, (tget ({} : Pwm) s.ports.pwm 0).latched = some 0) :=
  let p := State.reset.ports
  ⟨⟨State.reset, {}, by decide +kernel⟩, ⟨{ State.reset with ports := { p with canTx := [(0, some {})] } }, by decide +kernel⟩,
   ⟨{ State.reset with ports := { p with isobus := [(0, { on := true })] } }, by decide +kernel⟩,
   ⟨State.reset, by decide +kernel⟩, ⟨withEntry 4 0x400 0, by decide +kernel⟩,
   ⟨{ withFields [(TIM_NOW_NS, 16)] with ports := { p with gpioEdges := [(0, [0])] } }, by decide +kernel⟩,
   ⟨{ State.reset with ports := { p with pwm := [(0, { latched := some 0 })] } }, by decide +kernel⟩⟩

/-- Every hypothesis of RegistryCommandsComplete is met somewhere, in each of its three modes. -/
theorem witness_RegistryCommandsComplete (m : Nat) (h : m ∈ [0, 1, 2]) :
    ∃ (s : State) (r : Rec), s.unhindered = true ∧ s.pickRec 0 0x4F (fun x => bitsOf (field x.bytes 16 1) 0 2 == m || bitsOf (field x.bytes 16 1) 0 2 == 3) = some r ∧
      s.cqRoom 0 (s.queue 0) = true ∧ bitsOf (field r.bytes 16 1) 0 2 = m ∧ (s.checks (s.queue 0).cls (s.registryCheck r)).1 = 0 := by
  simp only [List.mem_cons, List.not_mem_nil, or_false] at h
  rcases h with rfl | rfl | rfl
  · exact ⟨withRec 2 (recOf 0x4F [(24, 4, hObj)]), recOf 0x4F [(24, 4, hObj)], by decide +kernel⟩
  · exact ⟨withEntry 2 0x200 0 (withRec 2 (recOf 0x4F [(16, 1, 1), (18, 2, 1)])), recOf 0x4F [(16, 1, 1), (18, 2, 1)], by decide +kernel⟩
  · exact ⟨withEntry 2 0x200 0 (withRec 2 (recOf 0x4F [(16, 1, 2), (18, 2, 1)])), recOf 0x4F [(16, 1, 2), (18, 2, 1)], by decide +kernel⟩

/-- The servo with a configuration in effect. -/
def withTimCfg (c : Nat) (l : List (Fld × Nat)) : State :=
  { (withFields l).setReg TIM_CFG_SRC.off (BitVec.ofNat 64 c) with servo := { State.reset.servo with cfg := c, ppsAt := some 0 } }

/-- Every hypothesis of TimeCommandsComplete is met somewhere. -/
theorem witness_TimeCommandsComplete :
    (∃ s : State, cfgSrc s.applyTimCfg.servo.cfg ≠ 0 ∧ bitsOf s.applyTimCfg.servo.cfg (12 + 0) 1 ≠ 0) ∧
    (∃ s : State, s.applyTimCfg.rd TIM_STATUS_STATE = timLocked ∧ s.applyTimCfg.gnssReady = false) ∧
    (∃ s : State, s.expiryTicks = some 125125000 ∧ s.rd TIM_STATUS_STATE = timHoldover) ∧
    (∃ s : State, cfgSrc s.applyTimCfg.servo.cfg = 1 ∧ bitsOf s.applyTimCfg.servo.cfg 3 1 = 1) ∧
    (∃ s : State, bitsOf s.applyTimCfg.servo.cfg 3 1 ≠ 1) ∧
    (∃ s : State, false = (bitsOf s.servo.cfg 11 1 == 1) ∧ s.servo.ppsAt = none) ∧ (∃ s : State, s.servo.ppsAt = some 0) :=
  ⟨⟨withTimCfg 0x1001 [], by decide +kernel⟩, ⟨withTimCfg 1 [(TIM_STATUS_STATE, 2)], by decide +kernel⟩,
   ⟨withTimCfg 1 [(TIM_STATUS_STATE, 3), (TIM_HOLD_LIMIT, 1), (TIM_HOLD_DRIFT, 1000)], by decide +kernel⟩,
   ⟨withTimCfg 9 [], by decide +kernel⟩, ⟨withTimCfg 1 [], by decide +kernel⟩, ⟨State.reset, by decide +kernel⟩, ⟨withTimCfg 1 [], by decide +kernel⟩⟩

/-- A camera calibration of sensor 5 (R361). -/
def camCal : List Byte :=
  bytesOf 128 [(0, 1, 1), (2, 2, 5), (4, 2, 64), (6, 2, 64), (8, 4, 0x3F800000), (36, 4, 0x3F800000), (40, 4, 0x3F800000), (76, 4, 1000),
    (80, 1, 0x2A), (81, 1, 50)]

/-- The fusion engine with a change. -/
def withFus (f : Fusion → Fusion) (s : State := State.reset) : State := { s with fus := f s.fus }

/-- A closed instant with one collector. -/
def closedOne : Closed :=
  { k := 1, closeAt := 0, points := [], frames := [], motion := {}, overflow := false, late := [], drop := [], calibs := [],
    collectors := [(0, 0)] }

/-- Every hypothesis of FusionCommandsComplete is met somewhere. -/
theorem witness_FusionCommandsComplete :
    (∃ (s : State) (x : Nectar), s.workHeld = false ∧ s.fus.arriving.find? (fun y => y.kind != 1) = some x) ∧
    (∃ (s : State) (x : Nectar), s.workHeld = false ∧ s.fus.arriving.find? (fun y => y.kind == 1) = some x) ∧
    (∃ s : State, s.workHeld = false ∧ s.fusionHeld = false ∧ s.fus.closed = none ∧ s.fus.ck s.nextInstant < (s.waitNs (s.fus.ck s.nextInstant + 1)).now) ∧
    (∃ (s : State) (r : Rec), s.unhindered = true ∧ s.workHeld = false ∧ s.fusionHeld = false ∧ s.fus.closed = some closedOne ∧ closedOne.collectors = [(0, 0)] ∧
      (({ s with fus := { s.fus with closed := none } } : State).queue 0).recs.find? (fun y => y.seq == 0) = some r) ∧
    (∃ (s : State) (r : Rec), s.unhindered = true ∧ s.pickRec 0 0x40 (fun _ => true) = some r ∧ s.cqRoom 0 (s.queue 0) = true ∧
      (s.camTable 0 r).1.startable 0 0x40 r ((s.camTable 0 r).1.collectCheck 0)) ∧
    (∃ (s : State) (r : Rec), s.fus.closed = none ∧ s.startable 0 0x42 r fuseConfigCheck) ∧
    (∃ (s t : State) (r : Rec), t = (s.calibObj 0 r).1 ∧ s.unhindered = true ∧ s.cqRoom 0 (s.queue 0) = true ∧
      s.pickRec 0 0x41 (fun r => !calRemove r) = some r ∧ t.cqRoom 0 (t.queue 0) = true ∧
      t.pickRec 0 0x41 (fun r => !calRemove r) = some r ∧ (t.checks (t.queue 0).cls (t.calibCheck 0 r)).1 = 0 ∧
      (t.runRec 0 r.seq).calibPlace (field r.bytes 18 2) = some 0 ∧ (t.runRec 0 r.seq).handleIdx 1 (field r.bytes 20 4) = some 1) ∧
    (∃ (s : State) (r : Rec), s.cqRoom 0 (s.queue 0) = true ∧ s.pickRec 0 0x41 calRemove = some r ∧ (s.checks (s.queue 0).cls (s.calibCheck 0 r)).1 = 0 ∧
      calSlot (s.runRec 0 r.seq).fus.calibs (field r.bytes 18 2) = some 0) :=
  ⟨⟨withFus (fun f => { f with arriving := [{ sensor := 0, kind := 2, capture := 0 }] }), { sensor := 0, kind := 2, capture := 0 },
    by decide +kernel⟩,
   ⟨withFus (fun f => { f with arriving := [{ sensor := 0, kind := 1, capture := 0 }] }), { sensor := 0, kind := 1, capture := 0 },
    by decide +kernel⟩,
   ⟨withFields [(TIM_NOW_NS, 10 ^ 9), (PWR_STATUS_PLL_LOCK_IOD, 1)], by decide +kernel⟩,
   ⟨withFus (fun f => { f with closed := some closedOne }) (withRec 2 (recOf 0x40 [])), recOf 0x40 [], by decide +kernel⟩,
   ⟨withRec 2 (recOf 0x40 [(16, 4, hObj)]), recOf 0x40 [(16, 4, hObj)], by decide +kernel⟩,
   ⟨withRec 2 (recOf 0x42 [(16, 1, 50), (17, 1, 3), (18, 1, 179), (19, 1, 77)]),
    recOf 0x42 [(16, 1, 50), (17, 1, 3), (18, 1, 179), (19, 1, 77)], by decide +kernel⟩,
   ⟨(withRec 2 (recOf 0x41 [(18, 2, 5), (20, 4, hObj)])).pokeBytes 0 camCal, _, recOf 0x41 [(18, 2, 5), (20, 4, hObj)], rfl, by decide +kernel⟩,
   ⟨withFus (fun f => { f with calibs := [(0, camCal)] }) (withRec 2 (recOf 0x41 [(16, 1, 1), (18, 2, 5)])),
    recOf 0x41 [(16, 1, 1), (18, 2, 5)], by decide +kernel⟩⟩

/-- The fields of a PLAN without obstacles, and the planner with a library in force. -/
def planFields : List (Nat × Nat × Nat) := [(17, 1, 1), (20, 2, 2), (24, 4, hObj), (112, 4, 0x3F800000), (120, 4, 375000)]
def withPln (r : Rec) (f : Planner → Planner := id) : State :=
  let s := (withRec 3 r).wr PLN_STATUS_LIB_VALID 1
  { s with pln := f s.pln }

/-- Every hypothesis of PlanCommandsComplete is met somewhere. -/
theorem witness_PlanCommandsComplete :
    (∃ (s : State) (r : Rec), s.startable 0 0x50 r s.planCheck) ∧ (∃ (s : State) (r : Rec), s.nextPlan = some (0, r)) ∧
    (∃ (s : State) (run : PlanRun) (rc : Rec), s.pln.run = some run ∧
      ((s.queue run.slot).recs.find? fun x => x.seq == run.seq && !x.isEnded) = some rc ∧ s.workHeld = false ∧ run.out = none ∧
      s.searchOf rc.bytes run.bank 0 = none ∧ s.searchCut rc.bytes run.bank none = false ∧
      (planOutcome none (s.planEnv rc.bytes (s.curBank.getD 0)) run.bank.isNone false [] [] []).1.stop = true ∧
      stopOk s.pln.lib rc.bytes (tget ([] : List Byte) s.pln.traj (bitsOf (field rc.bytes 16 1) 0 2)) [] = true) ∧
    (∃ (s : State) (run : PlanRun) (o : PlanOut) (rc : Rec), s.unhindered = true ∧ s.pln.run = some run ∧ run.out = some o ∧
      ((s.queue run.slot).recs.find? fun x => x.seq == run.seq && !x.isEnded) = some rc ∧ s.workHeld = false ∧
      (s.objStore (s.recWho run.slot rc 0x44) (field rc.bytes 24 4) (64 * field rc.bytes 28 4 + 64) o.sampleBytes).2 = 0 ∧
      ((s.objStore (s.recWho run.slot rc 0x44) (field rc.bytes 24 4) (64 * field rc.bytes 28 4 + 64) o.sampleBytes).1.objStore
        (s.recWho run.slot rc 0x44) (field rc.bytes 24 4) (64 * field rc.bytes 28 4) (o.header rc.bytes (s.objStore (s.recWho run.slot rc 0x44)
          (field rc.bytes 24 4) (64 * field rc.bytes 28 4 + 64) o.sampleBytes).1.now)).2 = 0) :=
  let run : PlanRun := { slot := 0, seq := 0, startAt := 0, bank := none }
  let r := recOf 0x50 planFields 2
  ⟨⟨withPln r, r, by decide +kernel⟩,
   ⟨withPln { r with phase := .running }, { r with phase := .running }, by decide +kernel⟩,
   ⟨withPln r fun p => { p with run := some run }, run, r, by decide +kernel⟩,
   ⟨withPln r fun p => { p with run := some { run with out := some {} } }, { run with out := some {} }, {}, r, by decide +kernel⟩⟩

/-- A library header of one primitive (R390). -/
def libHead : List Byte :=
  bytesOf 512 ([(0, 4, 3), (8, 2, 1), (64, 1, 3)] ++ (List.range 6).map fun i => (16 + 4 * i, 4, 0x3F800000))

/-- Every hypothesis of LoadCommandsComplete is met somewhere. -/
theorem witness_LoadCommandsComplete :
    (∃ (s : State) (r : Rec), s.unhindered = true ∧ s.startable 0 0x51 r s.occCheck) ∧ (∃ (s : State) (r : Rec), s.unhindered = true ∧ s.startable 0 0x52 r s.libCheck) ∧
    (∃ (s : State) (l : LoadRun) (r : Rec), s.unhindered = true ∧ s.loadRec false = some (l, r) ∧
      (s.objLoad (s.recWho l.slot r 0x44) (field r.bytes 20 4) (occOff r.bytes) (occBytes r.bytes)).2.1 = 0) ∧
    (∃ (s : State) (l : LoadRun) (r : Rec), s.unhindered = true ∧ s.loadRec true = some (l, r) ∧
      (s.objLoad (s.recWho l.slot r 0x44) (field r.bytes 16 4) (64 * field r.bytes 20 4) 512).2.1 = 0 ∧
      libHeaderOk (s.objLoad (s.recWho l.slot r 0x44) (field r.bytes 16 4) (64 * field r.bytes 20 4) 512).2.2 = true ∧
      s.objFits (field r.bytes 16 4) (64 * field r.bytes 20 4) (libBytes
        (s.objLoad (s.recWho l.slot r 0x44) (field r.bytes 16 4) (64 * field r.bytes 20 4) 512).2.2) = true) :=
  let occ := recOf 0x51 [(16, 1, 1), (20, 4, hObj)]
  let lib := recOf 0x52 [(16, 4, hObj)]
  ⟨⟨withPln occ, occ, by decide +kernel⟩, ⟨withPln lib, lib, by decide +kernel⟩,
   ⟨withPln occ fun p => { p with load := some ⟨0, 0, false, 0⟩ }, ⟨0, 0, false, 0⟩, occ, by decide +kernel⟩,
   ⟨(withPln lib fun p => { p with load := some ⟨0, 0, true, 0⟩ }).pokeBytes 0 libHead, ⟨0, 0, true, 0⟩, lib, by decide +kernel⟩⟩

/-- A loop object: feedback from CAN0, a constant setpoint, PWM0 as sink, period 6,250 ticks (R407, R408). -/
def loopObj : List Byte :=
  bytesOf 704 ([(0, 1, 0x11), (4, 4, 6250), (8, 4, 1), (fbOff, 2, 0x300), (snkOff, 2, 0x600), (60, 4, 0x3F800000)] ++
    (List.range 64).map fun j => (192 + 8 * j, 4, 0x3F800000 + 65536 * j))

/-- A trajectory of two samples of zeros. -/
def trajObj : List Byte := bytesOf 128 [(24, 2, 2)]

/-- A control record, with some bytes at the start of its object. -/
def withCtl (r : Rec) (bs : List Byte := []) : State := (withRec 4 r).pokeBytes 0 bs

/-- Every hypothesis of ControlCommandsComplete is met somewhere. -/
theorem witness_ControlCommandsComplete :
    (∃ (s : State) (r : Rec), s.unhindered = true ∧ s.cqRoom 0 (s.queue 0) = true ∧ s.pickRec 0 0x60 (fun _ => true) = some r ∧ (s.loopSetCheck r).1 = 0 ∧
      (s.objLoad (s.recWho 0 r 0x45) (field r.bytes 20 4) (64 * field r.bytes 24 4) 704).2.1 = 0 ∧
      ((s.objLoad (s.recWho 0 r 0x45) (field r.bytes 20 4) (64 * field r.bytes 24 4) 704).1.checks 4 ((s.objLoad (s.recWho 0 r 0x45)
        (field r.bytes 20 4) (64 * field r.bytes 24 4) 704).1.loopObjCheck 0 (s.objLoad (s.recWho 0 r 0x45) (field r.bytes 20 4) (64 * field r.bytes 24 4) 704).2.2)).1 = 0) ∧
    (∀ op ∈ [1, 2, 3], ∃ (s : State) (r : Rec), s.unhindered = true ∧ s.cqRoom 0 (s.queue 0) = true ∧ (s.checks (s.queue 0).cls (s.loopCtlCheck r)).1 = 0 ∧
      s.pickRec 0 0x61 (loopSel op) = some r) ∧
    (∃ s : State, s.unhindered = true ∧ s.loopOn 0 = true ∧ (s.loop 0).lastTrig = some 0 ∧ (s.loop 0).onSample = true ∧ (s.loop 0).kept = true) ∧
    (∃ (s : State) (y : Sample), s.unhindered = true ∧ s.loopOn 0 = true ∧ (s.loop 0).lastTrig = some 0 ∧ (s.loop 0).onSample = false ∧
      (s.loop 0).newest = some y ∧ (s.loop 0).used ≠ some y) ∧
    (∃ (s : State) (y : Sample), s.unhindered = true ∧ s.controlHeld = false ∧ s.pwr.enginesHeld = false ∧ s.on PWR_STATUS_LOW_POWER = false ∧
      s.on (GRD_STATUS_REFUSED.bit 4) = false ∧ s.nextTriggered = some (0, 0) ∧ (s.loop 0).pick = some y) :=
  let on (l : Loop) : State := (State.reset.wr (CTL_ENABLED_LOOPS.bit 0) 1).setLoop 0 l
  ⟨⟨withCtl (recOf 0x60 [(20, 4, hObj)]) loopObj, recOf 0x60 [(20, 4, hObj)], by decide +kernel⟩,
   by
    intro op h
    refine ⟨withCtl (recOf 0x61 [(20, 1, op)]), recOf 0x61 [(20, 1, op)], ?_⟩
    simp only [List.mem_cons, List.not_mem_nil, or_false] at h
    rcases h with rfl | rfl | rfl <;> decide +kernel,
   ⟨on { obj := [0x20], lastTrig := some 0, kept := true }, by decide +kernel⟩,
   ⟨on { obj := [0], lastTrig := some 0, newest := some ⟨0, 0, 0⟩ }, ⟨0, 0, 0⟩, by decide +kernel⟩,
   ⟨on { triggered := some 0, pick := some ⟨0, 0, 0⟩ }, ⟨0, 0, 0⟩, by decide +kernel⟩⟩

/-- A TRAJ_LOAD, its state, and that after its header is read and after its samples are. -/
def trajRec : Rec := recOf 0x62 [(20, 4, hObj)]
def trajA : State := withCtl trajRec trajObj
def trajB : State := (trajA.objLoad (trajA.recWho 0 trajRec 0x45) hObj 0 64).1
def trajC : State := (trajB.objLoad (trajA.recWho 0 trajRec 0x45) hObj 64 64).1

/-- Every hypothesis of its clause about TRAJ_LOAD is met there. -/
theorem witness_ControlCommandsComplete_traj :
    (trajA.unhindered = true ∧ trajA.cqRoom 0 (trajA.queue 0) = true ∧ trajA.pickRec 0 0x62 (fun _ => true) = some trajRec ∧
      (trajA.objOf hObj).isSome = true ∧ trajA.objFits hObj 0 64 = true ∧ field trajRec.bytes 20 4 = hObj ∧ field trajRec.bytes 24 4 = 0) ∧
    ((trajA.objLoad (trajA.recWho 0 trajRec 0x45) hObj 0 64).2.1 = 0 ∧
      trajN (trajA.objLoad (trajA.recWho 0 trajRec 0x45) hObj 0 64).2.2 = 2 ∧ trajB.objFits hObj 0 (64 + 32 * 2) = true) ∧
    ((trajB.objLoad (trajA.recWho 0 trajRec 0x45) hObj 64 (32 * 2)).2.1 = 0 ∧
      trajReservedOk ((trajA.objLoad (trajA.recWho 0 trajRec 0x45) hObj 0 64).2.2 ++
        (trajB.objLoad (trajA.recWho 0 trajRec 0x45) hObj 64 (32 * 2)).2.2) = true ∧ trajC.check10 4 = 0) :=
  ⟨by decide +kernel, by decide +kernel, by decide +kernel⟩

/-- The fields of CRC-32C's parameter block at an offset of a record (R432's example). -/
def crcFields (o : Nat) : List (Nat × Nat × Nat) := [(o, 1, 0xA0), (o + 1, 1, 1), (o + 8, 4, 0x1EDC6F41), (o + 16, 4, 0xFFFFFFFF), (o + 24, 4, 0xFFFFFFFF)]

/-- A check-value record on the queue of unit 0, which holds CRC-32C. -/
def withCv (r : Rec) : State := ((withRec 5 r).cvBind 0).setCvUnit 0 (some (bytesOf 32 (crcFields 0))) 0xFFFFFFFF true

/-- Every hypothesis of CheckValueCommandsComplete is met somewhere. -/
theorem witness_CheckValueCommandsComplete :
    (∃ (s : State) (r : Rec), s.unhindered = true ∧ s.startable 0 0x70 r (fun r => firstField (cvParamChecks r.bytes 16))) ∧
    (∃ (s : State) (r : Rec), s.unhindered = true ∧ s.startable 0 0x71 r (s.cvRunCheck 0)) ∧
    (∀ f ∈ [1, 3], ∃ (s : State) (r : Rec), s.unhindered = true ∧ s.runningRec 0 0x71 = some r ∧ s.pwr.enginesHeld = false ∧ field r.bytes 16 1 = f ∧ field r.bytes 36 4 ≠ 0 ∧
      (s.objLoad (s.recWho 0 r 0x46) (field r.bytes 20 4) (field r.bytes 24 8) (field r.bytes 32 4)).2.1 = 0 ∧
      (s.objStore (s.recWho 0 r 0x46) (field r.bytes 36 4) (field r.bytes 40 8) (List.replicate 8 0)).2 = 0) ∧
    (∃ (s : State) (r : Rec), s.unhindered = true ∧ s.startable 0 0x72 r s.cvStateCheck ∧ ((s.runRec 0 r.seq).objStore ((s.runRec 0 r.seq).recWho 0 r 0x46)
      (field r.bytes 16 4) (64 * field r.bytes 20 4) ((s.runRec 0 r.seq).cvState ((s.runRec 0 r.seq).recUnit 0))).2 = 0) ∧
    (∃ (s : State) (r : Rec), s.unhindered = true ∧ s.startable 0 0x73 r s.cvStateCheck ∧
      ((s.runRec 0 r.seq).objLoad ((s.runRec 0 r.seq).recWho 0 r 0x46) (field r.bytes 16 4) (64 * field r.bytes 20 4) 64).2.1 = 0 ∧
      cvParamsOk (((s.runRec 0 r.seq).objLoad ((s.runRec 0 r.seq).recWho 0 r 0x46) (field r.bytes 16 4) (64 * field r.bytes 20 4)
        64).2.2.take 32) = true ∧
      field ((s.runRec 0 r.seq).objLoad ((s.runRec 0 r.seq).recWho 0 r 0x46) (field r.bytes 16 4) (64 * field r.bytes 20 4)
        64).2.2 40 1 ≤ 1) ∧
    (∃ (s : State) (r : Rec), s.unhindered = true ∧ s.cqRoom 0 (s.queue 0) = true ∧ (s.checks (s.queue 0).cls (s.chanCheck r)).1 = 0 ∧ s.pickRec 0 0x74 (fun r => chanMode r != 0) = some r) ∧
    (∃ (s : State) (r : Rec), s.unhindered = true ∧ s.cqRoom 0 (s.queue 0) = true ∧ (s.checks (s.queue 0).cls (s.chanCheck r)).1 = 0 ∧ s.pickRec 0 0x74 (fun r => chanMode r == 0) = some r) :=
  let cfg := recOf 0x70 (crcFields 16)
  let run (f : Nat) : Rec := { recOf 0x71 [(16, 1, f), (20, 4, hObj), (32, 4, 1), (36, 4, hObj)] with phase := .running }
  let save (op : Nat) : Rec := recOf op [(16, 4, hObj)]
  let chan := recOf 0x74 ((16, 1, 0x10) :: (18, 2, 1) :: crcFields 24)
  let off := recOf 0x74 []
  ⟨⟨withCv cfg, cfg, by decide +kernel⟩,
   ⟨withCv { run 1 with phase := .fetched }, { run 1 with phase := .fetched }, by decide +kernel⟩,
   by
    intro f h
    refine ⟨withCv (run f), run f, ?_⟩
    simp only [List.mem_cons, List.not_mem_nil, or_false] at h
    rcases h with rfl | rfl <;> decide +kernel,
   ⟨withCv (save 0x72), save 0x72, by decide +kernel⟩,
   ⟨(withCv (save 0x73)).pokeBytes 0 (bytesOf 64 (crcFields 0)), save 0x73, by decide +kernel⟩,
   ⟨withEntry 2 0x200 0 (withCv chan), chan, by decide +kernel⟩, ⟨withCv off, off, by decide +kernel⟩⟩

/-- Island A running, island B powered and joined. -/
def withIslands : State :=
  let s := withFields [(SAF_ISL_STATUS_A_RUN, 1), (SAF_ISL_STATUS_B_JOINED, 1), (IDN_BOOT_STAGE, 6), (SAF_ISL_STATUS_STOP_A, 1)]
  { s with pkg := { s.pkg with sfdPowered := true } }

/-- The islands with a change of what they hold. -/
def withSaf (f : Safety → Safety) (s : State := withIslands) : State := { s with saf := f s.saf }

/-- A test that lists nothing shows no real mismatch, whatever the groups' signals. -/
theorem test_realMismatch_nil : realMismatch [] = none := by
  unfold realMismatch
  rw [List.findSome?_eq_none_iff]
  intro n _
  simp only [slotSeen, List.find?_nil, Option.getD_none]
  split <;> simp

/-- Every hypothesis of IslandCommandsComplete is met somewhere. -/
theorem witness_IslandCommandsComplete :
    (∃ s : State, s.on SAF_ISL_STATUS_B_JOINED = true ∧ s.link8 = true ∧ s.islandARuns = true) ∧ (∃ s : State, s.pairOn true = true) ∧
    (∃ s : State, s.pairOn false = true) ∧ (realMismatch [] = none ∧ realMismatch [⟨0, 0, [(1, 2)], false⟩] = some (1, 2)) ∧
    (∃ s : State, s.pkg.sfdPowered = true) ∧
    (∃ (s : State) (t : SafTest), s.saf.test = some t ∧ t.islands.getLsbD 0 = true ∧ s.pairRuns true = true ∧ s.saf.restarts = []) ∧
    (∃ (s : State) (t : SafTest), s.saf.test = some t ∧ t.islands.getLsbD 1 = true ∧ t.islands.getLsbD 0 = false ∧
      s.pairRuns false = true ∧ s.on SAF_ISL_STATUS_B_JOINED = true ∧ s.saf.restarts = []) ∧
    (∃ s : State, s.rd IDN_BOOT_STAGE = 6 ∧ s.on PWR_STATUS_LOW_POWER = false ∧ s.on SAF_ISL_STATUS_B_JOINED = true) ∧
    (∃ s : State, s.on HIF_LOCKCFG_ISL_DBG_DENY = false) ∧ (∃ s : State, s.saf.islB.debugDeny = false ∧ s.pkg.sfdPowered = true) ∧
    (∃ (s : State) (i : Island), i = s.island true ∧ i.debug = true ∧ i.debugHalted = false) ∧
    (∃ (s : State) (i : Island), i = s.island true ∧ i.debug = true ∧ i.debugHalted = true) ∧
    (0 + 1 ≤ islandMem true ∧ 0 + [0#8].length ≤ islandMem false) :=
  let test (k : BitVec 2) : SafTest := { mbx := 0, tag := 0, islands := k }
  ⟨⟨withIslands, by decide +kernel⟩, ⟨withIslands, by decide +kernel⟩, ⟨withIslands, by decide +kernel⟩, ⟨test_realMismatch_nil, by decide +kernel⟩, ⟨withIslands, by decide +kernel⟩,
   ⟨withSaf fun f => { f with test := some (test 3) }, test 3, by decide +kernel⟩,
   ⟨withSaf fun f => { f with test := some (test 2) }, test 2, by decide +kernel⟩,
   ⟨withIslands, by decide +kernel⟩, ⟨State.reset, by decide +kernel⟩, ⟨withIslands, by decide +kernel⟩,
   ⟨withSaf fun f => { f with islA := { debug := true } }, { debug := true }, by decide +kernel⟩,
   ⟨withSaf fun f => { f with islA := { debug := true, debugHalted := true } }, { debug := true, debugHalted := true }, by decide +kernel⟩,
   by decide⟩

/-- A guard record in force on index 0; an enabled record of any other kind at its index. -/
def enabledRec : List Byte := bytesOf 64 [(2, 1, 1)]

/-- A stop-frame record for CAN0, in the GRD_CFG_DATA registers as index 96. -/
def stopRec : List Byte := bytesOf 64 [(0, 1, 5), (1, 1, 0xFF), (2, 1, 1), (4, 2, 0x300), (12, 2, 10)]
def withStopRec : State :=
  ((List.range 16).foldl (fun s n => s.wr (GRD_CFG_DATA_DATA.idx n) (field stopRec (4 * n) 4)) withIslands).wr GRD_CFG_SEL_INDEX 96

/-- Three intact copies. -/
def threeCopies : List RecCopy := List.replicate 3 { bytes := enabledRec, intact := true }

/-- Every hypothesis of MonitorCommandsComplete is met somewhere. -/
theorem witness_MonitorCommandsComplete :
    (∃ (s : State) (bs : List Byte), s.islandARuns = true ∧ s.on GRD_CFG_CTL_BUSY = false ∧ s.cfgReach (s.rd GRD_CFG_SEL_ISLAND)
      (s.rd GRD_CFG_SEL_INDEX) = true ∧ cfgType (s.rd GRD_CFG_SEL_INDEX) = 5 ∧ bs = s.cfgData ∧ bitsOf (field bs 0 1) 0 4 = 5 ∧
      reservedOk (cfgLayout 5) bs = true ∧ s.cfgFieldsOk 0 5 bs = true) ∧
    (∃ (s : State) (b : List Byte), s.islandARuns = true ∧ s.on GRD_CFG_CTL_BUSY = false ∧ s.cfgReach (s.rd GRD_CFG_SEL_ISLAND)
      (s.rd GRD_CFG_SEL_INDEX) = true ∧ cfgType (s.rd GRD_CFG_SEL_INDEX) ≠ 0 ∧ tget [] s.saf.copies (cfgKey 0 0) ≠ [] ∧
      majority (tget [] s.saf.copies (cfgKey 0 0)) = some b) ∧
    (∃ (s : State) (w : CfgWrite), s.saf.write = some w) ∧
    (∃ s : State, s.islandARuns = true ∧ cfgOn (s.cfgRec 0 0) = true ∧ (s.guardOf 0).armed = true) ∧
    (∃ s : State, s.islandARuns = true ∧ cfgOn (s.cfgRec 0 (64 + 0)) = true ∧ s.intervals 0 = [5]) ∧
    (∃ (s : State) (q : Summary), s.islandARuns = true ∧ cfgOn (s.cfgRec 0 (80 + 0)) = true ∧ (s.checker 0).oldest = some q) ∧
    (∃ (s : State) (r : Restart), s.islandARuns = true ∧ s.unhindered = true ∧ s.saf.restarts[0]? = some r ∧ s.voteWaits r.cls = false) ∧
    (∃ (s : State) (y : Restart), s.saf.restartCopies[0]? = some y ∧ s.on SAF_ISL_STATUS_B_JOINED = true ∧ s.pairRuns false = true) ∧
    (∃ s : State, s.on SAF_ISL_STATUS_STOP_A = true ∧ tget none s.saf.frameAt (cfgKey 0 96) = some 0) ∧
    (∃ s : State, s.saf.islB.stop = true ∧ s.pkg.sfdPowered = true ∧ tget none s.saf.frameAt (cfgKey 1 96) = some 0) :=
  let sum : Summary := { frame := 1, vals := [], copiedAt := 0 }
  let rs : Restart := { cls := 2, colonies := [], kind := 1, index := 0, t0 := 0 }
  ⟨⟨withStopRec, withStopRec.cfgData, by decide +kernel⟩,
   ⟨withSaf fun f => { f with copies := [(0, threeCopies)] }, enabledRec, by decide +kernel⟩,
   ⟨withSaf fun f => { f with write := some ⟨0, 0, enabledRec⟩ }, ⟨0, 0, enabledRec⟩, rfl⟩,
   ⟨withSaf fun f => { f with inForce := [(0, enabledRec)], guards := [(0, { armed := true })] }, by decide +kernel⟩,
   ⟨withSaf fun f => { f with inForce := [(64, enabledRec)], deadlines := [(0, [5])] }, by decide +kernel⟩,
   ⟨withSaf fun f => { f with inForce := [(80, enabledRec)], checkers := [(0, { p := [sum] })] }, sum, by decide +kernel⟩,
   ⟨withSaf fun f => { f with restarts := [rs] }, rs, by decide +kernel⟩,
   ⟨withSaf fun f => { f with restartCopies := [rs] }, rs, by decide +kernel⟩,
   ⟨withSaf fun f => { f with frameAt := [(96, some 0)] }, by decide +kernel⟩,
   ⟨withSaf fun f => { f with frameAt := [(224, some 0)], islB := { stop := true } }, by decide +kernel⟩⟩

/-- Domain 0 with a sustained temperature. -/
def withDom (l : List (Fld × Nat)) : State :=
  let s := withFields l
  { s with thm := { s.thm with doms := [(0, { hasS := true })], coolantAt := some 0, spoilt := false } }

/-- Every hypothesis of ThermalCommandsComplete is met somewhere. -/
theorem witness_ThermalCommandsComplete :
    (∃ s : State, (List.replicate 36 (0 : Int)).length = (dieSensors 8).2 ∧ s.pkg.heldInReset = false ∧
      s.domainLives (domainOf (dieSensors 8).1) = true) ∧
    (∃ s : State, (List.replicate 12 (0 : Int)).length = 12 ∧ s.pkg.sfdPowered = true) ∧ (∃ s : State, s.on SAF_ISL_STATUS_B_JOINED = true ∧ s.link8 = true) ∧
    (∃ s : State, (List.replicate 6 0).length = 6 ∧ s.on MBX_CTRL_READY = true) ∧ (∃ s : State, s.on MBX_CTRL_READY = true ∧ s.rd IDN_BOOT_STAGE = 6) ∧
    (∃ s : State, s.on MBX_CTRL_READY = true ∧ s.on THM_STATUS_COOLANT_STALE = false ∧ s.thm.spoilt = false ∧ 150000 ≤ 150000 ∧
      9 * 150000 ≤ 10 * 150000 ∧ 10 * 150000 ≤ 11 * 150000 ∧
      ((List.range 6).filter fun k => (s.dom k).hasS && s.domainLives k) = [0] ∧ 0 < ((([1] : List Nat)[0]?).getD 0)) ∧
    (∃ s : State, s.thm.coolantAt = some 0) ∧
    (80 ≤ bitsOf 0x6964 0 8 ∧ bitsOf 0x6964 0 8 ≤ bitsOf 0x6964 8 8 ∧ bitsOf 0x6964 8 8 ≤ 112) ∧ (5 ≤ bitsOf 0x1401 8 8 ∧ bitsOf 0x1401 8 8 ≤ 100) :=
  ⟨⟨{ State.reset with pkg := { State.reset.pkg with heldInReset := false } }, by decide +kernel⟩, ⟨withIslands, by decide +kernel⟩, ⟨withIslands, by decide +kernel⟩,
   ⟨withFields [(MBX_CTRL_READY, 1)], by decide +kernel⟩, ⟨withFields [(MBX_CTRL_READY, 1), (IDN_BOOT_STAGE, 6)], by decide +kernel⟩,
   ⟨withDom [(MBX_CTRL_READY, 1), (THM_STATUS_COOLANT_STALE, 0), (IDN_PKG_INCLUDED.bit 0, 1)], by decide +kernel⟩,
   ⟨withDom [], by decide +kernel⟩, by decide +kernel, by decide +kernel⟩

/-- A flit of a type that the receiver expects first, and a waggle message in one. -/
def flitOf (type : Nat) (pay : List Byte := []) : List Byte := mkFlit type 1 0 0 1 0 pay
def waggleFlit (type : Nat) : List Byte := flitOf 1 (wagMsg type 0 7 10 [])

/-- Port SW0 in a state, with peer 1; device number 0. -/
def withPort (st : Nat) (p : SwPort := {}) (s : State := State.reset) : State := (s.wr (SWM_PORT_STATE.idx 0) st).modPort 0 fun _ => p

/-- SW0 JOINED to device 1. -/
def joinedTo1 (s : State) : State := (s.wr (SWM_PORT_STATE.idx 0) 3).wr (SWM_PORT_PEER.idx 0) 1

/-- Every hypothesis of SwarmPortCommandsComplete is met somewhere. -/
theorem witness_SwarmPortCommandsComplete :
    (∃ s : State, s.on (SWM_CTL_ENABLE.bit 0) = false ∧ s.on SWM_CTL_ENABLE = false) ∧ (∃ s : State, s.on (SWM_CTL_ENABLE.bit 0) = true) ∧
    (∃ s : State, s.swState 0 = 1) ∧
    (∀ t ∈ [1, 7, 0xE], ∃ (s : State) (f : List Byte), s.swLive 0 = true ∧ flitOk f = true ∧ flitType f = 1 ∧ (s.swTake 0 f).2 = true ∧
      wOk ((flitPay f).take 32) = true ∧ wType ((flitPay f).take 32) = t ∧ (s.swTake 0 f).1.swState 0 = 2) ∧
    (∃ (s : State) (f : List Byte), s.swLive 0 = true ∧ flitOk f = true ∧ flitType f = 1 ∧ (s.swTake 0 f).2 = true ∧
      field (flitPay f) 0 1 = 0 ∧ (s.swTake 0 f).1.swState 0 = 3) ∧
    (∃ s : State, s.joinedPorts ≠ []) ∧
    (∃ s : State, (s.swPort 0).retraining = true ∧ s.tclk ≤ (s.swPort 0).retrainAt + 6250000 ∧ (s.swPort 0).replayFrom = none) ∧
    (∃ s : State, s.swLive 0 = true ∧ (s.swPort 0).retraining = false) ∧ (∃ s : State, s.swAwaits 0 = true) :=
  ⟨⟨State.reset, by decide +kernel⟩, ⟨withFields [(SWM_CTL_ENABLE.bit 0, 1)], by decide +kernel⟩, ⟨withPort 1, by decide +kernel⟩,
   by
    intro t h
    refine ⟨withPort 2, waggleFlit t, ?_⟩
    simp only [List.mem_cons, List.not_mem_nil, or_false] at h
    have hk := Laws.swTake_ok (withPort 2) 0 (waggleFlit t) (Laws.flitOk_mkFlit ..) (by rcases h with rfl | rfl | rfl <;> decide +kernel)
    refine ⟨by decide +kernel, Laws.flitOk_mkFlit .., ?_, hk.1, ?_, ?_, by rw [hk.2]; decide +kernel⟩ <;>
      rcases h with rfl | rfl | rfl <;> decide +kernel,
   by
    have hk := Laws.swTake_ok (withPort 3) 0 (flitOf 1) (Laws.flitOk_mkFlit ..) (by decide +kernel)
    exact ⟨withPort 3, flitOf 1, by decide +kernel, Laws.flitOk_mkFlit .., by decide +kernel, hk.1, by decide +kernel,
      by rw [hk.2]; decide +kernel⟩,
   ⟨withPort 3, by decide +kernel⟩, ⟨withPort 3 { retraining := true }, by decide +kernel⟩,
   ⟨withPort 3, by decide +kernel⟩, ⟨withPort 2 { lastWag := some (1, 0, []) }, by decide +kernel⟩⟩

/-- Every hypothesis of SwarmTrafficCompletes is met somewhere. -/
theorem witness_SwarmTrafficCompletes :
    (∀ t ∈ [2, 3], ∃ (s : State) (f : List Byte), s.unhindered = true ∧ s.swLive 0 = true ∧ flitOk f = true ∧ (s.swTake 0 f).2 = true ∧
      (s.swTake 0 f).1.swState 0 = 3 ∧ flitType f = t) ∧
    (∃ (s : State) (f : List Byte), s.swLive 0 = true ∧ flitOk f = true ∧ flitType f = 4 ∧ (s.swPort 0).retraining = false) ∧
    (∃ (s : State) (r : Rec), s.unhindered = true ∧ s.startable 0 0x3E r s.swCopyCheck ∧ (s.runRec 0 r.seq).route (swDev r) = some (0, 1) ∧
      ((s.runRec 0 r.seq).objLoad ((s.runRec 0 r.seq).recWho 0 r 0x41) (field r.bytes 20 4) (field r.bytes 24 8) (field r.bytes 40 4)).2.1 = 0) ∧
    (∃ (s : State) (r : Rec), s.startable 0 0x3F r (fun r => firstField [((s.route (swDev r)).isSome, E_LINK, 16),
      (decide (field r.bytes 32 8 % 8 = 0), E_ALIGN, 32)])) ∧
    bitsOf (3#32).toNat 0 1 = 1 :=
  let copy := recOf 0x3E [(16, 1, 1), (20, 4, hObj), (40, 4, 64)]
  let signal := recOf 0x3F [(16, 1, 1)]
  ⟨by
    intro t h
    refine ⟨withPort 3, flitOf t, ?_⟩
    simp only [List.mem_cons, List.not_mem_nil, or_false] at h
    have hk := Laws.swTake_ok (withPort 3) 0 (flitOf t) (Laws.flitOk_mkFlit ..) (by rcases h with rfl | rfl <;> decide +kernel)
    refine ⟨by decide +kernel, by decide +kernel, Laws.flitOk_mkFlit .., hk.1, by rw [hk.2]; decide +kernel, ?_⟩
    rcases h with rfl | rfl <;> decide +kernel,
   ⟨withPort 3, flitOf 4, by decide +kernel, Laws.flitOk_mkFlit .., by decide +kernel, by decide +kernel⟩,
   ⟨joinedTo1 (withRec 1 copy), copy, by decide +kernel⟩, ⟨joinedTo1 (withRec 1 signal), signal, by decide +kernel⟩,
   by decide⟩

/-- Whether a meaning answers a next state. -/
def answers (o : Out) : Bool := match o with
  | .next _ => true
  | _ => false

/-- Every hypothesis of PackageFrames is met somewhere: each command answers a next state. -/
theorem witness_PackageFrames : (([.waggleHello 0 [] 32 64, .waggleSelect 0 [], .mainbandTrainingDone 0 1 0, .waggleReject 0 [],
    .linkUncorrectableError 0, .waggleIdent 0 [] true, .waggleOffer 0 [], .waggleConfirm 0 [], .waggleTrained ⟨0, true⟩ [], .waggleDone 0 true [],
    .waggleNak 0 true [], .linkRetrainDone 0, .islandBReady, .vddSfdLoss, .perstDeassert 16 32, .heartbeatSend true true,
    .ruradPllLockLoss 3, .avsStep 3, .rampEstimate 3 ⟨0, 0⟩, .avsbusNoAck 3, .hifHeartbeatTick, .dieStandbyExitDone 3, .d0Entry,
    .combRelease] : List Instr).all fun c => answers (exec c State.reset)) = true := by decide +kernel

/-- Every hypothesis of HostFrames is met somewhere. -/
theorem witness_HostFrames : (([.mbxAck 15, .evtEnable 1, .evtTailWrite 0, .queueResume 127, .swarmExportEnable 1, .getInfo 15, .memInfo 15,
    .ledgerRead 15, .hello 15, .powerPolicy 0, .fwSlotWrite 0 {}, .fwRollbackAdvance 0, .safetyTestInjection 0, .logRead 15,
    .queueCreate 15, .mbxReqWrite 15 252 [1, 2, 3, 4], .mbxDoorbellRefused 15, .rcRead 0, .reg64LowRead 8, .reg64HighRead 12,
    .invalidRegisterAccess 2 4, .queueDoorbell 127 1, .eventRingWrite] : List Instr).all fun c => answers (exec c State.reset)) = true ∧
    (127 : Nat) ≠ 0 := by decide +kernel

/-- Every hypothesis of MemoryFrames is met somewhere: each command answers a next state, and a byte outside the bytes stored lies in no
poisoned word. -/
theorem witness_MemoryFrames : (([.windowRead 0 64, .dramChannelIssue 0 31 [0], .patrolScrub 3 0, .mimiderSensorRead 3 [], .refreshDue 3 31 15,
    .rowIdleClose 3 31 15, .dieStandbyEnter 3, .windowWrite 0 [1], .dramRequest (dramReq 0), .memFree 0, .memoryClearDone 0]
    : List Instr).all fun c => answers (exec c withObject)) = true ∧ withObject.isPoisoned 0 = false ∧
    withObject.mem.waiting = [] ∧ withObject.pkg.retraining = 0 ∧ withObject.pkg.winHeld = [] ∧ (withObject.chan 3 0).writes = [] ∧ 2 ∉ [0, 1] := by decide +kernel

/-- Every hypothesis of UnitFrames is met somewhere. -/
theorem witness_UnitFrames : (([.csiStopState 3, .ethLinkUp 1, .ethLinkDown 1, .canFrameSent ⟨3, 0⟩, .spiDataReady 3, .gnssUartByte 0 1,
    .pwmPeriodStart ⟨0, 32⟩, .gpioEdge 31 true, .spiTransfer 0 0 1 [], .ppsEdge false none 0 0 true, .syncMessage 0 0 0 0 0 0 true, .syncTimeout,
    .syncTransmit, .timCfgWrite 0, .bwrClear, .combClearCounters 63, .thermalLimitsWrite 0, .thermalCtlWrite 0, .swarmIdWrite true 0,
    .configRecordRead, .lidarPacket, .cameraFrame, .combDebugHalt 63, .combDebugRelease 63, .combDebugStep 63, .scratchpadDebugRead 0,
    .scratchpadDebugReadDone true, .sensorSample 3 [0], .uathalSensorReport [] [], .thermalForecast [0], .dutyReview 0 [], .sustainedWindow,
    .coolantWrite 0, .debugHalt true, .debugResume true, .debugSingleStep true, .debugBreakpointSet true 0, .debugRegisterRead true 0,
    .debugRegisterWrite true 0 0, .debugMemoryRead true 0 1, .debugMemoryWrite true 0 [1], .islandMemoryScrub true 0, .configRecordWrite,
    .swarmAdvertiseTimer, .swarmRetrainDone 3, .swarmAckFlit 3 [], .swarmPortEnable 3, .swarmTrainingDone 3 true, .swarmHello 3 [],
    .swarmReject 3 []] : List Instr).all fun c => answers (exec c State.reset)) = true := by decide +kernel

/-- Every hypothesis of RecordFrames is met somewhere. -/
theorem witness_RecordFrames : (([.recordStart 0, .nop 0, .waitRelease 0, .queueFlush 0, .cvRun 0, .loopResetI 0, .plan 0, .fgCopy 0, .fgFill 0,
    .jobRun 0 0 0, .stepRun 0 0 0, .wait 0, .fuseCollect 0, .planStart, .occLoad 0, .occLoadDone, .libLoad 0, .libLoadDone, .loopEnable 0,
    .loopDisable 0, .loopSet 0, .trajLoad 0, .cvConfig 0, .cvChanVerify 0, .cvChanOff 0, .cvRestore 0, .fuseConfig 0, .calibLoad 0,
    .calibRemove 0, .registryBind 0, .registryUnbind 0, .swarmCopy 0, .swarmSignal 0, .signal 0, .timestamp 0, .registryRead 0, .cvSave 0,
    .seqJoin 0, .seqFinish 0, .seqCtlPin 0, .seqCtlUnpin 0, .seqCtlHold 0, .seqCtlRelease 0, .seqCtlResume 0] : List Instr).all
    fun c => answers (exec c (withRec 0 (recOf 0 [])))) = true := by decide +kernel

/-- Every hypothesis of RegisterFrames is met somewhere: each command is well formed and answers a next state. -/
theorem witness_RegisterFrames : (([.mbxAck 15, .mbxReqWrite 15 0 [1, 2, 3, 4], .mbxDoorbellRefused 15, .getInfo 15, .memInfo 15, .ledgerRead 15,
    .hello 15, .powerPolicy 15, .fwSlotWrite 15 {}, .fwRollbackAdvance 15, .logRead 15, .memAlloc 15 0, .memFree 15,
    .sensorSample 3 (List.replicate 55 0), .uathalSensorReport (List.replicate 12 0) [], .thermalForecast (List.replicate 6 0), .dutyReview 0 (List.replicate 4 0),
    .sustainedWindow, .rthWindow 0 0 0 (List.replicate 6 0), .coolantWrite 0, .thermalLimitsWrite 0, .thermalCtlWrite 0, .swarmPortEnable 3,
    .swarmTrainingDone 3 true, .swarmHello 3 (List.replicate 256 0), .swarmReject 3 (List.replicate 256 0), .swarmAckFlit 3 (List.replicate 256 0), .swarmIdWrite true 0, .swarmExportEnable 0,
    .combDebugHalt 63, .combDebugRelease 63, .combDebugStep 63, .combClearCounters 63, .scratchpadDebugRead 0,
    .scratchpadDebugReadDone true, .ppsEdge false none 0 0 true, .syncMessage 0 0 0 0 0 0 true, .syncTimeout, .syncTransmit, .timCfgWrite 0,
    .lidarPacket, .cameraFrame, .gpioEdge 31 true, .spiTransfer 0 0 1 [0], .avsStep 3, .ruradPllLockLoss 3, .rampEstimate 3 ⟨0, 0⟩,
    .avsbusNoAck 3, .waggleIdent 7 (List.replicate 32 0) true, .waggleOffer 7 (List.replicate 32 0), .waggleConfirm 7 (List.replicate 32 0),
    .waggleTrained ⟨7, true⟩ (List.replicate 32 0), .waggleDone 7 true (List.replicate 32 0), .waggleNak 7 true (List.replicate 32 0),
    .dramRequest (dramReq 0), .patrolScrub 3 0, .eventRingWrite, .evtEnable 1, .evtTailWrite 0] : List Instr).all
    fun c => c.wf && answers (exec c State.reset)) = true := by decide +kernel

/-- The invariant holds of the small states below. -/
theorem inv_reset : State.reset.Inv := by unfold State.Inv; decide +kernel

/-- Every hypothesis of StepRunsFront, ResetMeetsInv, StepKeepsInv and ExecKeepsQueue is met somewhere. -/
theorem witness_StepKeepsInv : State.reset.Inv ∧ State.reset.pending = [] ∧ (∃ t, step State.reset = .next t) ∧
    ∃ t, exec (.evtEnable 1) State.reset = .next t :=
  ⟨inv_reset, rfl, ⟨_, rfl⟩, ⟨_, rfl⟩⟩

/-- Every hypothesis of DeviceResetLeaves is met somewhere. -/
theorem witness_DeviceResetLeaves : (3 : Nat) < 4 ∧ (63 : Nat) < 64 ∧ (15 : Nat) < 16 ∧
    (State.reset.afterReset {} false).pkg.epoch = State.reset.pkg.epoch + 1 := by decide +kernel

/-- Every hypothesis of RegisterFieldLaws is met somewhere: a field of 64 bits, a field of another register, a field next to it. -/
theorem witness_RegisterFieldLaws : State.reset.Inv ∧ TIM_NOW_NS.lo + TIM_NOW_NS.w = 64 ∧ TIM_FRAC_FRAC.off ≠ TIM_NOW_NS.off ∧
    PWR_VDD_VSET.lo + PWR_VDD_VSET.w ≤ PWR_VDD_VMAX_SEEN.lo ∧ PWR_VDD_VSET.off = PWR_VDD_VMAX_SEEN.off :=
  ⟨inv_reset, by decide +kernel⟩

/-- Every hypothesis of ReservedRegisters is met somewhere. -/
theorem witness_ReservedRegisters : (∀ f ∈ HIF_STATUS.fields, 4 < f.1 ∨ f.1 + f.2.1 ≤ 4) ∧
    (∀ off ∈ [0x3FFFF8, 0x3FFFFC], off % 4 = 0 ∧ findReg off = none ∧ mbxBuffer off = none) ∧ 0x3FFFF8 % 8 = 0 := by decide +kernel

/-- A 64-bit register with a value latched and a write held. -/
def withHeld : State := (State.reset.setLatch 8 (some 5)).setHold 8 (some 6)

/-- Every hypothesis of LatchAndHold is met somewhere. -/
theorem witness_LatchAndHold : State.reset.Inv ∧ withHeld.Inv ∧
    (∀ base ∈ [8, 0x43000], (findReg base).any (fun x => x.1.wide && x.1.offAt x.2 == base) = true) ∧
    withHeld.latchOf 8 = some 5 ∧ withHeld.holdOf 8 = some 6 ∧ State.reset.latchOf 8 = none ∧ State.reset.holdOf 8 = none :=
  ⟨inv_reset, by unfold State.Inv; decide +kernel, by decide +kernel⟩

/-- A request of a command that answers a remembered TAG. -/
def withReplay (cmd len : Nat) : State :=
  let s := withRequest cmd len []
  s.setMbx 0 { s.mbx 0 with remembered := [⟨0, BitVec.ofNat 16 cmd, responseBytes cmd 0 {}⟩] }

/-- Every hypothesis of MailboxReplays is met somewhere, for each of its commands. -/
theorem witness_MailboxReplays :
    (∀ c ∈ [(0x0001, 20), (0x0002, 16), (0x0100, 32), (0x0101, 20), (0x0102, 20), (0x0200, 48), (0x0201, 20), (0x0300, 48), (0x0301, 20),
        (0x0400, 20), (0x0401, 24), (0x0501, 16), (0x0502, 40), (0x0600, 32), (0x0601, 24)],
      (withReplay c.1 c.2).mbxState 0 = 1 ∧ (withReplay c.1 c.2).hif.fwStopped = false ∧
        (withReplay c.1 c.2).requestCheck 0 ((withReplay c.1 c.2).mbx 0).copy = 0 ∧ field ((withReplay c.1 c.2).mbx 0).copy 0 2 = c.1 ∧
        (((withReplay c.1 c.2).mbx 0).remembered.find? fun r =>
          r.tag == (withReplay c.1 c.2).requestTag 0 && r.cmd == BitVec.ofNat 16 (field ((withReplay c.1 c.2).mbx 0).copy 0 2)).isSome = true) ∧
    ((withReplay 0x0400 20).unhindered = true ∧ (withReplay 0x0400 20).voteWaits ((withReplay 0x0400 20).reinitClass 0) = false) ∧
    (remember (List.replicate 15 ⟨1, 1, []⟩) ⟨2, 1, []⟩).length = 16 := by decide +kernel

/-- Every hypothesis of DoorbellFits is met somewhere: one unit free, none free, an index out of the ring. -/
theorem witness_DoorbellFits : doorbellFits 16 5 6 5 = true ∧ doorbellFits 16 0 0 15 = true ∧ doorbellFits 16 5 6 6 = false ∧
    doorbellFits 16 0 0 16 = false := by decide +kernel

/-- Every hypothesis of WindowAddress is met somewhere: windows of 256 MiB and of 64 GiB. -/
theorem witness_WindowAddress : State.reset.hif.winLog2 = 28 ∧
    ({ State.reset with hif := { State.reset.hif with winLog2 := 36 } } : State).hif.winLog2 = 36 := by decide +kernel

/-- Every hypothesis of DramMap is met somewhere: no interleaving, 4 GiB of it (the worked example of R286), all of it. -/
theorem witness_DramMap : (∀ x ∈ [0, 4, 16], (withFields [(DMC_MAP_ISHARE, x)]).rd DMC_MAP_ISHARE = x) ∧ 0x000700005A40 < 2 ^ 36 ∧
    0x000700005A40 % 2 ^ 34 ≥ (16 - 4) * 2 ^ 30 ∧ (0 : Nat) < (16 - 4) * 2 ^ 30 := by decide +kernel

/-- Every hypothesis of MemAllocZeroes is met somewhere. -/
theorem witness_MemAllocZeroes :
    (∃ s : State, s.serving 0 0x0100 ∧ s.memAllocCheck 0x100000 (s.request 0) = 0 ∧ s.colonyOf (field (s.request 0) 20 4) = none) ∧
    (∃ s : State, s.serving 0 0x0100 ∧ s.memAllocCheck 0x100000 (s.request 0) = 0 ∧ s.colonyOf (field (s.request 0) 20 4) = some 0) :=
  ⟨⟨withRequest 0x100 32 [(16, 4, 1), (25, 1, 12)] ((withObject.wr DMC_MAP_ISHARE 4).wr IDN_PKG_INCLUDED 0x1F), by decide +kernel⟩,
   ⟨withRequest 0x100 32 [(16, 4, 1), (20, 4, 0x20000000), (25, 1, 12)] (((withObject.setColony 0 { withObject.colony 0 with quota := 1 }).wr
      DMC_MAP_ISHARE 4).wr IDN_PKG_INCLUDED 0x1F), by decide +kernel⟩⟩

/-- A state with a poisoned word in the object. -/
def withPoison : State := withObject.poisonWord 1

/-- Every hypothesis of WindowWriteReadsBack is met somewhere: poisoned words that the write touches, beside it and away from it. -/
theorem witness_WindowWriteReadsBack : withPoison.Inv ∧ withPoison.unhindered = true ∧ withPoison.winAddr 60 = 60 ∧ withPoison.inWindow 60 8 = true ∧
    withPoison.spanExcluded 60 8 = false ∧ withPoison.spanVisible 60 8 = true ∧ withPoison.isPoisoned (68 / 64) = true ∧
    (60 + 4) / 64 = 68 / 64 :=
  ⟨by unfold State.Inv; decide +kernel, by decide +kernel⟩

/-- Every hypothesis of ColonyIsolation is met somewhere: the range of another colony, the shared partition, the last byte. -/
theorem witness_ColonyIsolation : withObject.rangeAt 1048575 = some ⟨0, 1048576, 16, true⟩ ∧
    ({ withObject with mem := { withObject.mem with ranges := [⟨0, 64, 1, true⟩] } } : State).rangeAt 63 = some ⟨0, 64, 1, true⟩ ∧
    ({ label := 15, source := 0x42 } : Who).label < 16 ∧ 63 % 512 + 1 ≤ 512 := by decide +kernel

/-- Every hypothesis of CreditTransfer is met somewhere. -/
theorem witness_CreditTransfer : withObject.Inv ∧ (15 : Nat) < 16 ∧ (16 : Nat) < 17 ∧ (127 : Nat) ≠ 0 :=
  ⟨by unfold State.Inv; decide +kernel, by decide⟩

/-- Every hypothesis of TimeBase is met somewhere. -/
theorem witness_TimeBase : State.reset.Inv ∧ State.reset.on PWR_STATUS_PLL_LOCK_IOD = false ∧
    (withFields [(PWR_STATUS_PLL_LOCK_IOD, 1)]).on PWR_STATUS_PLL_LOCK_IOD = true ∧ (withFields [(PWR_STATUS_PLL_LOCK_IOD, 1)]).Inv :=
  ⟨inv_reset, by decide +kernel, by decide +kernel, by unfold State.Inv; decide +kernel⟩

/-- A state with three copies of record 0 of island A. -/
def withCopies (l : List RecCopy) : State := { State.reset with saf := { State.reset.saf with copies := [(0, l)] } }

/-- Every hypothesis of VoteOutcomes is met somewhere. -/
theorem witness_VoteOutcomes : tget [] (withCopies [⟨[1], true⟩, ⟨[1], true⟩, ⟨[1], true⟩]).saf.copies (cfgKey 0 0) = List.replicate 3 ⟨[1], true⟩ ∧
    (withCopies [⟨[1], true⟩, ⟨[1], true⟩, ⟨[1], true⟩]).beingWritten 0 0 = false ∧
    [(⟨[1], true⟩ : RecCopy), ⟨[2], true⟩, ⟨[1], true⟩].count ⟨[1], true⟩ = 2 ∧
    [(⟨[1], false⟩ : RecCopy), ⟨[1], true⟩, ⟨[1], true⟩].count ⟨[1], true⟩ = 2 ∧
    (∀ x ∈ [(⟨[1], false⟩ : RecCopy), ⟨[2], true⟩, ⟨[1], true⟩], x.intact = true →
      [(⟨[1], false⟩ : RecCopy), ⟨[2], true⟩, ⟨[1], true⟩].count x = 1) := by decide +kernel

/-- Every hypothesis of LedgerHalfCycles is met somewhere: S falls by 2 K and by less, and rises by 2 K and by less. -/
theorem witness_LedgerHalfCycles :
    (({ started := true, up := some true, ext := 800 } : Domain).advance 768).up = some false ∧
    (({ started := true, up := some true, ext := 800 } : Domain).advance 769).up = some true ∧
    (({ started := true, up := some false, ext := 800 } : Domain).advance 832).up = some true ∧
    (({ started := true, up := some false, ext := 800 } : Domain).advance 831).up = some false := by decide +kernel

/-- Every hypothesis of FlitFields is met somewhere, at the largest value of each field. -/
theorem witness_FlitFields : (15 : Nat) < 16 ∧ (255 : Nat) < 256 ∧ (65535 : Nat) < 65536 ∧ (127 : Nat) < 128 := by decide

/-- Every hypothesis of SwarmRefusals is met somewhere: a disabled export, and a request past the end of an object. -/
theorem witness_SwarmRefusals : State.reset.Inv ∧ State.reset.on (SWM_EXP_CTL_ENABLE.bank 63) = false ∧
    (withObject.wr (SWM_EXP_OBJ_OBJ.bank 63) hObj).objFits hObj 1048570 8 = false ∧
    ∃ r, State.reset.swApply (bytesOf 240 [(1, 1, 63), (2, 1, 224)]) = r :=
  ⟨inv_reset, by decide +kernel, by decide +kernel, ⟨_, rfl⟩⟩

/-- Every hypothesis of PairsExcludedTogether is met somewhere. -/
theorem witness_PairsExcludedTogether : State.reset.Inv ∧ ((State.reset.markExcluded 3).dieOffset 0xC00000000).1 = 3 ∧
    (State.reset.markExcluded 3).allowed maintWho 0xC00000000 = true ∧ 0xC00000000 % 512 + 512 ≤ 512 :=
  ⟨inv_reset, by decide +kernel⟩

/-- A CSI-2 packet, a CAN frame, a DRAM request and a firmware configuration. -/
abbrev anyReq : DramReq := { kind := 0, addr := 0, words := 1, source := 0x49 }
abbrev anyFw : FwConfig := {}
abbrev csiLine : CsiPacket := { vc := 0, dtype := 0x2A }
abbrev anyFrame : CanFrame := {}

/-- Commands of which each breaks one check of `wf`. -/
theorem test_wf_refuses_1 : (([
    .memoryTrainingDone 4 [] none, .memoryTrainingDone 0 (List.replicate 33 0) none, .shortRetrainDone 4 true true,
    .waggleHello 10 (List.replicate 32 0) 0 0, .waggleHello 0 [] 0 0, .waggleIdent 10 (List.replicate 32 0) true,
    .waggleIdent 0 [] true, .waggleOffer 10 (List.replicate 32 0), .waggleOffer 0 [], .waggleSelect 10 (List.replicate 32 0),
    .waggleSelect 0 [], .waggleConfirm 10 (List.replicate 32 0), .waggleConfirm 0 [], .mainbandTrainingDone 10 0 0,
    .waggleTrained ⟨10, true⟩ (List.replicate 32 0), .waggleTrained ⟨0, true⟩ [], .waggleDone 10 true (List.replicate 32 0),
    .waggleDone 0 true [], .waggleReject 10 (List.replicate 32 0), .waggleReject 0 [], .waggleNak 10 true (List.replicate 32 0),
    .waggleNak 0 true [], .waggleReplyTimeout 14, .waggleDoneTimeout 10, .ringLinkTimeout 10, .linkUncorrectableError 10,
    .linkRetrainDone 10, .linkRetrainTimeout 10 0, .ruradPllLockLoss 4, .ruradLockLossConfirm 4, .avsMonitor 4 0, .avsStep 4,
    .avsbusNoAck 4, .combClockGate 64, .dieStandbyEnter 4, .dieStandbyExitDone 4, .rampEstimate 5 ⟨0, 0⟩, .rampEstimate 0 ⟨0, 1⟩,
    .windowRead (2 ^ 36) 1, .windowWrite (2 ^ 36) [1], .registerWrite (0x410000) [1], .rcRead 0x410000, .reg64LowRead 0x400000,
    .reg64LowRead 1, .reg64HighRead 0x400000, .reg64HighRead 1, .reg64LowWrite 0x400000 0, .reg64LowWrite 1 0,
    .reg64HighWrite 0x400000 0, .reg64HighWrite 5 0, .invalidRegisterAccess 0x400000 0, .mbxReqWrite 16 0 [], .mbxReqWrite 0 (256) [1],
    .mbxDoorbellRefused 16, .mbxAck 16, .mbxCancel 16, .hello 16, .getInfo 16, .memAlloc 16 0, .memFree 16] : List Instr).all fun c => !c.wf) = true := by decide +kernel

/-- Commands of which each breaks one check of `wf`. -/
theorem test_wf_refuses_2 : (([
    .memInfo 16, .colonyCreate 16, .colonyReservationComplete 16, .colonyDestroy 16, .queueCreate 16, .queueDestroy 16,
    .queueDestroyDone 128, .funcReinit 16, .powerPolicy 16, .safetyTestInjection 16, .safetyTestVote 16, .ledgerRead 16, .logRead 16,
    .fwSlotWrite 16 {}, .fwRollbackAdvance 16, .msixUnmask 64, .queueDoorbell 128 0, .queueResume 128, .queueFlush 128,
    .cqtailWrite 128 0, .recordStart 128, .nop 128, .signal 128, .wait 128, .waitRelease 128, .waitTimeout 128, .timestamp 128,
    .fgCopy 128, .fgFill 128, .foragerRecordDone 8388608, .foragerBudgetExpiry 8388608, .jobRun 128 0 0, .jobRun 0 0 4, .jobAssign 17,
    .jobStart ⟨8388608, (List.replicate 4 0)⟩, .jobStart ⟨0, []⟩, .jobEnd 8388608, .jobSaveDone 8388608, .jobBudgetExpiry 8388608,
    .jobRelease 8388608, .beAgeingExpiry 17, .slotwaitExpiry 64, .foragerSlotAdmit 64 0, .foragerSlotAdmit 0 2,
    .foragerSlotwaitExpiry 64 0, .foragerSlotwaitExpiry 0 2, .foragerTransferDone 64 ⟨0, []⟩, .foragerTransferDone 0 ⟨2, []⟩, .spFill 64 0,
    .spFill 0 2, .spCopy 64 0, .spCopy 0 2, .cacheWb 64 0, .cacheWb 0 2, .cacheInv 64 0, .cacheInv 0 2, .cacheWbinv 64 0,
    .cacheWbinv 0 2, .scratchpadOpDone 64 ⟨0, true⟩, .scratchpadOpDone 0 ⟨2, true⟩] : List Instr).all fun c => !c.wf) = true := by decide +kernel

/-- Commands of which each breaks one check of `wf`. -/
theorem test_wf_refuses_3 : (([
    .cacheFillDone 64, .scratchpadEccWriteback 64, .combDebugHalt 64, .combDebugRelease 64, .combDebugStep 64, .combClearCounters 64,
    .scratchpadDebugRead (2 ^ 18), .seqJoin 128, .seqFinish 128, .seqCtlPin 128, .seqCtlUnpin 128, .seqCtlHold 128, .seqCtlRelease 128,
    .seqCtlResume 128, .stepRun 128 0 0, .stepRun 0 0 4, .stepBuildDone 8388608, .refreshDue 4 0 0, .refreshDue 0 32 0,
    .refreshDue 0 0 16, .mimiderSensorRead 4 [], .mimiderSensorRead 0 (List.replicate 9 0), .uathalSensorReport [] [], .uathalSensorReport (List.replicate 12 0) [12], .rowIdleClose 4 0 0, .rowIdleClose 0 32 0,
    .rowIdleClose 0 0 16, .commandParityFailure 4 0 0 0, .commandParityFailure 0 32 0 0, .commandParityFailure 0 0 4 0,
    .patrolScrub 4 0, .patrolScrub 0 3, .csiStopState 16, .ethFrameReceive 12 [] true 0 0, .ethLinkUp 12, .ethLinkDown 12,
    .canFrameSent ⟨8, 0⟩, .isobusClaimSettled 8, .spiTransfer 4 0 0 [0], .spiTransfer 0 4 0 [0], .spiTransfer 0 0 0 [],
    .spiTransfer 0 0 0 (List.replicate 257 0), .spiDataReady 4, .gpioEdge 32 true, .gnssUartByte 2 0, .registryRead 128,
    .registryBind 128, .registryUnbind 128, .syncMessage 12 0 0 0 0 0 true, .instantClose [] [], .instantClose (List.replicate 7 0) (List.replicate 33 0), .fuseCollect 128, .fuseConfig 128,
    .calibLoad 128, .calibRemove 128, .plan 128, .occLoad 128, .libLoad 128, .loopSet 128, .loopEnable 128, .loopDisable 128,
    .loopResetI 128, .trajLoad 128] : List Instr).all fun c => !c.wf) = true := by decide +kernel

/-- Commands of which each breaks one check of `wf`. -/
theorem test_wf_refuses_4 : (([
    .loopPeriodTrigger 32, .cvConfig 128, .cvRun 128, .cvRunDone 128, .cvSave 128, .cvRestore 128, .cvChanVerify 128, .cvChanOff 128,
    .joinHello [] (List.replicate 16 0) [0, 0], .joinHello (List.replicate 26 0) [] [0, 0], .joinHello (List.replicate 26 0) (List.replicate 16 0) [],
    .joinResp [] [0, 0], .joinResp (List.replicate 48 0) [], .joinConfirm [] [0, 0], .joinConfirm (List.replicate 16 0) [],
    .comparatorTestRun true [⟨64, 0, [], true⟩] 0, .comparatorTestRun true [⟨0, 4, [], true⟩] 0, .comparatorTestRun true [] 1251,
    .dutyReview 0 [], .sensorSample 10 (List.replicate 12 0),
    .joinDone ⟨[], true⟩, .compareMismatch true 64 0, .compareMismatch true 0 (2 ^ 32), .guardExpiry 64, .deadlineMiss 16,
    .checkerSummaryCopy 8, .checkerLagExpiry 8, .stopFrameRepeat true 0, .stopFrameRepeat true 100,
    .sensorSample 9 (List.replicate 55 0), .thermalForecast [], .rthWindow 0 1 0 (List.replicate 6 0),
    .rthWindow 1 0 0 (List.replicate 6 0), .rthWindow 0 0 0 [], .swarmPortEnable 4, .swarmPortDisable 4, .swarmTrainingDone 4 true,
    .swarmHello 4 (List.replicate 256 0), .swarmHello 0 [], .swarmDone 4 (List.replicate 256 0), .swarmDone 0 [],
    .swarmReject 4 (List.replicate 256 0), .swarmReject 0 [], .swarmRequestFlit 4 (List.replicate 256 0), .swarmRequestFlit 0 [],
    .swarmResponseFlit 4 (List.replicate 256 0), .swarmResponseFlit 0 [], .swarmAckFlit 4 (List.replicate 256 0), .swarmAckFlit 0 [],
    .swarmAdvertisement 4 (List.replicate 256 0), .swarmAdvertisement 0 [], .swarmRetrainDone 4, .swarmRetrainTimeout 4,
    .swarmSilence 4, .swarmCopy 128, .swarmSignal 128, .aerError 0, .aerError 4, .perstDeassert 9 0, .perstDeassert 0 33,
    .pwmPeriodStart ⟨8, 0⟩, .pwmPeriodStart ⟨0, 80⟩] : List Instr).all fun c => !c.wf) = true := by decide +kernel

/-- The same commands with their operands in range. -/
theorem test_wf_accepts_1 : (([
    .memoryTrainingDone 0 [] none, .shortRetrainDone 0 true true, .waggleHello 0 (List.replicate 32 0) 0 0,
    .waggleIdent 0 (List.replicate 32 0) true, .waggleOffer 0 (List.replicate 32 0), .waggleSelect 0 (List.replicate 32 0),
    .waggleConfirm 0 (List.replicate 32 0), .mainbandTrainingDone 0 0 0, .waggleTrained ⟨0, true⟩ (List.replicate 32 0),
    .waggleDone 0 true (List.replicate 32 0), .waggleReject 0 (List.replicate 32 0), .waggleNak 0 true (List.replicate 32 0),
    .waggleReplyTimeout 0, .waggleDoneTimeout 0, .ringLinkTimeout 0, .linkUncorrectableError 0, .linkRetrainDone 0,
    .linkRetrainTimeout 0 0, .ruradPllLockLoss 0, .ruradLockLossConfirm 0, .avsMonitor 0 0, .avsStep 0, .avsbusNoAck 0,
    .combClockGate 0, .dieStandbyEnter 0, .dieStandbyExitDone 0, .rampEstimate 0 ⟨0, 0⟩, .windowRead 0 0, .windowWrite 0 [],
    .registerWrite 0 [], .rcRead 0, .reg64LowRead 0, .reg64HighRead 0, .reg64LowWrite 0 0, .reg64HighWrite 4 0,
    .invalidRegisterAccess 0 0, .mbxReqWrite 0 0 [], .mbxDoorbellRefused 0, .mbxAck 0, .mbxCancel 0, .hello 0, .getInfo 0,
    .memAlloc 0 0, .memFree 0, .memInfo 0, .colonyCreate 0, .colonyReservationComplete 0, .colonyDestroy 0, .queueCreate 0,
    .queueDestroy 0, .queueDestroyDone 0, .funcReinit 0, .powerPolicy 0, .safetyTestInjection 0, .safetyTestVote 0, .ledgerRead 0,
    .logRead 0, .fwSlotWrite 0 {}, .fwRollbackAdvance 0, .msixUnmask 0, .queueDoorbell 0 0, .queueResume 0, .queueFlush 0,
    .cqtailWrite 0 0, .recordStart 0, .nop 0, .signal 0, .wait 0, .waitRelease 0, .waitTimeout 0, .timestamp 0, .fgCopy 0, .fgFill 0,
    .foragerRecordDone 0, .foragerBudgetExpiry 0, .jobRun 0 0 0, .jobAssign 0, .jobStart ⟨0, (List.replicate 4 0)⟩, .jobEnd 0,
    .jobSaveDone 0, .jobBudgetExpiry 0, .jobRelease 0, .beAgeingExpiry 0, .slotwaitExpiry 0, .foragerSlotAdmit 0 0,
    .foragerSlotwaitExpiry 0 0, .foragerTransferDone 0 ⟨0, []⟩, .spFill 0 0, .spCopy 0 0, .cacheWb 0 0, .cacheInv 0 0, .cacheWbinv 0 0,
    .scratchpadOpDone 0 ⟨0, true⟩, .cacheFillDone 0, .scratchpadEccWriteback 0, .combDebugHalt 0, .combDebugRelease 0, .combDebugStep 0,
    .combClearCounters 0, .scratchpadDebugRead 0] : List Instr).all fun c => c.wf) = true := by decide +kernel

/-- The same commands with their operands in range. -/
theorem test_wf_accepts_2 : (([
    .seqJoin 0, .seqFinish 0, .seqCtlPin 0, .seqCtlUnpin 0, .seqCtlHold 0, .seqCtlRelease 0, .seqCtlResume 0, .stepRun 0 0 0,
    .stepBuildDone 0, .refreshDue 0 0 0, .mimiderSensorRead 0 [0], .uathalSensorReport (List.replicate 12 0) [11], .rowIdleClose 0 0 0, .commandParityFailure 0 0 0 0,
    .patrolScrub 0 0, .csiStopState 0, .ethFrameReceive 0 [] true 0 0, .ethLinkUp 0, .ethLinkDown 0, .canFrameSent ⟨0, 0⟩,
    .isobusClaimSettled 0, .spiTransfer 0 0 0 [0], .spiDataReady 0, .gpioEdge 0 true, .gnssUartByte 0 0, .registryRead 0,
    .registryBind 0, .registryUnbind 0, .syncMessage 0 0 0 0 0 0 true, .instantClose (List.replicate 7 0) (List.replicate 32 0), .fuseCollect 0,
    .fuseConfig 0, .calibLoad 0, .calibRemove 0, .plan 0, .occLoad 0, .libLoad 0, .loopSet 0, .loopEnable 0, .loopDisable 0,
    .loopResetI 0, .trajLoad 0, .loopPeriodTrigger 0, .cvConfig 0, .cvRun 0, .cvRunDone 0, .cvSave 0, .cvRestore 0, .cvChanVerify 0,
    .cvChanOff 0, .joinHello (List.replicate 26 0) (List.replicate 16 0) [0, 0], .joinResp (List.replicate 48 0) [0, 0],
    .joinConfirm (List.replicate 16 0) [0, 0], .joinDone ⟨(List.replicate 3 0), true⟩, .compareMismatch true 0 0, .guardExpiry 0,
    .deadlineMiss 0, .checkerSummaryCopy 0, .checkerLagExpiry 0, .stopFrameRepeat true 96, .sensorSample 0 (List.replicate 55 0),
    .sensorSample 9 (List.replicate 12 0), .dutyReview 0 (List.replicate 4 0), .waggleReplyTimeout 13, .thermalForecast (List.replicate 6 0), .rthWindow 0 0 0 (List.replicate 6 0),
    .swarmPortEnable 0, .swarmPortDisable 0, .swarmTrainingDone 0 true, .swarmHello 0 (List.replicate 256 0),
    .swarmDone 0 (List.replicate 256 0), .swarmReject 0 (List.replicate 256 0), .swarmRequestFlit 0 (List.replicate 256 0),
    .swarmResponseFlit 0 (List.replicate 256 0), .swarmAckFlit 0 (List.replicate 256 0), .swarmAdvertisement 0 (List.replicate 256 0),
    .swarmRetrainDone 0, .swarmRetrainTimeout 0, .swarmSilence 0, .swarmCopy 0, .swarmSignal 0, .aerError 1, .perstDeassert 0 0,
    .pwmPeriodStart ⟨0, 0⟩] : List Instr).all fun c => c.wf) = true := by decide +kernel

/-- The checks of `wf` on operands with fields of their own: each term breaks one of them. -/
theorem test_wf_refuses_shapes : (([
    .dramChannelIssue 4 0 [], .dramChannelIssue 0 32 [], .dramChannelIssue 0 0 (List.replicate 9 0), .dramChannelIssue 0 0 [3],
    .csiPacket 16 csiLine 0, .csiPacket 0 { csiLine with vc := 16 } 0, .csiPacket 0 { csiLine with dtype := 64 } 0,
    .csiPacket 0 { csiLine with word := 65536 } 0, .csiPacket 0 { csiLine with header := 3 } 0, .portDetach 64 1, .portDetach 0 3,
    .canMessageReceive 8 anyFrame ⟨0, 0⟩, .canMessageReceive 0 { id := 2048 } ⟨0, 0⟩, .canMessageReceive 0 { id := 2 ^ 29, ide := true } ⟨0, 0⟩,
    .canMessageReceive 0 { brs := true } ⟨0, 0⟩, .canMessageReceive 0 { data := List.replicate 9 0 } ⟨0, 0⟩,
    .canMessageReceive 0 { fdf := true, data := List.replicate 13 0 } ⟨0, 0⟩, .comparatorTestRun true [⟨0, 0, [(64, 0)], true⟩] 0,
    .comparatorTestRun true [⟨0, 0, [(0, 2 ^ 32)], true⟩] 0, .debugMemoryRead true (2 ^ 21) 1, .debugMemoryRead false (2 ^ 20) 1,
    .debugMemoryWrite true (2 ^ 21) [0], .debugMemoryWrite false (2 ^ 20) [0], .bundleIssue 64 [] 0,
    .commandParityFailure 0 0 1 (2 ^ 36), .commandParityFailure 0 0 3 16] : List Instr).all fun c => !c.wf) = true := by decide +kernel

/-- The checks of `wf` on a DRAM request (R293): each term breaks one of them. -/
theorem test_wf_refuses_requests : ([({ anyReq with kind := 3 } : DramReq), { anyReq with addr := 2 ^ 36 }, { anyReq with words := 0 },
    { anyReq with words := 9 }, { anyReq with addr := 448, words := 2 }, { anyReq with hint := 4 }, { anyReq with label := 16 },
    { anyReq with deadline := some 65536 }, { anyReq with source := 0x4A }, { anyReq with kind := 1 }, { anyReq with kind := 2 },
    { anyReq with kind := 2, addr := 4, data := List.replicate 8 0 }, { anyReq with addr := 32 }].all fun r => !(Instr.dramRequest r).wf)
      = true := by decide +kernel

/-- The checks of `wf` on a firmware configuration and on upsets: each term breaks one of them. -/
theorem test_wf_refuses_settings : ([({ anyFw with major := 256 } : FwConfig), { anyFw with minor := 256 }, { anyFw with ishare := 17 },
    { anyFw with winMax := 27 }, { anyFw with winMax := 37 }, { anyFw with ranges := [⟨0, 1, 16, false⟩] },
    { anyFw with ranges := [⟨2 ^ 36, 1, 17, false⟩] }].all fun c => !(Instr.mailboxReady c).wf) = true ∧
    ([(⟨2, 0, 0, [], true⟩ : Upset), ⟨0, 101, 0, [], true⟩, ⟨0, 0, 3, [], true⟩].all fun u => !(Instr.configVoteScrub [u]).wf) = true := by
  decide +kernel

/-- The same operands in range. -/
theorem test_wf_accepts_shapes : (([
    .dramChannelIssue 3 31 (List.replicate 8 2), .csiPacket 15 csiLine 0, .portDetach 63 4, .canMessageReceive 7 anyFrame ⟨0, 0⟩,
    .canMessageReceive 7 { fdf := true, brs := true, ide := true, id := 2 ^ 29 - 1, data := List.replicate 64 0 } ⟨0, 0⟩,
    .comparatorTestRun true [⟨63, 3, [(63, 2 ^ 32 - 1)], true⟩] 1250, .debugMemoryRead true (2 ^ 21 - 1) 1, .debugMemoryWrite false (2 ^ 20 - 1) [0],
    .bundleIssue 63 [] 0, .commandParityFailure 3 31 1 (2 ^ 36 - 1), .commandParityFailure 3 31 3 15, .dramRequest anyReq,
    .dramRequest { anyReq with kind := 2, addr := 8, data := List.replicate 8 0 }, .mailboxReady anyFw, .configVoteScrub []] : List Instr).all
    fun c => c.wf) = true := by decide +kernel

/-! ## Worked examples of spec/ -/

/-- "123456789" (18_check_value_units.md, Worked example). -/
abbrev digits : List Byte := [0x31, 0x32, 0x33, 0x34, 0x35, 0x36, 0x37, 0x38, 0x39]

/-- CRC-32C over a suspended stream: the running value, and the check value. -/
theorem test_crc32c : cvRun crc32cParams (cvRun crc32cParams (cvInit crc32cParams) (digits.take 4)) (digits.drop 4) = 0x3EB69F38 ∧
    cvValue crc32cParams 0x3EB69F38 = 0xE3069283 := by decide +kernel

/-- CRC-16 of "123456789" with the parameters of R19 is the catalogued value of that CRC. -/
theorem test_crc16 : crc16 digits = 0x29B1 := by decide +kernel

/-- The device with 4 GiB of each die interleaved. -/
abbrev ishare4 : State := withFields [(DMC_MAP_ISHARE, 4)]

/-- Decoding two addresses with ISHARE 4 (12_memory_dies_dram_controller.md, Worked example). -/
theorem test_dram_map : ishare4.dieOffset 0x000700005A40 = (1, 0x340001A40) ∧ ishare4.dieOffset 0x000700006A40 = (2, 0x340001A40) ∧
    ishare4.dieOffset 0x0008146A8E40 = (2, 0x146A8E40) := by decide +kernel

theorem test_dram_fields : offWord 0x146A8E40 = 1 ∧ offCh 0x146A8E40 = 7 ∧ offBurst 0x146A8E40 = 2 ∧ offBank 0x146A8E40 = 6 ∧
    offRow 0x146A8E40 = 163 := by decide +kernel

/-- Locating the registers of comb 2.05 (25_register_reference.md, Worked example). -/
theorem test_register_places : (holdFld 37 2).off = 0x5A530 ∧ (CMB_DBG_HALT.idx 37).off = 0x5A5F0 ∧ (HIF_QSTAT_STATE.idx 37).off = 0x14B0 ∧
    (DMC_LOG_CTL_SEL.idx 2).off = 0x5201C ∧ (DMC_UE_COUNT.idx 3).off = 0x53010 := by decide +kernel

/-- HIF_GSTATUS in the same example: boot lock, READY, island B joined, a stop, an uncorrectable error. -/
theorem test_gstatus : (withFields [(HIF_GSTATUS_BOOT_LOCK, 1), (MBX_CTRL_READY, 1), (SAF_ISL_STATUS_B_JOINED, 1),
    (SAF_ISL_STATUS_STOP_A, 1), (DMC_UE_COUNT.idx 2, 1)]).gStatus = 0x4069 := by decide +kernel

/-- The turning points of a shift's ledger, with the windows between them left out (21_thermal_management.md, Worked example): values of
S in 1/16 K. -/
def shift : Domain :=
  [640, 1312, 1280, 1040, 1064, 976, 1008, 1200, 1168, 1120].foldl (fun (d : Domain) v => d.advance v) {}

theorem test_ledger : shift.half10 = 1 ∧ shift.half20 = 1 ∧ shift.half40 = 1 ∧ shift.half60 = 0 ∧ shift.lastTp = 0x4B0 ∧ shift.ext = 0x460 := by
  decide +kernel

/-- The trim of 14_sensor_ports_time_base.md's worked example: TIM_ADJ reads 0xFFF9_B563 for -412,317. -/
theorem test_tick : (withFields [(TIM_ADJ_ADJ, 0xFFF9B563)]).tickInc = 34359326051 := by decide +kernel

/-- Eight words for colony 0 of SHARE 400 beside colony 5 of SHARE 500 (13_bandwidth_regulation.md, Worked example). -/
def burst : State :=
  (List.range 8).foldl (fun s _ => s.transferWords 7 0 1)
    { (State.reset.setColony 0 { live := true, share := 400 }).setColony 5 { live := true, share := 500 } with
      mem := { State.reset.mem with credit := [(creditKey 7 0, 256000), (creditKey 7 5, -256000)] } }

theorem test_credit : burst.credit 7 0 = 251200 ∧ burst.credit 7 5 = -252000 ∧ burst.credit 7 16 = 800 := by decide +kernel

/-- E4M3 values of 06_arithmetic_formats.md's worked example, products by column. -/
def e4m3 (l : List (Nat × Nat)) : List FVal := l.map fun p => (fE4M3.decode p.1).mul (fE4M3.decode p.2)

/-- Block 0 with ZERO, then block 1 with ACC for columns c0 and c1, and the BF16 conversions. -/
theorem test_dot_block0 : accumulate false false 0 (vectorSum 3 (e4m3 (List.replicate 8 (0x3C, 0x41) ++ List.replicate 8 (0xB6, 0x41)))) =
    0x41340000 := by decide +kernel

theorem test_dot_block1 :
    accumulate false true 0x41340000 (vectorSum 3 (e4m3 ([(0x7E, 0x7E), (0xFE, 0x7E)] ++ List.replicate 14 (1, 1)))) = 0x41340038 ∧
    accumulate false true 0x41340000 (vectorSum 3 (e4m3 ([(0x7E, 0), (0xFE, 0), (1, 0x58)] ++ List.replicate 13 (1, 0)))) = 0x41348000 := by
  decide +kernel

theorem test_to_bf16 : fBF16.convert (f32 0x41340038) = 0x4134 ∧ fBF16.convert (f32 0x41348000) = 0x4134 ∧
    fBF16.convert (f32 0x41358000) = 0x4136 := by decide +kernel

/-- The sink of 17_control_engine.md's worked example: a signed 16-bit valve command with SCALE 32,767. -/
def sinkObj : List Byte := bytesOf 192 [(75, 1, 5), (80, 4, 0x46FFFE00)]

theorem test_sink : sinkInt sinkObj 0x3F19999A = 0x4CCC ∧ sinkInt sinkObj 0x3E81D7DC = 0x2076 := by decide +kernel

/-! ## Refusals and corners -/

/-- No row of the table gives bits: no word spells a command. -/
theorem test_no_words : decodeTableWord 32 0 = none ∧ (State.reset.withFetchWord 32 0).pending = [] := by decide +kernel

/-- A refused doorbell and one that fills the ring to its last unit (R112). -/
theorem test_doorbell : doorbellFits 16 3 3 2 = true ∧ doorbellFits 16 3 3 3 = true ∧ doorbellFits 16 3 4 4 = false := by decide +kernel

/-- A write of 1 clears a W1C bit, and RO bits stay (R6). -/
theorem test_w1c : ((withFields [(HIF_STATUS_WIN_ERR, 1), (HIF_STATUS_FW_FATAL, 1)]).regWrite 0 [0xFF, 0xFF, 0xFF, 0xFF]).reg 0 = 4 := by
  decide +kernel

/-- A misaligned access sets ACC_ERR (R533). -/
theorem test_misaligned : (State.reset.regWrite 2 [1, 2, 3, 4]).on HIF_GSTATUS_ACC_ERR = true := by decide +kernel

/-- INT32 accumulation saturates (R162), and the maximum of numbers takes NaN as the rules of R165 say. -/
theorem test_int_saturates : accumulate true true 0x7FFFFFFF (.fin false 1 0) = 0x7FFFFFFF ∧
    accumulate true true 0x80000000 (.fin true 1 0) = 0x80000000 := by decide +kernel

/-- The last 16 TAG values are remembered, the oldest forgotten (R85). -/
theorem test_remember : (((List.range 17).foldl (fun l n => remember l ⟨BitVec.ofNat 16 n, 1, []⟩) []).map (·.tag.toNat)).getLast? = some 1 := by
  decide +kernel

/-- Event 513 is dropped and counted; the OVERFLOW record has a place of its own (R99). -/
theorem test_event_drop : (((List.range 3).foldl (fun (s : State) _ => s.event 2 0x1F 0 0 [])
    { State.reset with hif := { State.reset.hif with evtBuf := List.replicate 511 ⟨2, 0x1F, 0, 0, 0, 0, 0, []⟩ } }).rd EVT_DROPPED_COUNT) = 2 := by
  decide +kernel

end Sys2Proof.Tests
end

section
/-! The host's register accesses of `spec/00_scope.md`: reserved bits and offsets (R9), the read latch and the write hold of a 64-bit
register (R10). -/
namespace Sys2Proof.Proofs
open Sys2Proof Sys2Proof.Machine Sys2Proof.Laws

variable {s : State} {off base i k j : Nat} {x : RegDesc} {m v : Word64} {bs : List Byte}

/-! ## What the register commands are -/

theorem exec_rcRead : exec (.rcRead off) s = .next ((s.regRead off).1.hostGets (.data (s.regRead off).2)) := rfl

/-- An aligned 32-bit read is not refused (R533). -/
theorem exec_reg64LowRead_aligned (h : off % 4 = 0) :
    exec (.reg64LowRead off) s = .next ((s.read32 off).1.hostGets (.data (leBytes 4 (s.read32 off).2))) := by
  show Host.Outcome.next (s.hostRead32 off) = _
  rw [State.hostRead32, if_neg (not_not.2 h)]

theorem exec_reg64HighRead_aligned (h : off % 4 = 0) :
    exec (.reg64HighRead off) s = .next ((s.read32 off).1.hostGets (.data (leBytes 4 (s.read32 off).2))) :=
  exec_reg64LowRead_aligned h

theorem exec_registerWrite : exec (.registerWrite off bs) s = .next (s.regWrite off bs).settle := rfl

theorem exec_reg64LowWrite (w : Word) :
    exec (.reg64LowWrite off w) s = .next (s.regWrite off (leBytes 4 w.toNat)).settle := rfl

theorem exec_reg64HighWrite (w : Word) :
    exec (.reg64HighWrite off w) s = .next (s.regWrite off (leBytes 4 w.toNat)).settle := rfl

/-! ## Forms of an access (R533) -/

theorem accessOk_word (h : off % 4 = 0) : accessOk off 4 = true := by simp [accessOk, h]

theorem accessOk_doubleWord (h : off % 8 = 0) : accessOk off 8 = true := by simp [accessOk, h]

/-- A 4-byte write of BAR0 outside the mailbox buffers is a 32-bit write. -/
theorem regWrite_word (ho : off < 0x400000) (ha : off % 4 = 0) (hm : mbxBuffer off = none) (hl : bs.length = 4) :
    s.regWrite off bs = s.write32 off (leNat bs) := by
  simp [State.regWrite, hl, accessOk_word ha, Nat.not_le.2 ho, hm]

/-! ## Reserved bits and offsets (R9) -/

/-- A field's mask covers no bit outside the field. -/
theorem bitMask_outside {lo w b : Nat} (h : b < lo ∨ lo + w ≤ b) : (bitMask lo w).getLsbD b = false := by
  rw [bitMask, BitVec.getLsbD_shiftLeft, BitVec.getLsbD_ofNat, Nat.testBit_two_pow_sub_one]
  rcases h with h | h
  · simp [h]
  · simp [show ¬ b - lo < w by omega]

/-- The mask of the readable fields covers no bit that is in no field. -/
theorem readMask_reserved {d : RegDesc} {b : Nat} (h : ∀ f ∈ d.fields, b < f.1 ∨ f.1 + f.2.1 ≤ b) :
    d.readMask.getLsbD b = false := by
  unfold RegDesc.readMask
  refine List.foldlRecOn d.fields _ (motive := fun m : Word64 => m.getLsbD b = false) BitVec.getLsbD_zero fun m hm f hf => ?_
  split
  · exact hm
  · rw [BitVec.getLsbD_or, hm, bitMask_outside (h f hf), Bool.or_false]

theorem regValue_reserved {d : RegDesc} {b : Nat} (h : ∀ f ∈ d.fields, b < f.1 ∨ f.1 + f.2.1 ≤ b) :
    (s.regValue d off).getLsbD b = false := by
  unfold State.regValue
  split
  · rw [BitVec.getLsbD_and, readMask_reserved h, Bool.and_false]
  · exact BitVec.getLsbD_zero

theorem leBytes_four_zero : leBytes 4 0 = [0, 0, 0, 0] := by decide

section
variable (hf : findReg off = none)
include hf

theorem write32_reserved (n : Nat) : s.write32 off n = s := by simp [State.write32, hf]

theorem read32_reserved (hm : mbxBuffer off = none) : s.read32 off = (s, 0) := by simp [State.read32, hm, hf]

theorem regRead_reserved (ho : off < 0x400000) (ha : off % 4 = 0) (hm : mbxBuffer off = none) :
    s.regRead off = (s, [0, 0, 0, 0]) := by
  simp [State.regRead, ha, Nat.not_le.2 ho, hf, read32_reserved hf hm, leBytes_four_zero]

theorem regWrite_doubleWord_reserved (ho : off < 0x400000) (ha : off % 8 = 0) (hm : mbxBuffer off = none)
    (hf' : findReg (off + 4) = none) (hl : bs.length = 8) : s.regWrite off bs = s := by
  simp [State.regWrite, hl, accessOk_doubleWord ha, Nat.not_le.2 ho, hm, hf, write32_reserved hf, write32_reserved hf']

end

/-- Settles O45: no field covers a reserved bit, and the register map finds no row at a reserved offset. -/
theorem reservedRegisters : Obligations.ReservedRegisters := by
  unfold Obligations.ReservedRegisters
  intro s d off b bs
  refine ⟨regValue_reserved, fun ho ha hf hm => ⟨?_, ?_, ?_, fun hl => ?_, fun hl ha8 hf' _ => ?_⟩⟩
  · rw [exec_rcRead, regRead_reserved hf ho ha hm]
  · rw [exec_reg64LowRead_aligned ha, read32_reserved hf hm, leBytes_four_zero]
  · rw [exec_reg64HighRead_aligned ha, read32_reserved hf hm, leBytes_four_zero]
  · rw [exec_registerWrite, regWrite_word ho ha hm hl, write32_reserved hf]
  · rw [exec_registerWrite, regWrite_doubleWord_reserved hf ho ha8 hm hf' hl]

/-! ## What a write of a row's fields leaves unchanged -/

theorem writeField_hif (f : Nat × Nat × Acc) : (s.writeField k m v f).hif = s.hif := by
  obtain ⟨lo, w, a⟩ := f
  cases a with
  | rwl =>
    simp only [State.writeField]
    split
    · rfl
    · split <;> simp
  | rw | w1c => simp [State.writeField]
  | ro | wo | rc => rfl

theorem writeField_inv (h : s.Inv) (f : Nat × Nat × Acc) : (s.writeField k m v f).Inv :=
  (writeField_kept (k := ⟨true, s.pending, s.tclk, s.free⟩) ⟨fun _ => h, rfl, le_rfl, le_rfl⟩).1 rfl

/-- A bit that mask `m` does not carry, in a value stored (RW, RWL) and in a value whose ones clear (W1C). -/
theorem stored_uncarried {r fm : Word64} (hj : j < 64) (hm : m.getLsbD j = false) :
    ((r &&& ~~~(fm &&& m)) ||| (v &&& (fm &&& m))).getLsbD j = r.getLsbD j := by
  simp only [BitVec.getLsbD_or, BitVec.getLsbD_and, BitVec.getLsbD_not, hj, hm, decide_true, Bool.and_false, Bool.or_false,
    Bool.not_false, Bool.and_true]

theorem cleared_uncarried {r fm : Word64} (hj : j < 64) (hm : m.getLsbD j = false) :
    (r &&& ~~~(v &&& (fm &&& m))).getLsbD j = r.getLsbD j := by
  simp only [BitVec.getLsbD_and, BitVec.getLsbD_not, hj, hm, decide_true, Bool.and_false, Bool.not_false, Bool.and_true]

/-- A bit that the access does not carry stays, whatever the field's access code; a refused RWL write changes HIF_GSTATUS alone. -/
theorem writeField_uncarried (h : s.Inv) (hk : k ≠ 0x20) (hj : j < 64) (hm : m.getLsbD j = false) (f : Nat × Nat × Acc) :
    ((s.writeField k m v f).reg k).getLsbD j = (s.reg k).getLsbD j := by
  obtain ⟨lo, w, a⟩ := f
  cases a with
  | rw => simp only [State.writeField, reg_setReg_same h, stored_uncarried hj hm]
  | rwl =>
    simp only [State.writeField]
    split
    · rfl
    · split
      · rw [State.wr, reg_setReg_other hk]
      · rw [reg_setReg_same h, stored_uncarried hj hm]
  | w1c => simp only [State.writeField, reg_setReg_same h, cleared_uncarried hj hm]
  | ro | wo | rc => rfl

theorem writeFields_hif (d : RegDesc) : (s.writeFields d k m v).hif = s.hif :=
  List.foldlRecOn d.fields _ (motive := fun t : State => t.hif = s.hif) rfl fun _ ht f _ => (writeField_hif f).trans ht

theorem writeFields_uncarried (h : s.Inv) (hk : k ≠ 0x20) (hj : j < 64) (hm : m.getLsbD j = false) (d : RegDesc) :
    ((s.writeFields d k m v).reg k).getLsbD j = (s.reg k).getLsbD j :=
  (List.foldlRecOn d.fields _ (motive := fun t : State => t.Inv ∧ (t.reg k).getLsbD j = (s.reg k).getLsbD j) ⟨h, rfl⟩
    fun _ ⟨ht, he⟩ f _ => ⟨writeField_inv ht f, (writeField_uncarried ht hk hj hm f).trans he⟩).2

theorem writeReg64_hif : (s.writeReg64 x off m v).hif = s.hif := by
  unfold State.writeReg64
  split
  · rfl
  · exact writeFields_hif x

/-- No bank of another register has HIF_GSTATUS's key. -/
theorem regKey_ne_gstatus (hb : base < 0x400000) (hg : base ≠ 0x20) : s.regKey base ≠ 0x20 := by
  unfold State.regKey; omega

/-- The mask of the high half carries no bit of the low half. -/
theorem highMask_low (hj : j < 32) : (BitVec.ofNat 64 (2 ^ 64 - 2 ^ 32)).getLsbD j = false := by
  rw [show BitVec.ofNat 64 (2 ^ 64 - 2 ^ 32) = BitVec.allOnes 64 <<< 32 by decide, BitVec.getLsbD_shiftLeft]
  simp [hj]

/-- A write that carries the high half leaves the low half (R10). -/
theorem writeReg64_high_keeps_low (h : s.Inv) (hb : base < 0x400000) (hg : base ≠ 0x20) :
    ((s.writeReg64 x base (BitVec.ofNat 64 (2 ^ 64 - 2 ^ 32)) v).reg (s.regKey base)).setWidth 32 =
      (s.reg (s.regKey base)).setWidth 32 := by
  unfold State.writeReg64
  split
  · rfl
  · refine BitVec.eq_of_getLsbD_eq fun j hj => ?_
    rw [BitVec.getLsbD_setWidth, BitVec.getLsbD_setWidth, writeFields_uncarried h (regKey_ne_gstatus hb hg) (by omega) (highMask_low hj)]

/-! ## Accesses of a 64-bit register (R10) -/

/-- The four bytes of a word spell it. -/
theorem leNat_word (w : Word) : leNat (leBytes 4 w.toNat) = w.toNat := by
  rw [leNat_leBytes]; exact Nat.mod_eq_of_lt w.isLt

section
variable (hf : findReg base = some (x, i)) (hw : x.wide = true) (hb : x.offAt i = base)
include hf hw hb

theorem read32_low : s.read32 base =
    (let t := s.setLatch base (some ((s.regValue x base).extractLsb' 32 32))
     if base = 0x43000 then t.setLatch 0x43008 (some (BitVec.ofNat 32 (s.rd TIM_FRAC_FRAC))) else t,
     (s.regValue x base).toNat % 2 ^ 32) := by
  obtain ⟨-, hm, -, -, -⟩ := wide_register hf hw hb
  simp [State.read32, hm, hf, hw, hb]

theorem read32_high_latched {h : Word} (hl : s.latchOf base = some h) :
    s.read32 (base + 4) = (s.setLatch base none, h.toNat) := by
  obtain ⟨-, -, hm, hf', -⟩ := wide_register hf hw hb
  simp [State.read32, hm, hf', hw, hb, hl]

theorem read32_high_empty (hl : s.latchOf base = none) :
    s.read32 (base + 4) = (s, (s.regValue x base).toNat / 2 ^ 32) := by
  obtain ⟨-, -, hm, hf', -⟩ := wide_register hf hw hb
  simp [State.read32, hm, hf', hw, hb, hl]

theorem write32_low (w : Word) : s.write32 base w.toNat = s.setHold base (some w) := by
  simp [State.write32, hf, hw, hb]

theorem write32_high_held (w : Word) {l : Word} (hh : s.holdOf base = some l) : s.write32 (base + 4) w.toNat =
    (s.setHold base none).writeReg64 x base (BitVec.ofNat 64 (2 ^ 64 - 1)) (BitVec.ofNat 64 (l.toNat + w.toNat * 2 ^ 32)) := by
  obtain ⟨-, -, -, hf', -⟩ := wide_register hf hw hb
  simp [State.write32, hf', hw, hb, hh, Nat.mod_eq_of_lt w.isLt]

theorem write32_high_alone (w : Word) (hh : s.holdOf base = none) : s.write32 (base + 4) w.toNat =
    s.writeReg64 x base (BitVec.ofNat 64 (2 ^ 64 - 2 ^ 32)) (BitVec.ofNat 64 (w.toNat * 2 ^ 32)) := by
  obtain ⟨-, -, -, hf', -⟩ := wide_register hf hw hb
  simp [State.write32, hf', hw, hb, hh, Nat.mod_eq_of_lt w.isLt]

theorem regRead_wide (ho : base < 0x400000) : s.regRead base = (s, leBytes 8 (s.regValue x base).toNat) := by
  obtain ⟨ha, -, -, -, -⟩ := wide_register hf hw hb
  simp [State.regRead, show base % 4 = 0 by omega, Nat.not_le.2 ho, hf, hw, hb]

theorem regWrite_wide (ho : base < 0x400000) (hl : bs.length = 8) :
    s.regWrite base bs = s.writeReg64 x base (BitVec.ofNat 64 (2 ^ 64 - 1)) (BitVec.ofNat 64 (leNat bs)) := by
  obtain ⟨ha, hm, -, -, -⟩ := wide_register hf hw hb
  simp [State.regWrite, hl, accessOk_doubleWord ha, Nat.not_le.2 ho, hm, hf, hw, hb]

end

/-- Settles O46: each access of a 64-bit register by its equation, and the bits that a write does not carry stay. -/
theorem latchAndHold : Obligations.LatchAndHold := by
  unfold Obligations.LatchAndHold
  intro s t x i base h v w bs hinv ho hf hw hb hv
  obtain ⟨ha, hm, hm', -, hg⟩ := wide_register hf hw hb
  have lowAligned : base % 4 = 0 := by omega
  have highAligned : (base + 4) % 4 = 0 := by omega
  have highWrite : exec (.reg64HighWrite (base + 4) v) s = .next (s.write32 (base + 4) v.toNat).settle := by
    rw [exec_reg64HighWrite, regWrite_word (by omega) highAligned hm' (leBytes_length _ _), leNat_word]
  subst hv
  refine ⟨fun ht => ?_, fun hl => ?_, fun hl => ?_, ?_, fun hh => ?_, fun hh ht => ⟨?_, ?_⟩, ?_, fun hl ht => ⟨?_, ?_, ?_⟩⟩
  · rw [exec_reg64LowRead_aligned lowAligned, read32_low hf hw hb, ht]
  · rw [exec_reg64HighRead_aligned highAligned, read32_high_latched hf hw hb hl]
  · rw [exec_reg64HighRead_aligned highAligned, read32_high_empty hf hw hb hl]
  · rw [exec_reg64LowWrite, regWrite_word ho lowAligned hm (leBytes_length _ _), leNat_word, write32_low hf hw hb]
  · rw [highWrite, write32_high_held hf hw hb v hh]
  · rw [highWrite, write32_high_alone hf hw hb v hh, ht]
  · rw [ht, writeReg64_high_keeps_low hinv ho hg]
  · rw [exec_rcRead, regRead_wide hf hw hb ho]
  · rw [exec_registerWrite, regWrite_wide hf hw hb ho hl, ht]
  · rw [ht, writeReg64_hif]
  · rw [ht, writeReg64_hif]

end Sys2Proof.Proofs
end

section
/-! The device address of a window access (R73, `spec/03_hive_interface.md`): the window's start and its bound. -/
namespace Sys2Proof.Proofs
open Sys2Proof Sys2Proof.Machine

/-- What a field reads fits the field's width. -/
theorem rd_lt (s : State) (f : Fld) : s.rd f < 2 ^ f.w :=
  BitVec.isLt _

/-- Rounding down to a multiple `k` of a divisor of `n` leaves a whole `k` below `n`. -/
theorem div_mul_add_le_of_dvd {b k n : Nat} (hd : k ∣ n) (hb : b < n) : b / k * k + k ≤ n := by
  have hlt : b / k * k + k < n + k := Nat.add_lt_add_right ((Nat.div_mul_le_self b k).trans_lt hb) k
  exact Nat.le_of_lt_add_of_dvd hlt (Nat.dvd_add (Nat.dvd_mul_left k _) (Nat.dvd_refl k)) hd

section
variable {s : State} (hlow : 28 ≤ s.hif.winLog2)
include hlow

/-- The window's size, as BASE counts it: a power of two times 2^28 bytes. -/
theorem winSize_eq : 2 ^ s.hif.winLog2 = 2 ^ (s.hif.winLog2 - 28) * 2 ^ 28 := by
  rw [← Nat.pow_add, Nat.sub_add_cancel hlow]

/-- A window access reaches `x` bytes above BASE with its bits below the window size cleared. -/
theorem winAddr_eq (x : Nat) : s.winAddr x =
    s.rd HIF_WIN_BASE_BASE / 2 ^ (s.hif.winLog2 - 28) * 2 ^ (s.hif.winLog2 - 28) * 2 ^ 28 + x := by
  rw [State.winAddr, winSize_eq hlow, Nat.mul_div_mul_right _ _ (Nat.two_pow_pos 28), ← Nat.mul_assoc]

/-- BASE covers the address bits [35:28], so no offset of a window of at most 2^36 bytes reaches beyond them. -/
theorem winAddr_lt {x : Nat} (hhigh : s.hif.winLog2 ≤ 36) (hx : x < 2 ^ s.hif.winLog2) : s.winAddr x < 2 ^ 36 := by
  have hfit := div_mul_add_le_of_dvd (Nat.pow_dvd_pow 2 (show s.hif.winLog2 - 28 ≤ 8 by omega)) (rd_lt s HIF_WIN_BASE_BASE)
  rw [winSize_eq hlow] at hx
  rw [winAddr_eq hlow]
  omega

end

/-- The window starts on a multiple of its own size. -/
theorem winAddr_sub_mod (s : State) (x : Nat) : (s.winAddr x - x) % 2 ^ s.hif.winLog2 = 0 := by
  simp [State.winAddr]

/-- Settles O49: the address by its equation, the start on a multiple of the size, and the bound that BASE's width gives. -/
theorem windowAddress : Obligations.WindowAddress := by
  unfold Obligations.WindowAddress
  intro s x hlow hhigh hx
  exact ⟨winAddr_eq hlow x, winAddr_sub_mod s x, Nat.le_of_lt_succ (winAddr_lt hlow hhigh hx)⟩

end Sys2Proof.Proofs
end

section
/-! The DRAM address map of `spec/12_memory_dies_dram_controller.md` (R286): its two regions, the interleaved one as a space of its own,
and the map back. -/
namespace Sys2Proof.Proofs
open Sys2Proof Sys2Proof.Machine

/-- The size of the interleaved part of one die's range (R286). -/
def shareBytes (s : State) : Nat := s.rd DMC_MAP_ISHARE * 2 ^ 30

/-- The die and offset of byte `l` of the interleaved space: 4 KiB granules go round the four dies (R286). -/
def interleavedPlace (s : State) (l : Nat) : Nat × Nat := (l / 4096 % 4, s.affineTop + l / 16384 * 4096 + l % 4096)

/-- The device address of byte `l` of the interleaved space, which is the top of each die's range (R286). -/
def interleavedAddr (s : State) (l : Nat) : Nat := l / shareBytes s * 2 ^ 34 + (s.affineTop + l % shareBytes s)

variable {s : State} {d e l o q : Nat}

/-! ## The two regions -/

theorem dieOffset_affine (hd : d < 4) (hq : q < s.affineTop) (hq' : q < 2 ^ 34) :
    s.dieOffset (d * 2 ^ 34 + q) = (d, q) := by
  have hmod : (d * 2 ^ 34 + q) % 2 ^ 34 = q := by omega
  have hdie : (d * 2 ^ 34 + q) / 2 ^ 34 % 4 = d := by omega
  simp only [State.dieOffset, hmod, hdie, if_pos hq]

theorem addrOf_affine (ho : o < s.affineTop) : s.addrOf e o = e * 2 ^ 34 + o := by
  simp only [State.addrOf, if_pos ho]

theorem dieOffset_interleaved (hd : d < 4) (hq : s.affineTop ≤ q) (hq' : q < 2 ^ 34) :
    s.dieOffset (d * 2 ^ 34 + q) = interleavedPlace s (d * shareBytes s + (q - s.affineTop)) := by
  have hmod : (d * 2 ^ 34 + q) % 2 ^ 34 = q := by omega
  have hdie : (d * 2 ^ 34 + q) / 2 ^ 34 % 4 = d := by omega
  simp only [State.dieOffset, hmod, hdie, if_neg (Nat.not_lt.2 hq)]
  rfl

theorem addrOf_interleaved (ho : s.affineTop ≤ o) :
    s.addrOf e o = interleavedAddr s ((o - s.affineTop) / 4096 * 16384 + e * 4096 + o % 4096) := by
  simp only [State.addrOf, if_neg (Nat.not_lt.2 ho), interleavedAddr, shareBytes, Nat.add_assoc]

/-! ## The interleaved space -/

/-- The boundary lies between two granules. -/
theorem affineTop_mod (s : State) : s.affineTop % 4096 = 0 := by
  unfold State.affineTop; omega

/-- The place of a byte names the byte: every offset of four granules stands for one group of the space. -/
theorem addrOf_interleavedPlace (s : State) (l : Nat) :
    s.addrOf (interleavedPlace s l).1 (interleavedPlace s l).2 = interleavedAddr s l := by
  have htop := affineTop_mod s
  have hjoin : (s.affineTop + l / 16384 * 4096 + l % 4096 - s.affineTop) / 4096 * 16384 + l / 4096 % 4 * 4096 +
      (s.affineTop + l / 16384 * 4096 + l % 4096) % 4096 = l := by omega
  rw [addrOf_interleaved (by unfold interleavedPlace; omega)]
  simp only [interleavedPlace, hjoin]

section
variable (hx : s.rd DMC_MAP_ISHARE ≤ 16)
include hx

/-- The two regions fill each die's 16 GiB. -/
theorem affineTop_add_shareBytes : s.affineTop + shareBytes s = 2 ^ 34 := by
  unfold State.affineTop shareBytes; omega

/-- The die's number and the byte within its share are the quotient and the rest. -/
theorem interleavedAddr_split (hq : s.affineTop ≤ q) (hq' : q < 2 ^ 34) :
    interleavedAddr s (d * shareBytes s + (q - s.affineTop)) = d * 2 ^ 34 + q := by
  have hsum := affineTop_add_shareBytes hx
  have hrest : q - s.affineTop < shareBytes s := by omega
  have hdiv : (d * shareBytes s + (q - s.affineTop)) / shareBytes s = d := by
    rw [Nat.mul_comm, Nat.mul_add_div (by omega), Nat.div_eq_of_lt hrest, Nat.add_zero]
  rw [interleavedAddr, hdiv, Nat.mul_add_mod_of_lt hrest]
  omega

theorem interleavedIndex_lt (hd : d < 4) (hq : s.affineTop ≤ q) (hq' : q < 2 ^ 34) :
    d * shareBytes s + (q - s.affineTop) < 4 * shareBytes s := by
  have hsum := affineTop_add_shareBytes hx
  have hle : d * shareBytes s ≤ 3 * shareBytes s := Nat.mul_le_mul_right _ (by omega)
  omega

/-- Every byte of the interleaved space lies in the interleaved part of a die's range. -/
theorem dieOffset_interleavedAddr (hl : l < 4 * shareBytes s) : s.dieOffset (interleavedAddr s l) = interleavedPlace s l := by
  have hsum := affineTop_add_shareBytes hx
  have hrest : l % shareBytes s < shareBytes s := Nat.mod_lt l (by omega)
  have hdie : l / shareBytes s < 4 := Nat.div_lt_of_lt_mul (by omega)
  rw [interleavedAddr, dieOffset_interleaved hdie (Nat.le_add_right _ _) (by omega), Nat.add_sub_cancel_left, Nat.div_add_mod']

theorem interleavedAddr_lt (hl : l < 4 * shareBytes s) : interleavedAddr s l < 2 ^ 36 := by
  have hsum := affineTop_add_shareBytes hx
  have hrest : l % shareBytes s < shareBytes s := Nat.mod_lt l (by omega)
  have hdie : l / shareBytes s < 4 := Nat.div_lt_of_lt_mul (by omega)
  unfold interleavedAddr
  omega

theorem interleavedPlace_lt (hl : l < 4 * shareBytes s) : (interleavedPlace s l).1 < 4 ∧ (interleavedPlace s l).2 < 2 ^ 34 := by
  have hsum := affineTop_add_shareBytes hx
  have htop := affineTop_mod s
  simp only [interleavedPlace]
  omega

/-- Every place of the interleaved parts is that of a byte of the space. -/
theorem exists_interleavedPlace (he : e < 4) (ho : s.affineTop ≤ o) (ho' : o < 2 ^ 34) :
    ∃ l < 4 * shareBytes s, interleavedPlace s l = (e, o) := by
  have hsum := affineTop_add_shareBytes hx
  have htop := affineTop_mod s
  refine ⟨(o - s.affineTop) / 4096 * 16384 + e * 4096 + o % 4096, by omega, Prod.ext ?_ ?_⟩ <;> simp only [interleavedPlace] <;> omega

/-! ## One to one and onto -/

theorem dieOffset_lt (hd : d < 4) (hq : q < 2 ^ 34) :
    (s.dieOffset (d * 2 ^ 34 + q)).1 < 4 ∧ (s.dieOffset (d * 2 ^ 34 + q)).2 < 2 ^ 34 := by
  rcases Nat.lt_or_ge q s.affineTop with haff | hint
  · rw [dieOffset_affine hd haff hq]
    exact ⟨hd, hq⟩
  · rw [dieOffset_interleaved hd hint hq]
    exact interleavedPlace_lt hx (interleavedIndex_lt hx hd hint hq)

theorem addrOf_dieOffset (hd : d < 4) (hq : q < 2 ^ 34) :
    s.addrOf (s.dieOffset (d * 2 ^ 34 + q)).1 (s.dieOffset (d * 2 ^ 34 + q)).2 = d * 2 ^ 34 + q := by
  rcases Nat.lt_or_ge q s.affineTop with haff | hint
  · rw [dieOffset_affine hd haff hq, addrOf_affine haff]
  · rw [dieOffset_interleaved hd hint hq, addrOf_interleavedPlace, interleavedAddr_split hx hint hq]

theorem dieOffset_addrOf (he : e < 4) (ho : o < 2 ^ 34) : s.dieOffset (s.addrOf e o) = (e, o) ∧ s.addrOf e o < 2 ^ 36 := by
  rcases Nat.lt_or_ge o s.affineTop with haff | hint
  · rw [addrOf_affine haff]
    exact ⟨dieOffset_affine he haff ho, by omega⟩
  · obtain ⟨l, hl, hplace⟩ := exists_interleavedPlace hx he hint ho
    have haddr : s.addrOf e o = interleavedAddr s l := by
      rw [← addrOf_interleavedPlace, hplace]
    rw [haddr, dieOffset_interleavedAddr hx hl]
    exact ⟨hplace, interleavedAddr_lt hx hl⟩

end

/-- The place of a byte by the bits of its index, as R286 writes it; the space has no more than 2^36 bytes. -/
theorem interleavedPlace_bits (hl : l < 2 ^ 36) :
    interleavedPlace s l = (bitsOf l 12 2, s.affineTop + bitsOf l 14 22 * 4096 + bitsOf l 0 12) := by
  refine Prod.ext ?_ ?_ <;> simp only [interleavedPlace, bitsOf] <;> omega

/-- Settles O50: each region by its equation, and the two round trips, through the interleaved space where the address lies in it. -/
theorem dramMap : Obligations.DramMap := by
  unfold Obligations.DramMap
  intro s a d q x b l ha hshare hx hb hd hq hl
  subst hshare
  have htop : s.affineTop = b := hb.symm
  have hsplit : a = d * 2 ^ 34 + q := by omega
  have hd4 : d < 4 := by omega
  have hq' : q < 2 ^ 34 := by omega
  have hindex : l = d * shareBytes s + (q - s.affineTop) := by rw [hl, htop, shareBytes, Nat.mul_assoc]
  rw [hsplit, ← htop]
  refine ⟨fun haff => dieOffset_affine hd4 haff hq', fun hint => ?_, (dieOffset_lt hx hd4 hq').1, (dieOffset_lt hx hd4 hq').2,
    addrOf_dieOffset hx hd4 hq', fun e o he ho => dieOffset_addrOf hx he ho⟩
  have hspace : l < 4 * shareBytes s := hindex ▸ interleavedIndex_lt hx hd4 hint hq'
  have hsum := affineTop_add_shareBytes hx
  rw [dieOffset_interleaved hd4 hint hq', ← hindex, interleavedPlace_bits (by omega)]

end Sys2Proof.Proofs
end

section
/-! What MEM_ALLOC's object is given (R290, `spec/12_memory_dies_dram_controller.md`): zeroed memory without poison, off every range in
use, and its colony's partition. -/
namespace Sys2Proof.Proofs
open Sys2Proof Sys2Proof.Machine Sys2Proof.Laws

variable {s : State} {a b base m n w : Nat} {req : List Byte}

/-! ## Tables, whether or not they are in canonical form -/

/-- An entry that a table lists is found again, also where its keys do not rise. -/
theorem tget_tset_listed {α : Type} [DecidableEq α] {d v : α} {t : Table α} {k : Nat} (hv : v ≠ d) :
    tget d (tset d t k v) k = v := by
  induction t with
  | nil => simp [tset, hv, tget]
  | cons e r ih =>
    obtain ⟨k', w⟩ := e
    rcases Nat.lt_trichotomy k k' with hk | rfl | hk
    · simp [tset, hk, hv, tget]
    · simp [tset, hv, tget]
    · simp [tset, Nat.lt_asymm hk, Nat.ne_of_gt hk, tget, Nat.ne_of_lt hk, ih]

/-- A filter by the key alone leaves what the kept keys hold, and `d` at the others. -/
theorem tget_filter {α : Type} {d : α} (p : Nat → Bool) (t : Table α) (k : Nat) :
    tget d (t.filter fun e => p e.1) k = if p k then tget d t k else d := by
  induction t with
  | nil => simp [tget]
  | cons e r ih =>
    obtain ⟨k', w⟩ := e
    by_cases hk : k' = k
    · subst hk
      by_cases hp : p k' <;> simp [hp, tget, ih]
    · by_cases hp : p k' <;> simp [hp, tget, hk, ih]

/-! ## A stretch of zeros -/

theorem memGet_zeroRange : memGet (s.zeroRange a n).dram b = if a ≤ b ∧ b < a + n then 0 else memGet s.dram b := by
  rw [memGet, State.zeroRange, tget_filter (fun k => !decide (a ≤ k ∧ k < a + n))]
  by_cases hb : a ≤ b ∧ b < a + n <;> simp [hb, memGet]

theorem isPoisoned_zeroRange : (s.zeroRange a n).isPoisoned w = (s.isPoisoned w && !decide (a ≤ w * 64 ∧ w * 64 < a + n)) := by
  simp only [State.isPoisoned, State.zeroRange, List.contains_eq_mem, List.mem_filter, Bool.decide_and, Bool.decide_eq_true]

/-- No word of a zeroed stretch that starts with a word is poisoned. -/
theorem isPoisoned_zeroRange_inside (ha : a % 64 = 0) (hab : a ≤ b) (hb : b < a + n) :
    (s.zeroRange a n).isPoisoned (b / 64) = false := by
  rw [isPoisoned_zeroRange, decide_eq_true (by omega : a ≤ b / 64 * 64 ∧ b / 64 * 64 < a + n), Bool.not_true, Bool.and_false]

/-! ## Fields and mailbox states -/

/-- A field of a register reads back what it was set to, cut to its width. -/
theorem getBits_setBits {v : Word64} {lo w x : Nat} (hw : lo + w ≤ 64) : getBits (setBits v lo w x) lo w = x % 2 ^ w := by
  have hbits : (setBits v lo w x).extractLsb' lo w = BitVec.ofNat w x := by
    refine BitVec.eq_of_getLsbD_eq fun i hi => ?_
    simp only [setBits, bitMask, BitVec.getLsbD_extractLsb', BitVec.getLsbD_or, BitVec.getLsbD_and, BitVec.getLsbD_not,
      BitVec.getLsbD_shiftLeft, BitVec.getLsbD_ofNat, Nat.testBit_two_pow_sub_one, Nat.testBit_mod_two_pow, Nat.add_sub_cancel_left]
    simp [hi, show lo + i < 64 by omega, show i < 64 by omega]
  rw [getBits, hbits, BitVec.toNat_ofNat]

theorem rd_wr_same {f : Fld} {x : Nat} (h : s.Inv) (hw : f.lo + f.w ≤ 64) : (s.wr f x).rd f = x % 2 ^ f.w := by
  rw [State.rd, State.wr, reg_setReg_same h, getBits_setBits hw]

/-- What a mailbox's DONE leaves of memory and objects; of the registers it writes STATE alone. -/
theorem mbxDone_frame (s : State) (m : Nat) (rsp : List Byte) :
    (s.mbxDone m rsp).regs = (s.wr (MBX_STAT_STATE.idx m) 2).regs ∧ (s.mbxDone m rsp).dram = s.dram ∧
      (s.mbxDone m rsp).poison = s.poison ∧ (s.mbxDone m rsp).objs = s.objs := by
  simp only [State.mbxDone]
  split
  · exact ⟨rfl, rfl, rfl, rfl⟩
  · exact ⟨msix_regs _ m, msix_dram _ m, msix_poison _ m, msix_objs _ m⟩

theorem answer_frame (s : State) (m cmd : Nat) (x : Answer) :
    (s.answer m cmd x).dram = s.dram ∧ (s.answer m cmd x).poison = s.poison ∧ (s.answer m cmd x).objs = s.objs :=
  (mbxDone_frame _ m _).2

/-- An answer brings its mailbox to DONE. -/
theorem answer_mbxState {cmd : Nat} {x : Answer} (h : s.Inv) : (s.answer m cmd x).mbxState m = 2 := by
  have hregs : (s.answer m cmd x).regs = (s.wr (MBX_STAT_STATE.idx m) 2).regs := (mbxDone_frame _ m _).1
  have hwritten : (s.wr (MBX_STAT_STATE.idx m) 2).rd (MBX_STAT_STATE.idx m) = 2 := rd_wr_same h (by decide : 0 + 2 ≤ 64)
  rwa [State.mbxState, State.rd, State.reg, hregs]

/-! ## The place of a new object (R288, R289) -/

/-- A list of checks that fails nowhere holds throughout, where each failure has a status of its own. -/
theorem firstStatus_eq_zero {l : List (Bool × Nat)} (hl : ∀ c ∈ l, c.2 ≠ 0) (h : firstStatus l = 0) : ∀ c ∈ l, c.1 = true := by
  induction l with
  | nil => exact fun _ hc => absurd hc List.not_mem_nil
  | cons c l ih =>
    obtain ⟨ok, st⟩ := c
    obtain ⟨hst, htail⟩ := List.forall_mem_cons.1 hl
    cases ok with
    | true => exact List.forall_mem_cons.2 ⟨rfl, ih htail h⟩
    | false => exact absurd h hst

theorem memAllocCheck_passed (h : s.memAllocCheck base req = 0) :
    12 ≤ bitsOf (field req 25 1) 0 5 ∧ (s.allocAt base req).isSome = true := by
  have hall := firstStatus_eq_zero (by simp [E_LEN, E_RESERVED, E_HANDLE, E_RANGE, E_NORES, E_BUSY]) h
  have halign := hall (decide (12 ≤ bitsOf (field req 25 1) 0 5 ∧ bitsOf (field req 25 1) 0 5 ≤ 30), E_RANGE) (by simp)
  exact ⟨(of_decide_eq_true halign).1, hall ((s.allocAt base req).isSome, E_BUSY) (by simp)⟩

theorem findPlace_ok {ws : List (Nat × Nat × Nat)} {used : List (Nat × Nat)} {al : Nat} (h : findPlace ws used al n = some a) :
    placeOk ws used al n a = true := by
  revert a
  unfold findPlace
  extract_lets cands
  refine List.foldlRecOn (cands.filter (placeOk ws used al n)) _ (motive := fun b => ∀ {a}, b = some a → placeOk ws used al n a = true)
    (by simp) fun b hb c hc a ha => ?_
  have hcand := (List.mem_filter.1 hc).2
  cases b with
  | none => exact Option.some.inj ha ▸ hcand
  | some x =>
    rw [← Option.some.inj ha]
    rcases min_choice x c with hmin | hmin <;> rw [hmin]
    · exact hb rfl
    · exact hcand

theorem allocAt_ok (h : s.allocAt base req = some a) :
    placeOk (s.allocWindows req) (s.usedRanges true) (allocAlign req) (field req 16 4 * 4096) a = true := by
  simp only [State.allocAt] at h
  split at h
  case isTrue hbase => exact Option.some.inj h ▸ hbase
  case isFalse => exact findPlace_ok h

/-- A place that is taken is aligned and meets no used range. -/
theorem placeOk_free {ws : List (Nat × Nat × Nat)} {used : List (Nat × Nat)} {al : Nat} (h : placeOk ws used al n a = true) :
    a % al = 0 ∧ ∀ u ∈ used, meets a n u.1 u.2 = false := by
  simp only [placeOk, Bool.and_eq_true, beq_iff_eq, Bool.not_eq_true', List.any_eq_false, Bool.not_eq_true] at h
  exact ⟨h.1.1, h.2⟩

/-! ## MEM_ALLOC -/

theorem exec_memAlloc (hs : s.serving m 0x0100) (hc : s.memAllocCheck base (s.request m) = 0) : exec (.memAlloc m base) s =
    .next ((s.memAlloc base (s.request m)).answer m 0x0100 { payload := leBytes 4 (s.handle 1 (s.freeObj.getD 0)) }) := by
  show Host.Outcome.next (s.serve m 0x0100 _) = _
  rw [serve_serving hs]
  simp [hc]

theorem memAlloc_memory (s : State) (base : Nat) (req : List Byte) :
    (s.memAlloc base req).dram = (s.zeroRange (s.allocObj base req).addr (s.allocObj base req).size).dram ∧
      (s.memAlloc base req).poison = (s.zeroRange (s.allocObj base req).addr (s.allocObj base req).size).poison ∧
      (s.memAlloc base req).objs = tset {} s.objs (s.freeObj.getD 0) (s.allocObj base req) := by
  simp only [State.memAlloc]
  split <;> exact ⟨rfl, rfl, rfl⟩

theorem memAlloc_inv (h : s.Inv) : (s.memAlloc base req).Inv :=
  (memAlloc_kept (k := ⟨true, s.pending, s.tclk, s.free⟩) ⟨fun _ => h, rfl, le_rfl, le_rfl⟩).1 rfl

/-- The object of a request that passes its checks starts with a word and meets no range in use. -/
theorem allocObj_free (h : s.memAllocCheck base req = 0) : (s.allocObj base req).addr % 64 = 0 ∧
    ∀ u ∈ s.usedRanges true, meets (s.allocObj base req).addr (s.allocObj base req).size u.1 u.2 = false := by
  obtain ⟨halign, hsome⟩ := memAllocCheck_passed h
  obtain ⟨a, ha⟩ := Option.isSome_iff_exists.1 hsome
  have haddr : (s.allocObj base req).addr = a := by simp [State.allocObj, ha]
  obtain ⟨hmod, hfree⟩ := placeOk_free (allocAt_ok ha)
  have hdvd : 64 ∣ allocAlign req := Nat.pow_dvd_pow 2 (show 6 ≤ bitsOf (field req 25 1) 0 5 by omega)
  rw [haddr]
  exact ⟨Nat.mod_eq_zero_of_dvd (hdvd.trans (Nat.dvd_of_mod_eq_zero hmod)), hfree⟩

theorem mem_usedRanges_of_clearing {c : Nat × Nat} (h : c ∈ s.mem.clearing) : c ∈ s.usedRanges true :=
  List.mem_append_right _ h

theorem mem_usedRanges_of_ranges {r : PRange} (h : r ∈ s.mem.ranges) : (r.base, r.size) ∈ s.usedRanges true :=
  List.mem_append_left _ (List.mem_map_of_mem (List.mem_append_left _ h))

/-- The index of the new object names it. -/
theorem memAlloc_obj {cmd : Nat} {x : Answer} :
    ((s.memAlloc base req).answer m cmd x).obj (s.freeObj.getD 0) = some (s.allocObj base req) := by
  have hlisted : tget {} (tset {} s.objs (s.freeObj.getD 0) (s.allocObj base req)) (s.freeObj.getD 0) = s.allocObj base req :=
    tget_tset_listed (by simp [State.allocObj])
  obtain ⟨-, -, hobjs⟩ := memAlloc_memory s base req
  obtain ⟨-, -, hkept⟩ := answer_frame (s.memAlloc base req) m cmd x
  rw [State.obj, hkept, hobjs, hlisted]
  rfl

/-- Settles O51: the object's range is zeroed as a whole, it starts on a word, and its place is off the ranges in use. -/
theorem memAllocZeroes : Obligations.MemAllocZeroes := by
  unfold Obligations.MemAllocZeroes
  intro s m base hs hc
  obtain ⟨hword, hfree⟩ := allocObj_free hc
  obtain ⟨hdram, hpoison, -⟩ := memAlloc_memory s base (s.request m)
  obtain ⟨hdram', hpoison', -⟩ := answer_frame (s.memAlloc base (s.request m)) m 0x0100
    { payload := leBytes 4 (s.handle 1 (s.freeObj.getD 0)) }
  refine ⟨_, s.allocObj base (s.request m), exec_memAlloc hs hc, fun h => answer_mbxState (memAlloc_inv h), memAlloc_obj,
    Nat.mul_comm _ _, fun a hlo hhi => ⟨?zero, ?unpoisoned⟩, fun a hout => ?outside,
    fun c h => hfree c (mem_usedRanges_of_clearing h), fun r h => hfree _ (mem_usedRanges_of_ranges h),
    fun c h => congrArg (·.getD 16) h, fun h => congrArg (·.getD 16) h⟩
  case zero => rw [hdram', hdram, memGet_zeroRange, if_pos ⟨hlo, hhi⟩]
  case unpoisoned =>
    rw [State.isPoisoned, hpoison', hpoison]
    exact isPoisoned_zeroRange_inside hword hlo hhi
  case outside => rw [hdram', hdram, memGet_zeroRange, if_neg (by omega)]

end Sys2Proof.Proofs
end

section
/-! Every command keeps the invariant, the queue, the clock and the count of free values drawn: the cases of `exec`, each by the
`Kept` lemma of its meaning (`Laws/Kept*`). -/
namespace Sys2Proof.Proofs
open Sys2Proof Sys2Proof.Machine Sys2Proof.Laws

/-- Every command keeps what `Kept` speaks of. -/
theorem exec_kept {k : Keep} {s : State} (c : Instr) (h : s.Kept k) : OutKept k (exec c s) := by
  cases c with
  | powerOn => exact execPowerOn_kept h
  | perst => exact execPerst_kept h
  | hotReset => exact execHotReset_kept h
  | functionLevelReset => exact execFunctionLevelReset_kept h
  | islandBPowerOn => exact execIslandBPowerOn_kept h
  | sysPwrokLoss => exact execSysPwrokLoss_kept h
  | firmwareVerified => exact execFirmwareVerified_kept h
  | mailboxReady => exact execMailboxReady_kept h
  | memoryTrainingDone => exact execMemoryTrainingDone_kept h
  | shortRetrainDone => exact execShortRetrainDone_kept h
  | combRelease => exact execCombRelease_kept h
  | islandBReady => exact execIslandBReady_kept h
  | waggleHello => exact execWaggleHello_kept h
  | waggleIdent => exact execWaggleIdent_kept h
  | waggleOffer => exact execWaggleOffer_kept h
  | waggleSelect => exact execWaggleSelect_kept h
  | waggleConfirm => exact execWaggleConfirm_kept h
  | mainbandTrainingDone => exact execMainbandTrainingDone_kept h
  | waggleTrained => exact execWaggleTrained_kept h
  | waggleDone => exact execWaggleDone_kept h
  | waggleReject => exact execWaggleReject_kept h
  | waggleNak => exact execWaggleNak_kept h
  | waggleReplyTimeout => exact execWaggleReplyTimeout_kept h
  | waggleDoneTimeout => exact execWaggleDoneTimeout_kept h
  | ringLinkTimeout => exact execRingLinkTimeout_kept h
  | linkUncorrectableError => exact execLinkUncorrectableError_kept h
  | linkRetrainDone => exact execLinkRetrainDone_kept h
  | linkRetrainTimeout => exact execLinkRetrainTimeout_kept h
  | ruradPllLockLoss => exact execRuradPllLockLoss_kept h
  | ruradLockLossConfirm => exact execRuradLockLossConfirm_kept h
  | eztosPllLockLoss => exact execEztosPllLockLoss_kept h
  | referenceLoss => exact execReferenceLoss_kept h
  | heartbeatSend => exact execHeartbeatSend_kept h
  | heartbeatReceive => exact execHeartbeatReceive_kept h
  | heartbeatMissing => exact execHeartbeatMissing_kept h
  | hifHeartbeatTick => exact execHifHeartbeatTick_kept h
  | avsMonitor => exact execAvsMonitor_kept h
  | avsStep => exact execAvsStep_kept h
  | avsbusNoAck => exact execAvsbusNoAck_kept h
  | combClockGate => exact execCombClockGate_kept h
  | dieStandbyEnter => exact execDieStandbyEnter_kept h
  | dieStandbyExitDone => exact execDieStandbyExitDone_kept h
  | d3hotEntry => exact execD3hotEntry_kept h
  | d0Entry => exact execD0Entry_kept h
  | rampEstimate => exact execRampEstimate_kept h
  | windowRead => exact execWindowRead_kept h
  | windowWrite => exact execWindowWrite_kept h
  | registerWrite => exact execRegisterWrite_kept h
  | rcRead => exact execRcRead_kept h
  | reg64LowRead => exact execReg64LowRead_kept h
  | reg64HighRead => exact execReg64HighRead_kept h
  | reg64LowWrite => exact execReg64LowWrite_kept h
  | reg64HighWrite => exact execReg64HighWrite_kept h
  | invalidRegisterAccess => exact execInvalidRegisterAccess_kept h
  | mbxReqWrite => exact execMbxReqWrite_kept h
  | mbxDoorbellRefused => exact execMbxDoorbellRefused_kept h
  | mbxAck => exact execMbxAck_kept h
  | mbxCancel => exact execMbxCancel_kept h
  | hello => exact execHello_kept h
  | getInfo => exact execGetInfo_kept h
  | memAlloc => exact execMemAlloc_kept h
  | memFree => exact execMemFree_kept h
  | memoryClearDone => exact execMemoryClearDone_kept h
  | memInfo => exact execMemInfo_kept h
  | colonyCreate => exact execColonyCreate_kept h
  | colonyReservationComplete => exact execColonyReservationComplete_kept h
  | colonyDestroy => exact execColonyDestroy_kept h
  | queueCreate => exact execQueueCreate_kept h
  | queueDestroy => exact execQueueDestroy_kept h
  | queueDestroyDone => exact execQueueDestroyDone_kept h
  | funcReinit => exact execFuncReinit_kept h
  | powerPolicy => exact execPowerPolicy_kept h
  | safetyTestInjection => exact execSafetyTestInjection_kept h
  | safetyTestVote => exact execSafetyTestVote_kept h
  | ledgerRead => exact execLedgerRead_kept h
  | logRead => exact execLogRead_kept h
  | logReadDone => exact execLogReadDone_kept h
  | fwSlotWrite => exact execFwSlotWrite_kept h
  | fwSlotWriteDone => exact execFwSlotWriteDone_kept h
  | fwRollbackAdvance => exact execFwRollbackAdvance_kept h
  | fwRollbackAdvanceDone => exact execFwRollbackAdvanceDone_kept h
  | msixUnmask => exact execMsixUnmask_kept h
  | fwFatal => exact execFwFatal_kept h
  | evtEnable => exact execEvtEnable_kept h
  | evtTailWrite => exact execEvtTailWrite_kept h
  | eventRingWrite => exact execEventRingWrite_kept h
  | eventCoalesceExpiry => exact execEventCoalesceExpiry_kept h
  | queueDoorbell => exact execQueueDoorbell_kept h
  | queueResume => exact execQueueResume_kept h
  | queueFlush => exact execQueueFlush_kept h
  | cqtailWrite => exact execCqtailWrite_kept h
  | recordStart => exact execRecordStart_kept h
  | nop => exact execNop_kept h
  | signal => exact execSignal_kept h
  | wait => exact execWait_kept h
  | waitRelease => exact execWaitRelease_kept h
  | waitTimeout => exact execWaitTimeout_kept h
  | timestamp => exact execTimestamp_kept h
  | fgCopy => exact execFgCopy_kept h
  | fgFill => exact execFgFill_kept h
  | foragerRecordDone => exact execForagerRecordDone_kept h
  | foragerBudgetExpiry => exact execForagerBudgetExpiry_kept h
  | jobRun => exact execJobRun_kept h
  | jobAssign => exact execJobAssign_kept h
  | jobStart => exact execJobStart_kept h
  | jobEnd => exact execJobEnd_kept h
  | jobSaveDone => exact execJobSaveDone_kept h
  | jobBudgetExpiry => exact execJobBudgetExpiry_kept h
  | jobRelease => exact execJobRelease_kept h
  | beAgeingExpiry => exact execBeAgeingExpiry_kept h
  | bundleIssue => exact execBundleIssue_kept h
  | slotwaitExpiry => exact execSlotwaitExpiry_kept h
  | foragerSlotAdmit => exact execForagerSlotAdmit_kept h
  | foragerSlotwaitExpiry => exact execForagerSlotwaitExpiry_kept h
  | foragerTransferDone => exact execForagerTransferDone_kept h
  | allocatorServe => exact execAllocatorServe_kept h
  | spFill => exact execSpFill_kept h
  | spCopy => exact execSpCopy_kept h
  | cacheWb => exact execCacheWb_kept h
  | cacheInv => exact execCacheInv_kept h
  | cacheWbinv => exact execCacheWbinv_kept h
  | scratchpadOpDone => exact execScratchpadOpDone_kept h
  | cacheFillDone => exact execCacheFillDone_kept h
  | scratchpadEccWriteback => exact execScratchpadEccWriteback_kept h
  | combDebugHalt => exact execCombDebugHalt_kept h
  | combDebugRelease => exact execCombDebugRelease_kept h
  | combDebugStep => exact execCombDebugStep_kept h
  | combClearCounters => exact execCombClearCounters_kept h
  | scratchpadDebugRead => exact execScratchpadDebugRead_kept h
  | scratchpadDebugReadDone => exact execScratchpadDebugReadDone_kept h
  | seqJoin => exact execSeqJoin_kept h
  | seqFinish => exact execSeqFinish_kept h
  | seqCtlPin => exact execSeqCtlPin_kept h
  | seqCtlUnpin => exact execSeqCtlUnpin_kept h
  | seqCtlHold => exact execSeqCtlHold_kept h
  | seqCtlRelease => exact execSeqCtlRelease_kept h
  | seqCtlResume => exact execSeqCtlResume_kept h
  | stepRun => exact execStepRun_kept h
  | stepBuildDone => exact execStepBuildDone_kept h
  | dramRequest => exact execDramRequest_kept h
  | dramChannelIssue => exact execDramChannelIssue_kept h
  | refreshDue => exact execRefreshDue_kept h
  | mimiderSensorRead => exact execMimiderSensorRead_kept h
  | rowIdleClose => exact execRowIdleClose_kept h
  | commandParityFailure => exact execCommandParityFailure_kept h
  | patrolScrub => exact execPatrolScrub_kept h
  | csiPacket => exact execCsiPacket_kept h
  | csiStopState => exact execCsiStopState_kept h
  | ethFrameReceive => exact execEthFrameReceive_kept h
  | ethLinkUp => exact execEthLinkUp_kept h
  | ethLinkDown => exact execEthLinkDown_kept h
  | portDetach => exact execPortDetach_kept h
  | canMessageReceive => exact execCanMessageReceive_kept h
  | canFrameSent => exact execCanFrameSent_kept h
  | isobusClaimSettled => exact execIsobusClaimSettled_kept h
  | spiTransfer n cs dur data => exact (execSpiTransfer_kept h : OutKept k (execSpiTransfer n cs dur data s))
  | spiDataReady => exact execSpiDataReady_kept h
  | gpioEdge => exact execGpioEdge_kept h
  | ppsEdge => exact execPpsEdge_kept h
  | ppsMissing => exact execPpsMissing_kept h
  | gnssUartByte => exact execGnssUartByte_kept h
  | registryRead => exact execRegistryRead_kept h
  | registryBind => exact execRegistryBind_kept h
  | registryUnbind => exact execRegistryUnbind_kept h
  | syncMessage => exact execSyncMessage_kept h
  | syncTimeout => exact execSyncTimeout_kept h
  | holdoverExpiry => exact execHoldoverExpiry_kept h
  | syncTransmit => exact execSyncTransmit_kept h
  | timCfgWrite => exact execTimCfgWrite_kept h
  | lidarPacket => exact execLidarPacket_kept h
  | cameraFrame => exact execCameraFrame_kept h
  | instantClose => exact execInstantClose_kept h
  | fusionOutputDone => exact execFusionOutputDone_kept h
  | fuseCollect => exact execFuseCollect_kept h
  | fuseConfig => exact execFuseConfig_kept h
  | calibLoad => exact execCalibLoad_kept h
  | calibRemove => exact execCalibRemove_kept h
  | plan => exact execPlan_kept h
  | planStart => exact execPlanStart_kept h
  | planSearchEnd => exact execPlanSearchEnd_kept h
  | planOutputDone => exact execPlanOutputDone_kept h
  | occLoad => exact execOccLoad_kept h
  | occLoadDone => exact execOccLoadDone_kept h
  | libLoad => exact execLibLoad_kept h
  | libLoadDone => exact execLibLoadDone_kept h
  | loopSet => exact execLoopSet_kept h
  | loopEnable => exact execLoopEnable_kept h
  | loopDisable => exact execLoopDisable_kept h
  | loopResetI => exact execLoopResetI_kept h
  | trajLoad => exact execTrajLoad_kept h
  | loopPeriodTrigger => exact execLoopPeriodTrigger_kept h
  | loopEvaluation => exact execLoopEvaluation_kept h
  | cvConfig => exact execCvConfig_kept h
  | cvRun => exact execCvRun_kept h
  | cvRunDone => exact execCvRunDone_kept h
  | cvSave => exact execCvSave_kept h
  | cvRestore => exact execCvRestore_kept h
  | cvChanVerify => exact execCvChanVerify_kept h
  | cvChanOff => exact execCvChanOff_kept h
  | joinHello => exact execJoinHello_kept h
  | joinResp => exact execJoinResp_kept h
  | joinConfirm => exact execJoinConfirm_kept h
  | joinDone => exact execJoinDone_kept h
  | joinHelloRetry => exact execJoinHelloRetry_kept h
  | joinTimeout => exact execJoinTimeout_kept h
  | islandFaultMessage => exact execIslandFaultMessage_kept h
  | compareMismatch => exact execCompareMismatch_kept h
  | islandMemoryUe => exact execIslandMemoryUe_kept h
  | islandMemoryScrub => exact execIslandMemoryScrub_kept h
  | comparatorTestRun => exact execComparatorTestRun_kept h
  | cmpTestOverdue => exact execCmpTestOverdue_kept h
  | debugEnable => exact execDebugEnable_kept h
  | debugHalt => exact execDebugHalt_kept h
  | debugResume => exact execDebugResume_kept h
  | debugSingleStep => exact execDebugSingleStep_kept h
  | debugBreakpointSet => exact execDebugBreakpointSet_kept h
  | debugRegisterRead => exact execDebugRegisterRead_kept h
  | debugRegisterWrite => exact execDebugRegisterWrite_kept h
  | debugMemoryRead => exact execDebugMemoryRead_kept h
  | debugMemoryWrite => exact execDebugMemoryWrite_kept h
  | configVoteScrub => exact execConfigVoteScrub_kept h
  | configRecordWrite => exact execConfigRecordWrite_kept h
  | configRecordWriteDone => exact execConfigRecordWriteDone_kept h
  | configRecordRead => exact execConfigRecordRead_kept h
  | guardExpiry => exact execGuardExpiry_kept h
  | deadlineMiss => exact execDeadlineMiss_kept h
  | checkerSummaryCopy => exact execCheckerSummaryCopy_kept h
  | checkerLagExpiry => exact execCheckerLagExpiry_kept h
  | functionRestartResume => exact execFunctionRestartResume_kept h
  | restartOverrun => exact execRestartOverrun_kept h
  | stopFrameRepeat => exact execStopFrameRepeat_kept h
  | sensorSample => exact execSensorSample_kept h
  | uathalSensorReport => exact execUathalSensorReport_kept h
  | thermalForecast => exact execThermalForecast_kept h
  | dutyReview => exact execDutyReview_kept h
  | sustainedWindow => exact execSustainedWindow_kept h
  | rthWindow => exact execRthWindow_kept h
  | coolantStale => exact execCoolantStale_kept h
  | coolantWrite => exact execCoolantWrite_kept h
  | thermalLimitsWrite => exact execThermalLimitsWrite_kept h
  | thermalCtlWrite => exact execThermalCtlWrite_kept h
  | swarmPortEnable => exact execSwarmPortEnable_kept h
  | swarmPortDisable => exact execSwarmPortDisable_kept h
  | swarmIdWrite => exact execSwarmIdWrite_kept h
  | swarmTrainingDone => exact execSwarmTrainingDone_kept h
  | swarmHello => exact execSwarmHello_kept h
  | swarmDone => exact execSwarmDone_kept h
  | swarmReject => exact execSwarmReject_kept h
  | swarmRequestFlit => exact execSwarmRequestFlit_kept h
  | swarmResponseFlit => exact execSwarmResponseFlit_kept h
  | swarmAckFlit => exact execSwarmAckFlit_kept h
  | swarmAdvertisement => exact execSwarmAdvertisement_kept h
  | swarmAdvertiseTimer => exact execSwarmAdvertiseTimer_kept h
  | swarmRetrainDone => exact execSwarmRetrainDone_kept h
  | swarmRetrainTimeout => exact execSwarmRetrainTimeout_kept h
  | swarmSilence => exact execSwarmSilence_kept h
  | swarmCopy => exact execSwarmCopy_kept h
  | swarmSignal => exact execSwarmSignal_kept h
  | swarmExportEnable => exact execSwarmExportEnable_kept h
  | bwrClear => exact execBwrClear_kept h
  | imaskWrite => exact execImaskWrite_kept h
  | aerError => exact execAerError_kept h
  | perstDeassert => exact execPerstDeassert_kept h
  | pwmPeriodStart => exact execPwmPeriodStart_kept h
  | vddSfdLoss => exact execVddSfdLoss_kept h

/-- Settles O41: the command at the front by `exec_kept`, a tick of an empty queue by `elapse_kept`. -/
theorem stepKeepsInv : Obligations.StepKeepsInv := by
  unfold Obligations.StepKeepsInv
  intro s t hs hstep
  unfold step at hstep
  split at hstep
  case h_1 =>
    obtain rfl := Host.Outcome.next.inj hstep
    exact (elapse_kept (k := ⟨true, s.pending, s.tclk, s.free⟩) ⟨fun _ => hs, rfl, le_rfl, le_rfl⟩).1 rfl
  case h_2 c rest _ =>
    exact (exec_kept (s := { s with pending := rest }) (k := ⟨true, rest, s.tclk, s.free⟩) c ⟨fun _ => hs, rfl, le_rfl, le_rfl⟩ t hstep).1 rfl

/-- Settles O42, by `exec_kept` without the invariant. -/
theorem execKeepsQueue : Obligations.ExecKeepsQueue := fun c s t h =>
  (exec_kept (k := ⟨false, s.pending, s.tclk, s.free⟩) c ⟨nofun, rfl, le_rfl, le_rfl⟩ t h).2

end Sys2Proof.Proofs
end

section
/-! The laws of register fields and counters (R6, `spec/00_scope.md`). -/
namespace Sys2Proof.Proofs
open Sys2Proof Sys2Proof.Machine Sys2Proof.Laws

variable {s : State} {f g : Fld} {x n : Nat}

/-- A field keeps its value when another field of its register is set. -/
theorem getBits_setBits_disjoint {v : Word64} {lo w lo' w' : Nat} (h : lo' + w' ≤ lo ∨ lo + w ≤ lo') :
    getBits (setBits v lo w x) lo' w' = getBits v lo' w' := by
  refine congrArg BitVec.toNat (BitVec.eq_of_getLsbD_eq fun i hi => ?_)
  have hout : i + lo' < lo ∨ ¬ i + lo' - lo < w := by omega
  simp only [setBits, bitMask, BitVec.getLsbD_extractLsb', BitVec.getLsbD_or, BitVec.getLsbD_and, BitVec.getLsbD_not,
    BitVec.getLsbD_shiftLeft, BitVec.getLsbD_ofNat, Nat.testBit_two_pow_sub_one, Nat.testBit_mod_two_pow]
  by_cases h64 : lo' + i < 64
  · rw [Nat.add_comm] at h64
    rcases hout with ho | ho <;> simp [hi, h64, Nat.add_comm lo' i, ho]
  · simp [h64, BitVec.getLsbD_of_ge _ _ (Nat.le_of_not_lt h64)]

theorem rd_wr_disjoint (hs : s.Inv) (h : g.off ≠ f.off ∨ g.lo + g.w ≤ f.lo ∨ f.lo + f.w ≤ g.lo) : (s.wr f x).rd g = s.rd g := by
  by_cases hoff : g.off = f.off
  · rw [State.rd, State.wr, hoff, reg_setReg_same hs, getBits_setBits_disjoint (h.resolve_left (not_not.2 hoff)), State.rd, hoff]
  · exact rd_wr_other hoff

/-- A counter rises and stays at its largest value. -/
theorem rd_inc_same (hs : s.Inv) (hw : f.lo + f.w ≤ 64) : (s.inc f n).rd f = min (s.rd f + n) (2 ^ f.w - 1) := by
  rw [State.inc, rd_wr_same hs hw]
  exact Nat.mod_eq_of_lt (Nat.lt_of_le_of_lt (Nat.min_le_right _ _) (Nat.sub_lt (Nat.two_pow_pos _) Nat.one_pos))

/-- Settles O44: a field's own bits and those of the others, by `rd_wr_same`, `rd_wr_disjoint` and `rd_inc_same`. -/
theorem registerFieldLaws : Obligations.RegisterFieldLaws := fun _ _ _ _ _ hs hw =>
  ⟨rd_wr_same hs hw, rd_wr_disjoint hs, rd_inc_same hs hw⟩

end Sys2Proof.Proofs
end

section
/-! The doorbell of a ring (R112, `spec/04_engines_command_lists.md`) and the thermal ledger (R493, `spec/21_thermal_management.md`). -/
namespace Sys2Proof.Proofs
open Sys2Proof Sys2Proof.Machine Sys2Proof.Laws

/-! ## Distances in a ring -/

/-- How far `a` lies behind `b` in a ring of `n` places. -/
theorem ring_distance {n a b : Nat} (ha : a < n) (hb : b < n) : (a + n - b) % n = if b ≤ a then a - b else a + n - b := by
  split
  case isTrue h => rw [Nat.sub_add_comm h, Nat.add_mod_right, Nat.mod_eq_of_lt (by omega)]
  case isFalse h => exact Nat.mod_eq_of_lt (by omega)

/-- Settles O48, by the three distances. -/
theorem doorbellFits : Obligations.DoorbellFits := by
  unfold Obligations.DoorbellFits
  intro n t h t' ht hh
  simp only [Machine.doorbellFits, decide_eq_true_eq, ring_distance ht hh]
  refine ⟨and_congr_right fun ht' => ?_, fun ⟨ht', hfit⟩ => ?_⟩
  · rw [ring_distance ht' ht]
    split_ifs <;> omega
  · rw [ring_distance ht' ht] at hfit ⊢
    rw [ring_distance ht' hh]
    split_ifs at * <;> omega

/-! ## The thermal ledger -/

variable {d : Domain} {v : Int} {amp : Nat} {up : Bool}

/-- A half cycle counts in the bin of its amplitude alone, and below 10 K in none. -/
theorem count_bins (d : Domain) (amp : Nat) :
    (d.count amp).half10 = d.half10 + (if 160 ≤ amp ∧ amp < 320 then 1 else 0) ∧
      (d.count amp).half20 = d.half20 + (if 320 ≤ amp ∧ amp < 640 then 1 else 0) ∧
      (d.count amp).half40 = d.half40 + (if 640 ≤ amp ∧ amp < 960 then 1 else 0) ∧
      (d.count amp).half60 = d.half60 + (if 960 ≤ amp then 1 else 0) := by
  unfold Domain.count
  split_ifs <;> first | omega | exact ⟨rfl, rfl, rfl, rfl⟩

/-- What a started ledger does, by its direction: it follows S, turns, or keeps its extreme. -/
theorem advance_undirected_cases (hd : d.started = true) (hu : d.up = none) :
    d.ext < v ∧ d.advance v = { d with up := some true, ext := v } ∨
      v < d.ext ∧ d.advance v = { d with up := some false, ext := v } ∨ d.advance v = d := by
  simp only [Domain.advance, hd, hu]
  grind

theorem advance_rising_cases (hd : d.started = true) (hu : d.up = some true) :
    d.ext < v ∧ d.advance v = { d with ext := v } ∨ v + 32 ≤ d.ext ∧ d.advance v = d.turn v false ∨
      (v ≤ d.ext ∧ d.ext < v + 32) ∧ d.advance v = d := by
  simp only [Domain.advance, hd, hu]
  grind

theorem advance_falling_cases (hd : d.started = true) (hu : d.up = some false) :
    v < d.ext ∧ d.advance v = { d with ext := v } ∨ d.ext + 32 ≤ v ∧ d.advance v = d.turn v true ∨
      (d.ext ≤ v ∧ v < d.ext + 32) ∧ d.advance v = d := by
  simp only [Domain.advance, hd, hu]
  grind

/-- Settles O57: by the direction of the ledger, then by what it does. -/
theorem ledgerHalfCycles : Obligations.LedgerHalfCycles := by
  unfold Obligations.LedgerHalfCycles
  rintro d _ v _ rfl hd rfl
  have hbins := count_bins d (d.ext - d.lastTp).natAbs
  rcases hu : d.up with _ | _ | _
  case none => rcases advance_undirected_cases (v := v) hd hu with ⟨_, he⟩ | ⟨_, he⟩ | he <;> rw [he] <;> simp [hu]
  case some.true =>
    rcases advance_rising_cases (v := v) hd hu with ⟨hv, he⟩ | ⟨hv, he⟩ | ⟨hv, he⟩ <;> rw [he]
    · simp [hu]; omega
    · exact ⟨nofun, fun _ => ⟨le_rfl, by simp [Domain.turn]⟩, .inr ⟨rfl, rfl, .inl ⟨rfl, rfl, hv⟩, hbins⟩, fun _ _ => ⟨rfl, rfl⟩, nofun⟩
    · simp [hu]; omega
  case some.false =>
    rcases advance_falling_cases (v := v) hd hu with ⟨hv, he⟩ | ⟨hv, he⟩ | ⟨hv, he⟩ <;> rw [he]
    · simp [hu]; omega
    · exact ⟨fun _ => ⟨le_rfl, by simp [Domain.turn]⟩, nofun, .inr ⟨rfl, rfl, .inr ⟨rfl, rfl, hv⟩, hbins⟩, nofun, fun _ _ => ⟨rfl, rfl⟩⟩
    · simp [hu]; omega

end Sys2Proof.Proofs
end

section
/-! The fields of a flit (R501, `spec/22_swarm_links.md`) and the credits of an arbitration point (R320,
`spec/13_bandwidth_regulation.md`). -/
namespace Sys2Proof.Proofs
open Sys2Proof Sys2Proof.Machine Sys2Proof.Laws

/-! ## Fields of bytes put together -/

variable {a b : List Byte} {off n x : Nat}

theorem field_append_left (h : off + n ≤ a.length) : field (a ++ b) off n = field a off n := by
  rw [field, List.drop_append_of_le_length (by omega), List.take_append_of_le_length (by rw [List.length_drop]; omega), field]

theorem field_append_right (h : a.length ≤ off) : field (a ++ b) off n = field b (off - a.length) n := by
  rw [field, List.drop_append, List.drop_eq_nil_of_le h, List.nil_append, field]

theorem field_leBytes : field (leBytes n x) 0 n = x % 256 ^ n := by
  rw [field, List.drop_zero, List.take_of_length_le (by simp), leNat_leBytes]

theorem field_leBytes_one (h : x < 256) : field (leBytes 1 x) 0 1 = x := by rw [field_leBytes, Nat.mod_eq_of_lt (by omega)]

theorem field_leBytes_two (h : x < 65536) : field (leBytes 2 x) 0 2 = x := by rw [field_leBytes, Nat.mod_eq_of_lt (by omega)]

theorem bitsOf_zero_of_lt {w : Nat} (h : x < 2 ^ w) : bitsOf x 0 w = x := by rw [bitsOf, pow_zero, Nat.div_one, Nat.mod_eq_of_lt h]

theorem drop_leBytes {k : Nat} (h : n ≤ k) : (leBytes n x).drop k = [] := List.drop_eq_nil_of_le (by simpa using h)

/-- Settles O58: each field by its place in the flit, the check by `flitOk_mkFlit`. -/
theorem flitFields : Obligations.FlitFields := by
  unfold Obligations.FlitFields
  rintro type hops seq ack dst src pay _ htype hhops hseq hack hdst hsrc rfl
  have hok := flitOk_mkFlit type hops seq ack dst src pay
  have hlen : (mkFlit type hops seq ack dst src pay).length = 256 := by simp [mkFlit]
  have hcrc : flitCrc (mkFlit type hops seq ack dst src pay) = field (mkFlit type hops seq ack dst src pay) 252 4 := by
    simpa [flitOk, hlen] using hok
  refine ⟨hlen, ?type, ?hops, ?seq, ?ack, ?dst, ?src, ?zero, ?pay, hcrc.symm, hok⟩
  case pay => simp [flitPay, mkFlit, List.drop_append, drop_leBytes]
  all_goals
    simp (disch := simp) only [flitType, flitHops, flitSeq, flitAck, flitDst, flitSrc, mkFlit, List.append_assoc, field_append_left,
      field_append_right, leBytes_length, Nat.reduceSub]
  case type => rw [field_leBytes_one (by omega), bitsOf_zero_of_lt htype]
  case hops => exact field_leBytes_one hhops
  case seq => exact field_leBytes_two hseq
  case ack => exact field_leBytes_two hack
  case dst => rw [field_leBytes_one (by omega), bitsOf_zero_of_lt hdst]
  case src => rw [field_leBytes_one (by omega), bitsOf_zero_of_lt hsrc]
  case zero => exact field_leBytes

/-! ## Tables changed entry after entry -/

variable {α : Type} [DecidableEq α] {d : α} {t : Table α} {key : Nat → Nat} {g : Nat → α → α} {l : List Nat} {c k : Nat}

theorem twf_foldl_tset (ht : twf d t = true) : twf d (l.foldl (fun t c => tset d t (key c) (g c (tget d t (key c)))) t) = true :=
  List.foldlRecOn l _ (motive := fun t => twf d t = true) ht fun _ h _ _ => twf_tset h

theorem tget_foldl_tset_other (hk : ∀ c ∈ l, k ≠ key c) :
    tget d (l.foldl (fun t c => tset d t (key c) (g c (tget d t (key c)))) t) k = tget d t k :=
  List.foldlRecOn l _ (motive := fun u => tget d u k = tget d t k) rfl fun _ h c hc => (tget_tset_other (hk c hc)).trans h

/-- Each entry is changed once, by what it held before. -/
theorem tget_foldl_tset (ht : twf d t = true) (hkey : Function.Injective key) (hl : l.Nodup) (hc : c ∈ l) :
    tget d (l.foldl (fun t c => tset d t (key c) (g c (tget d t (key c)))) t) (key c) = g c (tget d t (key c)) := by
  induction l generalizing t with
  | nil => exact absurd hc List.not_mem_nil
  | cons x l ih =>
    obtain ⟨hx, hl⟩ := List.nodup_cons.1 hl
    rw [List.foldl_cons]
    rcases List.mem_cons.1 hc with rfl | hc
    · rw [tget_foldl_tset_other (fun y hy h => hx (by rwa [hkey h])), tget_tset_same ht]
    · have hne : key c ≠ key x := fun h => hx (hkey h ▸ hc)
      rw [ih (twf_tset ht) hl hc, tget_tset_other hne]

/-! ## Credits -/

variable {s : State} {point col : Nat}

theorem creditKey_injective : Function.Injective (creditKey point) := fun _ _ h => Nat.add_left_cancel h

theorem creditKey_ne {c' : Nat} (h : k ≠ point) (hc : c < 17) (hc' : c' < 17) : creditKey k c ≠ creditKey point c' := by
  unfold creditKey; omega

/-- A colony's credit after `n` words transferred to `col` (R320). -/
def creditAfter (s : State) (col n c : Nat) (v : Int) : Int :=
  clampCredit (v + n * s.shareOf c - (if c = col then 1000 * n else 0))

theorem transferWords_credit : (s.transferWords point col n).mem.credit = (List.range 17).foldl (fun t c =>
    tset 0 t (creditKey point c) (creditAfter s col n c (tget 0 t (creditKey point c)))) s.mem.credit := by
  unfold State.transferWords creditAfter
  with_reducible rfl

theorem credit_transferWords (hs : s.Inv) (hc : c < 17) :
    (s.transferWords point col n).credit point c = creditAfter s col n c (s.credit point c) := by
  obtain ⟨-, -, -, hwf, -⟩ := hs
  rw [State.credit, transferWords_credit, tget_foldl_tset hwf creditKey_injective List.nodup_range (List.mem_range.2 hc), State.credit]

theorem credit_transferWords_other (hk : k ≠ point) (hc : c < 17) : (s.transferWords point col n).credit k c = s.credit k c := by
  rw [State.credit, transferWords_credit, tget_foldl_tset_other fun _ hc' => creditKey_ne hk hc (List.mem_range.1 hc'), State.credit]

/-- Settles O54: the credits at the point by `credit_transferWords`, those at another by `credit_transferWords_other`. -/
theorem creditTransfer : Obligations.CreditTransfer := by
  unfold Obligations.CreditTransfer
  intro s point col n c k hs
  refine ⟨fun hc => ?_, ?_, credit_transferWords_other⟩
  · rw [credit_transferWords hs (by omega), creditAfter, clampCredit, State.shareOf, if_pos hc]
  · rw [credit_transferWords hs (by omega), creditAfter, clampCredit, State.shareOf, if_neg (lt_irrefl 16)]
    simp only [eq_comm]

end Sys2Proof.Proofs
end

section
/-! The time base (R347, `spec/14_sensor_ports_time_base.md`) and the vote of three copies (R453,
`spec/19_safety_islands_lockstep.md`). -/
namespace Sys2Proof.Proofs
open Sys2Proof Sys2Proof.Machine Sys2Proof.Laws

variable {s : State} {n t : Nat}

/-! ## The time base -/

theorem wr_inv {f : Fld} {x : Nat} (h : s.Inv) : (s.wr f x).Inv :=
  (wr_kept (k := ⟨true, s.pending, s.tclk, s.free⟩) ⟨fun _ => h, rfl, le_rfl, le_rfl⟩).1 rfl

/-- The time base reads as set, both halves of it. -/
theorem now_setTime96 (h : s.Inv) (ht : t < 2 ^ 96) : (s.setTime96 t).now = t / 2 ^ 32 := by
  rw [State.now, State.setTime96, rd_wr_other (by decide), rd_wr_same h (by decide)]
  exact Nat.mod_eq_of_lt (show t / 2 ^ 32 < 2 ^ 64 by omega)

theorem time96_setTime96 (h : s.Inv) (ht : t < 2 ^ 96) : (s.setTime96 t).time96 = t := by
  rw [State.time96, now_setTime96 h ht, State.setTime96, rd_wr_same (wr_inv h) (by decide)]
  exact Nat.div_add_mod' t (2 ^ 32)

/-- What passes beside the time base while `n` ticks pass. -/
def countTicks (s : State) (n : Nat) : State :=
  { s with tclk := s.tclk + n, jobs := tmap (s.countJob n) s.jobs, saf := s.ageIslands n, thm := s.ageThermal n }

theorem elapse_locked (h : s.on PWR_STATUS_PLL_LOCK_IOD = true) :
    s.elapse n = (countTicks s n).setTime96 ((s.time96 + n * s.tickInc) % (2 ^ 96 : Nat)).toNat := if_pos h

theorem elapse_unlocked (h : s.on PWR_STATUS_PLL_LOCK_IOD = false) : s.elapse n = countTicks s n :=
  if_neg (show ¬s.on PWR_STATUS_PLL_LOCK_IOD = true by rw [h]; decide)

/-- Settles O55: the sum of the ticks fits the 96 bits that `setTime96` sets. -/
theorem timeBase : Obligations.TimeBase := by
  unfold Obligations.TimeBase
  intro s n hs
  refine ⟨?_, fun hlock => ?_, fun hlock => ?_⟩
  · cases hlock : s.on PWR_STATUS_PLL_LOCK_IOD
    · rw [elapse_unlocked hlock]; rfl
    · rw [elapse_locked hlock, setTime96_tclk]; rfl
  · have hsum : ((s.time96 + n * s.tickInc) % (2 ^ 96 : Nat)).toNat < 2 ^ 96 := by omega
    have hcount : (countTicks s n).Inv := hs
    rw [elapse_locked hlock, now_setTime96 hcount hsum, time96_setTime96 hcount hsum]
    refine ⟨?_, rfl⟩
    rw [Int.toNat_of_nonneg (by omega)]
    rfl
  · rw [elapse_unlocked hlock]; rfl

/-! ## The vote of three copies -/

variable {c0 c1 c2 : RecCopy} {b : List Byte} {island index : Nat}

/-- The newest event stands last in the event log (R479). -/
theorem event_evtLog_last (s : State) (code source object status : Nat) (detail : List Byte) :
    ∃ r, (s.event code source object status detail).hif.evtLog.getLast? = some r ∧ r.code = code ∧ r.status = status ∧
      r.detail = padTo 10 detail := by
  have hlast : (lastN 65536 (s.hif.evtLog ++ [⟨code, source, evtSeverity code, s.hif.evtSeq, s.now, object, status, padTo 10 detail⟩])).getLast?
      = some ⟨code, source, evtSeverity code, s.hif.evtSeq, s.now, object, status, padTo 10 detail⟩ := by
    rw [lastN, List.getLast?_drop, if_neg (by rw [List.length_append, List.length_singleton]; omega), List.getLast?_concat]
  refine ⟨⟨code, source, evtSeverity code, s.hif.evtSeq, s.now, object, status, padTo 10 detail⟩, ?_, rfl, rfl, rfl⟩
  revert hlast
  unfold State.event
  generalize (65536 : Nat) = places
  intro hlast
  extract_lets h r h'
  split <;> exact hlast

theorem mask3_triple (x y z : Bool) : mask3 [x, y, z] = bit x + 2 * bit y + 4 * bit z := by
  cases x <;> cases y <;> cases z <;> rfl

/-- A copy is not the intact copy of `b` exactly where it is not intact or holds other bytes. -/
theorem bad_copy (c : RecCopy) (b : List Byte) : (!c.intact || c.bytes != b) = (c != ⟨b, true⟩) := by
  obtain ⟨bytes, intact⟩ := c
  cases intact <;> simp [bne, BEq.comm, beq_eq_decide]

/-- Two intact copies of three agree: they are the majority. -/
theorem majority_of_count_two (h : [c0, c1, c2].count ⟨b, true⟩ = 2) : majority [c0, c1, c2] = some b := by
  obtain ⟨b0, i0⟩ := c0
  obtain ⟨b1, i1⟩ := c1
  obtain ⟨b2, i2⟩ := c2
  cases i0 <;> cases i1 <;> cases i2 <;> simp [List.count_cons, majority] at h ⊢ <;> grind

theorem majority_none (h : ∀ x ∈ [c0, c1, c2], x.intact = true → [c0, c1, c2].count x = 1) : majority [c0, c1, c2] = none := by
  obtain ⟨b0, i0⟩ := c0
  obtain ⟨b1, i1⟩ := c1
  obtain ⟨b2, i2⟩ := c2
  cases i0 <;> cases i1 <;> cases i2 <;> simp [List.count_cons, majority] at h ⊢ <;> grind

/-- The vote of three written copies: used as they are, used with every copy rewritten, or refused. -/
theorem voteRecord_agreed (hc : tget [] s.saf.copies (cfgKey island index) = [c0, c1, c2]) (hw : s.beingWritten island index = false)
    (hm : majority [c0, c1, c2] = some b) (hbad : mask3 ([c0, c1, c2].map (· != ⟨b, true⟩)) = 0) :
    s.voteRecord island index = (s, some b) := by
  simp only [List.map_cons, List.map_nil] at hbad
  simp [State.voteRecord, hc, hw, hm, bad_copy, hbad]

theorem voteRecord_outvoted (hc : tget [] s.saf.copies (cfgKey island index) = [c0, c1, c2]) (hw : s.beingWritten island index = false)
    (hm : majority [c0, c1, c2] = some b) (hbad : mask3 ([c0, c1, c2].map (· != ⟨b, true⟩)) ≠ 0) :
    s.voteRecord island index = (((({ s with saf := { s.saf with
        copies := tset [] s.saf.copies (cfgKey island index) (List.replicate 3 ⟨b, true⟩) } } : State).inc SAF_CFG_MAJORITY).event 0x55
      (0x14 + island) (s.cfgOwner island index) 0
      (voteDetail island index (mask3 ([c0, c1, c2].map (·.intact))) (mask3 ([c0, c1, c2].map (· != ⟨b, true⟩))))), some b) := by
  simp only [List.map_cons, List.map_nil] at hbad
  simp [State.voteRecord, hc, hw, hm, bad_copy, hbad]

theorem voteRecord_refused (hc : tget [] s.saf.copies (cfgKey island index) = [c0, c1, c2]) (hw : s.beingWritten island index = false)
    (hm : majority [c0, c1, c2] = none) : s.voteRecord island index =
    ((s.inc SAF_CFG_FAIL).event 0x56 (0x14 + island) (s.cfgOwner island index) E_CFGVOTE
      (voteDetail island index (mask3 ([c0, c1, c2].map (·.intact))) 0), none) := by
  simp [State.voteRecord, hc, hw, hm]

theorem voteDetail_eq (island index intact over3 : Nat) :
    voteDetail island index intact over3 = leBytes 1 island ++ leBytes 2 index ++ leBytes 1 intact ++ leBytes 1 over3 := by
  simp [voteDetail, leBytes]

/-- Settles O56: by the majority of the copies and whether a copy differs from it. -/
theorem voteOutcomes : Obligations.VoteOutcomes := by
  unfold Obligations.VoteOutcomes
  intro s island index c0 c1 c2 b hc hw
  refine ⟨fun hall => ?agreed, fun hcount => ?outvoted, fun halone => ?refused⟩
  case agreed =>
    obtain ⟨rfl, rfl, rfl⟩ : c0 = ⟨b, true⟩ ∧ c1 = ⟨b, true⟩ ∧ c2 = ⟨b, true⟩ := by simpa [List.replicate] using hall
    exact voteRecord_agreed hc hw (by simp [majority]) (by simp [mask3_triple, bit])
  case outvoted =>
    have hbad : mask3 ([c0, c1, c2].map (· != ⟨b, true⟩)) ≠ 0 := by
      intro hzero
      simp only [List.map_cons, List.map_nil, mask3_triple] at hzero
      have hsame : ∀ c : RecCopy, bit (c != ⟨b, true⟩) = 0 → c = ⟨b, true⟩ := fun c h => by simpa [bit] using h
      rw [hsame c0 (by omega), hsame c1 (by omega), hsame c2 (by omega)] at hcount
      simp at hcount
    obtain ⟨r, hlast, hcode, -, hdetail⟩ := event_evtLog_last (({ s with saf := { s.saf with
      copies := tset [] s.saf.copies (cfgKey island index) (List.replicate 3 ⟨b, true⟩) } } : State).inc SAF_CFG_MAJORITY) 0x55
      (0x14 + island) (s.cfgOwner island index) 0
      (voteDetail island index (mask3 ([c0, c1, c2].map (·.intact))) (mask3 ([c0, c1, c2].map (· != ⟨b, true⟩))))
    refine ⟨_, voteRecord_outvoted hc hw (majority_of_count_two hcount) hbad, ?_, fun k hk => ?_, r, hlast, hcode, ?_⟩
    · rw [event_saf, inc_saf]; exact tget_tset_listed (by simp)
    · rw [event_saf, inc_saf]; exact tget_tset_other hk
    · rw [hdetail, voteDetail_eq]; simp only [List.map_cons, List.map_nil, mask3_triple]
  case refused =>
    obtain ⟨r, hlast, hcode, hstatus, hdetail⟩ := event_evtLog_last (s.inc SAF_CFG_FAIL) 0x56 (0x14 + island)
      (s.cfgOwner island index) E_CFGVOTE (voteDetail island index (mask3 ([c0, c1, c2].map (·.intact))) 0)
    refine ⟨_, voteRecord_refused hc hw (majority_none halone), by rw [event_saf, inc_saf], r, hlast, hcode, hstatus, ?_⟩
    rw [hdetail, voteDetail_eq]; simp only [List.map_cons, List.map_nil, mask3_triple]; rfl

end Sys2Proof.Proofs
end

section
/-! Footprints: which parts of the machine an operation can change, and that everything else stays.  `Frame D s t` says that `t` differs
from `s` in the parts of `D` alone; the frame lemmas of the files that follow give every operation its footprint, and `Frame.after` chains
them. -/
namespace Sys2Proof.Proofs
open Sys2Proof Sys2Proof.Machine Sys2Proof.Laws

/-- Which parts of the machine may change: fields of the state, of the package the array errors still to be found, the mark of a watched
command, the host's waiting accesses and the rest; of the host interface the mailboxes, the read latches with the value last read, the MSI-X
messages, host memory, the events and the rest. -/
structure Footprint where
  tclk : Bool := false
  free : Bool := false
  regs : Bool := false
  pwr : Bool := false
  queues : Bool := false
  objs : Bool := false
  listEnds : Bool := false
  listStarts : Bool := false
  dram : Bool := false
  poison : Bool := false
  combs : Bool := false
  spdRead : Bool := false
  honey : Bool := false
  brood : Bool := false
  colonies : Bool := false
  jobs : Bool := false
  unsaved : Bool := false
  mem : Bool := false
  ports : Bool := false
  servo : Bool := false
  fus : Bool := false
  pln : Bool := false
  ctl : Bool := false
  cv : Bool := false
  saf : Bool := false
  thm : Bool := false
  swm : Bool := false
  inputs : Bool := false
  watch : Bool := false
  winHeld : Bool := false
  package : Bool := false
  mbx : Bool := false
  latch : Bool := false
  msix : Bool := false
  hostMem : Bool := false
  events : Bool := false
  host : Bool := false

/-- One of two values. -/
abbrev pick {α : Type} (c : Bool) (x y : α) : α := match c with
  | true => x
  | false => y

/-- The package `p` with the parts of a footprint taken from `q`. -/
abbrev Footprint.takePkg (D : Footprint) (p q : Package) : Package where
  inputs := pick D.inputs q.inputs p.inputs
  sfd := pick D.package q.sfd p.sfd
  rejectReason := pick D.package q.rejectReason p.rejectReason
  links := pick D.package q.links p.links
  wagSent := pick D.package q.wagSent p.wagSent
  partnerDesc := pick D.package q.partnerDesc p.partnerDesc
  partnerAdmitted := pick D.package q.partnerAdmitted p.partnerAdmitted
  retraining := pick D.package q.retraining p.retraining
  retrainAt := pick D.package q.retrainAt p.retrainAt
  iodFlash := pick D.package q.iodFlash p.iodFlash
  sfdFlash := pick D.package q.sfdFlash p.sfdFlash
  iodFuse := pick D.package q.iodFuse p.iodFuse
  sfdFuse := pick D.package q.sfdFuse p.sfdFuse
  iodSlot := pick D.package q.iodSlot p.iodSlot
  sfdSlot := pick D.package q.sfdSlot p.sfdSlot
  iodImage := pick D.package q.iodImage p.iodImage
  sfdImage := pick D.package q.sfdImage p.sfdImage
  fwWrite := pick D.package q.fwWrite p.fwWrite
  fwAdvance := pick D.package q.fwAdvance p.fwAdvance
  epoch := pick D.package q.epoch p.epoch
  heldInReset := pick D.package q.heldInReset p.heldInReset
  perstLow := pick D.package q.perstLow p.perstLow
  endpointUp := pick D.package q.endpointUp p.endpointUp
  pcieWidth := pick D.package q.pcieWidth p.pcieWidth
  pcieRate := pick D.package q.pcieRate p.pcieRate
  sfdPowered := pick D.package q.sfdPowered p.sfdPowered
  iodTestFail := pick D.package q.iodTestFail p.iodTestFail
  iodTimersOk := pick D.package q.iodTimersOk p.iodTimersOk
  warmReset := pick D.package q.warmReset p.warmReset
  shortTrainEnded := pick D.package q.shortTrainEnded p.shortTrainEnded
  shortTrainPassed := pick D.package q.shortTrainPassed p.shortTrainPassed
  trained := pick D.package q.trained p.trained
  lanes := pick D.package q.lanes p.lanes
  pllLossSeen := pick D.package q.pllLossSeen p.pllLossSeen
  watch := pick D.watch q.watch p.watch
  winHeld := pick D.winHeld q.winHeld p.winHeld

/-- The host interface `h` with the parts of a footprint taken from `i`. -/
abbrev Footprint.takeHif (D : Footprint) (h i : Hif) : Hif where
  mbx := pick D.mbx i.mbx h.mbx
  latch := pick D.latch i.latch h.latch
  hold := pick D.host i.hold h.hold
  hostRead := pick D.latch i.hostRead h.hostRead
  winLog2 := pick D.host i.winLog2 h.winLog2
  deviceId := pick D.host i.deviceId h.deviceId
  classCode := pick D.host i.classCode h.classCode
  maxPayload := pick D.host i.maxPayload h.maxPayload
  maxReadReq := pick D.host i.maxReadReq h.maxReadReq
  msixTable := pick D.host i.msixTable h.msixTable
  msixEnable := pick D.host i.msixEnable h.msixEnable
  msixMask := pick D.host i.msixMask h.msixMask
  msixPend := pick D.msix i.msixPend h.msixPend
  msixSent := pick D.msix i.msixSent h.msixSent
  hostMem := pick D.hostMem i.hostMem h.hostMem
  evtBuf := pick D.events i.evtBuf h.evtBuf
  evtLog := pick D.events i.evtLog h.evtLog
  evtSeq := pick D.events i.evtSeq h.evtSeq
  evtDrops := pick D.events i.evtDrops h.evtDrops
  evtDelay := pick D.host i.evtDelay h.evtDelay
  fwStopped := pick D.host i.fwStopped h.fwStopped

/-- The machine `s` with the parts of a footprint taken from `t`. -/
abbrev Footprint.take (D : Footprint) (s t : State) : State where
  pending := s.pending
  tclk := pick D.tclk t.tclk s.tclk
  free := pick D.free t.free s.free
  regs := pick D.regs t.regs s.regs
  pkg := D.takePkg s.pkg t.pkg
  pwr := pick D.pwr t.pwr s.pwr
  hif := D.takeHif s.hif t.hif
  queues := pick D.queues t.queues s.queues
  objs := pick D.objs t.objs s.objs
  listEnds := pick D.listEnds t.listEnds s.listEnds
  listStarts := pick D.listStarts t.listStarts s.listStarts
  dram := pick D.dram t.dram s.dram
  poison := pick D.poison t.poison s.poison
  combs := pick D.combs t.combs s.combs
  spdRead := pick D.spdRead t.spdRead s.spdRead
  honey := pick D.honey t.honey s.honey
  brood := pick D.brood t.brood s.brood
  colonies := pick D.colonies t.colonies s.colonies
  jobs := pick D.jobs t.jobs s.jobs
  unsaved := pick D.unsaved t.unsaved s.unsaved
  mem := pick D.mem t.mem s.mem
  ports := pick D.ports t.ports s.ports
  servo := pick D.servo t.servo s.servo
  fus := pick D.fus t.fus s.fus
  pln := pick D.pln t.pln s.pln
  ctl := pick D.ctl t.ctl s.ctl
  cv := pick D.cv t.cv s.cv
  saf := pick D.saf t.saf s.saf
  thm := pick D.thm t.thm s.thm
  swm := pick D.swm t.swm s.swm

/-- One footprint lies within another. -/
def Footprint.le (D C : Footprint) : Bool :=
  (!D.tclk || C.tclk) && (!D.free || C.free) && (!D.regs || C.regs) && (!D.pwr || C.pwr) && (!D.queues || C.queues) &&
  (!D.objs || C.objs) && (!D.listEnds || C.listEnds) && (!D.listStarts || C.listStarts) && (!D.dram || C.dram) &&
  (!D.poison || C.poison) && (!D.combs || C.combs) && (!D.spdRead || C.spdRead) && (!D.honey || C.honey) && (!D.brood || C.brood) &&
  (!D.colonies || C.colonies) && (!D.jobs || C.jobs) && (!D.unsaved || C.unsaved) && (!D.mem || C.mem) && (!D.ports || C.ports) &&
  (!D.servo || C.servo) && (!D.fus || C.fus) && (!D.pln || C.pln) && (!D.ctl || C.ctl) && (!D.cv || C.cv) && (!D.saf || C.saf) &&
  (!D.thm || C.thm) && (!D.swm || C.swm) && (!D.inputs || C.inputs) && (!D.watch || C.watch) && (!D.winHeld || C.winHeld) &&
  (!D.package || C.package) && (!D.mbx || C.mbx) && (!D.latch || C.latch) && (!D.msix || C.msix) && (!D.hostMem || C.hostMem) &&
  (!D.events || C.events) && (!D.host || C.host)

/-- The machine with the parts of a footprint set aside. -/
abbrev Footprint.mask (D : Footprint) (s : State) : State := D.take s {}

/-- `t` differs from `s` in the parts of `D` alone. -/
abbrev Frame (D : Footprint) (s t : State) : Prop := D.mask t = D.mask s

variable {C D : Footprint} {s s0 t u : State}

theorem pick_pick {α : Type} {c d : Bool} {x y : α} (h : (!d || c) = true) : pick c y (pick d y x) = pick c y x := by
  cases c <;> cases d <;> first | rfl | cases h

theorem mask_mask (h : D.le C = true) : C.mask (D.mask s) = C.mask s := by
  simp only [Footprint.le, Bool.and_eq_true, and_assoc] at h
  simp only [Footprint.mask, Footprint.take, Footprint.takePkg, Footprint.takeHif, pick_pick, h]

theorem bool_imp_trans {a b c : Bool} (h : (!a || b) = true) (h' : (!b || c) = true) : (!a || c) = true := by
  cases a <;> cases b <;> cases c <;> simp_all

theorem Footprint.le_trans {B : Footprint} (h : B.le D = true) (h' : D.le C = true) : B.le C = true := by
  simp only [Footprint.le, Bool.and_eq_true, and_assoc] at h h' ⊢
  casesm* _ ∧ _
  repeat' apply And.intro
  all_goals exact bool_imp_trans (by assumption) (by assumption)

theorem Frame.rfl : Frame D s s := Eq.refl _

theorem Frame.mono (h : Frame D s t) (hle : D.le C = true := by decide) : Frame C s t := by
  unfold Frame
  rw [← mask_mask hle, h, mask_mask hle]

/-- An operation within a footprint, after what came before it. -/
theorem Frame.after (h : Frame D t u) (h0 : Frame C s t) (hle : D.le C = true := by decide) : Frame C s u := (h.mono hle).trans h0

theorem pick_same {α : Type} {c : Bool} {x : α} : pick c x x = x := by cases c <;> rfl

theorem pick_pick_same {α : Type} {c : Bool} {x y z : α} : pick c y (pick c z x) = pick c y x := by cases c <;> rfl

/-- What a frame says, written out: the parts beside the footprint are those of before. -/
theorem Frame.eq_take (h : Frame D s t) : t = D.take s t := by
  have hself : D.take t t = t := by simp only [Footprint.take, Footprint.takePkg, Footprint.takeHif, pick_same]
  have hover : ∀ u : State, D.take (D.mask u) t = D.take u t := fun u => by
    simp only [Footprint.take, Footprint.takePkg, Footprint.takeHif, pick_pick_same]
  rw [← hover s, ← h, hover, hself]

end Sys2Proof.Proofs
end

section
/-! How footprints combine through outcomes, options, branches and folds; then the footprints of the shared operations: registers, DRAM, the
memory controllers' traffic, events, lists and their records, objects and sequences. -/
namespace Sys2Proof.Proofs
open Sys2Proof Sys2Proof.Machine Sys2Proof.Laws

-- Each proof cites those before it, so they are checked one after another.
set_option Elab.async false

variable {C D : Footprint} {s s0 t u : State}

/-- An outcome whose next state, where it has one, stays within a footprint. -/
def OutFrame (D : Footprint) (s : State) (o : Out) : Prop := ∀ t, o = .next t → Frame D s t

theorem outFrame_next (h : Frame D s t) : OutFrame D s (.next t) := fun _ e => Host.Outcome.next.inj e ▸ h

theorem outFrame_ite {p : Prop} [Decidable p] {a b : Out} (ha : OutFrame D s a) (hb : OutFrame D s b) :
    OutFrame D s (if p then a else b) := by split <;> assumption

/-- An operation that may not take place, within a footprint. -/
def OptFrame (D : Footprint) (s : State) (o : Option State) : Prop := ∀ t, o = some t → Frame D s t

theorem optFrame_some (h : Frame D s t) : OptFrame D s (some t) := fun _ e => Option.some.inj e ▸ h

theorem optFrame_none : OptFrame D s none := fun _ e => absurd e (by simp)

theorem optFrame_ite {p : Prop} [Decidable p] {a b : Option State} (ha : OptFrame D s a) (hb : OptFrame D s b) :
    OptFrame D s (if p then a else b) := by split <;> assumption

theorem frame_ite {p : Prop} [Decidable p] (ht : Frame D s t) (hu : Frame D s u) : Frame D s (if p then t else u) := by
  split <;> assumption

theorem frame_ite_fst {α : Type} {p : Prop} [Decidable p] {a b : State × α} (ha : Frame D s a.1) (hb : Frame D s b.1) :
    Frame D s (if p then a else b).1 := by split <;> assumption

theorem frame_fst {α : Type} {p : State × α} {a : α} (h : Frame D s p.1) (e : p = (t, a)) : Frame D s t := by rwa [e] at h

theorem frame_foldl {α : Type} {f : State → α → State} {l : List α} (hf : ∀ t x, Frame D s t → Frame D s (f t x)) (h : Frame D s t) :
    Frame D s (l.foldl f t) :=
  List.foldlRecOn l f (motive := Frame D s) h fun _ ht x _ => hf _ x ht

theorem frame_foldl_fst {α β : Type} {f : State × β → α → State × β} {l : List α} {p : State × β}
    (hf : ∀ p x, Frame D s p.1 → Frame D s (f p x).1) (h : Frame D s p.1) : Frame D s (l.foldl f p).1 :=
  List.foldlRecOn l f (motive := fun p => Frame D s p.1) h fun _ hp x _ => hf _ x hp

/-- Fields of the footprint set on a state `X`. -/
theorem frame_set {X : State}
    {x_tclk x_free x_regs x_pkg x_pwr x_hif x_queues x_objs x_listEnds x_listStarts x_dram x_poison x_combs x_spdRead x_honey x_brood
      x_colonies x_jobs x_unsaved x_mem x_ports x_servo x_fus x_pln x_ctl x_cv x_saf x_thm x_swm}
    (h : Frame D s X)
    (hX : Frame D X
      (State.mk X.pending x_tclk x_free x_regs x_pkg x_pwr x_hif x_queues x_objs x_listEnds x_listStarts x_dram x_poison x_combs
        x_spdRead x_honey x_brood x_colonies x_jobs x_unsaved x_mem x_ports x_servo x_fus x_pln x_ctl x_cv x_saf x_thm x_swm) := by exact Frame.rfl) :
    Frame D s
      (State.mk X.pending x_tclk x_free x_regs x_pkg x_pwr x_hif x_queues x_objs x_listEnds x_listStarts x_dram x_poison x_combs
        x_spdRead x_honey x_brood x_colonies x_jobs x_unsaved x_mem x_ports x_servo x_fus x_pln x_ctl x_cv x_saf x_thm x_swm) :=
  hX.trans h

/-- The memory controllers, or the fusion engine, set as a whole. -/
theorem frame_mem {m : Mem} (h : Frame D s t) (hD : D.mem = true := by decide) : Frame D s { t with mem := m } := by
  have hset : Frame D t { t with mem := m } := by simp only [Frame, Footprint.mask, Footprint.take, hD]
  exact hset.trans h

theorem frame_fus {f : Fusion} (h : Frame D s t) (hD : D.fus = true := by decide) : Frame D s { t with fus := f } := by
  have hset : Frame D t { t with fus := f } := by simp only [Frame, Footprint.mask, Footprint.take, hD]
  exact hset.trans h

theorem setReg_frame {a : Nat} {v : Word64} : Frame { regs := true } s (s.setReg a v) := Frame.rfl

theorem hostWrite_frame {a : Nat} {bs : List Byte} : Frame { hostMem := true } s (s.hostWrite a bs) := Frame.rfl

theorem draw_frame {n : Nat} : Frame { free := true } s (s.draw n) := Frame.rfl

theorem pokeByte_frame {a : Nat} {b : Byte} : Frame { dram := true, poison := true } s (s.pokeByte a b) := by
  unfold State.pokeByte
  generalize List.replicate 64 (0 : Byte) = zeros
  exact frame_ite (frame_set Frame.rfl) (frame_set Frame.rfl)

theorem pokeBytes_frame {a : Nat} {bs : List Byte} : Frame { dram := true, poison := true } s (s.pokeBytes a bs) := by
  induction bs generalizing s a with
  | nil => exact Frame.rfl
  | cons b bs ih => exact ih.trans pokeByte_frame

theorem zeroRange_frame {a n : Nat} : Frame { dram := true, poison := true } s (s.zeroRange a n) := Frame.rfl

theorem transferWords_frame {a1 a2 a3} : Frame { mem := true } s (s.transferWords a1 a2 a3) := frame_mem Frame.rfl

theorem setTime96_frame {n : Nat} : Frame { regs := true } s (s.setTime96 n) := setReg_frame.after setReg_frame

theorem elapse_frame {n : Nat} : Frame { tclk := true, regs := true, jobs := true, saf := true, thm := true } s (s.elapse n) := by
  unfold State.elapse
  dsimp only
  with_reducible repeat' first | exact Frame.rfl | assumption | refine setTime96_frame.after ?_ | refine frame_ite ?_ ?_

theorem wr_frame {a1 a2} : Frame { regs := true } s (State.wr s a1 a2) := by
  unfold State.wr
  with_reducible repeat' first | exact Frame.rfl | assumption | refine setReg_frame.after ?_

theorem wrB_frame {a1 a2} : Frame { regs := true } s (State.wrB s a1 a2) := by
  unfold State.wrB
  with_reducible repeat' first | exact Frame.rfl | assumption | refine wr_frame.after ?_

theorem inc_frame {a1 a2} : Frame { regs := true } s (State.inc s a1 a2) := by
  unfold State.inc
  with_reducible repeat' first | exact Frame.rfl | assumption | refine wr_frame.after ?_

theorem raise_frame {a1 a2} : Frame { regs := true } s (State.raise s a1 a2) := by
  unfold State.raise
  with_reducible repeat' first | exact Frame.rfl | assumption | refine wr_frame.after ?_

theorem poisonWord_frame {a1} : Frame { poison := true } s (State.poisonWord s a1) := by
  unfold State.poisonWord
  with_reducible repeat' first | exact Frame.rfl

theorem setQueue_frame {a1 a2} : Frame { queues := true } s (State.setQueue s a1 a2) := by
  unfold State.setQueue
  with_reducible repeat' first | exact Frame.rfl

theorem markWaits_frame : Frame { queues := true } s (State.markWaits s) := by
  unfold State.markWaits
  with_reducible repeat' first | exact Frame.rfl

theorem memStore_frame {a1 a2} : Frame { queues := true, dram := true, poison := true } s (State.memStore s a1 a2) := by
  unfold State.memStore
  with_reducible repeat' first | exact Frame.rfl | assumption | refine markWaits_frame.after ?_ | refine pokeBytes_frame.after ?_

theorem hostGets_frame {a1} : Frame { latch := true } s (State.hostGets s a1) := by
  unfold State.hostGets
  with_reducible repeat' first | exact Frame.rfl

theorem msix_frame {a1} : Frame { msix := true } s (State.msix s a1) := by
  unfold State.msix
  with_reducible repeat' first | exact Frame.rfl | assumption | refine frame_ite ?_ ?_

/-- An event changes the event buffer, the event log and their numbers, and may be counted as dropped (R98, R99). -/
theorem event_cases (code source object status : Nat) (detail : List Byte) : ∃ buf log seq drops,
    s.event code source object status detail = { s with hif := { s.hif with evtBuf := buf, evtLog := log, evtSeq := seq, evtDrops := drops } } ∨
    s.event code source object status detail =
      { s with hif := { s.hif with evtBuf := buf, evtLog := log, evtSeq := seq, evtDrops := drops } }.inc EVT_DROPPED_COUNT := by
  unfold State.event
  generalize (65536 : Nat) = places
  extract_lets h r h'
  split
  · exact ⟨_, _, _, _, .inl rfl⟩
  · exact ⟨_, _, _, _, .inr rfl⟩

theorem event_frame {a1 a2 a3 a4 a5} : Frame { regs := true, events := true } s (s.event a1 a2 a3 a4 a5) := by
  obtain ⟨_, _, _, _, h | h⟩ := event_cases (s := s) a1 a2 a3 a4 a5 <;> rw [h]
  exact inc_frame.after Frame.rfl

theorem modThm_frame {a1} : Frame { thm := true } s (State.modThm s a1) := by
  unfold State.modThm
  with_reducible repeat' first | exact Frame.rfl

theorem modDom_frame {a1 a2} : Frame { thm := true } s (State.modDom s a1 a2) := by
  unfold State.modDom
  with_reducible repeat' first | exact Frame.rfl | assumption | refine modThm_frame.after ?_

theorem dropWindow_frame {a1} : Frame { thm := true } s (State.dropWindow s a1) := by
  unfold State.dropWindow
  with_reducible repeat' first | exact Frame.rfl | assumption | refine modDom_frame.after ?_

theorem partWindow_frame {a1} : Frame { thm := true } s (State.partWindow s a1) := by
  unfold State.partWindow
  with_reducible repeat' first | exact Frame.rfl | assumption | refine modDom_frame.after ?_

theorem setDmc_frame {a1 a2} : Frame { mem := true } s (State.setDmc s a1 a2) := by
  unfold State.setDmc
  with_reducible repeat' first | exact Frame.rfl

theorem setChan_frame {a1 a2 a3} : Frame { mem := true } s (State.setChan s a1 a2 a3) := by
  unfold State.setChan
  dsimp only
  with_reducible repeat' first | exact Frame.rfl | assumption | refine setDmc_frame.after ?_

theorem countTransfer_frame {a1 a2 a3 a4 a5} : Frame { mem := true } s (State.countTransfer s a1 a2 a3 a4 a5) := by
  unfold State.countTransfer
  dsimp only
  with_reducible repeat' first | exact Frame.rfl

theorem carry_frame {a1 a2 a3 a4 a5 a6} : Frame { mem := true } s (State.carry s a1 a2 a3 a4 a5 a6) := by
  unfold State.carry
  dsimp only
  with_reducible repeat' first | exact Frame.rfl | assumption | refine countTransfer_frame.after ?_ | refine transferWords_frame.after ?_

theorem noteTurn_frame {a1 a2} : Frame { mem := true } s (State.noteTurn s a1 a2) := by
  unfold State.noteTurn
  with_reducible repeat' first | exact Frame.rfl | assumption | refine frame_ite ?_ ?_

theorem cross_frame {a1 a2 a3 a4 a5 a6} : Frame { mem := true } s (State.cross s a1 a2 a3 a4 a5 a6) := by
  unfold State.cross
  with_reducible repeat' first | exact Frame.rfl | assumption | refine carry_frame.after ?_ | refine noteTurn_frame.after ?_

theorem afterAccess_frame {a1 a2 a3 a4} : Frame { mem := true } s (State.afterAccess s a1 a2 a3 a4) := by
  unfold State.afterAccess
  dsimp only
  with_reducible repeat' first | exact Frame.rfl | assumption | refine setChan_frame.after ?_ | refine frame_ite ?_ ?_

theorem passBurst_frame {a1 a2 a3 a4} : Frame { mem := true, watch := true } s (s.passBurst a1 a2 a3 a4) := by
  unfold State.passBurst
  dsimp only
  with_reducible repeat' first
    | exact Frame.rfl | assumption | refine afterAccess_frame.after ?_ | refine carry_frame.after ?_ | refine cross_frame.after ?_
    | refine noteTurn_frame.after ?_ | refine frame_foldl (fun _ _ _ => ?_) ?_ | refine frame_foldl_fst (fun _ _ _ => ?_) ?_
    | refine frame_ite ?_ ?_

theorem watched_frame : Frame { watch := true } s (State.watched s) := by
  unfold State.watched
  with_reducible repeat' first | exact Frame.rfl

theorem unwatched_frame : Frame { watch := true } s (State.unwatched s) := by
  unfold State.unwatched
  with_reducible repeat' first | exact Frame.rfl

theorem putCompletion_frame {a1 a2 a3 a4 a5 a6 a7} :
    Frame { regs := true, listEnds := true, msix := true, hostMem := true } s (s.putCompletion a1 a2 a3 a4 a5 a6 a7) := by
  unfold State.putCompletion
  dsimp only
  with_reducible repeat' first
    | exact Frame.rfl | assumption | refine hostWrite_frame.after ?_ | refine msix_frame.after ?_ | refine wr_frame.after ?_
    | refine frame_ite ?_ ?_

theorem endList_frame {a1 a2 a3} : Frame { regs := true, queues := true } s (State.endList s a1 a2 a3) := by
  unfold State.endList
  dsimp only
  with_reducible repeat' first
    | exact Frame.rfl | assumption | refine setQueue_frame.after ?_ | refine wr_frame.after ?_ | refine frame_ite ?_ ?_ | split

theorem cutRecs_frame {a1 a2} : Frame { queues := true, jobs := true } s (State.cutRecs s a1 a2) := by
  unfold State.cutRecs
  dsimp only
  with_reducible repeat' first | exact Frame.rfl | assumption | refine setQueue_frame.after ?_

theorem discardLists_frame {a1} : Frame { regs := true, queues := true } s (State.discardLists s a1) := by
  unfold State.discardLists
  dsimp only
  with_reducible repeat' first
    | exact Frame.rfl | assumption | refine setQueue_frame.after ?_ | refine wr_frame.after ?_ | refine frame_ite ?_ ?_

theorem retireOne_frame {a1 : Nat} :
    OptFrame { regs := true, queues := true, listEnds := true, msix := true, hostMem := true } s (s.retireOne a1) := by
  unfold State.retireOne
  dsimp only
  with_reducible repeat' first
    | exact Frame.rfl | exact optFrame_none | refine optFrame_some ?_ | refine optFrame_ite ?_ ?_ | refine frame_ite ?_ ?_
    | refine endList_frame.after ?_ | refine wr_frame.after ?_ | refine putCompletion_frame.after ?_ | refine setQueue_frame.after ?_
    | split

theorem retireLoop_frame {a0 a1} :
    Frame { regs := true, queues := true, listEnds := true, msix := true, hostMem := true } s (State.retireLoop a0 a1 s) := by
  induction a1 generalizing s with
  | zero => exact Frame.rfl
  | succ n ih =>
    unfold State.retireLoop
    split
    · exact Frame.rfl
    · have ht := retireOne_frame _ ‹_›
      split
      · exact ht
      · exact ih.trans ht

theorem retire_frame {a1} :
    Frame { regs := true, queues := true, listEnds := true, msix := true, hostMem := true } s (State.retire s a1) := by
  unfold State.retire
  dsimp only
  with_reducible repeat' first
    | exact Frame.rfl | assumption | refine discardLists_frame.after ?_ | refine retireLoop_frame.after ?_ | refine frame_ite ?_ ?_

theorem endRec_frame {a1 a2 a3} :
    Frame { regs := true, queues := true, listEnds := true, jobs := true, msix := true, hostMem := true } s (State.endRec s a1 a2 a3) := by
  unfold State.endRec
  dsimp only
  with_reducible repeat' first
    | exact Frame.rfl | assumption | refine cutRecs_frame.after ?_ | refine retire_frame.after ?_ | refine setQueue_frame.after ?_
    | refine wr_frame.after ?_ | refine frame_ite ?_ ?_ | split

theorem completeRec_frame {a1 a2 a3} :
    Frame { regs := true, queues := true, listEnds := true, jobs := true, msix := true,
            hostMem := true } s (State.completeRec s a1 a2 a3) := by
  unfold State.completeRec
  with_reducible repeat' first | exact Frame.rfl | assumption | refine endRec_frame.after ?_

theorem faultRec_frame {a1 a2 a3 a4 a5} :
    Frame { regs := true, queues := true, listEnds := true, jobs := true, msix := true,
            hostMem := true } s (State.faultRec s a1 a2 a3 a4 a5) := by
  unfold State.faultRec
  with_reducible repeat' first | exact Frame.rfl | assumption | refine endRec_frame.after ?_

theorem modRec_frame {a1 a2 a3} : Frame { queues := true } s (State.modRec s a1 a2 a3) := by
  unfold State.modRec
  dsimp only
  with_reducible repeat' first | exact Frame.rfl | assumption | refine setQueue_frame.after ?_

theorem runRec_frame {a1 a2} : Frame { queues := true, listStarts := true } s (State.runRec s a1 a2) := by
  unfold State.runRec
  dsimp only
  with_reducible repeat' first
    | exact Frame.rfl | assumption | refine modRec_frame.after ?_ | refine setQueue_frame.after ?_ | refine frame_ite ?_ ?_ | split

theorem fetchRecord_frame {a1} :
    Frame { regs := true, queues := true, listEnds := true, jobs := true, msix := true, hostMem := true } s (State.fetchRecord s a1) := by
  unfold State.fetchRecord
  dsimp only
  with_reducible repeat' first
    | exact Frame.rfl | assumption | refine faultRec_frame.after ?_ | refine setQueue_frame.after ?_ | refine wr_frame.after ?_
    | refine frame_ite ?_ ?_ | split

theorem violation_frame {a1 a2 a3} : Frame { regs := true, mem := true, events := true } s (State.violation s a1 a2 a3) := by
  unfold State.violation
  dsimp only
  with_reducible repeat' first
    | exact Frame.rfl | assumption | refine event_frame.after ?_ | refine inc_frame.after ?_ | refine frame_ite ?_ ?_

theorem logDram_frame {a1 a2 a3 a4 a5 a6 a7 a8 a9} :
    Frame { regs := true, events := true } s (State.logDram s a1 a2 a3 a4 a5 a6 a7 a8 a9) := by
  unfold State.logDram
  dsimp only
  with_reducible repeat' first
    | exact Frame.rfl | assumption | refine event_frame.after ?_ | refine inc_frame.after ?_ | refine wr_frame.after ?_
    | refine frame_foldl (fun _ _ _ => ?_) ?_ | refine frame_foldl_fst (fun _ _ _ => ?_) ?_ | refine frame_ite ?_ ?_

theorem findWord_frame {a1 a2 a3} :
    Frame { regs := true, poison := true, inputs := true, events := true } s (State.findWord s a1 a2 a3) := by
  unfold State.findWord
  dsimp only
  with_reducible repeat' first
    | exact Frame.rfl | assumption | refine inc_frame.after ?_ | refine logDram_frame.after ?_ | refine poisonWord_frame.after ?_
    | refine frame_ite ?_ ?_

theorem findSpan_frame {a1 a2 a3} :
    Frame { regs := true, poison := true, inputs := true, events := true } s (State.findSpan s a1 a2 a3) := by
  unfold State.findSpan
  with_reducible repeat' first
    | exact Frame.rfl | assumption | refine findWord_frame.after ?_ | refine frame_foldl (fun _ _ _ => ?_) ?_
    | refine frame_foldl_fst (fun _ _ _ => ?_) ?_ | refine frame_ite ?_ ?_

theorem passRequest_frame {a1 a2 a3 a4} :
    Frame { regs := true, mem := true, watch := true, events := true } s (State.passRequest s a1 a2 a3 a4) := by
  unfold State.passRequest
  with_reducible repeat' first
    | exact Frame.rfl | assumption | refine passBurst_frame.after ?_ | refine violation_frame.after ?_ | refine frame_ite ?_ ?_

theorem passSpan_frame {a1 a2 a3 a4} :
    Frame { regs := true, mem := true, watch := true, events := true } s (State.passSpan s a1 a2 a3 a4) := by
  unfold State.passSpan
  with_reducible repeat' first | exact Frame.rfl | assumption | refine passRequest_frame.after ?_ | refine frame_foldl (fun _ _ _ => ?_) ?_

theorem devLoad_frame {a1 a2 a3} :
    Frame { regs := true, poison := true, mem := true, inputs := true, watch := true, events := true } s (State.devLoad s a1 a2 a3).1 := by
  unfold State.devLoad
  dsimp only
  with_reducible repeat' first | exact Frame.rfl | assumption | refine findSpan_frame.after ?_ | refine passSpan_frame.after ?_

theorem storeSpan_frame {a1 a2 a3} :
    Frame { regs := true, dram := true, poison := true, mem := true, inputs := true, watch := true,
            events := true } s (State.storeSpan s a1 a2 a3) := by
  unfold State.storeSpan
  dsimp only
  with_reducible repeat' first
    | exact Frame.rfl | assumption | refine findWord_frame.after ?_ | refine passRequest_frame.after ?_ | refine pokeBytes_frame.after ?_
    | refine frame_foldl (fun _ _ _ => ?_) ?_ | refine frame_foldl_fst (fun _ _ _ => ?_) ?_ | refine frame_ite ?_ ?_

theorem devStore_frame {a1 a2 a3} :
    Frame { regs := true, queues := true, dram := true, poison := true, mem := true, inputs := true, watch := true,
            events := true } s (State.devStore s a1 a2 a3).1 := by
  unfold State.devStore
  with_reducible repeat' first | exact Frame.rfl | assumption | refine markWaits_frame.after ?_ | refine storeSpan_frame.after ?_

theorem objLoad_frame {a1 a2 a3 a4} :
    Frame { regs := true, poison := true, mem := true, inputs := true, watch := true,
            events := true } s (State.objLoad s a1 a2 a3 a4).1 := by
  unfold State.objLoad
  with_reducible repeat' first | exact Frame.rfl | assumption | refine devLoad_frame.after ?_

theorem objStore_frame {a1 a2 a3 a4} :
    Frame { regs := true, queues := true, dram := true, poison := true, mem := true, inputs := true, watch := true,
            events := true } s (State.objStore s a1 a2 a3 a4).1 := by
  unfold State.objStore
  with_reducible repeat' first | exact Frame.rfl | assumption | refine devStore_frame.after ?_

theorem undefine_frame {a1 a2} : Frame { free := true, queues := true, dram := true, poison := true } s (State.undefine s a1 a2) := by
  unfold State.undefine
  with_reducible repeat' first | exact Frame.rfl | assumption | refine draw_frame.after ?_ | refine memStore_frame.after ?_

theorem setPage_frame {a1 a2} :
    Frame { regs := true, dram := true, poison := true, honey := true, mem := true, watch := true,
            events := true } s (State.setPage s a1 a2) := by
  unfold State.setPage
  dsimp only
  with_reducible repeat' first
    | exact Frame.rfl | assumption | refine passSpan_frame.after ?_ | refine pokeBytes_frame.after ?_ | refine frame_ite ?_ ?_ | split

theorem honeyTick_frame : Frame { honey := true } s (State.honeyTick s) := by
  unfold State.honeyTick
  with_reducible repeat' first | exact Frame.rfl

theorem readEntries_frame {a1 a2 a3 a4} :
    Frame { regs := true, mem := true, watch := true, events := true } s (State.readEntries s a1 a2 a3 a4) := by
  unfold State.readEntries
  with_reducible repeat' first | exact Frame.rfl | assumption | refine passSpan_frame.after ?_

theorem setListEntry_frame {a1 a2 a3 a4} :
    Frame { regs := true, queues := true, dram := true, poison := true, mem := true, inputs := true, watch := true,
            events := true } s (State.setListEntry s a1 a2 a3 a4) := by
  unfold State.setListEntry
  with_reducible repeat' first | exact Frame.rfl | assumption | refine devStore_frame.after ?_

theorem setSeq_frame {a1 a2 a3} : Frame { brood := true } s (State.setSeq s a1 a2 a3) := by
  unfold State.setSeq
  with_reducible repeat' first | exact Frame.rfl | assumption | refine frame_ite ?_ ?_

theorem freePage_frame {a1} :
    Frame { regs := true, dram := true, poison := true, honey := true, mem := true, watch := true,
            events := true } s (State.freePage s a1) := by
  unfold State.freePage
  dsimp only
  with_reducible repeat' first | exact Frame.rfl | assumption | refine honeyTick_frame.after ?_ | refine setPage_frame.after ?_

theorem unrefPage_frame {a1} :
    Frame { regs := true, dram := true, poison := true, honey := true, mem := true, watch := true,
            events := true } s (State.unrefPage s a1) := by
  unfold State.unrefPage
  dsimp only
  with_reducible repeat' first
    | exact Frame.rfl | assumption | refine freePage_frame.after ?_ | refine setPage_frame.after ?_ | refine frame_ite ?_ ?_

theorem finishSeq_frame {a1 a2 a3 a4} :
    Frame { regs := true, queues := true, dram := true, poison := true, honey := true, brood := true, mem := true, inputs := true,
            watch := true, events := true } s (State.finishSeq s a1 a2 a3 a4) := by
  unfold State.finishSeq
  dsimp only
  with_reducible repeat' first
    | exact Frame.rfl | assumption | refine readEntries_frame.after ?_ | refine setListEntry_frame.after ?_ | refine setSeq_frame.after ?_
    | refine unrefPage_frame.after ?_ | refine frame_foldl (fun _ _ _ => ?_) ?_ | refine frame_foldl_fst (fun _ _ _ => ?_) ?_
    | refine frame_ite ?_ ?_

theorem pinSeq_frame {a1 a2 a3 a4} :
    Frame { regs := true, dram := true, poison := true, honey := true, brood := true, mem := true, watch := true,
            events := true } s (State.pinSeq s a1 a2 a3 a4) := by
  unfold State.pinSeq
  dsimp only
  with_reducible repeat' first
    | exact Frame.rfl | assumption | refine setPage_frame.after ?_ | refine setSeq_frame.after ?_ | refine frame_foldl (fun _ _ _ => ?_) ?_

theorem sharePages_frame {a1 a2 a3} :
    Frame { regs := true, dram := true, poison := true, honey := true, mem := true, watch := true, events := true } s (s.sharePages a1 a2 a3).1 := by
  induction a2 generalizing s a3 with
  | zero => exact Frame.rfl
  | succ n ih =>
    unfold State.sharePages
    extract_lets i e p undo
    have hundo : ∀ st, Frame { regs := true, dram := true, poison := true, honey := true, mem := true, watch := true, events := true } s (undo st).1 := fun st =>
      frame_foldl (fun _ _ h => setPage_frame.after h) Frame.rfl
    split
    · exact hundo _
    · split
      · exact hundo _
      · exact ih.trans setPage_frame

end Sys2Proof.Proofs
end

section
/-! The footprints of combs, loops, ports' outputs, link traffic, fusion intake and the waggle messages. -/
namespace Sys2Proof.Proofs
open Sys2Proof Sys2Proof.Machine Sys2Proof.Laws

-- Each proof cites those before it, so they are checked one after another.
set_option Elab.async false

variable {C D : Footprint} {s s0 t u : State}

theorem setComb_frame {a1 a2} : Frame { combs := true } s (State.setComb s a1 a2) := by
  unfold State.setComb
  with_reducible repeat' first | exact Frame.rfl

theorem modComb_frame {a1 a2} : Frame { combs := true } s (State.modComb s a1 a2) := by
  unfold State.modComb
  with_reducible repeat' first | exact Frame.rfl | assumption | refine setComb_frame.after ?_

theorem modPwr_frame {a1} : Frame { pwr := true } s (State.modPwr s a1) := by
  unfold State.modPwr
  with_reducible repeat' first | exact Frame.rfl

theorem setJob_frame {a1 a2} : Frame { jobs := true } s (State.setJob s a1 a2) := by
  unfold State.setJob
  with_reducible repeat' first | exact Frame.rfl

theorem seqOp_frame {a1 a2 a3} :
    Frame { regs := true, queues := true, dram := true, poison := true, honey := true, brood := true, mem := true, inputs := true,
            watch := true, events := true } s (State.seqOp s a1 a2 a3).1 := by
  unfold State.seqOp
  with_reducible repeat' first
    | exact Frame.rfl | assumption | refine finishSeq_frame.after ?_ | refine pinSeq_frame.after ?_ | refine setSeq_frame.after ?_
    | refine frame_ite ?_ ?_ | refine frame_ite_fst ?_ ?_ | split

theorem undefineFor_frame {a1 a2 a3} :
    Frame { free := true, queues := true, dram := true, poison := true } s (State.undefineFor s a1 a2 a3) := by
  unfold State.undefineFor
  with_reducible repeat' first | exact Frame.rfl | assumption | refine undefine_frame.after ?_ | refine frame_ite ?_ ?_

theorem setLoop_frame {a1 a2} : Frame { ctl := true } s (State.setLoop s a1 a2) := by
  unfold State.setLoop
  with_reducible repeat' first | exact Frame.rfl

theorem feedSample_frame {a1 a2 a3} : Frame { regs := true, ctl := true } s (State.feedSample s a1 a2 a3) := by
  unfold State.feedSample
  dsimp only
  with_reducible repeat' first
    | exact Frame.rfl | assumption | refine inc_frame.after ?_ | refine setLoop_frame.after ?_ | refine frame_ite ?_ ?_

theorem offerFeedback_frame {a1 a2 a3 a4 a5 a6 a7} :
    Frame { regs := true, ctl := true } s (State.offerFeedback s a1 a2 a3 a4 a5 a6 a7) := by
  unfold State.offerFeedback
  dsimp only
  with_reducible repeat' first
    | exact Frame.rfl | assumption | refine feedSample_frame.after ?_ | refine inc_frame.after ?_ | refine frame_ite ?_ ?_ | split

theorem controlSpi_frame {a1 a2 a3 a4} : Frame { regs := true, ctl := true } s (State.controlSpi s a1 a2 a3 a4) := by
  unfold State.controlSpi
  with_reducible repeat' first
    | exact Frame.rfl | assumption | refine offerFeedback_frame.after ?_ | refine frame_foldl (fun _ _ _ => ?_) ?_

theorem controlGpio_frame {a1 a2 a3} : Frame { regs := true, ctl := true } s (State.controlGpio s a1 a2 a3) := by
  unfold State.controlGpio
  dsimp only
  with_reducible repeat' first
    | exact Frame.rfl | assumption | refine feedSample_frame.after ?_ | refine frame_foldl (fun _ _ _ => ?_) ?_
    | refine frame_foldl_fst (fun _ _ _ => ?_) ?_ | refine frame_ite ?_ ?_

theorem deliverTraj_frame {a1 a2} : Frame { ctl := true } s (State.deliverTraj s a1 a2) := by
  unfold State.deliverTraj
  with_reducible repeat' first | exact Frame.rfl

theorem putCan_frame {a1 a2 a3} : Frame { ports := true } s (State.putCan s a1 a2 a3) := by
  unfold State.putCan
  with_reducible repeat' first | exact Frame.rfl | assumption | refine frame_ite ?_ ?_

theorem sendOut_frame {a1 a2} : Frame { regs := true, ports := true } s (State.sendOut s a1 a2) := by
  unfold State.sendOut
  dsimp only
  with_reducible repeat' first
    | exact Frame.rfl | assumption | refine inc_frame.after ?_ | refine putCan_frame.after ?_ | refine frame_ite ?_ ?_

theorem stopLoop_frame {a1 a2} : Frame { regs := true, ctl := true } s (State.stopLoop s a1 a2) := by
  unfold State.stopLoop
  with_reducible repeat' first | exact Frame.rfl | assumption | refine setLoop_frame.after ?_ | refine wr_frame.after ?_

theorem cvBind_frame {a1} : Frame { cv := true } s (State.cvBind s a1) := by
  unfold State.cvBind
  with_reducible repeat' first | exact Frame.rfl | assumption | split

theorem setCvUnit_frame {a1 a2 a3 a4} : Frame { regs := true, cv := true } s (State.setCvUnit s a1 a2 a3 a4) := by
  unfold State.setCvUnit
  with_reducible repeat' first | exact Frame.rfl | assumption | refine wr_frame.after ?_ | refine wrB_frame.after ?_

theorem setCvChan_frame {a1 a2} : Frame { regs := true, cv := true } s (State.setCvChan s a1 a2) := by
  unfold State.setCvChan
  dsimp only
  with_reducible repeat' first | exact Frame.rfl | assumption | refine wr_frame.after ?_ | refine wrB_frame.after ?_

theorem checkItem_frame {a1 a2 a3} : Frame { regs := true } s (State.checkItem s a1 a2 a3).1 := by
  unfold State.checkItem
  with_reducible repeat' first
    | exact Frame.rfl | assumption | refine inc_frame.after ?_ | refine frame_ite ?_ ?_ | refine frame_ite_fst ?_ ?_ | split

theorem demandDie_frame {a1} : Frame { pwr := true } s (State.demandDie s a1) := by
  unfold State.demandDie
  with_reducible repeat' first | exact Frame.rfl | assumption | refine frame_ite ?_ ?_

theorem showRamp_frame {a1} : Frame { regs := true } s (State.showRamp s a1) := by
  unfold State.showRamp
  dsimp only
  with_reducible repeat' first | exact Frame.rfl | assumption | refine wrB_frame.after ?_ | refine frame_ite ?_ ?_

theorem setStep_frame {a1 a2} : Frame { brood := true } s (State.setStep s a1 a2) := by
  unfold State.setStep
  with_reducible repeat' first | exact Frame.rfl

theorem useSched_frame {a1} : Frame { thm := true } s (State.useSched s a1) := by
  unfold State.useSched
  with_reducible repeat' first | exact Frame.rfl

theorem failDramDie_frame {a1} : Frame { mem := true } s (State.failDramDie s a1) := by
  unfold State.failDramDie
  dsimp only
  with_reducible repeat' first | exact Frame.rfl

theorem showMixed_frame : Frame { regs := true } s (State.showMixed s) := by
  unfold State.showMixed
  dsimp only
  with_reducible repeat' first | exact Frame.rfl | assumption | refine wrB_frame.after ?_

theorem markExcluded_frame {a1} : Frame { regs := true, mem := true, thm := true } s (State.markExcluded s a1) := by
  unfold State.markExcluded
  with_reducible repeat' first
    | exact Frame.rfl | assumption | refine failDramDie_frame.after ?_ | refine showMixed_frame.after ?_ | refine useSched_frame.after ?_
    | refine wr_frame.after ?_

theorem modIslB_frame {a1} : Frame { saf := true } s (State.modIslB s a1) := by
  unfold State.modIslB
  with_reducible repeat' first | exact Frame.rfl

theorem modIslA_frame {a1} : Frame { saf := true } s (State.modIslA s a1) := by
  unfold State.modIslA
  with_reducible repeat' first | exact Frame.rfl

theorem holdAge_frame : Frame { regs := true } s (State.holdAge s) := by
  unfold State.holdAge
  with_reducible repeat' first | exact Frame.rfl | assumption | refine wr_frame.after ?_ | refine frame_ite ?_ ?_

theorem writeDbg_frame {a1 a2 a3 a4} : Frame { regs := true, combs := true } s (State.writeDbg s a1 a2 a3 a4) := by
  unfold State.writeDbg
  dsimp only
  with_reducible repeat' first
    | exact Frame.rfl | assumption | refine modComb_frame.after ?_ | refine wr_frame.after ?_ | refine wrB_frame.after ?_
    | refine frame_ite ?_ ?_

theorem execCombDebugHalt_frame {a0} : OutFrame { regs := true, combs := true } s (execCombDebugHalt a0 s) := by
  unfold execCombDebugHalt
  with_reducible repeat' first | exact Frame.rfl | assumption | refine outFrame_next ?_ | refine writeDbg_frame.after ?_

theorem execCombDebugRelease_frame {a0} : OutFrame { regs := true, combs := true } s (execCombDebugRelease a0 s) := by
  unfold execCombDebugRelease
  with_reducible repeat' first | exact Frame.rfl | assumption | refine outFrame_next ?_ | refine writeDbg_frame.after ?_

theorem execCombDebugStep_frame {a0} : OutFrame { regs := true, combs := true } s (execCombDebugStep a0 s) := by
  unfold execCombDebugStep
  with_reducible repeat' first | exact Frame.rfl | assumption | refine outFrame_next ?_ | refine writeDbg_frame.after ?_

theorem clearHolds_frame {a1} : Frame { regs := true } s (State.clearHolds s a1) := by
  unfold State.clearHolds
  dsimp only
  with_reducible repeat' first | exact Frame.rfl | assumption | refine wr_frame.after ?_ | refine frame_foldl (fun _ _ _ => ?_) ?_

theorem execCombClearCounters_frame {a0} : OutFrame { regs := true } s (execCombClearCounters a0 s) := by
  unfold execCombClearCounters
  with_reducible repeat' first
    | exact Frame.rfl | assumption | refine outFrame_next ?_ | refine clearHolds_frame.after ?_ | refine frame_ite ?_ ?_

theorem startSpdRead_frame {a1} : Frame { regs := true, spdRead := true } s (State.startSpdRead s a1) := by
  unfold State.startSpdRead
  dsimp only
  with_reducible repeat' first | exact Frame.rfl | assumption | refine wr_frame.after ?_ | refine frame_ite ?_ ?_

theorem execScratchpadDebugRead_frame {a0} : OutFrame { regs := true, spdRead := true } s (execScratchpadDebugRead a0 s) := by
  unfold execScratchpadDebugRead
  with_reducible repeat' first | exact Frame.rfl | assumption | refine outFrame_next ?_ | refine startSpdRead_frame.after ?_

theorem execScratchpadDebugReadDone_frame {a0} : OutFrame { regs := true, spdRead := true } s (execScratchpadDebugReadDone a0 s) := by
  unfold execScratchpadDebugReadDone
  dsimp only
  with_reducible repeat' first
    | exact Frame.rfl | assumption | refine outFrame_next ?_ | refine wr_frame.after ?_ | refine wrB_frame.after ?_
    | refine frame_foldl (fun _ _ _ => ?_) ?_ | refine frame_foldl_fst (fun _ _ _ => ?_) ?_ | split

/-- A record's effect, after what `runOp` itself does. -/
theorem runOp_frame {d op sel check eff}
    (heff : ∀ t r, Frame C s0 t → Frame C s0 (eff t r)) (h : Frame C s0 s)
    (hC : Footprint.le { regs := true, queues := true, listEnds := true, listStarts := true, jobs := true,
                         msix := true, hostMem := true } C = true := by decide) :
    Frame C s0 (s.runOp d op sel check eff) := by
  unfold State.runOp
  dsimp only
  split
  · exact h
  · split
    · exact wr_frame.mono.after h hC
    · split
      · exact faultRec_frame.mono.after h hC
      · exact heff _ _ (runRec_frame.mono.after h hC)

theorem checkReads_frame {d op sel reads} (hreads : ∀ t r, Frame C s0 t → Frame C s0 (reads t r)) (h : Frame C s0 s) :
    Frame C s0 (s.checkReads d op sel reads) := by
  unfold State.checkReads
  split
  · exact h
  · exact frame_ite (hreads _ _ h) h

theorem loopSet_frame {a1} :
    Frame { regs := true, queues := true, listEnds := true, listStarts := true, poison := true, jobs := true, mem := true, ctl := true,
            inputs := true, watch := true, msix := true, hostMem := true, events := true } s (State.loopSet s a1) := by
  unfold State.loopSet
  dsimp only
  with_reducible repeat' first
    | exact Frame.rfl | assumption | refine completeRec_frame.after ?_ | refine faultRec_frame.after ?_ | refine objLoad_frame.after ?_
    | refine runRec_frame.after ?_ | refine setLoop_frame.after ?_ | refine wr_frame.after ?_ | refine frame_ite ?_ ?_ | split

theorem enableLoop_frame {a1} : Frame { regs := true, ctl := true } s (State.enableLoop s a1) := by
  unfold State.enableLoop
  dsimp only
  with_reducible repeat' first
    | exact Frame.rfl | assumption | refine setLoop_frame.after ?_ | refine wr_frame.after ?_ | refine frame_ite ?_ ?_

theorem disableLoop_frame {a1} : Frame { regs := true, ports := true, ctl := true } s (State.disableLoop s a1) := by
  unfold State.disableLoop
  with_reducible repeat' first
    | exact Frame.rfl | assumption | refine sendOut_frame.after ?_ | refine stopLoop_frame.after ?_ | refine frame_ite ?_ ?_

theorem loopCtl_frame {f : State → Nat → State} {d r}
    (hf : ∀ t x, Frame C s0 t → Frame C s0 (f t x)) (h : Frame C s0 s)
    (hC : Footprint.le { regs := true, queues := true, listEnds := true, jobs := true, msix := true, hostMem := true } C = true := by decide) :
    Frame C s0 (State.loopCtl f d s r) :=
  completeRec_frame.mono.after (frame_foldl hf h) hC

theorem trajLoad_frame {a1} :
    Frame { regs := true, queues := true, listEnds := true, listStarts := true, poison := true, jobs := true, mem := true, ctl := true,
            inputs := true, watch := true, msix := true, hostMem := true, events := true } s (State.trajLoad s a1) := by
  unfold State.trajLoad
  dsimp only
  with_reducible repeat' first
    | exact Frame.rfl | assumption | refine completeRec_frame.after ?_ | refine deliverTraj_frame.after ?_ | refine faultRec_frame.after ?_
    | refine objLoad_frame.after ?_ | refine runRec_frame.after ?_ | refine wr_frame.after ?_ | refine frame_ite ?_ ?_ | split

theorem setEntry_frame {a1 a2} : Frame { ports := true } s (State.setEntry s a1 a2) := by
  unfold State.setEntry
  with_reducible repeat' first | exact Frame.rfl

theorem dropItem_frame {a1} : Frame { ports := true } s (State.dropItem s a1) := by
  unfold State.dropItem
  dsimp only
  with_reducible repeat' first | exact Frame.rfl | assumption | refine setEntry_frame.after ?_

theorem heard_frame {a1} : Frame { ports := true } s (State.heard s a1) := by
  unfold State.heard
  with_reducible repeat' first | exact Frame.rfl

theorem deliver_frame {a1 a2} : Frame { ports := true, fus := true } s (State.deliver s a1 a2) := by
  unfold State.deliver
  dsimp only
  with_reducible repeat' first
    | exact Frame.rfl | assumption | refine dropItem_frame.after ?_ | refine setEntry_frame.after ?_ | refine frame_ite ?_ ?_

theorem windowRead_frame {a1 a2} :
    Frame { regs := true, poison := true, mem := true, inputs := true, watch := true, latch := true,
            events := true } s (State.windowRead s a1 a2) := by
  unfold State.windowRead
  dsimp only
  with_reducible repeat' first
    | exact Frame.rfl | assumption | refine findSpan_frame.after ?_ | refine hostGets_frame.after ?_ | refine passSpan_frame.after ?_
    | refine wr_frame.after ?_ | refine frame_ite ?_ ?_

theorem windowWrite_frame {a1 a2} :
    Frame { regs := true, queues := true, dram := true, poison := true, mem := true, watch := true,
            events := true } s (State.windowWrite s a1 a2) := by
  unfold State.windowWrite
  dsimp only
  with_reducible repeat' first
    | exact Frame.rfl | assumption | refine memStore_frame.after ?_ | refine passSpan_frame.after ?_ | refine wr_frame.after ?_
    | refine frame_ite ?_ ?_

theorem windowAccess_frame {a1} :
    Frame { regs := true, queues := true, dram := true, poison := true, mem := true, inputs := true, watch := true, latch := true,
            events := true } s (State.windowAccess s a1) := by
  unfold State.windowAccess
  with_reducible repeat' first
    | exact Frame.rfl | assumption | refine windowRead_frame.after ?_ | refine windowWrite_frame.after ?_ | split

theorem hostAccess_frame {a1} :
    Frame { regs := true, queues := true, dram := true, poison := true, mem := true, inputs := true, watch := true, winHeld := true,
            latch := true, events := true } s (State.hostAccess s a1) := by
  unfold State.hostAccess
  dsimp only
  with_reducible repeat' first
    | exact Frame.rfl | assumption | refine unwatched_frame.after ?_ | refine watched_frame.after ?_ | refine windowAccess_frame.after ?_
    | refine frame_ite ?_ ?_

theorem replayHost_frame :
    Frame { regs := true, queues := true, dram := true, poison := true, mem := true, inputs := true, watch := true, winHeld := true,
            latch := true, events := true } s (State.replayHost s) := by
  unfold State.replayHost
  with_reducible repeat' first | exact Frame.rfl | assumption | refine hostAccess_frame.after ?_ | refine frame_foldl (fun _ _ _ => ?_) ?_

theorem passPorts_frame {a1 a2 a3} : Frame { mem := true } s (s.passPorts a1 a2 a3).1 := by
  induction a3 generalizing s with
  | nil => exact Frame.rfl
  | cons p l ih =>
    unfold State.passPorts
    split
    · exact Frame.rfl
    · exact ih.trans cross_frame

theorem netWait_frame {a1} : Frame { mem := true } s (State.netWait s a1) := by
  unfold State.netWait
  with_reducible repeat' first | exact Frame.rfl

theorem dramResp_frame {a1} : Frame { mem := true } s (State.dramResp s a1) := by
  unfold State.dramResp
  with_reducible repeat' first | exact Frame.rfl

theorem sendResp_frame {a1 a2 a3} : Frame { mem := true } s (State.sendResp s a1 a2 a3) := by
  unfold State.sendResp
  with_reducible repeat' first
    | exact Frame.rfl | assumption | refine dramResp_frame.after ?_ | refine netWait_frame.after ?_ | refine passPorts_frame.after ?_
    | split | refine frame_fst ?_ (by assumption)

theorem respond_frame {a1 a2 a3 a4} : Frame { mem := true } s (State.respond s a1 a2 a3 a4) := by
  unfold State.respond
  dsimp only
  with_reducible repeat' first | exact Frame.rfl | assumption | refine sendResp_frame.after ?_

theorem writeWord_frame {a1 a2 a3 a4} : Frame { dram := true, poison := true } s (State.writeWord s a1 a2 a3 a4) := by
  unfold State.writeWord
  dsimp only
  with_reducible repeat' first
    | exact Frame.rfl | assumption | refine poisonWord_frame.after ?_ | refine pokeByte_frame.after ?_ | refine zeroRange_frame.after ?_
    | refine frame_foldl (fun _ _ _ => ?_) ?_ | refine frame_foldl_fst (fun _ _ _ => ?_) ?_ | refine frame_ite ?_ ?_

theorem applyAt_frame {a1 a2} : Frame { dram := true, poison := true } s (State.applyAt s a1 a2) := by
  unfold State.applyAt
  dsimp only
  with_reducible repeat' first
    | exact Frame.rfl | assumption | refine pokeBytes_frame.after ?_ | refine writeWord_frame.after ?_ | refine frame_ite ?_ ?_

theorem applyWrite_frame {a1} : Frame { dram := true, poison := true } s (State.applyWrite s a1) := by
  unfold State.applyWrite
  with_reducible repeat' first | exact Frame.rfl | assumption | refine applyAt_frame.after ?_ | refine frame_foldl (fun _ _ _ => ?_) ?_

theorem drainMode_frame {a1 a2} : Frame { regs := true, mem := true } s (State.drainMode s a1 a2) := by
  unfold State.drainMode
  dsimp only
  with_reducible repeat' first
    | exact Frame.rfl | assumption | refine inc_frame.after ?_ | refine setChan_frame.after ?_ | refine frame_ite ?_ ?_

theorem enterQueue_frame {a1 a2 a3} :
    Frame { regs := true, queues := true, dram := true, poison := true, mem := true } s (State.enterQueue s a1 a2 a3) := by
  unfold State.enterQueue
  dsimp only
  with_reducible repeat' first
    | exact Frame.rfl | assumption | refine applyWrite_frame.after ?_ | refine drainMode_frame.after ?_ | refine markWaits_frame.after ?_
    | refine respond_frame.after ?_ | refine setChan_frame.after ?_ | refine frame_ite ?_ ?_

theorem arrive_frame {a1} :
    Frame { regs := true, queues := true, dram := true, poison := true, mem := true, events := true } s (State.arrive s a1) := by
  unfold State.arrive
  dsimp only
  with_reducible repeat' first
    | exact Frame.rfl | assumption | refine enterQueue_frame.after ?_ | refine netWait_frame.after ?_ | refine respond_frame.after ?_
    | refine violation_frame.after ?_ | refine frame_ite ?_ ?_

theorem goOn_frame {a1 a2} :
    Frame { regs := true, queues := true, dram := true, poison := true, mem := true, events := true } s (State.goOn s a1 a2) := by
  unfold State.goOn
  with_reducible repeat' first
    | exact Frame.rfl | assumption | refine arrive_frame.after ?_ | refine netWait_frame.after ?_ | refine passPorts_frame.after ?_
    | refine sendResp_frame.after ?_ | refine frame_ite ?_ ?_ | split | refine frame_fst ?_ (by assumption)

theorem netTake_frame {a1} : Frame { mem := true } s (State.netTake s a1) := by
  unfold State.netTake
  with_reducible repeat' first | exact Frame.rfl

theorem drainPort_frame {a1 a2} :
    Frame { regs := true, queues := true, dram := true, poison := true, mem := true, events := true } s (s.drainPort a1 a2) := by
  induction a2 generalizing s with
  | zero => exact Frame.rfl
  | succ n ih =>
    unfold State.drainPort
    split
    · exact Frame.rfl
    · exact ih.trans (goOn_frame.after (netTake_frame.mono))

theorem resumeLink_frame {a1} :
    Frame { regs := true, queues := true, dram := true, poison := true, mem := true, inputs := true, watch := true, winHeld := true,
            latch := true, events := true } s (State.resumeLink s a1) := by
  unfold State.resumeLink
  with_reducible repeat' first | exact Frame.rfl | assumption | refine drainPort_frame.after ?_ | refine replayHost_frame.after ?_

theorem failLink_frame {a1} :
    Frame { regs := true, queues := true, dram := true, poison := true, mem := true, inputs := true, watch := true, winHeld := true,
            latch := true, events := true } s (State.failLink s a1) := by
  unfold State.failLink
  dsimp only
  with_reducible repeat' first
    | exact Frame.rfl | assumption | refine dramResp_frame.after ?_ | refine goOn_frame.after ?_ | refine replayHost_frame.after ?_
    | refine frame_foldl (fun _ _ _ => ?_) ?_ | refine frame_foldl_fst (fun _ _ _ => ?_) ?_ | refine frame_ite ?_ ?_

theorem modPkg_frame {a1} : Frame { inputs := true, watch := true, winHeld := true, package := true } s (State.modPkg s a1) := by
  unfold State.modPkg
  with_reducible repeat' first | exact Frame.rfl

theorem linkEvent_frame {a1 a2 a3} : Frame { regs := true, events := true } s (State.linkEvent s a1 a2 a3) := by
  unfold State.linkEvent
  with_reducible repeat' first | exact Frame.rfl | assumption | refine event_frame.after ?_

theorem linkDown_frame {a1} : Frame { regs := true } s (State.linkDown s a1) := by
  unfold State.linkDown
  with_reducible repeat' first | exact Frame.rfl | assumption | refine wr_frame.after ?_

theorem waitNs_frame {a1} : Frame { tclk := true, regs := true, jobs := true, saf := true, thm := true } s (State.waitNs s a1) := by
  unfold State.waitNs
  with_reducible repeat' first | exact Frame.rfl | assumption | refine elapse_frame.after ?_

theorem countLate_frame {a1 a2} : Frame { regs := true, fus := true } s (State.countLate s a1 a2) := by
  unfold State.countLate
  dsimp only
  with_reducible repeat' first | exact Frame.rfl | assumption | refine inc_frame.after ?_

theorem countDrop_frame {a1 a2} : Frame { regs := true, fus := true } s (State.countDrop s a1 a2) := by
  unfold State.countDrop
  dsimp only
  with_reducible repeat' first | exact Frame.rfl | assumption | refine inc_frame.after ?_

theorem discardOpen_frame : Frame { regs := true, fus := true } s (State.discardOpen s) := by
  unfold State.discardOpen
  dsimp only
  with_reducible repeat' first
    | exact Frame.rfl | assumption | refine countDrop_frame.after ?_ | refine frame_foldl (fun _ _ _ => ?_) ?_
    | refine frame_foldl_fst (fun _ _ _ => ?_) ?_ | refine frame_ite ?_ ?_

theorem dropSlot_frame {a1} : Frame { regs := true, fus := true } s (State.dropSlot s a1) := by
  unfold State.dropSlot
  dsimp only
  with_reducible repeat' first | exact Frame.rfl | assumption | refine countDrop_frame.after ?_ | refine frame_foldl (fun _ _ _ => ?_) ?_

/-- A lidar packet is dropped, in whole or in part, or taken in (R358). -/
theorem takePacket_cases (x : Nectar) : s.takePacket x = s ∨ (∃ slot n, s.takePacket x = s.countDrop slot n) ∨
    ∃ slot n late f g early, s.takePacket x = { ((s.countDrop slot n).countLate slot late).inc f early with fus := g } := by
  unfold State.takePacket
  generalize (800000 : Nat) = points
  generalize (1250000 : Nat) = ticks
  split
  · exact .inl rfl
  · dsimp only
    split
    · exact .inr (.inl ⟨_, _, rfl⟩)
    · split
      · exact .inr (.inl ⟨_, _, rfl⟩)
      · split
        · exact .inr (.inl ⟨_, _, rfl⟩)
        · exact .inr (.inr ⟨_, _, _, _, _, _, rfl⟩)

theorem takePacket_frame {a1} : Frame { regs := true, fus := true } s (s.takePacket a1) := by
  have hdrop : ∀ {slot n}, Frame { regs := true, fus := true } s (s.countDrop slot n) := countDrop_frame.mono
  rcases takePacket_cases (s := s) a1 with h | ⟨_, _, h⟩ | ⟨_, _, _, _, _, _, h⟩ <;> rw [h]
  · exact hdrop
  · exact frame_fus (inc_frame.after (countLate_frame.after hdrop))

/-- A camera frame is dropped or counted, or taken in (R358). -/
theorem takeFrame_cases (x : Nectar) : s.takeFrame x = s ∨ (∃ slot n, s.takeFrame x = s.countDrop slot n) ∨
    (∃ f n, s.takeFrame x = s.inc f n) ∨ (∃ g, s.takeFrame x = { s with fus := g }) ∨
    ∃ slot late g, s.takeFrame x = { s.countLate slot late with fus := g } := by
  unfold State.takeFrame
  split
  · exact .inl rfl
  · dsimp only
    split
    · exact .inr (.inl ⟨_, _, rfl⟩)
    · split
      · exact .inr (.inr (.inl ⟨_, _, rfl⟩))
      · split
        · exact .inr (.inr (.inl ⟨_, _, rfl⟩))
        · split
          · exact .inr (.inr (.inr (.inr ⟨_, _, _, rfl⟩)))
          · exact .inr (.inr (.inr (.inl ⟨_, rfl⟩)))

theorem takeFrame_frame {a1} : Frame { regs := true, fus := true } s (s.takeFrame a1) := by
  rcases takeFrame_cases (s := s) a1 with h | ⟨_, _, h⟩ | ⟨_, _, h⟩ | ⟨_, h⟩ | ⟨_, _, _, h⟩ <;> rw [h]
  · exact countDrop_frame.mono
  · exact inc_frame.mono
  · exact frame_fus (countLate_frame.mono)

theorem setDieWord_frame {a1 a2} : Frame { regs := true } s (State.setDieWord s a1 a2) := by
  unfold State.setDieWord
  with_reducible repeat' first | exact Frame.rfl | assumption | refine setReg_frame.after ?_

theorem haltBoot_frame {a1} : Frame { regs := true } s (State.haltBoot s a1) := by
  unfold State.haltBoot
  with_reducible repeat' first | exact Frame.rfl | assumption | refine wr_frame.after ?_

theorem setWag_frame {a1 a2} : Frame { inputs := true, watch := true, winHeld := true, package := true } s (State.setWag s a1 a2) := by
  unfold State.setWag
  with_reducible repeat' first | exact Frame.rfl | assumption | refine modPkg_frame.after ?_

theorem modWag_frame {a1 a2} : Frame { inputs := true, watch := true, winHeld := true, package := true } s (State.modWag s a1 a2) := by
  unfold State.modWag
  with_reducible repeat' first | exact Frame.rfl | assumption | refine setWag_frame.after ?_

theorem wagSend_frame {a1 a2 a3} :
    Frame { inputs := true, watch := true, winHeld := true, package := true } s (State.wagSend s a1 a2 a3) := by
  unfold State.wagSend
  with_reducible repeat' first | exact Frame.rfl | assumption | refine modPkg_frame.after ?_

theorem wagRequest_frame {a1 a2 a3 a4} :
    Frame { inputs := true, watch := true, winHeld := true, package := true } s (State.wagRequest s a1 a2 a3 a4) := by
  unfold State.wagRequest
  dsimp only
  with_reducible repeat' first | exact Frame.rfl | assumption | refine setWag_frame.after ?_ | refine wagSend_frame.after ?_

theorem wagStart_frame {a1} : Frame { inputs := true, watch := true, winHeld := true, package := true } s (State.wagStart s a1) := by
  unfold State.wagStart
  dsimp only
  with_reducible repeat' first | exact Frame.rfl | assumption | refine setWag_frame.after ?_ | refine wagSend_frame.after ?_

theorem settleDies_frame : Frame { regs := true } s (State.settleDies s) := by
  unfold State.settleDies
  dsimp only
  with_reducible repeat' first
    | exact Frame.rfl | assumption | refine haltBoot_frame.after ?_ | refine showMixed_frame.after ?_ | refine wr_frame.after ?_
    | refine frame_foldl (fun _ _ _ => ?_) ?_ | refine frame_ite ?_ ?_

theorem sendReport_frame {a1 a2 a3} :
    Frame { inputs := true, watch := true, winHeld := true, package := true } s (State.sendReport s a1 a2 a3) := by
  unfold State.sendReport
  dsimp only
  with_reducible repeat' first | exact Frame.rfl | assumption | refine modWag_frame.after ?_ | refine wagSend_frame.after ?_

theorem wagFail_frame {a1 a2} :
    Frame { regs := true, mem := true, thm := true, inputs := true, watch := true, winHeld := true, package := true,
            events := true } s (State.wagFail s a1 a2) := by
  unfold State.wagFail
  dsimp only
  with_reducible repeat' first
    | exact Frame.rfl | assumption | refine event_frame.after ?_ | refine linkDown_frame.after ?_ | refine markExcluded_frame.after ?_
    | refine modPkg_frame.after ?_ | refine modWag_frame.after ?_ | refine sendReport_frame.after ?_ | refine setWag_frame.after ?_
    | refine settleDies_frame.after ?_ | refine wagSend_frame.after ?_ | refine wr_frame.after ?_ | refine frame_ite ?_ ?_ | split

theorem wagRetry_frame {a1} :
    Frame { regs := true, mem := true, thm := true, inputs := true, watch := true, winHeld := true, package := true,
            events := true } s (State.wagRetry s a1) := by
  unfold State.wagRetry
  dsimp only
  with_reducible repeat' first
    | exact Frame.rfl | assumption | refine setWag_frame.after ?_ | refine wagFail_frame.after ?_ | refine wagSend_frame.after ?_
    | refine frame_ite ?_ ?_

theorem wagNakReply_frame {a1 a2} :
    Frame { regs := true, mem := true, thm := true, inputs := true, watch := true, winHeld := true, package := true,
            events := true } s (State.wagNakReply s a1 a2) := by
  unfold State.wagNakReply
  dsimp only
  with_reducible repeat' first
    | exact Frame.rfl | assumption | refine setWag_frame.after ?_ | refine wagFail_frame.after ?_ | refine wagSend_frame.after ?_
    | refine frame_ite ?_ ?_

theorem wagReply_frame {k m type phase act}
    (hact : ∀ t, Frame C s0 t → Frame C s0 (act t)) (h : Frame C s0 s)
    (hC : Footprint.le { regs := true, mem := true, thm := true, inputs := true, watch := true, winHeld := true,
                         package := true, events := true } C = true := by decide) :
    Frame C s0 (s.wagReply k m type phase act) := by
  unfold State.wagReply
  exact frame_ite (wagNakReply_frame.mono.after h hC) (frame_ite h
    (frame_ite (wagFail_frame.mono.after h hC) (hact _ h)))

theorem wagServe_frame {k m type act}
    (hact : ∀ t, Frame C s0 t → Frame C s0 (act t).1) (h : Frame C s0 s)
    (hC : Footprint.le { inputs := true, watch := true, winHeld := true, package := true } C = true := by decide) :
    Frame C s0 (s.wagServe k m type act) := by
  have hsend : ∀ (l : List WaggleMsg) t, Frame C s0 t → Frame C s0 (l.foldl (fun s r => s.wagSend k false r) t) := fun l t ht =>
    frame_foldl (fun _ _ h => wagSend_frame.mono.after h hC) ht
  unfold State.wagServe
  exact frame_ite h (frame_ite (wagSend_frame.mono.after h hC) (frame_ite h (frame_ite (hsend _ _ h)
    (hsend _ _ (modWag_frame.mono.after (hact _ h) hC)))))

theorem wagHello_frame {a1 a2 a3 a4} :
    Frame { inputs := true, watch := true, winHeld := true, package := true } s (State.wagHello s a1 a2 a3 a4) := by
  unfold State.wagHello
  with_reducible repeat' first | exact Frame.rfl | assumption | refine modWag_frame.after ?_ | refine wagServe_frame (fun _ _ => ?_) ?_

theorem wagSelect_frame {a1 a2} :
    Frame { inputs := true, watch := true, winHeld := true, package := true } s (State.wagSelect s a1 a2) := by
  unfold State.wagSelect
  with_reducible repeat' first | exact Frame.rfl | assumption | refine modWag_frame.after ?_ | refine wagServe_frame (fun _ _ => ?_) ?_

theorem wagTrainingDone_frame {a1 a2 a3} :
    Frame { inputs := true, watch := true, winHeld := true, package := true } s (State.wagTrainingDone s a1 a2 a3) := by
  unfold State.wagTrainingDone
  dsimp only
  with_reducible repeat' first
    | exact Frame.rfl | assumption | refine setWag_frame.after ?_ | refine wagSend_frame.after ?_ | refine frame_ite ?_ ?_

theorem identDie_frame {a1 a2} :
    Frame { regs := true, mem := true, thm := true, inputs := true, watch := true, winHeld := true, package := true,
            events := true } s (State.identDie s a1 a2) := by
  unfold State.identDie
  dsimp only
  with_reducible repeat' first
    | exact Frame.rfl | assumption | refine modWag_frame.after ?_ | refine setDieWord_frame.after ?_ | refine wagFail_frame.after ?_
    | refine wr_frame.after ?_ | refine frame_ite ?_ ?_

theorem identPartner_frame {a1 a2} :
    Frame { regs := true, mem := true, thm := true, inputs := true, watch := true, winHeld := true, package := true,
            events := true } s (State.identPartner s a1 a2) := by
  unfold State.identPartner
  dsimp only
  with_reducible repeat' first
    | exact Frame.rfl | assumption | refine modPkg_frame.after ?_ | refine modWag_frame.after ?_ | refine wagFail_frame.after ?_
    | refine frame_ite ?_ ?_

theorem wagIdent_frame {a1 a2 a3} :
    Frame { regs := true, mem := true, thm := true, inputs := true, watch := true, winHeld := true, package := true,
            events := true } s (State.wagIdent s a1 a2 a3) := by
  unfold State.wagIdent
  with_reducible repeat' first
    | exact Frame.rfl | assumption | refine identDie_frame.after ?_ | refine identPartner_frame.after ?_ | refine modWag_frame.after ?_
    | refine wagReply_frame (fun _ _ => ?_) ?_ | refine frame_ite ?_ ?_

theorem sendSelect_frame {a1} : Frame { inputs := true, watch := true, winHeld := true, package := true } s (State.sendSelect s a1) := by
  unfold State.sendSelect
  dsimp only
  with_reducible repeat' first | exact Frame.rfl | assumption | refine wagRequest_frame.after ?_

theorem noteOffer_frame {a1 a2} :
    Frame { inputs := true, watch := true, winHeld := true, package := true } s (State.noteOffer s a1 a2) := by
  unfold State.noteOffer
  with_reducible repeat' first | exact Frame.rfl | assumption | refine modWag_frame.after ?_

theorem wagOffer_frame {a1 a2} :
    Frame { regs := true, mem := true, thm := true, inputs := true, watch := true, winHeld := true, package := true,
            events := true } s (State.wagOffer s a1 a2) := by
  unfold State.wagOffer
  with_reducible repeat' first
    | exact Frame.rfl | assumption | refine noteOffer_frame.after ?_ | refine sendSelect_frame.after ?_ | refine wagFail_frame.after ?_
    | refine wagReply_frame (fun _ _ => ?_) ?_ | refine frame_ite ?_ ?_

theorem wagConfirm_frame {a1 a2} :
    Frame { regs := true, mem := true, thm := true, inputs := true, watch := true, winHeld := true, package := true,
            events := true } s (State.wagConfirm s a1 a2) := by
  unfold State.wagConfirm
  with_reducible repeat' first
    | exact Frame.rfl | assumption | refine modWag_frame.after ?_ | refine wagReply_frame (fun _ _ => ?_) ?_ | refine frame_ite ?_ ?_

theorem stepDown_frame {a1} :
    Frame { regs := true, mem := true, thm := true, inputs := true, watch := true, winHeld := true, package := true,
            events := true } s (State.stepDown s a1) := by
  unfold State.stepDown
  dsimp only
  with_reducible repeat' first
    | exact Frame.rfl | assumption | refine sendSelect_frame.after ?_ | refine setWag_frame.after ?_ | refine wagFail_frame.after ?_
    | refine frame_ite ?_ ?_

theorem sendDone_frame {a1} : Frame { inputs := true, watch := true, winHeld := true, package := true } s (State.sendDone s a1) := by
  unfold State.sendDone
  with_reducible repeat' first | exact Frame.rfl | assumption | refine wagRequest_frame.after ?_

theorem ownTrained_frame {a1 a2} :
    Frame { regs := true, mem := true, thm := true, inputs := true, watch := true, winHeld := true, package := true,
            events := true } s (State.ownTrained s a1 a2) := by
  unfold State.ownTrained
  dsimp only
  with_reducible repeat' first
    | exact Frame.rfl | assumption | refine modWag_frame.after ?_ | refine sendDone_frame.after ?_ | refine stepDown_frame.after ?_
    | refine wagReply_frame (fun _ _ => ?_) ?_ | refine frame_ite ?_ ?_

theorem linkUp_frame {a1 a2 a3 a4} : Frame { regs := true, events := true } s (State.linkUp s a1 a2 a3 a4) := by
  unfold State.linkUp
  dsimp only
  with_reducible repeat' first
    | exact Frame.rfl | assumption | refine linkEvent_frame.after ?_ | refine wr_frame.after ?_ | refine wrB_frame.after ?_

theorem ringTrained_frame {a1 a2} :
    Frame { regs := true, inputs := true, watch := true, winHeld := true, package := true,
            events := true } s (State.ringTrained s a1 a2) := by
  unfold State.ringTrained
  dsimp only
  with_reducible repeat' first
    | exact Frame.rfl | assumption | refine linkDown_frame.after ?_ | refine linkEvent_frame.after ?_ | refine linkUp_frame.after ?_
    | refine modWag_frame.after ?_ | refine wagSend_frame.after ?_ | refine frame_ite ?_ ?_

theorem reportEchoed_frame {a1 a2} :
    Frame { inputs := true, watch := true, winHeld := true, package := true } s (State.reportEchoed s a1 a2) := by
  unfold State.reportEchoed
  dsimp only
  with_reducible repeat' first
    | exact Frame.rfl | assumption | refine modWag_frame.after ?_ | refine wagSend_frame.after ?_ | refine frame_ite ?_ ?_

theorem wagTrained_frame {a1 a2 a3} :
    Frame { regs := true, mem := true, thm := true, inputs := true, watch := true, winHeld := true, package := true,
            events := true } s (State.wagTrained s a1 a2 a3) := by
  unfold State.wagTrained
  with_reducible repeat' first
    | exact Frame.rfl | assumption | refine ownTrained_frame.after ?_ | refine reportEchoed_frame.after ?_
    | refine ringTrained_frame.after ?_ | refine frame_ite ?_ ?_

theorem startRings_frame {a1} : Frame { inputs := true, watch := true, winHeld := true, package := true } s (State.startRings s a1) := by
  unfold State.startRings
  with_reducible repeat' first
    | exact Frame.rfl | assumption | refine wagStart_frame.after ?_ | refine frame_foldl (fun _ _ _ => ?_) ?_
    | refine frame_foldl_fst (fun _ _ _ => ?_) ?_ | refine frame_ite ?_ ?_

theorem grantPartner_frame : Frame { mem := true } s (State.grantPartner s) := by
  unfold State.grantPartner
  with_reducible repeat' first | exact Frame.rfl | assumption | refine frame_ite ?_ ?_

theorem reachDone_frame {a1} :
    Frame { regs := true, mem := true, inputs := true, watch := true, winHeld := true, package := true,
            events := true } s (State.reachDone s a1) := by
  unfold State.reachDone
  dsimp only
  with_reducible repeat' first
    | exact Frame.rfl | assumption | refine grantPartner_frame.after ?_ | refine linkUp_frame.after ?_ | refine modPkg_frame.after ?_
    | refine sendReport_frame.after ?_ | refine setDieWord_frame.after ?_ | refine setWag_frame.after ?_ | refine settleDies_frame.after ?_
    | refine showMixed_frame.after ?_ | refine startRings_frame.after ?_ | refine wr_frame.after ?_ | refine frame_ite ?_ ?_

theorem wagDone_frame {a1 a2 a3} :
    Frame { regs := true, mem := true, thm := true, inputs := true, watch := true, winHeld := true, package := true,
            events := true } s (State.wagDone s a1 a2 a3) := by
  unfold State.wagDone
  with_reducible repeat' first
    | exact Frame.rfl | assumption | refine modWag_frame.after ?_ | refine reachDone_frame.after ?_
    | refine wagReply_frame (fun _ _ => ?_) ?_ | refine wagServe_frame (fun _ _ => ?_) ?_ | refine frame_ite ?_ ?_

theorem wagReject_frame {a1 a2} :
    Frame { inputs := true, watch := true, winHeld := true, package := true } s (State.wagReject s a1 a2) := by
  unfold State.wagReject
  with_reducible repeat' first
    | exact Frame.rfl | assumption | refine modWag_frame.after ?_ | refine wagSend_frame.after ?_ | refine frame_ite ?_ ?_

theorem wagNak_frame {a1 a2 a3} :
    Frame { regs := true, mem := true, thm := true, inputs := true, watch := true, winHeld := true, package := true,
            events := true } s (State.wagNak s a1 a2 a3) := by
  unfold State.wagNak
  dsimp only
  with_reducible repeat' first
    | exact Frame.rfl | assumption | refine wagNakReply_frame.after ?_ | refine wagRetry_frame.after ?_ | refine wagSend_frame.after ?_
    | refine frame_foldl (fun _ _ _ => ?_) ?_ | refine frame_foldl_fst (fun _ _ _ => ?_) ?_ | refine frame_ite ?_ ?_

theorem execBwrClear_frame : OutFrame { regs := true, mem := true } s (execBwrClear s) := by
  unfold execBwrClear
  with_reducible repeat' first | exact Frame.rfl | assumption | refine outFrame_next ?_

theorem takeNectar_frame {sel eff}
    (heff : ∀ t x, Frame C s0 t → Frame C s0 (eff t x)) (h : Frame C s0 s)
    (hC : Footprint.le { tclk := true, regs := true, jobs := true, fus := true, saf := true, thm := true } C = true := by decide) :
    Frame C s0 (s.takeNectar sel eff) := by
  unfold State.takeNectar
  split
  · exact h
  · refine heff _ _ (waitNs_frame.mono.after (Frame.after (D := { tclk := true, regs := true, jobs := true, fus := true, saf := true, thm := true }) ?_ h hC) hC)
    exact Frame.rfl

theorem execLidarPacket_frame :
    OutFrame { tclk := true, regs := true, jobs := true, fus := true, saf := true, thm := true } s (execLidarPacket s) := by
  unfold execLidarPacket
  with_reducible repeat' first
    | exact Frame.rfl | assumption | refine outFrame_next ?_ | refine takeNectar_frame (fun _ _ _ => ?_) ?_
    | refine takePacket_frame.after ?_ | refine frame_ite ?_ ?_ | refine outFrame_ite ?_ ?_

theorem execCameraFrame_frame :
    OutFrame { tclk := true, regs := true, jobs := true, fus := true, saf := true, thm := true } s (execCameraFrame s) := by
  unfold execCameraFrame
  with_reducible repeat' first
    | exact Frame.rfl | assumption | refine outFrame_next ?_ | refine takeFrame_frame.after ?_
    | refine takeNectar_frame (fun _ _ _ => ?_) ?_ | refine frame_ite ?_ ?_ | refine outFrame_ite ?_ ?_

theorem camTable_frame {a1 a2} :
    Frame { regs := true, poison := true, mem := true, inputs := true, watch := true, events := true } s (State.camTable s a1 a2).1 := by
  unfold State.camTable
  dsimp only
  with_reducible repeat' first
    | exact Frame.rfl | assumption | refine objLoad_frame.after ?_ | refine frame_ite ?_ ?_ | refine frame_ite_fst ?_ ?_

theorem calibObj_frame {a1 a2} :
    Frame { regs := true, poison := true, mem := true, inputs := true, watch := true, events := true } s (State.calibObj s a1 a2).1 := by
  unfold State.calibObj
  dsimp only
  with_reducible repeat' first
    | exact Frame.rfl | assumption | refine objLoad_frame.after ?_ | refine frame_ite ?_ ?_ | refine frame_ite_fst ?_ ?_

end Sys2Proof.Proofs
end

section
/-! The footprints of the islands' debug and configuration, of the mailboxes and of the commands that they serve. -/
namespace Sys2Proof.Proofs
open Sys2Proof Sys2Proof.Machine Sys2Proof.Laws

-- Each proof cites those before it, so they are checked one after another.
set_option Elab.async false

variable {C D : Footprint} {s s0 t u : State}

theorem modJoin_frame {a1} : Frame { saf := true } s (State.modJoin s a1) := by
  unfold State.modJoin
  with_reducible repeat' first | exact Frame.rfl

theorem modIsland_frame {a1 a2} : Frame { saf := true } s (State.modIsland s a1 a2) := by
  unfold State.modIsland
  with_reducible repeat' first
    | exact Frame.rfl | assumption | refine modIslA_frame.after ?_ | refine modIslB_frame.after ?_ | refine frame_ite ?_ ?_

theorem execIslandMemoryScrub_frame {a0 a1} : OutFrame { regs := true, saf := true } s (execIslandMemoryScrub a0 a1 s) := by
  unfold execIslandMemoryScrub
  dsimp only
  with_reducible repeat' first
    | exact Frame.rfl | assumption | refine outFrame_next ?_ | refine inc_frame.after ?_ | refine modIslB_frame.after ?_
    | refine wr_frame.after ?_ | refine frame_ite ?_ ?_ | refine outFrame_ite ?_ ?_

theorem debugAct_frame {a1 a2 a3} : Frame { free := true, saf := true } s (State.debugAct s a1 a2 a3) := by
  unfold State.debugAct
  with_reducible repeat' first
    | exact Frame.rfl | assumption | refine draw_frame.after ?_ | refine modIsland_frame.after ?_ | refine frame_ite ?_ ?_

theorem showRun_frame : Frame { regs := true } s (State.showRun s) := by
  unfold State.showRun
  with_reducible repeat' first | exact Frame.rfl | assumption | refine wrB_frame.after ?_

theorem execDebugHalt_frame {a0} : OutFrame { free := true, regs := true, saf := true } s (execDebugHalt a0 s) := by
  unfold execDebugHalt
  dsimp only
  with_reducible repeat' first
    | exact Frame.rfl | assumption | refine outFrame_next ?_ | refine debugAct_frame.after ?_ | refine showRun_frame.after ?_
    | refine frame_ite ?_ ?_ | refine outFrame_ite ?_ ?_

theorem execDebugResume_frame {a0} : OutFrame { free := true, regs := true, saf := true } s (execDebugResume a0 s) := by
  unfold execDebugResume
  dsimp only
  with_reducible repeat' first
    | exact Frame.rfl | assumption | refine outFrame_next ?_ | refine debugAct_frame.after ?_ | refine showRun_frame.after ?_
    | refine frame_ite ?_ ?_ | refine outFrame_ite ?_ ?_

theorem execDebugSingleStep_frame {a0} : OutFrame { free := true, saf := true } s (execDebugSingleStep a0 s) := by
  unfold execDebugSingleStep
  with_reducible repeat' first | exact Frame.rfl | assumption | refine outFrame_next ?_ | refine debugAct_frame.after ?_

theorem execDebugBreakpointSet_frame {a0 a1} : OutFrame { free := true, saf := true } s (execDebugBreakpointSet a0 a1 s) := by
  unfold execDebugBreakpointSet
  with_reducible repeat' first | exact Frame.rfl | assumption | refine outFrame_next ?_ | refine debugAct_frame.after ?_

theorem execDebugRegisterRead_frame {a0 a1} : OutFrame { free := true, saf := true } s (execDebugRegisterRead a0 a1 s) := by
  unfold execDebugRegisterRead
  with_reducible repeat' first | exact Frame.rfl | assumption | refine outFrame_next ?_ | refine debugAct_frame.after ?_

theorem execDebugRegisterWrite_frame {a0 a1 a2} : OutFrame { free := true, saf := true } s (execDebugRegisterWrite a0 a1 a2 s) := by
  unfold execDebugRegisterWrite
  with_reducible repeat' first | exact Frame.rfl | assumption | refine outFrame_next ?_ | refine debugAct_frame.after ?_

theorem execDebugMemoryRead_frame {a0 a1 a2} : OutFrame { free := true, saf := true } s (execDebugMemoryRead a0 a1 a2 s) := by
  unfold execDebugMemoryRead
  dsimp only
  with_reducible repeat' first
    | exact Frame.rfl | assumption | refine outFrame_next ?_ | refine debugAct_frame.after ?_ | refine frame_ite ?_ ?_
    | refine outFrame_ite ?_ ?_

theorem execDebugMemoryWrite_frame {a0 a1 a2} : OutFrame { free := true, saf := true } s (execDebugMemoryWrite a0 a1 a2 s) := by
  unfold execDebugMemoryWrite
  with_reducible repeat' first
    | exact Frame.rfl | assumption | refine outFrame_next ?_ | refine debugAct_frame.after ?_ | refine frame_foldl (fun _ _ _ => ?_) ?_
    | refine frame_foldl_fst (fun _ _ _ => ?_) ?_ | refine frame_ite ?_ ?_ | refine outFrame_ite ?_ ?_

theorem execConfigRecordWrite_frame : OutFrame { regs := true, saf := true } s (execConfigRecordWrite s) := by
  unfold execConfigRecordWrite
  dsimp only
  with_reducible repeat' first
    | exact Frame.rfl | assumption | refine outFrame_next ?_ | refine wr_frame.after ?_ | refine frame_ite ?_ ?_
    | refine outFrame_ite ?_ ?_

theorem execConfigRecordRead_frame : OutFrame { regs := true } s (execConfigRecordRead s) := by
  unfold execConfigRecordRead
  dsimp only
  with_reducible repeat' first
    | exact Frame.rfl | assumption | refine outFrame_next ?_ | refine wr_frame.after ?_ | refine frame_foldl (fun _ _ _ => ?_) ?_
    | refine frame_foldl_fst (fun _ _ _ => ?_) ?_ | refine frame_ite ?_ ?_ | refine outFrame_ite ?_ ?_ | split

theorem setMbx_frame {a1 a2} : Frame { mbx := true } s (State.setMbx s a1 a2) := by
  unfold State.setMbx
  with_reducible repeat' first | exact Frame.rfl

theorem mbxWrite_frame {a1 a2 a3} : Frame { regs := true, mbx := true } s (State.mbxWrite s a1 a2 a3) := by
  unfold State.mbxWrite
  with_reducible repeat' first
    | exact Frame.rfl | assumption | refine setMbx_frame.after ?_ | refine wr_frame.after ?_ | refine frame_ite ?_ ?_

theorem mbxDoorbell_frame {a1} : Frame { regs := true, mbx := true } s (State.mbxDoorbell s a1) := by
  unfold State.mbxDoorbell
  dsimp only
  with_reducible repeat' first
    | exact Frame.rfl | assumption | refine setMbx_frame.after ?_ | refine wr_frame.after ?_ | refine frame_ite ?_ ?_

theorem mbxAck_frame {a1} : Frame { regs := true } s (State.mbxAck s a1) := by
  unfold State.mbxAck
  with_reducible repeat' first | exact Frame.rfl | assumption | refine wr_frame.after ?_ | refine frame_ite ?_ ?_

theorem mbxDone_frame' {a1 a2} : Frame { regs := true, mbx := true, msix := true } s (State.mbxDone s a1 a2) := by
  unfold State.mbxDone
  dsimp only
  with_reducible repeat' first
    | exact Frame.rfl | assumption | refine msix_frame.after ?_ | refine setMbx_frame.after ?_ | refine wr_frame.after ?_
    | refine frame_ite ?_ ?_

theorem answer_frame' {a1 a2 a3} : Frame { regs := true, mbx := true, msix := true } s (State.answer s a1 a2 a3) := by
  unfold State.answer
  dsimp only
  with_reducible repeat' first | exact Frame.rfl | assumption | refine mbxDone_frame'.after ?_ | refine setMbx_frame.after ?_

theorem reject_frame {a1 a2 a3} : Frame { regs := true, mbx := true, msix := true } s (State.reject s a1 a2 a3) := by
  unfold State.reject
  with_reducible repeat' first | exact Frame.rfl | assumption | refine mbxDone_frame'.after ?_

theorem serve_frame {m cmd h}
    (hh : ∀ t b tag, Frame C s0 t → Frame C s0 (h t b tag).1) (hs : Frame C s0 s)
    (hC : Footprint.le { regs := true, mbx := true, msix := true } C = true := by decide) : Frame C s0 (s.serve m cmd h) := by
  unfold State.serve
  dsimp only
  refine frame_ite hs (frame_ite (reject_frame.mono.after hs hC) ?_)
  split
  · exact mbxDone_frame'.mono.after hs hC
  · split
    · exact answer_frame'.mono.after (hh _ _ _ hs) hC
    · exact hh _ _ _ hs

theorem execMbxReqWrite_frame {a0 a1 a2} : OutFrame { regs := true, mbx := true } s (execMbxReqWrite a0 a1 a2 s) := by
  unfold execMbxReqWrite
  with_reducible repeat' first
    | exact Frame.rfl | assumption | refine outFrame_next ?_ | refine mbxWrite_frame.after ?_ | refine frame_ite ?_ ?_
    | refine outFrame_ite ?_ ?_

theorem execMbxDoorbellRefused_frame {a0} : OutFrame { regs := true, mbx := true } s (execMbxDoorbellRefused a0 s) := by
  unfold execMbxDoorbellRefused
  with_reducible repeat' first
    | exact Frame.rfl | assumption | refine outFrame_next ?_ | refine mbxDoorbell_frame.after ?_ | refine frame_ite ?_ ?_
    | refine outFrame_ite ?_ ?_

theorem execMbxAck_frame {a0} : OutFrame { regs := true } s (execMbxAck a0 s) := by
  unfold execMbxAck
  with_reducible repeat' first
    | exact Frame.rfl | assumption | refine outFrame_next ?_ | refine mbxAck_frame.after ?_ | refine frame_ite ?_ ?_
    | refine outFrame_ite ?_ ?_

theorem execHello_frame {a0} : OutFrame { free := true, regs := true, mbx := true, msix := true } s (execHello a0 s) := by
  unfold execHello
  dsimp only
  with_reducible repeat' first
    | exact Frame.rfl | assumption | refine outFrame_next ?_ | refine draw_frame.after ?_ | refine serve_frame (fun _ _ _ _ => ?_) ?_
    | refine setMbx_frame.after ?_ | refine frame_ite ?_ ?_ | refine outFrame_ite ?_ ?_ | split

theorem execGetInfo_frame {a0} : OutFrame { regs := true, mbx := true, msix := true } s (execGetInfo a0 s) := by
  unfold execGetInfo
  dsimp only
  with_reducible repeat' first | exact Frame.rfl | assumption | refine outFrame_next ?_ | refine serve_frame (fun _ _ _ _ => ?_) ?_

theorem execMemInfo_frame {a0} : OutFrame { regs := true, mbx := true, msix := true } s (execMemInfo a0 s) := by
  unfold execMemInfo
  with_reducible repeat' first
    | exact Frame.rfl | assumption | refine outFrame_next ?_ | refine serve_frame (fun _ _ _ _ => ?_) ?_ | refine frame_ite ?_ ?_
    | refine outFrame_ite ?_ ?_ | split

theorem clearSlot_frame {a1 a2} : Frame { regs := true } s (State.clearSlot s a1 a2) := by
  unfold State.clearSlot
  dsimp only
  with_reducible repeat' first | exact Frame.rfl | assumption | refine setReg_frame.after ?_ | refine wr_frame.after ?_

theorem createQueue_frame {a1 a2} : Frame { regs := true, queues := true, cv := true } s (State.createQueue s a1 a2) := by
  unfold State.createQueue
  with_reducible repeat' first
    | exact Frame.rfl | assumption | refine clearSlot_frame.after ?_ | refine cvBind_frame.after ?_ | refine setQueue_frame.after ?_
    | refine frame_ite ?_ ?_

theorem execQueueCreate_frame {a0} :
    OutFrame { regs := true, queues := true, cv := true, mbx := true, msix := true } s (execQueueCreate a0 s) := by
  unfold execQueueCreate
  dsimp only
  with_reducible repeat' first
    | exact Frame.rfl | assumption | refine outFrame_next ?_ | refine createQueue_frame.after ?_
    | refine serve_frame (fun _ _ _ _ => ?_) ?_ | refine frame_ite ?_ ?_ | refine outFrame_ite ?_ ?_ | split

theorem setPolicy_frame {a1 a2} : Frame { pwr := true } s (State.setPolicy s a1 a2) := by
  unfold State.setPolicy
  dsimp only
  with_reducible repeat' first
    | exact Frame.rfl | assumption | refine demandDie_frame.after ?_ | refine modPwr_frame.after ?_
    | refine frame_foldl (fun _ _ _ => ?_) ?_ | refine frame_foldl_fst (fun _ _ _ => ?_) ?_ | refine frame_ite ?_ ?_

theorem execPowerPolicy_frame {a0} : OutFrame { regs := true, pwr := true, mbx := true, msix := true } s (execPowerPolicy a0 s) := by
  unfold execPowerPolicy
  dsimp only
  with_reducible repeat' first
    | exact Frame.rfl | assumption | refine outFrame_next ?_ | refine serve_frame (fun _ _ _ _ => ?_) ?_ | refine setPolicy_frame.after ?_
    | refine frame_ite ?_ ?_ | refine outFrame_ite ?_ ?_ | split

theorem execSafetyTestInjection_frame {a0} :
    OutFrame { regs := true, saf := true, mbx := true, msix := true } s (execSafetyTestInjection a0 s) := by
  unfold execSafetyTestInjection
  dsimp only
  with_reducible repeat' first
    | exact Frame.rfl | assumption | refine outFrame_next ?_ | refine serve_frame (fun _ _ _ _ => ?_) ?_ | refine wr_frame.after ?_
    | refine frame_ite ?_ ?_ | refine outFrame_ite ?_ ?_ | split

theorem execLedgerRead_frame {a0} : OutFrame { regs := true, mbx := true, msix := true } s (execLedgerRead a0 s) := by
  unfold execLedgerRead
  with_reducible repeat' first | exact Frame.rfl | assumption | refine outFrame_next ?_ | refine serve_frame (fun _ _ _ _ => ?_) ?_

theorem execLogRead_frame {a0} : OutFrame { regs := true, saf := true, mbx := true, msix := true } s (execLogRead a0 s) := by
  unfold execLogRead
  dsimp only
  with_reducible repeat' first
    | exact Frame.rfl | assumption | refine outFrame_next ?_ | refine serve_frame (fun _ _ _ _ => ?_) ?_ | refine frame_ite ?_ ?_
    | refine outFrame_ite ?_ ?_ | split

theorem execFwSlotWrite_frame {a0 a1} :
    OutFrame { regs := true, inputs := true, watch := true, winHeld := true, package := true, mbx := true,
               msix := true } s (execFwSlotWrite a0 a1 s) := by
  unfold execFwSlotWrite
  dsimp only
  with_reducible repeat' first
    | exact Frame.rfl | assumption | refine outFrame_next ?_ | refine modPkg_frame.after ?_ | refine serve_frame (fun _ _ _ _ => ?_) ?_
    | refine frame_ite ?_ ?_ | refine outFrame_ite ?_ ?_ | split

theorem execFwRollbackAdvance_frame {a0} :
    OutFrame { regs := true, inputs := true, watch := true, winHeld := true, package := true, mbx := true,
               msix := true } s (execFwRollbackAdvance a0 s) := by
  unfold execFwRollbackAdvance
  dsimp only
  with_reducible repeat' first
    | exact Frame.rfl | assumption | refine outFrame_next ?_ | refine modPkg_frame.after ?_ | refine serve_frame (fun _ _ _ _ => ?_) ?_
    | refine frame_ite ?_ ?_ | refine outFrame_ite ?_ ?_ | split

theorem doorbell_frame {a1 a2} : Frame { regs := true, queues := true } s (State.doorbell s a1 a2) := by
  unfold State.doorbell
  dsimp only
  with_reducible repeat' first
    | exact Frame.rfl | assumption | refine setQueue_frame.after ?_ | refine wr_frame.after ?_ | refine frame_ite ?_ ?_

theorem execQueueDoorbell_frame {a0 a1} : OutFrame { regs := true, queues := true } s (execQueueDoorbell a0 a1 s) := by
  unfold execQueueDoorbell
  with_reducible repeat' first | exact Frame.rfl | assumption | refine outFrame_next ?_ | refine doorbell_frame.after ?_

theorem resumeQueue_frame {a1} : Frame { regs := true } s (State.resumeQueue s a1) := by
  unfold State.resumeQueue
  dsimp only
  with_reducible repeat' first | exact Frame.rfl | assumption | refine wr_frame.after ?_ | refine frame_ite ?_ ?_

theorem flushQueue_frame {a1} :
    Frame { regs := true, queues := true, listEnds := true, jobs := true, msix := true, hostMem := true } s (State.flushQueue s a1) := by
  unfold State.flushQueue
  dsimp only
  with_reducible repeat' first
    | exact Frame.rfl | assumption | refine cutRecs_frame.after ?_ | refine retire_frame.after ?_ | refine setQueue_frame.after ?_
    | refine frame_ite ?_ ?_

theorem execQueueResume_frame {a0} : OutFrame { regs := true } s (execQueueResume a0 s) := by
  unfold execQueueResume
  with_reducible repeat' first | exact Frame.rfl | assumption | refine outFrame_next ?_ | refine resumeQueue_frame.after ?_

theorem readRing_frame {a1} :
    Frame { regs := true, poison := true, mem := true, inputs := true, watch := true, events := true } s (State.readRing s a1) := by
  unfold State.readRing
  with_reducible repeat' first | exact Frame.rfl | assumption | refine devLoad_frame.after ?_ | split

theorem putFence_frame {a1 a2 a3} :
    Frame { regs := true, queues := true, listEnds := true, dram := true, poison := true, jobs := true, mem := true, inputs := true,
            watch := true, msix := true, hostMem := true, events := true } s (State.putFence s a1 a2 a3) := by
  unfold State.putFence
  dsimp only
  with_reducible repeat' first
    | exact Frame.rfl | assumption | refine completeRec_frame.after ?_ | refine devStore_frame.after ?_ | refine faultRec_frame.after ?_
    | refine frame_ite ?_ ?_

end Sys2Proof.Proofs
end

section
/-! The footprints of the swarm links. -/
namespace Sys2Proof.Proofs
open Sys2Proof Sys2Proof.Machine Sys2Proof.Laws

-- Each proof cites those before it, so they are checked one after another.
set_option Elab.async false

variable {C D : Footprint} {s s0 t u : State}

theorem modSwm_frame {a1} : Frame { swm := true } s (State.modSwm s a1) := by
  unfold State.modSwm
  with_reducible repeat' first | exact Frame.rfl

theorem modPort_frame {a1 a2} : Frame { swm := true } s (State.modPort s a1 a2) := by
  unfold State.modPort
  with_reducible repeat' first | exact Frame.rfl | assumption | refine modSwm_frame.after ?_

theorem setSwState_frame {a1 a2} : Frame { regs := true, events := true } s (State.setSwState s a1 a2) := by
  unfold State.setSwState
  with_reducible repeat' first
    | exact Frame.rfl | assumption | refine event_frame.after ?_ | refine wr_frame.after ?_ | refine frame_ite ?_ ?_

theorem swPut_frame {a1 a2 a3 a4 a5 a6} : Frame { swm := true } s (State.swPut s a1 a2 a3 a4 a5 a6) := by
  unfold State.swPut
  dsimp only
  with_reducible repeat' first
    | exact Frame.rfl | assumption | refine modPort_frame.after ?_ | refine modSwm_frame.after ?_ | refine frame_ite ?_ ?_

theorem swSend_frame {a1 a2 a3 a4 a5 a6} : Frame { swm := true } s (State.swSend s a1 a2 a3 a4 a5 a6) := by
  unfold State.swSend
  dsimp only
  with_reducible repeat' first
    | exact Frame.rfl | assumption | refine modPort_frame.after ?_ | refine swPut_frame.after ?_ | refine frame_ite ?_ ?_

theorem swAckTo_frame {a1 a2} : Frame { swm := true } s (State.swAckTo s a1 a2) := by
  unfold State.swAckTo
  dsimp only
  with_reducible repeat' first
    | exact Frame.rfl | assumption | refine modPort_frame.after ?_ | refine swPut_frame.after ?_ | refine frame_foldl (fun _ _ _ => ?_) ?_
    | refine frame_foldl_fst (fun _ _ _ => ?_) ?_ | refine frame_ite ?_ ?_

theorem swAck_frame {a1} : Frame { swm := true } s (State.swAck s a1) := by
  unfold State.swAck
  dsimp only
  with_reducible repeat' first | exact Frame.rfl | assumption | refine modSwm_frame.after ?_

theorem swTake_frame {a1 a2} : Frame { swm := true } s (State.swTake s a1 a2).1 := by
  unfold State.swTake
  dsimp only
  with_reducible repeat' first
    | exact Frame.rfl | assumption | refine modPort_frame.after ?_ | refine swAck_frame.after ?_ | refine swAckTo_frame.after ?_
    | refine frame_ite ?_ ?_ | refine frame_ite_fst ?_ ?_

theorem swReplay_frame {a1 a2} : Frame { swm := true } s (State.swReplay s a1 a2) := by
  unfold State.swReplay
  dsimp only
  with_reducible repeat' first | exact Frame.rfl | assumption | refine modSwm_frame.after ?_

theorem swFault_frame {a1 a2} :
    Frame { regs := true, queues := true, listEnds := true, jobs := true, swm := true, msix := true,
            hostMem := true } s (State.swFault s a1 a2) := by
  unfold State.swFault
  with_reducible repeat' first | exact Frame.rfl | assumption | refine faultRec_frame.after ?_ | refine modSwm_frame.after ?_

theorem swRoutes_frame :
    Frame { regs := true, queues := true, listEnds := true, jobs := true, swm := true, msix := true,
            hostMem := true } s (State.swRoutes s) := by
  unfold State.swRoutes
  dsimp only
  with_reducible repeat' first
    | exact Frame.rfl | assumption | refine modSwm_frame.after ?_ | refine swFault_frame.after ?_ | refine wr_frame.after ?_
    | refine frame_foldl (fun _ _ _ => ?_) ?_

theorem swBroadcast_frame {a1 a2} : Frame { swm := true } s (State.swBroadcast s a1 a2) := by
  unfold State.swBroadcast
  with_reducible repeat' first
    | exact Frame.rfl | assumption | refine swSend_frame.after ?_ | refine frame_foldl (fun _ _ _ => ?_) ?_
    | refine frame_foldl_fst (fun _ _ _ => ?_) ?_ | refine frame_ite ?_ ?_

theorem advertise_frame : Frame { swm := true } s (State.advertise s) := by
  unfold State.advertise
  dsimp only
  with_reducible repeat' first | exact Frame.rfl | assumption | refine modSwm_frame.after ?_ | refine swBroadcast_frame.after ?_

theorem swChanged_frame :
    Frame { regs := true, queues := true, listEnds := true, jobs := true, swm := true, msix := true,
            hostMem := true } s (State.swChanged s) := by
  unfold State.swChanged
  with_reducible repeat' first | exact Frame.rfl | assumption | refine advertise_frame.after ?_ | refine swRoutes_frame.after ?_

theorem swDown_frame {a1} :
    Frame { regs := true, queues := true, listEnds := true, jobs := true, swm := true, msix := true, hostMem := true,
            events := true } s (State.swDown s a1) := by
  unfold State.swDown
  dsimp only
  with_reducible repeat' first
    | exact Frame.rfl | assumption | refine modPort_frame.after ?_ | refine setSwState_frame.after ?_ | refine swChanged_frame.after ?_
    | refine frame_ite ?_ ?_

theorem swWag_frame {a1 a2 a3 a4} : Frame { swm := true } s (State.swWag s a1 a2 a3 a4) := by
  unfold State.swWag
  dsimp only
  with_reducible repeat' first
    | exact Frame.rfl | assumption | refine modPort_frame.after ?_ | refine swSend_frame.after ?_ | refine frame_ite ?_ ?_

theorem swRepeat_frame {a1} : Frame { swm := true } s (State.swRepeat s a1) := by
  unfold State.swRepeat
  with_reducible repeat' first | exact Frame.rfl | assumption | refine modPort_frame.after ?_ | refine swSend_frame.after ?_ | split

/-- A port that awaits a reply is in training, not joined, so its link's end routes nothing anew. -/
theorem swDown_awaiting_frame {n} (hawait : s.swAwaits n = true) : Frame { regs := true, swm := true, events := true } s (s.swDown n) := by
  have hjoined : ¬(s.swState n == 3) = true := by
    simp only [State.swAwaits, Bool.and_eq_true, beq_iff_eq] at hawait ⊢
    omega
  unfold State.swDown
  dsimp only
  rw [if_neg hjoined]
  exact modPort_frame.after setSwState_frame.mono

theorem swAgain_frame {n send}
    (hsend : ∀ t, Frame C s0 t → Frame C s0 (send t)) (h : Frame C s0 s)
    (hC : Footprint.le { regs := true, swm := true, events := true } C = true := by decide) : Frame C s0 (s.swAgain n send) := by
  unfold State.swAgain
  split_ifs with hidle
  · exact hsend _ h
  · exact (swDown_awaiting_frame (Bool.not_eq_false _ ▸ hidle)).after h hC
  · exact hsend _ (modPort_frame.mono.after h hC)

theorem swNak_frame {a1 a2} :
    Frame { regs := true, swm := true, events := true } s (State.swNak s a1 a2) := by
  unfold State.swNak
  with_reducible repeat' first
    | exact Frame.rfl | assumption | refine swAgain_frame (fun _ _ => ?_) ?_ | refine swRepeat_frame.after ?_ | refine frame_ite ?_ ?_
    | split

theorem swReject_frame {a1 a2} : Frame { regs := true, events := true } s (State.swReject s a1 a2) := by
  unfold State.swReject
  with_reducible repeat' first | exact Frame.rfl | assumption | refine setSwState_frame.after ?_ | refine wr_frame.after ?_

theorem swHello_frame {a1 a2} : Frame { regs := true, swm := true, events := true } s (State.swHello s a1 a2) := by
  unfold State.swHello
  dsimp only
  with_reducible repeat' first
    | exact Frame.rfl | assumption | refine modPort_frame.after ?_ | refine swReject_frame.after ?_ | refine swRepeat_frame.after ?_
    | refine swWag_frame.after ?_ | refine frame_ite ?_ ?_ | split

theorem swEnable_frame {a1} : Frame { regs := true, swm := true, events := true } s (State.swEnable s a1) := by
  unfold State.swEnable
  with_reducible repeat' first
    | exact Frame.rfl | assumption | refine modPort_frame.after ?_ | refine setSwState_frame.after ?_ | refine wr_frame.after ?_
    | refine frame_ite ?_ ?_

theorem execSwarmPortEnable_frame {a0} :
    OutFrame { regs := true, swm := true, events := true } s (execSwarmPortEnable a0 s) := by
  unfold execSwarmPortEnable
  with_reducible repeat' first
    | exact Frame.rfl | assumption | refine outFrame_next ?_ | refine swEnable_frame.after ?_ | refine frame_ite ?_ ?_
    | refine outFrame_ite ?_ ?_

theorem writeSwId_frame {a1 a2} : Frame { regs := true } s (State.writeSwId s a1 a2) := by
  unfold State.writeSwId
  with_reducible repeat' first | exact Frame.rfl | assumption | refine wr_frame.after ?_ | refine frame_ite ?_ ?_

theorem execSwarmIdWrite_frame {a0 a1} : OutFrame { regs := true } s (execSwarmIdWrite a0 a1 s) := by
  unfold execSwarmIdWrite
  with_reducible repeat' first | exact Frame.rfl | assumption | refine outFrame_next ?_ | refine writeSwId_frame.after ?_

theorem execSwarmTrainingDone_frame {a0 a1} :
    OutFrame { regs := true, swm := true, events := true } s (execSwarmTrainingDone a0 a1 s) := by
  unfold execSwarmTrainingDone
  dsimp only
  with_reducible repeat' first
    | exact Frame.rfl | assumption | refine outFrame_next ?_ | refine modPort_frame.after ?_ | refine setSwState_frame.after ?_
    | refine swWag_frame.after ?_ | refine wrB_frame.after ?_ | refine frame_ite ?_ ?_ | refine outFrame_ite ?_ ?_

theorem swControl_frame {n type f act}
    (hact : ∀ t, Frame C s0 t → Frame C s0 (act t)) (h : Frame C s0 s)
    (hC : Footprint.le { swm := true } C = true := by decide) : Frame C s0 (s.swControl n type f act) := by
  have htake : Frame C s0 (s.swTake n f).1 := swTake_frame.mono.after h hC
  unfold State.swControl
  dsimp only
  exact frame_ite h (frame_ite (hact _ htake) htake)

theorem swMessage_frame {n type f act}
    (hact : ∀ t m, Frame C s0 t → Frame C s0 (act t m)) (h : Frame C s0 s)
    (hC : Footprint.le { regs := true, swm := true, events := true } C = true := by decide) : Frame C s0 (s.swMessage n type f act) := by
  unfold State.swMessage
  refine swControl_frame (fun t ht => ?_) h (Footprint.le_trans (by decide) hC)
  exact frame_ite (swAgain_frame (fun _ h => swWag_frame.mono.after h hC) ht (Footprint.le_trans (by decide) hC))
    (frame_ite (swNak_frame.mono.after ht hC) (frame_ite (hact _ _ ht) ht))

theorem execSwarmHello_frame {a0 a1} :
    OutFrame { regs := true, swm := true, events := true } s (execSwarmHello a0 a1 s) := by
  unfold execSwarmHello
  with_reducible repeat' first
    | exact Frame.rfl | assumption | refine outFrame_next ?_ | refine swHello_frame.after ?_ | refine swMessage_frame (fun _ _ _ => ?_) ?_
    | refine frame_ite ?_ ?_

theorem execSwarmReject_frame {a0 a1} :
    OutFrame { regs := true, swm := true, events := true } s (execSwarmReject a0 a1 s) := by
  unfold execSwarmReject
  with_reducible repeat' first
    | exact Frame.rfl | assumption | refine outFrame_next ?_ | refine swMessage_frame (fun _ _ _ => ?_) ?_ | refine swReject_frame.after ?_
    | refine frame_ite ?_ ?_

theorem execSwarmAdvertiseTimer_frame : OutFrame { swm := true } s (execSwarmAdvertiseTimer s) := by
  unfold execSwarmAdvertiseTimer
  with_reducible repeat' first
    | exact Frame.rfl | assumption | refine outFrame_next ?_ | refine advertise_frame.after ?_ | refine frame_ite ?_ ?_
    | refine outFrame_ite ?_ ?_

theorem swAcked_frame {a1 a2} : Frame { regs := true, swm := true } s (State.swAcked s a1 a2) := by
  unfold State.swAcked
  dsimp only
  with_reducible repeat' first
    | exact Frame.rfl | assumption | refine inc_frame.after ?_ | refine modPort_frame.after ?_ | refine swReplay_frame.after ?_
    | refine frame_ite ?_ ?_

theorem execSwarmAckFlit_frame {a0 a1} : OutFrame { regs := true, swm := true } s (execSwarmAckFlit a0 a1 s) := by
  unfold execSwarmAckFlit
  with_reducible repeat' first
    | exact Frame.rfl | assumption | refine outFrame_next ?_ | refine modPort_frame.after ?_ | refine swAckTo_frame.after ?_
    | refine swAcked_frame.after ?_ | refine swTake_frame.after ?_ | refine frame_ite ?_ ?_ | refine outFrame_ite ?_ ?_

theorem execSwarmRetrainDone_frame {a0} : OutFrame { swm := true } s (execSwarmRetrainDone a0 s) := by
  unfold execSwarmRetrainDone
  dsimp only
  with_reducible repeat' first
    | exact Frame.rfl | assumption | refine outFrame_next ?_ | refine modPort_frame.after ?_ | refine swReplay_frame.after ?_
    | refine frame_ite ?_ ?_ | refine outFrame_ite ?_ ?_ | split

theorem swIssue_frame {a1 a2 a3} :
    Frame { regs := true, queues := true, listEnds := true, jobs := true, mem := true, swm := true, msix := true,
            hostMem := true } s (State.swIssue s a1 a2 a3) := by
  unfold State.swIssue
  dsimp only
  with_reducible repeat' first
    | exact Frame.rfl | assumption | refine faultRec_frame.after ?_ | refine modSwm_frame.after ?_ | refine swSend_frame.after ?_
    | refine transferWords_frame.after ?_ | refine frame_foldl (fun _ _ _ => ?_) ?_ | refine frame_foldl_fst (fun _ _ _ => ?_) ?_ | split

theorem writeExport_frame {a1 a2} : Frame { regs := true } s (State.writeExport s a1 a2) := by
  unfold State.writeExport
  dsimp only
  with_reducible repeat' first | exact Frame.rfl | assumption | refine wr_frame.after ?_ | refine frame_ite ?_ ?_

theorem execSwarmExportEnable_frame {a0} : OutFrame { regs := true } s (execSwarmExportEnable a0 s) := by
  unfold execSwarmExportEnable
  with_reducible repeat' first | exact Frame.rfl | assumption | refine outFrame_next ?_ | refine writeExport_frame.after ?_

end Sys2Proof.Proofs
end

section
/-! The footprints of the commands of the package, its clocks, its power and its links. -/
namespace Sys2Proof.Proofs
open Sys2Proof Sys2Proof.Machine Sys2Proof.Laws

-- Each proof cites those before it, so they are checked one after another.
set_option Elab.async false

variable {C D : Footprint} {s s0 t u : State}

theorem enumerate_frame : Frame { host := true } s (State.enumerate s) := by
  unfold State.enumerate
  dsimp only
  with_reducible repeat' first | exact Frame.rfl

theorem pcieTrained_frame {a1 a2} :
    Frame { regs := true, inputs := true, watch := true, winHeld := true, package := true,
            host := true } s (State.pcieTrained s a1 a2) := by
  unfold State.pcieTrained
  with_reducible repeat' first
    | exact Frame.rfl | assumption | refine enumerate_frame.after ?_ | refine modPkg_frame.after ?_ | refine wrB_frame.after ?_

theorem execPerstDeassert_frame {a0 a1} :
    OutFrame { regs := true, inputs := true, watch := true, winHeld := true, package := true,
               host := true } s (execPerstDeassert a0 a1 s) := by
  unfold execPerstDeassert
  with_reducible repeat' first
    | exact Frame.rfl | assumption | refine outFrame_next ?_ | refine pcieTrained_frame.after ?_ | refine frame_ite ?_ ?_
    | refine outFrame_ite ?_ ?_

theorem execVddSfdLoss_frame :
    OutFrame { regs := true, saf := true, inputs := true, watch := true, winHeld := true, package := true } s (execVddSfdLoss s) := by
  unfold execVddSfdLoss
  dsimp only
  with_reducible repeat' first
    | exact Frame.rfl | assumption | refine outFrame_next ?_ | refine holdAge_frame.after ?_ | refine modPkg_frame.after ?_

theorem execCombRelease_frame : OutFrame { regs := true, combs := true, thm := true } s (execCombRelease s) := by
  unfold execCombRelease
  dsimp only
  with_reducible repeat' first
    | exact Frame.rfl | assumption | refine outFrame_next ?_ | refine partWindow_frame.after ?_ | refine useSched_frame.after ?_
    | refine wr_frame.after ?_ | refine frame_foldl (fun _ _ _ => ?_) ?_ | refine frame_foldl_fst (fun _ _ _ => ?_) ?_
    | refine frame_ite ?_ ?_ | refine outFrame_ite ?_ ?_

theorem execIslandBReady_frame :
    OutFrame { saf := true, inputs := true, watch := true, winHeld := true, package := true } s (execIslandBReady s) := by
  unfold execIslandBReady
  dsimp only
  with_reducible repeat' first
    | exact Frame.rfl | assumption | refine outFrame_next ?_ | refine modJoin_frame.after ?_ | refine modPkg_frame.after ?_
    | refine frame_ite ?_ ?_ | refine outFrame_ite ?_ ?_ | split

theorem execWaggleHello_frame {a0 a1 a2 a3} :
    OutFrame { inputs := true, watch := true, winHeld := true, package := true } s (execWaggleHello a0 a1 a2 a3 s) := by
  unfold execWaggleHello
  with_reducible repeat' first | exact Frame.rfl | assumption | refine outFrame_next ?_ | refine wagHello_frame.after ?_

theorem execWaggleIdent_frame {a0 a1 a2} :
    OutFrame { regs := true, mem := true, thm := true, inputs := true, watch := true, winHeld := true, package := true,
               events := true } s (execWaggleIdent a0 a1 a2 s) := by
  unfold execWaggleIdent
  with_reducible repeat' first | exact Frame.rfl | assumption | refine outFrame_next ?_ | refine wagIdent_frame.after ?_

theorem execWaggleOffer_frame {a0 a1} :
    OutFrame { regs := true, mem := true, thm := true, inputs := true, watch := true, winHeld := true, package := true,
               events := true } s (execWaggleOffer a0 a1 s) := by
  unfold execWaggleOffer
  with_reducible repeat' first | exact Frame.rfl | assumption | refine outFrame_next ?_ | refine wagOffer_frame.after ?_

theorem execWaggleSelect_frame {a0 a1} :
    OutFrame { inputs := true, watch := true, winHeld := true, package := true } s (execWaggleSelect a0 a1 s) := by
  unfold execWaggleSelect
  with_reducible repeat' first | exact Frame.rfl | assumption | refine outFrame_next ?_ | refine wagSelect_frame.after ?_

theorem execWaggleConfirm_frame {a0 a1} :
    OutFrame { regs := true, mem := true, thm := true, inputs := true, watch := true, winHeld := true, package := true,
               events := true } s (execWaggleConfirm a0 a1 s) := by
  unfold execWaggleConfirm
  with_reducible repeat' first | exact Frame.rfl | assumption | refine outFrame_next ?_ | refine wagConfirm_frame.after ?_

theorem execMainbandTrainingDone_frame {a0 a1 a2} :
    OutFrame { inputs := true, watch := true, winHeld := true, package := true } s (execMainbandTrainingDone a0 a1 a2 s) := by
  unfold execMainbandTrainingDone
  with_reducible repeat' first | exact Frame.rfl | assumption | refine outFrame_next ?_ | refine wagTrainingDone_frame.after ?_

theorem execWaggleTrained_frame {a0 a1} :
    OutFrame { regs := true, mem := true, thm := true, inputs := true, watch := true, winHeld := true, package := true,
               events := true } s (execWaggleTrained a0 a1 s) := by
  unfold execWaggleTrained
  with_reducible repeat' first | exact Frame.rfl | assumption | refine outFrame_next ?_ | refine wagTrained_frame.after ?_

theorem execWaggleDone_frame {a0 a1 a2} :
    OutFrame { regs := true, mem := true, thm := true, inputs := true, watch := true, winHeld := true, package := true,
               events := true } s (execWaggleDone a0 a1 a2 s) := by
  unfold execWaggleDone
  with_reducible repeat' first | exact Frame.rfl | assumption | refine outFrame_next ?_ | refine wagDone_frame.after ?_

theorem execWaggleReject_frame {a0 a1} :
    OutFrame { inputs := true, watch := true, winHeld := true, package := true } s (execWaggleReject a0 a1 s) := by
  unfold execWaggleReject
  with_reducible repeat' first | exact Frame.rfl | assumption | refine outFrame_next ?_ | refine wagReject_frame.after ?_

theorem execWaggleNak_frame {a0 a1 a2} :
    OutFrame { regs := true, mem := true, thm := true, inputs := true, watch := true, winHeld := true, package := true,
               events := true } s (execWaggleNak a0 a1 a2 s) := by
  unfold execWaggleNak
  with_reducible repeat' first | exact Frame.rfl | assumption | refine outFrame_next ?_ | refine wagNak_frame.after ?_

theorem execLinkUncorrectableError_frame {a0} :
    OutFrame { inputs := true, watch := true, winHeld := true, package := true } s (execLinkUncorrectableError a0 s) := by
  unfold execLinkUncorrectableError
  with_reducible repeat' first
    | exact Frame.rfl | assumption | refine outFrame_next ?_ | refine modPkg_frame.after ?_ | refine frame_ite ?_ ?_
    | refine outFrame_ite ?_ ?_

theorem retrainEnds_frame {a1} : Frame { inputs := true, watch := true, winHeld := true, package := true } s (State.retrainEnds s a1) := by
  unfold State.retrainEnds
  with_reducible repeat' first | exact Frame.rfl | assumption | refine modPkg_frame.after ?_

theorem execLinkRetrainDone_frame {a0} :
    OutFrame { regs := true, queues := true, dram := true, poison := true, mem := true, inputs := true, watch := true, winHeld := true,
               package := true, latch := true, events := true } s (execLinkRetrainDone a0 s) := by
  unfold execLinkRetrainDone
  dsimp only
  with_reducible repeat' first
    | exact Frame.rfl | assumption | refine outFrame_next ?_ | refine failLink_frame.after ?_ | refine inc_frame.after ?_
    | refine linkEvent_frame.after ?_ | refine replayHost_frame.after ?_ | refine resumeLink_frame.after ?_
    | refine retrainEnds_frame.after ?_ | refine wr_frame.after ?_ | refine frame_ite ?_ ?_ | refine outFrame_ite ?_ ?_

theorem execRuradPllLockLoss_frame {a0} : OutFrame { regs := true, pwr := true } s (execRuradPllLockLoss a0 s) := by
  unfold execRuradPllLockLoss
  with_reducible repeat' first
    | exact Frame.rfl | assumption | refine outFrame_next ?_ | refine modPwr_frame.after ?_ | refine wr_frame.after ?_
    | refine frame_ite ?_ ?_ | refine outFrame_ite ?_ ?_

theorem execHeartbeatSend_frame {a0 a1} : OutFrame { pwr := true } s (execHeartbeatSend a0 a1 s) := by
  unfold execHeartbeatSend
  with_reducible repeat' first
    | exact Frame.rfl | assumption | refine outFrame_next ?_ | refine modPwr_frame.after ?_ | refine frame_ite ?_ ?_
    | refine outFrame_ite ?_ ?_

theorem execHifHeartbeatTick_frame : OutFrame { regs := true } s (execHifHeartbeatTick s) := by
  unfold execHifHeartbeatTick
  with_reducible repeat' first
    | exact Frame.rfl | assumption | refine outFrame_next ?_ | refine wr_frame.after ?_ | refine frame_ite ?_ ?_
    | refine outFrame_ite ?_ ?_

theorem execAvsStep_frame {a0} : OutFrame { regs := true, pwr := true } s (execAvsStep a0 s) := by
  unfold execAvsStep
  dsimp only
  with_reducible repeat' first
    | exact Frame.rfl | assumption | refine outFrame_next ?_ | refine modPwr_frame.after ?_ | refine raise_frame.after ?_
    | refine wr_frame.after ?_ | refine frame_ite ?_ ?_ | refine outFrame_ite ?_ ?_

theorem execAvsbusNoAck_frame {a0} : OutFrame { regs := true, pwr := true, events := true } s (execAvsbusNoAck a0 s) := by
  unfold execAvsbusNoAck
  dsimp only
  with_reducible repeat' first
    | exact Frame.rfl | assumption | refine outFrame_next ?_ | refine event_frame.after ?_ | refine modPwr_frame.after ?_
    | refine wr_frame.after ?_ | refine frame_ite ?_ ?_ | refine outFrame_ite ?_ ?_

theorem execDieStandbyExitDone_frame {a0} :
    OutFrame { regs := true, pwr := true, jobs := true, thm := true } s (execDieStandbyExitDone a0 s) := by
  unfold execDieStandbyExitDone
  dsimp only
  with_reducible repeat' first
    | exact Frame.rfl | assumption | refine outFrame_next ?_ | refine modPwr_frame.after ?_ | refine useSched_frame.after ?_
    | refine wr_frame.after ?_ | refine frame_ite ?_ ?_ | refine outFrame_ite ?_ ?_

theorem execD0Entry_frame : OutFrame { regs := true, fus := true, thm := true } s (execD0Entry s) := by
  unfold execD0Entry
  dsimp only
  with_reducible repeat' first
    | exact Frame.rfl | assumption | refine outFrame_next ?_ | refine useSched_frame.after ?_ | refine wr_frame.after ?_
    | refine frame_foldl (fun _ _ _ => ?_) ?_ | refine frame_foldl_fst (fun _ _ _ => ?_) ?_ | refine frame_ite ?_ ?_
    | refine outFrame_ite ?_ ?_

theorem execRampEstimate_frame {a0 a1} : OutFrame { regs := true, pwr := true } s (execRampEstimate a0 a1 s) := by
  unfold execRampEstimate
  dsimp only
  with_reducible repeat' first
    | exact Frame.rfl | assumption | refine outFrame_next ?_ | refine modPwr_frame.after ?_ | refine showRamp_frame.after ?_
    | refine frame_ite ?_ ?_ | refine outFrame_ite ?_ ?_

end Sys2Proof.Proofs
end

section
/-! The footprints of thermal sensing, of the time base, of the host's registers, of the event ring and of the ports. -/
namespace Sys2Proof.Proofs
open Sys2Proof Sys2Proof.Machine Sys2Proof.Laws

-- Each proof cites those before it, so they are checked one after another.
set_option Elab.async false

variable {C D : Footprint} {s s0 t u : State}

theorem countOutliers_frame {a1 a2} : Frame { thm := true } s (State.countOutliers s a1 a2) := by
  unfold State.countOutliers
  dsimp only
  with_reducible repeat' first | exact Frame.rfl | assumption | refine modThm_frame.after ?_

theorem readSensor_frame {a1 a2} : Frame { regs := true, thm := true } s (State.readSensor s a1 a2) := by
  unfold State.readSensor
  dsimp only
  with_reducible repeat' first
    | exact Frame.rfl | assumption | refine modThm_frame.after ?_ | refine wr_frame.after ?_ | refine frame_ite ?_ ?_

theorem warn_frame {a1 a2 a3} : Frame { regs := true, thm := true, events := true } s (State.warn s a1 a2 a3) := by
  unfold State.warn
  dsimp only
  with_reducible repeat' first
    | exact Frame.rfl | assumption | refine event_frame.after ?_ | refine modDom_frame.after ?_ | refine frame_ite ?_ ?_

theorem hotSpot_frame {a1} : Frame { regs := true, thm := true, events := true } s (State.hotSpot s a1) := by
  unfold State.hotSpot
  dsimp only
  with_reducible repeat' first
    | exact Frame.rfl | assumption | refine modDom_frame.after ?_ | refine warn_frame.after ?_ | refine wr_frame.after ?_
    | refine wrB_frame.after ?_ | refine frame_ite ?_ ?_ | split

theorem takeReadings_frame {a1 a2} : Frame { regs := true, thm := true, events := true } s (State.takeReadings s a1 a2) := by
  unfold State.takeReadings
  dsimp only
  with_reducible repeat' first
    | exact Frame.rfl | assumption | refine hotSpot_frame.after ?_ | refine modDom_frame.after ?_ | refine readSensor_frame.after ?_
    | refine frame_foldl (fun _ _ _ => ?_) ?_

theorem execSensorSample_frame {a0 a1} : OutFrame { regs := true, thm := true, events := true } s (execSensorSample a0 a1 s) := by
  unfold execSensorSample
  dsimp only
  with_reducible repeat' first
    | exact Frame.rfl | assumption | refine outFrame_next ?_ | refine countOutliers_frame.after ?_ | refine modThm_frame.after ?_
    | refine takeReadings_frame.after ?_ | refine frame_ite ?_ ?_ | refine outFrame_ite ?_ ?_

theorem execUathalSensorReport_frame {a0 a1} :
    OutFrame { regs := true, thm := true, events := true } s (execUathalSensorReport a0 a1 s) := by
  unfold execUathalSensorReport
  with_reducible repeat' first
    | exact Frame.rfl | assumption | refine outFrame_next ?_ | refine takeReadings_frame.after ?_ | refine frame_ite ?_ ?_
    | refine outFrame_ite ?_ ?_

theorem watchStuck_frame {a1} : Frame { regs := true, thm := true, events := true } s (State.watchStuck s a1) := by
  unfold State.watchStuck
  with_reducible repeat' first
    | exact Frame.rfl | assumption | refine modDom_frame.after ?_ | refine warn_frame.after ?_ | refine frame_ite ?_ ?_ | split

theorem forecastDomain_frame {a0 a2} : Frame { regs := true, thm := true, events := true } s (State.forecastDomain a0 s a2) := by
  unfold State.forecastDomain
  dsimp only
  with_reducible repeat' first
    | exact Frame.rfl | assumption | refine modDom_frame.after ?_ | refine warn_frame.after ?_ | refine watchStuck_frame.after ?_
    | refine wr_frame.after ?_ | refine wrB_frame.after ?_ | refine frame_ite ?_ ?_

theorem execThermalForecast_frame {a0} : OutFrame { regs := true, thm := true, events := true } s (execThermalForecast a0 s) := by
  unfold execThermalForecast
  with_reducible repeat' first
    | exact Frame.rfl | assumption | refine outFrame_next ?_ | refine forecastDomain_frame.after ?_
    | refine frame_foldl (fun _ _ _ => ?_) ?_ | refine frame_foldl_fst (fun _ _ _ => ?_) ?_ | refine frame_ite ?_ ?_
    | refine outFrame_ite ?_ ?_

theorem reviewDie_frame {a1 a2} : Frame { regs := true, thm := true, events := true } s (State.reviewDie s a1 a2) := by
  unfold State.reviewDie
  dsimp only
  with_reducible repeat' first
    | exact Frame.rfl | assumption | refine warn_frame.after ?_ | refine watchStuck_frame.after ?_ | refine wr_frame.after ?_
    | refine frame_ite ?_ ?_

theorem takeLimits_frame : Frame { regs := true, thm := true, events := true } s (State.takeLimits s) := by
  unfold State.takeLimits
  with_reducible repeat' first | exact Frame.rfl | assumption | refine modThm_frame.after ?_

theorem reviewDomain_frame {a0 a1 a3} : Frame { regs := true, thm := true, events := true } s (State.reviewDomain a0 a1 s a3) := by
  unfold State.reviewDomain
  dsimp only
  with_reducible repeat' first
    | exact Frame.rfl | assumption | refine modDom_frame.after ?_ | refine reviewDie_frame.after ?_ | refine warn_frame.after ?_
    | refine frame_ite ?_ ?_

theorem countHot_frame {a1} : Frame { thm := true } s (State.countHot s a1) := by
  unfold State.countHot
  with_reducible repeat' first | exact Frame.rfl | assumption | refine modDom_frame.after ?_ | refine frame_ite ?_ ?_

theorem execDutyReview_frame {a0 a1} : OutFrame { regs := true, thm := true, events := true } s (execDutyReview a0 a1 s) := by
  unfold execDutyReview
  dsimp only
  with_reducible repeat' first
    | exact Frame.rfl | assumption | refine outFrame_next ?_ | refine countHot_frame.after ?_ | refine inc_frame.after ?_
    | refine reviewDomain_frame.after ?_ | refine takeLimits_frame.after ?_ | refine frame_foldl (fun _ _ _ => ?_) ?_
    | refine frame_foldl_fst (fun _ _ _ => ?_) ?_ | refine frame_ite ?_ ?_ | refine outFrame_ite ?_ ?_

theorem endWindow_frame {a1 a2} : Frame { regs := true, thm := true, events := true } s (State.endWindow s a1 a2) := by
  unfold State.endWindow
  dsimp only
  with_reducible repeat' first
    | exact Frame.rfl | assumption | refine modDom_frame.after ?_ | refine warn_frame.after ?_ | refine wr_frame.after ?_
    | refine frame_ite ?_ ?_

theorem boundary_frame {a1} : Frame { regs := true, thm := true, events := true } s (State.boundary s a1) := by
  unfold State.boundary
  with_reducible repeat' first
    | exact Frame.rfl | assumption | refine dropWindow_frame.after ?_ | refine endWindow_frame.after ?_ | refine frame_ite ?_ ?_

theorem execSustainedWindow_frame : OutFrame { regs := true, thm := true, events := true } s (execSustainedWindow s) := by
  unfold execSustainedWindow
  with_reducible repeat' first
    | exact Frame.rfl | assumption | refine outFrame_next ?_ | refine boundary_frame.after ?_ | refine modThm_frame.after ?_
    | refine frame_foldl (fun _ _ _ => ?_) ?_

theorem writeCoolant_frame {a1} : Frame { regs := true, thm := true } s (State.writeCoolant s a1) := by
  unfold State.writeCoolant
  with_reducible repeat' first | exact Frame.rfl | assumption | refine modThm_frame.after ?_ | refine wr_frame.after ?_

theorem execCoolantWrite_frame {a0} : OutFrame { regs := true, thm := true } s (execCoolantWrite a0 s) := by
  unfold execCoolantWrite
  with_reducible repeat' first | exact Frame.rfl | assumption | refine outFrame_next ?_ | refine writeCoolant_frame.after ?_

theorem writeLimits_frame {a1} : Frame { regs := true } s (State.writeLimits s a1) := by
  unfold State.writeLimits
  dsimp only
  with_reducible repeat' first | exact Frame.rfl | assumption | refine wr_frame.after ?_ | refine frame_ite ?_ ?_

theorem execThermalLimitsWrite_frame {a0} : OutFrame { regs := true } s (execThermalLimitsWrite a0 s) := by
  unfold execThermalLimitsWrite
  with_reducible repeat' first | exact Frame.rfl | assumption | refine outFrame_next ?_ | refine writeLimits_frame.after ?_

theorem writeThmCtl_frame {a1} : Frame { regs := true } s (State.writeThmCtl s a1) := by
  unfold State.writeThmCtl
  dsimp only
  with_reducible repeat' first | exact Frame.rfl | assumption | refine wr_frame.after ?_ | refine frame_ite ?_ ?_

theorem execThermalCtlWrite_frame {a0} : OutFrame { regs := true } s (execThermalCtlWrite a0 s) := by
  unfold execThermalCtlWrite
  with_reducible repeat' first | exact Frame.rfl | assumption | refine outFrame_next ?_ | refine writeThmCtl_frame.after ?_

theorem timState_frame {a1} : Frame { regs := true } s (State.timState s a1) := by
  unfold State.timState
  dsimp only
  with_reducible repeat' first | exact Frame.rfl | assumption | refine wr_frame.after ?_ | refine frame_ite ?_ ?_

theorem applyTimCfg_frame : Frame { regs := true, servo := true } s (State.applyTimCfg s) := by
  unfold State.applyTimCfg
  dsimp only
  with_reducible repeat' first
    | exact Frame.rfl | assumption | refine timState_frame.after ?_ | refine wr_frame.after ?_ | refine frame_ite ?_ ?_

theorem stepTime_frame {a1} : Frame { regs := true, fus := true } s (State.stepTime s a1) := by
  unfold State.stepTime
  dsimp only
  with_reducible repeat' first
    | exact Frame.rfl | assumption | refine discardOpen_frame.after ?_ | refine setTime96_frame.after ?_ | refine wr_frame.after ?_

theorem servoUpdate_frame {a1 a2 a3 a4 a5 a6} :
    Frame { regs := true, servo := true, fus := true } s (State.servoUpdate s a1 a2 a3 a4 a5 a6) := by
  unfold State.servoUpdate
  dsimp only
  with_reducible repeat' first
    | exact Frame.rfl | assumption | refine stepTime_frame.after ?_ | refine timState_frame.after ?_ | refine wr_frame.after ?_
    | refine wrB_frame.after ?_ | refine frame_ite ?_ ?_

theorem execSyncMessage_frame {a0 a1 a2 a3 a4 a5 a6} :
    OutFrame { regs := true, servo := true, fus := true } s (execSyncMessage a0 a1 a2 a3 a4 a5 a6 s) := by
  unfold execSyncMessage
  dsimp only
  with_reducible repeat' first
    | exact Frame.rfl | assumption | refine outFrame_next ?_ | refine applyTimCfg_frame.after ?_ | refine servoUpdate_frame.after ?_
    | refine wr_frame.after ?_ | refine frame_ite ?_ ?_ | refine outFrame_ite ?_ ?_

theorem holdover_frame : Frame { regs := true, servo := true } s (State.holdover s) := by
  unfold State.holdover
  dsimp only
  with_reducible repeat' first | exact Frame.rfl | assumption | refine timState_frame.after ?_ | refine wr_frame.after ?_

theorem execSyncTimeout_frame : OutFrame { regs := true, servo := true } s (execSyncTimeout s) := by
  unfold execSyncTimeout
  dsimp only
  with_reducible repeat' first
    | exact Frame.rfl | assumption | refine outFrame_next ?_ | refine applyTimCfg_frame.after ?_ | refine holdover_frame.after ?_
    | refine timState_frame.after ?_ | refine wr_frame.after ?_ | refine frame_ite ?_ ?_ | refine outFrame_ite ?_ ?_

theorem execSyncTransmit_frame : OutFrame { free := true, regs := true, servo := true } s (execSyncTransmit s) := by
  unfold execSyncTransmit
  dsimp only
  with_reducible repeat' first
    | exact Frame.rfl | assumption | refine outFrame_next ?_ | refine applyTimCfg_frame.after ?_ | refine draw_frame.after ?_
    | refine wr_frame.after ?_ | refine frame_ite ?_ ?_ | refine outFrame_ite ?_ ?_

theorem execTimCfgWrite_frame {a0} : OutFrame { regs := true } s (execTimCfgWrite a0 s) := by
  unfold execTimCfgWrite
  with_reducible repeat' first | exact Frame.rfl | assumption | refine outFrame_next ?_ | refine setReg_frame.after ?_

theorem execPpsEdge_frame {a0 a1 a2 a3 a4} : OutFrame { regs := true, servo := true, fus := true } s (execPpsEdge a0 a1 a2 a3 a4 s) := by
  unfold execPpsEdge
  dsimp only
  with_reducible repeat' first
    | exact Frame.rfl | assumption | refine outFrame_next ?_ | refine servoUpdate_frame.after ?_ | refine wr_frame.after ?_
    | refine frame_ite ?_ ?_ | refine outFrame_ite ?_ ?_ | split

theorem writeEvtCtrl_frame {a1} : Frame { regs := true } s (State.writeEvtCtrl s a1) := by
  unfold State.writeEvtCtrl
  dsimp only
  with_reducible repeat' first | exact Frame.rfl | assumption | refine wr_frame.after ?_ | refine frame_ite ?_ ?_

theorem writeEvtTail_frame {a1} : Frame { regs := true } s (State.writeEvtTail s a1) := by
  unfold State.writeEvtTail
  with_reducible repeat' first | exact Frame.rfl | assumption | refine wr_frame.after ?_ | refine frame_ite ?_ ?_

theorem setLatch_frame {a1 a2} : Frame { latch := true } s (State.setLatch s a1 a2) := by
  unfold State.setLatch
  with_reducible repeat' first | exact Frame.rfl

theorem clearRc_frame {a1 a2} : Frame { regs := true } s (State.clearRc s a1 a2) := by
  unfold State.clearRc
  with_reducible repeat' first
    | exact Frame.rfl | assumption | refine setReg_frame.after ?_ | refine frame_foldl (fun _ _ _ => ?_) ?_
    | refine frame_foldl_fst (fun _ _ _ => ?_) ?_ | refine frame_ite ?_ ?_

theorem read32_frame {a1} : Frame { regs := true, latch := true } s (State.read32 s a1).1 := by
  unfold State.read32
  dsimp only
  with_reducible repeat' first
    | exact Frame.rfl | assumption | refine clearRc_frame.after ?_ | refine setLatch_frame.after ?_ | refine frame_ite ?_ ?_
    | refine frame_ite_fst ?_ ?_ | split

theorem regRead_frame {a1} : Frame { regs := true, latch := true } s (State.regRead s a1).1 := by
  unfold State.regRead
  with_reducible repeat' first
    | exact Frame.rfl | assumption | refine read32_frame.after ?_ | refine wr_frame.after ?_ | refine frame_ite ?_ ?_
    | refine frame_ite_fst ?_ ?_ | split

theorem execRcRead_frame {a0} : OutFrame { regs := true, latch := true } s (execRcRead a0 s) := by
  unfold execRcRead
  with_reducible repeat' first
    | exact Frame.rfl | assumption | refine outFrame_next ?_ | refine hostGets_frame.after ?_ | refine regRead_frame.after ?_

theorem hostRead32_frame {a1} : Frame { regs := true, latch := true } s (State.hostRead32 s a1) := by
  unfold State.hostRead32
  with_reducible repeat' first
    | exact Frame.rfl | assumption | refine hostGets_frame.after ?_ | refine read32_frame.after ?_ | refine wr_frame.after ?_
    | refine frame_ite ?_ ?_

theorem execReg64LowRead_frame {a0} : OutFrame { regs := true, latch := true } s (execReg64LowRead a0 s) := by
  unfold execReg64LowRead
  with_reducible repeat' first | exact Frame.rfl | assumption | refine outFrame_next ?_ | refine hostRead32_frame.after ?_

theorem execReg64HighRead_frame {a0} : OutFrame { regs := true, latch := true } s (execReg64HighRead a0 s) := by
  unfold execReg64HighRead
  with_reducible repeat' first | exact Frame.rfl | assumption | refine outFrame_next ?_ | refine hostRead32_frame.after ?_

theorem execInvalidRegisterAccess_frame {a0 a1} : OutFrame { regs := true, latch := true } s (execInvalidRegisterAccess a0 a1 s) := by
  unfold execInvalidRegisterAccess
  with_reducible repeat' first
    | exact Frame.rfl | assumption | refine outFrame_next ?_ | refine hostGets_frame.after ?_ | refine wr_frame.after ?_
    | refine frame_ite ?_ ?_ | refine outFrame_ite ?_ ?_

theorem execEvtEnable_frame {a0} : OutFrame { regs := true } s (execEvtEnable a0 s) := by
  unfold execEvtEnable
  with_reducible repeat' first | exact Frame.rfl | assumption | refine outFrame_next ?_ | refine writeEvtCtrl_frame.after ?_

theorem execEvtTailWrite_frame {a0} : OutFrame { regs := true } s (execEvtTailWrite a0 s) := by
  unfold execEvtTailWrite
  with_reducible repeat' first | exact Frame.rfl | assumption | refine outFrame_next ?_ | refine writeEvtTail_frame.after ?_

theorem ringMessage_frame : Frame { msix := true, host := true } s (State.ringMessage s) := by
  unfold State.ringMessage
  dsimp only
  with_reducible repeat' first | exact Frame.rfl | assumption | refine msix_frame.after ?_ | refine frame_ite ?_ ?_

theorem overflowRecord_frame : Frame { regs := true, events := true } s (State.overflowRecord s) := by
  unfold State.overflowRecord
  dsimp only
  with_reducible repeat' first | exact Frame.rfl | assumption | refine event_frame.after ?_ | refine frame_ite ?_ ?_

theorem advanceHead_frame : Frame { regs := true } s (State.advanceHead s) := by
  unfold State.advanceHead
  dsimp only
  with_reducible repeat' first | exact Frame.rfl | assumption | refine wr_frame.after ?_ | refine frame_ite ?_ ?_

theorem execEventRingWrite_frame :
    OutFrame { regs := true, msix := true, hostMem := true, events := true, host := true } s (execEventRingWrite s) := by
  unfold execEventRingWrite
  dsimp only
  with_reducible repeat' first
    | exact Frame.rfl | assumption | refine outFrame_next ?_ | refine advanceHead_frame.after ?_ | refine hostWrite_frame.after ?_
    | refine overflowRecord_frame.after ?_ | refine ringMessage_frame.after ?_ | refine frame_ite ?_ ?_ | refine outFrame_ite ?_ ?_ | split

theorem runFg_frame {a1 a2} :
    Frame { regs := true, queues := true, listEnds := true, listStarts := true, jobs := true, msix := true,
            hostMem := true } s (State.runFg s a1 a2) := by
  unfold State.runFg
  with_reducible repeat' first | exact Frame.rfl | assumption | refine runOp_frame (fun _ _ _ => ?_) ?_ | refine setJob_frame.after ?_

theorem readLive_frame {a0 a2} :
    Frame { regs := true, poison := true, mem := true, inputs := true, watch := true, events := true } s (State.readLive a0 s a2) := by
  unfold State.readLive
  dsimp only
  with_reducible repeat' first | exact Frame.rfl | assumption | refine objLoad_frame.after ?_ | refine frame_ite ?_ ?_

theorem joinEffect_frame {a1 a2} :
    Frame { regs := true, queues := true, listEnds := true, dram := true, poison := true, honey := true, brood := true, jobs := true,
            mem := true, watch := true, msix := true, hostMem := true, events := true } s (State.joinEffect s a1 a2) := by
  unfold State.joinEffect
  dsimp only
  with_reducible repeat' first
    | exact Frame.rfl | assumption | refine completeRec_frame.after ?_ | refine setSeq_frame.after ?_ | refine sharePages_frame.after ?_
    | refine frame_ite ?_ ?_ | split

theorem readPrefix_frame {a0 a2} : Frame { regs := true, mem := true, watch := true, events := true } s (State.readPrefix a0 s a2) := by
  unfold State.readPrefix
  dsimp only
  with_reducible repeat' first | exact Frame.rfl | assumption | refine readEntries_frame.after ?_ | refine frame_ite ?_ ?_

theorem seqEffect_frame {a1 a2 a3} :
    Frame { regs := true, queues := true, listEnds := true, dram := true, poison := true, honey := true, brood := true, jobs := true,
            mem := true, inputs := true, watch := true, msix := true, hostMem := true,
            events := true } s (State.seqEffect s a1 a2 a3) := by
  unfold State.seqEffect
  dsimp only
  with_reducible repeat' first
    | exact Frame.rfl | assumption | refine completeRec_frame.after ?_ | refine seqOp_frame.after ?_ | refine setStep_frame.after ?_
    | refine frame_ite ?_ ?_

theorem seqCtl_frame {a1 a2} :
    Frame { regs := true, queues := true, listEnds := true, listStarts := true, dram := true, poison := true, honey := true,
            brood := true, jobs := true, mem := true, inputs := true, watch := true, msix := true, hostMem := true,
            events := true } s (State.seqCtl s a1 a2) := by
  unfold State.seqCtl
  dsimp only
  with_reducible repeat' first | exact Frame.rfl | assumption | refine runOp_frame (fun _ _ _ => ?_) ?_ | refine seqEffect_frame.after ?_

theorem modPln_frame {a1} : Frame { pln := true } s (State.modPln s a1) := by
  unfold State.modPln
  with_reducible repeat' first | exact Frame.rfl

theorem readyRec_frame {a1 a2} : Frame { queues := true } s (State.readyRec s a1 a2) := by
  unfold State.readyRec
  with_reducible repeat' first | exact Frame.rfl | assumption | refine modRec_frame.after ?_

theorem takeLoad_frame : Frame { regs := true, queues := true, listStarts := true, pln := true } s (State.takeLoad s) := by
  unfold State.takeLoad
  dsimp only
  with_reducible repeat' first
    | exact Frame.rfl | assumption | refine modPln_frame.after ?_ | refine runRec_frame.after ?_ | refine wr_frame.after ?_
    | refine frame_ite ?_ ?_ | split

theorem startReady_frame {a1 a2 a3} :
    Frame { regs := true, queues := true, listEnds := true, jobs := true, msix := true,
            hostMem := true } s (State.startReady s a1 a2 a3) := by
  unfold State.startReady
  dsimp only
  with_reducible repeat' first
    | exact Frame.rfl | assumption | refine faultRec_frame.after ?_ | refine readyRec_frame.after ?_ | refine wr_frame.after ?_
    | refine frame_ite ?_ ?_ | split

theorem freeLoad_frame : Frame { regs := true, pln := true } s (State.freeLoad s) := by
  unfold State.freeLoad
  with_reducible repeat' first | exact Frame.rfl | assumption | refine modPln_frame.after ?_ | refine wr_frame.after ?_

theorem execCsiStopState_frame {a0} : OutFrame { ports := true } s (execCsiStopState a0 s) := by
  unfold execCsiStopState
  with_reducible repeat' first | exact Frame.rfl | assumption | refine outFrame_next ?_

theorem execEthLinkUp_frame {a0} : OutFrame { ports := true } s (execEthLinkUp a0 s) := by
  unfold execEthLinkUp
  with_reducible repeat' first | exact Frame.rfl | assumption | refine outFrame_next ?_

theorem execEthLinkDown_frame {a0} : OutFrame { ports := true } s (execEthLinkDown a0 s) := by
  unfold execEthLinkDown
  with_reducible repeat' first | exact Frame.rfl | assumption | refine outFrame_next ?_

theorem execCanFrameSent_frame {a0} : OutFrame { ports := true } s (execCanFrameSent a0 s) := by
  unfold execCanFrameSent
  refine outFrame_next ?_
  cases s.canNext a0.port with
  | none => exact Frame.rfl
  | some x => exact frame_set Frame.rfl

theorem execSpiTransfer_frame {a0 a1 a2 a3} :
    OutFrame { regs := true, ports := true, fus := true, ctl := true } s (execSpiTransfer a0 a1 a2 a3 s) := by
  unfold execSpiTransfer
  dsimp only
  with_reducible repeat' first
    | exact Frame.rfl | assumption | refine outFrame_next ?_ | refine checkItem_frame.after ?_ | refine controlSpi_frame.after ?_
    | refine deliver_frame.after ?_ | refine dropItem_frame.after ?_ | refine heard_frame.after ?_ | refine frame_ite ?_ ?_
    | refine outFrame_ite ?_ ?_ | split

theorem execSpiDataReady_frame {a0} : OutFrame { ports := true } s (execSpiDataReady a0 s) := by
  unfold execSpiDataReady
  with_reducible repeat' first | exact Frame.rfl | assumption | refine outFrame_next ?_

theorem execGpioEdge_frame {a0 a1} : OutFrame { regs := true, ports := true, ctl := true } s (execGpioEdge a0 a1 s) := by
  unfold execGpioEdge
  dsimp only
  with_reducible repeat' first
    | exact Frame.rfl | assumption | refine outFrame_next ?_ | refine controlGpio_frame.after ?_ | refine frame_ite ?_ ?_
    | refine outFrame_ite ?_ ?_ | split

theorem gnssSentence_frame {a1 a2 a3} : Frame { ports := true, servo := true, fus := true } s (State.gnssSentence s a1 a2 a3) := by
  unfold State.gnssSentence
  dsimp only
  with_reducible repeat' first | exact Frame.rfl | assumption | refine deliver_frame.after ?_ | refine heard_frame.after ?_ | split

theorem execGnssUartByte_frame {a0 a1} : OutFrame { ports := true, servo := true, fus := true } s (execGnssUartByte a0 a1 s) := by
  unfold execGnssUartByte
  dsimp only
  with_reducible repeat' first
    | exact Frame.rfl | assumption | refine outFrame_next ?_ | refine gnssSentence_frame.after ?_ | refine frame_ite ?_ ?_

theorem execPwmPeriodStart_frame {a0} : OutFrame { ports := true } s (execPwmPeriodStart a0 s) := by
  unfold execPwmPeriodStart
  dsimp only
  with_reducible repeat' first | exact Frame.rfl | assumption | refine outFrame_next ?_ | split

theorem registry_frame {d m eff}
    (heff : ∀ t r, Frame C s0 t → Frame C s0 (eff t r)) (h : Frame C s0 s)
    (hC : Footprint.le { regs := true, queues := true, listEnds := true, listStarts := true, jobs := true,
                         msix := true, hostMem := true } C = true := by decide) :
    Frame C s0 (s.registry d m eff) :=
  runOp_frame heff h (Footprint.le_trans (by decide) hC)

theorem registryRead_frame {a0 a2} :
    Frame { free := true, regs := true, queues := true, listEnds := true, dram := true, poison := true, jobs := true, mem := true,
            inputs := true, watch := true, msix := true, hostMem := true, events := true } s (State.registryRead a0 s a2) := by
  unfold State.registryRead
  dsimp only
  with_reducible repeat' first
    | exact Frame.rfl | assumption | refine completeRec_frame.after ?_ | refine faultRec_frame.after ?_ | refine objStore_frame.after ?_
    | refine undefineFor_frame.after ?_ | refine frame_ite ?_ ?_

end Sys2Proof.Proofs
end

section
/-! What the commands of the package, of the host interface and of the units leave unchanged (O33, O34, O36): each clause is the footprint of
its commands. -/
namespace Sys2Proof.Proofs
open Sys2Proof Sys2Proof.Machine Sys2Proof.Laws

set_option Elab.async false

variable {C D : Footprint} {s t : State}

/-- Commands that stay within a footprint. -/
def Within (D : Footprint) (s : State) (l : List Instr) : Prop := ∀ c ∈ l, OutFrame D s (exec c s)

theorem within_nil : Within D s [] := nofun

theorem within_cons {c : Instr} {l : List Instr} (hc : OutFrame C s (exec c s)) (hl : Within D s l) (hle : C.le D = true := by decide) :
    Within D s (c :: l) :=
  List.forall_mem_cons.2 ⟨fun t e => (hc t e).mono hle, hl⟩

theorem OutFrame.eq_take {o : Out} (h : OutFrame D s o) (e : o = .next t) : t = D.take s t := (h t e).eq_take

theorem Within.eq_take {l : List Instr} (h : Within D s l) : ∀ c ∈ l, exec c s = .next t → t = D.take s t :=
  fun c hc => (h c hc).eq_take

/-- A footprint with the whole host interface. -/
abbrev Footprint.hif (D : Footprint) : Footprint :=
  { D with mbx := true, latch := true, msix := true, hostMem := true, events := true, host := true }

/-- A footprint with the whole package. -/
abbrev Footprint.pkg (D : Footprint) : Footprint := { D with inputs := true, watch := true, winHeld := true, package := true }

theorem OutFrame.hif {o : Out} (h : OutFrame D s o) : OutFrame D.hif s o :=
  fun t e => (h t e).mono (by simp [Footprint.le])

theorem OutFrame.pkg {o : Out} (h : OutFrame D s o) : OutFrame D.pkg s o :=
  fun t e => (h t e).mono (by simp [Footprint.le])

section
variable {k d l a b : Nat} {m : WaggleMsg} {ok fo : Bool} {mods : BitVec 4}

theorem waggle_package : Within (Footprint.pkg {}) s
    [.waggleHello k m a b, .waggleSelect k m, .mainbandTrainingDone k a mods, .waggleReject k m, .linkUncorrectableError l] :=
  within_cons execWaggleHello_frame <| within_cons execWaggleSelect_frame <| within_cons execMainbandTrainingDone_frame <|
    within_cons execWaggleReject_frame <| within_cons execLinkUncorrectableError_frame within_nil

theorem waggle_reach : Within
    (Footprint.pkg (Footprint.hif { regs := true, mem := true, thm := true })) s
    [.waggleIdent k m ok, .waggleOffer k m, .waggleConfirm k m, .waggleTrained ⟨k, fo⟩ m, .waggleDone k fo m, .waggleNak k fo m] :=
  within_cons execWaggleIdent_frame <| within_cons execWaggleOffer_frame <| within_cons execWaggleConfirm_frame <|
    within_cons execWaggleTrained_frame <| within_cons execWaggleDone_frame <| within_cons execWaggleNak_frame within_nil

theorem clock_registers : Within { pwr := true, regs := true } s [.ruradPllLockLoss d, .avsStep d, .rampEstimate d ⟨a, b⟩] :=
  within_cons execRuradPllLockLoss_frame <| within_cons execAvsStep_frame <| within_cons execRampEstimate_frame within_nil
end

/-- Settles O33: each command's footprint lies within the fields that the clause names. -/
theorem packageFrames : Obligations.PackageFrames := by
  intro s t k d l a b m ok fo lock mods
  exact ⟨waggle_package.eq_take, waggle_reach.eq_take, execLinkRetrainDone_frame.pkg.hif.eq_take,
    execIslandBReady_frame.pkg.eq_take, execVddSfdLoss_frame.pkg.eq_take,
    execPerstDeassert_frame.pkg.hif.eq_take, execHeartbeatSend_frame.eq_take, clock_registers.eq_take, execAvsbusNoAck_frame.hif.eq_take,
    execHifHeartbeatTick_frame.eq_take, execDieStandbyExitDone_frame.eq_take, execD0Entry_frame.eq_take, execCombRelease_frame.eq_take⟩

end Sys2Proof.Proofs
end

section
/-! What the commands of the host interface leave unchanged (O34): of the mailboxes a served command changes its own, of the queues a
doorbell its own, and of host memory the event ring its one record. -/
namespace Sys2Proof.Proofs
open Sys2Proof Sys2Proof.Machine Sys2Proof.Laws

set_option Elab.async false

variable {C D : Footprint} {s t u : State} {m n off : Nat} {bs : List Byte} {v : Word} {im : FwImage}

theorem Frame.mbx_eq (h : Frame D s t) (hD : D.mbx = false := by rfl) (k : Nat) : t.mbx k = s.mbx k := by
  have hmbx := congrArg (fun x => x.hif.mbx) h.eq_take
  simp only [hD] at hmbx
  rw [State.mbx, hmbx, State.mbx]

/-! ## Served commands -/

/-- Every mailbox but `m` stays. -/
def OtherMbx (m : Nat) (s t : State) : Prop := ∀ k, k ≠ m → t.mbx k = s.mbx k

theorem OtherMbx.of_frame (h : Frame D s t) (hD : D.mbx = false := by rfl) : OtherMbx m s t := fun k _ => h.mbx_eq hD k

theorem OtherMbx.trans (h : OtherMbx m s t) (h' : OtherMbx m t u) : OtherMbx m s u := fun k hk => (h' k hk).trans (h k hk)

theorem otherMbx_setMbx {x : Mailbox} : OtherMbx m s (s.setMbx m x) := fun _ hk => tget_tset_other hk

theorem otherMbx_mbxDone : OtherMbx m s (s.mbxDone m bs) := by
  unfold State.mbxDone
  dsimp only
  split
  · exact otherMbx_setMbx.trans (.of_frame wr_frame)
  · exact (otherMbx_setMbx.trans (.of_frame wr_frame)).trans (.of_frame msix_frame)

theorem otherMbx_answer {cmd : Nat} {a : Answer} : OtherMbx m s (s.answer m cmd a) := otherMbx_setMbx.trans otherMbx_mbxDone

theorem otherMbx_serve {cmd : Nat} {act : State → List Byte → BitVec 16 → State × Option Answer}
    (hact : ∀ b tag, OtherMbx m s (act s b tag).1) : OtherMbx m s (s.serve m cmd act) := by
  unfold State.serve
  dsimp only
  split
  · exact fun _ _ => rfl
  · split
    · exact otherMbx_mbxDone
    · split
      · exact otherMbx_mbxDone
      · split
        · exact (hact _ _).trans otherMbx_answer
        · exact hact _ _

theorem served_others : ∀ c ∈ ([.getInfo m, .memInfo m, .ledgerRead m, .hello m, .powerPolicy m, .fwSlotWrite m im, .fwRollbackAdvance m,
    .safetyTestInjection m, .logRead m, .queueCreate m] : List Instr), ∀ t, exec c s = .next t → OtherMbx m s t := by
  simp only [List.forall_mem_cons, List.not_mem_nil, false_implies, implies_true, and_true]
  refine ⟨?getInfo, ?memInfo, ?ledgerRead, ?hello, ?powerPolicy, ?fwSlotWrite, ?fwRollbackAdvance, ?safetyTestInjection, ?logRead,
    ?queueCreate⟩ <;> intro t e
  case safetyTestInjection =>
    change execSafetyTestInjection m s = _ at e
    unfold execSafetyTestInjection at e
    split at e <;> cases e
    · exact fun _ _ => rfl
    · refine otherMbx_serve fun _ _ => ?_
      dsimp only
      split <;> exact fun _ _ => rfl
  case getInfo | ledgerRead =>
    cases e
    exact otherMbx_serve fun _ _ _ _ => rfl
  case memInfo =>
    cases e
    refine otherMbx_serve fun _ _ => ?_
    split <;> exact fun _ _ => rfl
  all_goals
    cases e
    refine otherMbx_serve fun _ _ => ?_
    dsimp only
    repeat' split
    all_goals first
      | exact fun _ _ => rfl
      | exact .of_frame setPolicy_frame
      | exact .of_frame createQueue_frame
      | exact .of_frame modPkg_frame
      | exact otherMbx_setMbx.trans (.of_frame draw_frame)

/-! ## A doorbell and the event ring -/

theorem Frame.queue_eq (h : Frame D s t) (hD : D.queues = false := by rfl) (k : Nat) : t.queue k = s.queue k := by
  have hq := congrArg State.queues h.eq_take
  simp only [hD] at hq
  rw [State.queue, hq, State.queue]

theorem doorbell_others {d : Nat} (hd : d ≠ n) {tail : Nat} : (s.doorbell n tail).queue d = s.queue d := by
  have hset : ∀ q, (s.setQueue n q).queue d = s.queue d := fun q => tget_tset_other hd
  unfold State.doorbell
  dsimp only
  split_ifs
  · rfl
  · exact wr_frame.queue_eq rfl d
  · rfl
  · exact wr_frame.queue_eq rfl d
  · exact ((wr_frame.after wr_frame).queue_eq rfl d).trans (hset _)
  · exact (wr_frame.queue_eq rfl d).trans (hset _)

theorem memGet_memWrite_outside {mem : Memory} {a x : Nat} (h : x < a ∨ a + bs.length ≤ x) : memGet (memWrite mem a bs) x = memGet mem x := by
  induction bs generalizing mem a with
  | nil => rfl
  | cons b bs ih =>
    simp only [List.length_cons] at h
    rw [memWrite, ih (by omega), memGet_memSet_other (by omega)]

theorem eventRec_length (r : EventRec) (phase : Nat) : (r.toBytes phase).length = 32 := by simp [EventRec.toBytes]

theorem Frame.hostMem_eq (h : Frame D s t) (hD : D.hostMem = false) : t.hif.hostMem = s.hif.hostMem := by
  have hm := congrArg (fun x => x.hif.hostMem) h.eq_take
  simpa only [Footprint.take, Footprint.takeHif, hD] using hm

/-- The event ring writes host memory in its record's place alone. -/
theorem eventRingWrite_hostMem {x : Nat} (e : exec .eventRingWrite s = .next t)
    (h : x < s.rd EVT_BASE_ADDR * 4096 + 32 * s.rd EVT_HEAD_INDEX ∨ s.rd EVT_BASE_ADDR * 4096 + 32 * s.rd EVT_HEAD_INDEX + 32 ≤ x) :
    memGet t.hif.hostMem x = memGet s.hif.hostMem x := by
  change execEventRingWrite s = _ at e
  unfold execEventRingWrite at e
  split at e
  · cases e; rfl
  · dsimp only at e
    split at e <;> cases e
    · rfl
    · have hwrite : ∀ a bs, (s.hostWrite a bs).hif.hostMem = memWrite s.hif.hostMem a bs := fun _ _ => rfl
      rw [ringMessage_frame.hostMem_eq rfl, overflowRecord_frame.hostMem_eq rfl]
      dsimp only
      rw [advanceHead_frame.hostMem_eq rfl, hwrite, memGet_memWrite_outside (by rwa [eventRec_length])]

/-! ## The clauses together -/

theorem host_registers : Within { regs := true } s [.mbxAck m, .evtEnable v, .evtTailWrite v, .queueResume n, .swarmExportEnable v] :=
  within_cons execMbxAck_frame <| within_cons execEvtEnable_frame <| within_cons execEvtTailWrite_frame <|
    within_cons execQueueResume_frame <| within_cons execSwarmExportEnable_frame within_nil

theorem served_frame : Within (Footprint.pkg { regs := true, mbx := true, msix := true, free := true, pwr := true, saf := true, queues := true, cv := true }) s
    [.getInfo m, .memInfo m, .ledgerRead m, .hello m, .powerPolicy m, .fwSlotWrite m im, .fwRollbackAdvance m,
      .safetyTestInjection m, .logRead m, .queueCreate m] :=
  within_cons execGetInfo_frame <| within_cons execMemInfo_frame <| within_cons execLedgerRead_frame <| within_cons execHello_frame <|
    within_cons execPowerPolicy_frame <| within_cons execFwSlotWrite_frame <| within_cons execFwRollbackAdvance_frame <|
    within_cons execSafetyTestInjection_frame <| within_cons execLogRead_frame <| within_cons execQueueCreate_frame within_nil

theorem mailbox_writes : Within { regs := true, mbx := true } s [.mbxReqWrite m off bs, .mbxDoorbellRefused m] :=
  within_cons execMbxReqWrite_frame <| within_cons execMbxDoorbellRefused_frame within_nil

theorem host_reads : Within { regs := true, latch := true } s
    [.rcRead off, .reg64LowRead off, .reg64HighRead off, .invalidRegisterAccess off n] :=
  within_cons execRcRead_frame <| within_cons execReg64LowRead_frame <| within_cons execReg64HighRead_frame <|
    within_cons execInvalidRegisterAccess_frame within_nil

theorem Frame.hif_eq (h : Frame D s t) : t.hif = D.takeHif s.hif t.hif := congrArg State.hif h.eq_take

/-- Settles O34: the footprints, and what each command changes of the mailboxes, of the queues and of host memory. -/
theorem hostFrames : Obligations.HostFrames := by
  intro s t m n off a bs v im
  refine ⟨host_registers.eq_take, fun c hc e => ?served, fun c hc e => ?writes, fun c hc e => ?reads, fun e => ?doorbell, fun e => ?ring⟩
  case served =>
    have h := served_frame c hc t e
    exact ⟨(h.mono : Frame (Footprint.pkg (Footprint.hif { regs := true, free := true, pwr := true, saf := true, queues := true, cv := true })) s t).eq_take, h.hif_eq, served_others c hc t e⟩
  case writes =>
    have h := mailbox_writes c hc t e
    exact ⟨(h.mono : Frame (Footprint.hif { regs := true }) s t).eq_take, h.hif_eq⟩
  case reads =>
    have h := host_reads c hc t e
    exact ⟨(h.mono : Frame (Footprint.hif { regs := true }) s t).eq_take, h.hif_eq⟩
  case doorbell =>
    refine ⟨execQueueDoorbell_frame.eq_take e, fun d hd => ?_⟩
    cases e
    exact doorbell_others hd
  case ring => exact ⟨execEventRingWrite_frame.hif.eq_take e, fun x hx => eventRingWrite_hostMem e hx⟩

end Sys2Proof.Proofs
end

section
/-! What the commands of ports, time, combs' debug, thermal management, islands and swarm links leave unchanged (O36). -/
namespace Sys2Proof.Proofs
open Sys2Proof Sys2Proof.Machine Sys2Proof.Laws

set_option Elab.async false

section
variable {s : State} {n cs dur g addr word ago : Nat} {rise fall ue ok sw atA : Bool} {data f : List Byte} {v : Word} {w : Word64}
  {temps : List Int} {r1 : BitVec 4} {sched failed : List Nat} {b : Byte} {tod : Option Nat} {off rate adj : Int}

theorem port_events : Within { ports := true } s
    [.csiStopState n, .ethLinkUp n, .ethLinkDown n, .canFrameSent ⟨n, ago⟩, .spiDataReady n, .pwmPeriodStart ⟨n, dur⟩] :=
  within_cons execCsiStopState_frame <| within_cons execEthLinkUp_frame <| within_cons execEthLinkDown_frame <|
    within_cons execCanFrameSent_frame <| within_cons execSpiDataReady_frame <| within_cons execPwmPeriodStart_frame within_nil

theorem time_events : Within { servo := true, fus := true, regs := true } s
    [.ppsEdge fall tod rate adj ok, .syncMessage n g off dur rate adj ok] :=
  within_cons execPpsEdge_frame <| within_cons execSyncMessage_frame within_nil

theorem register_commands : Within { regs := true } s
    [.timCfgWrite v, .combClearCounters g, .thermalLimitsWrite v, .thermalCtlWrite v, .swarmIdWrite sw v, .configRecordRead] :=
  within_cons execTimCfgWrite_frame <| within_cons execCombClearCounters_frame <| within_cons execThermalLimitsWrite_frame <|
    within_cons execThermalCtlWrite_frame <| within_cons execSwarmIdWrite_frame <| within_cons execConfigRecordRead_frame within_nil

theorem fusion_intake : Within { fus := true, regs := true, tclk := true, jobs := true, saf := true, thm := true } s
    [.lidarPacket, .cameraFrame] :=
  within_cons execLidarPacket_frame <| within_cons execCameraFrame_frame within_nil

theorem comb_debug_frame : Within { combs := true, regs := true } s [.combDebugHalt g, .combDebugRelease g, .combDebugStep g] :=
  within_cons execCombDebugHalt_frame <| within_cons execCombDebugRelease_frame <| within_cons execCombDebugStep_frame within_nil

theorem scratchpad_debug_frame : Within { spdRead := true, regs := true } s [.scratchpadDebugRead word, .scratchpadDebugReadDone ue] :=
  within_cons execScratchpadDebugRead_frame <| within_cons execScratchpadDebugReadDone_frame within_nil

theorem thermal_events : Within { thm := true, regs := true, events := true } s
    [.sensorSample n temps, .uathalSensorReport temps failed, .thermalForecast sched, .dutyReview r1 sched, .sustainedWindow] :=
  within_cons execSensorSample_frame <| within_cons execUathalSensorReport_frame <| within_cons execThermalForecast_frame <|
    within_cons execDutyReview_frame <| within_cons execSustainedWindow_frame within_nil

theorem debug_runs : Within { saf := true, free := true, regs := true } s [.debugHalt atA, .debugResume atA] :=
  within_cons execDebugHalt_frame <| within_cons execDebugResume_frame within_nil

theorem debug_actions : Within { saf := true, free := true } s
    [.debugSingleStep atA, .debugBreakpointSet atA addr, .debugRegisterRead atA n, .debugRegisterWrite atA n w,
      .debugMemoryRead atA addr n, .debugMemoryWrite atA addr data] :=
  within_cons execDebugSingleStep_frame <| within_cons execDebugBreakpointSet_frame <| within_cons execDebugRegisterRead_frame <|
    within_cons execDebugRegisterWrite_frame <| within_cons execDebugMemoryRead_frame <|
    within_cons execDebugMemoryWrite_frame within_nil

theorem island_checks : Within { saf := true, regs := true } s [.islandMemoryScrub atA n, .configRecordWrite] :=
  within_cons execIslandMemoryScrub_frame <| within_cons execConfigRecordWrite_frame within_nil

theorem swarm_timers : Within { swm := true } s [.swarmAdvertiseTimer, .swarmRetrainDone n] :=
  within_cons execSwarmAdvertiseTimer_frame <| within_cons execSwarmRetrainDone_frame within_nil

theorem swarm_ports : Within (Footprint.hif { swm := true, regs := true }) s
    [.swarmPortEnable n, .swarmTrainingDone n ok, .swarmHello n f, .swarmReject n f] :=
  within_cons execSwarmPortEnable_frame <| within_cons execSwarmTrainingDone_frame <| within_cons execSwarmHello_frame <|
    within_cons execSwarmReject_frame within_nil

/-- A comb's debug register reaches that comb alone. -/
theorem writeDbg_others {halt step clear : Bool} {h : Nat} (hg : h ≠ g) : (s.writeDbg g halt step clear).comb h = s.comb h := by
  have hmod : ∀ (u : State) act, (u.modComb g act).comb h = u.comb h := fun _ _ => tget_tset_other hg
  unfold State.writeDbg
  dsimp only
  split_ifs <;> (try rw [hmod]) <;> simp only [State.comb, wr_combs, wrB_combs]

theorem comb_debug_others : ∀ c ∈ ([.combDebugHalt g, .combDebugRelease g, .combDebugStep g] : List Instr), ∀ t, exec c s = .next t →
    ∀ h, h ≠ g → t.comb h = s.comb h := by
  simp only [List.forall_mem_cons, List.not_mem_nil, false_implies, implies_true, and_true]
  refine ⟨?halt, ?release, ?step⟩ <;> intro t e h hg <;> cases e <;> exact writeDbg_others hg
end

/-- Settles O36: the footprints, and that a comb's debug commands change that comb alone. -/
theorem unitFrames : Obligations.UnitFrames := by
  intro s t n cs dur g addr word ago rise fall ue ok sw atA data f v w temps r1 sched failed b tod off rate adj
  refine ⟨port_events.eq_take, execGnssUartByte_frame.eq_take, execGpioEdge_frame.eq_take, (@execSpiTransfer_frame s n cs dur data).eq_take,
    time_events.eq_take, execSyncTimeout_frame.eq_take, execSyncTransmit_frame.eq_take, register_commands.eq_take, ?_⟩
  refine ⟨fun e => ⟨execBwrClear_frame.eq_take e, ?cleared⟩, fusion_intake.eq_take,
    fun c hc e => ⟨comb_debug_frame.eq_take c hc e, comb_debug_others c hc t e⟩, scratchpad_debug_frame.eq_take,
    fun c hc e => ⟨?thermal, ?events⟩, execCoolantWrite_frame.eq_take, ?_⟩
  case cleared => cases e; rfl
  case thermal => exact (thermal_events c hc).hif.eq_take e
  case events => exact (thermal_events c hc t e).hif_eq
  exact ⟨debug_runs.eq_take, debug_actions.eq_take, island_checks.eq_take, swarm_timers.eq_take, execSwarmAckFlit_frame.eq_take,
    swarm_ports.eq_take⟩

end Sys2Proof.Proofs
end

section
/-! What a record of a queue leaves unchanged (O37): each record's command stays within its footprint up to the islands' settling of the
lists that it starts or ends. -/
namespace Sys2Proof.Proofs
open Sys2Proof Sys2Proof.Machine Sys2Proof.Laws

set_option Elab.async false

variable {C D : Footprint} {s t u : State}

/-- An outcome whose next state, but for settling, stays within a footprint. -/
def RecFrame (D : Footprint) (s : State) (o : Out) : Prop := ∀ t, o = .next t → ∃ u, (t = u ∨ t = u.settle) ∧ Frame D s u

/-- The same of a command that may have run on the state that watches for waiting accesses. -/
def StallFrame (D : Footprint) (s : State) (o : Out) : Prop :=
  ∀ t, o = .next t → ∃ u, (t = u ∨ t = u.settle ∨ t = u.settle.unwatched) ∧ Frame D s u

theorem RecFrame.toStall {o : Out} (h : RecFrame D s o) : StallFrame D s o := fun t e => by
  obtain ⟨u, hu | hu, hf⟩ := h t e
  exacts [⟨u, .inl hu, hf⟩, ⟨u, .inr (.inl hu), hf⟩]

theorem recFrame_next (h : Frame D s u) : RecFrame D s (.next u) := fun _ e => ⟨u, .inl (Host.Outcome.next.inj e).symm, h⟩

theorem recFrame_fin (h : Frame D s u) : RecFrame D s (fin u) := fun _ e => ⟨u, .inr (Host.Outcome.next.inj e).symm, h⟩

theorem recFrame_ite {p : Prop} [Decidable p] {a b : Out} (ha : RecFrame D s a) (hb : RecFrame D s b) :
    RecFrame D s (if p then a else b) := by split <;> assumption

theorem stallFrame_unlessStalled {act : State → Out} (hact : ∀ v, Frame D s v → RecFrame D s (act v))
    (hD : Footprint.le { watch := true } D = true := by decide) : StallFrame D s (s.unlessStalled act) := by
  unfold State.unlessStalled
  split
  · exact (hact s Frame.rfl).toStall
  · have hrec := hact s.watched (watched_frame.mono hD)
    intro t e
    generalize act s.watched = o at hrec e
    match o, hrec, e with
    | .next v, hrec, e =>
      obtain ⟨u, hu, hf⟩ := hrec v rfl
      simp only at e
      split at e <;> cases e
      · exact ⟨s, .inl rfl, Frame.rfl⟩
      · rcases hu with rfl | rfl
        · exact ⟨v.unwatched, .inl rfl, unwatched_frame.after hf hD⟩
        · exact ⟨u, .inr (.inr rfl), hf⟩

/-! ## The footprints -/

/-- What every record may change: the queues, the host interface, the registers, the lists started and ended, the jobs. -/
abbrev recPlain : Footprint := Footprint.hif { queues := true, regs := true, listStarts := true, listEnds := true, jobs := true }

/-- The footprint of a record that reads memory. -/
abbrev recReads : Footprint := { recPlain with mem := true, poison := true, watch := true, inputs := true }

/-- The footprint of a search record. -/
abbrev recPlans : Footprint := { recPlain with pln := true }

/-- The footprint of a load into the planner. -/
abbrev recLoads : Footprint := { recReads with pln := true }

/-- The footprint of a control engine record. -/
abbrev recLoops : Footprint := { recReads with ctl := true, ports := true }

/-- The footprint of a check-value record. -/
abbrev recChecks : Footprint := { recReads with cv := true }

/-- The footprint of a fusion record. -/
abbrev recFusion : Footprint := { recReads with fus := true }

/-- The footprint of a registry record that binds or unbinds. -/
abbrev recBinds : Footprint := { recPlain with ports := true }

/-- The footprint of a swarm record. -/
abbrev recSwarm : Footprint := { recReads with swm := true }

/-- The footprint of a record that stores. -/
abbrev recStores : Footprint := { recReads with free := true, dram := true }

/-- The footprint of a sequence record. -/
abbrev recSequences : Footprint := { recReads with brood := true, honey := true, dram := true }

theorem execNop_frame {a0} : RecFrame recPlain s (execNop a0 s) := by
  unfold execNop
  with_reducible repeat' first
    | exact Frame.rfl | assumption | refine recFrame_fin ?_ | refine runOp_frame (fun _ _ _ => ?_) ?_
    | refine completeRec_frame.after ?_

theorem execWaitRelease_frame {a0} : RecFrame recPlain s (execWaitRelease a0 s) := by
  unfold execWaitRelease
  with_reducible repeat' first
    | exact Frame.rfl | assumption | refine recFrame_next ?_ | refine recFrame_fin ?_ | refine completeRec_frame.after ?_
    | refine recFrame_ite ?_ ?_ | refine frame_ite ?_ ?_ | split

theorem execQueueFlush_frame {a0} : RecFrame recPlain s (execQueueFlush a0 s) := by
  unfold execQueueFlush
  with_reducible repeat' first | exact Frame.rfl | assumption | refine recFrame_fin ?_ | refine flushQueue_frame.after ?_

theorem execCvRun_frame {a0} : RecFrame recPlain s (execCvRun a0 s) := by
  unfold execCvRun
  with_reducible repeat' first | exact Frame.rfl | assumption | refine recFrame_fin ?_ | refine runOp_frame (fun _ _ _ => ?_) ?_

theorem execLoopResetI_frame {a0} : RecFrame recPlain s (execLoopResetI a0 s) := by
  unfold execLoopResetI
  with_reducible repeat' first
    | exact Frame.rfl | assumption | refine recFrame_fin ?_ | refine runOp_frame (fun _ _ _ => ?_) ?_
    | refine loopCtl_frame (fun _ _ _ => ?_) ?_ | refine wr_frame.after ?_

theorem execPlan_frame {a0} : RecFrame recPlain s (execPlan a0 s) := by
  unfold execPlan
  with_reducible repeat' first | exact Frame.rfl | assumption | refine recFrame_fin ?_ | refine startReady_frame.after ?_

theorem execFgCopy_frame {a0} : RecFrame recPlain s (execFgCopy a0 s) := by
  unfold execFgCopy
  with_reducible repeat' first | exact Frame.rfl | assumption | refine recFrame_fin ?_ | refine runFg_frame.after ?_

theorem execFgFill_frame {a0} : RecFrame recPlain s (execFgFill a0 s) := by
  unfold execFgFill
  with_reducible repeat' first | exact Frame.rfl | assumption | refine recFrame_fin ?_ | refine runFg_frame.after ?_

theorem execRecordStart_frame {a0} : StallFrame recReads s (execRecordStart a0 s) := by
  unfold execRecordStart
  with_reducible repeat' first
    | exact Frame.rfl | assumption | refine recFrame_next ?_ | refine recFrame_fin ?_ | refine stallFrame_unlessStalled (fun _ _ => ?_)
    | refine readRing_frame.after ?_ | refine fetchRecord_frame.after ?_ | refine wr_frame.after ?_ | refine recFrame_ite ?_ ?_

theorem execJobRun_frame {a0 a1 a2} : StallFrame recReads s (execJobRun a0 a1 a2 s) := by
  unfold execJobRun
  dsimp only
  with_reducible repeat' first
    | exact Frame.rfl | assumption | refine recFrame_fin ?_ | refine stallFrame_unlessStalled (fun _ _ => ?_)
    | refine checkReads_frame (fun _ _ _ => ?_) ?_ | refine readLive_frame.after ?_ | refine runOp_frame (fun _ _ _ => ?_) ?_
    | refine setJob_frame.after ?_

theorem execStepRun_frame {a0 a1 a2} : StallFrame recReads s (execStepRun a0 a1 a2 s) := by
  unfold execStepRun
  dsimp only
  with_reducible repeat' first
    | exact Frame.rfl | assumption | refine recFrame_fin ?_ | refine stallFrame_unlessStalled (fun _ _ => ?_)
    | refine checkReads_frame (fun _ _ _ => ?_) ?_ | refine readLive_frame.after ?_ | refine runOp_frame (fun _ _ _ => ?_) ?_
    | refine setJob_frame.after ?_

theorem execWait_frame {a0} : StallFrame recReads s (execWait a0 s) := by
  unfold execWait
  dsimp only
  with_reducible repeat' first
    | exact Frame.rfl | assumption | refine recFrame_fin ?_ | refine stallFrame_unlessStalled (fun _ _ => ?_)
    | refine runOp_frame (fun _ _ _ => ?_) ?_ | refine devLoad_frame.after ?_ | refine faultRec_frame.after ?_
    | refine completeRec_frame.after ?_ | refine wr_frame.after ?_ | refine recFrame_ite ?_ ?_ | refine frame_ite ?_ ?_

theorem execFuseCollect_frame {a0} : StallFrame recReads s (execFuseCollect a0 s) := by
  unfold execFuseCollect
  dsimp only
  with_reducible repeat' first
    | exact Frame.rfl | assumption | refine recFrame_fin ?_ | refine stallFrame_unlessStalled (fun _ _ => ?_)
    | refine checkReads_frame (fun _ _ _ => ?_) ?_ | refine camTable_frame.after ?_ | refine runOp_frame (fun _ _ _ => ?_) ?_
    | refine modRec_frame.after ?_

theorem execPlanStart_frame : RecFrame recPlans s (execPlanStart s) := by
  unfold execPlanStart
  dsimp only
  with_reducible repeat' first
    | exact Frame.rfl | assumption | refine recFrame_next ?_ | refine recFrame_fin ?_ | refine modPln_frame.after ?_
    | refine wr_frame.after ?_ | refine runRec_frame.after ?_ | split

theorem execOccLoad_frame {a0} : RecFrame recPlans s (execOccLoad a0 s) := by
  unfold execOccLoad
  with_reducible repeat' first
    | exact Frame.rfl | assumption | refine recFrame_fin ?_ | refine startReady_frame.after ?_ | refine takeLoad_frame.after ?_

theorem execLibLoad_frame {a0} : RecFrame recPlans s (execLibLoad a0 s) := by
  unfold execLibLoad
  with_reducible repeat' first
    | exact Frame.rfl | assumption | refine recFrame_fin ?_ | refine startReady_frame.after ?_ | refine takeLoad_frame.after ?_

theorem execOccLoadDone_frame : StallFrame recLoads s (execOccLoadDone s) := by
  unfold execOccLoadDone
  dsimp only
  with_reducible repeat' first
    | exact Frame.rfl | assumption | refine recFrame_next ?_ | refine recFrame_fin ?_ | refine stallFrame_unlessStalled (fun _ _ => ?_)
    | refine objLoad_frame.after ?_ | refine freeLoad_frame.after ?_ | refine faultRec_frame.after ?_
    | refine takeLoad_frame.after ?_ | refine modPln_frame.after ?_ | refine wr_frame.after ?_
    | refine completeRec_frame.after ?_ | refine recFrame_ite ?_ ?_ | refine frame_ite ?_ ?_ | split

theorem execLibLoadDone_frame : StallFrame recLoads s (execLibLoadDone s) := by
  unfold execLibLoadDone
  dsimp only
  with_reducible repeat' first
    | exact Frame.rfl | assumption | refine recFrame_next ?_ | refine recFrame_fin ?_ | refine stallFrame_unlessStalled (fun _ _ => ?_)
    | refine objLoad_frame.after ?_ | refine freeLoad_frame.after ?_ | refine faultRec_frame.after ?_
    | refine takeLoad_frame.after ?_ | refine modPln_frame.after ?_ | refine wr_frame.after ?_
    | refine completeRec_frame.after ?_ | refine recFrame_ite ?_ ?_ | refine frame_ite ?_ ?_ | split

theorem execLoopEnable_frame {a0} : RecFrame recLoops s (execLoopEnable a0 s) := by
  unfold execLoopEnable
  with_reducible repeat' first
    | exact Frame.rfl | assumption | refine recFrame_fin ?_ | refine runOp_frame (fun _ _ _ => ?_) ?_
    | refine loopCtl_frame (fun _ _ _ => ?_) ?_ | refine enableLoop_frame.after ?_

theorem execLoopDisable_frame {a0} : RecFrame recLoops s (execLoopDisable a0 s) := by
  unfold execLoopDisable
  with_reducible repeat' first
    | exact Frame.rfl | assumption | refine recFrame_fin ?_ | refine runOp_frame (fun _ _ _ => ?_) ?_
    | refine loopCtl_frame (fun _ _ _ => ?_) ?_ | refine disableLoop_frame.after ?_

theorem execLoopSet_frame {a0} : StallFrame recLoops s (execLoopSet a0 s) := by
  unfold execLoopSet
  with_reducible repeat' first
    | exact Frame.rfl | assumption | refine recFrame_fin ?_ | refine stallFrame_unlessStalled (fun _ _ => ?_)
    | refine loopSet_frame.after ?_

theorem execTrajLoad_frame {a0} : StallFrame recLoops s (execTrajLoad a0 s) := by
  unfold execTrajLoad
  with_reducible repeat' first
    | exact Frame.rfl | assumption | refine recFrame_fin ?_ | refine stallFrame_unlessStalled (fun _ _ => ?_)
    | refine trajLoad_frame.after ?_

theorem execCvConfig_frame {a0} : RecFrame recChecks s (execCvConfig a0 s) := by
  unfold execCvConfig
  dsimp only
  with_reducible repeat' first
    | exact Frame.rfl | assumption | refine recFrame_fin ?_ | refine runOp_frame (fun _ _ _ => ?_) ?_ | refine setCvUnit_frame.after ?_
    | refine completeRec_frame.after ?_

theorem execCvChanVerify_frame {a0} : RecFrame recChecks s (execCvChanVerify a0 s) := by
  unfold execCvChanVerify
  dsimp only
  with_reducible repeat' first
    | exact Frame.rfl | assumption | refine recFrame_fin ?_ | refine runOp_frame (fun _ _ _ => ?_) ?_ | refine setCvChan_frame.after ?_
    | refine completeRec_frame.after ?_

theorem execCvChanOff_frame {a0} : RecFrame recChecks s (execCvChanOff a0 s) := by
  unfold execCvChanOff
  with_reducible repeat' first
    | exact Frame.rfl | assumption | refine recFrame_fin ?_ | refine runOp_frame (fun _ _ _ => ?_) ?_ | refine setCvChan_frame.after ?_
    | refine completeRec_frame.after ?_

theorem execCvRestore_frame {a0} : StallFrame recChecks s (execCvRestore a0 s) := by
  unfold execCvRestore
  dsimp only
  with_reducible repeat' first
    | exact Frame.rfl | assumption | refine recFrame_fin ?_ | refine stallFrame_unlessStalled (fun _ _ => ?_)
    | refine runOp_frame (fun _ _ _ => ?_) ?_ | refine objLoad_frame.after ?_ | refine faultRec_frame.after ?_
    | refine setCvUnit_frame.after ?_ | refine completeRec_frame.after ?_ | refine recFrame_ite ?_ ?_ | refine frame_ite ?_ ?_

theorem execFuseConfig_frame {a0} : RecFrame recFusion s (execFuseConfig a0 s) := by
  unfold execFuseConfig
  dsimp only
  with_reducible repeat' first
    | exact Frame.rfl | assumption | refine recFrame_next ?_ | refine recFrame_fin ?_ | refine runOp_frame (fun _ _ _ => ?_) ?_
    | refine discardOpen_frame.after ?_ | refine wr_frame.after ?_ | refine completeRec_frame.after ?_ | refine recFrame_ite ?_ ?_

theorem execCalibLoad_frame {a0} : StallFrame recFusion s (execCalibLoad a0 s) := by
  unfold execCalibLoad
  dsimp only
  with_reducible repeat' first
    | exact Frame.rfl | assumption | refine recFrame_fin ?_ | refine stallFrame_unlessStalled (fun _ _ => ?_)
    | refine checkReads_frame (fun _ _ _ => ?_) ?_ | refine calibObj_frame.after ?_ | refine runOp_frame (fun _ _ _ => ?_) ?_
    | refine dropSlot_frame.after ?_ | refine completeRec_frame.after ?_ | refine recFrame_ite ?_ ?_ | refine frame_ite ?_ ?_ | split

theorem execCalibRemove_frame {a0} : RecFrame recFusion s (execCalibRemove a0 s) := by
  unfold execCalibRemove
  dsimp only
  with_reducible repeat' first
    | exact Frame.rfl | assumption | refine recFrame_fin ?_ | refine runOp_frame (fun _ _ _ => ?_) ?_ | refine dropSlot_frame.after ?_
    | refine completeRec_frame.after ?_ | split

theorem execRegistryBind_frame {a0} : RecFrame recBinds s (execRegistryBind a0 s) := by
  unfold execRegistryBind
  dsimp only
  with_reducible repeat' first
    | exact Frame.rfl | assumption | refine recFrame_fin ?_ | refine registry_frame (fun _ _ _ => ?_) ?_
    | refine setEntry_frame.after ?_ | refine completeRec_frame.after ?_

theorem execRegistryUnbind_frame {a0} : RecFrame recBinds s (execRegistryUnbind a0 s) := by
  unfold execRegistryUnbind
  dsimp only
  with_reducible repeat' first
    | exact Frame.rfl | assumption | refine recFrame_fin ?_ | refine registry_frame (fun _ _ _ => ?_) ?_
    | refine setEntry_frame.after ?_ | refine completeRec_frame.after ?_

theorem execSwarmCopy_frame {a0} : StallFrame recSwarm s (execSwarmCopy a0 s) := by
  unfold execSwarmCopy
  dsimp only
  with_reducible repeat' first
    | exact Frame.rfl | assumption | refine recFrame_fin ?_ | refine stallFrame_unlessStalled (fun _ _ => ?_)
    | refine runOp_frame (fun _ _ _ => ?_) ?_ | refine objLoad_frame.after ?_ | refine faultRec_frame.after ?_
    | refine swIssue_frame.after ?_ | refine recFrame_ite ?_ ?_ | refine frame_ite ?_ ?_

theorem execSwarmSignal_frame {a0} : RecFrame recSwarm s (execSwarmSignal a0 s) := by
  unfold execSwarmSignal
  with_reducible repeat' first
    | exact Frame.rfl | assumption | refine recFrame_fin ?_ | refine runOp_frame (fun _ _ _ => ?_) ?_ | refine swIssue_frame.after ?_

theorem execSignal_frame {a0} : StallFrame recStores s (execSignal a0 s) := by
  unfold execSignal
  dsimp only
  with_reducible repeat' first
    | exact Frame.rfl | assumption | refine recFrame_fin ?_ | refine stallFrame_unlessStalled (fun _ _ => ?_)
    | refine runOp_frame (fun _ _ _ => ?_) ?_ | refine findSpan_frame.after ?_ | refine passRequest_frame.after ?_
    | refine violation_frame.after ?_ | refine faultRec_frame.after ?_ | refine memStore_frame.after ?_
    | refine completeRec_frame.after ?_ | refine recFrame_ite ?_ ?_ | refine frame_ite ?_ ?_

theorem execTimestamp_frame {a0} : StallFrame recStores s (execTimestamp a0 s) := by
  unfold execTimestamp
  with_reducible repeat' first
    | exact Frame.rfl | assumption | refine recFrame_fin ?_ | refine stallFrame_unlessStalled (fun _ _ => ?_)
    | refine runOp_frame (fun _ _ _ => ?_) ?_ | refine putFence_frame.after ?_

theorem execRegistryRead_frame {a0} : StallFrame recStores s (execRegistryRead a0 s) := by
  unfold execRegistryRead
  with_reducible repeat' first
    | exact Frame.rfl | assumption | refine recFrame_fin ?_ | refine stallFrame_unlessStalled (fun _ _ => ?_)
    | refine registry_frame (fun _ _ _ => ?_) ?_ | refine registryRead_frame.after ?_

theorem execCvSave_frame {a0} : StallFrame recStores s (execCvSave a0 s) := by
  unfold execCvSave
  dsimp only
  with_reducible repeat' first
    | exact Frame.rfl | assumption | refine recFrame_fin ?_ | refine stallFrame_unlessStalled (fun _ _ => ?_)
    | refine runOp_frame (fun _ _ _ => ?_) ?_ | refine objStore_frame.after ?_ | refine faultRec_frame.after ?_
    | refine completeRec_frame.after ?_ | refine recFrame_ite ?_ ?_ | refine frame_ite ?_ ?_

theorem execSeqJoin_frame {a0} : StallFrame recSequences s (execSeqJoin a0 s) := by
  unfold execSeqJoin
  dsimp only
  with_reducible repeat' first
    | exact Frame.rfl | assumption | refine recFrame_fin ?_ | refine stallFrame_unlessStalled (fun _ _ => ?_)
    | refine checkReads_frame (fun _ _ _ => ?_) ?_ | refine readPrefix_frame.after ?_ | refine runOp_frame (fun _ _ _ => ?_) ?_
    | refine joinEffect_frame.after ?_

theorem execSeqFinish_frame {a0} : StallFrame recSequences s (execSeqFinish a0 s) := by
  unfold execSeqFinish
  with_reducible repeat' first
    | exact Frame.rfl | assumption | refine recFrame_fin ?_ | refine stallFrame_unlessStalled (fun _ _ => ?_)
    | refine runOp_frame (fun _ _ _ => ?_) ?_ | refine seqEffect_frame.after ?_

theorem execSeqCtlPin_frame {a0} : StallFrame recSequences s (execSeqCtlPin a0 s) := by
  unfold execSeqCtlPin
  with_reducible repeat' first
    | exact Frame.rfl | assumption | refine recFrame_fin ?_ | refine stallFrame_unlessStalled (fun _ _ => ?_)
    | refine seqCtl_frame.after ?_

theorem execSeqCtlUnpin_frame {a0} : StallFrame recSequences s (execSeqCtlUnpin a0 s) := by
  unfold execSeqCtlUnpin
  with_reducible repeat' first
    | exact Frame.rfl | assumption | refine recFrame_fin ?_ | refine stallFrame_unlessStalled (fun _ _ => ?_)
    | refine seqCtl_frame.after ?_

theorem execSeqCtlHold_frame {a0} : StallFrame recSequences s (execSeqCtlHold a0 s) := by
  unfold execSeqCtlHold
  with_reducible repeat' first
    | exact Frame.rfl | assumption | refine recFrame_fin ?_ | refine stallFrame_unlessStalled (fun _ _ => ?_)
    | refine seqCtl_frame.after ?_

theorem execSeqCtlRelease_frame {a0} : StallFrame recSequences s (execSeqCtlRelease a0 s) := by
  unfold execSeqCtlRelease
  with_reducible repeat' first
    | exact Frame.rfl | assumption | refine recFrame_fin ?_ | refine stallFrame_unlessStalled (fun _ _ => ?_)
    | refine seqCtl_frame.after ?_

theorem execSeqCtlResume_frame {a0} : StallFrame recSequences s (execSeqCtlResume a0 s) := by
  unfold execSeqCtlResume
  with_reducible repeat' first
    | exact Frame.rfl | assumption | refine recFrame_fin ?_ | refine stallFrame_unlessStalled (fun _ _ => ?_)
    | refine seqCtl_frame.after ?_

/-- What a record's command may change beside what the islands do about the lists that it starts or ends. -/
def recFoot : Instr → Option Footprint
  | .nop _ | .waitRelease _ | .queueFlush _ | .cvRun _ | .loopResetI _ | .plan _ | .fgCopy _ | .fgFill _ => some recPlain
  | .recordStart _ | .jobRun _ _ _ | .stepRun _ _ _ | .wait _ | .fuseCollect _ => some recReads
  | .planStart | .occLoad _ | .libLoad _ => some recPlans
  | .occLoadDone | .libLoadDone => some recLoads
  | .loopEnable _ | .loopDisable _ | .loopSet _ | .trajLoad _ => some recLoops
  | .cvConfig _ | .cvChanVerify _ | .cvChanOff _ | .cvRestore _ => some recChecks
  | .fuseConfig _ | .calibLoad _ | .calibRemove _ => some recFusion
  | .registryBind _ | .registryUnbind _ => some recBinds
  | .swarmCopy _ | .swarmSignal _ => some recSwarm
  | .signal _ | .timestamp _ | .registryRead _ | .cvSave _ => some recStores
  | .seqJoin _ | .seqFinish _ | .seqCtlPin _ | .seqCtlUnpin _ | .seqCtlHold _ | .seqCtlRelease _ | .seqCtlResume _ => some recSequences
  | _ => none

/-- Every record's command stays within its footprint. -/
theorem exec_stallFrame {c : Instr} (h : recFoot c = some D) : StallFrame D s (exec c s) := by
  unfold recFoot at h
  split at h <;> cases h
  exacts [execNop_frame.toStall, execWaitRelease_frame.toStall, execQueueFlush_frame.toStall, execCvRun_frame.toStall,
    execLoopResetI_frame.toStall, execPlan_frame.toStall, execFgCopy_frame.toStall, execFgFill_frame.toStall, execRecordStart_frame,
    execJobRun_frame, execStepRun_frame, execWait_frame, execFuseCollect_frame, execPlanStart_frame.toStall,
    execOccLoad_frame.toStall, execLibLoad_frame.toStall, execOccLoadDone_frame, execLibLoadDone_frame, execLoopEnable_frame.toStall,
    execLoopDisable_frame.toStall, execLoopSet_frame, execTrajLoad_frame, execCvConfig_frame.toStall, execCvChanVerify_frame.toStall,
    execCvChanOff_frame.toStall, execCvRestore_frame, execFuseConfig_frame.toStall, execCalibLoad_frame,
    execCalibRemove_frame.toStall, execRegistryBind_frame.toStall, execRegistryUnbind_frame.toStall, execSwarmCopy_frame,
    execSwarmSignal_frame.toStall, execSignal_frame, execTimestamp_frame, execRegistryRead_frame, execCvSave_frame, execSeqJoin_frame,
    execSeqFinish_frame, execSeqCtlPin_frame, execSeqCtlUnpin_frame, execSeqCtlHold_frame, execSeqCtlRelease_frame,
    execSeqCtlResume_frame]

/-- A command's next state, up to settling, within the footprint that the command has. -/
theorem exec_recFoot {c : Instr} (e : exec c s = .next t) :
    ∃ u, (t = u ∨ t = u.settle ∨ t = u.settle.unwatched) ∧ ∀ D, recFoot c = some D → Frame D s u := by
  cases hc : recFoot c with
  | none => exact ⟨t, .inl rfl, fun _ h => absurd h.symm (Option.some_ne_none _)⟩
  | some D =>
    obtain ⟨u, hu, hf⟩ := exec_stallFrame hc t e
    exact ⟨u, hu, fun E hE => Option.some.inj hE ▸ hf⟩

/-- Settles O37: a record's command stays within its footprint, and each clause's commands are those of one footprint. -/
theorem recordFrames : Obligations.RecordFrames := by
  intro s t d compiled mode c e
  obtain ⟨u, hu, hf⟩ := exec_recFoot e
  have hclause : ∀ (E : Footprint) {l : List Instr}, (∀ x ∈ l, recFoot x = some E) → c ∈ l → u = E.take s u :=
    fun _ _ hl hmem => (hf _ (hl c hmem)).eq_take
  refine ⟨u, hu, ?_⟩
  refine ⟨hclause recPlain ?_, hclause recReads ?_, hclause recPlans ?_, hclause recLoads ?_, hclause recLoops ?_,
    hclause recChecks ?_, hclause recFusion ?_, hclause recBinds ?_, hclause recSwarm ?_, hclause recStores ?_,
    hclause recSequences ?_⟩ <;>
    simp only [List.forall_mem_cons, List.not_mem_nil, false_implies, implies_true, and_true, recFoot]

end Sys2Proof.Proofs
end

section
/-! The step, the state after reset, and what a device reset leaves (O39, O40, O43). -/
namespace Sys2Proof.Proofs
open Sys2Proof Sys2Proof.Machine Sys2Proof.Laws

/-- Settles O39: the step's two cases. -/
theorem stepRunsFront : Obligations.StepRunsFront := by
  refine ⟨fun _ _ _ => rfl, fun s h => ?_⟩
  rw [step, h]

/-- Settles O40: the reset state has the registers' reset values and nothing else. -/
theorem resetMeetsInv : Obligations.ResetMeetsInv := by
  refine ⟨?_, rfl⟩
  unfold State.Inv
  decide +kernel

theorem reset_rails : ∀ n < 4, State.rd {} (PWR_VDD_VSET.idx n) = 0x2EE ∧ State.rd {} (PWR_VDD_VMAX_SEEN.idx n) = 0x2EE ∧
    State.rd {} (PWR_VDD_HEADROOM_LOW.idx n) = 0 ∧ State.rd {} (PWR_VDD_AVS_FAULT.idx n) = 0 := by decide +kernel

theorem reset_registers : State.rd {} HIF_WIN_BASE_BASE = 0 ∧ State.rd {} TIM_NOW_NS = 0 ∧ State.rd {} TIM_FRAC_FRAC = 0 ∧
    State.on {} EVT_CTRL_ENABLE = false := by decide +kernel

theorem reset_mailboxes : ∀ n < 16, State.rd {} (MBX_STAT_STATE.idx n) = 0 := by decide +kernel

theorem reset_vectors : ∀ v < 64, ({} : Hif).msixMask.getLsbD v = true ∧ ({} : Hif).msixPend.getLsbD v = false := by decide +kernel

/-- Settles O43: after a reset every register holds its reset value, and no mailbox, queue, colony or object is left. -/
theorem deviceResetLeaves : Obligations.DeviceResetLeaves := by
  rintro s p cold n v t rfl
  have hrd : ∀ f, (s.afterReset p cold).rd f = State.rd {} f := fun _ => rfl
  obtain ⟨hwin, hnow, hfrac, hevt⟩ := reset_registers
  refine ⟨reset_rails n, hwin, ?time, rfl, reset_vectors v, fun hn => ⟨reset_mailboxes n hn, rfl, rfl⟩, rfl, rfl, rfl, rfl, rfl, hevt,
    ?epoch, rfl, rfl⟩
  case time => rw [State.time96, State.now, hrd, hrd, hnow, hfrac, Nat.zero_mul]
  case epoch => rintro rfl; rfl

end Sys2Proof.Proofs
end

section
/-! A remembered request is answered and not executed again (O47). -/
namespace Sys2Proof.Proofs
open Sys2Proof Sys2Proof.Machine Sys2Proof.Laws

variable {s : State} {m cmd : Nat} {r q : Remembered} {l : List Remembered}

/-- A request that passes its checks and that the mailbox remembers is answered with the remembered response, REPLAY set. -/
theorem serve_replay {act : State → List Byte → BitVec 16 → State × Option Answer} (hm : m < 16) (hstate : s.mbxState m = 1)
    (hfw : s.hif.fwStopped = false) (hcheck : s.requestCheck m (s.mbx m).copy = 0)
    (hfind : ((s.mbx m).remembered.find? fun r =>
      r.tag == s.requestTag m && r.cmd == BitVec.ofNat 16 (field (s.mbx m).copy 0 2)) = some r)
    (hcmd : field (s.mbx m).copy 0 2 = cmd) :
    s.serve m cmd act = s.mbxDone m (patch r.bytes 8 [(r.bytes[8]?).getD 0 ||| 1]) := by
  have hserves : s.servesCmd m cmd = true := by simp [State.servesCmd, hm, hstate, hfw, hcmd]
  rw [hcmd, State.requestTag] at hfind
  unfold State.serve
  rw [if_neg (by simp [hserves])]
  dsimp only
  rw [if_neg (by simp [hcheck]), hfind]

theorem unlessStalled_unhindered {act : State → Out} (h : s.unhindered = true) : s.unlessStalled act = act s := by
  rw [State.unlessStalled, if_pos h]

theorem remember_head : (remember l q).head? = some q := rfl

theorem remember_length : (remember l q).length ≤ 16 := List.length_take_le _ _

theorem mem_remember {x : Remembered} (hl : l.length < 16) (hx : x ∈ l) (htag : x.tag ≠ q.tag) : x ∈ remember l q := by
  have hshort : (q :: l.filter (·.tag ≠ q.tag)).length ≤ 16 := by
    have := List.length_filter_le (fun y : Remembered => decide (y.tag ≠ q.tag)) l
    simp only [List.length_cons]
    omega
  rw [remember, List.take_of_length_le hshort]
  exact List.mem_cons_of_mem _ (List.mem_filter.2 ⟨hx, decide_eq_true htag⟩)

theorem remember_distinct (h : (l.map (·.tag)).Nodup) : ((remember l q).map (·.tag)).Nodup := by
  refine ((List.take_sublist _ _).map _).nodup (List.nodup_cons.2 ⟨?_, (List.filter_sublist.map _).nodup h⟩)
  simp [List.mem_filter]

/-- Settles O47: every command listed serves its mailbox, which answers a remembered request from what it remembers. -/
theorem mailboxReplays : Obligations.MailboxReplays := by
  intro s m base im r q l
  refine ⟨fun hm hstate hfw hcheck hfind => ⟨?now, ?settling, fun hidle hvote hcmd => ?reinit⟩, remember_head, remember_length,
    fun hl x hx htag => mem_remember hl hx htag, remember_distinct⟩
  case now =>
    simp only [List.forall_mem_cons, List.not_mem_nil, false_implies, implies_true, and_true]
    refine ⟨?_, ?_, ?_, ?_, ?_, ?_, ?_, ?_, ?_, ?_, ?_, ?_⟩ <;> intro hcmd <;>
      exact congrArg Host.Outcome.next (serve_replay hm hstate hfw hcheck hfind hcmd)
  case settling =>
    simp only [List.forall_mem_cons, List.not_mem_nil, false_implies, implies_true, and_true]
    constructor <;> intro hcmd <;> exact congrArg fin (serve_replay hm hstate hfw hcheck hfind hcmd)
  case reinit =>
    have hwaits : ¬(s.servesCmd m 0x0400 = true ∧ s.voteWaits (s.reinitClass m) = true) := by simp [hvote]
    change execFuncReinit m s = _
    rw [execFuncReinit, unlessStalled_unhindered hidle, if_neg hwaits]
    exact congrArg fin (serve_replay hm hstate hfw hcheck hfind hcmd)

end Sys2Proof.Proofs
end

section
/-! Which registers an operation can write, by the pages of 4 KiB of BAR0 that they lie in, and what that says of a single register. -/
namespace Sys2Proof.Proofs
open Sys2Proof Sys2Proof.Machine Sys2Proof.Laws

set_option Elab.async false

variable {B C : List Nat} {D : Footprint} {s t u : State}

/-- The BAR0 page of a register's key; the banks of a register lie on the page of the first. -/
abbrev pageOf (y : Nat) : Nat := y % 2 ^ 22 / 4096

/-- Every register outside the pages `B` reads as before. -/
def Pages (B : List Nat) (s t : State) : Prop := ∀ y, pageOf y ∉ B → t.reg y = s.reg y

theorem Pages.rfl : Pages B s s := fun _ _ => Eq.refl _

theorem Pages.mono (h : Pages B s t) (hle : B ⊆ C := by decide) : Pages C s t := fun y hy => h y fun hb => hy (hle hb)

theorem Pages.after (h : Pages B t u) (h0 : Pages C s t) (hle : B ⊆ C := by decide) : Pages C s u :=
  fun y hy => (h.mono hle y hy).trans (h0 y hy)

/-- A register field outside the pages reads as before. -/
theorem Pages.rd_eq {f : Fld} (h : Pages B s t) (hf : pageOf f.off ∉ B) : t.rd f = s.rd f := by rw [State.rd, h f.off hf, State.rd]

theorem pages_setReg {a : Nat} {v : Word64} (ha : pageOf a ∈ B) : Pages B s (s.setReg a v) :=
  fun _ hy => reg_setReg_other fun h => hy (h ▸ ha)

theorem pages_wr {f : Fld} {x : Nat} (hf : pageOf f.off ∈ B) : Pages B s (s.wr f x) := pages_setReg hf

theorem pages_wrB {f : Fld} {b : Bool} (hf : pageOf f.off ∈ B) : Pages B s (s.wrB f b) := pages_setReg hf

theorem pages_inc {f : Fld} {n : Nat} (hf : pageOf f.off ∈ B) : Pages B s (s.inc f n) := pages_setReg hf

/-- An operation that leaves the registers alone. -/
theorem Frame.pages (h : Frame D s t) (hD : D.regs = false := by rfl) : Pages [] s t := by
  have hregs := congrArg State.regs h.eq_take
  simp only [hD] at hregs
  intro y _
  rw [State.reg, hregs, State.reg]

theorem pageOf_bank {f : Fld} {n : Nat} : pageOf (f.bank n).off = pageOf f.off := by
  simp only [pageOf, Fld.bank]
  omega

theorem pages_event {code source object status : Nat} {detail : List Byte} :
    Pages [0x42] s (s.event code source object status detail) := by
  obtain ⟨_, _, _, _, h | h⟩ := event_cases (s := s) code source object status detail <;> rw [h]
  · exact fun _ _ => Eq.refl _
  · exact Pages.after (B := [0x42]) (pages_inc (by decide)) fun _ _ => Eq.refl _

theorem pages_violation {w : Who} {a kind : Nat} : Pages [0x42, 0x4B] s (s.violation w a kind) := by
  have hcount : ∀ m : Mem, Pages [0x42, 0x4B] s { s.inc BWR_PVIOL_COUNT with mem := m } :=
    fun _ => (pages_inc (by decide) : Pages [0x42, 0x4B] s (s.inc BWR_PVIOL_COUNT))
  unfold State.violation
  dsimp only
  split
  · exact hcount _
  · exact pages_event.after (hcount _)

/-! ## A refused inbound swarm request (O59) -/

theorem violation_inv {w : Who} {a kind : Nat} (h : s.Inv) : (s.violation w a kind).Inv :=
  (violation_kept (k := ⟨true, s.pending, s.tclk, s.free⟩) ⟨fun _ => h, Eq.refl _, le_rfl, le_rfl⟩).1 (Eq.refl _)

/-- A partition violation leaves memory and the queues alone. -/
theorem violation_memory {w : Who} {a kind : Nat} :
    (s.violation w a kind).dram = s.dram ∧ (s.violation w a kind).poison = s.poison ∧ (s.violation w a kind).queues = s.queues := by
  have h := (violation_frame (s := s) (a1 := w) (a2 := a) (a3 := kind)).eq_take
  exact ⟨(congrArg State.dram h).trans (Eq.refl _), (congrArg State.poison h).trans (Eq.refl _),
    (congrArg State.queues h).trans (Eq.refl _)⟩

/-- Settles O59: the request's first check refuses it, and a violation leaves its counter alone. -/
theorem swarmRefusals : Obligations.SwarmRefusals := by
  intro s t b st e len hs he hlen happly hrefused
  subst he hlen
  unfold State.swApply at happly
  dsimp only at happly
  rw [if_pos hrefused] at happly
  obtain ⟨rfl, rfl⟩ := Prod.mk.inj happly
  obtain ⟨hdram, hpoison, hqueues⟩ := violation_memory (s := s) (w := s.exportWho (bitsOf (field b 1 1) 0 6))
    (a := s.objAddr (s.rd (SWM_EXP_OBJ_OBJ.bank (bitsOf (field b 1 1) 0 6))) (field b 8 8)) (kind := if field b 0 1 = 1 then 2 else 1)
  refine ⟨rfl, hdram, hpoison, hqueues, ?_⟩
  rw [rd_inc_same (violation_inv hs) (by decide), pages_violation.rd_eq (by decide)]

end Sys2Proof.Proofs
end

section
/-! Excluded pairs and refused requests (O53, O60): a request within one burst that is refused, or whose pair is excluded, returns no data
and stores nothing. -/
namespace Sys2Proof.Proofs
open Sys2Proof Sys2Proof.Machine Sys2Proof.Laws

set_option Elab.async false

variable {s t : State} {w : Who} {a n d : Nat} {bs : List Byte}

/-- A range within one burst is one piece. -/
theorem burstPieces_single (hn : 0 < n) (hfit : a % 512 + n ≤ 512) : burstPieces a n = [(a, n)] := by
  have hcount : (a % 512 + n + 511) / 512 = 1 := by omega
  rw [burstPieces, if_neg (by omega), hcount]
  simp only [List.range_one, List.map_cons, List.map_nil, List.cons.injEq, Prod.mk.injEq, and_true]
  omega

/-- An address that a requester cannot reach: beyond its partitions, or of an excluded pair. -/
def Unreachable (s : State) (w : Who) (a : Nat) : Prop := s.allowed w a = false ∨ s.addrExcluded a = true

/-- The status of a request to an address that its requester cannot reach (R14, R327). -/
def refusal (s : State) (w : Who) (a : Nat) : Nat := if s.allowed w a = false then E_PARTITION else E_LINK

theorem burstStatus_unreachable {isWrite : Bool} (h : Unreachable s w a) : s.burstStatus w isWrite a n = refusal s w a := by
  unfold State.burstStatus refusal
  split_ifs with hallowed hwrite hexcluded
  · rfl
  · rfl
  · exact absurd (h.resolve_left hallowed) hexcluded
  · exact absurd (h.resolve_left hallowed) hexcluded
  · rw [State.memStatus, if_pos (h.resolve_left hallowed)]

theorem findSpan_unreachable (h : Unreachable s w a) (hn : 0 < n) (hfit : a % 512 + n ≤ 512) : s.findSpan w a n = s := by
  have hreach : ¬(s.allowed w a = true ∧ s.addrExcluded a = false) := by rcases h with h | h <;> simp [h]
  rw [State.findSpan, burstPieces_single hn hfit, List.foldl_cons, List.foldl_nil, if_neg hreach, ite_self]

theorem refusal_ne_zero : refusal s w a ≠ 0 := by unfold refusal; split <;> decide

/-- A read that cannot reach its address returns no data. -/
theorem devLoad_unreachable (h : Unreachable s w a) (hn : 0 < n) (hfit : a % 512 + n ≤ 512) :
    (s.devLoad w a n).2 = (refusal s w a, List.replicate n 0) := by
  have hdata : s.allowed w a = false ∨ s.addrExcluded a = true := h
  rw [State.devLoad]
  simp only [findSpan_unreachable h hn hfit, State.spanStatus, State.spanData, burstPieces_single hn hfit, List.map_cons, List.map_nil,
    burstStatus_unreachable h, List.flatMap_cons, List.flatMap_nil, List.append_nil, if_pos hdata]
  simp [refusal_ne_zero]

theorem passRequest_memory {isWrite : Bool} : (s.passRequest w isWrite a n).dram = s.dram ∧ (s.passRequest w isWrite a n).poison = s.poison := by
  have h := (passRequest_frame (s := s) (a1 := w) (a2 := isWrite) (a3 := a) (a4 := n)).eq_take
  exact ⟨(congrArg State.dram h).trans rfl, (congrArg State.poison h).trans rfl⟩

/-- A write that cannot reach its address stores nothing. -/
theorem devStore_unreachable (h : Unreachable s w a) (hn : 0 < bs.length) (hfit : a % 512 + bs.length ≤ 512) :
    (s.devStore w a bs).2 = refusal s w a ∧ (s.devStore w a bs).1.dram = s.dram ∧ (s.devStore w a bs).1.poison = s.poison := by
  have hstatus : ¬(refusal s w a = 0 ∨ refusal s w a = E_POISON) := by unfold refusal; split <;> decide
  rw [State.devStore]
  simp only [State.spanStatus, State.storeSpan, burstPieces_single hn hfit, List.map_cons, List.map_nil, List.foldl_cons, List.foldl_nil,
    burstStatus_unreachable h, if_neg hstatus]
  refine ⟨?_, passRequest_memory⟩
  simp [refusal_ne_zero]

/-! ## Excluded pairs (O60) -/

theorem markExcluded_registers (hs : s.Inv) (hd : d < 4) :
    (s.markExcluded d).rd (IDN_DIE_EXCLUDED.idx d) = 1 ∧ (s.markExcluded d).rd (IDN_DIE_EXCLUDED.idx (4 + d)) = 1 ∧
      (s.markExcluded d).rd (IDN_PKG_INCLUDED.bit d) = 0 ∧ (s.markExcluded d).rd (DMC_STATUS_EXCLUDED.idx d) = 1 := by
  have hsched : ∀ (u : State) n f, (u.useSched n).rd f = u.rd f := fun _ _ _ => rfl
  have hfail : ∀ (u : State) f, (u.failDramDie d).rd f = u.rd f := fun _ _ => rfl
  have h1 := wr_inv (f := DMC_STATUS_EXCLUDED.idx d) (x := 1) hs
  have h2 := wr_inv (f := IDN_DIE_EXCLUDED.idx d) (x := 1) h1
  have h3 := wr_inv (f := IDN_DIE_EXCLUDED.idx (4 + d)) (x := 1) h2
  have h4 := wr_inv (f := IDN_PKG_INCLUDED.bit d) (x := 0) h3
  have h5 := wr_inv (f := IDN_PKG_REDUCED) (x := 1) h4
  simp only [State.markExcluded, hsched, hfail, State.showMixed, State.wrB]
  interval_cases d
  all_goals
    refine ⟨?_, ?_, ?_, ?_⟩ <;> simp (disch := first | assumption | decide) only [rd_wr_disjoint, rd_wr_same] <;> decide

/-- Settles O60: a pair's marks, and what they refuse. -/
theorem pairsExcludedTogether : Obligations.PairsExcludedTogether := by
  rintro s t d a n w bs hs hd rfl
  obtain ⟨hdie, hmem, hincluded, hexcluded⟩ := markExcluded_registers hs hd
  refine ⟨hdie, hmem, by simp [State.dieIncluded, State.on, hincluded], fun ha => ?_⟩
  have haddr : (s.markExcluded d).addrExcluded a = true := by simp [State.addrExcluded, State.on, ha, hexcluded]
  refine ⟨haddr, fun hallowed => ?_⟩
  have hrefusal : refusal (s.markExcluded d) w a = E_LINK := if_neg (by simp [hallowed])
  exact ⟨fun hn hfit => hrefusal ▸ devLoad_unreachable (.inr haddr) hn hfit,
    fun hn hfit => hrefusal ▸ devStore_unreachable (.inr haddr) hn hfit⟩

/-! ## What a colony reads (O53)

A read's status depends on no byte of DRAM: the checks and the controllers' findings commute with a change of DRAM alone. -/

section
variable {m : Memory}

/-- The machine with another DRAM. -/
def withDram (m : Memory) (s : State) : State := { s with dram := m }

theorem rd_withDram {f : Fld} : (withDram m s).rd f = s.rd f := rfl

theorem wr_withDram {f : Fld} {x : Nat} : (withDram m s).wr f x = withDram m (s.wr f x) := rfl

theorem inc_withDram {f : Fld} {n : Nat} : (withDram m s).inc f n = withDram m (s.inc f n) := rfl

theorem poisonWord_withDram {x : Nat} : (withDram m s).poisonWord x = withDram m (s.poisonWord x) := rfl

theorem event_withDram {code source object status : Nat} {detail : List Byte} :
    (withDram m s).event code source object status detail = withDram m (s.event code source object status detail) := by
  unfold State.event withDram
  generalize (65536 : Nat) = places
  dsimp only
  split <;> rfl

theorem foldl_withDram {α : Type} {f : State → α → State} {l : List α} (hf : ∀ s x, f (withDram m s) x = withDram m (f s x)) :
    l.foldl f (withDram m s) = withDram m (l.foldl f s) := by
  induction l generalizing s with
  | nil => rfl
  | cons x l ih => rw [List.foldl_cons, hf, ih, List.foldl_cons]

theorem foldl_wr_withDram {α : Type} {f : α → Fld} {x : α → Nat} {l : List α} :
    l.foldl (fun s e => s.wr (f e) (x e)) (withDram m s) = withDram m (l.foldl (fun s e => s.wr (f e) (x e)) s) :=
  foldl_withDram fun _ _ => wr_withDram

theorem logDram_withDram {d kind o words addr label colony source requests : Nat} :
    (withDram m s).logDram d kind o words addr label colony source requests =
      withDram m (s.logDram d kind o words addr label colony source requests) := by
  have hnow : ∀ s, (withDram m s).now = s.now := fun _ => rfl
  have hseq : ∀ s, (withDram m s).nextEvtSeq = s.nextEvtSeq := fun _ => rfl
  unfold State.logDram
  dsimp only
  simp only [rd_withDram, hnow, hseq, foldl_wr_withDram, inc_withDram, wr_withDram, ← apply_ite (withDram m),
    event_withDram]

theorem findWord_withDram {k : Nat} {e : Nat × Nat} : (withDram m s).findWord w k e = withDram m (s.findWord w k e) := by
  have hdie : ∀ s x, (withDram m s).dieOffset x = s.dieOffset x := fun _ _ => rfl
  have hpkg : ∀ (s : State) p, ({ withDram m s with pkg := p } : State) = withDram m { s with pkg := p } := fun _ _ => rfl
  have hsame : (withDram m s).pkg = s.pkg := rfl
  unfold State.findWord
  dsimp only
  simp only [hsame, hpkg, hdie, inc_withDram, poisonWord_withDram, logDram_withDram, ← apply_ite (withDram m)]

theorem foldl_findWord_withDram {k : Nat} {l : List (Nat × Nat)} :
    l.foldl (fun s x => s.findWord w k x) (withDram m s) = withDram m (l.foldl (fun s x => s.findWord w k x) s) :=
  foldl_withDram fun _ _ => findWord_withDram

theorem findSpan_withDram : (withDram m s).findSpan w a n = withDram m (s.findSpan w a n) := by
  have hallowed : ∀ s a, (withDram m s).allowed w a = s.allowed w a := fun _ _ => rfl
  have hexcluded : ∀ s a, (withDram m s).addrExcluded a = s.addrExcluded a := fun _ _ => rfl
  have hfinds : ∀ s a n, (withDram m s).arrayFinds a n = s.arrayFinds a n := fun _ _ _ => rfl
  unfold State.findSpan
  rw [foldl_withDram fun s e => ?_, ← apply_ite (withDram m)]
  · rfl
  · simp only [hallowed, hexcluded, hfinds, foldl_findWord_withDram, ← apply_ite (withDram m)]

theorem burstPieces_within {e : Nat × Nat} (he : e ∈ burstPieces a n) : a ≤ e.1 ∧ e.1 + e.2 ≤ a + n := by
  unfold burstPieces at he
  split at he
  · exact absurd he List.not_mem_nil
  · obtain ⟨i, hi, rfl⟩ := List.mem_map.1 he
    have := List.mem_range.1 hi
    dsimp only
    omega

theorem memRead_congr {m m' : Memory} (h : ∀ c, a ≤ c → c < a + n → memGet m c = memGet m' c) : memRead m a n = memRead m' a n := by
  induction n generalizing a with
  | zero => rfl
  | succ n ih =>
    rw [memRead, memRead, h a le_rfl (by omega), ih fun c hc hc' => h c (by omega) (by omega)]

/-- What a read returns depends on no byte of DRAM outside its range. -/
theorem devLoad_congr (h : ∀ c, a ≤ c → c < a + n → memGet m c = memGet s.dram c) :
    ((withDram m s).devLoad w a n).2 = (s.devLoad w a n).2 := by
  have hspan : (s.findSpan w a n).dram = s.dram := (congrArg State.dram findSpan_frame.eq_take).trans rfl
  simp only [State.devLoad, findSpan_withDram, Prod.mk.injEq]
  refine ⟨rfl, ?_⟩
  refine List.flatMap_congr fun e he => ?_
  obtain ⟨hlo, hhi⟩ := burstPieces_within he
  have hread : memRead m e.1 e.2 = memRead (s.findSpan w a n).dram e.1 e.2 := by
    rw [hspan]
    exact memRead_congr fun c hc hc' => h c (by omega) (by omega)
  exact if_congr Iff.rfl rfl hread
end

/-- A colony reaches no partition but its own and the shared one. -/
theorem colony_refused {r : PRange} (hlabel : w.label < 16) (hhoney : w.honey = false) (hr : s.rangeAt a = some r)
    (hpart : r.partition ≠ w.colony ∧ r.partition ≠ 16) : s.allowed w a = false := by
  obtain ⟨hown, hshared⟩ := hpart
  rw [State.allowed, hr]
  simp only [mayReach, hhoney, show ¬w.label = 0x11 by omega, show ¬w.label = 0x13 by omega, show ¬w.label = 0x10 by omega,
    show ¬w.label = 0x14 by omega, show ¬w.label = 0x12 by omega, hshared, if_false, decide_false, Bool.false_and, Bool.and_false,
    Bool.or_false, ite_self]
  simp [hown.symm]

/-- Settles O53: what a colony may not reach is refused, and what it reads depends on its range alone. -/
theorem colonyIsolation : Obligations.ColonyIsolation := by
  intro s w a n bs r hlabel hhoney hr
  refine ⟨fun hpart => ?refused, fun _ _ hend m hm => ?own⟩
  case refused =>
    have hallowed := colony_refused hlabel hhoney hr hpart
    have hrefusal : refusal s w a = E_PARTITION := if_pos hallowed
    exact ⟨fun hn hfit => hrefusal ▸ devLoad_unreachable (.inl hallowed) hn hfit,
      fun hn hfit => hrefusal ▸ devStore_unreachable (.inl hallowed) hn hfit⟩
  case own =>
    have hbase : r.base ≤ a ∧ a < r.base + r.size := by
      unfold State.rangeAt at hr
      have hin := List.find?_some hr
      exact of_decide_eq_true hin
    exact devLoad_congr fun c hc hc' => hm c (by omega) (by omega)

end Sys2Proof.Proofs
end

section
/-! A window write reads back, and poison ends where it stores (O52). -/
namespace Sys2Proof.Proofs
open Sys2Proof Sys2Proof.Machine Sys2Proof.Laws

set_option Elab.async false

variable {s : State} {mem : Memory} {a c n x : Nat} {b : Byte} {bs : List Byte}

theorem memGet_memWrite_zeros (hm : mem.wf = true) (h : a ≤ c ∧ c < a + n) : memGet (memWrite mem a (List.replicate n 0)) c = 0 := by
  induction n generalizing mem a with
  | zero => omega
  | succ n ih =>
    rw [List.replicate_succ, memWrite]
    by_cases hc : c = a
    · subst hc
      rw [memGet_memWrite_outside (.inl (Nat.lt_succ_self c)), memGet_memSet_same hm]
    · exact ih (memSet_wf hm) (by omega)

/-! ## One byte -/

theorem pokeByte_inv (h : s.Inv) : (s.pokeByte a b).Inv :=
  (pokeByte_kept (k := ⟨true, s.pending, s.tclk, s.free⟩) ⟨fun _ => h, rfl, le_rfl, le_rfl⟩).1 rfl

/-- A byte stored into a poisoned word ends its poison and makes its other bytes 0 (R296). -/
theorem pokeByte_poisoned (h : s.isPoisoned (a / 64) = true) :
    (s.pokeByte a b).dram = memSet (memWrite s.dram (a / 64 * 64) (List.replicate 64 0)) a b ∧
      (s.pokeByte a b).poison = s.poison.filter (· ≠ a / 64) := by
  simp only [State.pokeByte, if_pos h, and_self]

theorem pokeByte_whole (h : ¬s.isPoisoned (a / 64) = true) :
    (s.pokeByte a b).dram = memSet s.dram a b ∧ (s.pokeByte a b).poison = s.poison := by
  rw [State.pokeByte, if_neg h]
  exact ⟨rfl, rfl⟩

theorem memGet_pokeByte_same (h : s.Inv) : memGet (s.pokeByte a b).dram a = b := by
  obtain ⟨-, hdram, -⟩ := h
  by_cases hp : s.isPoisoned (a / 64) = true
  · rw [(pokeByte_poisoned hp).1, memGet_memSet_same (memWrite_wf hdram)]
  · rw [(pokeByte_whole hp).1, memGet_memSet_same hdram]

theorem memGet_pokeByte_other (h : s.Inv) (hc : c ≠ a) :
    memGet (s.pokeByte a b).dram c = if s.isPoisoned (c / 64) = true ∧ a / 64 = c / 64 then 0 else memGet s.dram c := by
  obtain ⟨-, hdram, -⟩ := h
  by_cases hp : s.isPoisoned (a / 64) = true
  · rw [(pokeByte_poisoned hp).1, memGet_memSet_other hc]
    by_cases hword : a / 64 = c / 64
    · rw [if_pos ⟨hword ▸ hp, hword⟩, memGet_memWrite_zeros hdram (by omega)]
    · rw [if_neg (fun h => hword h.2), memGet_memWrite_outside (by rw [List.length_replicate]; omega)]
  · rw [(pokeByte_whole hp).1, memGet_memSet_other hc, if_neg fun hword => hp (by rw [hword.2]; exact hword.1)]

theorem isPoisoned_pokeByte {w : Nat} : (s.pokeByte a b).isPoisoned w = true ↔ s.isPoisoned w = true ∧ a / 64 ≠ w := by
  by_cases hp : s.isPoisoned (a / 64) = true
  · rw [State.isPoisoned, (pokeByte_poisoned hp).2, State.isPoisoned]
    simp only [List.contains_eq_mem, List.mem_filter, decide_eq_true_eq, ne_eq, eq_comm (a := w)]
  · rw [State.isPoisoned, (pokeByte_whole hp).2, ← State.isPoisoned]
    exact ⟨fun h => ⟨h, fun hw => hp (hw ▸ h)⟩, And.left⟩

/-! ## A run of bytes -/

/-- A run of `n` bytes from `a` touches the word of `c`. -/
abbrev Touches (a n w : Nat) : Prop := ∃ k, k < n ∧ (a + k) / 64 = w

theorem touches_succ {w : Nat} : Touches a (n + 1) w ↔ a / 64 = w ∨ Touches (a + 1) n w := by
  constructor
  · rintro ⟨k, hk, hw⟩
    rcases k with _ | k
    · exact .inl hw
    · exact .inr ⟨k, by omega, by rw [Nat.add_right_comm]; exact hw⟩
  · rintro (hw | ⟨k, hk, hw⟩)
    · exact ⟨0, by omega, hw⟩
    · exact ⟨k + 1, by omega, by rw [← Nat.add_assoc, Nat.add_right_comm]; exact hw⟩

theorem isPoisoned_pokeBytes {w : Nat} : (s.pokeBytes a bs).isPoisoned w = true ↔ s.isPoisoned w = true ∧ ¬Touches a bs.length w := by
  induction bs generalizing s a with
  | nil => simp [State.pokeBytes, Touches]
  | cons b bs ih => rw [State.pokeBytes, ih, isPoisoned_pokeByte, List.length_cons, touches_succ, not_or, and_assoc]

theorem memGet_pokeBytes_outside (h : s.Inv) (hc : c < a ∨ a + bs.length ≤ c) :
    memGet (s.pokeBytes a bs).dram c = if s.isPoisoned (c / 64) = true ∧ Touches a bs.length (c / 64) then 0 else memGet s.dram c := by
  induction bs generalizing s a with
  | nil => simp [State.pokeBytes, Touches]
  | cons b bs ih =>
    rw [List.length_cons] at hc
    rw [State.pokeBytes, ih (pokeByte_inv h) (by omega), memGet_pokeByte_other h (by omega)]
    simp only [isPoisoned_pokeByte, List.length_cons, touches_succ]
    by_cases hword : a / 64 = c / 64 <;> simp [hword]

theorem memRead_pokeBytes (h : s.Inv) : memRead (s.pokeBytes a bs).dram a bs.length = bs := by
  induction bs generalizing s a with
  | nil => rfl
  | cons b bs ih =>
    have hpoison : ¬(s.pokeByte a b).isPoisoned (a / 64) = true := fun hp => (isPoisoned_pokeByte.1 hp).2 rfl
    rw [List.length_cons, memRead, State.pokeBytes, ih (pokeByte_inv h), memGet_pokeBytes_outside (pokeByte_inv h) (by omega),
      if_neg (fun hp => hpoison hp.1), memGet_pokeByte_same h]

/-! ## The window -/

theorem passSpan_memory {w : Who} {isWrite : Bool} :
    (s.passSpan w isWrite a n).dram = s.dram ∧ (s.passSpan w isWrite a n).poison = s.poison := by
  have h := (passSpan_frame (s := s) (a1 := w) (a2 := isWrite) (a3 := a) (a4 := n)).eq_take
  exact ⟨(congrArg State.dram h).trans rfl, (congrArg State.poison h).trans rfl⟩

theorem passSpan_inv {w : Who} {isWrite : Bool} (h : s.Inv) : (s.passSpan w isWrite a n).Inv :=
  (passSpan_kept (k := ⟨true, s.pending, s.tclk, s.free⟩) ⟨fun _ => h, rfl, le_rfl, le_rfl⟩).1 rfl

/-- A window write that is taken passes to memory and stores there. -/
theorem windowWrite_taken (hidle : s.unhindered = true) (hwin : s.inWindow x bs.length = true)
    (hexcluded : s.spanExcluded (s.winAddr x) bs.length = false) (hvisible : s.spanVisible (s.winAddr x) bs.length = true) :
    exec (.windowWrite x bs) s = .next ((s.passSpan hostWho true (s.winAddr x) bs.length).memStore (s.winAddr x) bs) := by
  change execWindowWrite x bs s = _
  rw [execWindowWrite, if_pos hwin, State.hostAccess]
  simp only [hidle, if_true, State.windowAccess, State.windowWrite, hexcluded, hvisible, Bool.false_eq_true, if_false, Bool.true_eq_false]

/-- Settles O52: the run of bytes that the write stores. -/
theorem windowWriteReadsBack : Obligations.WindowWriteReadsBack := by
  rintro s x a bs hs hidle rfl hwin hexcluded hvisible
  obtain ⟨hdram, hpoison⟩ := passSpan_memory (s := s) (w := hostWho) (isWrite := true) (a := s.winAddr x) (n := bs.length)
  have hinv := passSpan_inv (w := hostWho) (isWrite := true) (a := s.winAddr x) (n := bs.length) hs
  have hsame : ∀ w, (s.passSpan hostWho true (s.winAddr x) bs.length).isPoisoned w = s.isPoisoned w := fun w => by
    rw [State.isPoisoned, hpoison, State.isPoisoned]
  refine ⟨_, windowWrite_taken hidle hwin hexcluded hvisible, memRead_pokeBytes hinv, fun c hc => ?_, fun w => ?_⟩
  · refine (memGet_pokeBytes_outside hinv hc).trans ?_
    rw [hsame, hdram]
  · exact isPoisoned_pokeBytes.trans (by rw [hsame])

end Sys2Proof.Proofs
end

section
/-! Which registers a command can write: not so of waggle's commands (O38).  The link of island B, 8, is not one of a Rurad die, but a
failure of it excludes "die 8" all the same, and the status register of that memory controller lies outside the blocks named. -/
namespace Sys2Proof.Proofs
open Sys2Proof Sys2Proof.Machine Sys2Proof.Laws

/-- Island B's link waits for its IDENT, after three retransmissions. -/
def waitingLink : State := { pkg := { links := tset {} [] 8 { phase := .hello, retrans := 3 } } }

/-- An IDENT whose CHECK does not hold. -/
def badIdent : WaggleMsg := List.replicate 32 0

/-- The fourth silence ends the link (R31), and with it marks the memory controller at 0x58000 as excluded. -/
theorem badIdent_excludes : (match exec (.waggleIdent 8 badIdent true) waitingLink with
    | .next t => t.reg 0x58000 != waitingLink.reg 0x58000
    | _ => false) = true := by decide +kernel

/-- Refutes O38: a failure of link 8 writes 0x58000, which is in none of the blocks named for waggle's commands. -/
theorem not_registerFrames : ¬ Obligations.RegisterFrames := by
  intro h
  have hexec := badIdent_excludes
  cases ht : exec (.waggleIdent 8 badIdent true) waitingLink with
  | next t =>
    obtain ⟨-, -, -, -, -, -, -, -, hwaggle, -, -⟩ := h waitingLink t (.waggleIdent 8 badIdent true) 0 0 8 0 0 0 0 0 0 0 [] [] 0 {} badIdent
      true false false false none 0 0 0 [] [] [] 0 { kind := 0, addr := 0, words := 0, source := 0 } (by decide) ht
    have hsame := hwaggle (by simp) 0x58000 (by decide)
    rw [ht] at hexec
    simp [hsame] at hexec
  | _ => simp [ht] at hexec

end Sys2Proof.Proofs
end

section
/-! What the commands of power, resets and boot leave (O1). -/
namespace Sys2Proof.Proofs
open Sys2Proof Sys2Proof.Machine Sys2Proof.Laws

set_option Elab.async false

variable {s : State} {f g : Fld} {x : Nat}

/-! ## Registers whose value is not 0

A register that is set to a value other than 0 holds it, listed canonically or not. -/

theorem tget_tset_ne {α : Type} [DecidableEq α] {d v : α} (hv : v ≠ d) (t : Table α) (k : Nat) : tget d (tset d t k v) k = v := by
  induction t with
  | nil => simp [tset, tget, hv]
  | cons e t ih =>
    obtain ⟨k', w⟩ := e
    rw [tset]
    split_ifs with hlt heq
    · exact (if_pos rfl)
    · exact (if_pos rfl)
    · exact (if_neg (Ne.symm heq)).trans ih

theorem rd_wr_nonzero (hw : f.lo + f.w ≤ 64) (hx : x % 2 ^ f.w ≠ 0) : (s.wr f x).rd f = x % 2 ^ f.w := by
  have hbits : getBits (setBits (s.reg f.off) f.lo f.w x) f.lo f.w = x % 2 ^ f.w := getBits_setBits hw
  have hne : setBits (s.reg f.off) f.lo f.w x ≠ 0 := fun h0 => hx (by rw [← hbits, h0]; simp [getBits])
  rw [← hbits, State.rd, State.wr, State.reg, State.setReg, tget_tset_ne hne]

/-- A field that is not 0 stays when another one is set. -/
theorem rd_wr_keeps (hg : s.rd g ≠ 0) (h : g.off ≠ f.off ∨ g.lo + g.w ≤ f.lo ∨ f.lo + f.w ≤ g.lo) : (s.wr f x).rd g = s.rd g := by
  by_cases hoff : g.off = f.off
  · have hbits : getBits (setBits (s.reg f.off) f.lo f.w x) g.lo g.w = s.rd g := by
      rw [getBits_setBits_disjoint (h.resolve_left (not_not.2 hoff)), State.rd, hoff]
    have hne : setBits (s.reg f.off) f.lo f.w x ≠ 0 := fun h0 => hg (by rw [← hbits, h0]; simp [getBits])
    rw [← hbits, State.rd, State.wr, State.reg, State.setReg, hoff, tget_tset_ne hne]
  · exact rd_wr_other hoff

theorem on_of_rd_ne (h : s.rd f ≠ 0) : s.on f = true := decide_eq_true h

theorem on_wr_one (hw : f.w = 1) (hlo : f.lo + 1 ≤ 64) : (s.wr f 1).on f = true := by
  refine on_of_rd_ne ?_
  rw [rd_wr_nonzero (by omega) (by rw [hw]; decide), hw]
  decide

theorem on_wr_keeps (hg : s.on g = true) (h : g.off ≠ f.off ∨ g.lo + g.w ≤ f.lo ∨ f.lo + f.w ≤ g.lo) : (s.wr f x).on g = true := by
  have hrd : s.rd g ≠ 0 := of_decide_eq_true hg
  exact on_of_rd_ne (by rwa [rd_wr_keeps hrd h])

theorem rd_wrB_other {b : Bool} (h : g.off ≠ f.off) : (s.wrB f b).rd g = s.rd g := rd_wr_other h

theorem rd_of_regs {t : State} (h : t.regs = s.regs) : t.rd f = s.rd f := by rw [State.rd, State.reg, h, State.rd, State.reg]

theorem Frame.rd_eq {D : Footprint} {t : State} (h : Frame D s t) (hD : D.regs = false) : t.rd f = s.rd f :=
  (h.pages hD).rd_eq List.not_mem_nil

theorem rd_setMem (u : State) (m : Mem) : ({ u with mem := m } : State).rd f = u.rd f := rd_of_regs rfl

theorem rd_setPorts (u : State) (p : Ports) : ({ u with ports := p } : State).rd f = u.rd f := rd_of_regs rfl

theorem rd_modPkg (u : State) (h : Package → Package) : (u.modPkg h).rd f = u.rd f := rd_of_regs rfl

theorem on_modPkg (u : State) (h : Package → Package) : (u.modPkg h).on f = u.on f := by rw [State.on, rd_modPkg, State.on]

theorem rd_useSched (u : State) (n : Nat) : (u.useSched n).rd f = u.rd f := rd_of_regs rfl

/-- Writes of two fields of one register, or of two registers: the first field reads as written. -/
theorem rd_wr_wr {y : Nat} (hw : f.lo + f.w ≤ 64) (hx : x % 2 ^ f.w ≠ 0)
    (h : f.off ≠ g.off ∨ f.lo + f.w ≤ g.lo ∨ g.lo + g.w ≤ f.lo) : ((s.wr f x).wr g y).rd f = x % 2 ^ f.w := by
  have hset : (s.wr f x).rd f = x % 2 ^ f.w := rd_wr_nonzero hw hx
  rw [rd_wr_keeps (hset ▸ hx) h, hset]

/-! ## MBX_CTRL.READY -/

theorem layMemory_rd {cfg : FwConfig} (hf : f.off ≠ DMC_MAP_ISHARE.off) : (s.layMemory cfg).rd f = s.rd f := by
  unfold State.layMemory
  extract_lets reduced ishare ranges pools s1
  have hs1 : s1.rd f = s.rd f := (rd_wrB_other (f := DMC_MAP_AFFINE_ONLY) hf).trans (rd_wr_other hf)
  have hgrant : ∀ u : State, u.grantPartner.rd f = u.rd f := fun u => grantPartner_frame.rd_eq rfl
  exact (hgrant _).trans ((rd_setMem _ _).trans hs1)

theorem planMemory_rd {cfg : FwConfig} (hf : f.off ≠ DMC_MAP_ISHARE.off) : (s.planMemory cfg).rd f = s.rd f := by
  unfold State.planMemory
  exact (rd_setMem _ _).trans (layMemory_rd hf)

/-- The registers that show the firmware ready. -/
def showReady (s : State) (cfg : FwConfig) : State :=
  (((s.wr MBX_CTRL_READY 1).wr MBX_CTRL_HIF_MAJOR cfg.major).wr MBX_CTRL_HIF_MINOR cfg.minor).wr IDN_BOOT_STAGE 4

theorem showReady_rd (s : State) (cfg : FwConfig) :
    (showReady s cfg).rd MBX_CTRL_READY = 1 ∧ (showReady s cfg).rd IDN_BOOT_STAGE = 4 := by
  refine ⟨?_, rd_wr_nonzero (by decide) (by decide)⟩
  have hready : (s.wr MBX_CTRL_READY 1).rd MBX_CTRL_READY = 1 := rd_wr_nonzero (by decide) (by decide)
  have hmajor : ((s.wr MBX_CTRL_READY 1).wr MBX_CTRL_HIF_MAJOR cfg.major).rd MBX_CTRL_READY = 1 := by
    rw [rd_wr_keeps (by simp [hready]) (by decide), hready]
  rw [showReady, rd_wr_other (by decide), rd_wr_keeps (by simp [hmajor]) (by decide), hmajor]

/-- The state in which the ports start. -/
def readyState (s : State) (cfg : FwConfig) : State :=
  let s1 := (showReady s cfg).planMemory cfg
  let pwm := (List.range cfg.pwmPeriod.length).foldl (fun t n =>
    tmod ({} : Pwm) t n fun x => { x with period := (cfg.pwmPeriod[n]?).getD 0 }) s1.ports.pwm
  { s1 with ports := { s1.ports with cfg := cfg, pwm := pwm } }

theorem readyState_rd {cfg : FwConfig} (hf : f.off ≠ DMC_MAP_ISHARE.off) : (readyState s cfg).rd f = (showReady s cfg).rd f := by
  unfold readyState
  exact (rd_setPorts _ _).trans (planMemory_rd hf)

theorem mailboxReady_completes {cfg : FwConfig} (hstage : s.rd IDN_BOOT_STAGE = 3) (hdies : s.diesSettled = true)
    (hsome : s.includedDies ≠ []) (hheld : s.pkg.heldInReset = false) :
    exec (.mailboxReady cfg) s = .next ((readyState s cfg).startPorts.bootEvents.bootWait).settle := by
  have hgo : ¬(s.rd IDN_BOOT_STAGE ≠ 3 ∨ s.diesSettled = false ∨ s.includedDies = [] ∨ s.pkg.heldInReset = true) := by
    simp [hstage, hdies, hsome, hheld]
  change execMailboxReady cfg s = _
  unfold execMailboxReady readyState showReady
  rw [if_neg hgo, fin]

/-- Settles O1: each command on its taken path. -/
theorem bootCommandsComplete : Obligations.BootCommandsComplete := by
  intro s p b cfg d i width rate lanes
  refine ⟨rfl, rfl, fun hheld => ⟨?perst, ?deassert⟩, fun hheld hperst => ⟨?hot, ?flr⟩, fun hjoined => ?islandB, rfl, fun hoff => ?loss,
    fun hjoined hpower u hu => ?lossJoined, fun hstage hheld hslot => ?verified, fun hstage hdies hsome hheld => ?ready, fun hmay hwarm hlanes => ?trained,
    fun hmay hwarm hended => ?retrained, fun hstage herr hsome htrained hrings hb => ?release, fun hpower hready hslot => ?bReady⟩
  case perst => exact if_neg (by simp [hheld])
  case deassert => exact if_neg (by simp [hheld])
  case hot => exact if_neg (by simp [hheld, hperst])
  case flr => exact if_neg (by simp [hheld, hperst])
  case islandB =>
    change fin _ = _
    rw [hjoined]
    rfl
  case loss =>
    have hage : s.holdAge = s := if_neg (by rcases hoff with h | h <;> simp [h])
    change execVddSfdLoss s = _
    unfold execVddSfdLoss
    rw [hage]
    rfl
  case lossJoined =>
    have hage : s.holdAge = u := hu ▸ if_pos ⟨hjoined, hpower⟩
    change execVddSfdLoss s = _
    unfold execVddSfdLoss
    rw [hage]
    rfl
  case verified =>
    change execFirmwareVerified s = _
    unfold execFirmwareVerified
    rw [if_neg (by simp [hstage, hheld])]
    dsimp only
    rw [hslot]
  case ready =>
    obtain ⟨hready, hfour⟩ := showReady_rd s cfg
    refine ⟨readyState s cfg, on_of_rd_ne ?_, ?_, rfl, mailboxReady_completes hstage hdies hsome hheld⟩
    · rw [readyState_rd (by decide), hready]
      exact one_ne_zero
    · rw [readyState_rd (by decide), hfour]
  case trained =>
    change execMemoryTrainingDone d lanes none s = _
    unfold execMemoryTrainingDone
    rw [if_neg (by simp [hmay, hwarm]), hlanes]
    rfl
  case retrained =>
    refine ⟨(((s.modPkg fun k => { k with shortTrainEnded := k.shortTrainEnded ||| (1#4 <<< d) }).pairTrained d
      ((tget none s.pkg.lanes d).getD [])).wr (DMC_STATUS_WARM.idx d) 1).modPkg fun k =>
        { k with shortTrainPassed := k.shortTrainPassed ||| (1#4 <<< d) }, ?_, ?_, ?_⟩
    · rw [on_modPkg]
      refine on_wr_keeps ?_ (.inr (by decide : DMC_STATUS_TRAINED.lo + DMC_STATUS_TRAINED.w ≤ DMC_STATUS_WARM.lo ∨
        DMC_STATUS_WARM.lo + DMC_STATUS_WARM.w ≤ DMC_STATUS_TRAINED.lo))
      rw [State.pairTrained, on_modPkg]
      exact on_wr_one rfl (by decide : DMC_STATUS_TRAINED.lo + 1 ≤ 64)
    · rw [on_modPkg]
      exact on_wr_one rfl (by decide : DMC_STATUS_WARM.lo + 1 ≤ 64)
    · exact if_neg (by simp [hmay, hwarm, hended])
  case release =>
    have hgo : ¬((s.rd IDN_BOOT_STAGE ≠ 4 ∧ s.rd IDN_BOOT_STAGE ≠ 5) ∨ s.rd IDN_BOOT_ERROR ≠ 0 ∨ s.includedDies = [] ∨
        (s.includedDies.all fun d => s.on (DMC_STATUS_TRAINED.idx d)) = false ∨ s.ringsSettled = false ∨
        s.on IDN_BOOT_ISLAND_B = false) := by
      rw [herr, htrained, hrings, hb]
      rcases hstage with h | h <;> simp [h, hsome]
    refine ⟨_, if_neg hgo, ?_, ?_⟩
    · refine on_of_rd_ne ?_
      rw [rd_useSched]
      exact of_decide_eq_true (on_wr_one rfl (by decide))
    · rw [rd_useSched, rd_wr_wr (by decide) (by decide) (by decide)]
      decide
  case bReady =>
    change execIslandBReady s = _
    unfold execIslandBReady
    rw [if_neg (by simp [hpower, hready])]
    dsimp only
    rw [hslot]

end Sys2Proof.Proofs
end

section
/-! What waggle's messages and timeouts leave (O2): a reply that the leader takes, a request that the follower takes, and the rest. -/
namespace Sys2Proof.Proofs
open Sys2Proof Sys2Proof.Machine Sys2Proof.Laws

set_option Elab.async false

variable {s u : State} {k j t type : Nat} {m : WaggleMsg} {phase : WagPhase}

theorem wagReply_taken {act : State → State} (h : s.takesReply k m type phase) : s.wagReply k m type phase act = act s := by
  obtain ⟨hok, htype, hlink, hproto, hphase, hseq⟩ := h
  simp only [State.wagReply]
  rw [if_neg (by simp [hok]), if_neg (by simp [htype, hlink, hphase, hseq]), if_neg (by simp [hproto])]

theorem wagServe_taken {act : State → State × List WaggleMsg} (h : s.takesRequest k m type) :
    s.wagServe k m type act = (act s).1.answerWith k m (act s).2 := by
  obtain ⟨hrejected, hok, htype, hnew⟩ := h
  simp only [State.wagServe]
  rw [if_neg (by simp [hrejected]), if_neg (by simp [hok]), if_neg (by simp [htype]), if_neg hnew]
  rfl

theorem waitTo_frame : Frame { tclk := true, regs := true, jobs := true, saf := true, thm := true } s (s.waitTo t) := by
  unfold State.waitTo
  exact frame_ite elapse_frame Frame.rfl

theorem waitTo_wag : (s.waitTo t).wag k = s.wag k :=
  congrArg (fun p : Package => tget ({} : WagLink) p.links k) ((congrArg State.pkg waitTo_frame.eq_take).trans rfl)

/-- What a link does at the end of a wait for a reply (R32). -/
theorem wagRetry_again (hover : (s.wag k).isOver = false) (hfew : (s.wag k).retrans < 3) : s.wagRetry k =
    (s.modWag k fun x => { x with retrans := x.retrans + 1, sentAt := s.tclk }).wagSend k true (s.wag k).request := by
  simp only [State.wagRetry]
  rw [if_neg (by simp [hover]), if_neg (by omega)]
  rfl

theorem wagRetry_fails (hover : (s.wag k).isOver = false) (hmany : 3 ≤ (s.wag k).retrans) : s.wagRetry k = s.wagFail k (quietReject k) := by
  simp only [State.wagRetry]
  rw [if_neg (by simp [hover]), if_pos hmany]

theorem wagRetry_report (hover : (s.wag k).isOver = true) (hawaits : (s.wag k).awaits = true) (hphase : (s.wag k).phase = .complete ∨
    (s.wag k).phase = .failed) : s.wagRetry k =
    (s.modWag k fun x => { x with sentAt := s.tclk }).wagSend (leadSite k) false (s.wag k).report := by
  have hreport : (s.wag k).report ≠ [] ∧ (s.wag k).reported = false := by
    rcases hphase with h | h <;> simpa [WagLink.awaits, h] using hawaits
  simp only [State.wagRetry]
  rw [if_pos hover, if_pos hreport]
  rfl

/-- A wait for a reply that ends (R32). -/
theorem replyTimeout_awaiting (hk : k < 10) (hawaits : (s.wag k).awaits = true) :
    exec (.waggleReplyTimeout k) s = .next ((s.waitTo ((s.wag k).sentAt + 25000)).wagRetry k) :=
  (if_neg (by omega)).trans (if_pos hawaits)

theorem isOver_phase {x : WagLink} (h : x.isOver = true) : x.phase = .complete ∨ x.phase = .failed := by
  simpa [WagLink.isOver] using h

/-- A NAK of the outstanding request (R32). -/
theorem wagNak_leader (hok : wOk m = true) (htype : wType m = 15) (hover : (s.wag k).isOver = false)
    (hseq : wPay m 0 1 = (s.wag k).seq.toNat) : s.wagNak k false m = s.wagRetry k := by
  simp only [State.wagNak]
  rw [if_neg (by simp [hok]), if_neg (by simp [htype]), if_neg (by simp), if_pos ⟨hover, hseq⟩]

/-! ## A completed link stays complete -/

theorem wag_setWag_other {x : WagLink} (h : k ≠ j) : (s.setWag j x).wag k = s.wag k := tget_tset_other h

theorem wag_modPkg {f : Package → Package} (h : ∀ p, (f p).links = p.links) : (s.modPkg f).wag k = s.wag k :=
  congrArg (fun l => tget ({} : WagLink) l k) (h s.pkg)

theorem phase_setWag_complete {x : WagLink} (h : x.phase = .complete) : ((s.setWag k x).wag k).phase = .complete := by
  have hne : x ≠ {} := fun hx => by simp [hx] at h
  exact (congrArg WagLink.phase (tget_tset_ne hne _ _)).trans h

theorem wagSend_wag {b : Bool} : (s.wagSend j b m).wag k = s.wag k := wag_modPkg fun _ => rfl

theorem Frame.wag_eq {D : Footprint} (h : Frame D s u) (hD : D.package = false) : u.wag k = s.wag k := by
  have hl := congrArg (fun x => x.pkg.links) h.eq_take
  simp only [hD] at hl
  rw [State.wag, hl, State.wag]

theorem wagSend_modWag_phase {f : WagLink → WagLink} {b : Bool} (hf : (f (s.wag k)).phase = .complete) :
    (((s.modWag k f).wagSend j b m).wag k).phase = .complete := by
  rw [wagSend_wag]
  exact phase_setWag_complete hf

theorem startRings_wag (hk : isRing k = false) : (s.startRings j).wag k = s.wag k := by
  have hring : ∀ n ∈ ringOf j, k ≠ n := by
    rintro n hn rfl
    simp only [ringOf, List.mem_filter, List.mem_cons, List.not_mem_nil, or_false] at hn
    obtain ⟨hn, -⟩ := hn
    simp [isRing] at hk
    omega
  unfold State.startRings
  revert hring
  generalize ringOf j = l
  induction l generalizing s with
  | nil => exact fun _ => rfl
  | cons n l ih =>
    intro hring
    rw [List.foldl_cons, ih fun n hn => hring n (List.mem_cons_of_mem _ hn)]
    split
    · rw [State.wagStart, wagSend_wag, wag_setWag_other (hring n List.mem_cons_self)]
    · rfl

/-- Whatever DONE starts or shows at a link, the link itself stays complete (R33). -/
theorem reachDone_complete : ((s.reachDone k).wag k).phase = .complete := by
  have hset : ((s.setWag k { s.wag k with phase := .complete }).wag k).phase = .complete := phase_setWag_complete rfl
  unfold State.reachDone
  extract_lets x s1
  split
  · exact wagSend_modWag_phase hset
  · rename_i hring
    split
    · rw [grantPartner_frame.wag_eq rfl, wag_modPkg fun _ => by rfl, linkUp_frame.wag_eq rfl, wr_frame.wag_eq rfl, setDieWord_frame.wag_eq rfl]
      exact hset
    · rw [settleDies_frame.wag_eq rfl, showMixed_frame.wag_eq rfl, startRings_wag (by simpa using hring), linkUp_frame.wag_eq rfl,
        wr_frame.wag_eq rfl]
      exact hset

/-- The payload of TRAINED (R33). -/
theorem trainedPayload {c : Prop} [Decidable c] {up rate : Nat} :
    leBytes 1 (if decide c = true then 0 else 1) ++ leBytes 1 (if decide c = true then up else 0) ++ leBytes 1 rate =
      if c then [0, BitVec.ofNat 8 up, BitVec.ofNat 8 rate] else [1, 0, BitVec.ofNat 8 rate] := by
  by_cases h : c <;> simp [h, leBytes]

/-- The end of a training attempt (R33). -/
theorem wagTrainingDone_training {result : Nat} {mods : BitVec 4} (h : (s.wag k).folTraining = true) :
    s.wagTrainingDone k result mods =
      let x := s.wag k
      let up := x.folMods &&& mods &&& x.repairable k
      let pass := decide (result = 0 ∧ up ≠ 0) && enough k x.folRate up
      let r := wagMsg 6 (x.folSeq.getD 0).toNat (folSite k) k (if result = 0 ∧ up ≠ 0 then
        [0, BitVec.ofNat 8 up.toNat, BitVec.ofNat 8 x.folRate] else [1, 0, BitVec.ofNat 8 x.folRate])
      (s.modWag k fun x => { x with
        folTraining := !pass && decide (x.folFails < 1), folFails := if pass then 0 else x.folFails + 1, folReply := [r] }).wagSend k false r := by
  have hfails : ∀ n, decide (n + 1 < 2) = decide (n < 1) := fun n => by simp
  simp only [State.wagTrainingDone, trainedPayload, hfails]
  rw [if_neg (by simp [h])]
  rfl

/-- Settles O2: each message and each timeout on its taken path. -/
theorem waggleCommandsComplete : Obligations.WaggleCommandsComplete := by
  intro s k rate lanes result m mods up sigOk pass
  refine ⟨fun h => ?hello, fun h hring => ?identRing, fun h hvar => ?identPartner,
    fun h hk hid hrsv hvar hown hmem hrec1 hrec2 => ?identDie, fun h hmods henough => ?offer, fun h => ?select, fun h hsame => ?confirm,
    fun htrain hup hpass r hr => ?training, fun h hok hne henough => ?trained, fun hok htype hring hlead hreport => ?echoed,
    fun hok htype hk hring hlead hrec => ?ring, fun h => ?doneServed, fun h => ⟨?done, reachDone_complete⟩, fun hok htype => ?reject,
    fun hok htype hover hseq hfew => ?nakAgain, fun hok htype hseq => ?nakReplies, fun hok htype hover hseq hmany => ?nakFails,
    fun hk hawaits hover => ?report, fun hk hawaits hover hmany => ?silentFails, fun hk hawaits hover hfew => ?silentAgain,
    fun hk hover hphase => ?doneTimeout, fun hring hover hphase => ?ringTimeout⟩
  case hello => exact congrArg Host.Outcome.next (wagServe_taken h)
  case identRing =>
    refine congrArg Host.Outcome.next ((wagReply_taken h).trans ?_)
    have hk9 : k ≠ 9 := by rintro rfl; cases hring
    rw [if_neg hk9, if_pos hring]
  case identPartner =>
    refine congrArg Host.Outcome.next ((wagReply_taken h).trans ?_)
    rw [if_pos rfl]
    exact if_pos ⟨hvar, rfl⟩
  case identDie =>
    refine congrArg Host.Outcome.next ((wagReply_taken h).trans ?_)
    have hring : ¬isRing k = true := by simp [isRing]; omega
    rw [if_neg (by omega), if_neg hring]
    simp only [State.identDie]
    rw [if_neg (by simp [hid, hrsv, hvar]), if_neg (by simp [hown, hmem])]
    simp [hrec1, hrec2]
  case offer =>
    refine congrArg Host.Outcome.next ((wagReply_taken h).trans ?_)
    exact if_neg (not_or.2 ⟨hmods, by simp [henough]⟩)
  case select => exact congrArg Host.Outcome.next (wagServe_taken h)
  case confirm => exact congrArg Host.Outcome.next ((wagReply_taken h).trans (if_pos hsame))
  case training =>
    subst hup hpass hr
    exact congrArg Host.Outcome.next (wagTrainingDone_training htrain)
  case trained =>
    have hself : ¬(wOk m = true ∧ wType m = 6 ∧ k < 4 ∧ isRing (wLink m) = true) := by
      obtain ⟨-, -, hlink, -⟩ := h
      rintro ⟨-, -, hk, hring⟩
      simp only [hlink, isRing, decide_eq_true_eq] at hring
      omega
    refine congrArg Host.Outcome.next ((if_neg (by simp)).trans ((if_neg hself).trans ((wagReply_taken h).trans ?_)))
    exact if_pos ⟨hok, henough, hne⟩
  case echoed =>
    refine congrArg Host.Outcome.next ((if_pos rfl).trans ((if_neg (by simp [hok])).trans (if_pos ⟨htype, hring, hlead, hreport⟩)))
  case ring =>
    refine congrArg Host.Outcome.next ((if_neg (by simp)).trans ((if_pos ⟨hok, htype, hk, hring⟩).trans ?_))
    exact (if_neg (by simp [hlead])).trans (if_pos hrec)
  case doneServed => exact congrArg Host.Outcome.next ((if_pos rfl).trans (wagServe_taken h))
  case done => exact congrArg Host.Outcome.next ((if_neg (by simp)).trans (wagReply_taken h))
  case reject => exact congrArg Host.Outcome.next (if_pos ⟨hok, htype⟩)
  case nakAgain => exact congrArg Host.Outcome.next ((wagNak_leader hok htype hover hseq).trans (wagRetry_again hover hfew))
  case nakReplies =>
    refine congrArg Host.Outcome.next ((if_neg (by simp [hok])).trans ((if_neg (by simp [htype])).trans ?_))
    exact (if_pos rfl).trans (if_pos hseq)
  case nakFails => exact congrArg Host.Outcome.next ((wagNak_leader hok htype hover hseq).trans (wagRetry_fails hover hmany))
  case report =>
    rw [replyTimeout_awaiting hk hawaits, wagRetry_report (by rwa [waitTo_wag]) (by rwa [waitTo_wag])
      (isOver_phase (by rwa [waitTo_wag])), waitTo_wag]
  case silentFails =>
    rw [replyTimeout_awaiting hk hawaits, wagRetry_fails (by rwa [waitTo_wag]) (by rwa [waitTo_wag])]
  case silentAgain =>
    rw [replyTimeout_awaiting hk hawaits, wagRetry_again (by rwa [waitTo_wag]) (by rwa [waitTo_wag]), waitTo_wag]
  case doneTimeout => exact if_pos ⟨hk, hover, hphase⟩
  case ringTimeout =>
    refine (if_pos ⟨hring, hover, hphase⟩).trans ?_
    have hk9 : k ≠ 9 := by rintro rfl; cases hring
    rw [quietReject, if_neg hk9]

end Sys2Proof.Proofs
end

section
/-! What links in service, the clocks and the heartbeats leave (O3). -/
namespace Sys2Proof.Proofs
open Sys2Proof Sys2Proof.Machine Sys2Proof.Laws

set_option Elab.async false

variable {s : State}

/-- A third deviation in a row is a clock fault of the sender (R47). -/
theorem hbDeviates_few (a : Bool) (h : (if a then s.pwr.hbDevA else s.pwr.hbDevB) ≠ 2) :
    s.hbDeviates a = s.modPwr fun x => if a then { x with hbDevA := s.pwr.hbDevA + 1 } else { x with hbDevB := s.pwr.hbDevB + 1 } := by
  cases a with
  | true => exact if_neg fun e : s.pwr.hbDevA + 1 = 3 => h (Nat.succ.inj e)
  | false => exact if_neg fun e : s.pwr.hbDevB + 1 = 3 => h (Nat.succ.inj e)

theorem hbDeviates_third (a : Bool) (h : (if a then s.pwr.hbDevA else s.pwr.hbDevB) = 2) : s.hbDeviates a =
    if a then ((s.modPwr fun x => { x with hbDevA := 3 }).wr PWR_STATUS_HB_FAULT 1).loseIslandB 2
    else ((s.modPwr fun x => { x with hbDevB := 3 }).wr PWR_STATUS_HB_FAULT 1).stopB 5 := by
  cases a with
  | true =>
    have h : s.pwr.hbDevA = 2 := h
    simp only [State.hbDeviates, h]
    rfl
  | false =>
    have h : s.pwr.hbDevB = 2 := h
    simp only [State.hbDeviates, h]
    rfl

/-- A period outside ±1 % of 1 ms, or none, counts at the receiver (R47). -/
theorem exec_deviating {c : Instr} {u : State} {a lock : Bool} {p : Nat} (hjoined : s.on SAF_ISL_STATUS_B_JOINED = true)
    (hc : ((p < 123750 ∨ 126250 < p) ∧ s.link8 = true ∧ c = .heartbeatReceive a lock p ∧ u = if a then s.wrB PWR_STATUS_PLL_LOCK_SFD lock else s) ∨
      (c = .heartbeatMissing a ∧ u = s)) : exec c s = .next (u.hbDeviates a).settle := by
  rcases hc with ⟨hp, hlink, rfl, rfl⟩ | ⟨rfl, rfl⟩
  · exact (if_neg (by simp [hjoined, hlink])).trans (if_pos hp)
  · exact if_pos hjoined

/-- Settles O3: each command's one path under its conditions. -/
theorem linkAndClockCommandsComplete : Obligations.LinkAndClockCommandsComplete := by
  intro s k d t p back lost lock
  refine ⟨fun hk hup hidle => ?error, fun hretrain hup => ?done, fun hretrain hup u hu => ⟨fun hleft => ?back, fun hnone => ?gone⟩,
    fun hd hlock => ?lockLoss, fun hat => ?confirm, fun hlock => ?eztos, fun hheld u hu => ?reference,
    fun hjoined hlink a hruns => ?send, fun hlink a => ⟨?sendLost, ?receiveLost⟩, fun hjoined hlink hlow hhigh => ⟨?atA, ?atB⟩,
    fun hjoined c u hc => ⟨fun hfew => ?fewA, fun hthird => ?thirdA⟩, fun hjoined c hc => ⟨fun hfew => ?fewB, fun hthird => ?thirdB⟩,
    fun hslot hfw => if_pos ⟨hslot, hfw⟩⟩
  case error => exact if_neg (by simp [hup, hidle]; omega)
  case done => exact (if_neg (by simp [hretrain])).trans (if_neg (by simp [hup]))
  case back =>
    subst hu
    exact (if_neg (by simp [hretrain])).trans ((if_neg (by simp [hup])).trans (if_pos hleft))
  case gone =>
    subst hu
    refine (if_neg (by simp [hretrain])).trans ((if_neg (by simp [hup])).trans ((if_neg (not_not.2 hnone)).trans ?_))
    exact (apply_ite Host.Outcome.next _ _ _).symm
  case lockLoss => exact if_neg (by simp [hlock]; omega)
  case confirm =>
    change execRuradLockLossConfirm d s = _
    unfold execRuradLockLossConfirm
    rw [hat]
    exact (apply_ite Host.Outcome.next _ _ _).symm
  case eztos => exact if_pos hlock
  case reference =>
    subst hu
    exact if_neg (by simp [hheld])
  case send => exact if_neg (by simp [hjoined, hlink, hruns])
  case sendLost => exact if_pos (by simp [hlink])
  case receiveLost => exact if_pos (by simp [hlink])
  case atA => exact (if_neg (by simp [hjoined, hlink])).trans ((if_neg (by omega)).trans rfl)
  case atB => exact (if_neg (by simp [hjoined, hlink])).trans ((if_neg (by omega)).trans rfl)
  case fewA =>
    have hu : u.pwr = s.pwr := by rcases hc with ⟨-, -, -, rfl⟩ | ⟨-, rfl⟩ <;> rfl
    rw [exec_deviating (a := true) hjoined hc, hbDeviates_few true (by simpa [hu] using hfew), hu]
    rfl
  case thirdA =>
    have hu : u.pwr = s.pwr := by rcases hc with ⟨-, -, -, rfl⟩ | ⟨-, rfl⟩ <;> rfl
    rw [exec_deviating (a := true) hjoined hc, hbDeviates_third true (by simpa [hu] using hthird)]
    rfl
  all_goals
    have hc : ((p < 123750 ∨ 126250 < p) ∧ s.link8 = true ∧ c = .heartbeatReceive false lock p ∧ s = s) ∨ (c = .heartbeatMissing false ∧ s = s) := by
      simpa using hc
    rw [exec_deviating (a := false) hjoined hc]
  case fewB =>
    rw [hbDeviates_few false hfew]
    rfl
  case thirdB =>
    rw [hbDeviates_third false hthird]
    rfl

end Sys2Proof.Proofs
end

section
/-! What adaptive voltage, the power states and the ramp limiters leave (O4). -/
namespace Sys2Proof.Proofs
open Sys2Proof Sys2Proof.Machine Sys2Proof.Laws

set_option Elab.async false

variable {s t : State} {f g : Fld} {n d : Nat}

theorem inv_of_useSched (h : s.Inv) : (s.useSched n).Inv := h

theorem on_wr_zero (h : s.Inv) (hw : f.lo + f.w ≤ 64) : (s.wr f 0).on f = false := by
  rw [State.on, rd_wr_same h hw, Nat.zero_mod]
  rfl

theorem on_wr_other {x : Nat} (h : g.off ≠ f.off) : (s.wr f x).on g = s.on g := by rw [State.on, rd_wr_other h, State.on]

theorem wr_thm {x : Nat} : (s.wr f x).thm = s.thm := rfl

theorem wr_tclk {x : Nat} : (s.wr f x).tclk = s.tclk := rfl

theorem on_modPwr (u : State) (h : Power → Power) : (u.modPwr h).on f = u.on f := rfl

theorem on_useSched (u : State) : (u.useSched n).on f = u.on f := rfl

theorem on_setJobs (u : State) (j : Table Job) : ({ u with jobs := j } : State).on f = u.on f := rfl

theorem on_setFus (u : State) (j : Fusion) : ({ u with fus := j } : State).on f = u.on f := rfl

/-- What D0 entry clears of self-refresh (R60). -/
def endSelfRefresh (s : State) : State := (List.range 4).foldl (fun s d =>
  if s.on (PWR_STATUS_STANDBY.bit d) ∧ s.rd DMC_MAP_ISHARE = 0 then s else s.wr (DMC_STATUS_SELF_REFRESH.idx d) 0) s

theorem endSelfRefresh_keeps (h : s.Inv) : (endSelfRefresh s).Inv ∧ (endSelfRefresh s).thm = s.thm ∧ (endSelfRefresh s).tclk = s.tclk := by
  unfold endSelfRefresh
  generalize List.range 4 = l
  induction l generalizing s with
  | nil => exact ⟨h, rfl, rfl⟩
  | cons d l ih =>
    rw [List.foldl_cons]
    split
    · exact ih h
    · exact ih (wr_inv h)

theorem useSched_thm (h : t.thm = s.thm) (hc : t.tclk = s.tclk) : (t.useSched n).thm = (s.useSched n).thm := by
  simp only [State.useSched, h, hc]

theorem getLsbD_or_one_shiftLeft {b : BitVec 5} (hd : d < 5) : (b ||| (1 : BitVec 5) <<< d).getLsbD d = true := by
  simp [hd]

theorem getLsbD_and_not_one_shiftLeft {b : BitVec 5} (hd : d < 5) : (b &&& ~~~((1 : BitVec 5) <<< d)).getLsbD d = false := by
  simp [hd]

/-- The bit of a ramp limiter's mask that an estimate sets or clears. -/
theorem getLsbD_mask {p : Prop} [Decidable p] {b : BitVec 5} (hd : d < 5) :
    (if p then b ||| (1 : BitVec 5) <<< d else b &&& ~~~((1 : BitVec 5) <<< d)).getLsbD d = decide p := by
  split
  · rename_i h
    rw [getLsbD_or_one_shiftLeft hd, decide_eq_true h]
  · rename_i h
    rw [getLsbD_and_not_one_shiftLeft hd, decide_eq_false h]

/-- The average moves by at most 1 W (R63). -/
theorem rampAverage {avg prev : Nat} :
    (if decide (prev + 1000 < avg) = true then prev + 1000 else if decide (avg + 1000 < prev) = true then prev - 1000 else avg) =
      max (prev - 1000) (min avg (prev + 1000)) := by
  simp only [decide_eq_true_eq]
  split
  · omega
  · split <;> omega

theorem showRamp_pwr : (s.showRamp d).pwr = s.pwr := (congrArg State.pwr showRamp_frame.eq_take).trans rfl

/-- Settles O4: each command's one path under its conditions. -/
theorem powerCommandsComplete : Obligations.PowerCommandsComplete := by
  intro s d g mv be v avg prev w
  refine ⟨fun hd hdie hv hw u hu => ⟨fun hkeep => ?monitor, fun hlost => ?excluded⟩, fun hd hheld htarget u hu => ?step,
    fun hd hfew => ?nak, fun hd htwo => ?fault, fun hg hstate hfree hfiller hdecayed => ?gate, fun hmay hw => ?standby,
    fun hinv hd hstandby hexit => ?exit, fun hlow hready hw u hu => ?d3, fun hinv hlow => ?d0, fun hd hheld hfew => ?estimate,
    fun hd hheld hmany havg hprev => ?average⟩
  case monitor =>
    subst hv hw hu
    exact (if_neg (by simp [hdie]; omega)).trans (if_neg hkeep)
  case excluded =>
    subst hv hw hu
    exact (if_neg (by simp [hdie]; omega)).trans (if_pos hlost)
  case step =>
    have hu' : u = if s.rd (PWR_VDD_VSET.idx d) < tget 0 s.pwr.avsTarget d then min 800 (s.rd (PWR_VDD_VSET.idx d) + 5)
        else if tget 0 s.pwr.avsTarget d + 5 ≤ s.rd (PWR_VDD_VSET.idx d) then max 650 (s.rd (PWR_VDD_VSET.idx d) - 5)
        else s.rd (PWR_VDD_VSET.idx d) := by
      rcases hu with ⟨h, rfl⟩ | ⟨h, rfl⟩ | ⟨h, h', rfl⟩
      · exact (if_pos h).symm
      · rw [if_neg (by omega), if_pos h]
      · rw [if_neg (by omega), if_neg (by omega)]
    subst hu'
    exact if_neg (by simp [hheld, htarget]; omega)
  case nak =>
    have hheld : s.avsHeld d = false := decide_eq_false (by omega)
    exact (if_neg (by simp [hheld]; omega)).trans (if_neg fun e : tget 0 s.pwr.avsNak d + 1 = 3 => by omega)
  case fault =>
    have hheld : s.avsHeld d = false := decide_eq_false (by omega)
    change execAvsbusNoAck d s = _
    unfold execAvsbusNoAck
    rw [if_neg (by simp [hheld]; omega), htwo]
    rfl
  case gate =>
    have hfills : s.fills g = false := by simp [State.fills, hfiller, hdecayed]
    exact if_neg (by simp [hstate, hfree, hfills]; omega)
  case standby =>
    subst hw
    exact (if_neg (by simp [hmay])).trans (apply_ite Host.Outcome.next _ _ _).symm
  case exit =>
    refine ⟨_, if_neg (by simp [hstandby, hexit]), ?_, ?_, rfl, rfl⟩
    · rw [on_setJobs, on_modPwr]
      refine (on_wr_other ?_).trans ?_
      · change PWR_STATUS_STANDBY.off ≠ DMC_STATUS_SELF_REFRESH.off + _
        have h : PWR_STATUS_STANDBY.off < DMC_STATUS_SELF_REFRESH.off := by decide
        omega
      exact on_wr_zero (inv_of_useSched hinv) (by
        change PWR_STATUS_STANDBY.lo + d + 1 ≤ 64
        have h : PWR_STATUS_STANDBY.lo + 5 ≤ 64 := by decide
        omega)
    · rw [on_setJobs, on_modPwr]
      exact on_wr_zero (wr_inv (inv_of_useSched hinv)) (by decide : DMC_STATUS_SELF_REFRESH.lo + DMC_STATUS_SELF_REFRESH.w ≤ 64)
  case d3 =>
    subst hw hu
    exact if_neg (by simp [hlow, hready])
  case d0 =>
    obtain ⟨hinv', hthm, hclk⟩ := endSelfRefresh_keeps hinv
    refine ⟨{ ((endSelfRefresh s).wr PWR_STATUS_LOW_POWER 0).useSched 12500000 with fus := { (endSelfRefresh s).fus with nextClose := none } },
      if_neg (by simp [hlow]), ?_, rfl, ?_⟩
    · rw [on_setFus, on_useSched]
      exact on_wr_zero hinv' (by decide)
    · exact useSched_thm (wr_thm.trans hthm) (wr_tclk.trans hclk)
  case estimate => exact (if_neg (by simp [hheld]; omega)).trans (if_pos hfew)
  case average =>
    subst havg hprev
    refine ⟨_, (if_neg (by simp [hheld]; omega)).trans (if_neg (by omega)), ?_⟩
    rw [showRamp_pwr]
    refine ⟨rfl, rfl, rfl, rfl, congrArg (fun a => tset none s.pwr.rampAvg d (some a)) rampAverage, ?_, ?_, ?_⟩
    · exact (getLsbD_mask hd).trans Bool.decide_eq_true
    · exact (getLsbD_mask hd).trans (by simp)
    · exact (getLsbD_mask hd).trans Bool.decide_eq_true

end Sys2Proof.Proofs
end

section
/-! What the join of island B leaves (O5). -/
namespace Sys2Proof.Proofs
open Sys2Proof Sys2Proof.Machine Sys2Proof.Laws

set_option Elab.async false

variable {s t : State} {f g : Fld} {k x : Nat}

theorem sha256_length (bs : List Byte) : (sha256 bs).length = 32 := by
  simp [sha256, beWord]

theorem joinMac_length (key : List Byte) (letter : Byte) (a b c d : List Byte) : (joinMac key letter a b c d).length = 16 := by
  rw [joinMac, List.length_take, hmac256, sha256_length]
  rfl

/-! ## What JOIN_DONE shows -/

/-- A field that a write leaves alone: it lies in another register, or beside what is written and is not 0. -/
theorem rd_wr_apart (h : g.off ≠ f.off ∨ s.rd g ≠ 0 ∧ (g.lo + g.w ≤ f.lo ∨ f.lo + f.w ≤ g.lo)) : (s.wr f x).rd g = s.rd g := by
  rcases h with h | ⟨hne, h⟩
  · exact rd_wr_other h
  · exact rd_wr_keeps hne (.inr h)

theorem rd_setReg_other {a : Nat} {v : Word64} (h : g.off ≠ a) : (s.setReg a v).rd g = s.rd g := by
  rw [State.rd, reg_setReg_other h, State.rd]

theorem showFault_rd {island : Nat} {c : Nat × Nat × Nat} (h : g.off ≠ SAF_FAULT_VALID.off) (h' : g.off ≠ SAF_FAULT_SYN_SYNDROME.off) :
    (s.showFault island c).rd g = s.rd g := by
  unfold State.showFault
  split
  · rfl
  · rw [rd_wr_other h', rd_wr_other, rd_wr_other, rd_wr_other, rd_wr_other]
    all_goals exact h

theorem event_rd {code source object status : Nat} {detail : List Byte} (h : pageOf g.off ≠ 0x42) :
    (s.event code source object status detail).rd g = s.rd g :=
  pages_event.rd_eq (by simpa using h)

theorem linkUp_rd {rate : Nat} {mods : BitVec 4} {repair : Bool} (h : pageOf g.off ≠ 0x42) (h1 : g.off ≠ (IDN_LINK_RATE.idx k).off) :
    (s.linkUp k rate mods repair).rd g = s.rd g := by
  unfold State.linkUp State.linkEvent
  extract_lets full nominal degraded s1
  rw [event_rd h]
  change State.rd (State.wr _ _ _) g = _
  rw [rd_wr_other, rd_wrB_other, rd_wrB_other, rd_wr_other, rd_wr_other]
  all_goals exact h1

section
variable {u : State} (hg : pageOf g.off ≠ 0x45 ∨ g = SAF_ISL_STATUS_B_JOINED ∧ s.rd g ≠ 0)
include hg

/-- A write on the safety page beside B_JOINED. -/
theorem safetyWrite_rd (h : u.rd g = s.rd g) (hf : pageOf f.off = 0x45) (hlo : f.off ≠ SAF_ISL_STATUS_B_JOINED.off ∨ 3 ≤ f.lo) :
    (u.wr f x).rd g = s.rd g := by
  refine (rd_wr_apart ?_).trans h
  rcases hg with hpage | ⟨rfl, hne⟩
  · exact .inl fun e => hpage (e ▸ hf)
  · rcases hlo with hoff | hlo
    · exact .inl hoff.symm
    · exact .inr ⟨h ▸ hne, .inl hlo⟩

theorem safetySet_rd {a : Nat} {v : Word64} (h : u.rd g = s.rd g) (ha : pageOf a = 0x45) (hne : a ≠ SAF_ISL_STATUS_B_JOINED.off) :
    (u.setReg a v).rd g = s.rd g := by
  refine (rd_setReg_other ?_).trans h
  rcases hg with hpage | ⟨rfl, -⟩
  · exact fun e => hpage (e ▸ ha)
  · exact hne.symm

theorem clearFault_rd : (if s.on SAF_FAULT_VALID ∧ s.on SAF_FAULT_ISLAND then
    (s.setReg SAF_FAULT_VALID.off 0).setReg SAF_FAULT_SYN_SYNDROME.off 0 else s).rd g = s.rd g := by
  split
  · exact safetySet_rd hg (safetySet_rd hg rfl (by decide) (by decide)) (by decide) (by decide)
  · rfl

theorem showOneFault_rd (h : u.rd g = s.rd g) {o : Option (Nat × Nat × Nat)} : (match o with
    | some c => u.showFault 1 c
    | none => u).rd g = s.rd g := by
  cases o with
  | none => exact h
  | some c =>
    refine (showFault_rd ?_ ?_).trans h <;> rcases hg with hpage | ⟨rfl, -⟩
    · exact fun e => hpage (e ▸ rfl)
    · decide
    · exact fun e => hpage (e ▸ rfl)
    · decide

/-- What island A shows of island B: a field elsewhere stays, and so does B_JOINED (R455). -/
theorem showIslandB_rd : s.showIslandB.rd g = s.rd g := by
  unfold State.showIslandB
  refine safetySet_rd hg ?_ (by decide) (by decide)
  refine safetyWrite_rd hg ?_ (by decide) (.inl (by decide))
  refine safetyWrite_rd hg ?_ (by decide) (.inr (by decide))
  refine safetyWrite_rd hg ?_ (by decide) (.inr (by decide))
  refine safetyWrite_rd hg ?_ (by decide) (.inr (by decide))
  refine safetyWrite_rd hg ?_ (by decide) (.inr (by decide))
  exact showOneFault_rd hg (clearFault_rd hg)

end

/-- What island B answers a JOIN_HELLO with (R436). -/
def joinReply (s : State) (m nb : List Byte) : List Byte :=
  leBytes 8 (identWord s.pkg.sfd.ident) ++ leBytes 2 (strapBits s.pkg.sfd.straps) ++ [if identOk s.pkg.sfd.ident then 0 else 1]
    ++ leBytes 4 s.pkg.sfdImage.version ++ [if s.pkg.sfd.testFail = 0 then 0 else 1] ++ padTo 16 nb
    ++ joinMac s.pkg.sfd.pairKey 0x42 ((m.drop 10).take 16) nb ((m.drop 1).take 8) (leBytes 8 (identWord s.pkg.sfd.ident))

theorem joinReply_parts {m nb : List Byte} : (joinReply s m nb).length = 48 ∧
    (joinReply s m nb).take 8 = leBytes 8 (identWord s.pkg.sfd.ident) ∧ ((joinReply s m nb).drop 16).take 16 = padTo 16 nb ∧
    (joinReply s m nb).drop 32 =
      joinMac s.pkg.sfd.pairKey 0x42 ((m.drop 10).take 16) nb ((m.drop 1).take 8) (leBytes 8 (identWord s.pkg.sfd.ident)) := by
  refine ⟨?_, ?_, ?_, ?_⟩
  · simp [joinReply, joinMac_length]
  · simp only [joinReply, List.append_assoc]
    exact List.take_left' (leBytes_length 8 _)
  · rw [joinReply, List.append_assoc, List.drop_left' (by simp)]
    exact List.take_left' (padTo_length 16 nb)
  · exact List.drop_left' (by simp)

/-- The registers of boot that the join's end writes. -/
def joinBegins (s : State) (lock : Bool) : State :=
  ((((s.partWindow 5).wr IDN_BOOT_ISLAND_B 1).wr SAF_ISL_STATUS_B_JOINED 1).wr (IDN_PKG_INCLUDED.bit 5) 1).wrB PWR_STATUS_PLL_LOCK_SFD lock

/-- Its stop ends, and a test that ended before is recorded. -/
def joinTells (s : State) (lock : Bool) : State :=
  let u := (joinBegins s lock).modIslB fun b =>
    { b with debugDeny := s.on HIF_LOCKCFG_ISL_DBG_DENY, stop := b.debug, stopCause := if b.debug then b.stopCause else 0 }
  (if u.saf.islB.testTold then u else u.wr (SAF_CMP_TIME_NS.idx 1) u.now).modIslB fun b => { b with testTold := true }

/-- Island B and link 8 shown in use. -/
def joinShows (s : State) (lock : Bool) : State :=
  if (joinTells s lock).showIslandB.on (IDN_LINK_DOWN.idx 8) then (joinTells s lock).showIslandB.linkUp 8 0 1 false
  else (joinTells s lock).showIslandB

theorem joinTells_rd {lock : Bool} (h : g.off ≠ (SAF_CMP_TIME_NS.idx 1).off) : (joinTells s lock).rd g = (joinBegins s lock).rd g := by
  have hmod : ∀ (u : State) (b : Island → Island), (u.modIslB b).rd g = u.rd g := fun _ _ => rd_of_regs rfl
  unfold joinTells
  extract_lets u
  rw [hmod]
  split
  · rw [hmod]
  · rw [rd_wr_other h, hmod]

theorem joinShows_rd {lock : Bool} (h1 : g.off ≠ (SAF_CMP_TIME_NS.idx 1).off) (h2 : pageOf g.off ≠ 0x42) (h3 : g.off ≠ (IDN_LINK_RATE.idx 8).off)
    (hg : pageOf g.off ≠ 0x45 ∨ g = SAF_ISL_STATUS_B_JOINED ∧ (joinBegins s lock).rd g ≠ 0) :
    (joinShows s lock).rd g = (joinBegins s lock).rd g := by
  have hshow : (joinTells s lock).showIslandB.rd g = (joinBegins s lock).rd g :=
    (showIslandB_rd (by rwa [joinTells_rd h1])).trans (joinTells_rd h1)
  unfold joinShows
  split
  · exact (linkUp_rd h2 h3).trans hshow
  · exact hshow

/-- The state that JOIN_DONE leaves (R438). -/
def joined (s : State) (lock : Bool) : State :=
  ((joinShows s lock).modJoin fun j =>
      { j with trying := false, confirmSent := false, service := true, jobsHeld := false, olds := [] }).modPwr fun p =>
        { p with hbDevA := 0, hbDevB := 0 }

theorem joined_rd {lock : Bool} (h1 : g.off ≠ (SAF_CMP_TIME_NS.idx 1).off) (h2 : pageOf g.off ≠ 0x42) (h3 : g.off ≠ (IDN_LINK_RATE.idx 8).off)
    (hg : pageOf g.off ≠ 0x45 ∨ g = SAF_ISL_STATUS_B_JOINED) : (joined s lock).rd g = (joinBegins s lock).rd g := by
  have hjoined : (joinBegins s lock).rd SAF_ISL_STATUS_B_JOINED ≠ 0 := by
    rw [joinBegins, rd_wrB_other (by decide), rd_wr_other (by decide), rd_wr_nonzero (by decide) (by decide)]
    decide
  have hlast : (joined s lock).rd g = (joinShows s lock).rd g := rd_of_regs rfl
  exact hlast.trans (joinShows_rd h1 h2 h3 (hg.imp_right fun e => ⟨e, e ▸ hjoined⟩))

theorem joinDone_joined {m : List Byte} {lock : Bool}
    (h : ¬(s.islandARuns = false ∨ s.saf.join.confirmSent = false ∨ joinOk 1 m = false ∨ field m 0 1 ≠ 0)) :
    s.joinDone m lock = joined s lock := if_neg h

theorem on_wrB_same {b : Bool} (h : s.Inv) (hw : f.w = 1) (hlo : f.lo + 1 ≤ 64) : (s.wrB f b).on f = b := by
  cases b with
  | true => exact on_wr_one hw hlo
  | false => exact on_wr_zero h (hw ▸ hlo)

theorem joined_flags {lock : Bool} : (joined s lock).on SAF_ISL_STATUS_B_JOINED = true ∧ (joined s lock).on IDN_BOOT_ISLAND_B = true ∧
    (joined s lock).on (IDN_PKG_INCLUDED.bit 5) = true := by
  refine ⟨on_of_rd_ne ?_, on_of_rd_ne ?_, on_of_rd_ne ?_⟩ <;> rw [joined_rd (by decide) (by decide) (by decide) (by decide), joinBegins,
    rd_wrB_other (by decide)]
  · rw [rd_wr_other (by decide), rd_wr_nonzero (by decide) (by decide)]
    decide
  · rw [rd_wr_other (by decide), rd_wr_other (by decide), rd_wr_nonzero (by decide) (by decide)]
    decide
  · rw [rd_wr_nonzero (by decide) (by decide)]
    decide

theorem joined_lock {lock : Bool} (h : s.Inv) : (joined s lock).on PWR_STATUS_PLL_LOCK_SFD = lock := by
  have hwindow : (s.partWindow 5).Inv := h
  rw [State.on, joined_rd (by decide) (by decide) (by decide) (by decide), ← State.on]
  exact on_wrB_same (wr_inv (wr_inv (wr_inv hwindow))) rfl (by decide)

/-- Settles O5: each message and timer on its taken path. -/
theorem joinCommandsComplete : Obligations.JoinCommandsComplete := by
  intro s m nb lock
  refine ⟨fun hlink hruns hready hnot hok => ?hello, fun hlink hruns htry hsent hok hmac hident hrev htest hiod htimers hver hrole hsite hvar => ?resp,
    fun hlink hruns htry hsent hok hmac => ⟨fun hnew => ?other, fun hold => ?old⟩, fun hlink hruns hready hna hsent hok mac hmac =>
      ⟨fun heq => ?confirmed, fun hne => ?unconfirmed⟩, fun hlink hruns hsent hok hzero => ?done, fun hruns htry hwhen => ?retry,
    fun hruns htry hsent t ht => ?timeout⟩
  case hello =>
    obtain ⟨hlen, hword, hnonce, htail⟩ := joinReply_parts (s := s) (m := m) (nb := nb)
    refine ⟨joinReply s m nb, hlen, hword, hnonce, htail, congrArg Host.Outcome.next ((if_pos hlink).trans ?_)⟩
    rw [List.take_append_drop]
    exact if_neg (by simp [hruns, hready, hnot, hok])
  case resp =>
    refine congrArg Host.Outcome.next ((if_pos hlink).trans ?_)
    rw [List.take_append_drop]
    simp only [State.joinResp]
    rw [if_neg (by simp [hruns, htry, hsent, hok]), if_neg (not_not.2 hmac), if_neg (by simp [hrev]), if_neg (by simp [htest, hiod, htimers]),
      if_neg (by omega), if_neg (by simp [hident, hrole, hsite, hvar])]
    simp [hident]
  case other =>
    refine congrArg Host.Outcome.next ((if_pos hlink).trans ?_)
    rw [List.take_append_drop]
    exact (if_neg (by simp [hruns, htry, hsent, hok])).trans ((if_pos hmac).trans (if_neg (by simp [hnew])))
  case old =>
    refine congrArg Host.Outcome.next ((if_pos hlink).trans ?_)
    rw [List.take_append_drop]
    exact (if_neg (by simp [hruns, htry, hsent, hok])).trans ((if_pos hmac).trans (if_pos hold))
  case confirmed =>
    subst hmac
    refine congrArg Host.Outcome.next ((if_pos hlink).trans ?_)
    rw [List.take_append_drop]
    exact (if_neg (by simp [hruns, hready, hna, hsent, hok])).trans (if_pos heq)
  case unconfirmed =>
    subst hmac
    refine congrArg Host.Outcome.next ((if_pos hlink).trans ?_)
    rw [List.take_append_drop]
    exact (if_neg (by simp [hruns, hready, hna, hsent, hok])).trans (if_neg hne)
  case done =>
    obtain ⟨hb, hboot, hincluded⟩ := joined_flags (s := s) (lock := lock)
    exact ⟨_, congrArg Host.Outcome.next ((if_pos hlink).trans (joinDone_joined (by simp [hruns, hsent, hok, hzero]))), joined_lock, hb,
      hboot, hincluded, rfl, rfl⟩
  case retry => exact congrArg Host.Outcome.next (if_pos ⟨hruns, htry, hwhen⟩)
  case timeout =>
    change Host.Outcome.next s.joinTimeout = _
    unfold State.joinTimeout
    dsimp only
    rw [ht]
    exact congrArg Host.Outcome.next (if_pos ⟨hruns, htry, hsent⟩)

end Sys2Proof.Proofs
end

section
/-! What the accesses to the mailboxes (O6) and the mailbox commands (O8) leave. -/
namespace Sys2Proof.Proofs
open Sys2Proof Sys2Proof.Machine Sys2Proof.Laws

set_option Elab.async false

variable {s u : State} {m cmd d : Nat}

/-- Settles O6: each access's one path in the mailbox's state. -/
theorem mailboxRegistersComplete : Obligations.MailboxRegistersComplete := by
  intro s m off bs hm
  have hm' : ¬16 ≤ m := by omega
  refine ⟨fun hoff hlen hsome hend => ?write, fun hbusy => ?doorbell, fun hdone => ?ack, fun hdone => ?noAck, fun hbusy hfw hc hd => ?cancel,
    fun hbusy hfw c hc => ?cancelCreate, fun hbusy hfw hc d hd => ?cancelDestroy, fun hbusy => ?noCancel⟩
  case write =>
    have hgo : exec (.mbxReqWrite m off bs) s = .next (s.mbxWrite m off bs) := if_neg (by simp [hoff, hlen, hsome]; omega)
    exact ⟨fun hidle => hgo.trans (congrArg _ (if_neg (not_not.2 hidle))), fun hbusy => hgo.trans (congrArg _ (if_pos hbusy))⟩
  case doorbell =>
    have hno : ¬(s.mbxState m = 0 ∧ s.on MBX_CTRL_READY = true) := by rcases hbusy with h | h <;> simp [h]
    exact (if_neg (not_or.2 ⟨hm', hno⟩)).trans (congrArg _ (if_neg hno))
  case ack => exact (if_neg hm').trans (congrArg _ (if_pos hdone))
  case noAck => exact (if_neg hm').trans (congrArg _ (if_neg hdone))
  case noCancel => exact (if_neg hm').trans (congrArg _ (if_pos (.inl hbusy)))
  all_goals
    refine (if_neg hm').trans (congrArg _ ?_)
    unfold State.mbxCancel
    rw [if_neg (by simp [hbusy, hfw]), hc]
  case cancel => rw [hd]
  case cancelCreate => rfl
  case cancelDestroy =>
    rw [hd]
    rfl

/-- A request that a mailbox serves and whose command answers at once. -/
theorem serve_answers {act : State → List Byte → BitVec 16 → State × Option Answer} {a : Answer} (h : s.serving m cmd)
    (hact : act s (s.request m) (s.requestTag m) = (u, some a)) : s.serve m cmd act = u.answer m cmd a := by
  obtain ⟨hm, hstate, hfw, hcmd, hcheck, hfind⟩ := h
  have hserves : s.servesCmd m cmd = true := by simp [State.servesCmd, hm, hstate, hfw, hcmd]
  rw [State.requestTag] at hfind hact
  rw [State.request] at hact
  unfold State.serve
  rw [if_neg (by simp [hserves])]
  dsimp only
  rw [if_neg (by simp [hcheck]), hfind]
  dsimp only
  rw [hact]

/-- One whose command answers later. -/
theorem serve_waits {act : State → List Byte → BitVec 16 → State × Option Answer} (h : s.serving m cmd)
    (hact : act s (s.request m) (s.requestTag m) = (u, none)) : s.serve m cmd act = u := by
  obtain ⟨hm, hstate, hfw, hcmd, hcheck, hfind⟩ := h
  have hserves : s.servesCmd m cmd = true := by simp [State.servesCmd, hm, hstate, hfw, hcmd]
  rw [State.requestTag] at hfind hact
  rw [State.request] at hact
  unfold State.serve
  rw [if_neg (by simp [hserves])]
  dsimp only
  rw [if_neg (by simp [hcheck]), hfind]
  dsimp only
  rw [hact]

theorem waitTo_queue {t : Nat} : (s.waitTo t).queue d = s.queue d := by
  have h : (s.waitTo t).queues = s.queues := (congrArg State.queues waitTo_frame.eq_take).trans rfl
  rw [State.queue, h, State.queue]

/-- What GET_INFO answers with: the queues of each class, 16 slots, and what the machine holds (R93). -/
def infoPayload (combs units window honey : Nat) : List Byte :=
  ((List.range 6).flatMap fun c => leBytes 1 (classCount c)) ++ [16] ++ leBytes 1 combs ++ leBytes 4 units ++ leBytes 1 window
    ++ leBytes 3 honey

theorem infoPayload_parts (combs units window honey : Nat) : (infoPayload combs units window honey).length = 16 ∧
    (infoPayload combs units window honey).take 6 = [64, 32, 4, 4, 2, 4] ∧ field (infoPayload combs units window honey) 6 1 = 16 := by
  have hqueues : ((List.range 6).flatMap fun c => leBytes 1 (classCount c)) = [64, 32, 4, 4, 2, 4] := by decide
  rw [infoPayload, hqueues]
  refine ⟨by simp, rfl, ?_⟩
  rw [field_append_left (by simp), field_append_left (by simp), field_append_left (by simp)]
  rfl

/-- Settles O8: each command's handler answers on its passing path. -/
theorem mailboxCommandsComplete : Obligations.MailboxCommandsComplete := by
  intro s m base i n c k o l
  refine ⟨fun h hpay hmajor hminor => ?hello, fun h => ?info, fun h hcheck => ?alloc, fun h hidx hobj hbusy => ?free,
    fun hidle hclear hbusy u hu => ?cleared, fun h hobj => ?memInfo, fun h hcheck hjoin => ?create, fun hwaiter hjoin hacc => ?told,
    fun hwaiter hjoin hacc u hu => ?reserved, fun h hof hbusy hwaiter => ?destroy, fun h hcheck => ?queueCreate,
    fun h hidx hlive hdes u hu => ?queueDestroy, fun hdes hrecs => ⟨fun hacc => ?destroyTold, fun hacc hsoon => ?destroyed, fun hacc hlate => ?destroyLate⟩,
    fun hdes hrecs hacc u hu => ?destroyAccepted, fun h hidx hc hidle hvote => ?reinit⟩
  case hello =>
    refine congrArg Host.Outcome.next (serve_answers h ?_)
    dsimp only
    rw [if_neg (by simp [hpay]), if_neg (by simp [hmajor, hminor])]
  case info =>
    obtain ⟨hlen, hqueues, hslots⟩ := infoPayload_parts s.combCount s.mem.dramUnits s.mem.winMax s.honeyTotal
    exact ⟨_, hlen, hqueues, hslots, congrArg Host.Outcome.next (serve_answers h rfl)⟩
  case alloc =>
    refine congrArg Host.Outcome.next (serve_answers h ?_)
    exact if_neg (not_not.2 hcheck)
  case free =>
    refine congrArg Host.Outcome.next (serve_answers h ?_)
    rw [hidx]
    dsimp only
    rw [hobj]
    exact if_neg (by simp [hbusy])
  case cleared =>
    subst hu
    change execMemoryClearDone n s = _
    rw [execMemoryClearDone, unlessStalled_unhindered hidle, hclear]
    exact if_neg (by simp [hbusy])
  case memInfo =>
    refine congrArg Host.Outcome.next (serve_answers h ?_)
    rw [hobj]
  case create =>
    refine congrArg Host.Outcome.next (serve_answers h ?_)
    exact (if_neg (not_not.2 hcheck)).trans (if_pos hjoin)
  case told =>
    change execColonyReservationComplete c s = _
    unfold execColonyReservationComplete
    dsimp only
    rw [hwaiter]
    exact (if_pos hjoin).trans (if_pos hacc)
  case reserved =>
    subst hu
    change execColonyReservationComplete c s = _
    unfold execColonyReservationComplete
    dsimp only
    rw [hwaiter]
    exact (if_pos hjoin).trans (if_neg (by simp [hacc]))
  case destroy =>
    refine congrArg fin (serve_answers h ?_)
    dsimp only
    rw [hof]
    dsimp only
    rw [if_neg (by simp [hbusy]), hwaiter]
  case queueCreate =>
    refine congrArg Host.Outcome.next (serve_answers h ?_)
    exact if_neg (not_not.2 hcheck)
  case queueDestroy =>
    subst hu
    refine congrArg fin ?_
    split
    · rename_i hempty
      refine serve_answers h ?_
      rw [hidx]
      exact (if_neg (by simp [hlive])).trans ((if_neg (by simp [hdes])).trans (if_pos hempty))
    · rename_i hrecs
      refine serve_waits h ?_
      rw [hidx]
      exact (if_neg (by simp [hlive])).trans ((if_neg (by simp [hdes])).trans (if_neg hrecs))
  case destroyTold =>
    change execQueueDestroyDone k s = _
    unfold execQueueDestroyDone
    dsimp only
    rw [hdes]
    exact (if_neg (not_not.2 hrecs)).trans (if_pos hacc)
  case destroyed =>
    change execQueueDestroyDone k s = _
    unfold execQueueDestroyDone
    dsimp only
    rw [hdes]
    exact (if_neg (not_not.2 hrecs)).trans ((if_neg (by simp [hacc])).trans (if_pos hsoon))
  case destroyLate =>
    change execQueueDestroyDone k s = _
    unfold execQueueDestroyDone
    dsimp only
    rw [hdes]
    exact (if_neg (not_not.2 hrecs)).trans ((if_neg (by simp [hacc])).trans (if_neg (by simpa [answerTicks] using hlate)))
  case destroyAccepted =>
    subst hu
    change execQueueDestroyDone k s = _
    unfold execQueueDestroyDone
    dsimp only
    rw [hdes]
    refine (if_pos hrecs).trans ((if_neg (by simp [hacc])).trans ?_)
    rw [State.acceptDestroy, waitTo_queue, hdes]
    rfl
  case reinit =>
    have hwaits : ¬(s.servesCmd m 0x0400 = true ∧ s.voteWaits (s.reinitClass m) = true) := by simp [hvote]
    change execFuncReinit m s = _
    rw [execFuncReinit, unlessStalled_unhindered hidle, if_neg hwaits]
    refine congrArg fin (serve_answers h ?_)
    rw [hidx]
    exact if_neg (by omega)

end Sys2Proof.Proofs
end

section
/-! What power policy, the safety tests, the ledger, the logs and the firmware slots leave (O9). -/
namespace Sys2Proof.Proofs
open Sys2Proof Sys2Proof.Machine Sys2Proof.Laws

set_option Elab.async false

variable {s : State} {m : Nat}

theorem field_take {b : List Byte} {n off k : Nat} (h : off + k ≤ n) : field (b.take n) off k = field b off k := by
  rw [field, List.drop_take, List.take_take, Nat.min_eq_left (by omega), field]

/-- A request that passes R89 has the length of its command. -/
theorem requestCheck_length {cmd n k : Nat} {admin : Bool} (h : s.serving m cmd) (hcmd : mbxCommand cmd = some (cmd, n, k, admin)) :
    field (s.mbx m).copy 4 2 = n := by
  obtain ⟨-, -, -, hfield, hcheck, -⟩ := h
  by_contra hlen
  unfold State.requestCheck at hcheck
  dsimp only at hcheck
  rw [hfield, hcmd] at hcheck
  by_cases hrange : field (s.mbx m).copy 4 2 < 16 ∨ 256 < field (s.mbx m).copy 4 2
  · rw [if_pos hrange] at hcheck
    exact absurd hcheck (by decide)
  · rw [if_neg hrange] at hcheck
    dsimp only at hcheck
    rw [if_pos hlen] at hcheck
    exact absurd hcheck (by decide)

theorem safetyTest_request (h : s.serving m 0x0500) : s.request m = (s.mbx m).copy.take 24 := by
  rw [State.request, requestCheck_length h (by rfl)]

theorem event_evtSeq {code source object status : Nat} {detail : List Byte} :
    (s.event code source object status detail).hif.evtSeq = (s.hif.evtSeq + 1) % 2 ^ 32 := by
  unfold State.event
  extract_lets h r h'
  split <;> rfl

theorem event_pkg {code source object status : Nat} {detail : List Byte} : (s.event code source object status detail).pkg = s.pkg :=
  (congrArg State.pkg event_frame.eq_take).trans rfl

theorem modNth_getElem? {α : Type} (f : α → α) {i : Nat} {l : List α} (h : i < l.length) : (modNth f i l)[i]? = some (f l[i]) := by
  induction l generalizing i with
  | nil => exact absurd h (by simp)
  | cons x xs ih =>
    cases i with
    | zero => rfl
    | succ i => exact ih (Nat.lt_of_succ_lt_succ h)

/-- A slot that was written holds its image (R55). -/
theorem slotImage_setSlot {l : List FwSlot} {i : Nat} {x : FwSlot} (h : i < 2) : slotImage (setSlot l i x) i = x.image := by
  rw [slotImage, setSlot, modNth_getElem? _ (by simp; omega)]
  rfl

/-- The flash that a write of a slot ends with: the image with the next count, or a blank slot (R55). -/
def flashAfter (s : State) (w : FwWrite) (ok : Bool) : List FwSlot :=
  let l := if w.target then s.pkg.sfdFlash else s.pkg.iodFlash
  let other := (l[1 - w.slot]?).getD { compl := 0 }
  let count : BitVec 32 := if FwSlot.valid other then other.count + 1 else 1
  setSlot l w.slot (if ok then { image := w.image, count := count, compl := ~~~count } else blankSlot)

def slotWritten (s : State) (w : FwWrite) (ok : Bool) : State := s.modPkg fun k =>
  { k with fwWrite := none, iodFlash := if w.target then k.iodFlash else flashAfter s w ok
           sfdFlash := if w.target then flashAfter s w ok else k.sfdFlash }

theorem fwSlotWriteDone_writes {w : FwWrite} {ok : Bool} (hw : s.pkg.fwWrite = some w) : exec (.fwSlotWriteDone ok) s =
    if ok then .next ((slotWritten s w ok).commandDone w.mbx w.tag 0)
    else .next (((slotWritten s w ok).internalError w.mbx 0x0600).commandDone w.mbx w.tag E_INTERNAL) := by
  change execFwSlotWriteDone ok s = _
  unfold execFwSlotWriteDone
  rw [hw]
  rfl

theorem flashAfter_image {w : FwWrite} {ok : Bool} (h : w.slot < 2) :
    slotImage (flashAfter s w ok) w.slot = if ok then w.image else blankSlot.image := by
  rw [flashAfter, slotImage_setSlot h]
  cases ok <;> rfl

theorem internalError_pkg {cmd : Nat} : (s.internalError m cmd).pkg = s.pkg := event_pkg

/-- Settles O9: each command's handler on its passing path, and what ends it. -/
theorem serviceCommandsComplete : Obligations.ServiceCommandsComplete := by
  intro s m n image r w a
  refine ⟨fun h hpay hlow hhigh => ?policy, fun h hcheck htest => ?injection, fun h hcheck htest hrestarts hwrite v hv => ?vote, fun h => ?ledger,
    fun h hcheck => ?log, fun hidle hread v hv => ?logDone, fun h hcheck => ?slot, fun hw => ?written, fun hw => ?unwritten,
    fun h hcheck htarget hfuse => ?advance, fun ha => ?advanced⟩
  case policy =>
    refine congrArg Host.Outcome.next (serve_answers h ?_)
    dsimp only
    rw [if_neg (by simp [hpay]), if_neg (by omega)]
  case injection =>
    refine (if_neg (by simp [htest])).trans (congrArg Host.Outcome.next (serve_answers h ?_))
    exact if_neg (not_not.2 hcheck)
  case vote =>
    have hserve : ∀ act : State → List Byte → BitVec 16 → State × Option Answer, (act s (s.request m) (s.requestTag m) = (s, some { accepted := true })) →
      s.serve m 0x0500 act = s.answer m 0x0500 { accepted := true } := fun act hact => serve_answers h hact
    have hfield : field (s.request m) 17 1 = field (s.mbx m).copy 17 1 := by rw [safetyTest_request h, field_take (by decide)]
    change execSafetyTestVote m s = _
    unfold execSafetyTestVote
    rw [if_neg (by simp [htest])]
    dsimp only
    rw [hserve _ (if_neg (not_not.2 hcheck)), ← hfield]
    rw [safetyTest_request h] at hcheck
    obtain ⟨hm, hstate, hfw, hcmd, hreq, hfind⟩ := h
    have hserves : s.servesCmd m 0x0500 = true := by simp [State.servesCmd, hm, hstate, hfw, hcmd]
    rw [if_neg, if_neg (by simp [hrestarts, hwrite]), ← hv]
    · rfl
    · rw [State.requestTag] at hfind
      simp only [hserves, hreq, hcheck]
      simpa using hfind
  case ledger => exact congrArg Host.Outcome.next (serve_answers h rfl)
  case log =>
    refine ⟨_, ?_, congrArg Host.Outcome.next (serve_answers h (if_neg (not_not.2 hcheck)))⟩
    rw [List.append_assoc]
    exact List.take_left' (leBytes_length 4 _)
  case logDone =>
    subst hv
    change execLogReadDone n s = _
    rw [execLogReadDone, unlessStalled_unhindered hidle, hread]
  case slot =>
    refine congrArg Host.Outcome.next (serve_answers h ?_)
    exact if_neg (not_not.2 hcheck)
  case written =>
    refine ⟨_, (fwSlotWriteDone_writes hw).trans (if_pos rfl), ?_, event_evtSeq, fun htarget => ?_, fun htarget => ?_⟩ <;>
      rw [State.commandDone, event_pkg]
    · rfl
    · simp only [slotWritten, State.modPkg, htarget]
      exact ⟨rfl, fun hslot => flashAfter_image hslot⟩
    · simp only [slotWritten, State.modPkg, htarget]
      exact ⟨rfl, fun hslot => flashAfter_image hslot⟩
  case unwritten =>
    refine ⟨_, (fwSlotWriteDone_writes hw).trans (if_neg (by simp)), ?_, fun hslot => ?_⟩ <;>
      rw [State.commandDone, event_pkg, internalError_pkg]
    · rfl
    · refine Eq.trans ?_ (flashAfter_image (s := s) (ok := false) hslot)
      cases hsite : w.target <;> simp [slotWritten, State.modPkg, hsite]
  case advance =>
    have htarget' : (bitsOf (field (s.request m) 16 1) 0 1 == 1) = false := by rw [htarget]; rfl
    refine congrArg Host.Outcome.next (serve_answers h ?_)
    dsimp only
    rw [if_neg (not_not.2 hcheck), htarget']
    exact if_neg (by simpa using hfuse)
  case advanced =>
    change execFwRollbackAdvanceDone s = _
    unfold execFwRollbackAdvanceDone
    rw [ha]

end Sys2Proof.Proofs
end

section
/-! What the accesses to the window and to registers (O10) and the host's events (O11) leave. -/
namespace Sys2Proof.Proofs
open Sys2Proof Sys2Proof.Machine Sys2Proof.Laws

set_option Elab.async false

variable {s : State} {x n a : Nat} {bs : List Byte}

theorem exec_windowRead (hidle : s.unhindered = true) (hwin : s.inWindow x n = true) :
    exec (.windowRead x n) s = .next (s.windowRead (s.winAddr x) n) :=
  (if_pos hwin).trans (congrArg Host.Outcome.next (if_pos hidle))

theorem exec_windowWrite (hidle : s.unhindered = true) (hwin : s.inWindow x bs.length = true) :
    exec (.windowWrite x bs) s = .next (s.windowWrite (s.winAddr x) bs) :=
  (if_pos hwin).trans (congrArg Host.Outcome.next (if_pos hidle))

theorem windowRead_included (h : s.spanExcluded a n = false) : s.windowRead a n =
    let s0 := s.findSpan hostWho a n
    let s1 := s0.passSpan hostWho false a n
    if s.spanVisible a n = false then (s1.wr HIF_STATUS_WIN_ERR 1).hostGets .completerAbort
    else if s0.rangePoisoned a n then (s1.wr HIF_STATUS_WIN_POISON 1).hostGets (.poisoned (memRead s.dram a n))
    else s1.hostGets (.data (memRead s.dram a n)) :=
  if_neg (by simp [h])

/-- Settles O10: each access's one path in its state. -/
theorem hostAccessesComplete : Obligations.HostAccessesComplete := by
  intro s r u w x n off bs v hidle hr hu hw
  subst hr hu hw
  refine ⟨fun hwin hex hvis => ?read, fun hwin hex => ?readExcluded, fun hwin hex hvis => ?readInvisible, fun hwin hex hvis => ?write,
    fun hwin hex => ?writeExcluded, fun hwin hex hvis => ?writeInvisible, rfl, rfl, fun hoff => ?words, rfl, rfl, fun hacc => ?invalid⟩
  case read =>
    rw [exec_windowRead hidle hwin, windowRead_included hex]
    exact (congrArg Host.Outcome.next (if_neg (by simp [hvis])))
  case readExcluded => exact (exec_windowRead hidle hwin).trans (congrArg _ (if_pos hex))
  case readInvisible =>
    rw [exec_windowRead hidle hwin, windowRead_included hex]
    exact (congrArg Host.Outcome.next (if_pos hvis))
  case write => exact windowWrite_taken hidle hwin hex hvis
  case writeExcluded => exact (exec_windowWrite hidle hwin).trans (congrArg _ (if_pos hex))
  case writeInvisible =>
    exact (exec_windowWrite hidle hwin).trans (congrArg _ ((if_neg (by simp [hex])).trans (if_pos hvis)))
  case words =>
    have hread : s.hostRead32 off = (s.read32 off).1.hostGets (.data (leBytes 4 (s.read32 off).2)) := if_neg (not_not.2 hoff)
    exact ⟨congrArg Host.Outcome.next hread, congrArg Host.Outcome.next hread⟩
  case invalid => exact if_neg (by simp [hacc])

/-- Settles O11: each event's one path under its conditions. -/
theorem hostEventsComplete : Obligations.HostEventsComplete := by
  intro s u v kind t w r rest
  refine ⟨fun hv hpend => ?unmask, fun hv hpend => ?unmaskIdle, rfl, fun hlow hhigh => ?aer, fun hfw hu => ⟨?fatal, ?fatalWritten⟩, rfl, rfl,
    fun hbuf hroom hu => ?ring, fun hdelay hu => ?coalesced⟩
  case unmask => exact (if_neg (by omega)).trans (congrArg Host.Outcome.next (if_pos ⟨hpend, rfl⟩))
  case unmaskIdle => exact (if_neg (by omega)).trans (congrArg Host.Outcome.next (if_neg (by simp [hpend])))
  case aer => exact (if_neg (by omega)).trans (apply_ite Host.Outcome.next _ _ _).symm
  case fatal =>
    subst hu
    exact if_neg (by simp [hfw])
  case fatalWritten =>
    subst hu
    exact if_neg (by simp [hfw])
  case ring =>
    subst hu
    change execEventRingWrite s = _
    unfold execEventRingWrite
    rw [hbuf]
    exact if_neg (by simp [hroom])
  case coalesced =>
    subst hu
    change execEventCoalesceExpiry s = _
    unfold execEventCoalesceExpiry
    rw [hdelay]

end Sys2Proof.Proofs
end

section
/-! What queue commands and the generic records leave (O12). -/
namespace Sys2Proof.Proofs
open Sys2Proof Sys2Proof.Machine Sys2Proof.Laws

set_option Elab.async false

variable {s u : State} {d op a : Nat} {r : Rec} {check : Rec → Nat × Nat} {who : Who}

/-- A record that may start and passes its checks runs (R115). -/
theorem runOp_startable {eff : State → Rec → State} (h : s.startable d op r check) :
    s.runOp d op (fun _ => true) check eff = eff (s.runRec d r.seq) r := by
  obtain ⟨hpick, hroom, hchecks⟩ := h
  unfold State.runOp
  rw [hpick]
  exact (if_neg (by simp [hroom])).trans (if_neg (not_not.2 hchecks))

/-- One whose work a unit does later waits there. -/
theorem startReady_startable (h : s.startable d op r check) : s.startReady d op check = s.readyRec d r.seq := by
  obtain ⟨hpick, hroom, hchecks⟩ := h
  unfold State.startReady
  rw [hpick]
  exact (if_neg (by simp [hroom])).trans (if_neg (not_not.2 hchecks))

theorem putFence_stored {x : Nat} (h : (s.devStore (s.fenceWho d r) (s.fenceAddr r) (leBytes 8 x)).2 = 0) :
    s.putFence d r x = (s.devStore (s.fenceWho d r) (s.fenceAddr r) (leBytes 8 x)).1.completeRec d r.seq 0 :=
  if_neg (not_not.2 h)

/-- Settles O12: each command's one path under its conditions. -/
theorem queueCommandsComplete : Obligations.QueueCommandsComplete := by
  intro s u d a t r who hidle
  refine ⟨fun hlive hdes hstate hnew hfits => ?doorbell, fun hlive hhalted => ?resume, fun hlive hstate => ?flush,
    fun hlive ht hu => ?cqtail, fun hfetch hroom => ?start, fun hfetch hroom => ?full, fun h => ?nop, fun h hu hwho ha hallowed hstatus => ?signal,
    fun h hu hwho ha v st bs hload hst => ?wait, fun hrun hmet => ?release, fun hrun hmet hlimit => ?timeout, fun h hu hwho ha hstore => ?timestamp⟩
  case doorbell =>
    refine congrArg Host.Outcome.next ?_
    refine (if_neg (by simp [hlive, hdes])).trans ((if_neg hstate).trans ((if_neg hnew).trans (if_neg (by simp [hfits]))))
  case resume => exact congrArg Host.Outcome.next (if_pos ⟨hlive, hhalted⟩)
  case flush => exact congrArg fin (if_pos ⟨hlive, hstate⟩)
  case cqtail =>
    subst hu
    exact congrArg fin (if_neg (by simp [hlive]; omega))
  case start =>
    change execRecordStart d s = _
    rw [execRecordStart, unlessStalled_unhindered hidle]
    exact (if_neg (by simp [hfetch])).trans (if_pos hroom)
  case full =>
    change execRecordStart d s = _
    rw [execRecordStart, unlessStalled_unhindered hidle]
    exact (if_neg (by simp [hfetch])).trans (if_neg (by simp [hroom]))
  case nop => exact congrArg fin (runOp_startable h)
  case signal =>
    subst hwho ha
    change execSignal d s = _
    rw [execSignal, unlessStalled_unhindered hidle]
    refine congrArg fin ((runOp_startable h).trans ?_)
    dsimp only
    rw [← hu, if_neg (not_not.2 hstatus), if_pos hallowed]
  case wait =>
    subst hu hwho ha
    change execWait d s = _
    rw [execWait, unlessStalled_unhindered hidle]
    refine congrArg fin ((runOp_startable h).trans ?_)
    dsimp only
    rw [hload]
    exact if_neg (by rcases hst with h | h <;> simp [h])
  case release =>
    change execWaitRelease d s = _
    unfold execWaitRelease
    rw [hrun]
    exact if_pos hmet
  case timeout =>
    change execWaitTimeout d s = _
    unfold execWaitTimeout
    rw [hrun]
    exact if_neg (by simp [hmet, hlimit])
  case timestamp =>
    subst hu hwho ha
    change execTimestamp d s = _
    rw [execTimestamp, unlessStalled_unhindered hidle]
    exact congrArg fin ((runOp_startable h).trans (putFence_stored hstore))

end Sys2Proof.Proofs
end

section
/-! What jobs and forager records leave (O13). -/
namespace Sys2Proof.Proofs
open Sys2Proof Sys2Proof.Machine Sys2Proof.Laws

set_option Elab.async false

/-- Settles O13: each command's one path under its conditions. -/
theorem jobCommandsComplete : Obligations.JobCommandsComplete := by
  intro s u w d k c compiled mode est r j hidle
  refine ⟨fun h hu => ?copy, fun h hu => ?fill, fun hw h hu => ?run, fun hearliest hserve hreach hstart hroom => ?assign,
    fun hj hlive hphase hends hheld hclock => ?start, fun hj hlive hphase hforager => ⟨fun hclock => ?foragerDone, ?foragerBudget⟩,
    fun hj hlive hphase hforager => ⟨fun hended hclock => ?jobEnd, fun hhalted => ?jobBudget⟩, fun hj hlive hphase hclock hu => ?saved,
    fun hj hlive hphase => ?released, fun hearliest hpool => ?ageing⟩
  case copy =>
    subst hu
    exact congrArg fin (runOp_startable h)
  case fill =>
    subst hu
    exact congrArg fin (runOp_startable h)
  case run =>
    subst hw hu
    change execJobRun d compiled mode s = _
    rw [execJobRun, unlessStalled_unhindered hidle]
    exact congrArg fin (runOp_startable h)
  case assign =>
    change execJobAssign c s = _
    unfold execJobAssign
    rw [hearliest]
    refine (if_neg (by simp [hserve])).trans ((if_neg (by simp [hreach])).trans ((if_neg (by simp [hstart])).trans (if_neg ?_)))
    rintro ⟨hforager, hfull⟩
    rw [hroom hforager] at hfull
    exact Bool.noConfusion hfull
  case ageing =>
    change execBeAgeingExpiry c s = _
    unfold execBeAgeingExpiry
    rw [hearliest]
    exact if_pos hpool
  case start =>
    subst hj
    change execJobStart ⟨k, est⟩ s = _
    rw [execJobStart, unlessStalled_unhindered hidle]
    exact if_pos ⟨hlive, hphase, hends, hheld, hclock⟩
  case foragerDone =>
    subst hj
    change execForagerRecordDone k s = _
    rw [execForagerRecordDone, unlessStalled_unhindered hidle]
    exact if_pos ⟨hlive, hphase, hforager, hclock⟩
  case foragerBudget =>
    subst hj
    exact if_pos ⟨hlive, hphase, hforager⟩
  case jobEnd =>
    subst hj
    change execJobEnd k s = _
    rw [execJobEnd, unlessStalled_unhindered hidle]
    exact if_pos ⟨hlive, hphase, hforager, hended, hclock⟩
  case jobBudget =>
    subst hj
    exact if_pos ⟨hlive, hphase, hforager, hhalted⟩
  case saved =>
    subst hj hu
    change execJobSaveDone k s = _
    rw [execJobSaveDone, unlessStalled_unhindered hidle]
    exact if_pos ⟨hlive, hphase, hclock⟩
  case released =>
    subst hj
    exact if_pos ⟨hlive, hphase⟩

end Sys2Proof.Proofs
end

section
/-! What sequences, steps and the honey allocator leave (O14). -/
namespace Sys2Proof.Proofs
open Sys2Proof Sys2Proof.Machine Sys2Proof.Laws

set_option Elab.async false

variable {s : State} {d op : Nat} {r : Rec} {check : Rec → Nat × Nat}

/-- A record that is picked, finds room to complete and passes its checks runs (R115). -/
theorem runOp_picked {sel : Rec → Bool} {eff : State → Rec → State} (hpick : s.pickRec d op sel = some r)
    (hroom : s.cqRoom d (s.queue d) = true) (hchecks : (s.checks (s.queue d).cls (check r)).1 = 0) :
    s.runOp d op sel check eff = eff (s.runRec d r.seq) r := by
  unfold State.runOp
  rw [hpick]
  exact (if_neg (by simp [hroom])).trans (if_neg (not_not.2 hchecks))

theorem checks_passed {cls : Nat} {c : Nat × Nat} (hc : c.1 = 0) (hten : s.check10 cls = 0) : (s.checks cls c).1 = 0 := by
  rw [State.checks, if_neg (not_not.2 hc), hten]

/-- SEQ_CTL of one operation (R236). -/
theorem seqCtl_runs (hop : 1 ≤ op ∧ op ≤ 5)
    (hpick : s.pickRec d 0x22 (fun x => field x.bytes 20 1 == op || !decide (1 ≤ field x.bytes 20 1 ∧ field x.bytes 20 1 ≤ 5)) = some r)
    (hroom : s.cqRoom d (s.queue d) = true) (hfield : field r.bytes 20 1 = op) (howner : s.ownerOk (s.recColony d r) r.bytes = true)
    (hten : s.check10 (s.queue d).cls = 0) : s.seqCtl op d = (s.runRec d r.seq).seqEffect op d r := by
  refine (runOp_picked (check := fun r => firstField [(s.ownerOk (s.recColony d r) r.bytes, E_RANGE, 16),
    (decide (1 ≤ field r.bytes 20 1 ∧ field r.bytes 20 1 ≤ 5), E_RANGE, 20)]) (eff := fun s r => s.seqEffect op d r)
    hpick hroom (checks_passed ?_ hten))
  simp only [firstField, howner, hfield, hop, and_self, decide_true, if_true]

/-- Settles O14: each record runs, and the allocator serves the request it picks. -/
theorem sequenceCommandsComplete : Obligations.SequenceCommandsComplete := by
  intro s u w d k op compiled mode r j a hidle
  refine ⟨fun hheld hpick => ?alloc, fun hw h => ?join, fun h => ?finish, fun hpick hroom hfield howner hten hu => ?ctl,
    fun hw hpick hroom hjob hstep hten hu => ?step, fun hj hlive hphase hnone => ?built⟩
  case alloc =>
    change execAllocatorServe s = _
    rw [execAllocatorServe, unlessStalled_unhindered hidle, if_neg (by simp [hheld]), hpick]
  case join =>
    subst hw
    change execSeqJoin d s = _
    rw [execSeqJoin, unlessStalled_unhindered hidle]
    exact congrArg fin (runOp_startable h)
  case finish =>
    change execSeqFinish d s = _
    rw [execSeqFinish, unlessStalled_unhindered hidle]
    exact congrArg fin (runOp_startable h)
  case ctl =>
    subst hu
    have hruns : 1 ≤ op ∧ op ≤ 5 → s.unlessStalled (fun s => fin (s.seqCtl op d)) = .next ((s.runRec d r.seq).seqEffect op d r).settle :=
      fun hop => (unlessStalled_unhindered hidle).trans (congrArg fin (seqCtl_runs hop hpick hroom hfield howner hten))
    refine ⟨?_, ?_, ?_, ?_, ?_⟩ <;> rintro rfl <;> exact hruns (by decide)
  case step =>
    subst hw hu
    change execStepRun d compiled mode s = _
    rw [execStepRun, unlessStalled_unhindered hidle]
    exact congrArg fin (runOp_picked hpick hroom (checks_passed (by rw [if_neg (not_not.2 hjob), hstep]) hten))
  case built =>
    subst hj
    change execStepBuildDone k s = _
    rw [execStepBuildDone, unlessStalled_unhindered hidle]
    exact if_pos ⟨hlive, hphase, hnone⟩

end Sys2Proof.Proofs
end

section
/-! What bundles, slot waits, foragers and the scratchpad (O15) and the comb's cache, debug and counters (O16) leave. -/
namespace Sys2Proof.Proofs
open Sys2Proof Sys2Proof.Machine Sys2Proof.Laws

set_option Elab.async false

variable {s : State} {g f op : Nat}

/-- A scratchpad operation at the head of a forager's queue that passes its check is admitted (R193). -/
theorem takeSpOp_admitted {b : List Byte} {sched : Nat} {q : List (Desc × Nat)} (hruns : s.dieRuns (g / 16) = true)
    (hcur : (s.forager g f).cur = none) (hqueue : (s.forager g f).queue = (.op b, sched) :: q) (hcheck : (s.comb g).spCheck b = 0)
    (hop : (SpOp.ofBytes b).op = op) : s.takeSpOp g f op = (s.setForager g f (s.forager g f).takeHead).admitXfer g f := by
  unfold State.takeSpOp
  dsimp only
  rw [if_neg (by simp [hruns]), hcur, hqueue]
  exact (if_pos (.inl hop)).trans (if_neg (not_not.2 hcheck))

/-- Settles O15: each command's one path under its conditions. -/
theorem foragerCommandsComplete : Obligations.ForagerCommandsComplete := by
  intro s s0 u g f slot n wt st write last ue ops held lastHeld t x w q b sched bs bad hit hidle
  refine ⟨fun hruns hissue hok => ?issue, fun hheld hwait hhalt hruns => ?slotwait, fun hruns hcur => ?current,
    fun hruns hcur hqueue hcheck => ?queued, fun hruns hcur hwaits => ?waits, fun hruns hcur hn hdir hs0 hload => ?loaded,
    fun hruns hcur hn hdir hs0 hstore hhit => ⟨fun hgood => ?stored, fun hbad => ?storedBad⟩, fun hruns hcur hqueue hcheck hu => ?spOps,
    fun hruns hcur hn hdo => ?spDone, rfl⟩
  case issue =>
    change execBundleIssue g ops last s = _
    rw [execBundleIssue, unlessStalled_unhindered hidle]
    exact if_pos ⟨hruns, hissue, hok⟩
  case slotwait =>
    change execSlotwaitExpiry g s = _
    unfold execSlotwaitExpiry
    rw [hheld]
    dsimp only
    rw [hwait]
    exact congrArg fin (if_neg (by simp [hhalt, hruns]))
  case current =>
    change execForagerSlotAdmit g f s = _
    unfold execForagerSlotAdmit
    dsimp only
    rw [if_neg (by simp [hruns]), hcur]
    rfl
  case queued =>
    change execForagerSlotAdmit g f s = _
    unfold execForagerSlotAdmit
    dsimp only
    rw [if_neg (by simp [hruns]), hcur, hqueue]
    exact congrArg fin (if_neg (not_not.2 hcheck))
  case waits =>
    change execForagerSlotwaitExpiry g f s = _
    unfold execForagerSlotwaitExpiry
    rw [hcur]
    exact if_pos ⟨by rw [hwaits]; rfl, hruns⟩
  case loaded =>
    subst hs0
    change execForagerTransferDone g ⟨f, bad⟩ s = _
    rw [execForagerTransferDone, unlessStalled_unhindered hidle]
    dsimp only
    rw [hcur]
    dsimp only
    dsimp only at hload
    rw [if_neg (by simp [hn, hruns]), if_pos hdir, hload]
    exact if_neg (not_not.2 rfl)
  case stored =>
    subst hs0
    change execForagerTransferDone g ⟨f, bad⟩ s = _
    rw [execForagerTransferDone, unlessStalled_unhindered hidle]
    dsimp only
    rw [hcur]
    dsimp only
    dsimp only at hstore
    rw [if_neg (by simp [hn, hruns]), if_neg (by simp [hdir]), hstore, ← hhit]
    exact (if_neg (by simp)).trans (if_neg (not_not.2 hgood))
  case storedBad =>
    subst hs0
    change execForagerTransferDone g ⟨f, bad⟩ s = _
    rw [execForagerTransferDone, unlessStalled_unhindered hidle]
    dsimp only
    rw [hcur]
    dsimp only
    dsimp only at hstore
    rw [if_neg (by simp [hn, hruns]), if_neg (by simp [hdir]), hstore, ← hhit]
    exact (if_neg (by simp)).trans (if_pos hbad)
  case spOps =>
    subst hu
    refine ⟨?_, ?_, ?_, ?_, ?_⟩ <;> intro hop <;> exact congrArg fin (takeSpOp_admitted hruns hcur hqueue hcheck hop)
  case spDone =>
    change execScratchpadOpDone g ⟨f, ue⟩ s = _
    rw [execScratchpadOpDone, unlessStalled_unhindered hidle]
    dsimp only
    rw [hcur]
    dsimp only
    rw [if_neg (by simp [hn, hruns]), hdo]
    dsimp only
    split
    · rfl
    · exact (apply_ite fin _ _ _).symm

theorem writeDbg_allowed {halt step : Bool} (hg : g < 64) (hallowed : ((halt || step) && (s.isLc g || s.on HIF_LOCKCFG_CMB_HALT_DENY)) = false) :
    s.writeDbg g halt step false =
      let s1 := s.wrB (CMB_DBG_HALT.idx g) halt
      let causes := s1.rd (CMB_STATE_CAUSES.idx g) % 256
      let s2 := if halt ∧ s1.combRuns g = true then
          ((s1.wr (CMB_DBG_HALTED.idx g) 1).wr (CMB_STATE_STATE.idx g) 4).wr (CMB_STATE_CAUSES.idx g) (causes + 256)
        else if halt then s1
        else if s1.on (CMB_DBG_HALTED.idx g) then
          ((s1.wr (CMB_DBG_HALTED.idx g) 0).wr (CMB_STATE_STATE.idx g) (if causes = 0 then 2 else 3)).wr (CMB_STATE_CAUSES.idx g) causes
        else s1
      if step ∧ s.on (CMB_DBG_HALTED.idx g) = true then s2.modComb g fun c => { c with stepReq := true } else s2 := by
  unfold State.writeDbg
  dsimp only
  rw [if_neg (by omega)]
  simp only [Bool.false_eq_true, if_false]
  rw [if_neg (by simp [hallowed])]

theorem writeDbg_refused {halt step : Bool} (hg : g < 64) (hask : (halt || step) = true)
    (hrefused : s.isLc g = true ∨ s.on HIF_LOCKCFG_CMB_HALT_DENY = true) :
    s.writeDbg g halt step false = s.wr (CMB_DBG_REFUSED.idx g) 1 := by
  unfold State.writeDbg
  dsimp only
  rw [if_neg (by omega)]
  simp only [Bool.false_eq_true, if_false]
  rw [if_pos]
  simp [hask, hrefused]

/-- Settles O16: each command's one path under its conditions. -/
theorem combDebugCommandsComplete : Obligations.CombDebugCommandsComplete := by
  intro s s1 u g word a k st ue bs hidle
  refine ⟨fun hruns hdrain hfill => ?noFill, fun hruns hdrain hfill hload hst => ?fill, fun hg hlc hdeny hs1 hu => ⟨?halt, fun hon => ?step⟩,
    fun hg hs1 hk => ?release, fun hg hrefused => ⟨?haltRefused, ?stepRefused⟩, fun hg => ?clear, fun hbusy hu => ?read, fun hread hu => ?readDone⟩
  case noFill =>
    change execCacheFillDone g s = _
    rw [execCacheFillDone, unlessStalled_unhindered hidle, if_neg (by simp [hruns]), hdrain]
    dsimp only
    rw [if_neg (by simp), hfill]
  case fill =>
    change execCacheFillDone g s = _
    rw [execCacheFillDone, unlessStalled_unhindered hidle, if_neg (by simp [hruns]), hdrain]
    dsimp only
    rw [if_neg (by simp), hfill]
    dsimp only
    rw [hload]
    exact if_neg (by rcases hst with h | h <;> simp [h])
  case halt =>
    subst hs1 hu
    refine congrArg Host.Outcome.next ((writeDbg_allowed hg (by simp [hlc, hdeny])).trans ?_)
    simp
  case step =>
    subst hs1 hu
    change Host.Outcome.next (s.writeDbg g (s.on (CMB_DBG_HALT.idx g)) true false) = _
    rw [hon]
    refine congrArg Host.Outcome.next ((writeDbg_allowed hg (by simp [hlc, hdeny])).trans ?_)
    simp
  case release =>
    subst hs1 hk
    refine congrArg Host.Outcome.next ((writeDbg_allowed hg (by simp)).trans ?_)
    simp
  case haltRefused => exact congrArg Host.Outcome.next (writeDbg_refused hg rfl hrefused)
  case stepRefused => exact congrArg Host.Outcome.next (writeDbg_refused hg (Bool.or_true _) hrefused)
  case clear => exact congrArg Host.Outcome.next (if_pos hg)
  case read =>
    subst hu
    exact congrArg Host.Outcome.next (if_neg (by simp [hbusy]))
  case readDone =>
    subst hu
    change execScratchpadDebugReadDone ue s = _
    unfold execScratchpadDebugReadDone
    rw [hread]

end Sys2Proof.Proofs
end

section
/-! What the DRAM controllers' commands leave (O17), and a command parity failure (O18). -/
namespace Sys2Proof.Proofs
open Sys2Proof Sys2Proof.Machine Sys2Proof.Laws

set_option Elab.async false

variable {s : State} {d ch place : Nat} {q : ChanReq} {r : DramReq}

/-- Whether a request reaches an address does not depend on the deadline it carries on. -/
theorem allowed_leavePoint (a : Nat) : s.allowed (reqWho (s.leavePoint q)) a = s.allowed (reqWho q) a := rfl

/-- A request on its own die reaches its controller at once. -/
theorem dramRequest_local (hsource : s.niSource r = true) (hallowed : s.allowed (reqWho (s.niReq r)) r.addr = true)
    (hroute : s.dieRoute r.source (s.dieOffset r.addr).1 = []) : exec (.dramRequest r) s = .next (s.arrive (s.leavePoint (s.niReq r))) := by
  refine (if_neg (by simp [hsource])).trans ((if_neg (by simp [hallowed])).trans (congrArg Host.Outcome.next ?_))
  rw [hroute]
  rfl

theorem arrive_allowed (h : s.allowed (reqWho q) q.req.addr = true) (hd : (s.dieOffset q.req.addr).1 = d)
    (hch : offCh (s.dieOffset q.req.addr).2 = ch) : s.arrive q =
      if s.addrExcluded q.req.addr then s.respond q E_LINK [] []
      else if (s.chan d ch).full q.req ∨ (s.mem.waiting.any fun m => m.place == 24 + 32 * d + ch && shareWord m.req.req q.req) = true then
        s.netWait { req := q, place := 24 + 32 * d + ch }
      else s.enterQueue d ch q := by
  subst hd hch
  exact if_neg (by simp [h])

theorem notFull_read {x : Chan} (hkind : r.kind = 0) (h : x.reads.length < 64) : x.full r = false := by
  rw [Chan.full, if_pos hkind]
  exact decide_eq_false (by omega)

theorem notFull_write {x : Chan} (hkind : r.kind ≠ 0) (h : x.writes.length < 64) : x.full r = false := by
  rw [Chan.full, if_neg hkind]
  exact decide_eq_false (by omega)

/-- The state in which a request has taken its place in the order of arrival. -/
def countArrival (s : State) : State := { s with mem := { s.mem with reqOrd := s.mem.reqOrd + 1 } }

/-- What a request holds in its queue (R295). -/
def queued (s : State) (q : ChanReq) (data : List Byte) : ChanReq :=
  { s.leavePoint q with
    ord := s.mem.reqOrd
    data := data
    was := (List.range q.req.words).map fun w => s.isPoisoned (q.req.addr / 64 + w) }

theorem enterQueue_read (hkind : q.req.kind = 0) : s.enterQueue d ch q =
    (countArrival s).setChan d ch { (countArrival s).chan d ch with
      reads := ((countArrival s).chan d ch).reads ++ [queued s q (memRead s.dram (q.req.addr / 64 * 64) (64 * q.req.words))] } := by
  unfold State.enterQueue
  dsimp only
  rw [if_pos hkind, if_pos hkind]
  rfl

theorem enterQueue_write (hkind : q.req.kind ≠ 0) : s.enterQueue d ch q =
    let v := (((countArrival s).setChan d ch { (countArrival s).chan d ch with
      writes := ((countArrival s).chan d ch).writes ++ [queued s q []] }).applyWrite q.req).markWaits
    (if q.req.kind = 2 then v else v.respond (queued s q []) 0 [] []).drainMode d ch := by
  unfold State.enterQueue
  dsimp only
  rw [if_neg hkind, if_neg hkind]
  rfl

/-- A request on its own die that its controller takes enters its queue. -/
theorem dramRequest_enters (hsource : s.niSource r = true) (hallowed : s.allowed (reqWho (s.niReq r)) r.addr = true)
    (hroute : s.dieRoute r.source (s.dieOffset r.addr).1 = []) (hd : (s.dieOffset r.addr).1 = d) (hch : offCh (s.dieOffset r.addr).2 = ch)
    (hq : q = s.leavePoint (s.niReq r)) (hex : s.addrExcluded r.addr = false) (hroom : (s.chan d ch).full q.req = false)
    (hfree : (s.mem.waiting.any fun m => m.place == 24 + 32 * d + ch && shareWord m.req.req q.req) = false) :
    exec (.dramRequest r) s = .next (s.enterQueue d ch q) := by
  have haddr : q.req.addr = r.addr := by rw [hq]; rfl
  rw [dramRequest_local hsource hallowed hroute, ← hq, arrive_allowed (by rw [hq]; exact hallowed) (haddr ▸ hd) (haddr ▸ hch), haddr,
    if_neg (by simp [hex]), if_neg (by simp [hroom, hfree])]

/-- A patrol scrub of a word that is whole (R305). -/
theorem patrolScrub_clean {err : Nat} (hidle : s.unhindered = true) (htrained : s.on (DMC_STATUS_TRAINED.idx d) = true)
    (hex : s.on (DMC_STATUS_EXCLUDED.idx d) = false)
    (hclean : ((s.setDmc d { s.dmc d with scrub := ((s.dmc d).scrub + 1) % 2 ^ 28 }).passBurst scrubWho false
      (s.addrOf d (64 * (s.dmc d).scrub)) 64).isPoisoned (s.addrOf d (64 * (s.dmc d).scrub) / 64) = false) :
    exec (.patrolScrub d err) s =
      let o := 64 * (s.dmc d).scrub
      let a := s.addrOf d o
      let u := (s.setDmc d { s.dmc d with scrub := ((s.dmc d).scrub + 1) % 2 ^ 28 }).passBurst scrubWho false a 64
      if err = 1 then .next (u.inc (DMC_CE_COUNT.idx d))
      else if err = 2 then .next ((u.spoil d (offCh o)
        { req := { kind := 0, addr := a, words := 1, source := 0x47 }, ord := u.mem.reqOrd } (a / 64)).logDram d 2 o 1 a 0 0 0x47 1)
      else .next u := by
  change execPatrolScrub d err s = _
  rw [execPatrolScrub, unlessStalled_unhindered hidle, if_neg (by simp [htrained, hex])]
  exact if_neg (ne_true_of_eq_false hclean)

/-- Settles O17: each command's one path under its conditions. -/
theorem dramCommandsComplete : Obligations.DramCommandsComplete := by
  intro s u v d ch b o row due isRead r q p errs t
  refine ⟨fun hsource hallowed => ?passes, fun hsource hallowed => ?violates, fun hsource => if_pos hsource,
    fun hsource hallowed hroute hd hch hq => ⟨fun hex => ?excluded, fun hex hheld => ?held, fun hex hkind hroom hfree hu => ?read,
      fun hex hkind hroom hfree hu hp hv => ?write⟩, fun hnext => ?served, fun hnext => ?idle,
    fun hself htrained hdue hu => ⟨fun hdebt hwanted => ?wanted, fun hdebt hwanted => ?unwanted, fun hdebt => ?burst⟩,
    fun ts htemps hhot hu hcool => ?hot, fun hrow hpolicy hwanted hu => ?rowClose, fun hidle htrained hex ho hu hclean => ?patrol, rfl⟩
  case passes => exact (if_neg (by simp [hsource])).trans (if_neg (by simp [hallowed]))
  case violates => exact (if_neg (by simp [hsource])).trans (if_pos hallowed)
  case excluded =>
    have haddr : q.req.addr = r.addr := by rw [hq]; rfl
    rw [dramRequest_local hsource hallowed hroute, ← hq, arrive_allowed (by rw [hq]; exact hallowed) (haddr ▸ hd) (haddr ▸ hch), haddr, if_pos hex]
  case held =>
    have haddr : q.req.addr = r.addr := by rw [hq]; rfl
    rw [dramRequest_local hsource hallowed hroute, ← hq, arrive_allowed (by rw [hq]; exact hallowed) (haddr ▸ hd) (haddr ▸ hch), haddr,
      if_neg (by simp [hex]), if_pos hheld]
  case read =>
    have hkind' : q.req.kind = 0 := by rw [hq]; exact hkind
    rw [dramRequest_enters hsource hallowed hroute hd hch hq hex (notFull_read hkind' hroom) hfree, enterQueue_read hkind', hu, hq]
    rfl
  case write =>
    have hkind' : q.req.kind = r.kind := by rw [hq]; rfl
    rw [dramRequest_enters hsource hallowed hroute hd hch hq hex (notFull_write (hkind' ▸ hkind) hroom) hfree,
      enterQueue_write (hkind' ▸ hkind), hv, hp, hu, ← hkind', hq]
    rfl
  case served =>
    change execDramChannelIssue d ch errs s = _
    unfold execDramChannelIssue
    rw [hnext]
  case idle =>
    change execDramChannelIssue d ch errs s = _
    unfold execDramChannelIssue
    rw [hnext]
  case wanted =>
    subst hdue hu
    exact (if_neg (by simp [hself, htrained])).trans ((if_neg (by omega)).trans (if_pos hwanted))
  case unwanted =>
    subst hdue hu
    exact (if_neg (by simp [hself, htrained])).trans ((if_neg (by omega)).trans (if_neg (by simp [hwanted])))
  case burst =>
    subst hdue hu
    exact (if_neg (by simp [hself, htrained])).trans (if_pos (by omega))
  case hot =>
    subst hu
    exact (if_neg (not_not.2 htemps.symm)).trans ((if_neg (by simp [hcool])).trans (if_pos hhot))
  case rowClose =>
    subst hu
    change execRowIdleClose d ch b s = _
    unfold execRowIdleClose
    dsimp only
    rw [hrow]
    exact if_pos ⟨hpolicy, hwanted⟩
  case patrol =>
    subst ho hu
    have hscrub := fun err => patrolScrub_clean (err := err) hidle htrained hex hclean
    exact ⟨hscrub 0, hscrub 1, hscrub 2⟩

/-! ## A command parity failure -/

/-- What follows the log of a failed command: idle banks make up their refreshes, the channel's waiting requests go on, and a second
failure within 1 ms excludes the pair (R307). -/
def parityEnds (s u : State) (d ch : Nat) (at_ : Option Nat) : Out :=
  let v := (((List.range 16).foldl (fun s b => s.idleRefresh d ch b) u).drainMode d ch).admitWaiting d ch
  if (match at_ with
    | some t => decide (s.tclk < t + 125000)
    | none => false) then fin (v.loseDie d) else .next v

theorem parityEnds_first {u : State} : parityEnds s u d ch none =
    .next ((((List.range 16).foldl (fun s b => s.idleRefresh d ch b) u).drainMode d ch).admitWaiting d ch) := rfl

theorem parityEnds_again {u : State} {t : Nat} (h : s.tclk < t + 125000) : parityEnds s u d ch (some t) =
    .next (((((List.range 16).foldl (fun s b => s.idleRefresh d ch b) u).drainMode d ch).admitWaiting d ch).loseDie d).settle :=
  if_pos (decide_eq_true h)

section
variable {x : Chan} {same : ChanReq → Bool} {a : ChanReq} {reads writes rest : List ChanReq} {hit : List Nat}

/-- A failed burst of a read: its reads, and the words that its writes were to read first. -/
theorem parity_readBurst (hsame : same = fun q => q.req.addr / 512 == place / 512) (hreads : reads = (s.chan d ch).reads.filter same)
    (hwrites : writes = (s.chan d ch).writes.filter fun q => same q && isRmw q.req) (hcons : reads ++ writes = a :: rest) :
    exec (.commandParityFailure d ch 0 place) s = parityEnds s
      ((writes.foldl (fun s q => s.failReq d ch false (failWords true q) q) (reads.foldl (fun s q => s.failReq d ch true [] q)
        (s.setChan d ch { s.chan d ch with
          reads := (s.chan d ch).reads.filter (fun q => !reads.contains q)
          writes := (s.chan d ch).writes.filter (fun q => !writes.contains q)
          parityAt := some s.tclk }))).logReq d 3 a (if reads = [] then failWords true a else List.range a.req.words))
      d ch (s.chan d ch).parityAt := by
  change execCommandParityFailure d ch 0 place s = _
  unfold execCommandParityFailure
  extract_lets x rowCmd same' reads' writes' x1 b x2 s0 fails s1 row s2 s3 again
  have hr : reads' = reads := by rw [hreads, hsame]; rfl
  have hw : writes' = writes := by rw [hwrites, hsame]; rfl
  clear_value reads' writes'
  subst hr hw
  have hs2 : s2 = s1.logReq d 3 a (if reads' = [] then fails a else List.range a.req.words) := by
    simp only [s2, hcons]
    rfl
  have hs3 : s3 = (((List.range 16).foldl (fun s b => s.idleRefresh d ch b) s2).drainMode d ch).admitWaiting d ch := rfl
  rw [hs2] at hs3
  rw [hs3]
  rfl

/-- A failed burst of a write. -/
theorem parity_writeBurst (hsame : same = fun q => q.req.addr / 512 == place / 512) (hwrites : writes = (s.chan d ch).writes.filter same)
    (hcons : writes = a :: rest) :
    exec (.commandParityFailure d ch 1 place) s = parityEnds s
      ((writes.foldl (fun s q => s.failReq d ch false (failWords false q) q)
        (s.setChan d ch { s.chan d ch with
          writes := (s.chan d ch).writes.filter (fun q => !writes.contains q)
          parityAt := some s.tclk })).logReq d 4 a (List.range a.req.words))
      d ch (s.chan d ch).parityAt := by
  change execCommandParityFailure d ch 1 place s = _
  unfold execCommandParityFailure
  extract_lets x rowCmd same' reads' writes' x1 b x2 s0 fails s1 row s2 s3 again
  have hr : reads' = [] := rfl
  have hw : writes' = writes := by rw [hwrites, hsame]; rfl
  have hx1 : x1 = { s.chan d ch with
      writes := (s.chan d ch).writes.filter (fun q => !writes.contains q)
      parityAt := some s.tclk } := by
    simp only [x1, hr, hw, List.contains_nil, Bool.not_false, List.filter_true]
    rfl
  clear_value x1 reads' writes'
  subst hr hw hx1
  have hhead : (([] : List ChanReq) ++ writes').head? = some a := by rw [hcons]; rfl
  have hs2 : s2 = s1.logReq d 4 a (List.range a.req.words) := by
    have hall : fails a = List.range a.req.words := by simp [fails, failWords]
    simp only [s2, hhead, hall, rowCmd, Nat.reduceLeDiff, decide_false, Bool.false_eq_true, if_false, if_true, Nat.reduceAdd]
  have hs3 : s3 = (((List.range 16).foldl (fun s b => s.idleRefresh d ch b) s2).drainMode d ch).admitWaiting d ch := rfl
  rw [hs2] at hs3
  rw [hs3]
  rfl

/-- A failed refresh of a bank that no request waits for. -/
theorem parity_refresh (hsame : same = fun q => offBank (s.dieOffset q.req.addr).2 == place) (hreads : (s.chan d ch).reads.filter same = [])
    (hwrites : (s.chan d ch).writes.filter same = []) :
    exec (.commandParityFailure d ch 3 place) s = parityEnds s
      ((s.setChan d ch (({ s.chan d ch with parityAt := some s.tclk }).setBank place
        { (s.chan d ch).bank place with row := none, debt := ((s.chan d ch).bank place).debt + 1 })).logDram d 5
          (512 * ch + 2 ^ 17 * (place ^^^ ((s.chan d ch).bank place).row.getD 0 % 16) + 2 ^ 21 * ((s.chan d ch).bank place).row.getD 0)
          0 0 0 0 0xFF 0)
      d ch (s.chan d ch).parityAt := by
  change execCommandParityFailure d ch 3 place s = _
  unfold execCommandParityFailure
  extract_lets x rowCmd same' reads' writes' x1 b x2 s0 fails s1 row s2 s3 again
  have hrow : rowCmd = true := rfl
  have hs : same' = same := by
    rw [hsame]
    exact funext fun q => if_pos hrow
  have hr : reads' = [] := by rw [← hreads, ← hs]; rfl
  have hw : writes' = [] := by rw [← hwrites, ← hs]; rfl
  have hx1 : x1 = { s.chan d ch with parityAt := some s.tclk } := by
    simp only [x1, hr, hw, List.contains_nil, Bool.not_false, List.filter_true]
    rfl
  clear_value x1 reads' writes'
  subst hr hw hx1
  have hs0 : s0 = s.setChan d ch (({ s.chan d ch with parityAt := some s.tclk }).setBank place
      { (s.chan d ch).bank place with row := none, debt := ((s.chan d ch).bank place).debt + 1 }) := by
    simp only [s0, x2, hrow, if_true]
    rfl
  have hs2 : s2 = s0.logDram d 5 (512 * ch + 2 ^ 17 * (place ^^^ row % 16) + 2 ^ 21 * row) 0 0 0 0 0xFF 0 := by
    simp only [s2, hrow, if_true, List.length_nil, Nat.add_zero, s1, List.foldl_nil]
  have hs3 : s3 = (((List.range 16).foldl (fun s b => s.idleRefresh d ch b) s2).drainMode d ch).admitWaiting d ch := rfl
  rw [hs2, hs0] at hs3
  rw [hs3]
  rfl

end

/-- Settles O18: the requests of the burst fail, and what follows is the same for every failure. -/
theorem parityFailureCompletes : Obligations.ParityFailureCompletes := by
  intro s u d ch place x same r reads writes rest hit hx
  subst hx
  refine ⟨fun hsame => ⟨fun hreads hwrites hcons hhit hu => ⟨fun hfirst => ?first, fun t ht hsoon => ?again⟩,
    fun hwrites hcons hfirst hu => ?write⟩, fun hsame hreads hwrites hfirst hu => ?refresh⟩
  case first =>
    subst hhit hu
    rw [parity_readBurst hsame hreads hwrites hcons, hfirst, parityEnds_first]
  case again =>
    subst hhit hu
    rw [parity_readBurst hsame hreads hwrites hcons, ht, parityEnds_again hsoon]
  case write =>
    subst hu
    rw [parity_writeBurst hsame hwrites hcons, hfirst, parityEnds_first]
  case refresh =>
    subst hu
    rw [parity_refresh hsame hreads hwrites, hfirst, parityEnds_first]

end Sys2Proof.Proofs
end

section
/-! What the events of cameras and Ethernet (O19) and of CAN, SPI, GPIO, GNSS and PWM (O20) leave, and the REGISTRY record (O21). -/
namespace Sys2Proof.Proofs
open Sys2Proof Sys2Proof.Machine Sys2Proof.Laws

set_option Elab.async false

variable {s : State} {n drained : Nat} {p : CsiPacket} {f : List Byte}

/-- Receiver `n` with its line buffer at `fill`. -/
def csiTaken (s : State) (n fill : Nat) : State :=
  { s with ports := { s.ports with csiStop := tset none s.ports.csiStop n none, csiFill := tset 0 s.ports.csiFill n fill } }

/-- A packet whose header is right and that the line buffer holds (R334). -/
theorem csiPacket_fits (hfits : tget 0 s.ports.csiFill n - drained + p.payload.length ≤ 524288) (hheader : p.header = 0) :
    exec (.csiPacket n p drained) s =
      let u := csiTaken s n (tget 0 s.ports.csiFill n - drained + p.payload.length)
      let v := match u.attached 1 (0x100 + n) p.vc with
        | some e => u.heard e
        | none => u
      if p.dtype = 0 then .next (v.startFrame n p.vc)
      else if p.dtype = 1 then .next (v.endFrame n p.vc false)
      else .next ((v.csiItem n p).csiPayload n p false) := by
  have hfull : ¬524288 < tget 0 s.ports.csiFill n - drained + p.payload.length := by omega
  have h02 : ¬((0 : Nat) = 2) := by decide
  have h01 : ¬((0 : Nat) = 1) := by decide
  change execCsiPacket n p drained s = _
  unfold execCsiPacket
  simp only [hheader, if_neg h02, if_neg h01, hfull, decide_false, Bool.false_eq_true, if_false]
  rfl

/-- Port `n` with its buffer at `fill`. -/
def ethTaken (s : State) (n left fill : Nat) : State :=
  { s with ports := { s.ports with ethFill := tset 0 (tset 0 s.ports.ethFill n left) n fill } }

/-- A frame that the MAC takes (R335). -/
theorem ethFrame_fits {sub : Nat} (hshort : 64 ≤ f.length) (hlong : f.length ≤ 9216)
    (hfits : tget 0 s.ports.ethFill n - drained + f.length ≤ 262144) :
    exec (.ethFrameReceive n f true sub drained) s =
      let u := ethTaken s n (tget 0 s.ports.ethFill n - drained) (tget 0 s.ports.ethFill n - drained + f.length)
      if isTimeMsg f then .next { u with ports := { u.ports with timeMsgs := u.ports.timeMsgs ++ [(n, f, u.ethCapture n sub)] } }
      else
        match u.attached 2 (0x200 + n) (ethKey f) with
        | some e =>
          let (v, ok) := (u.heard e).checkItem e (etherItem f) (u.now + 1)
          let t := u.ethCapture n sub
          .next (if ok then v.deliver e { capture := t / 10, sub := t % 10, bytes := etherBody f } else v.dropItem e)
        | none =>
          if u.ethSteady n then
            let v := u.attach 2 (0x200 + n) (ethKey f) 0
            match v.attached 2 (0x200 + n) (ethKey f) with
            | some e => .next (v.dropItem e)
            | none => .next v
          else .next u :=
  if_neg (by simp; omega)

/-- Settles O19: each event's one path under its conditions. -/
theorem nectarPortEventsComplete : Obligations.NectarPortEventsComplete := by
  intro s u n e t drained sub reason left p f v c
  refine ⟨fun hdrained hfits hheader hu => ⟨fun hatt => ⟨fun hstart => ?start, fun hend => ?frameEnd, fun hpayload => ?payload⟩,
    fun hatt hstart => ?startNew⟩, rfl, fun hshort hlong hleft hfits hu => ⟨fun htime => ?time, fun htime hatt hv hc => ?item,
      fun htime hatt hsteady hnew => ?attach⟩, rfl, rfl, fun hdue hu => ?detach⟩
  case detach =>
    subst hu
    change execPortDetach e reason s = _
    unfold execPortDetach
    rw [hdue]
    exact (apply_ite Host.Outcome.next _ _ _).symm
  case' start | frameEnd | payload | startNew =>
    have hu' : csiTaken s n (tget 0 s.ports.csiFill n - drained + p.payload.length) = u := hu.symm
    rw [csiPacket_fits hfits hheader, hu']
    dsimp only
    rw [hatt]
  case start => exact if_pos hstart
  case frameEnd => exact (if_neg (by omega)).trans (if_pos hend)
  case payload => exact (if_neg (by omega)).trans (if_neg (by omega))
  case startNew => exact if_pos hstart
  case' time | item | attach =>
    subst hleft
    have hnow : u.now = s.now := by rw [hu]; rfl
    have hcapture : u.ethCapture n sub = 10 * s.now + sub - s.rd (TIM_PHYDLY_RX.idx n) := by rw [hu]; rfl
    have hu' : ethTaken s n (tget 0 s.ports.ethFill n - drained) (tget 0 s.ports.ethFill n - drained + f.length) = u := hu.symm
    rw [ethFrame_fits hshort hlong hfits, hu']
    dsimp only
    rw [hcapture]
  case time => exact if_pos htime
  case item =>
    rw [if_neg (by simp [htime]), hatt, hc, hv, ← hnow]
  case attach =>
    rw [if_neg (by simp [htime]), hatt]
    dsimp only
    rw [if_pos hsteady, hnew]

/-- Settles O20: each event's one path under its conditions. -/
theorem controlPortEventsComplete : Obligations.ControlPortEventsComplete := by
  intro s u p n i cs dur e taken last sub ago rest f data rising b d v
  refine ⟨fun hcarries hroom hu => ?can, fun hnext => ?sent, fun hon hsilent => if_pos ⟨hon, hsilent⟩,
    fun hu => ⟨fun hatt => ?spi, fun hatt hv => ?spiItem⟩, rfl, fun hout hpol hedges hlast => ?gpio, fun l hl hu => ?gnss, fun hlatched => ?pwm⟩
  case can =>
    change execCanMessageReceive p f ⟨taken, ago⟩ s = _
    unfold execCanMessageReceive
    dsimp only
    rw [if_neg (by simp [hcarries]), if_neg (by omega), ← hu]
    exact (apply_ite Host.Outcome.next _ _ _).symm
  case sent =>
    change execCanFrameSent ⟨p, ago⟩ s = _
    unfold execCanFrameSent
    rw [hnext]
    rfl
  case spi =>
    change execSpiTransfer n cs dur data s = _
    unfold execSpiTransfer
    dsimp only
    rw [← hu, hatt]
  case spiItem =>
    change execSpiTransfer n cs dur data s = _
    unfold execSpiTransfer
    dsimp only
    rw [← hu, hatt]
    dsimp only
    rw [← hv]
  case gpio =>
    change execGpioEdge n rising s = _
    unfold execGpioEdge
    rw [if_neg (by simp [hout, hpol]), hedges]
    exact if_neg (by omega)
  case gnss =>
    change execGnssUartByte n b s = _
    unfold execGnssUartByte
    dsimp only
    rw [← hl, ← hu]
  case pwm =>
    change execPwmPeriodStart ⟨n, sub⟩ s = _
    unfold execPwmPeriodStart
    dsimp only
    rw [hlatched]

/-- A REGISTRY record of one mode that passes its checks (R345). -/
theorem registry_runs {d m : Nat} {r : Rec} {eff : State → Rec → State}
    (hpick : s.pickRec d 0x4F (fun x => bitsOf (field x.bytes 16 1) 0 2 == m || bitsOf (field x.bytes 16 1) 0 2 == 3) = some r)
    (hroom : s.cqRoom d (s.queue d) = true) (hchecks : (s.checks (s.queue d).cls (s.registryCheck r)).1 = 0) :
    s.registry d m eff = eff (s.runRec d r.seq) r :=
  runOp_picked hpick hroom hchecks

/-- Settles O21: the record of each mode runs. -/
theorem registryCommandsComplete : Obligations.RegistryCommandsComplete := by
  intro s d m e r hpick hroom hmode hchecks he
  subst he
  refine ⟨?_, ?_, ?_⟩
  · rintro rfl hidle
    change execRegistryRead d s = _
    rw [execRegistryRead, unlessStalled_unhindered hidle]
    exact congrArg fin (registry_runs hpick hroom hchecks)
  · rintro rfl
    exact congrArg fin (registry_runs hpick hroom hchecks)
  · rintro rfl
    exact congrArg fin (registry_runs hpick hroom hchecks)

end Sys2Proof.Proofs
end

section
/-! What the time base (O22) and the fusion engine (O23) leave. -/
namespace Sys2Proof.Proofs
open Sys2Proof Sys2Proof.Machine Sys2Proof.Laws

set_option Elab.async false

variable {s : State} {d op : Nat} {r : Rec}

/-- Settles O22: each event's one path under its conditions. -/
theorem timeCommandsComplete : Obligations.TimeCommandsComplete := by
  intro s u n gm pdelay t k offset rate adj step changed falling v
  refine ⟨fun hu hsrc hport hchanged => ?sync, fun hu hlocked hgnss => ?timeout, fun hexpiry hhold => ?expiry, fun hu hsrc hserve => ?transmit,
    fun hu hnot => ?noTransmit, rfl, fun hfalling hat => ?pps, fun hat => ?missing⟩
  case sync =>
    subst hu hchanged
    exact if_neg (not_or.2 ⟨hsrc, hport⟩)
  case timeout =>
    subst hu
    exact (if_pos hlocked).trans (if_neg (by simp [hgnss]))
  case expiry =>
    change execHoldoverExpiry s = _
    unfold execHoldoverExpiry
    rw [hexpiry]
    exact if_pos hhold
  case transmit =>
    subst hu
    exact if_pos ⟨hsrc, hserve⟩
  case noTransmit =>
    subst hu
    exact if_neg fun ⟨h1, h2⟩ => hnot.elim (· h1) (· h2)
  case pps =>
    change execPpsEdge falling none rate adj step s = _
    unfold execPpsEdge
    rw [if_neg (not_not.2 hfalling), hat]
    rfl
  case missing =>
    change execPpsMissing s = _
    unfold execPpsMissing
    rw [hat]

/-- The requests that the checks of a picked record make (R115). -/
theorem checkReads_picked {sel : Rec → Bool} {reads : State → Rec → State} (hpick : s.pickRec d op sel = some r)
    (hroom : s.cqRoom d (s.queue d) = true) : s.checkReads d op sel reads = reads s r := by
  unfold State.checkReads
  rw [hpick]
  exact if_pos hroom

/-- Settles O23: each command's one path under its conditions. -/
theorem fusionCommandsComplete : Obligations.FusionCommandsComplete := by
  intro s t u v d k seq j i st x c rest r b refine' corners
  refine ⟨fun hheld => ⟨fun hfind => ?lidar, fun hfind => ?camera, fun hfus hclosed hk hu hlate => ?close,
    fun hidle hfus hclosed hcoll hu hfind hcollect => ?output⟩, fun hidle hpick hroom ht h hu => ?collect, fun hclosed h hu => ?config,
    fun hidle hroom hpick ht hroom' hpick' hchecks hv hplace hidx hb hu => ?load, fun hroom hpick hchecks hslot hu => ?remove⟩
  case lidar =>
    refine (if_neg (by simp [hheld])).trans (congrArg Host.Outcome.next ?_)
    unfold State.takeNectar
    rw [hfind]
  case camera =>
    refine (if_neg (by simp [hheld])).trans (congrArg Host.Outcome.next ?_)
    unfold State.takeNectar
    rw [hfind]
  case close =>
    subst hk hu
    exact if_neg (by simp [hfus, hclosed]; omega)
  case output =>
    change execFusionOutputDone s = _
    rw [execFusionOutputDone, unlessStalled_unhindered hidle, hclosed]
    dsimp only
    rw [if_neg (by simp [hfus]), hcoll]
    dsimp only
    rw [← hu, hfind]
    dsimp only
    rw [hcollect]
    exact (apply_ite Host.Outcome.next _ _ _).symm
  case collect =>
    subst hu
    change execFuseCollect d s = _
    rw [execFuseCollect, unlessStalled_unhindered hidle, checkReads_picked hpick hroom, ← ht]
    exact congrArg fin (runOp_startable h)
  case config =>
    subst hu
    exact (if_neg (by simp [hclosed])).trans (congrArg fin (runOp_startable h))
  case load =>
    change execCalibLoad d s = _
    rw [execCalibLoad, unlessStalled_unhindered hidle, checkReads_picked hpick hroom, ← ht]
    refine congrArg fin ((runOp_picked hpick' hroom' hchecks).trans ?_)
    dsimp only
    rw [← hv, hplace, hidx]
    dsimp only
    rw [← hb, ← hu]
  case remove =>
    refine congrArg fin ((runOp_picked hpick hroom hchecks).trans ?_)
    dsimp only
    rw [hslot]
    dsimp only
    rw [← hu]

end Sys2Proof.Proofs
end

section
/-! What PLAN (O24) and the loads of the planner (O25) leave. -/
namespace Sys2Proof.Proofs
open Sys2Proof Sys2Proof.Machine Sys2Proof.Laws

set_option Elab.async false

/-- Settles O24: each command's one path under its conditions. -/
theorem planCommandsComplete : Obligations.PlanCommandsComplete := by
  intro s u v w y z d rejected c r rc run x cut o waves fits stop b hd
  refine ⟨fun h => ?plan, fun hnext => ?start, fun hrun hrec hheld hb hc => ⟨fun hout hx hcut hu hoc hstop => ?searchEnd,
    fun hidle hout hsamples hhd hheader hw hy hz => ?output⟩⟩
  case plan => exact congrArg fin (startReady_startable h)
  case start =>
    change execPlanStart s = _
    unfold execPlanStart
    rw [hnext]
    rfl
  case searchEnd =>
    change execPlanSearchEnd waves fits stop s = _
    unfold execPlanSearchEnd
    rw [hrun]
    dsimp only
    rw [hrec]
    dsimp only
    rw [if_neg (by simp [hout, hheld]), ← hb, ← hx, ← hcut, ← hu, ← hc, hoc]
    refine if_neg fun h => ?_
    rw [hstop h.1] at h
    exact Bool.noConfusion h.2
  case output =>
    change execPlanOutputDone s = _
    rw [execPlanOutputDone, unlessStalled_unhindered hidle, hrun]
    dsimp only
    rw [hout, hrec]
    dsimp only
    rw [if_neg (by simp [hheld]), ← hb, hsamples]
    dsimp only
    rw [if_neg (not_not.2 rfl), ← hhd, hheader]
    dsimp only
    rw [if_neg (not_not.2 rfl), ← hc, ← hw, ← hy, ← hz]
    rfl

/-- Settles O25: each command's one path under its conditions. -/
theorem loadCommandsComplete : Obligations.LoadCommandsComplete := by
  intro s u v d r l b bs hd who hidle
  refine ⟨fun h => ?occ, fun h => ?lib, fun hrec hb hload hv => ?occDone, fun hrec hb hwho hload hok hfits hrest => ?libDone⟩
  case occ =>
    change fin (s.startReady d 0x51 s.occCheck).takeLoad = _
    rw [startReady_startable h]
    rfl
  case lib =>
    change fin (s.startReady d 0x52 s.libCheck).takeLoad = _
    rw [startReady_startable h]
    rfl
  case occDone =>
    subst hb
    change execOccLoadDone s = _
    rw [execOccLoadDone, unlessStalled_unhindered hidle, hrec]
    dsimp only
    rw [hload]
    dsimp only
    rw [if_neg (not_not.2 rfl), ← hv]
    rfl
  case libDone =>
    subst hb hwho
    change execLibLoadDone s = _
    rw [execLibLoadDone, unlessStalled_unhindered hidle, hrec]
    dsimp only
    rw [hload]
    dsimp only
    have hbad : (if (0 : Nat) ≠ 0 then 0 else if libHeaderOk hd = false then E_CALIB
        else if u.objFits (field r.bytes 16 4) (64 * field r.bytes 20 4) (libBytes hd) = false then E_RANGE else 0) = 0 := by
      simp [hok, hfits]
    rw [if_neg (not_not.2 hbad), hrest]
    exact if_neg (not_not.2 rfl)

end Sys2Proof.Proofs
end

section
/-! What the control engine (O26) and the check-value units (O27) leave. -/
namespace Sys2Proof.Proofs
open Sys2Proof Sys2Proof.Machine Sys2Proof.Laws

set_option Elab.async false

variable {s u v : State} {d : Nat} {r : Rec}

/-- LOOP_SET that passes its checks (R410). -/
theorem loopSet_passes {n : Nat} {o : List Byte} (hroom : s.cqRoom d (s.queue d) = true) (hpick : s.pickRec d 0x60 (fun _ => true) = some r)
    (hcheck : (s.loopSetCheck r).1 = 0) (hn : n = bitsOf (field r.bytes 16 1) 0 5)
    (hload : s.objLoad (s.recWho d r 0x45) (field r.bytes 20 4) (64 * field r.bytes 24 4) 704 = (u, 0, o))
    (hobj : (u.checks 4 (u.loopObjCheck n o)).1 = 0) :
    s.loopSet d = (((u.runRec d r.seq).setLoop n { obj := o, ref := (field r.bytes 20 4 % 2 ^ 20, 64 * field r.bytes 24 4) }).wr
      (CTL_LOOP_STATE.bank n) loopDisabled).completeRec d r.seq 0 := by
  unfold State.loopSet
  rw [hpick]
  dsimp only
  rw [if_neg (by simp [hroom]), if_neg (not_not.2 hcheck), hload, ← hn]
  exact (if_neg (not_not.2 rfl)).trans (if_neg (not_not.2 hobj))

/-- TRAJ_LOAD that passes its checks (R414). -/
theorem trajLoad_passes {o bs : List Byte} (hroom : s.cqRoom d (s.queue d) = true) (hpick : s.pickRec d 0x62 (fun _ => true) = some r)
    (hobj : (s.objOf (field r.bytes 20 4)).isSome = true) (hfits : s.objFits (field r.bytes 20 4) (64 * field r.bytes 24 4) 64 = true)
    (hload : s.objLoad (s.recWho d r 0x45) (field r.bytes 20 4) (64 * field r.bytes 24 4) 64 = (u, 0, o)) (hlow : 2 ≤ trajN o)
    (hhigh : trajN o ≤ 1500) (hall : u.objFits (field r.bytes 20 4) (64 * field r.bytes 24 4) (64 + 32 * trajN o) = true)
    (hrest : u.objLoad (s.recWho d r 0x45) (field r.bytes 20 4) (64 * field r.bytes 24 4 + 64) (32 * trajN o) = (v, 0, bs))
    (hreserved : trajReservedOk (o ++ bs) = true) (hten : v.check10 4 = 0) :
    s.trajLoad d = ((v.runRec d r.seq).deliverTraj (bitsOf (field r.bytes 16 1) 0 2) (o ++ bs)).completeRec d r.seq 0 := by
  have hfirst : (firstField [((s.objOf (field r.bytes 20 4)).isSome, E_HANDLE, 20),
      (s.objFits (field r.bytes 20 4) (64 * field r.bytes 24 4) 64, E_RANGE, 24)]).1 = 0 := by
    simp only [firstField, hobj, hfits, if_true]
  have hsecond : (v.checks 4 (firstField [(trajReservedOk (o ++ bs), E_RESERVED, 20),
      (decide (2 ≤ trajN o ∧ trajN o ≤ 1500), E_RANGE, 20)])).1 = 0 :=
    checks_passed (by simp only [firstField, hreserved, hlow, hhigh, and_self, decide_true, if_true]) hten
  unfold State.trajLoad
  rw [hpick]
  dsimp only
  rw [if_neg (by simp [hroom]), if_neg (not_not.2 hfirst), hload]
  dsimp only
  rw [if_neg (not_not.2 rfl), if_neg (by simp [hall]), Nat.min_eq_left hhigh, hrest]
  exact (if_neg (not_not.2 rfl)).trans (if_neg (not_not.2 hsecond))

/-- Settles O26: each command's one path under its conditions. -/
theorem controlCommandsComplete : Obligations.ControlCommandsComplete := by
  intro s u v d n k t0 r o bs y hidle
  refine ⟨fun hroom hpick hcheck hn hload hobj => ?set, fun hroom hchecks hu => ⟨fun hpick => ?enable, fun hpick => ?disable, fun hpick => ?reset⟩,
    fun hroom hpick hobj hfits hload hlow hhigh hall hrest hreserved hten => ?traj,
    fun hon hlast hu => ⟨fun hsample hkept => ?onSample, fun hsample hnew hused => ?onPeriod⟩,
    fun hheld hengines hlow hrefused hnext hpick => ?evaluate⟩
  case set =>
    change execLoopSet d s = _
    rw [execLoopSet, unlessStalled_unhindered hidle]
    exact congrArg fin (loopSet_passes hroom hpick hcheck hn hload hobj)
  case enable =>
    subst hu
    exact congrArg fin (runOp_picked hpick hroom hchecks)
  case disable =>
    subst hu
    exact congrArg fin (runOp_picked hpick hroom hchecks)
  case reset =>
    subst hu
    exact congrArg fin (runOp_picked hpick hroom hchecks)
  case traj =>
    change execTrajLoad d s = _
    rw [execTrajLoad, unlessStalled_unhindered hidle]
    exact congrArg fin (trajLoad_passes hroom hpick hobj hfits hload hlow hhigh hall hrest hreserved hten)
  case onSample =>
    subst hu
    refine congrArg Host.Outcome.next ?_
    unfold State.periodTrigger
    dsimp only
    rw [if_neg (by simp [hon]), hlast]
    exact (if_pos hsample).trans (if_pos hkept)
  case onPeriod =>
    subst hu
    refine congrArg Host.Outcome.next ?_
    unfold State.periodTrigger
    dsimp only
    rw [if_neg (by simp [hon]), hlast]
    refine (if_neg (by simp [hsample])).trans (if_pos ?_)
    rw [hnew]
    simpa using fun h => hused h.symm
  case evaluate =>
    refine congrArg Host.Outcome.next ?_
    unfold State.evalNext
    rw [if_neg (by simp [hheld, hengines, hlow, hrefused]), hnext]
    dsimp only
    rw [hpick]

/-- Settles O27: each record's one path under its conditions. -/
theorem checkValueCommandsComplete : Obligations.CheckValueCommandsComplete := by
  intro s u v d n r bs p who crc hidle
  refine ⟨fun h hu hp => ?config, fun h => congrArg fin (runOp_startable h),
    fun hrun hheld hwho hp hload hcrc => ⟨fun hfinal => ?done, fun hfinal hdst hstore => ?doneFinal⟩,
    fun h hu hstore => ?save, fun h hu hload hparams hvalid => ?restore,
    fun hn hroom hchecks => ⟨fun hpick => ?verify, fun hpick => ?off⟩⟩
  case config =>
    subst hu hp
    exact congrArg fin (runOp_startable h)
  case done =>
    change execCvRunDone d s = _
    rw [execCvRunDone, unlessStalled_unhindered hidle, hrun]
    dsimp only
    rw [if_neg (by simp [hheld]), ← hwho, ← hp, hload]
    dsimp only
    rw [if_neg (not_not.2 rfl), ← hcrc, hfinal]
    rfl
  case doneFinal =>
    change execCvRunDone d s = _
    rw [execCvRunDone, unlessStalled_unhindered hidle, hrun]
    dsimp only
    rw [if_neg (by simp [hheld]), ← hwho, ← hp, hload]
    dsimp only
    have hwrites : ((1 == 1) = true ∧ field r.bytes 36 4 ≠ 0) := ⟨rfl, hdst⟩
    rw [if_neg (not_not.2 rfl), ← hcrc, hfinal, hstore]
    simp only [if_pos hwrites]
    rfl
  case save =>
    subst hu
    change execCvSave d s = _
    rw [execCvSave, unlessStalled_unhindered hidle]
    refine congrArg fin ((runOp_startable h).trans ?_)
    dsimp only
    rw [hstore]
    exact if_neg (not_not.2 rfl)
  case restore =>
    subst hu
    change execCvRestore d s = _
    rw [execCvRestore, unlessStalled_unhindered hidle]
    refine congrArg fin ((runOp_startable h).trans ?_)
    dsimp only
    rw [hload]
    exact (if_neg (not_not.2 rfl)).trans (if_neg (by simp [hparams]; omega))
  case verify =>
    subst hn
    exact congrArg fin (runOp_picked hpick hroom hchecks)
  case off =>
    subst hn
    exact congrArg fin (runOp_picked hpick hroom hchecks)

end Sys2Proof.Proofs
end

section
/-! What faults, tests and debug of the islands (O28) and the monitors (O29) leave. -/
namespace Sys2Proof.Proofs
open Sys2Proof Sys2Proof.Machine Sys2Proof.Laws

set_option Elab.async false

variable {s : State} {atA : Bool} {f : Island → Island}

/-- A debug action of an island in debug (R449). -/
theorem debugAct_on {needHalt : Bool} (hdebug : (s.island atA).debug = true) (hhalt : needHalt = false ∨ (s.island atA).debugHalted = true) :
    s.debugAct atA needHalt f = (s.modIsland atA f).draw 1 := if_pos ⟨hdebug, hhalt⟩

/-- A comparator test that runs in an island (R448). -/
theorem comparatorTestRun_runs {t : SafTest} {seen : List CmpSeen} {pause : Nat} (htest : s.saf.test = some t)
    (hisl : t.islands.getLsbD (if atA then 0 else 1) = true) (hfirst : atA = true ∨ t.islands.getLsbD 0 = false)
    (hruns : s.pairRuns atA = true) (hjoined : atA = true ∨ s.on SAF_ISL_STATUS_B_JOINED = true) (hrestarts : s.saf.restarts = []) :
    exec (.comparatorTestRun atA seen pause) s = match realMismatch seen with
      | some (g, x) => fin (((s.elapse (min pause 1250)).collectFault atA 1 (g % 64) x).testEnds atA)
      | none => fin (((s.elapse (min pause 1250)).recordTest atA (failedGroups seen)).testEnds atA) := by
  have hgo : ¬(t.islands.getLsbD (if atA then 0 else 1) = false ∨ (atA = false ∧ t.islands.getLsbD 0 = true) ∨ s.saf.restarts ≠ []) := by
    rintro (h | ⟨hB, h⟩ | h)
    · exact absurd (hisl.symm.trans h) (by decide)
    · rcases hfirst with hA | hzero
      · exact absurd (hA.symm.trans hB) (by decide)
      · exact absurd (h.symm.trans hzero) (by decide)
    · exact h hrestarts
  have hran : ¬(s.pairRuns atA = false ∨ (atA = false ∧ s.on SAF_ISL_STATUS_B_JOINED = false)) := by
    rintro (h | ⟨hB, h⟩)
    · exact absurd (hruns.symm.trans h) (by decide)
    · rcases hjoined with hA | hon
      · exact absurd (hA.symm.trans hB) (by decide)
      · exact absurd (hon.symm.trans h) (by decide)
  change execComparatorTestRun atA seen pause s = _
  unfold execComparatorTestRun
  rw [htest]
  exact (if_neg hgo).trans (if_neg hran)

/-- Settles O28: each event's one path under its conditions. -/
theorem islandCommandsComplete : Obligations.IslandCommandsComplete := by
  intro s u atA group syndrome n due addr r pause t seen v bs i
  refine ⟨fun hjoined hlink => ⟨fun hruns => ?faultA, ?faultB⟩, fun hon => ⟨fun hgroup hsyn hlow => ?mismatch, ?ue⟩, rfl, fun hpower hu => ?scrubB,
    fun htest hisl hfirst hruns hjoined hrestarts hu => ⟨fun hreal => ?testDone, fun hreal => ?testFault⟩,
    fun hstage hlow hjoined hdue hu hn => ?overdue, fun hdeny => ?debugA, fun hdeny hpower hu => ?debugB,
    fun hi hdebug => ⟨fun hhalted hu => ?halt, ?breakpoint, fun hhalted => ⟨fun hu => ?resume, ?step⟩, ?regRead, ?regWrite, fun hend => ?memRead,
      fun hend => ?memWrite⟩⟩
  case faultA => exact (if_neg (by simp [hjoined, hlink, hruns])).trans (if_pos rfl)
  case faultB => exact (if_neg (by simp [hjoined, hlink])).trans (if_neg (by simp))
  case mismatch => exact if_neg (by simp [hon, hsyn]; omega)
  case ue => exact if_neg (by simp [hon])
  case scrubB =>
    subst hu
    exact if_neg (by simp [hpower])
  case testDone =>
    rw [comparatorTestRun_runs htest hisl hfirst hruns hjoined hrestarts, hreal, hu]
    rfl
  case testFault =>
    rw [comparatorTestRun_runs htest hisl hfirst hruns hjoined hrestarts, hreal, hu]
    rfl
  case overdue =>
    subst hu hdue hn
    exact if_neg (by rcases hjoined with h | h <;> simp [hstage, hlow, h])
  case debugA => exact (if_neg (by simp [hdeny])).trans (if_pos rfl)
  case debugB =>
    subst hu
    exact (if_neg (by simp [hdeny, hpower])).trans (if_neg (by simp))
  case halt =>
    subst hi
    refine (if_neg (by simp [hhalted, State.debugOn, hdebug])).trans (congrArg Host.Outcome.next ?_)
    rw [debugAct_on hdebug (.inl rfl), ← hu]
  case breakpoint =>
    subst hi
    exact congrArg Host.Outcome.next (debugAct_on hdebug (.inl rfl))
  case resume =>
    subst hi
    refine (if_neg (by simp [hhalted, State.debugOn, hdebug])).trans (congrArg Host.Outcome.next ?_)
    rw [debugAct_on hdebug (.inr hhalted), ← hu]
  case step =>
    subst hi
    exact congrArg Host.Outcome.next (debugAct_on hdebug (.inr hhalted))
  case regRead =>
    subst hi
    exact congrArg Host.Outcome.next (debugAct_on hdebug (.inl rfl))
  case regWrite =>
    subst hi
    exact congrArg Host.Outcome.next (debugAct_on hdebug (.inl rfl))
  case memRead =>
    subst hi
    refine (if_neg (by omega)).trans (congrArg Host.Outcome.next ((debugAct_on hdebug (.inl rfl)).trans ?_))
    refine congrArg (fun f => (s.modIsland atA f).draw 1) (funext fun j => ?_)
    by_cases hhalted : j.debugHalted = true <;> simp [hhalted]
  case memWrite =>
    subst hi
    exact (if_neg (by omega)).trans (congrArg Host.Outcome.next (debugAct_on hdebug (.inl rfl)))

/-- Settles O29: each command's one path under its conditions. -/
theorem monitorCommandsComplete : Obligations.MonitorCommandsComplete := by
  intro s u island index type g d c n t x bs b upsets w q rs y ends p
  refine ⟨fun hruns hbusy hisl hidx hreach htype hsome => ⟨fun hbs hkind hres hfields hu => ?write, fun hcopies hvote => ?read⟩,
    fun hw hu => ?written, fun hu hp => ?scrub, fun hruns => ⟨fun hg hon harmed hu => ?guard, fun hd hon hints => ?deadline,
      fun hc hon => ⟨?copy, fun hold => ?lag⟩, fun hidle hrs hvote => ?resume⟩,
    fun hy hjoined hB hu => ?overrun, fun hlow hhigh => ⟨fun hstop hat => ?stopA, fun hstop hpower hat => ?stopB⟩⟩
  case write =>
    subst hbs hu hisl hidx htype
    exact (if_neg (by simp [hbusy, hruns])).trans ((if_neg (by simp [hreach])).trans (if_neg (by simp [hsome, hkind, hres, hfields])))
  case read =>
    subst hisl hidx htype
    change execConfigRecordRead s = _
    unfold execConfigRecordRead
    dsimp only
    rw [if_neg (by simp [hbusy, hruns]), if_neg (by simp [hreach]), if_neg hsome, if_neg hcopies, if_neg hcopies, hvote]
  case written =>
    change execConfigRecordWriteDone s = _
    unfold execConfigRecordWriteDone
    rw [hw, apply_ite Host.Outcome.next, hu]
    rfl
  case scrub =>
    subst hu hp
    rfl
  case guard =>
    subst hu
    exact (if_pos hg).trans (congrArg fin (if_pos ⟨hon, harmed, hruns⟩))
  case deadline =>
    refine (if_pos hd).trans (congrArg fin ?_)
    unfold State.expireInterval
    rw [hints]
    exact if_pos ⟨hon, hruns⟩
  case copy => exact if_pos hc
  case lag =>
    refine (if_pos hc).trans (congrArg fin ?_)
    unfold State.expireLag
    dsimp only
    rw [if_neg (by simp [hon, hruns]), hold]
  case resume =>
    change execFunctionRestartResume n s = _
    rw [execFunctionRestartResume, unlessStalled_unhindered hidle, hrs]
    exact if_pos ⟨hruns, hvote⟩
  case overrun =>
    subst hu
    change execRestartOverrun n s = _
    unfold execRestartOverrun
    rw [hy]
    exact if_neg (by simp [hjoined, hB])
  case stopA =>
    change execStopFrameRepeat true index s = _
    unfold execStopFrameRepeat
    dsimp only
    rw [if_pos rfl, hat]
    exact if_neg (by simp [hstop]; omega)
  case stopB =>
    change execStopFrameRepeat false index s = _
    unfold execStopFrameRepeat
    dsimp only
    rw [if_neg (by simp), hat]
    exact if_neg (by simp [hstop, hpower]; omega)

end Sys2Proof.Proofs
end

section
/-! What thermal management leaves (O30). -/
namespace Sys2Proof.Proofs
open Sys2Proof Sys2Proof.Machine Sys2Proof.Laws

set_option Elab.async false

variable {s : State} {avg lo hi e : Nat} {powers : List Nat}

/-- The resistance that a window gives where one domain alone has power and readings (R497). -/
theorem rthWindow_single (hready : s.on MBX_CTRL_READY = true) (hfresh : s.on THM_STATUS_COOLANT_STALE = false) (hspoilt : s.thm.spoilt = false)
    (havg : 150000 ≤ avg) (hlo : 9 * avg ≤ 10 * lo) (hhi : 10 * hi ≤ 11 * avg)
    (hone : ((List.range 6).filter fun k => (s.dom k).hasS && s.domainLives k) = [e]) (hpower : 0 < (powers[e]?).getD 0) :
    exec (.rthWindow avg lo hi powers) s = .next (s.modThm (fun t => { t with spoilt := false }) |>.useEstimate (min 0xFFFF
      ((((powers[e]?).getD 0 : Int) * toS16 (s.rd (THM_DIE_S.idx e)) - (powers[e]?).getD 0 * toS16 (s.rd THM_COOLANT_TEMP)) * 1000000
        / (16 * (powers[e]?).getD 0 * avg : Nat)).toNat)) := by
  change execRthWindow avg lo hi powers s = _
  unfold execRthWindow
  simp only [hone, hfresh, hspoilt, List.map_cons, List.map_nil, List.sum_cons, List.sum_nil, Nat.add_zero, Int.add_zero]
  rw [if_neg (by simp [hready]), if_neg (by simp [havg, hlo, hhi, hpower])]

/-- Settles O30: each command's one path under its conditions. -/
theorem thermalCommandsComplete : Obligations.ThermalCommandsComplete := by
  intro s u die t avg lo hi e temps rise sched fill powers v
  refine ⟨fun hdie hlen hheld hlives => ?sample, fun hlen hpower => ?uathal, fun hjoined hlink => ?report, fun hlen hready => ?forecast,
    fun hready hu => ?review, rfl, fun hready hfresh hspoilt havg hlo hhi he hone hpower =>
      rthWindow_single hready hfresh hspoilt havg hlo hhi hone hpower, fun hat => ?stale, rfl, fun hlow hmid hhigh => ?limits, fun hlow hhigh => ?ctl⟩
  case sample =>
    change execSensorSample die temps s = _
    unfold execSensorSample
    dsimp only
    rw [if_neg (not_or.2 ⟨by omega, not_not.2 hlen⟩), if_neg (by omega), if_neg (by simp [hheld, hlives])]
  case uathal => exact (if_neg (not_or.2 ⟨by omega, not_not.2 hlen⟩)).trans ((if_pos rfl).trans (congrArg _ (if_neg (by simp [hpower]))))
  case report => exact if_neg (by simp [hjoined, hlink])
  case forecast => exact if_neg (by simp [hlen, hready])
  case review =>
    subst hu
    exact if_neg (by simp [hready])
  case stale =>
    change execCoolantStale s = _
    unfold execCoolantStale
    rw [hat]
  case limits => exact congrArg Host.Outcome.next (if_pos ⟨hlow, hmid, hhigh⟩)
  case ctl => exact congrArg Host.Outcome.next (if_pos ⟨hlow, hhigh⟩)

end Sys2Proof.Proofs
end

section
/-! What the swarm ports (O31) and swarm traffic (O32) leave. -/
namespace Sys2Proof.Proofs
open Sys2Proof Sys2Proof.Machine Sys2Proof.Laws

set_option Elab.async false

variable {s u : State} {n type : Nat} {f : List Byte}

/-- A flit of its type that a live port takes in sequence (R501). -/
theorem swControl_taken {act : State → State} (hlive : s.swLive n = true) (htype : flitType f = type) (htake : s.swTake n f = (u, true)) :
    s.swControl n type f act = act u := by
  unfold State.swControl
  rw [if_neg (by simp [hlive, htype]), htake]
  rfl

/-- A message of the handshake of its type (R503). -/
theorem swMessage_taken {act : State → WaggleMsg → State} (hlive : s.swLive n = true) (hflit : flitType f = 1) (htake : s.swTake n f = (u, true))
    (hok : wOk ((flitPay f).take 32) = true) (htype : wType ((flitPay f).take 32) = type) (hnak : type ≠ 0xF) :
    s.swMessage n type f act = act u ((flitPay f).take 32) := by
  refine (swControl_taken hlive hflit htake).trans ?_
  dsimp only
  rw [if_neg (by simp [hok]), if_neg (by rwa [htype]), if_pos htype]

/-- Settles O31: each command's one path under its conditions. -/
theorem swarmPortCommandsComplete : Obligations.SwarmPortCommandsComplete := by
  intro s u n slow swarm v f m
  refine ⟨fun hn hoff => ?enable, fun hn hon => ?disable, fun hoff => congrArg Host.Outcome.next (if_neg (by simp [hoff])),
    fun hn hstate hu => ?trained, fun hlive hok hflit htake => ⟨fun hm hwag hstate => ⟨fun htype => ?hello, fun htype => ?done, fun htype => ?reject⟩,
      fun hzero hstate => ?advert⟩, fun hjoined => if_neg hjoined, fun hn hretrain => ⟨fun hsoon hreplay => ?retrained, ?retrainLate⟩,
    fun hlive hretrain => if_neg (by simp [hlive, hretrain]), fun hn hawaits => ?retry⟩
  case enable => exact (if_neg (by omega)).trans (congrArg Host.Outcome.next (if_neg (by simp [hoff])))
  case disable => exact (if_neg (by omega)).trans (congrArg fin (if_pos hon))
  case trained =>
    subst hu
    exact if_neg (by simp [hstate]; omega)
  case hello =>
    subst hm
    exact congrArg Host.Outcome.next ((swMessage_taken hlive hflit htake hwag htype (by decide)).trans (if_pos hstate))
  case done =>
    subst hm
    exact congrArg fin (swMessage_taken hlive hflit htake hwag htype (by decide))
  case reject =>
    subst hm
    exact congrArg Host.Outcome.next ((swMessage_taken hlive hflit htake hwag htype (by decide)).trans (if_pos hstate))
  case advert => exact congrArg fin ((swControl_taken hlive hflit htake).trans (if_pos ⟨hzero, hstate⟩))
  case retrained =>
    change execSwarmRetrainDone n s = _
    unfold execSwarmRetrainDone
    dsimp only
    rw [if_neg (by simp [hretrain]; omega), hreplay]
  case retrainLate => exact if_neg (by simp [hretrain]; omega)
  case retry =>
    change execWaggleReplyTimeout (10 + n) s = _
    unfold execWaggleReplyTimeout
    rw [if_pos (by omega), if_pos (by omega), Nat.add_sub_cancel_left]
    exact congrArg Host.Outcome.next (if_neg (by simp [hawaits]))

/-- Settles O32: each command's one path under its conditions. -/
theorem swarmTrafficCompletes : Obligations.SwarmTrafficCompletes := by
  intro s u w n d port hops f bs r v check
  refine ⟨fun hlive hok htake hstate => ⟨fun hidle htype => ?request, fun htype => ?response⟩, fun hlive hok htype hretrain => ?ack,
    fun hidle h hu hroute hload => ?copy, fun hcheck h => ?signal, fun hn hon hu => ?exported⟩
  case request =>
    change execSwarmRequestFlit n f s = _
    rw [execSwarmRequestFlit, unlessStalled_unhindered hidle]
    exact congrArg fin ((swControl_taken hlive htype htake).trans (if_pos hstate))
  case response => exact congrArg fin ((swControl_taken hlive htype htake).trans (if_pos hstate))
  case ack => exact (if_neg (by simp [hlive])).trans ((if_neg (by simp [hok])).trans (if_neg (by simp [htype, hretrain])))
  case copy =>
    subst hu
    change execSwarmCopy d s = _
    rw [execSwarmCopy, unlessStalled_unhindered hidle]
    refine congrArg fin ((runOp_startable h).trans ?_)
    dsimp only
    rw [hload]
    exact if_neg (not_not.2 rfl)
  case signal =>
    subst hcheck
    exact congrArg fin (runOp_startable h)
  case exported =>
    subst hn hu
    exact congrArg Host.Outcome.next (if_neg (by simp [hon]))

end Sys2Proof.Proofs
end
